-- ==== Sys2Proof/Word.lean ====
section
/-!
DEFINITION. The word types of the Berenane B9 and their plainest arithmetic (R3, R6, R7): bytes, 64-bit scalar words,
512-byte vector registers, 256-bit predicate registers, and the shape of a finite map kept as plain data.
-/
namespace Sys2Proof

/-- One byte of memory (R6). -/
abbrev Byte := BitVec 8

/-- A scalar register, an instruction word or a doubleword of memory (R7, R83). -/
abbrev Word := BitVec 64

/-- A vector register: 512 bytes, byte 0 in bits 7-0 (R178). -/
abbrev VecReg := BitVec 4096

/-- A predicate register: one bit for each 2-byte granule (R178). -/
abbrev PredReg := BitVec 256

/-- A finite map as plain data: keys strictly rising, absent keys read as a default that the reader names. -/
abbrev FMap (α : Type) := List (Nat × α)

/-- The two streams of a crew (R22). -/
inductive Stream where
  | s
  | v
deriving DecidableEq, Repr

end Sys2Proof
end

