-- ==== Sys2Proof/Config.lean ====
section
/-!
DEFINITION. What an implementation of the B9 fixes, and the free values: what the manual calls undefined (R10),
unpredictable, or leaves to another party. A free value has no body, so no proof can see what it is; the step hands it a
fresh number from State.free, or the operands it depends on.
-/
namespace Sys2Proof.Config

/-- The n-th undefined doubleword (R10, R115, R119). -/
opaque freeWord : Nat → Word
/-- The n-th undefined vector register (R10, R22). -/
opaque freeVec : Nat → VecReg
/-- The n-th undefined predicate register (R10, R115). -/
opaque freePred : Nat → PredReg
/-- The n-th choice between two allowed outcomes (R10). -/
opaque freeBit : Nat → Bool
/-- The n-th choice among allowed values of one sector (R279), or of one entry that may be kept (R77). -/
opaque freeChoice (n key : Nat) : Nat
/-- Byte `address` of storage whose contents became undefined at moment `epoch` (R247). -/
opaque freeByte (epoch address : Nat) : Byte
/-- Cell `index` of an accumulator bank whose contents became undefined at moment `epoch` (R247). -/
opaque freeCell (epoch index : Nat) : BitVec 32
/-- What the ECC code makes of errors in three or more symbols of a sector (R282): none where it detects them, else the data bits
that it delivers wrongly, and whether it counts a correction. -/
opaque eccBeyond (error : BitVec 272) : Option (BitVec 256 × Bool)
/-- SM3 of a message (R423, R424); the manual names the function and does not define it. -/
opaque sm3 (message : List Byte) : BitVec 256
/-- The SM2 signature of a digest under the package's private key (R423, R424). -/
opaque sm2Sign (digest : BitVec 256) : BitVec 512
/-- The SM3 digest of the firmware image in force (Table 15.7). -/
opaque firmwareDigest : BitVec 256
/-- The SM3 digest of the slot tables, routes and MSH in force (Table 15.7); the manual gives no encoding of them. -/
opaque configDigest (tables routes : List Word) (msh : Word) : BitVec 256
/-- The operation code that carries an access to lent memory for which Table 13.2 lists none (R80, log 18). -/
opaque lentCode : Nat
/-- What the boot loads for a Reeve: the SPC, VPC, FRAME and ARG of its handler's docket (R383); firmware's own. -/
opaque reeveDocket (cluster field : Nat) : Word

/-- That code: none that Table 13.2 lists, and no response's. -/
def lentOpc : Nat := 0x20 + lentCode % 0x60

/-- Dockets that the backing store holds (R50). -/
def storeCapacity : Nat := 0x1000000
/-- Clusters of the compute die (R55). -/
def clusters : Nat := 8
/-- Cores of the compute die (R55). -/
def cores : Nat := 64
/-- Benches of the cores, numbered core × 16 + bench (R55); a Reeve is bench 1,024 + cluster of the model. -/
def benches : Nat := 1024
/-- Mills, one per pseudo-channel (R271). -/
def mills : Nat := 512
/-- Bytes of one pseudo-channel (R72). -/
def channelBytes : Nat := 0x30000000
/-- Bytes of local HBM (R71). -/
def hbmBytes : Nat := 0x6000000000
/-- Base of the bank-linear window (R71). -/
def linearBase : Nat := 0x100000000000
/-- Entries of a race filter (R339). -/
def raceFilterEntries : Nat := 4096
/-- Entries of a router's combining table (R373). -/
def combiningEntries : Nat := 4096
/-- Leases a package holds across both roles (R378). -/
def maxLeases : Nat := 256
/-- The data queue and the branch-outcome queue (R120). -/
def dataQueueEntries : Nat := 16
def branchQueueEntries : Nat := 32

end Sys2Proof.Config
end

