-- ==== Sys2Proof/Syntax.lean ====
section
/-!
DEFINITION. The instructions: one constructor for each row of spec/opcode_table.json. The 64-bit stream words carry the
fields of their format (Tables 04.1 to 04.6a), the 32-bit Mill words the fields of Table 11.2, the command records the
fields of Table 02.2, and each operation or event of the device the unit it strikes.
-/
namespace Sys2Proof

/-- Format A without its major and minor (Table 04.1). -/
structure FmtA where
  gap : BitVec 10
  rd : BitVec 6
  ra : BitVec 6
  la : Bool
  rb : BitVec 6
  lb : Bool
  rc : BitVec 6
  lc : Bool
  pred : BitVec 4
  pn : Bool
  ty : BitVec 4
  mod : BitVec 6
deriving DecidableEq, Repr

/-- Format I (Table 04.2). -/
structure FmtI where
  gap : BitVec 10
  rd : BitVec 6
  ra : BitVec 6
  la : Bool
  pred : BitVec 4
  imm : BitVec 30
deriving DecidableEq, Repr

/-- The branch layout of format B (Table 04.3). -/
structure FmtB where
  gap : BitVec 10
  ra : BitVec 6
  la : Bool
  off : BitVec 40
deriving DecidableEq, Repr

/-- The loop layout of format B with a register count: LOOP (Table 04.3). -/
structure FmtLoop where
  gap : BitVec 10
  ra : BitVec 6
  la : Bool
  last : BitVec 24
deriving DecidableEq, Repr

/-- The loop layout of format B with an immediate count: LOOPI (Table 04.3). -/
structure FmtLoopI where
  gap : BitVec 10
  count : BitVec 23
  last : BitVec 24
deriving DecidableEq, Repr

/-- Format L (Table 04.4). -/
structure FmtL where
  gap : BitVec 10
  rd : BitVec 6
  imm : BitVec 40
deriving DecidableEq, Repr

/-- Format M without SZ and ZX, which the form gives (Table 04.5). -/
structure FmtM where
  gap : BitVec 10
  rd : BitVec 6
  ld : Bool
  ra : BitVec 6
  la : Bool
  off : BitVec 22
  ord : BitVec 3
  pred : BitVec 4
  pn : Bool
deriving DecidableEq, Repr

/-- Format C without its minor (Table 04.6a). -/
structure FmtC where
  gap : BitVec 10
  ra : BitVec 6
  la : Bool
  rb : BitVec 6
  lb : Bool
  sw : BitVec 6
  wv : Bool
  ss : BitVec 6
  sv : Bool
  cimm : BitVec 14
deriving DecidableEq, Repr

/-- The fields of a command record beside its OPC (Table 02.2). -/
structure Cmd where
  tag : BitVec 32
  lvl : BitVec 3
  am : Bool
  pg : Bool
  ids : Word
  addr0 : BitVec 48
  cnt : BitVec 32
  astep : Word
  addr1 : BitVec 48
  addr2 : BitVec 48
deriving DecidableEq, Repr

/-- The four units of a core's matrix engine (R251). -/
inductive MatrixUnit where
  | control
  | loader
  | array
  | retirer
deriving DecidableEq, Repr

/-- A flit as it lies on a link: 640 bytes, byte 0 in bits 7-0 (R352). -/
abbrev Flit := BitVec 5120

/-- What the boot of a package finds: the Clerk's verdicts and the fabric configuration, which are given from outside the
model (R60, R420, R421, R423). -/
structure BootOutcome where
  signatureOk : Bool
  node : BitVec 19
  frame : Word
  full : Bool
  forced : Bool
  failStep : BitVec 2
  coredis : Word
  spfree : BitVec 16
  hbmfree : BitVec 32
  used : BitVec 16
  routes : List (Nat × Nat)
deriving DecidableEq, Repr

/-- Every row of spec/opcode_table.json: the commands of the control node, the events of the device, the words of the two
streams and the words of a Mill. -/
inductive Instr where
  /-- NOP (R98). Occupies its issue slot and honours its GAP with no other effect. -/
  | nop (o : FmtA)
  /-- BRK (R400). Traps with BRK as a precise cause in either stream. -/
  | brk (gap : BitVec 10) (data : BitVec 47)
  /-- BR (R124). Unconditional relative branch. -/
  | br (o : FmtB)
  /-- BRC (R124). Branch when bit 0 of the predicate is 1. -/
  | brc (o : FmtB)
  /-- JMP (R124). Branch to a register plus offset. -/
  | jmp (o : FmtB)
  /-- CALL (R124). Relative branch that writes the link register. -/
  | call (o : FmtB)
  /-- RET (R124). Branch to the link register. -/
  | ret (o : FmtB)
  /-- BRQ (R124). Pops the branch-outcome queue and branches when the bit is 1. -/
  | brq (o : FmtB)
  /-- LOOP (R126). Sets up a hardware loop whose count is a register. -/
  | loop (o : FmtLoop)
  /-- LOOPI (R126). Sets up a hardware loop with an immediate count. -/
  | loopi (o : FmtLoopI)
  /-- QPUSH (R123). Pushes a register, or its bit 0 with .b, to the S-to-V data or branch-outcome queue. -/
  | qpush (o : FmtA)
  /-- RVZ (R113). Rendezvous of the two streams at a common count. -/
  | rvz (o : FmtA)
  /-- EXIT (R131). Ends the stream and removes its loops. -/
  | exit (o : FmtA)
  /-- SPAWN (R132). Creates a docket from 64 bytes in memory and returns a status. -/
  | spawn (o : FmtA)
  /-- JOINDEC (R133). Atomic release decrement of a doubleword, returning the old value. -/
  | joindec (o : FmtA)
  /-- WAITC (R134). Waits until a counter is at or below a bound, with acquire ordering. -/
  | waitc (o : FmtA)
  /-- CANCEL (R135). Requests cancellation of a level and returns a status. -/
  | cancel (o : FmtA)
  /-- ADD (R137). 64-bit addition. -/
  | add (o : FmtA)
  /-- SUB (R137). 64-bit subtraction. -/
  | sub (o : FmtA)
  /-- AND (R137). Bitwise and. -/
  | and (o : FmtA)
  /-- OR (R137). Bitwise or. -/
  | or (o : FmtA)
  /-- XOR (R137). Bitwise exclusive or. -/
  | xor (o : FmtA)
  /-- ANDN (R137). xA and not xB. -/
  | andn (o : FmtA)
  /-- SHL (R137). Shift left. -/
  | shl (o : FmtA)
  /-- SHR (R137). Logical shift right. -/
  | shr (o : FmtA)
  /-- SRA (R137). Arithmetic shift right. -/
  | sra (o : FmtA)
  /-- ROT (R137). Rotate left. -/
  | rot (o : FmtA)
  /-- MIN (R137). Signed minimum. -/
  | min (o : FmtA)
  /-- MAX (R137). Signed maximum. -/
  | max (o : FmtA)
  /-- MINZ (R137). Unsigned minimum. -/
  | minz (o : FmtA)
  /-- MAXZ (R137). Unsigned maximum. -/
  | maxz (o : FmtA)
  /-- SEL (R137). Selects xA or xB by a predicate. -/
  | sel (o : FmtA)
  /-- CLZ (R137). Counts leading zero bits. -/
  | clz (o : FmtA)
  /-- CTZ (R137). Counts trailing zero bits. -/
  | ctz (o : FmtA)
  /-- POPC (R137). Counts one bits. -/
  | popc (o : FmtA)
  /-- BSWAP (R137). Reverses byte order. -/
  | bswap (o : FmtA)
  /-- MUL (R138). Low 64 bits of the product. -/
  | mul (o : FmtA)
  /-- MULH (R138). High 64 bits of the signed product. -/
  | mulh (o : FmtA)
  /-- MULHZ (R138). High 64 bits of the unsigned product. -/
  | mulhz (o : FmtA)
  /-- DIV (R138). Signed division. -/
  | div (o : FmtA)
  /-- DIVZ (R138). Unsigned division. -/
  | divz (o : FmtA)
  /-- REM (R138). Signed remainder. -/
  | rem (o : FmtA)
  /-- REMZ (R138). Unsigned remainder. -/
  | remz (o : FmtA)
  /-- CMP (R139). Compares two scalars and writes every bit of a predicate. -/
  | cmp (k : BitVec 5) (o : FmtA)
  /-- BFX (R140). Extracts a bit field. -/
  | bfx (o : FmtA)
  /-- BFI (R140). Inserts a bit field. -/
  | bfi (o : FmtA)
  /-- PFXH (R141). One step of the prefix hash. -/
  | pfxh (o : FmtA)
  /-- ADDI (R142). Adds a sign-extended immediate. -/
  | addi (o : FmtI)
  /-- ANDI (R142). Ands a sign-extended immediate. -/
  | andi (o : FmtI)
  /-- ORI (R142). Ors a zero-extended immediate. -/
  | ori (o : FmtI)
  /-- LI (R143). Loads a sign-extended 40-bit immediate. -/
  | li (o : FmtL)
  /-- LIH (R143). Sets bits 63-40 of a register. -/
  | lih (o : FmtL)
  /-- LDB (R145). Loads a sign-extended byte. -/
  | ldb (o : FmtM)
  /-- LDBZ (R145). Loads a zero-extended byte. -/
  | ldbz (o : FmtM)
  /-- LDH (R145). Loads a sign-extended half. -/
  | ldh (o : FmtM)
  /-- LDHZ (R145). Loads a zero-extended half. -/
  | ldhz (o : FmtM)
  /-- LDW (R145). Loads a sign-extended word. -/
  | ldw (o : FmtM)
  /-- LDWZ (R145). Loads a zero-extended word. -/
  | ldwz (o : FmtM)
  /-- LDD (R145). Loads a doubleword. -/
  | ldd (o : FmtM)
  /-- STB (R146). Stores a byte. -/
  | stb (o : FmtM)
  /-- STH (R146). Stores a half. -/
  | sth (o : FmtM)
  /-- STW (R146). Stores a word. -/
  | stw (o : FmtM)
  /-- STD (R146). Stores a doubleword. -/
  | std (o : FmtM)
  /-- LDS (R148). Speculative doubleword load that poisons its destination instead of faulting. -/
  | lds (o : FmtM)
  /-- CHK (R150). Traps with POISON when the register carries a poison tag. -/
  | chk (o : FmtA)
  /-- VLD (R200). Loads bytes from a tile region into a vector register. -/
  | vld (sz : BitVec 2) (o : FmtM)
  /-- VST (R200). Stores bytes of a vector register into a tile region. -/
  | vst (sz : BitVec 2) (o : FmtM)
  /-- VADD (R187). Element-wise addition. -/
  | vadd (o : FmtA)
  /-- VSUB (R187). Element-wise subtraction. -/
  | vsub (o : FmtA)
  /-- VMUL (R187). Element-wise multiplication. -/
  | vmul (o : FmtA)
  /-- VMIN (R187). Element-wise minimum. -/
  | vmin (o : FmtA)
  /-- VMAX (R187). Element-wise maximum. -/
  | vmax (o : FmtA)
  /-- VABS (R186). Element-wise absolute value. -/
  | vabs (o : FmtA)
  /-- VNEG (R186). Element-wise negation. -/
  | vneg (o : FmtA)
  /-- VABD (R186). Element-wise absolute difference. -/
  | vabd (o : FmtA)
  /-- VMULH (R186). High half of integer element products. -/
  | vmulh (o : FmtA)
  /-- VFMA (R188). Fused multiply-add. -/
  | vfma (o : FmtA)
  /-- VFMS (R188). Fused multiply-subtract. -/
  | vfms (o : FmtA)
  /-- VFNMA (R188). Fused negated multiply-add. -/
  | vfnma (o : FmtA)
  /-- VFNMS (R188). Fused negated multiply-subtract. -/
  | vfnms (o : FmtA)
  /-- VAND (R189). Bitwise and of vectors. -/
  | vand (o : FmtA)
  /-- VOR (R189). Bitwise or of vectors. -/
  | vor (o : FmtA)
  /-- VXOR (R189). Bitwise exclusive or of vectors. -/
  | vxor (o : FmtA)
  /-- VANDN (R189). vA and not vB. -/
  | vandn (o : FmtA)
  /-- VNOT (R189). Bitwise not. -/
  | vnot (o : FmtA)
  /-- VSHL (R189). Element shift left. -/
  | vshl (o : FmtA)
  /-- VSHR (R189). Element logical shift right. -/
  | vshr (o : FmtA)
  /-- VSRA (R189). Element arithmetic shift right. -/
  | vsra (o : FmtA)
  /-- VROT (R189). Element rotate left. -/
  | vrot (o : FmtA)
  /-- VCMP (R190). Element compare writing predicate granule bits. -/
  | vcmp (k : BitVec 5) (o : FmtA)
  /-- VSEL (R191). Selects elements by a predicate. -/
  | vsel (o : FmtA)
  /-- VCVT (R192). Converts elements between types. -/
  | vcvt (k : BitVec 5) (o : FmtA)
  /-- VWMUL (R193). Widening element multiplication into a register pair. -/
  | vwmul (o : FmtA)
  /-- VDOT (R194). Short dot products accumulated into 32-bit elements. -/
  | vdot (o : FmtA)
  /-- VRED (R195). Tree reduction of a vector to one element. -/
  | vred (k : BitVec 5) (o : FmtA)
  /-- VREDX (R196). Finds the extreme active element and its index. -/
  | vredx (k : BitVec 5) (o : FmtA)
  /-- VSCAN (R197). Inclusive scan in ascending element order. -/
  | vscan (k : BitVec 5) (o : FmtA)
  /-- VPERM (R198). Byte permute within each 256-byte half. -/
  | vperm (o : FmtA)
  /-- VSHUF (R199). Element shuffle by index vector. -/
  | vshuf (o : FmtA)
  /-- VBCAST (R199). Broadcasts one element. -/
  | vbcast (o : FmtA)
  /-- VXLANE (R199). Shifts elements across lanes by a signed amount. -/
  | vxlane (o : FmtA)
  /-- VGATH (R202). Gathers region elements by index. -/
  | vgath (o : FmtA)
  /-- VSCAT (R203). Scatters elements into a region by index. -/
  | vscat (o : FmtA)
  /-- VSCATADD (R204). Atomically adds elements into a region by index. -/
  | vscatadd (o : FmtA)
  /-- VGATHQ (R202). Gathers region elements by offsets popped from the Gleaner queue. -/
  | vgathq (o : FmtA)
  /-- VQNT (R206). Quantises BF16 elements with block or group scales. -/
  | vqnt (o : FmtA)
  /-- VDEQ (R207). Dequantises scaled elements into BF16. -/
  | vdeq (o : FmtA)
  /-- VMOVS_TO_VECTOR (R208). Writes a scalar into every active element. -/
  | vmovsToVector (o : FmtA)
  /-- VMOVS_TO_SCALAR (R208). Moves one vector element to a scalar register. -/
  | vmovsToScalar (o : FmtA)
  /-- VMOVS_DQ (R208). Pops the S-to-V data queue into a scalar register. -/
  | vmovsDq (o : FmtA)
  /-- PAND (R209). Predicate and. -/
  | pand (o : FmtA)
  /-- POR (R209). Predicate or. -/
  | por (o : FmtA)
  /-- PXOR (R209). Predicate exclusive or. -/
  | pxor (o : FmtA)
  /-- PNOT (R209). Predicate not. -/
  | pnot (o : FmtA)
  /-- PMOV (R209). Predicate move. -/
  | pmov (o : FmtA)
  /-- PSET (R210). Sets the first m predicate bits. -/
  | pset (o : FmtI)
  /-- PCNT (R211). Counts active predicate bits or elements. -/
  | pcnt (o : FmtA)
  /-- PFIRST (R211). Finds the lowest active predicate bit or element. -/
  | pfirst (o : FmtA)
  /-- VRCPA (R171). Bit-exact approximate reciprocal. -/
  | vrcpa (o : FmtA)
  /-- VRSQA (R172). Bit-exact approximate reciprocal square root. -/
  | vrsqa (o : FmtA)
  /-- VSQRT (R173). Correctly rounded square root. -/
  | vsqrt (o : FmtA)
  /-- VEXP2 (R173). Correctly rounded 2^x. -/
  | vexp2 (o : FmtA)
  /-- VLOG2 (R173). Correctly rounded log2 x. -/
  | vlog2 (o : FmtA)
  /-- VSINT (R174). Sine of a fraction of a turn. -/
  | vsint (o : FmtA)
  /-- VCOST (R174). Cosine of a fraction of a turn. -/
  | vcost (o : FmtA)
  /-- VRNG (R177). Fills a vector with BCG-128 random words. -/
  | vrng (o : FmtA)
  /-- TLD (R230). Queues a tile load from a tensor descriptor into a region. -/
  | tld (o : FmtC)
  /-- TST (R230). Queues a tile store of a region through a tensor descriptor. -/
  | tst (o : FmtC)
  /-- TMOV (R231). Queues a region-to-region copy. -/
  | tmov (o : FmtC)
  /-- TCOPY2D (R232). Queues a list of strided 2-D copy records. -/
  | tcopy2d (o : FmtC)
  /-- CLIST (R233). Queues a list of contiguous copy entries. -/
  | clist (o : FmtC)
  /-- TROPE (R234). Queues a key load with rotary position encoding. -/
  | trope (o : FmtC)
  /-- CBINIT (R235). Makes a tile register a circular buffer. -/
  | cbinit (o : FmtA)
  /-- CBWAIT (R237). Waits until the crew holds a buffer slot and returns FILL or FREE. -/
  | cbwait (o : FmtA)
  /-- CBDONE (R238). Releases the crew's current buffer slot. -/
  | cbdone (o : FmtA)
  /-- GLCFG (R242). Configures the bench's Gleaner decoder. -/
  | glcfg (o : FmtC)
  /-- GLGO (R243). Reserves N Gleaner offset-queue entries to be filled by the decoder. -/
  | glgo (o : FmtC)
  /-- MCFG (R265). Queues a write of one shadow-table row. -/
  | mcfg (o : FmtC)
  /-- MGO (R266). Queues a run of the six-level loop nest on the array. -/
  | mgo (o : FmtC)
  /-- MCLAIM (R267). Opens the crew's claim set on slots and banks. -/
  | mclaim (o : FmtC)
  /-- MREL (R267). Closes and releases the crew's claim set. -/
  | mrel (o : FmtC)
  /-- MLDO (R268). Queues a load of a slot or scale area from a region. -/
  | mldo (o : FmtC)
  /-- MRET (R269). Queues retirement of an accumulator bank into a region. -/
  | mret (o : FmtC)
  /-- MCELL (R270). Sets the cell-operation pattern. -/
  | mcell (o : FmtC)
  /-- BQCMD (R288). Queues a Mill kernel command from a bank-queue record. -/
  | bqcmd (o : FmtC)
  /-- BQLOAD (R290). Queues a copy of kernel code into stacks' code stores. -/
  | bqload (o : FmtC)
  /-- WINFENCE (R291). Queues a fence that orders accesses between the two physical windows. -/
  | winfence (o : FmtC)
  /-- SEMINIT (R344). Sets a core semaphore's count. -/
  | seminit (o : FmtA)
  /-- SEMSIG (R344). Issues a signal adding to a core semaphore. -/
  | semsig (o : FmtA)
  /-- SEMWAIT (R344). Waits on and consumes one count of a core semaphore. -/
  | semwait (o : FmtA)
  /-- MSEMSIG (R346). Release add to a 64-bit memory semaphore. -/
  | msemsig (o : FmtA)
  /-- MSEMWAIT (R346). Acquire wait and decrement of a memory semaphore. -/
  | msemwait (o : FmtA)
  /-- FENCE (R347). Orders the crew's accesses at the scope of xA's page. -/
  | fence (o : FmtA)
  /-- FENCE_ALL (R347). Orders the crew's accesses at FABRIC scope. -/
  | fenceAll (o : FmtA)
  /-- AADD (R349). Atomic add. -/
  | aadd (o : FmtA)
  /-- AMIN (R349). Atomic minimum. -/
  | amin (o : FmtA)
  /-- AMAX (R349). Atomic maximum. -/
  | amax (o : FmtA)
  /-- AAND (R349). Atomic and. -/
  | aand (o : FmtA)
  /-- AOR (R349). Atomic or. -/
  | aor (o : FmtA)
  /-- AXOR (R349). Atomic exclusive or. -/
  | axor (o : FmtA)
  /-- ASWP (R349). Atomic swap. -/
  | aswp (o : FmtA)
  /-- ACAS (R349). Atomic compare-and-swap. -/
  | acas (o : FmtA)
  /-- AFADD (R349). Atomic FP32 add. -/
  | afadd (o : FmtA)
  /-- FLD (R365). Queues a fabric load of a remote range into a region. -/
  | fld (o : FmtC)
  /-- FST (R365). Queues a fabric store of a region to a remote range. -/
  | fst (o : FmtC)
  /-- FGET (R366). Queues remote-to-local transfer records. -/
  | fget (o : FmtC)
  /-- FPUT (R366). Queues local-to-remote transfer records. -/
  | fput (o : FmtC)
  /-- FFADD (R368). Queues remote fetch-and-add records. -/
  | ffadd (o : FmtC)
  /-- FMCAST (R367). Queues a multicast of a region to many packages. -/
  | fmcast (o : FmtC)
  /-- FSIG (R369). Queues a remote memory-semaphore signal. -/
  | fsig (o : FmtC)
  /-- LEASE_GRANT (R378). Reeve command that lends regions to a borrower and sends GRANT. -/
  | leaseGrant (o : FmtC)
  /-- LEASE_RECALL (R378). Reeve command that starts the grace of a held lease and sends RECALL. -/
  | leaseRecall (o : FmtC)
  /-- LEASE_RELEASE (R378). Borrower Reeve command that sends RELEASE for a lease. -/
  | leaseRelease (o : FmtC)
  /-- SLOTSW_LOAD (R382). Copies a slot-table image into the router's shadow bank. -/
  | slotswLoad (o : FmtC)
  /-- SLOTSW_SWITCH (R382). Sets a pending slot-table bank exchange at a named frame. -/
  | slotswSwitch (o : FmtC)
  /-- TRAP (R405). Takes a precise TRAP with a software code. -/
  | trap (o : FmtI)
  /-- ERET (R395). Resumes a TRAPPED crew or releases or delivers a HELD crew's fault. -/
  | eret (o : FmtA)
  /-- HALT (R407). Reeve waits while its trap ring is empty. -/
  | halt (o : FmtA)
  /-- CSRR (R406). Reads a CSR into a register. -/
  | csrr (o : FmtI)
  /-- CSRW (R406). Writes the RW fields of a CSR with no behaviour of its own. -/
  | csrw (o : FmtI)
  /-- CSRW_TDEF (R218). Writes TDEFn with region checks, ending buffer mode, stalling while marked. -/
  | csrwTdef (o : FmtI)
  /-- CSRW_FFLAGS (R162). Replaces FFLAGS, with flags landing in the same clk ORed in. -/
  | csrwFflags (o : FmtI)
  /-- CSRW_FRM (R160). Writes the rounding mode, trapping on an invalid mode. -/
  | csrwFrm (o : FmtI)
  /-- CSRW_SRCTR (R165). Writes the stochastic-rounding counter, overriding a same-count advance. -/
  | csrwSrctr (o : FmtI)
  /-- CSRW_STRICT (R111). Sets STRICT for words issued at later counts. -/
  | csrwStrict (o : FmtI)
  /-- CSRW_MFLAGS (R261). Replaces MFLAGS, with same-clk MRET flags ORed in. -/
  | csrwMflags (o : FmtI)
  /-- CSRW_MSH (R274). Reeve write of the package-wide Mill share, effective at each wheel's next revolution. -/
  | csrwMsh (o : FmtI)
  /-- CSRW_FEVBASE (R376). Reeve write of the fabric event ring base that checks placement and resets both indices. -/
  | csrwFevbase (o : FmtI)
  /-- CSRW_TRQBASE (R388). Reeve write of the trap ring base that checks placement and resets both indices. -/
  | csrwTrqbase (o : FmtI)
  /-- CSRW_SHOCKST (R419). Reeve write of SHOCKST.FORCE forcing a full self-test at next boot. -/
  | csrwShockst (o : FmtI)
  /-- TLBI (R408). Invalidates translations of a job and range. -/
  | tlbi (o : FmtA)
  /-- ICINV (R401). Invalidates instruction caches and fetched words of a job. -/
  | icinv (o : FmtA)
  /-- CTXS_SNAP (R397). Writes a TRAPPED crew's context to its save area. -/
  | ctxsSnap (o : FmtA)
  /-- CTXS_OUT (R397). Pre-empts a running crew and saves its context. -/
  | ctxsOut (o : FmtA)
  /-- CTXL_INTO (R399). Loads a save area into a TRAPPED crew. -/
  | ctxlInto (o : FmtA)
  /-- CTXL_RESUME (R399). Enqueues a saved crew as a resume docket. -/
  | ctxlResume (o : FmtA)
  /-- SPLOG (R409). Reads one doubleword of a stopped crew's operand log. -/
  | splog (o : FmtA)
  /-- CSRW_TRQHEAD (R388). Reeve write of TRQHEAD that frees trap-ring space so waiting records are written. -/
  | csrwTrqhead (o : FmtI)
  /-- CSRW_FEVHEAD (R381). Reeve write of FEVHEAD that frees fabric event-ring space so waiting events are written. -/
  | csrwFevhead (o : FmtI)
  /-- RESERVED_MAJOR_WORD (R97). Issue of a word whose major or minor opcode is reserved, such as a zero word, which traps with ILLEGAL_OP. -/
  | reservedMajorWord (w : Word)
  /-- JOBOPEN (R39). Command that opens a job as ACTIVE with its translation root ROOT and writes a status record. -/
  | jobopen (c : Cmd)
  /-- JOBEND (R39). Command that closes a job so that later commands naming it are refused. -/
  | jobend (c : Cmd)
  /-- PHASEOPEN (R39). Command that opens a phase as ACTIVE within an open job. -/
  | phaseopen (c : Cmd)
  /-- PHASECLOSE (R39). Command that closes a phase. -/
  | phaseclose (c : Cmd)
  /-- LAUNCH (R40). Command that opens a launch, creates this package's share of dockets in replicate or array mode, and closes the launch. -/
  | launch (c : Cmd)
  /-- REPLAY (R43). Command that opens a graph and a launch, adds NCNT to the counters, closes the graph and runs one replay of the task graph. -/
  | replay (c : Cmd)
  /-- GPATCH (R45). Command that copies LEN bytes from SRC to DST in 8-byte granules, or is held while a replay from NODES has uncreated nodes. -/
  | gpatch (c : Cmd)
  /-- CANCEL_COMMAND (R39). Command that cancels the launch, graph, phase or job that LVL and IDS select. -/
  | cancelCommand (c : Cmd)
  /-- NLD_VECTOR (R302). Mill load of 128 bytes into active lanes. -/
  | nldVector (d : BitVec 4) (a : BitVec 4) (m : BitVec 2) (n : BitVec 11)
  /-- NLD_SCALAR (R302). Mill load of a doubleword into an mx register. -/
  | nldScalar (d : BitVec 4) (a : BitVec 4) (n : BitVec 11)
  /-- NST_VECTOR (R302). Mill store of active lanes. -/
  | nstVector (s : BitVec 4) (a : BitVec 4) (m : BitVec 2) (n : BitVec 11)
  /-- NST_SCALAR (R302). Mill store of a doubleword. -/
  | nstScalar (s : BitVec 4) (a : BitVec 4) (n : BitVec 11)
  /-- NLDK (R320). Loads 128 key bytes and rotates them by position. -/
  | nldk (d : BitVec 4) (a : BitVec 4) (b : BitVec 4) (m : BitVec 2) (h : BitVec 1)
  /-- NPB (R319). Reads and checks a page header, setting PB and VC. -/
  | npb (a : BitVec 4)
  /-- NPB_WF (R319). Sets the window floor WF. -/
  | npbWf (a : BitVec 4)
  /-- NPB_SET (R319). Sets PB and VC from registers. -/
  | npbSet (a : BitVec 4) (b : BitVec 4)
  /-- NLI_SCALAR (R306). Loads a sign-extended immediate into an mx register. -/
  | nliScalar (d : BitVec 4) (i : BitVec 12)
  /-- NLI_SHIFT (R306). Shifts an mx register left 12 and inserts an immediate. -/
  | nliShift (d : BitVec 4) (i : BitVec 12)
  /-- NLI_VECTOR (R306). Loads a sign-extended immediate into active lanes. -/
  | nliVector (d : BitVec 4) (m : BitVec 2) (i : BitVec 12)
  /-- NLI_FROM_MX (R306). Broadcasts mxB<31:0> into active lanes. -/
  | nliFromMx (d : BitVec 4) (b : BitVec 4) (m : BitVec 2)
  /-- NADDI (R306). Adds a sign-extended immediate to an mx register. -/
  | naddi (d : BitVec 4) (a : BitVec 4) (i : BitVec 12)
  /-- NADD (R304). Lane addition. -/
  | nadd (d : BitVec 4) (a : BitVec 4) (b : BitVec 4) (m : BitVec 2) (t : BitVec 2) (c : BitVec 1) (s : BitVec 5)
  /-- NADD_SCALAR (R304). Scalar mx addition. -/
  | naddScalar (d : BitVec 4) (a : BitVec 4) (b : BitVec 4) (t : BitVec 2)
  /-- NSUB (R304). Lane subtraction. -/
  | nsub (d : BitVec 4) (a : BitVec 4) (b : BitVec 4) (m : BitVec 2) (t : BitVec 2) (c : BitVec 1) (s : BitVec 5)
  /-- NSUB_SCALAR (R304). Scalar mx subtraction. -/
  | nsubScalar (d : BitVec 4) (a : BitVec 4) (b : BitVec 4) (t : BitVec 2)
  /-- NMUL (R304). Lane multiplication. -/
  | nmul (d : BitVec 4) (a : BitVec 4) (b : BitVec 4) (m : BitVec 2) (t : BitVec 2) (c : BitVec 1) (s : BitVec 5)
  /-- NMUL_SCALAR (R304). Scalar mx multiplication. -/
  | nmulScalar (d : BitVec 4) (a : BitVec 4) (b : BitVec 4) (t : BitVec 2)
  /-- NFMA (R304). FP32 lane fused multiply-add into mvd. -/
  | nfma (d : BitVec 4) (a : BitVec 4) (b : BitVec 4) (m : BitVec 2) (c : BitVec 1) (s : BitVec 5)
  /-- NMAX (R304). Lane maximum. -/
  | nmax (d : BitVec 4) (a : BitVec 4) (b : BitVec 4) (m : BitVec 2) (t : BitVec 2) (c : BitVec 1) (s : BitVec 5)
  /-- NMAX_SCALAR (R304). Scalar mx maximum. -/
  | nmaxScalar (d : BitVec 4) (a : BitVec 4) (b : BitVec 4) (t : BitVec 2)
  /-- NMIN (R304). Lane minimum. -/
  | nmin (d : BitVec 4) (a : BitVec 4) (b : BitVec 4) (m : BitVec 2) (t : BitVec 2) (c : BitVec 1) (s : BitVec 5)
  /-- NMIN_SCALAR (R304). Scalar mx minimum. -/
  | nminScalar (d : BitVec 4) (a : BitVec 4) (b : BitVec 4) (t : BitVec 2)
  /-- NAND (R304). Lane bitwise and. -/
  | nand (d : BitVec 4) (a : BitVec 4) (b : BitVec 4) (m : BitVec 2) (t : BitVec 2) (c : BitVec 1) (s : BitVec 5)
  /-- NAND_SCALAR (R304). Scalar mx bitwise and. -/
  | nandScalar (d : BitVec 4) (a : BitVec 4) (b : BitVec 4) (t : BitVec 2)
  /-- NOR (R304). Lane bitwise or. -/
  | nor (d : BitVec 4) (a : BitVec 4) (b : BitVec 4) (m : BitVec 2) (t : BitVec 2) (c : BitVec 1) (s : BitVec 5)
  /-- NOR_SCALAR (R304). Scalar mx bitwise or. -/
  | norScalar (d : BitVec 4) (a : BitVec 4) (b : BitVec 4) (t : BitVec 2)
  /-- NXOR (R304). Lane bitwise exclusive or. -/
  | nxor (d : BitVec 4) (a : BitVec 4) (b : BitVec 4) (m : BitVec 2) (t : BitVec 2) (c : BitVec 1) (s : BitVec 5)
  /-- NXOR_SCALAR (R304). Scalar mx bitwise exclusive or. -/
  | nxorScalar (d : BitVec 4) (a : BitVec 4) (b : BitVec 4) (t : BitVec 2)
  /-- NSHL (R304). Lane shift left. -/
  | nshl (d : BitVec 4) (a : BitVec 4) (b : BitVec 4) (m : BitVec 2) (t : BitVec 2) (c : BitVec 1) (s : BitVec 5)
  /-- NSHL_SCALAR (R304). Scalar mx shift left. -/
  | nshlScalar (d : BitVec 4) (a : BitVec 4) (b : BitVec 4) (t : BitVec 2)
  /-- NSHR (R304). Lane shift right. -/
  | nshr (d : BitVec 4) (a : BitVec 4) (b : BitVec 4) (m : BitVec 2) (t : BitVec 2) (c : BitVec 1) (s : BitVec 5)
  /-- NSHR_SCALAR (R304). Scalar mx shift right. -/
  | nshrScalar (d : BitVec 4) (a : BitVec 4) (b : BitVec 4) (t : BitVec 2)
  /-- NPERM (R306). Byte permute across the Mill register. -/
  | nperm (d : BitVec 4) (a : BitVec 4) (b : BitVec 4) (m : BitVec 2)
  /-- NCVT (R307). Converts a part of each lane between types. -/
  | ncvt (d : BitVec 4) (a : BitVec 4) (m : BitVec 2) (p : BitVec 3) (y : BitVec 4) (z : BitVec 4)
  /-- NCMP (R305). Lane compare writing a mask register. -/
  | ncmp (d : BitVec 2) (a : BitVec 4) (b : BitVec 4) (m : BitVec 2) (t : BitVec 2) (c : BitVec 1) (s : BitVec 5) (k : BitVec 3)
  /-- NSEL (R305). Selects every lane by a mask. -/
  | nsel (d : BitVec 4) (a : BitVec 4) (b : BitVec 4) (m : BitVec 2) (c : BitVec 1) (s : BitVec 5)
  /-- NDOT (R310). INT4 by BF16 short dot product into each lane. -/
  | ndot (d : BitVec 4) (a : BitVec 4) (b : BitVec 4) (m : BitVec 2) (u : BitVec 1) (q : BitVec 5)
  /-- NDOT_BF16 (R310). BF16 by BF16 short dot product into each lane. -/
  | ndotBf16 (d : BitVec 4) (a : BitVec 4) (b : BitVec 4) (m : BitVec 2) (q : BitVec 5)
  /-- NRED (R308). Tree reduction of lanes broadcast to every lane. -/
  | nred (d : BitVec 4) (a : BitVec 4) (m : BitVec 2) (t : BitVec 2) (o : BitVec 3)
  /-- NRED_SCALAR (R308). Tree reduction of lanes into an mx register. -/
  | nredScalar (d : BitVec 4) (a : BitVec 4) (m : BitVec 2) (t : BitVec 2) (o : BitVec 3)
  /-- NEXP2 (R309). 2^a in each active lane. -/
  | nexp2 (d : BitVec 4) (a : BitVec 4) (m : BitVec 2)
  /-- NSMX (R321). One online-softmax step over 32 scores. -/
  | nsmx (d : BitVec 4) (a : BitVec 4) (b : BitVec 4) (m : BitVec 2)
  /-- NTRIP (R323). Writes an attention triple record. -/
  | ntrip (d : BitVec 4) (a : BitVec 4) (b : BitVec 4) (n : BitVec 3)
  /-- NSKIP (R313). Finds the next set bit at or above mxB. -/
  | nskip (d : BitVec 4) (a : BitVec 4) (b : BitVec 4)
  /-- NIDX (R306). Writes lane index plus base and offset into each active lane. -/
  | nidx (d : BitVec 4) (a : BitVec 4) (m : BitVec 2) (i : BitVec 11)
  /-- NIDX_W (R317). Builds the valid-window mask of the current page. -/
  | nidxW (d : BitVec 2) (m : BitVec 2) (t : BitVec 7)
  /-- NLOOP (R312). Sets up a Mill hardware loop. -/
  | nloop (a : BitVec 4) (l : BitVec 12)
  /-- NBR (R311). Unconditional Mill branch. -/
  | nbr (o : BitVec 12)
  /-- NBRC (R311). Mill branch on an mx register being non-zero or zero. -/
  | nbrc (n : BitVec 1) (a : BitVec 4) (o : BitVec 12)
  /-- NBRC_MASK (R311). Mill branch on any or no bit of a mask being set. -/
  | nbrcMask (n : BitVec 1) (k : BitVec 2) (o : BitVec 12)
  /-- NSEMS (R316). Release add to a memory semaphore in the pseudo-channel. -/
  | nsems (a : BitVec 4) (n : BitVec 12)
  /-- NSEMW (R316). Waits for and acquires one count of a memory semaphore. -/
  | nsemw (a : BitVec 4)
  /-- NFLAG (R314). Reads, and optionally clears, the lanes' flags. -/
  | nflag (d : BitVec 4) (c : BitVec 1)
  /-- NEND (R315). Ends the Mill kernel normally. -/
  | nend
  /-- RESERVED_MILL_WORD (R295). Issue of a Mill word with a reserved opcode or a non-zero unused field, which ends the kernel with ILL. -/
  | reservedMillWord (w : BitVec 32)
  /-- GPATCH_RELEASE (R45). A held GPATCH starts once no ACTIVE replay from NODES has an uncreated node, and performs its copy. -/
  | gpatchRelease
  /-- CQTAIL_WRITE (R36). Control-node write of CQTAIL that makes new command records available for the device to execute in ring order. -/
  | cqtailWrite (v : Word)
  /-- CQBASE_WRITE (R35). Write of CQBASE and CQSZ, effective only while EN is 0, that resets CQHEAD and CQTAIL to 0. -/
  | cqbaseWrite (v : Word)
  /-- CPBASE_WRITE (R35). Write of CPBASE and CPSZ, effective only while EN is 0, that resets CPTAIL and CPHEAD to 0. -/
  | cpbaseWrite (v : Word)
  /-- CPHEAD_WRITE (R36). Control-node write of CPHEAD that frees completion-ring space so held commands and level-ended records proceed. -/
  | cpheadWrite (v : Word)
  /-- EN_WRITE (R35). Write of EN that starts or stops command consumption and clears a stopped error condition when toggled 0 then 1. -/
  | enWrite (v : Bool)
  /-- ERR_CLEAR (R35). Write of 1 to the RW1C bit ERR that clears the ring error indication. -/
  | errClear
  /-- ATTREQ_WRITE (R424). Write of ATTREQ with a non-zero ADDR while BUSY is 0 that starts an attestation request. -/
  | attreqWrite (v : Word)
  /-- ATTESTATION_REPORT (R424). The Clerk reads the nonce, writes the signed report at A + 0x40, clears BUSY and sets DONE. -/
  | attestationReport
  /-- REGISTER_WRITE (R35). Write of a command-port register field that has no behaviour of its own. -/
  | registerWrite (offset : Nat) (v : Word)
  /-- DOCKET_CREATION_RESUME (R50). A docket creation that waited on a full backing store resumes when dispatch frees space. -/
  | docketCreationResume
  /-- DISPATCH (R51). The Dispatcher serves a free bench by choosing a docket by priority, round-robin and placement and creating a crew on it. -/
  | dispatch (slot : Nat)
  /-- DOCKET_PROMOTION (R52). A docket that has waited 2 ms is promoted one priority at the end of the clk in which the wait expires. -/
  | docketPromotion (uid : Nat)
  /-- GANG_RESERVATION (R53). A gang that has waited 1 ms takes a reservation on the permitted cluster with the most free benches. -/
  | gangReservation (uid : Nat)
  /-- CREW_RETIRE (R410). A crew whose streams have exited and whose work has completed frees its bench and claims, performs its join action and decrements its level counters. -/
  | crewRetire (slot : Nat)
  /-- INSTRUCTION_FETCH_RETURN (R84). An instruction word that missed the cache or TLB arrives and clears the instruction-fetch stall. -/
  | instructionFetchReturn (slot : Nat) (str : Stream)
  /-- TRANSLATION_RETURN (R75). A translation completes after a TLB hit or table walk and either clears the translation stall or faults. -/
  | translationReturn (slot : Nat) (seq : Nat)
  /-- LOAD_DATA_ARRIVE (R117). The data of an issued load arrives, lands and clears any late-data or queue-fill stall it caused. -/
  | loadDataArrive (slot : Nat) (seq : Nat)
  /-- LATE_FAULT_DELIVERY (R386). A late cause reported through the operand log is taken as a trap at the count where the counter stands. -/
  | lateFaultDelivery (slot : Nat)
  /-- SIGNAL_TAKE_EFFECT (R345). An issued semaphore signal takes effect once every access before it in local order has been performed, serving waiters in order. -/
  | signalTakeEffect (slot : Nat) (seq : Nat)
  /-- MSEMWAIT_REREAD (R346). A memory-semaphore wait re-reads its count on a write to its sector or after 512 clk and consumes a count if non-zero. -/
  | msemwaitReread (slot : Nat)
  /-- WAITC_REREAD (R134). A WAITC re-reads its doubleword on a write to its sector or after 512 clk and ends when the value is within its bound. -/
  | waitcReread (slot : Nat)
  /-- CB_SLOT_FREE (R238). After CBDONE, FREE (IN) or FILL (OUT) rises once the crew's earlier vector memory words have been performed. -/
  | cbSlotFree (slot : Nat) (tile : Nat)
  /-- COPY_CMD_START (R223). The Carter starts a queued command once its wait semaphore and buffer conditions are met. -/
  | copyCmdStart (core : Nat)
  /-- COPY_CMD_COMPLETE (R224). A Carter command completes, removes its marks, updates buffer state and signals SS. -/
  | copyCmdComplete (core : Nat)
  /-- GLEANER_FILL (R244). The Gleaner fills a reserved offset-queue entry with the decoder's next value. -/
  | gleanerFill (slot : Nat)
  /-- MCLAIM_GRANT (R249). A waiting MCLAIM is granted when its slots and banks are free and no earlier waiting claim names them. -/
  | mclaimGrant (core : Nat) (slot : Nat)
  /-- MATRIX_CMD_START (R251). A matrix command starts on its unit when its crew order, grant, unit, wait and dependence conditions hold. -/
  | matrixCmdStart (core : Nat) (unit : MatrixUnit)
  /-- MATRIX_CMD_COMPLETE (R262). A matrix command completes, removing its marks and signalling SS. -/
  | matrixCmdComplete (core : Nat) (unit : MatrixUnit)
  /-- BANK_QUEUE_CMD_START (R285). A bank-queue command at the head consumes its wait, reads its record and becomes ready. -/
  | bankQueueCmdStart (core : Nat)
  /-- MILL_GRANT (R287). The Mill arbiter grants a ready BQCMD or BQLOAD its Mills, switching banks to MILL and starting kernels. -/
  | millGrant (core : Nat)
  /-- BQCMD_COMPLETE (R288). When every kernel has ended the banks return to HOST, the status word is written and MSIG and SS are signalled. -/
  | bqcmdComplete (core : Nat) (id : Nat)
  /-- MILL_WATCHDOG (R284). A Mill kernel that has run 200 µs is stopped with channel flag WD. -/
  | millWatchdog (mill : Nat)
  /-- WHEEL_REVOLUTION (R273). Start of a command-wheel revolution in a pseudo-channel controller, at which a new SHARE takes effect. -/
  | wheelRevolution (mill : Nat)
  /-- HOST_RESERVED_SERVICE (R276). In a host-reserved slot the controller serves waiting host accesses to a MILL-owned bank. -/
  | hostReservedService (mill : Nat) (bank : Nat) (row : Nat)
  /-- PATROL_SCRUB (R283). The base die's patrol scrubber rewrites corrected ECC sectors once every 12 hours. -/
  | patrolScrub (stack : Nat)
  /-- PORTER_CMD_START (R363). The Porter starts a queued fabric command under its ordering and wait rules. -/
  | porterCmdStart (core : Nat)
  /-- PORTER_CMD_COMPLETE (R372). A Porter command completes when its writes are reported performed, removing marks and signalling SS. -/
  | porterCmdComplete (core : Nat) (id : Nat)
  /-- FABRIC_RESPONSE (R371). A response arrives for a fabric request and delivers data, an old value or a status fault to its command. -/
  | fabricResponse (k : Nat)
  /-- FABRIC_TIMEOUT (R371). A fabric request with no response within 1 s ends its command with FABRIC_TIMEOUT. -/
  | fabricTimeout (tag : Nat)
  /-- FABRIC_READ (R370). A target package serves a READ request after translation and scope checks. -/
  | fabricRead (k : Nat)
  /-- FABRIC_WRITE (R370). A target package serves a WRITE request. -/
  | fabricWrite (k : Nat)
  /-- FABRIC_FADD (R368). A target package applies an FADD, single or combined, as one indivisible add and returns the old value. -/
  | fabricFadd (k : Nat)
  /-- FABRIC_SIGNAL (R369). A target package adds 1 to a memory semaphore for an FSIG, or answers OVERFLOW. -/
  | fabricSignal (k : Nat)
  /-- FABRIC_MWRITE (R367). A target package serves a multicast write. -/
  | fabricMwrite (k : Nat)
  /-- PHYSICAL_LENT_ACCESS (R380). A lender serves or refuses with REVOKED a PHY = 1 request to a lent region. -/
  | physicalLentAccess (k : Nat)
  /-- FLIT_RECEIVE (R354). A link end receives a flit, checks CRC and sequence, accepts it or sends NAK, and processes ACK and credits. -/
  | flitReceive (port : Nat) (flit : Flit)
  /-- SLOT_TICK (R359). Each router slot applies its slot-table entry, sending scheduled flits or using the slot for unscheduled traffic. -/
  | slotTick
  /-- FRAME_START (R382). Start of a frame, at which a pending slot-table switch exchanges banks and clears PEND. -/
  | frameStart
  /-- COMBINE_WINDOW_EXPIRE (R373). A combining-table entry whose 64 ns window ends, or that holds 8 requests, is forwarded. -/
  | combineWindowExpire (k : Nat)
  /-- LEASE_GRANT_MESSAGE (R379). GRANT arrives at the borrower, which records the lease HELD and writes a GRANTED event. -/
  | leaseGrantMessage (peer : Nat) (lid : Nat) (reg0 : Nat) (nreg : Nat)
  /-- LEASE_GRANT_ANSWER (R378). The borrower's answer arrives at the lender and completes the .grant with its status. -/
  | leaseGrantAnswer (peer : Nat) (lid : Nat) (status : BitVec 8)
  /-- LEASE_GRANT_TIMEOUT (R378). A .grant with no answer within 1 s completes with TIMEOUT. -/
  | leaseGrantTimeout (lid : Nat)
  /-- LEASE_RECALL_MESSAGE (R379). RECALL arrives at the borrower, which enters DEMOTING and writes a DEMOTE event. -/
  | leaseRecallMessage (peer : Nat) (lid : Nat) (deadline : Word)
  /-- LEASE_RELEASE_MESSAGE (R379). RELEASE arrives at the lender, which closes the lease and writes RELEASED or RECLAIMED. -/
  | leaseReleaseMessage (peer : Nat) (lid : Nat)
  /-- LEASE_RELEASE_ANSWER (R379). The lender's answer to a RELEASE arrives and closes the borrower's lease. -/
  | leaseReleaseAnswer (peer : Nat) (lid : Nat) (status : BitVec 8)
  /-- LEASE_REVOKE_MESSAGE (R379). REVOKE arrives at the borrower, which closes the lease and writes a REVOKED event. -/
  | leaseRevokeMessage (peer : Nat) (lid : Nat)
  /-- LEASE_DEADLINE (R379). Frame DEADLINE begins for a RECALLING lease: it closes, REVOKE is sent and the .recall completes. -/
  | leaseDeadline (lid : Nat)
  /-- TLBI_COMPLETE (R78). A TLBI's removal, walk restart and drain of translated accesses finish and completion is signalled. -/
  | tlbiComplete (cluster : Nat)
  /-- ICINV_COMPLETE (R401). An ICINV finishes removing cache lines and fetched words of the job. -/
  | icinvComplete (cluster : Nat)
  /-- PREEMPT_COMPLETE (R397). A CTXS.OUT pre-emption finishes: words land, commands complete or are withdrawn, the save area is written and the bench freed. -/
  | preemptComplete (slot : Nat)
  /-- HALT_WAKE (R407). A Reeve waiting in HALT resumes in the clk after a trap record is written. -/
  | haltWake (cluster : Nat)
  /-- HARDWARE_ERROR (R403). A hardware error stops a crew and its group, and the unit is re-run from its snapshot or its level is cancelled. -/
  | hardwareError (slot : Nat) (code : BitVec 8)
  /-- DROOP_DETECT (R415). A droop detector fires and the cluster clock is stretched within two clk. -/
  | droopDetect (cluster : Nat)
  /-- DROOP_RECOVER (R415). The supply recovers and the level-1 stretch ends. -/
  | droopRecover (cluster : Nat)
  /-- HOLD_ENTRY (R415). A 5 µs stretch or a supply below the hold threshold enters HOLD. -/
  | holdEntry
  /-- HOLD_EXIT (R415). After 1 ms of normal supply HOLD ends, HBM leaves self-refresh and paused work resumes. -/
  | holdExit (len : BitVec 12)
  /-- ORDERLY_STOP (R416). A 100 ms HOLD or a supply below the stop threshold loses every crew, cancels every level and powers down. -/
  | orderlyStop (cause : BitVec 8)
  /-- NGUGRIM_RETRAIN_START (R49). Ngugrim begins retraining and command execution pauses with RETRAIN reading 1. -/
  | ngugrimRetrainStart
  /-- NGUGRIM_RETRAIN_END (R49). Ngugrim retraining ends and commands and held records proceed. -/
  | ngugrimRetrainEnd
  /-- NGUGRIM_RETRAIN_TIMEOUT (R417). Ngugrim not retrained within 2 s ends every waiting tier 2 access with FABRIC_TIMEOUT. -/
  | ngugrimRetrainTimeout
  /-- LINK_RETRAIN_START (R355). A fabric link begins retraining and holds every flit. -/
  | linkRetrainStart (port : Nat)
  /-- LINK_RETRAIN_END (R355). A fabric link finishes retraining and resends from the last ACK. -/
  | linkRetrainEnd (port : Nat)
  /-- LINK_DOWN (R417). A fabric link not retrained within 250 ms is declared down and routes are reloaded. -/
  | linkDown (port : Nat)
  /-- SHOCK_EVENT (R419). The MEMS sensor logs a shock of at least 40 g for 0.5 ms, forcing a full self-test at next boot. -/
  | shockEvent (peak : BitVec 16)
  /-- PACKAGE_BOOT (R423). Package reset: firmware verification, boot self-test, Reeve start and BOOTST setting. -/
  | packageBoot (b : BootOutcome)
  /-- WEAR_UPDATE (R422). Every 24 hours the Clerk updates WEAREOL from the wear indicators. -/
  | wearUpdate (days : BitVec 16) (limit : BitVec 3) (hours : BitVec 32)
  /-- IDLE_COUNT (R109). A clk in which the schedule counter advances past a count at which no word of the crew is due. -/
  | idleCount (slot : Nat)
  /-- WRITE_PERFORMED (R337). A store or write is performed at its memory port or bank and becomes visible to other agents. -/
  | writePerformed (slot : Nat) (seq : Nat)
  /-- BQLOAD_COMPLETE (R290). A granted BQLOAD finishes copying into the code stores and signals SS. -/
  | bqloadComplete (core : Nat)
  /-- WINFENCE_COMPLETE (R291). A WINFENCE completes within 2 µs of its start and signals SS. -/
  | winfenceComplete (core : Nat)
  /-- WHEEL_SLOT (R273). Start of a command-wheel slot, in which its owner, Mill or host, is served. -/
  | wheelSlot (mill : Nat)
  /-- ENERGY_STORE_DEPLETED (R419). The shock sensor's energy store runs out, setting DEPL and forcing a full self-test at the next boot. -/
  | energyStoreDepleted
  /-- ROUTER_ERROR_RECOVERY (R374). A router's error recovery clears its combining table, so later combined replies are split by the echo. -/
  | routerErrorRecovery
deriving DecidableEq, Repr

end Sys2Proof
end

