-- ==== Sys2Proof/Machine/State.lean ====
section
/-!
DEFINITION. The state of one B9 package as plain data: every crew on its bench, every core's engines and queues, the Mills
and their controllers, the work hierarchy and the Dispatcher, the command port, the fabric, the package registers, and the
memories. Beside the part's own state stand four fields of the model's own, marked so: agenda, cur, free and stamp.
-/
namespace Sys2Proof.Machine

/-- A byte memory: addresses strictly rising, no entry equal to the zero that an unlisted address reads as. -/
abbrev Memory := List Host.Cell

/-! ### The crew -/

/-- One active hardware loop (R126-R128). -/
structure Loop where
  start : Word
  last : Word
  remaining : Word
deriving DecidableEq, Repr

/-- One stream of a crew (R108, R113, R126, R131). -/
structure StreamState where
  /-- Address of the stream's next word. -/
  pc : Word
  /-- Count at which the stream's previous word issued; none before its first word (R108). -/
  last : Option Nat
  /-- The next word, once it is fetched (R84, R112). -/
  fetched : Option Word
  /-- Waiting at an RVZ that has issued: its count, its address and its GAP (R113). -/
  rvz : Option (Nat × Word × Nat)
  exited : Bool
  /-- Active loops, innermost first, at most two (R127). -/
  loops : List Loop
  /-- The active loops as the RVZ found at which the stream waits: an RVZ that comes to trap has not completed (R113, R128). -/
  rvzLoops : List Loop := []
deriving DecidableEq, Repr

/-- When a pending write lands (R114, R117, R397). -/
inductive LandAt where
  /-- At this count, or when its data arrives if that is later. -/
  | count (c : Nat)
  /-- When its event completes, with no bound in counts: a read of it stalls (R397), or the crew is frozen (R81). -/
  | event
deriving DecidableEq, Repr

/-- A write to a register that has issued and has not landed (R115, R116). The payload's width is that of the file. -/
structure Pend (w : Nat) where
  reg : Nat
  /-- The bits that the write replaces. -/
  mask : BitVec w
  val : BitVec w
  poison : Bool
  issued : Nat
  land : LandAt
  /-- The value is known; false while a load's data is on its way. -/
  ready : Bool
  /-- The entry of the operand log that fills it (0: none). -/
  seq : Nat
  str : Stream
  /-- The access was issued again from the operand log (R393): only a read waits for it. -/
  again : Bool
  /-- The bits that the word writes; mask is what remains of them once later writes have landed (R116, R181). -/
  span : BitVec w := mask
  /-- It awaits a load or LDS, whose data fills the queue entries that a push reserves (R121). -/
  load : Bool := false
deriving DecidableEq, Repr

/-- The register files (R7, R178). -/
inductive RegFile where
  | x
  | v
  | p
deriving DecidableEq, Repr

/-- A register freed by a last-use bit, with the count of the word that freed it (R92, R119). -/
structure Freed where
  file : RegFile
  reg : Nat
  count : Nat
deriving DecidableEq, Repr

/-- An entry of the data queue or of the branch-outcome queue (R120-R122). -/
structure QEntry where
  /-- The operand-log entry of the load that fills it, while it is only reserved. -/
  src : Option Nat
  val : Word
  poison : Bool
  pushedAt : Nat
deriving DecidableEq, Repr

/-- The circular-buffer state of a tile register (R235-R239). -/
structure CircBuf where
  out : Bool
  nslot : Nat
  stride : Nat
  free : Nat
  fill : Nat
  ci : Nat
  ki : Nat
  /-- Counts at which CBDONE released slots whose FREE (IN) or FILL (OUT) has not yet risen (R238). -/
  releasing : List Nat
deriving DecidableEq, Repr

/-- What a word of the operand log does (R391). -/
inductive LogKind where
  | load (bytes : Nat) (zext : Bool)
  | loadSpec
  | store (bytes : Nat)
  | atomic (op : BitVec 4) (ty : BitVec 4) (ret : Bool)
  | msemsig
  | msemwait
  | semsig (n : Nat)
  | seminit (n : Nat)
  | spawn
  | joindec
  | waitc
  | fence (ord : BitVec 3) (named : Bool)
  | cmd
deriving DecidableEq, Repr

/-- How far an entry of the operand log has come. -/
inductive LogPhase where
  /-- Its translation has not returned (R75). -/
  | translating
  /-- Translated, not yet performed. -/
  | going
  /-- Performed; the entry is kept only where something still waits for it. -/
  | done
deriving DecidableEq, Repr

/-- The page an access reached: where its bytes lie and the attributes that its rules read (R64-R70). -/
structure Target where
  /-- 0 local HBM, 1 lent HBM, 2 control-node memory. -/
  tier : Nat
  /-- Physical address in local HBM or the lender's, or the bus address. -/
  addr : Nat
  node : Nat
  chk : Bool
  shr : Nat
  guardIx : Nat
deriving DecidableEq, Repr

/-- An entry of the operand log (Table 14.6), with what the device keeps beside it to perform the access. -/
structure LogEntry where
  seq : Nat
  kind : LogKind
  pc : Word
  cnt : Nat
  word : Word
  opa : Word
  opb : Word
  opc : Word
  ord : BitVec 3
  faulted : Bool
  code : BitVec 8
  addr : Word
  /-- Marked for re-issue (R392). -/
  ri : Bool
  phase : LogPhase
  target : Option Target
  /-- Register that receives the result. -/
  rd : Nat
  /-- The engine command of a CMD entry. -/
  cmdId : Nat
  /-- RVZ words of the S-stream issued before it (R113, R329). -/
  epoch : Nat
  /-- The doubleword a docket read has latched, or the docket's eight words (SPAWN). -/
  data : List Word
  /-- The fabric request it waits for (tier 1). -/
  tag : Option Nat
  /-- It was issued again (R393). -/
  again : Bool
  /-- A later access of its crew has been performed before it, which only an ordering at the scope of its core would have kept
  behind it (R333). -/
  passed : Bool := false
deriving DecidableEq, Repr

/-- One addition of a scatter-add (R204): the key of the element's first byte, the element type, the rounding mode's code, the
addend, and the element's random word. -/
structure VAdd where
  key : Nat
  ty : Nat
  mode : Nat
  value : Nat
  random : BitVec 32
deriving DecidableEq, Repr

/-- A vector store or scatter-add that has issued and is not yet performed (R204, R205, R221, R329). -/
structure VStore where
  seq : Nat
  issued : Nat
  epoch : Nat
  /-- Bytes to write at keys of the scratchpad memory, in order. -/
  writes : List Host.Cell
  /-- Additions, in ascending element order. -/
  adds : List VAdd
  /-- VSCATADD.o: its additions keep the crew's order (R204). -/
  ordered : Bool
  /-- The count by which it is performed (Table 07.5). -/
  due : Nat
deriving DecidableEq, Repr

/-- Why a crew does not run. -/
inductive CrewState where
  | running
  | trapped
  | held
deriving DecidableEq, Repr

/-- The configuration and the cursor of a Gleaner context (R241-R243). -/
structure Gleaner where
  configured : Bool
  /-- The metadata register and its latched definition. -/
  tile : Nat
  tdef : Word
  ibase : BitVec 32
  rate : Nat
  rle : Bool
  mpos : Nat
  m : Nat
  p : Nat
  run : Nat
  /-- The offset queue: a filled entry, or none while only reserved. -/
  queue : List (Option (BitVec 32))
deriving DecidableEq, Repr

/-- The units of a core that serve engine commands. -/
inductive EngKind where
  | tld | tst | tmov | tcopy2d | clist | trope
  | glcfg | glgo
  | mcfg | mgo | mclaim | mrel | mldo | mret | mcell
  | bqcmd | bqload | winfence
  | fld | fst | fget | fput | ffadd | fmcast | fsig
  | leaseGrant | leaseRecall | leaseRelease | slotswLoad | slotswSwitch
deriving DecidableEq, Repr

/-- An engine command from its issue to its completion (R223, R251, R285, R363). -/
structure EngCmd where
  id : Nat
  kind : EngKind
  /-- The bench of the crew that issued it, the crew's identifier and its job. -/
  slot : Nat
  crewId : Nat
  job : Nat
  /-- Its entry of the operand log. -/
  seq : Nat
  issued : Nat
  xa : Word
  xb : Word
  cimm : BitVec 14
  wv : Bool
  sw : Nat
  sv : Bool
  ss : Nat
  /-- Tile registers that it marks R and W (R220). -/
  reads : List Nat
  writes : List Nat
  /-- The tile registers' definitions at issue, by register. -/
  tiles : List (Nat × Word)
  /-- Circular-buffer slots taken at the start: register and slot (R239). -/
  cbSlots : List (Nat × Nat)
  /-- It has consumed its wait (R224). -/
  consumed : Bool
  started : Bool
  /-- Elements, records or bytes done; where a held fault resumes (R228). -/
  progress : Nat
  /-- Data effects made; only completion remains. -/
  worked : Bool
  /-- Held at a faulting access (R228). -/
  held : Bool
  /-- The record that a BQCMD has read, or the lease record, as doublewords; the table an MGO has latched. -/
  latch : List Word
  /-- A BQCMD's or BQLOAD's order of readiness at the arbiter (R287). -/
  readyAt : Option Nat
  /-- Flags that a command gathers (MRET's conversion). -/
  flags : BitVec 5
deriving DecidableEq, Repr

/-- A crew on its bench: its context (Table 01.3, Table 14.8) and what it has in flight. -/
structure Crew where
  crewId : Nat
  /-- The unit it belongs to, and its member index (R24). -/
  uid : Nat
  member : Nat
  state : CrewState
  s : StreamState
  v : StreamState
  /-- The schedule counter (R108). -/
  counter : Nat
  x : Vector Word 64
  xPoison : BitVec 64
  vr : Vector VecReg 32
  pr : Vector PredReg 12
  freed : List Freed
  pendX : List (Pend 64)
  pendV : List (Pend 4096)
  pendP : List (Pend 256)
  dataQ : List QEntry
  brQ : List QEntry
  fflags : Word
  frm : Word
  srseed : Word
  srstrm : Word
  srctr : Word
  mflags : Word
  strict : Word
  trapcause : Word
  trappc : Word
  trapaddr : Word
  lvlsel : Word
  /-- The STEP bit of ERET (R395). -/
  step : Bool
  /-- The count at which the STEP trap is due, once a word has issued (R395). -/
  stepAt : Option Nat
  /-- CSRW values that take effect for words of later counts: register number, value and the count of the CSRW (R406). -/
  csrPend : List (Nat × Word × Nat)
  /-- Flags of words in flight: the count of issue, the count at which they land, and the flags (R162). -/
  pendF : List (Nat × Nat × BitVec 5)
  tdef : Vector Word 16
  circ : FMap CircBuf
  shadow : Vector Word 7
  pattern : Word
  plen : Nat
  /-- The claim set that is open, and whether it has been granted (R248). -/
  claim : Option Word
  claimGranted : Bool
  gleaner : Gleaner
  /-- Gleaner commands not yet effective, and GLGO commands filling (R241). -/
  glCmds : List EngCmd
  /-- Counts up to which each vector pipe is occupied, by pipe (R185). -/
  pipes : FMap Nat
  log : List LogEntry
  vstores : List VStore
  /-- The count by which the last vector access to a bank of the core scratchpad is served, by the bank's number, and that from
  which the share of a cluster's, a Reeve's or the die's scratchpad is free again, under 64 to 66 (R216). -/
  served : FMap Nat
  /-- The number of the youngest releasing word that has been performed (R348). -/
  released : Nat
  /-- RVZ words issued by each stream. -/
  epochS : Nat
  epochV : Nat
  /-- Late causes reported and not yet taken, by entry (R386). -/
  late : List Nat
  /-- The value that a WAITC or MSEMWAIT whose condition is met delivers when it issues (R134, R346). -/
  waitValue : Option Word
deriving DecidableEq, Repr

/-! ### The core -/

/-- Who waits on a core semaphore (R343). -/
inductive Waiter where
  | crew (slot : Nat)
  | cmd (slot id : Nat)
deriving DecidableEq, Repr

/-- A counting semaphore of a core (R342, R343). -/
structure Sem where
  count : BitVec 32
  waiters : List Waiter
deriving DecidableEq, Repr

/-- An accumulator bank (R247). -/
structure Bank where
  /-- The moment at which its contents became undefined. -/
  epoch : Nat
  /-- The value every unlisted cell holds since the last Z clear; none: undefined since epoch. -/
  fill : Option (BitVec 32)
  cells : FMap (BitVec 32)
  integer : Bool
  /-- NV, OF, UF, NX in the places of Table 09.5. -/
  flags : BitVec 5
deriving DecidableEq, Repr

/-- A claim of a crew, by its identifier, on slots and banks (R248, R249). -/
structure Claim where
  crewId : Nat
  set : Word
  granted : Bool
deriving DecidableEq, Repr

/-- One TLB entry (R74). -/
structure TlbEntry where
  job : Nat
  large : Bool
  /-- The virtual page: address bits from 16 or from 23 up. -/
  page : Nat
  leaf : Word
deriving DecidableEq, Repr

/-- A line of an instruction cache (R84). -/
structure ICacheLine where
  job : Nat
  line : Nat
  bytes : List Byte
deriving DecidableEq, Repr

/-- An entry of a race filter, oldest first (R339). -/
structure RaceEntry where
  sector : Nat
  job : Nat
  guardIx : Nat
  crewId : Nat
  interval : Word
deriving DecidableEq, Repr

/-- A core's engines (R223, R246-R251, R285, R363), semaphores, caches and race filter. -/
structure CoreState where
  copyQ : List EngCmd
  copyRun : List EngCmd
  matQ : List EngCmd
  matRun : List EngCmd
  bankQ : List EngCmd
  bankRun : List EngCmd
  portQ : List EngCmd
  portRun : List EngCmd
  sems : FMap Sem
  claims : List Claim
  bank0 : Bank
  bank1 : Bank
  /-- The moment at which each slot's contents became undefined: slots 0-15 A, 16-31 B (R247). -/
  slotEpoch : FMap Nat
  /-- Lines of slots and of scale areas that an MLDO has written: key slot × 128 + line; any other line is undefined. -/
  slotLines : FMap (BitVec 2048)
  scaleLines : FMap (BitVec 128)
  tlb : List TlbEntry
  icache : List ICacheLine
  races : List RaceEntry
deriving DecidableEq, Repr

/-! ### The Mills -/

/-- The state of one Mill (Table 11.1) and of its pseudo-channel's controller (R273-R276). -/
structure MillState where
  /-- The core and the command whose kernel runs; none: no kernel. -/
  owner : Option (Nat × Nat)
  ended : Bool
  /-- A command holds the Mill from its grant to its completion (R287). -/
  holder : Option (Nat × Nat)
  mv : Vector (BitVec 1024) 16
  mvPoison : Vector (BitVec 32) 16
  mx : Vector Word 16
  mxPoison : BitVec 16
  mask : Vector (BitVec 32) 4
  pb : BitVec 32
  vc : BitVec 7
  wf : BitVec 32
  /-- NV, DZ, OF, UF, NX of each lane, five bits a lane, lane 0 lowest. -/
  laneFlags : BitVec 160
  loops : List Loop
  pc : Nat
  /-- UE, ILL, OWN, WD and the IEEE flags at the positions of Table 10.8. -/
  chan : BitVec 12
  /-- Banks that are MILL-owned: those that the command which runs declares, bit b (R275, Table 10.7). -/
  ownedBanks : BitVec 16
  revolution : Nat
  wheelSlot : Nat
  /-- SHARE in force in this revolution (R274). -/
  share : Nat
  /-- Mill accesses made in this slot: the row they share and their number (R297). -/
  slotRow : Option Nat
  slotUse : Nat
  /-- Bytes that an NTRIP under way has written in earlier slots (R297). -/
  trip : Nat
  /-- The bank that a service of R276 under way occupies. -/
  service : Option Nat
deriving DecidableEq, Repr

/-! ### The hierarchy of work -/

/-- The states of a level (R18); neverOpened is LVLSTAT's 0 (Table 15.1). -/
inductive LevelState where
  | neverOpened
  | active
  | cancelling
  | done
  | cancelled
deriving DecidableEq, Repr

/-- A level (R15), keyed by kind × 65,536 + identifier: 1 launch, 2 graph, 3 phase, 4 job. -/
structure Level where
  state : LevelState
  closed : Bool
  count : Nat
  job : Nat
  /-- The phase it lies in (launch and graph), where PV is set. -/
  phase : Option Nat
  /-- Its identifier is in use until its level-ended record is written (R39). -/
  inUse : Bool
  /-- Physical address of the job's root block (R62). -/
  root : Nat
  /-- The graph that a replay's launch belongs to, and the launch of a replay's graph (R43). -/
  partner : Option Nat
deriving DecidableEq, Repr

/-- A replay under way, keyed by graph (R43, R44). -/
structure Replay where
  launch : Nat
  job : Nat
  phase : Option Nat
  /-- The PHASE field of the command, PV set or not (R28). -/
  phaseField : Nat
  nodes : Nat
  ncnt : Nat
  /-- Nodes whose dockets are created. -/
  created : List Nat
deriving DecidableEq, Repr

/-- What a docket starts (R50, R399, R403). -/
inductive DocketKind where
  | fresh
  | resume
  | rerun
deriving DecidableEq, Repr

/-- A unit of work from its docket's creation to its last step (R19, R22, R410). -/
structure WorkUnit where
  uid : Nat
  docket : List Word
  /-- x2 to x9 of its crews (R28). -/
  params : List Word
  kind : DocketKind
  /-- NSUCC and SUCC latched at creation (R44). -/
  nsucc : Nat
  succ : Nat
  prio : Nat
  /-- Order of enqueue, for queues and reservations. -/
  seq : Nat
  /-- The clk test of R50: eligible after the creation's clk. -/
  dispatched : Bool
  /-- Members retired or lost. -/
  members : List Nat
  left : List Nat
  /-- CREWIDs that a resumed unit keeps (R60). -/
  crewIds : List Nat
  /-- Cores that its members left, where they must return (R58, R399). -/
  home : List (Option Nat)
  cancelled : Bool
  /-- The join action's successors still to be decremented (R29). -/
  walk : Option Nat
  joined : Bool
  /-- A re-run avoids this core (R403). -/
  avoid : Option Nat
deriving DecidableEq, Repr

/-- Who waits for space in the backing store (R50). -/
inductive Creator where
  /-- LAUNCH: the unit index that comes next, the one past the last, and the number skipped with the first one's address. -/
  | launch (next last : Nat) (skipped : Nat) (first : Nat)
  /-- REPLAY: the node index that comes next. -/
  | replay (next : Nat)
  /-- The join action of a unit: the successor to be created, whose PEND has gone from 1 to 0. -/
  | join (uid : Nat) (node : Nat)
  /-- SPAWN of a crew: its operand-log entry. -/
  | spawn (slot : Nat) (seq : Nat)
  /-- The retirement of a unit whose members have all left their benches: its join action and its counters (R410). -/
  | retire (uid : Nat)
  /-- A unit that a hardware error has struck: the core, and the records of its re-run and of its loss (R403). -/
  | struck (uid core : Nat) (rerun lost : List Word)
  /-- A unit that is resumed or run again, with the cluster and the number of the CTXL that waits (R399, R403). -/
  | enqueue (uid : Nat) (reply : Option (Nat × Nat))
deriving DecidableEq, Repr

/-- The Dispatcher (R50-R53). -/
structure Dispatcher where
  /-- Units enqueued and not yet dispatched, by unit number, in order of enqueue. -/
  store : List Nat
  /-- The launch identifier last served at each priority. -/
  lastServed : FMap Nat
  /-- The reservation a cluster holds: cluster and unit. -/
  reserved : FMap Nat
  /-- Creations that wait for space, in order. -/
  waiting : List Creator
deriving DecidableEq, Repr

/-! ### The command port -/

/-- The registers of Table 02.1 and the command that is being executed. -/
structure Port where
  cqbase : Word
  cqtail : BitVec 32
  cqhead : BitVec 32
  cpbase : Word
  cptail : BitVec 32
  cphead : BitVec 32
  en : Bool
  err : Bool
  held : Bool
  retrain : Bool
  attreq : Word
  bootst : Word
  /-- A stop that only EN 0 and then 1 ends (R35). -/
  stopped : Bool
  /-- The command that has started and is not finished: a LAUNCH or REPLAY that waits for the store, or a held GPATCH. -/
  current : Option Cmd
  /-- Completion records not yet written, in order: the two doublewords, and the level's key or 0 for a status record (R36,
  R48). -/
  ended : List (Word × Word × Nat)
  /-- Ngugrim has not retrained in time: set only within the event that ends the accesses which wait for it (R417). -/
  lost : Bool
  /-- A request for attestation is pending (R424). -/
  attesting : Bool
deriving DecidableEq, Repr

/-! ### The fabric -/

/-- A request or response segment with its data (Table 13.2). -/
structure Msg where
  response : Bool
  seg : BitVec 512
  data : List Byte
  /-- The port it arrived on or 12 for the package itself. -/
  input : Nat
  /-- It has reached the memory port of a lender under a lease that lets it be served (R380). -/
  accepted : Bool := false
deriving DecidableEq, Repr

/-- What a router holds of a flit: scheduled or not, and its messages (R353, R359). -/
structure RFlit where
  sch : Bool
  bank : Bool
  slot : Nat
  circ : Nat
  cls : Bool
  msgs : List Msg
  /-- Outputs still to be served: the branches of R362 that have not been sent, whose replicas they stand for. -/
  outs : List Nat
  /-- The outputs that it leaves on together, where they are several (R362). -/
  feeds : List Nat := []
  /-- Names it in the replica buffers, once a branch of it is blocked (R362). -/
  tag : Nat := 0
  /-- The input entry that it shares with the other messages of the flit it arrived in (R357). -/
  entry : Nat := 0
  /-- Its entry at the input was taken against a credit, which goes back when it has left (R357). -/
  credit : Bool
  /-- Ticks waited (R359). -/
  waited : Nat
deriving DecidableEq, Repr

/-- One fabric port: its link ends and its buffers (R354, R357, R359, R362). -/
structure LinkPort where
  /-- Non-idle flits sent and not acknowledged, oldest first. -/
  replay : List Flit
  nextSeq : Nat
  /-- Index in replay of the next flit to send again; none: nothing to resend. -/
  resend : Option Nat
  /-- The sequence number last accepted. -/
  acked : Nat
  nakDue : Bool
  /-- Entries of each class that the far end has free. -/
  creditQ : Nat
  creditS : Nat
  /-- Entries freed here since the last flit sent. -/
  freedQ : Nat
  freedS : Nat
  inQ : List RFlit
  inS : List RFlit
  schedQ : List RFlit
  /-- Replicas of the blocked branches through this output, oldest first, at most 64 (R362). -/
  replicas : List RFlit := []
  /-- The flit that the port puts on the link in the present slot. -/
  wire : Option Flit
  retraining : Bool
  down : Bool
deriving DecidableEq, Repr

/-- An entry of the combining table (R373). -/
structure Combine where
  waiting : Bool
  dst : Nat
  job : Nat
  addr : Nat
  ty : Nat
  tag : Nat
  /-- The manifest: requester identifiers and addends. -/
  manifest : List (Nat × Word)
  msgs : List Msg
deriving DecidableEq, Repr

/-- A request sent and not answered (R371). -/
structure Outstanding where
  tag : Nat
  core : Nat
  /-- The command, or the operand-log entry of a scalar access (slot, seq). -/
  cmd : Option Nat
  access : Option (Nat × Nat)
  opc : BitVec 8
  node : Nat
  raddr : Nat
  /-- Where a READ's data or an FADD's old value goes: a region byte position or a local virtual address. -/
  place : Nat
  len : Nat
  ty : Nat
deriving DecidableEq, Repr

/-- The states of a lease at either side (Table 13.9). -/
inductive LeaseState where
  | granting
  | held
  | recalling
  | demoting
  | releasing
deriving DecidableEq, Repr

/-- A lease (R377-R379). -/
structure Lease where
  lender : Bool
  peer : Nat
  lid : Nat
  reg0 : Nat
  nreg : Nat
  grace : Nat
  state : LeaseState
  deadline : Word
  /-- The Reeve command that waits on it: core and id. -/
  cmd : Option (Nat × Nat)
deriving DecidableEq, Repr

/-- The router, the fabric requests of the package, and the leases. -/
structure Fabric where
  ports : FMap LinkPort
  /-- Output of each destination package for unscheduled flits, loaded at boot (R357). -/
  routes : FMap Nat
  bankA : List Word
  bankB : List Word
  act : Bool
  pend : Bool
  switchAt : Option Nat
  lderr : Bool
  frame : Nat
  slot : Nat
  /-- Flits that wait at the local injection input. -/
  inject : List RFlit
  /-- Requests ejected here and not yet served, oldest first; responses not yet taken. -/
  inbox : List Msg
  responses : List Msg
  combining : List Combine
  outstanding : List Outstanding
  nextTag : Nat
  /-- Next CSEQ of each circuit. -/
  cseq : FMap Nat
  /-- Accepted (NODE, CIRC, CSEQ) in the window (R361). -/
  seen : List (Nat × Nat × Nat)
  rr : FMap Nat
  leases : List Lease
  /-- Lease events that wait for room in their ring (R381). -/
  events : List (List Word)
  fevbase : Word
  fevtail : BitVec 32
  fevhead : BitVec 32
  fevsem : Word
deriving DecidableEq, Repr

/-! ### Clusters, package registers, memories -/

/-- A trap record that waits for room in its ring (R388), as doublewords. -/
abbrev Record := List Word

/-- A TLBI or ICINV under way (R78, R401): the number that its xd waits for, the job (none: not open), the first address, and
the extent in bytes, 0 for the whole job. -/
structure Sweep where
  seq : Nat
  job : Option Nat
  first : Nat
  extent : Nat
deriving DecidableEq, Repr

/-- What a context word does with its target (R397, R399). -/
inductive ContextOp where
  | snap
  | out
  | into
deriving DecidableEq, Repr

/-- A CTXS or CTXL.INTO under way: its target, the number that its xd waits for, and the image's address (0: none). -/
structure Transfer where
  op : ContextOp
  slot : Nat
  crewId : Nat
  seq : Nat
  image : Nat
deriving DecidableEq, Repr

/-- A Reeve's CSRs and its pending words (Table 14.4, R397). -/
structure ReeveState where
  trqbase : Word
  trqtail : BitVec 32
  trqhead : BitVec 32
  rqst : Word
  records : List Record
  /-- Words under way, oldest first. -/
  tlbi : List Sweep
  icinv : List Sweep
  transfers : List Transfer
  /-- Restarts that the Clerk has recorded in the health registers (R383). -/
  restarts : Nat
deriving DecidableEq, Repr

/-- Package-wide registers (Tables 10.2, 10.4, 15.2 to 15.6) and the package's condition. -/
structure Package where
  node : Word
  msh : Word
  eccce : Word
  eccue : Word
  eccaddr : Word
  droopst : Word
  linkst : Word
  shockst : Word
  repair : Word
  coredis : Word
  weareol : Word
  /-- Clusters whose clock is stretched (R415). -/
  stretched : BitVec 8
  hold : Bool
  /-- The failure of the firmware's signature that is reported on Ngugrim (R423). -/
  signatureFailed : Bool
  /-- Package in reset (before the boot and after a failed signature), or stopped (R416). -/
  inReset : Bool
  powered : Bool
  /-- A forced or failed self-test holds EN at 0 (R419, R421). -/
  enBlocked : Bool
  /-- The peaks of the shock log in g, newest first, at most 64 (R419). -/
  shocks : List (BitVec 16)
deriving DecidableEq, Repr

/-- A write through one window that the other window may not see yet (R279). -/
structure Crossing where
  /-- The 64-byte sector, by bank-linear offset / 64. -/
  sector : Nat
  /-- The window of the writer: true for bank-linear. -/
  linear : Bool
  /-- The sector's bytes before the write. -/
  old : BitVec 512
  /-- The word that wrote: its crew's bench and identifier, and its number; none where no crew's word did. -/
  writer : Option (Nat × Nat × Nat) := none
deriving DecidableEq, Repr

/-- What the pseudo-channel controllers keep of host accesses (R273, R276). A run is the bytes of an access that lie in one row:
bank-linear offset and length. -/
structure HostService where
  /-- Runs that wait for a MILL-owned bank, oldest first. -/
  queue : List (Nat × Nat)
  /-- Runs that have been served for an access that still waits for another of its runs. -/
  served : List (Nat × Nat)
  /-- The model's own: the runs that the turn under way uses. -/
  used : List (Nat × Nat)
  /-- 64-byte sectors that each pseudo-channel has moved in its slot, or is to move in the slots after it. -/
  slots : FMap Nat
deriving DecidableEq, Repr

/-! ### Turns -/

/-- Who issues the word that exec runs (the model's own). -/
inductive Issuer where
  | none
  | crew (slot : Nat) (str : Stream)
  | mill (m : Nat)
deriving DecidableEq, Repr

/-- Whose turn a step is (the model's own): a crew's clk, a Mill's word, the command port, or an event of the table. -/
inductive Turn where
  | crew (slot : Nat)
  | mill (m : Nat)
  | port
  | event (i : Instr)
  /-- A failure of cells of HBM in an ECC sector: the bits that change, or that read wrongly from now on (R282, R283). -/
  | cellError (sector : Nat) (bits : BitVec 272) (persists : Bool)
  /-- Bits of a scratchpad byte, by its key, that are stuck from now on: which, and at what (R420, R451). -/
  | stuckAt (key : Nat) (mask value : Byte)
deriving DecidableEq, Repr

/-- An access of an engine command, or of the device in a turn, that has to wait: for a lender's answer (R80, R81), or, with no
operation code, the device's own for Ngugrim (R417). -/
structure LentAccess where
  /-- The command, by core and number, and how far it has come; none: the device's own. -/
  cmd : Option (Nat × Nat)
  progress : Nat × Nat
  /-- The unit for which the device makes an atomic access; else 0. -/
  owner : Nat
  core : Nat
  job : Nat
  /-- The virtual address, and the target that it was translated to. -/
  va : Nat
  target : Target
  opc : Nat
  /-- CNT of the request (log 18). -/
  cnt : Nat
  len : Nat
  data : List Byte
  opnd : Word
  /-- The tag of the request; none until it is sent. -/
  tag : Option Nat
  /-- The status, the data and the old value; status 5 stands for a response that did not come (R371). -/
  answer : Option (Nat × List Byte × Word)
  /-- The model's own: the turn under way has made use of the answer. -/
  used : Bool
deriving DecidableEq, Repr

/-- The state of the package. -/
structure State where
  /-- The model's own: the turns to come; what the outside world and the passing of time decide. -/
  agenda : List Turn
  /-- The model's own: who issues the word being run. -/
  cur : Issuer
  /-- The model's own: the number of the next free value. -/
  free : Nat
  /-- The model's own: the next fresh number (units, commands, log entries, epochs). -/
  stamp : Nat
  /-- The model's own: an access that the device makes in the step must wait, so that the step is not taken; false between
  steps. -/
  balked : Bool
  crews : FMap Crew
  cores : FMap CoreState
  mills : FMap MillState
  /-- The code store of each stack: key stack × 65,536 + offset (R290). -/
  code : Memory
  levels : FMap Level
  replays : FMap Replay
  /-- Interval numbers I(job, g): key job × 512 + g (R338). -/
  intervals : FMap Word
  /-- Guard-table entries that have been read and stay in effect until a TLBI of their job: key job × 512 + g (R77, R338). -/
  guards : FMap Word
  units : FMap WorkUnit
  nextCrew : Nat
  dispatcher : Dispatcher
  port : Port
  fabric : Fabric
  reeves : FMap ReeveState
  pkg : Package
  /-- The last-level TLB and the pointer cache (R74). -/
  tlb : List TlbEntry
  pointers : FMap Word
  /-- Local HBM, by bank-linear offset (R72). -/
  hbm : Memory
  crossings : List Crossing
  host : HostService
  lent : List LentAccess
  /-- ECC sectors that hold the poison pattern, by bank-linear offset / 32 (R284). -/
  eccPoison : List Nat
  /-- Errors of ECC sectors, by bank-linear offset / 32: the bits of the 32 data bytes, from bit 0, and of the 16 check bits
  above them in which what is stored differs from what was written (R282). -/
  eccErr : FMap (BitVec 272)
  /-- Bits of ECC sectors that read wrongly whatever is written: defects that persist (R283). -/
  eccStuck : FMap (BitVec 272)
  /-- Control-node memory, by bus address. -/
  ctl : Memory
  /-- Scratchpads: key space × 2^32 + address; space core, 64 + cluster (Reeve), 72 + cluster, 80 (die) (R212). -/
  spad : Memory
  /-- Stuck scratchpad bits, by key: which, and at what value (R420, R451). -/
  spadStuck : FMap (Byte × Byte)
deriving DecidableEq, Repr

/-! ### How a step can stop -/

/-- The reasons for which a step stops with a fault. -/
inductive Fault where
  /-- Raised by exec when it is handed a word and no crew or Mill is named that could issue it, or the named one does not
  exist; the manual describes words only as issued by one (the model's own; safe). -/
  | noIssuer
deriving DecidableEq, Repr

/-- The reasons for which an instruction is refused. -/
inductive Refusal where
  /-- Raised by exec for an instruction that has no meaning here (safe). -/
  | notModelled (mnemonic : String)
deriving DecidableEq, Repr

/-! ### Reset -/

/-- A fabric port at reset: nothing in flight, every credit of the far end's 32 entries of each class there (R354, R357). -/
def LinkPort.reset : LinkPort :=
  { replay := [], nextSeq := 0, resend := none, acked := 4095, nakDue := false, creditQ := 32, creditS := 32, freedQ := 0,
    freedS := 0, inQ := [], inS := [], schedQ := [], wire := none, retraining := false, down := false }

/-- The router and the leases at reset (Table 13.7): both slot-table banks feed every output from no input (log 24). -/
def Fabric.reset : Fabric :=
  { ports := [], routes := [], bankA := List.replicate 256 0x000FFFFFFFFFFFFF, bankB := List.replicate 256 0x000FFFFFFFFFFFFF,
    act := false, pend := false, switchAt := none, lderr := false, frame := 0, slot := 0, inject := [],
    inbox := [], responses := [], combining := [], outstanding := [], nextTag := 0, cseq := [], seen := [], rr := [],
    leases := [], events := [], fevbase := 0, fevtail := 0, fevhead := 0, fevsem := 0 }

/-- The command port at reset (Table 02.1). -/
def Port.reset : Port :=
  { cqbase := 0, cqtail := 0, cqhead := 0, cpbase := 0, cptail := 0, cphead := 0, en := false, err := false, held := false,
    retrain := false, attreq := 0, bootst := 0, stopped := false, current := none, ended := [], lost := false, attesting := false }

/-- The package registers at reset (Tables 03.1, 10.2, 10.4, 15.2 to 15.6): the package is in reset until its boot (R423);
the values that the boot writes, and those kept from before, stand at zero (log 4). -/
def Package.reset : Package :=
  { node := 0, msh := 8, eccce := 0, eccue := 0, eccaddr := 0, droopst := 0, linkst := 0, shockst := 0, repair := 0,
    coredis := 0, weareol := 0xFFFF000000000000, stretched := 0, hold := false, signatureFailed := false, inReset := true, powered := true,
    enBlocked := false, shocks := [] }

/-- The package right after reset: no crew, no work, no program, the Clerk's boot still to come (PACKAGE_BOOT). -/
def State.reset : State :=
  { agenda := [], cur := .none, free := 0, stamp := 1, balked := false, crews := [], cores := [], mills := [], code := [], levels := [],
    replays := [], intervals := [], guards := [], units := [], nextCrew := 1,
    dispatcher := { store := [], lastServed := [], reserved := [], waiting := [] }, port := .reset, fabric := .reset,
    reeves := [], pkg := .reset, tlb := [], pointers := [], hbm := [], crossings := [],
    host := { queue := [], served := [], used := [], slots := [] }, lent := [], eccPoison := [], eccErr := [], eccStuck := [],
    ctl := [], spad := [], spadStuck := [] }

end Sys2Proof.Machine
end

