-- ==== Sys2Proof/Machine/Map.lean ====
section
/-!
DEFINITION. The operations over finite maps and byte memories: the one place where a list of pairs is searched or changed. -/
namespace Sys2Proof.Machine

/-- The value at a key. -/
def mapGet {α : Type} : FMap α → Nat → Option α
  | [], _ => none
  | (k, v) :: m, a => if a = k then some v else mapGet m a

/-- The value at a key, or a default. -/
def mapGetD {α : Type} (m : FMap α) (a : Nat) (d : α) : α := (mapGet m a).getD d

/-- Sets the value at a key, keeping the keys strictly rising. -/
def mapSet {α : Type} : FMap α → Nat → α → FMap α
  | [], a, v => [(a, v)]
  | (k, w) :: m, a, v => if a < k then (a, v) :: (k, w) :: m else if a = k then (a, v) :: m else (k, w) :: mapSet m a v

/-- Removes a key: every entry of it, so that it is absent afterwards whatever the list held. -/
def mapErase {α : Type} : FMap α → Nat → FMap α
  | [], _ => []
  | (k, w) :: m, a => if a = k then mapErase m a else (k, w) :: mapErase m a

/-- The byte at an address; an unlisted address reads zero (log 3). -/
def memGet (m : Memory) (a : Nat) : Byte := mapGetD m a 0

/-- Writes a byte, keeping the canonical form: writing zero removes the entry. -/
def memSet (m : Memory) (a : Nat) (b : Byte) : Memory := if b = 0 then mapErase m a else mapSet m a b

/-- n bytes from an address upward. -/
def memRead (m : Memory) (a : Nat) : Nat → List Byte
  | 0 => []
  | n + 1 => memGet m a :: memRead m (a + 1) n

/-- Writes bytes from an address upward. -/
def memWrite (m : Memory) (a : Nat) : List Byte → Memory
  | [] => m
  | b :: bs => memWrite (memSet m a b) (a + 1) bs

/-- Writes cells one after another. -/
def memWriteCells (m : Memory) : List Host.Cell → Memory
  | [] => m
  | (a, b) :: cs => memWriteCells (memSet m a b) cs

/-- Keys strictly rising from a bound, and no byte that an unlisted address reads as. -/
def memSortedFrom : Option Nat → Memory → Bool
  | _, [] => true
  | lo, (a, b) :: m => (match lo with | some l => decide (l < a) | none => true) && decide (b ≠ 0) && memSortedFrom (some a) m

/-- The canonical form of a memory. -/
def Memory.wf (m : Memory) : Bool := memSortedFrom none m

/-- The value of bytes, byte 0 lowest (R6). -/
def bytesValue : List Byte → Nat
  | [] => 0
  | b :: bs => b.toNat + 256 * bytesValue bs

/-- The first n bytes of a value (R6). -/
def valueBytes : Nat → Nat → List Byte
  | 0, _ => []
  | n + 1, v => BitVec.ofNat 8 v :: valueBytes n (v / 256)

/-- The doubleword of eight bytes. -/
def bytesWord (bs : List Byte) : Word := BitVec.ofNat 64 (bytesValue bs)

/-- The eight bytes of a doubleword. -/
def wordBytes (w : Word) : List Byte := valueBytes 8 w.toNat

/-- The doublewords of a list of bytes. -/
def bytesWords : Nat → List Byte → List Word
  | 0, _ => []
  | n + 1, bs => bytesWord (bs.take 8) :: bytesWords n (bs.drop 8)

/-- The value of doublewords, first lowest. -/
def wordsValue : List Word → Nat
  | [] => 0
  | w :: ws => w.toNat + 2 ^ 64 * wordsValue ws

/-- Inserts a number into a strictly rising list. -/
def setInsert : List Nat → Nat → List Nat
  | [], a => [a]
  | k :: m, a => if a < k then a :: k :: m else if a = k then k :: m else k :: setInsert m a

/-- Bits hi to lo of a word, as a number (R5). -/
def bits (w : Word) (hi lo : Nat) : Nat := (w.toNat >>> lo) % 2 ^ (hi + 1 - lo)

/-- A word with bits hi to lo replaced by a number (R5). -/
def withBits (w : Word) (hi lo v : Nat) : Word :=
  let m : Nat := (2 ^ (hi + 1 - lo) - 1) <<< lo
  (w &&& ~~~(BitVec.ofNat 64 m)) ||| BitVec.ofNat 64 ((v % 2 ^ (hi + 1 - lo)) <<< lo)

/-- Replaces every element of a list that satisfies a test. -/
def updateIf {α : Type} (p : α → Bool) (f : α → α) (l : List α) : List α := l.map fun a => if p a then f a else a

end Sys2Proof.Machine
end

