-- ==== Sys2Proof/Machine/Memory.lean ====
section
/-!
DEFINITION. The memories behind physical addresses: the two windows onto local HBM (R71-R73), what an unfenced write through
one window shows the other (R279), near-memory ECC (R282-R284), control-node memory, and the scratchpads (R212, R213).
-/
namespace Sys2Proof.Machine
open Sys2Proof.Config

/-! ### The two windows -/

/-- The bank-linear offset of the cell that an interleaved offset names (R73). -/
def linearOffset (o : Nat) : Nat :=
  let g := o / 512
  let ch := (g % 512) ^^^ (g / 512 % 512) ^^^ (g / 262144 % 512) ^^^ (g / 134217728 % 8)
  ch / 64 * 0xC00000000 + ch % 64 * 0x30000000 + g / 512 * 512 + o % 512

/-- Whether a physical address lies in the bank-linear window (R71). -/
def inLinear (a : Nat) : Bool := decide (linearBase ≤ a ∧ a < linearBase + hbmBytes)

/-- Whether a physical address names memory (R71). -/
def inWindow (a : Nat) : Bool := decide (a < hbmBytes) || inLinear a

/-- The cell that a physical address in a window names, as a bank-linear offset (R71, R73). -/
def cellOf (a : Nat) : Nat := if inLinear a then a - linearBase else linearOffset a

/-- Whether n bytes from an address lie wholly in one window (R388). -/
def wholeInWindow (a n : Nat) : Bool :=
  decide (a + n ≤ hbmBytes) || decide (linearBase ≤ a ∧ a + n ≤ linearBase + hbmBytes)

/-- The pseudo-channel (Mill number) of a bank-linear offset (R72, R271). -/
def millOf (b : Nat) : Nat := b / channelBytes

/-- The bank of a bank-linear offset within its pseudo-channel (R72). -/
def bankOf (b : Nat) : Nat := b % channelBytes / 0x3000000

/-- The row of a bank-linear offset within its bank (R72). -/
def rowOf (b : Nat) : Nat := b % 0x3000000 / 1024

/-! ### When the memories serve an access (R273, R276, R415) -/

/-- Whether a wheel's present slot is the Mill's (R273). -/
def millSlot (v : MillState) : Bool :=
  v.ownedBanks != 0 && !(v.wheelSlot == 0 && v.revolution % 8 == 0) &&
    decide (v.wheelSlot * v.share / 16 < (v.wheelSlot + 1) * v.share / 16)

/-- The 64-byte sectors of n bytes from a cell. -/
def sectorCount (b n : Nat) : Nat := if n = 0 then 0 else (b + n - 1) / 64 - b / 64 + 1

/-- The Mill controller that shares the pseudo-channel of a cell, one of whose banks is MILL-owned (R273). -/
def sharedWith (s : State) (b : Nat) : Option MillState :=
  match mapGet s.mills (millOf b) with
  | some m => if m.ownedBanks = 0 then none else some m
  | none => none

/-- Whether a host slot that has moved some sectors has room for more: five sectors, and an access that is larger goes on in the
host slots after it (R273). -/
def slotRoom (used k : Nat) : Bool := used == 0 || decide (used + k ≤ 5)

/-- Whether a run of a host access may be performed now without a service of its own: always on a pseudo-channel without a
MILL-owned bank, and on a HOST-owned bank in a host slot with room (R273, R276). -/
def runRoom (s : State) (r : Nat × Nat) : Bool :=
  match sharedWith s r.1 with
  | none => true
  | some m => !m.ownedBanks.getLsbD (bankOf r.1) && !millSlot m &&
      slotRoom (mapGetD s.host.slots (millOf r.1) 0) (sectorCount r.1 r.2)

/-- Whether a run may be performed now. -/
def runOpen (s : State) (r : Nat × Nat) : Bool := s.host.served.contains r || runRoom s r

/-- Adds the sectors of a run to what its pseudo-channel moves in its slot. -/
def moveSectors (h : HostService) (r : Nat × Nat) : FMap Nat :=
  mapSet h.slots (millOf r.1) (mapGetD h.slots (millOf r.1) 0 + sectorCount r.1 r.2)

/-- Performs a run: it waits no more, and takes room of its slot unless it has been served. -/
def takeRun (s : State) (r : Nat × Nat) : State :=
  let h := s.host
  let served := h.served.contains r
  { s with host := { h with
      queue := h.queue.erase r
      used := if served || (sharedWith s r.1).isSome then r :: h.used else h.used
      slots := if !served && (sharedWith s r.1).isSome then moveSectors h r else h.slots } }

/-- What becomes of a run of an access that must wait for another of its runs: it is served as soon as its slot has room, and on
a MILL-owned bank it waits behind those that came before it (R276). -/
def holdRun (s : State) (r : Nat × Nat) : State :=
  let h := s.host
  match sharedWith s r.1 with
  | none => s
  | some m =>
    if h.served.contains r then s
    else if runRoom s r then { s with host := { h with served := h.served ++ [r], slots := moveSectors h r } }
    else if m.ownedBanks.getLsbD (bankOf r.1) && !h.queue.contains r then { s with host := { h with queue := h.queue ++ [r] } }
    else s

/-- The oldest waiting run of a pseudo-channel on a MILL-owned bank (R276). -/
def oldestRun (s : State) (mill : Nat) : Option (Nat × Nat) :=
  s.host.queue.find? fun r => millOf r.1 == mill &&
    match sharedWith s r.1 with | some m => m.ownedBanks.getLsbD (bankOf r.1) | none => false

/-- The runs that one service performs: the oldest, then those that wait for the same row, oldest first, as far as sixteen
sectors go (R276). -/
def serviceRuns (s : State) (r : Nat × Nat) : List (Nat × Nat) :=
  let same := s.host.queue.filter fun q => q != r && millOf q.1 == millOf r.1 && bankOf q.1 == bankOf r.1 && rowOf q.1 == rowOf r.1
  (same.foldl (fun (a : List (Nat × Nat) × Nat) q =>
    let k := a.2 + sectorCount q.1 q.2
    if k ≤ 16 then (a.1 ++ [q], k) else a) ([r], sectorCount r.1 r.2)).1

/-- Serves runs that waited. -/
def serveRuns (s : State) (l : List (Nat × Nat)) : State :=
  { s with host := { s.host with queue := s.host.queue.filter (!l.contains ·), served := s.host.served ++ l } }

/-- The controllers after a turn that was taken: its accesses have used their services. -/
def HostService.settled (h : HostService) : HostService :=
  { h with served := h.served.filter (!h.used.contains ·), used := [] }

/-- The controllers after accesses that are not made in the end: what was moved for them is served. -/
def HostService.undone (h : HostService) : HostService :=
  { h with served := h.served ++ h.used.filter (!h.served.contains ·), used := [] }

/-- n bytes from an address cut at 512 bytes, which lie in one row: address and length of each; fuel bounds them. -/
def rowRuns (a : Nat) : Nat → Nat → List (Nat × Nat)
  | 0, _ => []
  | _, 0 => []
  | fuel + 1, n =>
    let k := min n (512 - a % 512)
    (a, k) :: rowRuns (a + k) fuel (n - k)

/-- The runs of an access, each in one row of one bank. -/
def rowsOf (a n : Nat) : List (Nat × Nat) := (rowRuns a (n / 512 + 2) n).map fun r => (cellOf r.1, r.2)

/-- Whether a host access to local HBM may be performed now: every run of it, each beside those before it. -/
def hostReach (s : State) (a n : Nat) : Bool :=
  s.mills.isEmpty || ((rowsOf a n).foldl (fun (q : Bool × State) r => (q.1 && runOpen q.2 r, takeRun q.2 r)) (true, s)).1

/-- Takes what a host access moves from the slots and services that it uses. -/
def hostTakes (s : State) (a n : Nat) : State := if s.mills.isEmpty then s else (rowsOf a n).foldl takeRun s

/-- A host access that cannot be performed yet stands before the controllers of its runs; in a step that is not taken, the first
that waits alone. -/
def hostWaits (s : State) (a n : Nat) : State := if s.mills.isEmpty || s.balked then s else (rowsOf a n).foldl holdRun s

/-- Whether a command runs on through HOLD: a started Carter, Gleaner, matrix, BQLOAD or WINFENCE command (R415). -/
def runsOn (s : State) : Bool :=
  (s.cores.any fun q => (q.2.copyRun ++ q.2.matRun).any (!·.held) ||
    (q.2.bankRun ++ q.2.bankQ.take 1).any fun e => e.started && !e.held && (e.kind == .bqload || e.kind == .winfence)) ||
    (s.crews.any fun q => q.2.glCmds.any fun e => e.started && !e.held)

/-- Whether memory accesses can be performed: HBM is in self-refresh during HOLD, once no command runs on (R415). -/
def memoryAwake (s : State) : Bool := !s.pkg.hold || runsOn s

/-- Whether the device may read or write local HBM now. -/
def hbmReady (s : State) (a n : Nat) : Bool := memoryAwake s && hostReach s a n

/-- An access that the device makes in this step must wait: the step is not taken (log 1). -/
def balk (s : State) : State := { s with balked := true }

/-- A read or write of local HBM by the device that must wait: it stands before the controllers, unless HBM is in self-refresh. -/
def balkAt (s : State) (a n : Nat) : State := balk (if memoryAwake s then hostWaits s a n else s)

/-! ### ECC -/

/-- The 32-byte ECC sectors that n bytes from a cell touch (R282). -/
def eccSectors (b n : Nat) : List Nat :=
  if n = 0 then [] else (List.range ((b + n - 1) / 32 - b / 32 + 1)).map (b / 32 + ·)

/-- Adds to a 32-bit counter that holds at its maximum (Table 10.4). -/
def addHold (w : Word) (n : Nat) : Word := BitVec.ofNat 64 (min (w.toNat + n) 0xFFFFFFFF)

/-- The bits of an ECC sector that a read finds wrong. -/
def sectorError (s : State) (k : Nat) : BitVec 272 := mapGetD s.eccErr k 0 ||| mapGetD s.eccStuck k 0

/-- The symbols of 8 bits, of the 34, that are in error (R282). -/
def symbolErrors (p : BitVec 272) : Nat := ((List.range 34).filter fun i => p.toNat / 2 ^ (8 * i) % 256 != 0).length

/-- What the code makes of an ECC sector. -/
inductive EccVerdict where
  | clean
  | corrected
  /-- Detected as uncorrectable. -/
  | detected
  /-- Miscorrected: the data bits that the read delivers wrongly, and whether the code takes itself to have corrected it. -/
  | wrong (data : BitVec 256) (counted : Bool)
deriving DecidableEq, Repr

/-- The code corrects one symbol and detects two; what it makes of three or more is unpredictable (R282). -/
def eccVerdict (p : BitVec 272) : EccVerdict :=
  match symbolErrors p with
  | 0 => .clean
  | 1 => .corrected
  | 2 => .detected
  | _ => match eccBeyond p with | some w => .wrong w.1 w.2 | none => .detected

/-- Whether an ECC sector is delivered as poisoned: it holds the poison pattern, or its error is detected (R284). -/
def sectorPoisoned (s : State) (k : Nat) : Bool :=
  s.eccPoison.contains k || decide (eccVerdict (sectorError s k) = .detected)

/-- Whether a read of an ECC sector counts it as corrected (R283). -/
def corrects (s : State) (k : Nat) : Bool :=
  !s.eccPoison.contains k && match eccVerdict (sectorError s k) with | .corrected => true | .wrong _ c => c | _ => false

/-- The data bits of an ECC sector that a read delivers wrongly. -/
def miscorrected (s : State) (k : Nat) : BitVec 256 :=
  if s.eccPoison.contains k then 0 else match eccVerdict (sectorError s k) with | .wrong w _ => w | _ => 0

/-- Whether no ECC sector of HBM is in error. -/
def eccClean (s : State) : Bool := s.eccPoison.isEmpty && s.eccErr.isEmpty && s.eccStuck.isEmpty

/-- What a read counts: corrected sectors in ECCCE, poisoned ones in ECCUE, the last of these in ECCADDR (R283, R284). -/
def eccCount (s : State) (b n : Nat) : State :=
  let secs := eccSectors b n
  let bad := secs.filter (sectorPoisoned s)
  let fixed := secs.filter (corrects s)
  let p := if fixed.isEmpty then s.pkg else { s.pkg with eccce := addHold s.pkg.eccce fixed.length }
  match bad.getLast? with
  | none => if fixed.isEmpty then s else { s with pkg := p }
  | some k =>
    { s with pkg := { p with eccue := addHold p.eccue bad.length,
                             eccaddr := BitVec.ofNat 64 (2 ^ 63 + linearBase + 32 * k) } }

/-- Whether n bytes from a cell touch an ECC sector that is delivered as poisoned (R284). -/
def touchesPoison (s : State) (b n : Nat) : Bool := !eccClean s && (eccSectors b n).any (sectorPoisoned s)

/-- The bytes of cells as a read delivers them: those of a miscorrected sector are wrong. -/
def delivered (s : State) (b : Nat) (bs : List Byte) : List Byte :=
  if s.eccErr.isEmpty && s.eccStuck.isEmpty then bs
  else
    (List.range bs.length).map fun i =>
      bs.getD i 0 ^^^ BitVec.ofNat 8 ((miscorrected s ((b + i) / 32)).toNat / 2 ^ (8 * ((b + i) % 32)))

/-- What a write to a part of an ECC sector makes of the sector that it reads and merges: a miscorrection is written back, and
one that is delivered as poisoned is poisoned (R283, R284). -/
def mergeSector (s : State) (k : Nat) : State :=
  if sectorPoisoned s k then { s with eccPoison := setInsert s.eccPoison k }
  else { s with hbm := memWrite s.hbm (32 * k) (delivered s (32 * k) (memRead s.hbm (32 * k) 32))
                eccErr := mapErase s.eccErr k }

/-- What a write does to the sectors it touches, before its bytes are laid: a whole sector is written afresh, a part of one is
corrected and merged, and a part of a poisoned one keeps its poison (R283, R284). -/
def eccWrite (s : State) (b n : Nat) : State :=
  if eccClean s then s else
  let secs := eccSectors b n
  let whole := secs.filter fun k => decide (b ≤ 32 * k) && decide (32 * k + 32 ≤ b + n)
  let part := secs.filter fun k => !whole.contains k
  let fixed := part.filter (corrects s)
  let s := part.foldl mergeSector s
  { s with
    eccPoison := s.eccPoison.filter fun k => !whole.contains k
    eccErr := s.eccErr.filter fun e => !whole.contains e.1
    pkg := if fixed.isEmpty then s.pkg else { s.pkg with eccce := addHold s.pkg.eccce fixed.length } }

/-- Stores the poison pattern in every sector that n bytes from a cell touch (R284). -/
def poisonSectors (s : State) (b n : Nat) : State :=
  { s with eccPoison := (eccSectors b n).foldl setInsert s.eccPoison }

/-- The patrol scrubber rewrites what a read of each sector in error corrects, in one stack (R283). -/
def scrubStack (s : State) (stack : Nat) : State :=
  ((s.eccErr.map (·.1)).filter fun k => k / 0x60000000 == stack && corrects s k).foldl mergeSector s

/-! ### Cells through a window -/

/-- The 64 bytes of a sector as they stand at the cells. -/
def sectorNow (s : State) (sec : Nat) : List Byte := memRead s.hbm (64 * sec) 64

/-- n bytes of the cells as a read delivers them. -/
def cellBytes (s : State) (b n : Nat) : List Byte := delivered s b (memRead s.hbm b n)

/-- The contents that a reader through a window may be shown for a sector: what the cells hold, and what they held before
each unfenced write through the other window (R279). -/
def sectorViews (s : State) (linear : Bool) (sec : Nat) : List (List Byte) :=
  cellBytes s (64 * sec) 64 ::
    (s.crossings.filter fun c => c.sector == sec && c.linear != linear).map fun c => valueBytes 64 c.old.toNat

/-- The sector as one read through a window sees it; the number is that of the choice (log 14). -/
def sectorSeen (s : State) (linear : Bool) (sec n : Nat) : List Byte :=
  let vs := sectorViews s linear sec
  vs.getD (freeChoice n sec % vs.length) (cellBytes s (64 * sec) 64)

/-- Whether a sector has an unfenced write through the other window. -/
def crossed (s : State) (linear : Bool) (sec : Nat) : Bool :=
  s.crossings.any fun c => c.sector == sec && c.linear != linear

/-- Reads n bytes, at most to the end of one sector, through a window. -/
def readSector (s : State) (linear : Bool) (b n : Nat) : List Byte :=
  if crossed s linear (b / 64) then ((sectorSeen s linear (b / 64) s.free).drop (b % 64)).take n else cellBytes s b n

/-- n bytes from an address cut at the sector boundaries: address and length of each run; fuel bounds the runs. -/
def sectorRuns (a : Nat) : Nat → Nat → List (Nat × Nat)
  | 0, _ => []
  | _, 0 => []
  | fuel + 1, n =>
    let k := min n (64 - a % 64)
    (a, k) :: sectorRuns (a + k) fuel (n - k)

/-- The runs of an access. -/
def runsOf (a n : Nat) : List (Nat × Nat) := sectorRuns a (n / 64 + 2) n

/-- The bytes that a read of local HBM at a physical address returns (R279, R334). -/
def hbmBytesAt (s : State) (a n : Nat) : List Byte :=
  (runsOf a n).flatMap fun r => readSector s (inLinear r.1) (cellOf r.1) r.2

/-- Whether a read of n bytes at a physical address meets an unfenced write through the other window. -/
def readsCrossed (s : State) (a n : Nat) : Bool :=
  !s.crossings.isEmpty && (runsOf a n).any fun r => crossed s (inLinear r.1) (cellOf r.1 / 64)

/-- The state after a read of local HBM: its ECC counts, and a fresh number for the next choice where one was made. -/
def afterRead (s : State) (a n : Nat) : State :=
  let s' := if eccClean s then s
    else (runsOf a n).foldl (fun t r => eccCount t (cellOf r.1) r.2) s
  if readsCrossed s a n then { s' with free := s'.free + 1 } else s'

/-- Whether a read of n bytes at a physical address meets poison, and at which byte (R284). -/
def poisonAt (s : State) (a n : Nat) : Option Nat :=
  if eccClean s then none else (List.range n).find? fun k => sectorPoisoned s (cellOf (a + k) / 32)

/-- Replaces bytes of a list from a position. -/
def overlay (bs : List Byte) (at_ : Nat) (new : List Byte) : List Byte :=
  bs.take at_ ++ new ++ bs.drop (at_ + new.length)

/-- A crossing as its readers see the sector once they have written bytes of it themselves: a window's own writes are in
order (R279, R301). -/
def Crossing.over (c : Crossing) (at_ : Nat) (bs : List Byte) : Crossing :=
  { c with old := BitVec.ofNat 512 (bytesValue (overlay (valueBytes 64 c.old.toNat) at_ bs)) }

/-- Writes bytes within one sector through a window. A sector that the other window has written, unfenced, ends wholly as
one of the two writes leaves it (R279). -/
def writeSector (s : State) (linear : Bool) (b : Nat) (bs : List Byte) : State :=
  let sec := b / 64
  let s := eccWrite s b bs.length
  let now := sectorNow s sec
  let entry : Crossing := { sector := sec, linear := linear, old := BitVec.ofNat 512 (bytesValue now) }
  if crossed s linear sec then
    let mine := overlay (sectorSeen s linear sec s.free) (b % 64) bs
    let ends := if freeBit s.free then mine else now
    let mended := s.crossings.map fun c => if c.sector == sec && c.linear != linear then c.over (b % 64) bs else c
    { s with hbm := memWrite s.hbm (64 * sec) ends, crossings := mended ++ [entry],
             free := s.free + 1 }
  else { s with hbm := memWrite s.hbm b bs, crossings := s.crossings ++ [entry] }

/-- Writes bytes at a physical address of local HBM, sector by sector. -/
def writeSectors (s : State) (a : Nat) : Nat → List Byte → State
  | 0, _ => s
  | _, [] => s
  | fuel + 1, bs =>
    let k := 64 - a % 64
    writeSectors (writeSector s (inLinear a) (cellOf a) (bs.take k)) (a + k) fuel (bs.drop k)

/-- A write to local HBM at a physical address. -/
def hbmWrite (s : State) (a : Nat) (bs : List Byte) : State := writeSectors s a (bs.length / 64 + 2) bs

/-- Writes that a word of a crew, by its bench, identifier and number, has made between two states. -/
def signCrossings (writer : Nat × Nat × Nat) (s t : State) : State :=
  let n := s.crossings.length
  { t with crossings := t.crossings.take n ++ (t.crossings.drop n).map fun c => { c with writer := some writer } }

/-- The writer that a command's writes name: a number above that of every word, for no word of its crew releases them before it
has ended (R330). -/
def commandWriter (e : EngCmd) : Nat × Nat × Nat := (e.slot, e.crewId, e.seq + 2 ^ 64)

/-- A command has ended: its writes are ordered by its signal, or else by what its crew releases from now on. -/
def endWrites (s : State) (e : EngCmd) (signals : Bool) : State :=
  if s.crossings.isEmpty then s
  else
    { s with crossings := s.crossings.map fun c =>
        if c.writer == some (commandWriter e) then
          { c with writer := if signals then none else some (e.slot, e.crewId, s.stamp) }
        else c }

/-- Whether nothing puts a write before what another crew does now: its crew still runs and has released nothing since the word
that wrote (R330, log 14). -/
def Crossing.unordered (s : State) (crewId : Nat) (c : Crossing) : Bool :=
  match c.writer with
  | none => false
  | some (slot, id, seq) =>
    id != crewId && match mapGet s.crews slot with
      | some d => d.crewId == id && decide (d.released < seq)
      | none => false

/-- What a WINFENCE of a crew leaves: every write that happens before it is seen through both windows (R279, R280). -/
def fenceWindows (s : State) (crewId : Nat) : State :=
  { s with crossings := s.crossings.filter (·.unordered s crewId) }

/-! ### Control-node memory and scratchpads -/

/-- A write to control-node memory. -/
def ctlWrite (s : State) (a : Nat) (bs : List Byte) : State := { s with ctl := memWrite s.ctl a bs }

/-- The key of the first byte of a scratchpad space: core, 64 + cluster for a Reeve, 72 + cluster, 80 for the die (R212). -/
def spadSpace (space addr : Nat) : Nat := space * 0x100000000 + addr

/-- The bench of a crew: its core, its cluster, and whether it is a Reeve (R55, R59). -/
def isReeve (slot : Nat) : Bool := decide (1024 ≤ slot)
/-- The cluster of a bench. What a restarted Reeve's former crew has still to perform stands on a bench above 1,031, of the same
cluster modulo 8 (R383, log 78). -/
def clusterOf (slot : Nat) : Nat := if slot < 1024 then slot / 128 else (slot - 1024) % 8
/-- The core whose engines a crew drives; on a Reeve core 8 × CLUSTER (R383). -/
def coreOf (slot : Nat) : Nat := if slot < 1024 then slot / 16 else 8 * clusterOf slot
/-- Whether a bench is one of the model's own, for what a stopped Reeve's crew has still to perform (R383). -/
def isResidue (slot : Nat) : Bool := decide (1032 ≤ slot)
/-- The bench number within the core, 16 on a Reeve (Table 03.1). -/
def benchOf (slot : Nat) : Nat := if slot < 1024 then slot % 16 else 16

/-- The key of a byte at a level, as a crew's bench or its engines reach it; none outside the level's range (R212, R213). -/
def spadKey (slot lvl addr : Nat) : Option Nat :=
  match lvl with
  | 0 =>
    if isReeve slot then (if addr < 0x40000 then some (spadSpace (64 + clusterOf slot) addr) else none)
    else if addr < 0x200000 then some (spadSpace (coreOf slot) addr) else none
  | 1 =>
    if 0x2000000 ≤ addr ∧ addr < 0xA000000 then
      some (spadSpace (72 + (addr - 0x2000000) / 0x1000000) (addr % 0x1000000))
    else none
  | 2 => if 0x4000000 ≤ addr ∧ addr < 0xA000000 then some (spadSpace 80 (addr - 0x4000000)) else none
  | _ => none

end Sys2Proof.Machine
end

