-- ==== Sys2Proof/Machine/Region.lean ====
section
/-!
DEFINITION. Regions of scratchpad that tile registers name (R201, R217, R218): their bytes, and reads and writes of them. -/
namespace Sys2Proof.Machine
open Sys2Proof.Config

/-- A region (Table 08.4), its rows in bytes. -/
structure Region where
  lvl : Nat
  base : Nat
  rows : Nat
  rowBytes : Nat
  pitch : Nat
deriving DecidableEq, Repr

/-- The region that a TDEF word defines (Table 08.4). -/
def regionOf (w : Word) : Region :=
  { lvl := bits w 1 0, base := bits w 31 6 * 64, rows := bits w 51 40, rowBytes := bits w 39 32 * 64, pitch := bits w 63 52 * 64 }

/-- The same region moved by some slots of a circular buffer (R235). -/
def Region.slot (r : Region) (k stride : Nat) : Region := { r with base := r.base + k * stride }

/-- Size in bytes (R217). -/
def Region.size (r : Region) : Nat := r.rows * r.rowBytes

/-- A region without bytes (R217). -/
def Region.empty (r : Region) : Bool := r.rows == 0 || r.rowBytes == 0

/-- The region word as a tile register holds it: reserved bits zero, and zero for an empty region (R217, R218). -/
def tileDefinition (w : Word) : Word :=
  let w := w &&& ~~~0x3C
  if (regionOf w).empty then 0 else w

/-- The address just past the last byte (R218). -/
def Region.limit (r : Region) : Nat := r.base + (r.rows - 1) * r.pitch + r.rowBytes

/-- Whether a region passes the checks of R218 on a bench: level, pitch, range, and one cluster at level 1. -/
def Region.valid (slot : Nat) (r : Region) : Bool :=
  r.lvl != 3 && !(decide (r.rows > 1) && decide (r.pitch < r.rowBytes)) &&
  (spadKey slot r.lvl r.base).isSome && (spadKey slot r.lvl (r.limit - 1)).isSome &&
  (r.lvl != 1 || r.base / 0x1000000 == (r.limit - 1) / 0x1000000)

/-- Whether a region lies in another cluster's scratchpad (R219). -/
def Region.foreign (slot : Nat) (r : Region) : Bool :=
  r.lvl == 1 && decide ((r.base - 0x2000000) / 0x1000000 ≠ clusterOf slot)

/-- The scratchpad key of region byte f, as a bench or its engines reach it; none outside the region (R201). -/
def Region.key (slot : Nat) (r : Region) (f : Nat) : Option Nat :=
  if f < r.size then spadKey slot r.lvl (r.base + f / r.rowBytes * r.pitch + f % r.rowBytes) else none

/-- A byte of a region; zero outside it (R201). -/
def Region.byte (s : State) (slot : Nat) (r : Region) (f : Nat) : Byte :=
  match r.key slot f with
  | some k => memGet s.spad k
  | none => 0

/-- n bytes of a region from position f. -/
def Region.read (s : State) (slot : Nat) (r : Region) (f : Nat) : Nat → List Byte
  | 0 => []
  | n + 1 => r.byte s slot f :: r.read s slot (f + 1) n

/-- The cells that a write of bytes at position f touches; positions outside the region take none (R201). -/
def Region.cells (slot : Nat) (r : Region) (f : Nat) : List Byte → List Host.Cell
  | [] => []
  | b :: bs =>
    match r.key slot f with
    | some k => (k, b) :: r.cells slot (f + 1) bs
    | none => r.cells slot (f + 1) bs

/-- Writes bytes of a region from position f. -/
def Region.write (s : State) (slot : Nat) (r : Region) (f : Nat) (bs : List Byte) : State :=
  { s with spad := memWriteCells s.spad (r.cells slot f bs) }

end Sys2Proof.Machine
end

