-- ==== Sys2Proof/Machine/Ops.lean ====
section
/-!
DEFINITION. The named operations over a crew: its registers with writes in flight, last use and poison (R91-R93, R114-R119),
the completion of a word with the loop test (R128), and taking a trap (R387, R388), written once for every instruction.
-/
namespace Sys2Proof.Machine
open Sys2Proof.Config

abbrev Out := Host.Outcome State Fault Refusal

/-! ### Reaching the parts of the state -/

/-- The crew on a bench. -/
def crewAt (s : State) (k : Nat) : Option Crew := mapGet s.crews k
/-- Puts a crew on a bench. -/
def putCrew (s : State) (k : Nat) (c : Crew) : State := { s with crews := mapSet s.crews k c }
/-- Changes the crew on a bench, where there is one. -/
def modCrew (s : State) (k : Nat) (f : Crew → Crew) : State :=
  match crewAt s k with
  | some c => putCrew s k (f c)
  | none => s

/-- An accumulator bank whose contents are undefined (R247). -/
def Bank.undefined (epoch : Nat) : Bank := { epoch := epoch, fill := none, cells := [], integer := false, flags := 0 }
/-- A core with nothing queued. -/
def CoreState.idle : CoreState :=
  { copyQ := [], copyRun := [], matQ := [], matRun := [], bankQ := [], bankRun := [], portQ := [], portRun := [], sems := [],
    claims := [], bank0 := .undefined 0, bank1 := .undefined 1, slotEpoch := [], slotLines := [], scaleLines := [], tlb := [], icache := [],
    races := [] }
/-- A core. -/
def coreAt (s : State) (k : Nat) : CoreState := mapGetD s.cores k .idle
/-- Replaces a core. -/
def putCore (s : State) (k : Nat) (c : CoreState) : State := { s with cores := mapSet s.cores k c }

/-- The registers of a cluster's Reeve at reset (Table 14.4). -/
def ReeveState.reset : ReeveState :=
  { trqbase := 0, trqtail := 0, trqhead := 0, rqst := 0, records := [], tlbi := [], icinv := [], transfers := [],
    restarts := 0 }
/-- A cluster's Reeve registers. -/
def reeveAt (s : State) (cl : Nat) : ReeveState := mapGetD s.reeves cl .reset
/-- Replaces a cluster's Reeve registers. -/
def putReeve (s : State) (cl : Nat) (r : ReeveState) : State := { s with reeves := mapSet s.reeves cl r }

/-- A fresh number: the state after it was taken. -/
def bump (s : State) : State := { s with stamp := s.stamp + 1 }
/-- Passes over n numbers of free values, so that later ones are new. -/
def spend (s : State) (n : Nat) : State := { s with free := s.free + n }

/-! ### A new crew (Table 01.3) -/

/-- A stream that has issued nothing (R108). -/
def StreamState.start (pc : Word) : StreamState :=
  { pc := pc, last := none, fetched := none, rvz := none, exited := false, loops := [] }

/-- A Gleaner context at its crew's creation (R241). -/
def Gleaner.empty : Gleaner :=
  { configured := false, tile := 0, tdef := 0, ibase := 0, rate := 1, rle := false, mpos := 0, m := 0, p := 0, run := 0, queue := [] }

/-- A crew as it is created (Table 01.3): v registers undefined, everything else as the table gives. -/
def Crew.create (crewId uid member : Nat) (spc vpc frame : Word) (params : List Word) (strict : Bool) (free : Nat) : Crew :=
  { crewId := crewId, uid := uid, member := member, state := .running, s := .start spc, v := .start vpc, counter := 0,
    x := Vector.ofFn fun i : Fin 64 =>
      if i.val = 1 then BitVec.ofNat 64 member else if i.val = 61 then frame
      else if 2 ≤ i.val ∧ i.val ≤ 9 then params.getD (i.val - 2) 0 else 0,
    xPoison := 0,
    vr := Vector.ofFn fun i : Fin 32 => freeVec (free + i.val),
    pr := Vector.ofFn fun i : Fin 12 => if i.val = 0 then BitVec.allOnes 256 else 0,
    freed := [], pendX := [], pendV := [], pendP := [], dataQ := [], brQ := [], fflags := 0, frm := 1, srseed := 0,
    srstrm := 0, srctr := 0, mflags := 0, strict := if strict then 1 else 0, trapcause := 0, trappc := 0, trapaddr := 0,
    lvlsel := 0, step := false, stepAt := none, csrPend := [], pendF := [], tdef := Vector.replicate 16 0, circ := [],
    shadow := Vector.replicate 7 0, pattern := 0, plen := 1, claim := none, claimGranted := false, gleaner := .empty,
    glCmds := [], pipes := [], log := [], vstores := [], served := [], released := 0, epochS := 0, epochV := 0, late := [],
    waitValue := none }

/-- One stream of a crew. -/
def Crew.stream (c : Crew) : Stream → StreamState
  | .s => c.s
  | .v => c.v
/-- Replaces one stream of a crew. -/
def Crew.setStream (c : Crew) (str : Stream) (st : StreamState) : Crew :=
  match str with
  | .s => { c with s := st }
  | .v => { c with v := st }

/-- The bench reference of a crew (Table 14.1). -/
def benchRef (k : Nat) (c : Crew) : Word :=
  BitVec.ofNat 64 (c.crewId * 0x100000000 + benchOf k * 64 + coreOf k)

/-- The docket of a unit; a Reeve's crew has none. -/
def unitOf (s : State) (c : Crew) : Option WorkUnit := mapGet s.units c.uid
/-- Doubleword i of a crew's docket. -/
def docketWord (s : State) (c : Crew) (i : Nat) : Word :=
  match unitOf s c with
  | some u => u.docket.getD i 0
  | none => 0
/-- The job of a crew (docket 0x20, bits 43-40). -/
def jobOf (s : State) (c : Crew) : Nat := bits (docketWord s c 4) 43 40
/-- The benches of a crew's lockstep group, its own included, in ascending member index (R24). -/
def groupOf (s : State) (k : Nat) (c : Crew) : List Nat :=
  match unitOf s c with
  | some u =>
    if u.members.isEmpty then [k]
    else u.members.filter fun m => match crewAt s m with | some d => d.uid == c.uid | none => false
  | none => [k]

/-! ### Registers with writes in flight -/

/-- Whether a register has a write that issued before the present count and has not landed (R115). A write whose word wrote no
element has no destination (R181). -/
def unlanded {w : Nat} (c : Crew) (l : List (Pend w)) (r : Nat) : Bool :=
  l.any fun p => p.reg == r && p.span != 0 && decide (p.issued < c.counter)

/-- Whether a register was freed by a word of an earlier count and no write to it has landed since (R119). -/
def isFreed (c : Crew) (f : RegFile) (r : Nat) : Bool :=
  c.freed.any fun e => e.file == f && e.reg == r && decide (e.count < c.counter)

/-- What a word reads from a scalar register: x0 is zero, a freed or unlanded register gives free value i of the word
(R91, R115, R119). -/
def readX (s : State) (c : Crew) (i : Nat) (r : BitVec 6) : Word :=
  if r = 0 then 0
  else if isFreed c .x r.toNat || unlanded c c.pendX r.toNat then freeWord (s.free + i)
  else c.x[r.toNat]

/-- The poison tag that a word reads with a scalar register: that of an unlanded register is undefined (R150); that of a freed
one, whose value alone R119 calls undefined, reads clean, which is the model's choice (log 21). -/
def tagX (s : State) (c : Crew) (i : Nat) (r : BitVec 6) : Bool :=
  if r = 0 then false
  else if unlanded c c.pendX r.toNat then freeBit (s.free + i)
  else if isFreed c .x r.toNat then false
  else c.xPoison.getLsbD r.toNat

/-- The bits of a register that words of earlier counts are still to write; every other bit is stable (R115, R181). -/
def unsettled {w : Nat} (c : Crew) (l : List (Pend w)) (r : Nat) : BitVec w :=
  l.foldl (fun m p => if p.reg == r && decide (p.issued < c.counter) then m ||| p.span else m) 0

/-- A register's value with undefined bits in the places still to be written. -/
def withUnsettled {w : Nat} (m v free : BitVec w) : BitVec w := if m = 0 then v else (v &&& ~~~m) ||| (free &&& m)

/-- What a word reads from a vector register. -/
def readV (s : State) (c : Crew) (i r : Nat) : VecReg :=
  if isFreed c .v r then freeVec (s.free + i)
  else withUnsettled (unsettled c c.pendV r) ((c.vr[r]?).getD 0) (freeVec (s.free + i))

/-- What a word reads from a predicate register: p0 is all ones (R93). -/
def readP (s : State) (c : Crew) (i r : Nat) : PredReg :=
  if r = 0 then BitVec.allOnes 256
  else if isFreed c .p r then freePred (s.free + i)
  else withUnsettled (unsettled c c.pendP r) ((c.pr[r]?).getD 0) (freePred (s.free + i))

/-- The TRAPADDR code of a register (Table 14.2, REG_DEAD and POISON). -/
def regCode (f : RegFile) (r : Nat) : Word :=
  match f with
  | .x => BitVec.ofNat 64 r
  | .v => BitVec.ofNat 64 (0x40 + r)
  | .p => BitVec.ofNat 64 (0x80 + r)

/-- Whether a register has a write in flight. -/
def inFlight (c : Crew) : RegFile → Nat → Bool
  | .x, r => unlanded c c.pendX r
  | .v, r => unlanded c c.pendV r
  | .p, r => unlanded c c.pendP r

/-- The first of a word's sources that is freed, with STRICT set: the REG_DEAD address (R119). A register with a write on its
way follows R115 instead. -/
def deadSource (c : Crew) (srcs : List (RegFile × Nat)) : Option Word :=
  if c.strict.getLsbD 0 then
    (srcs.find? fun q => !(q.2 == 0 && q.1 != .v) && isFreed c q.1 q.2 && !inFlight c q.1 q.2).map fun q => regCode q.1 q.2
  else none

/-- Whether a read of a scalar register must stall as late data: its write has no bound in counts (R397), or was issued again
and its bound has passed (R393). -/
def lateRead (c : Crew) (r : Nat) : Bool :=
  c.pendX.any fun p => p.reg == r && !p.ready && decide (p.issued < c.counter) &&
    (match p.land with | .event => true | .count l => p.again && decide (l ≤ c.counter))

/-- Whether one of a word's sources stalls it as late data. -/
def lateSource (c : Crew) (srcs : List (RegFile × Nat)) : Bool := srcs.any fun q => q.1 == .x && lateRead c q.2

/-- The pending write of a scalar result with a bound (R114); a write to x0 is discarded (R91). -/
def pendX (c : Crew) (str : Stream) (r : BitVec 6) (v : Word) (poison : Bool) (bound : Nat) : Crew :=
  if r = 0 then c
  else { c with pendX := c.pendX ++ [{ reg := r.toNat, mask := BitVec.allOnes 64, val := v, poison := poison,
                                       issued := c.counter, land := .count (c.counter + bound), ready := true, seq := 0,
                                       str := str, again := false }] }

/-- The pending write of an LDS that makes no access: what it gives fills a queue entry like a load's data (R121, R148). -/
def pendLoad (c : Crew) (str : Stream) (r : BitVec 6) (v : Word) : Crew :=
  if r = 0 then c
  else { c with pendX := c.pendX ++ [{ reg := r.toNat, mask := BitVec.allOnes 64, val := v, poison := true,
                                       issued := c.counter, land := .count (c.counter + 400), ready := true, seq := 0,
                                       str := str, again := false, load := true }] }

/-- The pending write of part of a vector register. -/
def pendV (c : Crew) (r : Nat) (mask v : VecReg) (bound : Nat) : Crew :=
  { c with pendV := c.pendV ++ [{ reg := r, mask := mask, val := v, poison := false, issued := c.counter,
                                  land := .count (c.counter + bound), ready := true, seq := 0, str := .v, again := false }] }

/-- The pending write of a predicate register. -/
def pendP (c : Crew) (str : Stream) (r : Nat) (mask v : PredReg) (bound : Nat) : Crew :=
  { c with pendP := c.pendP ++ [{ reg := r, mask := mask, val := v, poison := false, issued := c.counter,
                                  land := .count (c.counter + bound), ready := true, seq := 0, str := str, again := false }] }

/-- Whether a pending write lands at a count. -/
def Pend.due {w : Nat} (p : Pend w) (count : Nat) : Bool :=
  p.ready && (match p.land with | .count l => decide (l ≤ count) | .event => false)

/-- What a landed write leaves of a write that lands after it: it takes the bits that it decides, those of an earlier word of
its own stream and by a free choice those of the other stream, where both write one register (R116). -/
def claimFrom {w : Nat} (n : Nat) (p q : Pend w) : Pend w :=
  if q.reg == p.reg && (if q.str = p.str then decide (q.issued < p.issued) else freeBit n)
  then { q with mask := q.mask &&& ~~~p.mask } else q

/-- What a landing write leaves of the writes still in flight. -/
def claimBits {w : Nat} (n : Nat) (p : Pend w) (rest : List (Pend w)) : List (Pend w) := rest.map (claimFrom n p)

/-- Merges a write into a register's value. -/
def merge {w : Nat} (old : BitVec w) (p : Pend w) : BitVec w := (old &&& ~~~p.mask) ||| (p.val &&& p.mask)

/-- Removes a register's freed mark (R119). -/
def revive (c : Crew) (f : RegFile) (r : Nat) : Crew :=
  { c with freed := c.freed.filter fun e => !(e.file == f && e.reg == r) }

/-- Lands one scalar write. One whose every bit a later write has taken changes no value, but has landed (R116, R119). -/
def landX (n : Nat) (c : Crew) (p : Pend 64) : Crew :=
  if p.mask = 0 then revive c .x p.reg
  else { revive c .x p.reg with
    x := c.x.setIfInBounds p.reg (merge ((c.x[p.reg]?).getD 0) p)
    xPoison := if p.poison then c.xPoison ||| (1#64 <<< p.reg) else c.xPoison &&& ~~~(1#64 <<< p.reg)
    pendX := claimBits n p c.pendX }
/-- Lands one vector write; that of a word which wrote no element has no destination (R181). -/
def landV (n : Nat) (c : Crew) (p : Pend 4096) : Crew :=
  if p.span = 0 then c
  else { revive c .v p.reg with
    vr := c.vr.setIfInBounds p.reg (merge ((c.vr[p.reg]?).getD 0) p), pendV := claimBits n p c.pendV }
/-- Lands one predicate write. -/
def landP (n : Nat) (c : Crew) (p : Pend 256) : Crew :=
  if p.span = 0 then c
  else { revive c .p p.reg with
    pr := c.pr.setIfInBounds p.reg (merge ((c.pr[p.reg]?).getD 0) p), pendP := claimBits n p c.pendP }

/-- Lands writes that come at one count, in order of issue; of two streams' writes to one register either may stay (R116). -/
def landEach {w : Nat} (land : Crew → Pend w → Crew) (n : Nat) (c : Crew) (l : List (Pend w)) : Crew :=
  (l.foldl (fun (a : Crew × List (Pend w)) p =>
    let q := a.2.foldl (fun q e => claimFrom n e q) p
    (land a.1 q, a.2 ++ [q])) (c, [])).1

/-- Lands the given writes, in order of issue, beside those that stay in flight. -/
def landAmong (n : Nat) (c : Crew) (x : Pend 64 → Bool) (v : Pend 4096 → Bool) (p : Pend 256 → Bool) : Crew :=
  let (dx, rx) := c.pendX.partition x
  let (dv, rv) := c.pendV.partition v
  let (dp, rp) := c.pendP.partition p
  let c := landEach (landX n) n { c with pendX := rx, pendV := rv, pendP := rp } dx
  let c := landEach (landV n) n c dv
  landEach (landP n) n c dp

/-- Lands every write that is due at the crew's count (R115, R116). -/
def landDue (n : Nat) (c : Crew) : Crew := landAmong n c (·.due c.counter) (·.due c.counter) (·.due c.counter)

/-- A crew's context with every issued write that has its value landed (R118). -/
def landAll (n : Nat) (c : Crew) : Crew := landAmong n c (·.ready) (·.ready) (·.ready)

/-- The value a poisoned result holds is undefined (R136). -/
def resultX (s : State) (poison : Bool) (v : Word) : Word := if poison then freeWord (s.free + 8) else v

/-- The number, past those of the CSRs, under which the shape of a CBINIT's buffer waits in csrPend (R110, R235). -/
def circCsr : Nat := 0x440

/-! ### Trap records (R388) -/

/-- A trap record (Table 14.5). -/
def trapRecord (kind : Nat) (code : BitVec 8) (sw : BitVec 8) (v : Bool) (job : Nat) (ref pc addr : Word) (count log : Nat) :
    Record :=
  [BitVec.ofNat 64 (kind * 2 ^ 56 + code.toNat * 2 ^ 48 + sw.toNat * 2 ^ 40 + (if v then 2 ^ 39 else 0) + job % 16), ref,
   pc &&& 0xFFFFFFFFFFFF, addr, BitVec.ofNat 64 count, BitVec.ofNat 64 log, 0, 0]

/-- Records of a cluster's trap ring: 2^(SZ + 6) (Table 14.4). -/
def trapRingSize (r : ReeveState) : Nat := 2 ^ (bits r.trqbase 3 0 + 6)
/-- The physical base of the trap ring. -/
def trapRingBase (r : ReeveState) : Nat := bits r.trqbase 47 12 * 4096
/-- Whether the trap ring has room: TRQTAIL − TRQHEAD is below its size (R388). -/
def trapRingRoom (r : ReeveState) : Bool := decide ((r.trqtail - r.trqhead).toNat < trapRingSize r)

/-- Writes waiting records while the ring has room and its memory serves them (R276, R388, R415); fuel is the number that
wait. -/
def drainTrapRing (s : State) (cl : Nat) : Nat → State
  | 0 => s
  | fuel + 1 =>
    let r := reeveAt s cl
    match r.records with
    | [] => s
    | rec :: rest =>
      let a := trapRingBase r + 64 * (r.trqtail.toNat % trapRingSize r)
      if !trapRingRoom r then s
      else if hbmReady s a 64 then
        let s := hbmWrite (hostTakes s a 64) a (rec.flatMap wordBytes)
        drainTrapRing (putReeve s cl { r with trqtail := r.trqtail + 1, records := rest }) cl fuel
      else hostWaits s a 64

/-- Writes what can be written of the records of every cluster. -/
def drainTrapRings (s : State) : State :=
  (s.reeves.map (·.1)).foldl (fun s cl => drainTrapRing s cl (reeveAt s cl).records.length) s

/-! ### The event ring of leases (R381, Table 13.10) -/

/-- Records of the event ring: 2^(SZ + 6). -/
def eventRingSize (s : State) : Nat := 2 ^ (bits s.fabric.fevbase 3 0 + 6)
/-- Whether the event ring has room. -/
def eventRingRoom (s : State) : Bool := decide ((s.fabric.fevtail - s.fabric.fevhead).toNat < eventRingSize s)

/-- The memory semaphore that FEVSEM names; 0: none. -/
def eventSem (s : State) : Nat := bits s.fabric.fevsem 47 0

/-- Whether the memory of the event ring's next record and of its semaphore serves accesses now (R276, R415). -/
def eventRingReady (s : State) (a : Nat) : Bool := hbmReady s a 32 && (eventSem s = 0 || hbmReady s (eventSem s) 8)

/-- Adds 1 to the memory semaphore at FEVSEM; one at its maximum stays there (log 26). -/
def signalEvent (s : State) : State :=
  let a := eventSem s
  if a = 0 then s
  else
    let s := hostTakes s a 8
    let old := bytesWord (hbmBytesAt s a 8)
    if old = BitVec.allOnes 64 then s else hbmWrite s a (wordBytes (old + 1))

/-- Writes waiting event records while the ring has room and its memory serves them; fuel is the number that wait. -/
def drainEvents (s : State) : Nat → State
  | 0 => s
  | fuel + 1 =>
    match s.fabric.events with
    | [] => s
    | rec :: rest =>
      let a := bits s.fabric.fevbase 47 12 * 4096 + 32 * (s.fabric.fevtail.toNat % eventRingSize s)
      if eventRingRoom s && eventRingReady s a then
        let s := hbmWrite (hostTakes s a 32) a (rec.flatMap wordBytes)
        drainEvents (signalEvent { s with fabric := { s.fabric with events := rest, fevtail := s.fabric.fevtail + 1 } }) fuel
      else if eventRingRoom s then (let s := hostWaits s a 32; if eventSem s = 0 then s else hostWaits s (eventSem s) 8)
      else s

/-- Writes what can be written of the trap records and event records that wait, as memory comes to serve them. -/
def drainRings (s : State) : State :=
  let s := drainTrapRings s
  drainEvents s s.fabric.events.length

/-- Posts a record to a cluster's trap ring, behind those that wait (R388). -/
def postRecord (s : State) (cl : Nat) (rec : Record) : State :=
  let r := reeveAt s cl
  drainTrapRing (putReeve s cl { r with records := r.records ++ [rec] }) cl (r.records.length + 1)

/-- The place of an operand-log entry among those in use, in ascending CNT (R393); 0xFFFF where there is none. -/
def liveIndex (c : Crew) (seq : Nat) : Nat :=
  match c.log.findIdx? (·.seq == seq) with
  | some i => i
  | none => 0xFFFF

/-- The crew identifiers in use: those of crews on benches, and those that a unit keeps while it is switched out (R60). -/
def usedIds (s : State) : List Nat := s.crews.map (·.2.crewId) ++ s.units.flatMap (·.2.crewIds)

/-- The next identifiers whose 32 bits no crew in use shows (R60). -/
def freshIds (s : State) (n : Nat) : List Nat :=
  (((List.range (n + (usedIds s).length)).map (s.nextCrew + ·)).filter fun i =>
    !((usedIds s).any fun j => j % 2 ^ 32 == i % 2 ^ 32)).take n

/-- The identifier of a Reeve's next crew (R60, R383). -/
def freshId (s : State) : Nat := (freshIds s 1).headD s.nextCrew

/-- The crew that the Clerk starts on a Reeve, from its boot docket (R383). -/
def reeveCrew (s : State) (cl : Nat) : Crew :=
  .create (freshId s) 0 0 (reeveDocket cl 0) (reeveDocket cl 1) (reeveDocket cl 2) [reeveDocket cl 3] false s.free

/-- The entries of the operand log that a crew which issues no more completes: the accesses in flight, translated or not; a held
access and a wait that has not ended are given up (R18, R118). -/
def survives (e : LogEntry) : Bool :=
  !e.faulted && (match e.kind with
    | .waitc | .msemwait => false
    | _ => e.phase != .done)

/-- The words of a stopped Reeve that are still to be performed: each that was issued lands (R118), and what it would deliver
has gone with the crew. Its commands run on without it (R383, log 78). -/
def residue (c : Crew) : List LogEntry :=
  (c.log.filter fun e => survives e && (match e.kind with | .cmd => false | _ => true)).map fun e => { e with rd := 0 }

/-- Starts a Reeve's crew afresh (R383). -/
def startReeve (s : State) (cl : Nat) : State :=
  { putCrew s (1024 + cl) (reeveCrew s cl) with nextCrew := freshId s + 1, free := s.free + 32 }

/-- A crew that has nothing left to perform. -/
def Crew.spent (c : Crew) : Bool := c.log.isEmpty && c.vstores.isEmpty

/-- A bench of the model's own, above the Reeves', that is free for what a cluster's stopped Reeve has still to perform. -/
def residueSlot (s : State) (cl : Nat) : Nat :=
  (((List.range (s.crews.length + 1)).map fun j => 1032 + cl + 8 * j).find? fun k =>
    match crewAt s k with | some c => c.spent | none => true).getD (1032 + cl)

/-- What remains of a crew that stops with words to perform: it issues and takes nothing more. -/
def remains (c : Crew) : Crew :=
  { c with state := .running, s := { c.s with exited := true, fetched := none, rvz := none, loops := [] }
           v := { c.v with exited := true, fetched := none, rvz := none, loops := [] }
           pendX := [], pendV := [], pendP := [], dataQ := [], brQ := [], late := [], waitValue := none, glCmds := []
           log := residue c }

/-- A trap of the Reeve's own crew: the Clerk records it and starts the handler crew afresh at its boot entry, while the words
that the stopped crew has issued are performed beside it (R118, R383, log 78). -/
def restartReeve (s : State) (cl : Nat) : State :=
  let r := reeveAt s cl
  let t := startReeve (putReeve s cl { r with restarts := r.restarts + 1 }) cl
  match crewAt s (1024 + cl) with
  | none => t
  | some old => if (remains old).spent then t else putCrew t (residueSlot s cl) (remains old)

/-! ### Entering a trap (R387) -/

/-- Takes a trap: the crew stops TRAPPED at its count, the trap CSRs are written, and a TRAPPED record goes to the ring. pc is
the address of the word concerned, log the operand-log entry concerned; str is the stream whose word trapped, none for a
cause that names no word of a stream. A Reeve restarts instead. -/
def takeTrap (s : State) (k : Nat) (str : Option Stream) (code sw : BitVec 8) (pc addr : Word) (log : Nat) : State :=
  match crewAt s k with
  | none => s
  | some c =>
    if isReeve k then restartReeve s (clusterOf k)
    else
      let c' := { c with state := .trapped, trapcause := BitVec.ofNat 64 (sw.toNat * 256 + code.toNat),
                         trappc := pc &&& 0xFFFFFFFFFFFF, trapaddr := addr }
      postRecord (putCrew s k c') (clusterOf k)
        (trapRecord 1 code sw (str == some .v) (jobOf s c) (benchRef k c) pc addr c.counter log)

/-- A precise cause of the word of a stream at its issue slot (R386): the word has no effect. -/
def wordTrap (s : State) (k : Nat) (str : Stream) (c : Crew) (code : BitVec 8) (addr : Word) : State :=
  spend (takeTrap s k (some str) code 0 (c.stream str).pc addr 0xFFFF) 16

/-! ### Completing a word -/

/-- Where control goes after a word of some bytes completes without a transfer, and the loops that stay active (R83, R128,
R312). -/
def nextWord (size pc : Word) (loops : List Loop) : Word × List Loop :=
  match loops with
  | [] => (pc + size, [])
  | l :: rest =>
    if pc = l.last then
      if l.remaining - 1 ≠ 0 then (l.start, { l with remaining := l.remaining - 1 } :: rest)
      else
        match rest with
        | o :: outer =>
          if o.last = l.last then
            if o.remaining - 1 ≠ 0 then (o.start, { o with remaining := o.remaining - 1 } :: outer)
            else (l.last + size, outer)
          else (l.last + size, rest)
        | [] => (l.last + size, [])
    else (pc + size, loops)

/-- Where a stream goes after the word at its pc completes without a transfer. -/
def wordAfter (st : StreamState) : Word × List Loop := nextWord 8 st.pc st.loops

/-- Marks the last-use registers of a word freed, after its reads (R92); a bit on x0 or p0 is ignored. -/
def applyFrees (c : Crew) (frees : List (RegFile × Nat × Bool)) : Crew :=
  { c with freed := c.freed ++
      ((frees.filter fun f => f.2.2 && !(f.2.1 == 0 && f.1 != .v)).map fun f =>
        { file := f.1, reg := f.2.1, count := c.counter }) }

/-- The word of a stream has issued at the crew's count and completed: the stream's next word is at pc, and with STEP set the
next count takes STEP (R108, R395). -/
def complete (c : Crew) (str : Stream) (pc : Word) (loops : List Loop) : Crew :=
  let st := c.stream str
  let c := c.setStream str { st with pc := pc, last := some c.counter, fetched := none, loops := loops }
  if c.step && c.stepAt.isNone then { c with stepAt := some (c.counter + 1) } else c

/-- The count at which a stream's fetched word is due (R108); none while it waits at RVZ, has exited, or is not fetched. -/
def dueCount (st : StreamState) : Option Nat :=
  if st.exited || st.rvz.isSome then none
  else
    match st.fetched with
    | none => none
    | some w =>
      match st.last with
      | none => some (bits w 63 54)
      | some p => some (p + 1 + bits w 63 54)

/-- Whether a stream's word is due at the crew's count. -/
def isDue (c : Crew) (str : Stream) : Bool := dueCount (c.stream str) == some c.counter

/-- How the body of a word ends. -/
inductive Effect where
  /-- The word completes; the crew is as given. -/
  | done (s : State) (c : Crew)
  /-- The word completes and transfers control, with the loops that stay active. -/
  | jump (s : State) (c : Crew) (pc : Word) (loops : List Loop)
  /-- A precise cause: the word has no effect. -/
  | trap (code : BitVec 8) (addr : Word)
  /-- A precise cause with TRAP's software code. -/
  | software (code : BitVec 8)
  /-- The word cannot issue yet: a stall clk (R109, R112). -/
  | stall (s : State)

/-- Carries out the end of a word. The free values that the word may have read are spent. -/
def finish (s : State) (k : Nat) (str : Stream) (c : Crew) (frees : List (RegFile × Nat × Bool)) : Effect → Out
  | .done s' c' =>
    let (pc, loops) := wordAfter (c'.stream str)
    .next (spend (putCrew s' k (complete (applyFrees c' frees) str pc loops)) 16)
  | .jump s' c' pc loops => .next (spend (putCrew s' k (complete (applyFrees c' frees) str pc loops)) 16)
  | .trap code addr => .next (wordTrap s k str c code addr)
  | .software code => .next (spend (takeTrap s k (some str) 0x60 code (c.stream str).pc 0 0xFFFF) 16)
  | .stall s' => .next s'

/-- The streams that may execute a form (Table 04.8). -/
inductive Streams where
  | both
  | s
  | v
deriving DecidableEq, Repr

/-- Whether a stream may execute a form. -/
def Streams.allows : Streams → Stream → Bool
  | .both, _ => true
  | .s, .s => true
  | .v, .v => true
  | _, _ => false

/-- Runs a crew's word: its stream and privilege (R97), its guard (R93), freed sources under STRICT (R119), its body, its end.
guard is the predicate register that suppresses the word, with its negation. -/
def runWord (s : State) (streams : Streams) (privileged : Bool) (guard : Option (Nat × Bool))
    (frees : List (RegFile × Nat × Bool)) (reads : List (RegFile × Nat))
    (body : State → Nat → Stream → Crew → Effect) : Out :=
  match s.cur with
  | .crew k str =>
    match crewAt s k with
    | none => .fault .noIssuer
    | some c =>
      if !streams.allows str || (privileged && !isReeve k) then .next (wordTrap s k str c 0x01 0)
      else
        let g := guard.getD (0, false)
        match deadSource c [(.p, g.1)] with
        | some a => .next (wordTrap s k str c 0x03 a)
        | none =>
          if (readP s c 9 g.1).getLsbD 0 == g.2 then finish s k str c frees (.done s c)
          else
            match deadSource c reads with
            | some a => .next (wordTrap s k str c 0x03 a)
            | none => finish s k str c frees (if lateSource c reads then .stall s else body s k str c)
  | _ => .fault .noIssuer

end Sys2Proof.Machine
end

