-- ==== Sys2Proof/Machine/Operands.lean ====
section
/-!
DEFINITION. The operand forms of the stream words: which registers a format reads and frees (Tables 04.1 to 04.6a), its guard
(R93), its immediates, and the first poisoned source (R149).
-/
namespace Sys2Proof.Machine

/-- The guard of a format A word (R93). -/
def guardA (o : FmtA) : Option (Nat × Bool) := some (o.pred.toNat, o.pn)
/-- The guard of a format I word, which has no negation (R86). -/
def guardI (o : FmtI) : Option (Nat × Bool) := some (o.pred.toNat, false)
/-- The guard of a format M word. -/
def guardM (o : FmtM) : Option (Nat × Bool) := some (o.pred.toNat, o.pn)

/-- The scalar sources of a format A word that reads its first n source fields. -/
def readsA (o : FmtA) (n : Nat) : List (RegFile × Nat) :=
  ([(.x, o.ra.toNat), (.x, o.rb.toNat), (.x, o.rc.toNat)] : List (RegFile × Nat)).take n
/-- The scalar registers that a format A word frees (R92). -/
def freesA (o : FmtA) : List (RegFile × Nat × Bool) :=
  [(.x, o.ra.toNat, o.la), (.x, o.rb.toNat, o.lb), (.x, o.rc.toNat, o.lc)]
/-- The scalar register that a format I word frees. -/
def freesI (o : FmtI) : List (RegFile × Nat × Bool) := [(.x, o.ra.toNat, o.la)]
/-- The scalar registers that a format C word frees. -/
def freesC (o : FmtC) : List (RegFile × Nat × Bool) := [(.x, o.ra.toNat, o.la), (.x, o.rb.toNat, o.lb)]

/-- The first poisoned source among numbered reads: its POISON address (R149, Table 14.2). -/
def poisonedX (s : State) (c : Crew) (srcs : List (Nat × BitVec 6)) : Option Word :=
  (srcs.find? fun q => tagX s c q.1 q.2).map fun q => regCode .x q.2.toNat

/-- Whether any of the numbered reads carries poison. -/
def anyTag (s : State) (c : Crew) (srcs : List (Nat × BitVec 6)) : Bool := srcs.any fun q => tagX s c q.1 q.2

/-- The numbered reads of a format A word's first n sources. -/
def numberedA (o : FmtA) (n : Nat) : List (Nat × BitVec 6) := ([(0, o.ra), (1, o.rb), (2, o.rc)] : List (Nat × BitVec 6)).take n

/-- IMM sign-extended (R142). -/
def immS (o : FmtI) : Word := o.imm.signExtend 64
/-- IMM zero-extended (R142). -/
def immZ (o : FmtI) : Word := o.imm.zeroExtend 64
/-- The target of a branch: the word's address plus OFF × 8 (R87, R124). -/
def branchTarget (pc : Word) (off : BitVec 40) : Word := pc + off.signExtend 64 * 8

end Sys2Proof.Machine
end

