-- ==== Sys2Proof/Machine/Translate.lean ====
section
/-!
DEFINITION. Translation (R61-R70, R74-R79): the four-level walk with its checks in order, the TLBs and the pointer cache with
what they may keep, and the untranslated accesses of a Reeve (R383).
-/
namespace Sys2Proof.Machine
open Sys2Proof.Config

/-- The kinds of access of Table 03.6, and the translation that FENCE makes (R347). -/
inductive AccessKind where
  | fetch
  | load
  | store
  | atomic
  | dispatcher
  | fence
deriving DecidableEq, Repr

/-- A key of the levels map: kind 1 launch, 2 graph, 3 phase, 4 job. -/
def levelKey (kind id : Nat) : Nat := kind * 65536 + id
/-- A level that was never opened (Table 15.1). -/
def Level.never : Level :=
  { state := .neverOpened, closed := false, count := 0, job := 0, phase := none, inUse := false, root := 0, partner := none }
/-- A level. -/
def levelAt (s : State) (kind id : Nat) : Level := mapGetD s.levels (levelKey kind id) .never
/-- Replaces a level. -/
def putLevel (s : State) (kind id : Nat) (l : Level) : State := { s with levels := mapSet s.levels (levelKey kind id) l }

/-- The physical address of a job's root block; none when the job has none (R66). -/
def rootOf (s : State) (job : Nat) : Option Nat :=
  let j := levelAt s 4 job
  if j.inUse then some j.root else none

/-- How a translation ends: a fault's cause code, or the target. -/
abbrev Translation := Except (BitVec 8) Target

/-- A doubleword that the translation agent reads; a poisoned sector faults with ECC_UE (Table 10.5). An address outside both
windows, which a ROOT may give, names no memory: the walk ends with PAGE_ATTR, as where a table entry names none (R66, R71, log
77). A read that must wait for its bank or for HBM keeps the step from being taken (R276, R415). -/
def tableRead (s : State) (a : Nat) : Except (BitVec 8) Word × State :=
  if !inWindow a then (.error 0x12, s)
  else if !hbmReady s a 8 then (.error 0x10, balkAt s a 8)
  else
    let s' := afterRead (hostTakes s a 8) a 8
    match poisonAt s a 8 with
    | some _ => (.error 0x40, s')
    | none => (.ok (bytesWord (hbmBytesAt s a 8)), s')

/-- A state with what the walks and the requests of a turn that must wait have left: translations and table entries stay cached
(R74), accesses stand before their controllers (R276), and requests to other packages are on their way (R80). -/
def keepWalks (s t : State) : State :=
  { s with free := t.free, pointers := t.pointers, guards := t.guards, tlb := t.tlb
           host := { t.host.undone with used := s.host.used }, lent := t.lent.map fun a => { a with used := false }
           cores := t.cores.map fun q => (q.1, { coreAt s q.1 with tlb := q.2.tlb }) }

/-- The reserved fields of a pointer entry are not zero, its LG stands in level 1 or 2, or it names no local HBM (R63, R66). -/
def pointerBad (e : Word) : Bool :=
  bits e 63 48 != 0 || bits e 9 5 != 0 || e.getLsbD 4 || bits e 3 1 != 0 || !inWindow (bits e 47 10 * 1024)

/-- TGT of a leaf entry (Table 03.4). -/
def leafTgt (e : Word) : Nat := bits e 56 22
/-- TIER of a leaf entry. -/
def leafTier (e : Word) : Nat := bits e 11 10
/-- The physical window base that WIN selects (R70). -/
def windowBase (e : Word) : Nat := if e.getLsbD 9 then linearBase else 0

/-- The conditions of Table 03.5. -/
def targetOk (e : Word) (large : Bool) : Bool :=
  let t := leafTgt e
  match leafTier e with
  | 0 => t / 2 ^ 23 == 0 && decide (t % 2 ^ 23 < 0x600000) && (!large || t % 128 == 0)
  | 1 => large && decide (t % 65536 < 49152)
  | 2 => t / 2 ^ 32 == 0 && (!large || t % 128 == 0) && !e.getLsbD 3
  | _ => false

/-- Whether Table 03.6 lists a tier for an access kind. -/
def tierOk (e : Word) (kind : AccessKind) : Bool :=
  match kind with
  | .fetch => leafTier e == 0
  | .atomic => decide (leafTier e ≤ 1)
  | _ => true

/-- The permission that an access kind needs (Table 03.6). -/
def permitted (e : Word) (kind : AccessKind) : Bool :=
  match kind with
  | .fetch => e.getLsbD 3
  | .load | .dispatcher => e.getLsbD 1
  | .store => e.getLsbD 2
  | .atomic => e.getLsbD 1 && e.getLsbD 2
  | .fence => true

/-- The target of a leaf entry (Table 03.5). -/
def targetOf (e : Word) (large : Bool) (va : Nat) : Target :=
  let o := if large then va % 2 ^ 23 else va % 65536
  let t := leafTgt e
  { tier := leafTier e
    addr := match leafTier e with
      | 0 => windowBase e + t % 2 ^ 23 * 65536 + o
      | 1 => windowBase e + t % 65536 * 2 ^ 23 + o
      | _ => t % 2 ^ 32 * 65536 + o
    node := if leafTier e = 1 then t / 65536 else 0
    chk := e.getLsbD 8
    shr := bits e 7 5
    guardIx := bits e 21 13 }

/-- The rule of R69 for the entry that a CHK page's GUARD names. -/
def guardOk (g : Word) : Bool :=
  match bits g 63 62 with
  | 1 => bits g 47 6 == 0
  | 2 => bits g 2 0 == 0
  | _ => false

/-- The key of a job's guard-table entry. -/
def guardKey (job g : Nat) : Nat := job * 512 + g

/-- The guard-table entry of a job (Table 03.7): a valid one that has been read stays in effect until a TLBI of the job (R77,
R338). -/
def guardEntry (s : State) (job g : Nat) : Except (BitVec 8) Word × State :=
  match mapGet s.guards (guardKey job g) with
  | some e => (.ok e, s)
  | none =>
    match rootOf s job with
    | none => (.ok 0, s)
    | some r =>
      match tableRead s (r + 4096 + 8 * g) with
      | (.error f, s) => (.error f, s)
      | (.ok e, s) => (.ok e, if guardOk e then { s with guards := mapSet s.guards (guardKey job g) e } else s)

/-- Whether a guard entry of KIND 1 or 2 has a non-zero bit that it must hold zero and that R69 gives no result for: what it
does in its job is then undefined (R10, R14, log 80). -/
def guardBroken (g : Word) : Bool :=
  (bits g 63 62 == 1 && bits g 61 54 != 0) || (bits g 63 62 == 2 && bits g 61 48 != 0)

/-- The checks of a leaf that R66 makes before it reads the guard entry: reserved bits, SHR, TIER and target. -/
def leafBad (e : Word) (large : Bool) : Bool :=
  bits e 63 57 != 0 || decide (bits e 7 5 > 4) || leafTier e == 3 || !targetOk e large

/-- The checks of a leaf that follow its walk, in the order of R66; guard is the outcome of R69. -/
def leafCheck (e : Word) (large guard : Bool) (va : Nat) (kind : AccessKind) : Translation :=
  if leafBad e large || !guard || !tierOk e kind then .error 0x12
  else if e.getLsbD 12 then .error 0x14
  else if !permitted e kind then .error 0x11
  else .ok (targetOf e large va)

/-- The key of the pointer cache: job, level and the address bits that select the entry. -/
def pointerKey (job level va : Nat) : Nat :=
  (job * 4 + level) * 2 ^ 48 + va / (if level = 1 then 2 ^ 39 else if level = 2 then 2 ^ 30 else 2 ^ 23)

/-- A pointer entry: from the pointer cache, which may keep an old one until a TLBI (R77), or read afresh. -/
def pointerRead (s : State) (job level va a : Nat) : Except (BitVec 8) Word × State :=
  match mapGet s.pointers (pointerKey job level va) with
  | some e => if freeBit s.free then (.ok e, spend s 1) else tableRead (spend s 1) a
  | none => tableRead s a

/-- Keeps a valid pointer entry. -/
def keepPointer (s : State) (job level va : Nat) (e : Word) : State :=
  { s with pointers := mapSet s.pointers (pointerKey job level va) e }

/-- A TLB entry for a leaf. -/
def tlbEntry (job va : Nat) (large : Bool) (leaf : Word) : TlbEntry :=
  { job := job, large := large, page := if large then va / 2 ^ 23 else va / 65536, leaf := leaf }

/-- Adds an entry to a TLB of a size, dropping the oldest (R74). -/
def fillTlb (size : Nat) (t : List TlbEntry) (e : TlbEntry) : List TlbEntry :=
  let t := t.filter fun f => !(f.job == e.job && f.large == e.large && f.page == e.page)
  (t.drop (t.length + 1 - size)) ++ [e]

/-- The entry of a TLB that serves an address. -/
def tlbLookup (t : List TlbEntry) (job va : Nat) : Option TlbEntry :=
  t.find? fun e => e.job == job && e.page == (if e.large then va / 2 ^ 23 else va / 65536)

/-- The level-3 step of a walk and the leaf: its value and whether the page is large. -/
def walkLeaf (s : State) (job va : Nat) (e2 : Word) : Except (BitVec 8) (Word × Bool) × State :=
  match pointerRead s job 3 va (bits e2 47 10 * 1024 + va / 2 ^ 23 % 128 * 8) with
  | (.error f, s) => (.error f, s)
  | (.ok e3, s) =>
    if !e3.getLsbD 0 then (.error 0x10, s)
    else if e3.getLsbD 4 then (.ok (e3, true), s)
    else if pointerBad e3 then (.error 0x12, s)
    else
      match tableRead (keepPointer s job 3 va e3) (bits e3 47 10 * 1024 + va / 65536 % 128 * 8) with
      | (.error f, s) => (.error f, s)
      | (.ok leaf, s) =>
        if !leaf.getLsbD 0 then (.error 0x10, s) else if leaf.getLsbD 4 then (.error 0x12, s) else (.ok (leaf, false), s)

/-- The walk of R66 down to the leaf. -/
def walk (s : State) (job va : Nat) : Except (BitVec 8) (Word × Bool) × State :=
  match rootOf s job with
  | none => (.error 0x10, s)
  | some root =>
    match pointerRead s job 1 va (root + va / 2 ^ 39 % 512 * 8) with
    | (.error f, s) => (.error f, s)
    | (.ok e1, s) =>
      if !e1.getLsbD 0 then (.error 0x10, s)
      else if pointerBad e1 || bits e1 11 10 != 0 then (.error 0x12, s)
      else
        let s := keepPointer s job 1 va e1
        match pointerRead s job 2 va (bits e1 47 10 * 1024 + va / 2 ^ 30 % 512 * 8) with
        | (.error f, s) => (.error f, s)
        | (.ok e2, s) =>
          if !e2.getLsbD 0 then (.error 0x10, s)
          else if pointerBad e2 then (.error 0x12, s)
          else walkLeaf (keepPointer s job 2 va e2) job va e2

/-- The guard check of a leaf (R69): true with CHK 0. -/
def leafGuard (s : State) (job : Nat) (leaf : Word) : Except (BitVec 8) Bool × State :=
  if leaf.getLsbD 8 then
    match guardEntry s job (bits leaf 21 13) with
    | (.ok g, s) => if guardOk g && guardBroken g then (.ok (freeBit s.free), spend s 1) else (.ok (guardOk g), s)
    | (.error f, s) => (.error f, s)
  else (.ok true, s)

/-- What the translation agent finds of a page, whatever the access: its leaf, the outcome of R69, and whether a walk found it. -/
structure PageFound where
  leaf : Word
  large : Bool
  guard : Bool
  walked : Bool
deriving DecidableEq, Repr

/-- A walk down to the checks that no access kind decides (R66). -/
def walkPage (s : State) (job va : Nat) : Except (BitVec 8) PageFound × State :=
  match walk s job va with
  | (.error f, s) => (.error f, s)
  | (.ok (leaf, large), s) =>
    if leafBad leaf large then (.error 0x12, s)
    else
      match leafGuard s job leaf with
      | (.error f, s) => (.error f, s)
      | (.ok g, s) => (.ok { leaf := leaf, large := large, guard := g, walked := true }, s)

/-- The translation of one access by what a walk or a TLB gave for its page; a leaf that a walk found and that passes enters the
last-level TLB, and the first-level TLB of the core that asked (R74). -/
def pageTarget (s : State) (core : Option Nat) (job va : Nat) (kind : AccessKind) (p : PageFound) : Translation × State :=
  match leafCheck p.leaf p.large p.guard va kind with
  | .error f => (.error f, s)
  | .ok t =>
    if !p.walked then (.ok t, s)
    else
      let e := tlbEntry job va p.large p.leaf
      let s := { s with tlb := fillTlb 65536 s.tlb e }
      let s := match core with
        | some k => let c := coreAt s k; putCore s k { c with tlb := fillTlb 128 c.tlb e }
        | none => s
      (.ok t, s)

/-- A walk with every check of R66. -/
def walkTranslate (s : State) (core : Option Nat) (job va : Nat) (kind : AccessKind) : Translation × State :=
  match walkPage s job va with
  | (.error f, s) => (.error f, s)
  | (.ok p, s) => pageTarget s core job va kind p

/-- What the agent finds of a page through the last-level TLB, which may keep an old entry until a TLBI (R77, log 15), or by a
walk. -/
def findPage (s : State) (job : Nat) (va : Word) : Except (BitVec 8) PageFound × State :=
  if bits va 63 48 != 0 then (.error 0x10, s)
  else if (rootOf s job).isNone then (.error 0x10, s)
  else
    match tlbLookup s.tlb job va.toNat with
    | some e =>
      if freeBit s.free then (.ok { leaf := e.leaf, large := e.large, guard := true, walked := false }, spend s 1)
      else walkPage (spend s 1) job va.toNat
    | none => walkPage s job va.toNat

/-- A translation. -/
def translate (s : State) (core : Option Nat) (job : Nat) (va : Word) (kind : AccessKind) : Translation × State :=
  match findPage s job va with
  | (.error f, s) => (.error f, s)
  | (.ok p, s) => pageTarget s core job va.toNat kind p

/-- Whether a core's first-level TLB serves an access at once: the entry it holds, which it may have dropped (log 15). -/
def tlbHit (s : State) (core job : Nat) (va : Word) (kind : AccessKind) : Option Translation :=
  if bits va 63 48 != 0 then none
  else
    match tlbLookup (coreAt s core).tlb job va.toNat with
    | some e => if freeBit s.free then some (leafCheck e.leaf e.large true va.toNat kind) else none
    | none => none

/-- The untranslated target of a Reeve's access: PACKAGE scope, CHK 0; outside both windows PAGE_ATTR (R383). -/
def physicalTarget (a : Word) : Translation :=
  if inWindow a.toNat then .ok { tier := 0, addr := a.toNat, node := 0, chk := false, shr := 3, guardIx := 0 }
  else .error 0x12

/-- The target of an access that the device makes for a crew: translated in its job, or physical on a Reeve. -/
def targetFor (s : State) (k job : Nat) (va : Word) (kind : AccessKind) : Translation × State :=
  if isReeve k then (physicalTarget va, s) else translate s (some (coreOf k)) job va kind

/-- Whether a translation's fault is one that a handler repairs, held on data accesses (R389). -/
def heldCode (f : BitVec 8) : Bool := decide (0x10 ≤ f.toNat ∧ f.toNat ≤ 0x14)

end Sys2Proof.Machine
end

