-- ==== Sys2Proof/Machine/Access.lean ====
section
/-!
DEFINITION. The accesses of a crew's memory words: their entries of the operand log (R391-R393), translation at issue (R75),
faults held and late (R386, R389), the order in which accesses may be performed (R147, R329, R347, R348), race checks
(R338-R340), and the delivery of results (R114-R117, R121).
-/
namespace Sys2Proof.Machine
open Sys2Proof.Config

/-! ### The operand log -/

/-- The entry of the log with a number. -/
def logEntry (c : Crew) (seq : Nat) : Option LogEntry := c.log.find? (·.seq == seq)
/-- Changes an entry of the log. -/
def modLog (c : Crew) (seq : Nat) (f : LogEntry → LogEntry) : Crew := { c with log := updateIf (·.seq == seq) f c.log }
/-- Frees an entry of the log (R391). -/
def freeLog (c : Crew) (seq : Nat) : Crew :=
  { c with log := c.log.filter (·.seq != seq), late := c.late.filter (· != seq) }

/-- The entry of a word at its issue. -/
def newEntry (s : State) (c : Crew) (kind : LogKind) (opa opb opc : Word) (ord : BitVec 3) (rd : Nat) : LogEntry :=
  { seq := s.stamp, kind := kind, pc := c.s.pc, cnt := c.counter, word := c.s.fetched.getD 0, opa := opa, opb := opb,
    opc := opc, ord := ord, faulted := false, code := 0, addr := opa, ri := false, phase := .translating, target := none,
    rd := rd, cmdId := 0, epoch := c.epochS, data := [], tag := none, again := false }

/-- An entry of a word that stalls on memory: the word has not issued. -/
def isWait (e : LogEntry) : Bool := match e.kind with | .waitc | .msemwait => true | _ => false

/-- The bytes that an entry's access covers. -/
def entryBytes (e : LogEntry) : Nat :=
  match e.kind with
  | .load n _ => n
  | .store n => n
  | .atomic _ ty _ => if ty = 0 then 8 else 4
  | .spawn => 64
  | .semsig _ | .seminit _ | .cmd | .fence _ _ => 0
  | _ => 8

/-- Whether an entry's access writes. -/
def entryWrites (e : LogEntry) : Bool :=
  match e.kind with
  | .store _ | .atomic _ _ _ | .msemsig | .msemwait | .joindec => true
  | _ => false

/-- Whether an entry's access reads memory. -/
def entryReads (e : LogEntry) : Bool :=
  match e.kind with
  | .store _ | .semsig _ | .seminit _ | .fence _ _ | .cmd => false
  | _ => true

/-- The SHR of the page from which an ordered load or store, an atomic or a fence takes its scope (R333); the scopes of the
other entries are not narrowed. -/
def entryScope (e : LogEntry) : Option Nat :=
  match e.kind, e.target with
  | .load _ _, some t | .store _, some t | .atomic _ _ _, some t | .fence _ _, some t => some t.shr
  | _, _ => none

/-- Whether an entry's ordering has CREW scope. It covers its crew and the commands that the crew issues, and Table 12.1 names
no edge between them but that of a semaphore, so that the ordering orders nothing. -/
def crewScope (e : LogEntry) : Bool := entryScope e == some 0

/-- Acquire ordering: no later access is performed before it (R348, R132, R134, R346), within its scope (R333). -/
def acquires (e : LogEntry) : Bool :=
  !crewScope e && match e.kind with
  | .waitc | .msemwait => true
  | .fence o _ => o == 2 || o == 4 || o == 5
  | .load _ _ | .atomic _ _ _ => e.ord == 2 || e.ord == 4 || e.ord == 5
  | _ => false

/-- The one total order of signals, consuming waits, joins and .sc accesses (R332, R343): the crew's own keep their S order in
it. -/
def inTotalOrder (e : LogEntry) : Bool :=
  !crewScope e && match e.kind with
  | .msemsig | .msemwait | .semsig _ | .joindec | .waitc | .spawn => true
  | _ => e.ord == 5

/-- Release ordering: performed after every access before it in local order (R348, R132, R133, R345). -/
def releases (e : LogEntry) : Bool :=
  !crewScope e && match e.kind with
  | .spawn | .joindec | .msemsig | .semsig _ => true
  | .fence o _ => o == 3 || o == 4 || o == 5
  | .store _ | .atomic _ _ _ => e.ord == 3 || e.ord == 4 || e.ord == 5
  | _ => false

/-- Whether two entries touch an overlapping byte, the first of which may be performed. By their targets where both are known;
one whose translation is out may touch any byte; a faulted one is known by its virtual address alone. -/
def entriesOverlap (e f : LogEntry) : Bool :=
  let meet (a n b m : Nat) : Bool := decide (a < b + m ∧ b < a + n)
  match e.target, f.target with
  | some t, some u => t.tier == u.tier && t.node == u.node && meet t.addr (entryBytes e) u.addr (entryBytes f)
  | _, _ => (f.phase == .translating && !f.faulted) || meet e.opa.toNat (entryBytes e) f.opa.toNat (entryBytes f)

/-- Whether a store's bytes can be forwarded to a load: it is translated, unfaulted and of the same memory (R147, R337). -/
def forwards (f : LogEntry) : Bool :=
  match f.kind with
  | .store _ => f.phase == .going && !f.faulted
  | _ => false

/-- Whether an entry f, earlier in S order and not performed, keeps e from being performed, where the ordering of some entries
is loose (R147, R347, R348). -/
def blocksBut (loose : LogEntry → Bool) (e f : LogEntry) : Bool :=
  let isCmd := match f.kind with | .cmd => true | _ => false
  if isCmd then false
  else
    let fenceRel := match f.kind with | .fence _ _ => releases f | _ => false
    (!loose f && (acquires f || (fenceRel && entryWrites e))) || (!loose e && releases e && entryBytes f != 0) ||
    (inTotalOrder e && inTotalOrder f && !loose e && !loose f) ||
    (match e.kind, f.kind with
      | .semsig _, .seminit _ | .seminit _, .semsig _ | .seminit _, .seminit _ | .seminit _, .msemsig => true
      | _, _ => false) ||
    (entryBytes e != 0 && entryBytes f != 0 && entriesOverlap e f &&
      !(forwards f && !entryWrites e && (match e.kind with | .load _ _ | .loadSpec => true | _ => false)))

/-- Whether an entry f, earlier in S order and not performed, keeps e from being performed (R147, R347, R348). -/
def blocks (e f : LogEntry) : Bool := blocksBut (fun _ => false) e f

/-- The entries of the log before one, in S order. -/
def earlierThan (c : Crew) (e : LogEntry) : List LogEntry := c.log.takeWhile (·.seq != e.seq)

/-- Whether the order of the log lets an entry be performed now. A release also waits for the vector stores that RVZ puts
before it (R329, R345). -/
def orderAllows (c : Crew) (e : LogEntry) : Bool :=
  !((earlierThan c e).any (blocks e)) && (!releases e || !(c.vstores.any fun v => decide (v.epoch < e.epoch)))

/-- Whether no other crew is on the core of the crew on a bench: an edge at CORE scope has then no second agent, and crews of
other cores need not see the ordering (R68, R333). -/
def aloneOnCore (s : State) (k : Nat) : Bool :=
  decide (k < 1024) && !(s.crews.any fun q => q.1 != k && decide (q.1 < 1024) && coreOf q.1 == coreOf k)

/-- Whether the ordering of an entry is one that no agent in its scope could observe now. -/
def unobserved (s : State) (k : Nat) (e : LogEntry) : Bool := aloneOnCore s k && entryScope e == some 1

/-- Whether a memory access may be performed now: as the order of the log says, or past entries that only an unobserved
ordering puts before it. -/
def orderLets (s : State) (k : Nat) (c : Crew) (e : LogEntry) : Bool :=
  orderAllows c e ||
    (!(c.vstores.any fun v => decide (v.epoch < e.epoch)) && !((earlierThan c e).any (blocksBut (unobserved s k) e)))

/-- Marks the entries that an access passes. No crew enters the core before they are performed (log 80). -/
def markPassed (c : Crew) (e : LogEntry) : Crew :=
  let before := earlierThan c e
  { c with log := c.log.map fun f => if before.any (·.seq == f.seq) && blocks e f then { f with passed := true } else f }

/-- An entry that releases has been performed: what its crew did before it is released (R330). -/
def noteRelease (c : Crew) (seq : Nat) : Crew :=
  if c.log.any fun e => e.seq == seq && releases e then { c with released := max c.released seq } else c

/-- Frees the fences whose condition holds: an acquire fence when every earlier read has returned, a release fence when
every earlier access is performed (R347). Fuel is the length of the log. -/
def settleFences (c : Crew) : Nat → Crew
  | 0 => c
  | fuel + 1 =>
    let ready := c.log.find? fun e =>
      match e.kind with
      | .fence o _ =>
        let before := (earlierThan c e).filter fun f => match f.kind with | .cmd => false | _ => true
        e.phase == .going &&
        (if o == 2 then !(before.any fun f => entryReads f || acquires f) else before.isEmpty) &&
        (o == 2 || !(c.vstores.any fun v => decide (v.epoch < e.epoch)))
      | _ => false
    match ready with
    | some e => settleFences (freeLog (noteRelease c e.seq) e.seq) fuel
    | none => c

/-- Settles a crew's fences. -/
def settle (c : Crew) : Crew := settleFences c c.log.length

/-! ### Results -/

/-- Fills the queue entries that wait for a load (R121). -/
def fillQueues (c : Crew) (seq : Nat) (v : Word) (poison : Bool) : Crew :=
  let fill (branch : Bool) (e : QEntry) : QEntry :=
    if e.src == some seq then { e with src := none, val := if branch then v &&& 1 else v, poison := poison } else e
  { c with dataQ := c.dataQ.map (fill false), brQ := c.brQ.map (fill true) }

/-- Delivers a result to the register and the queue entries that wait for a log entry, and frees the entry. A result with no
bound of its own lands at once (R114, R117, R121, R391). -/
def deliver (n : Nat) (c : Crew) (seq : Nat) (v : Word) (poison : Bool) : Crew :=
  let give (p : Pend 64) : Pend 64 :=
    if p.seq == seq then
      { p with val := v, poison := poison, ready := true,
               land := match p.land with | .event => .count c.counter | l => l }
    else p
  let c := noteRelease { c with pendX := c.pendX.map give } seq
  settle (freeLog (landDue n (fillQueues c seq v poison)) seq)

/-- Frees an entry that delivers no result. -/
def performed (c : Crew) (seq : Nat) : Crew :=
  settle (freeLog (noteRelease c seq) seq)

/-- The pending write of a result that a log entry fills: bound 400, or at the event for a remote access (Table 05.3). -/
def awaitX (c : Crew) (r : BitVec 6) (seq : Nat) (remote load : Bool) : Crew :=
  if r = 0 then c
  else { c with pendX := c.pendX ++ [{ reg := r.toNat, mask := BitVec.allOnes 64, val := 0, poison := false,
                                       issued := c.counter, land := if remote then .event else .count (c.counter + 400),
                                       ready := false, seq := seq, str := .s, again := false, load := load }] }

/-! ### Faults -/

/-- Whether a crew's unit is cancelled: its causes are discarded (R18). -/
def crewCancelled (s : State) (c : Crew) : Bool :=
  match unitOf s c with | some u => u.cancelled | none => false

/-- Whether a crew takes no cause any more: its unit is cancelled (R18), or it is a Reeve's crew that has been stopped, whose
words are only performed (R383, log 78). -/
def takesNone (s : State) (k : Nat) (c : Crew) : Bool := crewCancelled s c || isResidue k

/-- Discards an access of a crew that takes no cause; what waited only for it goes on. -/
def discardAccess (s : State) (k seq : Nat) : State :=
  modCrew s k fun c => performed { c with pendX := c.pendX.filter (·.seq != seq) } seq

/-- A held fault (R389): the entry keeps its cause, the crew is HELD, or stays TRAPPED, and a HELD record is written. -/
def holdFault (s : State) (k seq : Nat) (code : BitVec 8) (addr : Word) : State :=
  match crewAt s k with
  | none => s
  | some c =>
    if takesNone s k c then discardAccess s k seq else
    let c := modLog c seq fun e => { e with faulted := true, code := code, addr := addr, ri := true }
    let c := { c with state := if c.state = .trapped then .trapped else .held }
    let pc := match logEntry c seq with | some e => e.pc | none => 0
    postRecord (putCrew s k c) (clusterOf k)
      (trapRecord 2 code 0 false (jobOf s c) (benchRef k c) pc addr c.counter (liveIndex c seq))

/-- A late cause (R386): the entry keeps it, and the crew takes it when the report reaches it (LATE_FAULT_DELIVERY). -/
def lateFault (s : State) (k seq : Nat) (code : BitVec 8) (addr : Word) : State :=
  match crewAt s k with
  | none => s
  | some c =>
    if takesNone s k c then discardAccess s k seq else
    let c := modLog c seq fun e => { e with faulted := true, code := code, addr := addr, ri := true }
    putCrew s k { c with late := c.late ++ [seq] }

/-- A fault of an entry's translation: LDS is poisoned instead (R148), the causes of R389 are held, any other is late. -/
def translationFault (s : State) (k : Nat) (c : Crew) (e : LogEntry) (code : BitVec 8) : State :=
  match e.kind with
  | .loadSpec => spend (putCrew s k (deliver s.free c e.seq (freeWord s.free) true)) 1
  | _ => if heldCode code then holdFault s k e.seq code e.opa else lateFault s k e.seq code e.opa

/-- An entry whose translation has returned: it goes on, and an access to a tier 1 or tier 2 page freezes the crew (R81). -/
def translated (s : State) (k : Nat) (c : Crew) (e : LogEntry) (t : Target) : State :=
  let c := modLog c e.seq fun e =>
    { e with phase := .going, target := some t, faulted := false, code := 0, ri := false }
  let away := t.tier != 0 && (match e.kind with | .fence _ _ => false | _ => true)
  let c := if away then
      { c with pendX := updateIf (·.seq == e.seq) (fun p => { p with land := .event }) c.pendX }
    else c
  putCrew s k (settle c)

/-- The access kind of an entry (Table 03.6). -/
def entryAccess (e : LogEntry) : AccessKind :=
  match e.kind with
  | .store _ => .store
  | .atomic _ _ _ | .msemsig | .msemwait | .joindec => .atomic
  | .fence _ _ => .fence
  | .spawn => .dispatcher
  | _ => .load

/-- Issues a memory word: its entry enters the log; on a Reeve the address is physical and a bad one is a precise cause; on a
bench the first-level TLB answers at once or the translation stall begins (R75, R383, R391). -/
def issueAccess (s : State) (k : Nat) (c : Crew) (e : LogEntry) : Effect :=
  let s := bump s
  let c := { c with log := c.log ++ [e] }
  let put (s' : State) : Effect := .done s' ((crewAt s' k).getD c)
  if isReeve k then
    match physicalTarget e.opa with
    | .error f => match e.kind with
      | .loadSpec => put (translationFault (putCrew s k c) k c e f)
      | _ => .trap f e.opa
    | .ok t => put (translated (putCrew s k c) k c e t)
  else
    match tlbHit s (coreOf k) (jobOf s c) e.opa (entryAccess e) with
    | none => .done (spend s 1) c
    | some (.ok t) => put (translated (putCrew (spend s 1) k c) k c e t)
    | some (.error f) => put (translationFault (putCrew (spend s 1) k c) k c e f)

/-! ### Race checks -/

/-- I(job, g) (R338). -/
def intervalOf (s : State) (job g : Nat) : Word := mapGetD s.intervals (job * 512 + g) 0

/-- The cores that the last boot left enabled. -/
def enabledCore (s : State) (k : Nat) : Bool := !s.pkg.coredis.getLsbD k

/-- The home filter of a 64-byte sector of HBM, the package's or a lender's (R339). -/
def homeFilter (s : State) (sector : Nat) : Nat :=
  let h := sector % 64
  if enabledCore s h then h
  else
    match ((List.range 8).map (h / 8 * 8 + ·)).find? (enabledCore s) with
    | some k => k
    | none => ((List.range 64).find? (enabledCore s)).getD h

/-- The package and the cell of a target in HBM, this package's or a lender's. -/
def targetCell (t : Target) : Nat × Nat := (if t.tier = 1 then t.node + 1 else 0, cellOf t.addr)

/-- The 64-byte sectors that an access to HBM touches, those of a lender numbered above the package's own. -/
def sectorsOf (t : Target) (n : Nat) : List Nat :=
  (runsOf t.addr n).map fun r => (targetCell t).1 * 2 ^ 40 + cellOf r.1 / 64

/-- Whether a plain access to a checked page races with an entry of a home filter (R340). -/
def racesAt (s : State) (job crewId : Nat) (t : Target) (n : Nat) : Bool :=
  t.chk && decide (t.tier ≤ 1) && (sectorsOf t n).any fun sec =>
    (coreAt s (homeFilter s sec)).races.any fun e =>
      e.sector == sec && e.job == job && e.guardIx == t.guardIx && e.crewId != crewId &&
        e.interval == intervalOf s job t.guardIx

/-- Records a plain write to a checked page at the home filter of each sector it touches (R339). -/
def recordWrite (s : State) (job crewId : Nat) (t : Target) (n : Nat) : State :=
  if t.chk && decide (t.tier ≤ 1) then
    (sectorsOf t n).foldl (fun s sec =>
      let h := homeFilter s sec
      let core := coreAt s h
      let kept := core.races.filter (·.sector != sec)
      let e : RaceEntry := { sector := sec, job := job, guardIx := t.guardIx, crewId := crewId,
                             interval := intervalOf s job t.guardIx }
      putCore s h { core with races := kept.drop (kept.length + 1 - raceFilterEntries) ++ [e] }) s
  else s

/-- The entry of a job's guard table that is in effect, which an advance finds without an access of its own: the one that has
been read, which stays in effect until a TLBI of the job, or the one in memory (R338). -/
def guardNow (s : State) (job root g : Nat) : Word :=
  (mapGet s.guards (guardKey job g)).getD
    (if inWindow (root + 4096 + 8 * g) then bytesWord (hbmBytesAt s (root + 4096 + 8 * g) 8) else 0)

/-- Adds 1 to I(job, g) of every entry of every open job's guard table that names what was waited on; such an entry stays in
effect until a TLBI of the job (R338). -/
def advanceWhere (s : State) (names : State → Nat → Word → Bool × State) : State :=
  (List.range 16).foldl (fun s job =>
    match rootOf s job with
    | none => s
    | some r => (List.range 512).foldl (fun s g =>
        let e := guardNow s job r g
        match names s job e with
        | (false, s) => s
        | (true, s) =>
          { s with intervals := mapSet s.intervals (job * 512 + g) (intervalOf s job g + 1)
                   guards := mapSet s.guards (guardKey job g) e }) s) s

/-- Whether an entry that breaks what it must hold acts for a wait that it may name: undefined (R14, log 80). -/
def brokenActs (s : State) (e : Word) (names : Bool) : Bool × State :=
  if names && guardBroken e then (freeBit s.free, spend s 1) else (names, s)

/-- A consuming wait on core semaphore n of a core (KIND 1) advances the intervals of the entries that name it (R338). -/
def advanceSem (s : State) (core n : Nat) : State :=
  advanceWhere s fun s _ e => brokenActs s e (bits e 63 62 == 1 && bits e 53 48 == core && bits e 5 0 == n)

/-- A consuming wait on the memory semaphore at a target in HBM (KIND 2) advances the intervals of the entries whose address
translates to that cell in their job (R338). The wait does not end before those translations are known: one that must wait for
its bank keeps the step from being taken. -/
def advanceCell (s : State) (t : Target) : State :=
  if 1 < t.tier then s
  else
    advanceWhere s fun s job e =>
      if bits e 63 62 != 2 then (false, s)
      else
        let (r, u) := translate s none job (BitVec.ofNat 64 (bits e 47 0)) .fence
        if u.balked then (false, u)
        else
          match r with
          | .ok g => brokenActs s e (decide (g.tier ≤ 1) && targetCell g == targetCell t)
          | .error _ => (false, s)

/-! ### Bytes of a target -/

/-- Whether an access to a target can be performed now: not during HOLD's self-refresh (R415), not while Ngugrim retrains
(R49, R417), and as R276 lets it. -/
def targetMay (s : State) (t : Target) (n : Nat) : Bool :=
  memoryAwake s && (match t.tier with | 0 => hostReach s t.addr n | 2 => !s.port.retrain | _ => false)

/-- A host access to a target that cannot be performed yet stands before the controllers (R276). -/
def targetWaits (s : State) (t : Target) (n : Nat) : State :=
  if t.tier = 0 && memoryAwake s then hostWaits s t.addr n else s

/-- The bytes at a local target (tier 0 or 2). -/
def targetBytes (s : State) (t : Target) (n : Nat) : List Byte :=
  if t.tier = 0 then hbmBytesAt s t.addr n else memRead s.ctl t.addr n

/-- The state after reading a local target. -/
def afterTarget (s : State) (t : Target) (n : Nat) : State :=
  if t.tier = 0 then afterRead (hostTakes s t.addr n) t.addr n else s

/-- Whether a read of a local target meets poison, and at which byte. -/
def targetPoison (s : State) (t : Target) (n : Nat) : Option Nat := if t.tier = 0 then poisonAt s t.addr n else none

/-- Writes bytes at a local target. -/
def targetWrite (s : State) (t : Target) (bs : List Byte) : State :=
  if t.tier = 0 then hbmWrite (hostTakes s t.addr bs.length) t.addr bs else ctlWrite s t.addr bs

end Sys2Proof.Machine
end

