-- ==== Sys2Proof/Machine/ScalarMemory.lean ====
section
/-!
DEFINITION. The scalar memory words (R144-R148), the atomics (R349), the semaphore and fence words (R342-R347), and SPAWN,
JOINDEC and WAITC (R132-R134), as they issue. Their accesses are performed by the events of AccessEvents.
-/
namespace Sys2Proof.Machine
open Sys2Proof.Config

/-! ### Loads and stores -/

/-- The address of a format M word: xA + sext(OFF) (R144). -/
def addressM (s : State) (c : Crew) (o : FmtM) : Word := readX s c 0 o.ra + o.off.signExtend 64

/-- A scalar load of 2^n bytes (R145). -/
def loadWord (o : FmtM) (bytes : Nat) (zext : Bool) (s : State) : Out :=
  runWord s .s false (guardM o) [(.x, o.ra.toNat, o.la)] [(.x, o.ra.toNat)] fun s k _ c =>
    let a := addressM s c o
    match poisonedX s c [(0, o.ra)] with
    | some p => .trap 0x04 p
    | none =>
      if a.toNat % bytes ≠ 0 then .trap 0x05 a
      else issueAccess s k (awaitX c o.rd s.stamp false true) (newEntry s c (.load bytes zext) a 0 0 o.ord o.rd.toNat)

/-- A scalar store of 2^n bytes (R146): RD names xs and LD is its last-use bit. -/
def storeWord (o : FmtM) (bytes : Nat) (s : State) : Out :=
  runWord s .s false (guardM o) [(.x, o.ra.toNat, o.la), (.x, o.rd.toNat, o.ld)] [(.x, o.ra.toNat), (.x, o.rd.toNat)]
    fun s k _ c =>
      let a := addressM s c o
      match poisonedX s c [(0, o.ra), (1, o.rd)] with
      | some p => .trap 0x04 p
      | none =>
        if a.toNat % bytes ≠ 0 then .trap 0x05 a
        else issueAccess s k c (newEntry s c (.store bytes) a (readX s c 1 o.rd) 0 o.ord 0)

/-- LDB (R145). -/
def execLdb (o : FmtM) (s : State) : Out := loadWord o 1 false s
/-- LDBZ (R145). -/
def execLdbz (o : FmtM) (s : State) : Out := loadWord o 1 true s
/-- LDH (R145). -/
def execLdh (o : FmtM) (s : State) : Out := loadWord o 2 false s
/-- LDHZ (R145). -/
def execLdhz (o : FmtM) (s : State) : Out := loadWord o 2 true s
/-- LDW (R145). -/
def execLdw (o : FmtM) (s : State) : Out := loadWord o 4 false s
/-- LDWZ (R145). -/
def execLdwz (o : FmtM) (s : State) : Out := loadWord o 4 true s
/-- LDD (R145). -/
def execLdd (o : FmtM) (s : State) : Out := loadWord o 8 false s
/-- STB (R146). -/
def execStb (o : FmtM) (s : State) : Out := storeWord o 1 s
/-- STH (R146). -/
def execSth (o : FmtM) (s : State) : Out := storeWord o 2 s
/-- STW (R146). -/
def execStw (o : FmtM) (s : State) : Out := storeWord o 4 s
/-- STD (R146). -/
def execStd (o : FmtM) (s : State) : Out := storeWord o 8 s

/-- LDS (R148): a poisoned or misaligned address poisons xd at the bound, with no access. -/
def execLds (o : FmtM) (s : State) : Out :=
  runWord s .s false (guardM o) [(.x, o.ra.toNat, o.la)] [(.x, o.ra.toNat)] fun s k str c =>
    let a := addressM s c o
    if tagX s c 0 o.ra || a.toNat % 8 ≠ 0 then .done s (pendLoad c str o.rd (freeWord (s.free + 8)))
    else issueAccess s k (awaitX c o.rd s.stamp false true) (newEntry s c .loadSpec a 0 0 0 o.rd.toNat)

/-! ### Atomics -/

/-- An atomic or a reduction at memory (R349): op is the minor, three tells whether xC is read (ACAS). -/
def atomicWord (o : FmtA) (op : BitVec 4) (three : Bool) (s : State) : Out :=
  runWord s .s false (guardA o) (freesA o) (readsA o (if three then 3 else 2)) fun s k _ c =>
    let a := readX s c 0 o.ra
    match poisonedX s c (numberedA o (if three then 3 else 2)) with
    | some p => .trap 0x04 p
    | none =>
      if a.toNat % (if o.ty = 0 then 8 else 4) ≠ 0 then .trap 0x05 a
      else
        let nr := o.mod.getLsbD 0
        issueAccess s k (if nr then c else awaitX c o.rd s.stamp false false)
          (newEntry s c (.atomic op o.ty (!nr)) a (readX s c 1 o.rb) (if three then readX s c 2 o.rc else 0)
            (o.mod.extractLsb' 3 3) o.rd.toNat)

/-- AADD (R349). -/
def execAadd (o : FmtA) (s : State) : Out := atomicWord o 0 false s
/-- AMIN (R349). -/
def execAmin (o : FmtA) (s : State) : Out := atomicWord o 1 false s
/-- AMAX (R349). -/
def execAmax (o : FmtA) (s : State) : Out := atomicWord o 2 false s
/-- AAND (R349). -/
def execAand (o : FmtA) (s : State) : Out := atomicWord o 3 false s
/-- AOR (R349). -/
def execAor (o : FmtA) (s : State) : Out := atomicWord o 4 false s
/-- AXOR (R349). -/
def execAxor (o : FmtA) (s : State) : Out := atomicWord o 5 false s
/-- ASWP (R349). -/
def execAswp (o : FmtA) (s : State) : Out := atomicWord o 6 false s
/-- ACAS (R349). -/
def execAcas (o : FmtA) (s : State) : Out := atomicWord o 7 true s
/-- AFADD (R349). -/
def execAfadd (o : FmtA) (s : State) : Out := atomicWord o 8 false s

/-! ### Core semaphores -/

/-- Whether a crew or a member of its group is TRAPPED or HELD (R387, R390). -/
def groupFrozen (s : State) (k : Nat) : Bool :=
  match crewAt s k with
  | none => false
  | some c => (groupOf s k c).any fun m => match crewAt s m with | some d => d.state != .running | none => false

/-- Whether the crew on a bench is itself TRAPPED or HELD. -/
def crewStopped (s : State) (k : Nat) : Bool :=
  match crewAt s k with | some c => c.state != .running | none => false

/-- Whether a waiter is passed over (R343): the stall of a crew is frozen with its group (R390), a command that waits only
with the crew that issued it (R112, R387). -/
def waiterFrozen (s : State) : Waiter → Bool
  | .crew k => groupFrozen s k
  | .cmd k _ => crewStopped s k

/-- A core's semaphore. -/
def semAt (s : State) (core n : Nat) : Sem := mapGetD (coreAt s core).sems n { count := 0, waiters := [] }
/-- Replaces a core's semaphore. -/
def putSem (s : State) (core n : Nat) (m : Sem) : State :=
  let c := coreAt s core
  putCore s core { c with sems := mapSet c.sems n m }

/-- Whether a waiter may take a count: the count exceeds the waiters ahead of it that are not frozen (R343). -/
def semMay (s : State) (core n : Nat) (w : Waiter) : Bool :=
  let m := semAt s core n
  let ahead := (m.waiters.takeWhile (· != w)).filter fun v => !waiterFrozen s v
  decide (ahead.length < m.count.toNat)

/-- Joins the waiters of a semaphore, behind those that wait (R343). -/
def semJoin (s : State) (core n : Nat) (w : Waiter) : State :=
  let m := semAt s core n
  if m.waiters.contains w then s else putSem s core n { m with waiters := m.waiters ++ [w] }

/-- Takes one count for a waiter, a consuming wait (R338, R343, R344). -/
def semTake (s : State) (core n : Nat) (w : Waiter) : State :=
  let m := semAt s core n
  advanceSem (putSem s core n { count := m.count - 1, waiters := m.waiters.filter (· != w) }) core n

/-- Adds to a semaphore; false where the sum would pass 2^32 − 1, with the count unchanged (R345). -/
def semAdd (s : State) (core n v : Nat) : Bool × State :=
  let m := semAt s core n
  if m.count.toNat + v ≥ 2 ^ 32 then (false, s) else (true, putSem s core n { m with count := m.count + BitVec.ofNat 32 v })

/-- Whether a crew has signals of its own that have not taken effect (R345). -/
def signalsPending (c : Crew) : Bool :=
  c.log.any fun e => match e.kind with | .semsig _ | .seminit _ | .msemsig => true | _ => false

/-- A core-semaphore word: illegal on a Reeve (R342). -/
def semWord (o : FmtA) (n : Nat) (s : State) (body : State → Nat → Stream → Crew → Effect) : Out :=
  runWord s .s false (guardA o) [(.x, o.ra.toNat, o.la)] ((readsA o 1).take n) fun s k str c =>
    if isReeve k then .trap 0x01 0 else body s k str c

/-- SEMINIT (R344, R345): it takes effect at its issue; behind signals of the crew that are still pending it keeps their
order. -/
def execSeminit (o : FmtA) (s : State) : Out :=
  semWord o 1 s fun s k _ c =>
    let v := readX s c 0 o.ra
    match poisonedX s c [(0, o.ra)] with
    | some p => .trap 0x04 p
    | none =>
      if bits v 63 32 != 0 then .trap 0x01 0xB
      else if signalsPending c then
        .done (bump s) { c with log := c.log ++ [{ newEntry s c (.seminit o.rd.toNat) 0 v 0 0 0 with phase := .going }] }
      else
        let m := semAt s (coreOf k) o.rd.toNat
        .done (putSem s (coreOf k) o.rd.toNat { m with count := v.truncate 32 }) c

/-- SEMSIG (R344, R345): the signal is issued; SIGNAL_TAKE_EFFECT makes it. -/
def execSemsig (o : FmtA) (s : State) : Out :=
  semWord o 1 s fun s _ _ c =>
    let v := if o.ra = 0 then 1 else readX s c 0 o.ra
    match poisonedX s c [(0, o.ra)] with
    | some p => .trap 0x04 p
    | none =>
      if v = 0 || bits v 63 32 != 0 then .trap 0x01 0xB
      else
        .done (bump s) { c with log := c.log ++ [{ newEntry s c (.semsig o.rd.toNat) 0 v 0 0 0 with phase := .going }] }

/-- Whether a SEMINIT of a semaphore that the crew has issued before a number is still behind the crew's signals (R345): what
the crew waits for on that semaphore from then on is the count that it sets. -/
def initPending (c : Crew) (n seq : Nat) : Bool :=
  c.log.any fun e => decide (e.seq < seq) && match e.kind with | .seminit m => m == n | _ => false

/-- SEMWAIT (R343, R344): a stall while it may take no count. -/
def execSemwait (o : FmtA) (s : State) : Out :=
  semWord o 0 s fun s k _ c =>
    if initPending c o.rd.toNat s.stamp then .stall s
    else if semMay s (coreOf k) o.rd.toNat (.crew k) then .done (semTake s (coreOf k) o.rd.toNat (.crew k)) c
    else .stall (semJoin s (coreOf k) o.rd.toNat (.crew k))

/-! ### Memory semaphores -/

/-- MSEMSIG (R344, R346): with RB = 0 it adds 1. -/
def execMsemsig (o : FmtA) (s : State) : Out :=
  runWord s .s false (guardA o) (freesA o) (readsA o 2) fun s k _ c =>
    let a := readX s c 0 o.ra
    let v := if o.rb = 0 then 1 else readX s c 1 o.rb
    match poisonedX s c (numberedA o 2) with
    | some p => .trap 0x04 p
    | none =>
      if a.toNat % 8 ≠ 0 then .trap 0x05 a
      else if v = 0 then .trap 0x01 0xB
      else issueAccess s k c (newEntry s c .msemsig a v 0 3 0)

/-- Whether an entry's word stands at the crew's S-stream at the present count. -/
def atStream (c : Crew) (e : LogEntry) : Bool := e.cnt == c.counter && e.pc == c.s.pc

/-- A wait on memory issued again from the log while its stream stands past it, as a debugger places it (R393, R400). -/
def displaced (c : Crew) (e : LogEntry) : Bool := isWait e && e.again && !e.faulted && !atStream c e

/-- The log entry of a waiting word at a stream's pc: the wait has begun. -/
def waitEntry (c : Crew) : Option LogEntry := c.log.find? fun e => isWait e && atStream c e

/-- A word that waits on a doubleword of memory: it begins its wait with an access that the re-read events make, and issues
when they have found its condition met (R134, R346). -/
def memoryWait (s : State) (k : Nat) (c : Crew) (e : LogEntry) (finish : Word → Effect) : Effect :=
  match c.waitValue with
  | some v => finish v
  | none =>
    match waitEntry c with
    | some _ => .stall s
    | none =>
      match issueAccess s k c e with
      | .done s' c' => .stall (putCrew s' k c')
      | x => x

/-- MSEMWAIT (R344, R346). -/
def execMsemwait (o : FmtA) (s : State) : Out :=
  runWord s .s false (guardA o) (freesA o) (readsA o 1) fun s k _ c =>
    let a := readX s c 0 o.ra
    match poisonedX s c [(0, o.ra)] with
    | some p => .trap 0x04 p
    | none =>
      if a.toNat % 8 ≠ 0 then .trap 0x05 a
      else memoryWait s k c (newEntry s c .msemwait a 0 0 2 0) fun _ => .done s { c with waitValue := none }

/-! ### Fences -/

/-- FENCE (R347): xA's page is translated, no byte is accessed. -/
def execFence (o : FmtA) (s : State) : Out :=
  runWord s .s false (guardA o) (freesA o) (readsA o 1) fun s k _ c =>
    match poisonedX s c [(0, o.ra)] with
    | some p => .trap 0x04 p
    | none =>
      issueAccess s k c (newEntry s c (.fence (o.mod.extractLsb' 3 3) true) (readX s c 0 o.ra) 0 0 (o.mod.extractLsb' 3 3) 0)

/-- FENCE.ALL (R347): at FABRIC scope. -/
def execFenceAll (o : FmtA) (s : State) : Out :=
  runWord s .s false (guardA o) [] [] fun s _ _ c =>
    let ord := o.mod.extractLsb' 3 3
    .done (bump s) (settle { c with log := c.log ++ [{ newEntry s c (.fence ord false) 0 0 0 ord 0 with phase := .going }] })

/-! ### SPAWN, JOINDEC, WAITC -/

/-- SPAWN (R132): the docket's read follows every earlier access of the crew. -/
def execSpawn (o : FmtA) (s : State) : Out :=
  runWord s .s false (guardA o) (freesA o) (readsA o 1) fun s k _ c =>
    let a := readX s c 0 o.ra
    match poisonedX s c [(0, o.ra)] with
    | some p => .trap 0x04 p
    | none =>
      if a.toNat % 64 ≠ 0 then .trap 0x05 a
      else issueAccess s k (awaitX c o.rd s.stamp false false) (newEntry s c .spawn a 0 0 3 o.rd.toNat)

/-- JOINDEC (R133). -/
def execJoindec (o : FmtA) (s : State) : Out :=
  runWord s .s false (guardA o) (freesA o) (readsA o 1) fun s k _ c =>
    let a := readX s c 0 o.ra
    match poisonedX s c [(0, o.ra)] with
    | some p => .trap 0x04 p
    | none =>
      if a.toNat % 8 ≠ 0 then .trap 0x05 a
      else issueAccess s k (awaitX c o.rd s.stamp false false) (newEntry s c .joindec a 0 0 3 o.rd.toNat)

/-- WAITC (R134): xd takes the value that met the bound, with bound 1 from the end of the wait. -/
def execWaitc (o : FmtA) (s : State) : Out :=
  runWord s .s false none (freesA o) (readsA o 2) fun s k str c =>
    let a := readX s c 0 o.ra
    match poisonedX s c (numberedA o 2) with
    | some p => .trap 0x04 p
    | none =>
      if a.toNat % 8 ≠ 0 then .trap 0x05 a
      else memoryWait s k c (newEntry s c .waitc a (readX s c 1 o.rb) 0 2 o.rd.toNat) fun v =>
        .done s { pendX c str o.rd v false 1 with waitValue := none }

end Sys2Proof.Machine
end

