-- ==== Sys2Proof/Machine/Fabric.lean ====
section
/-!
DEFINITION. The segments of fabric messages (R356, Table 13.2), the routes (R357), the combining table (R373), and the requests
and responses that a package sends (R361, R363, R371): they wait at the router's local injection input.
-/
namespace Sys2Proof.Machine
open Sys2Proof.Config

/-! ### Segments -/

/-- Doubleword i of a segment. -/
def Msg.word (m : Msg) (i : Nat) : Word := m.seg.extractLsb' (64 * i) 64
/-- The fields of Table 13.2. -/
def Msg.dst (m : Msg) : Nat := bits (m.word 0) 50 32
def Msg.stat (m : Msg) : Nat := bits (m.word 0) 31 24
def Msg.phy (m : Msg) : Bool := (m.word 0).getLsbD 21
def Msg.cmb (m : Msg) : Bool := (m.word 0).getLsbD 20
def Msg.cnt (m : Msg) : Nat := bits (m.word 0) 19 16
def Msg.ty (m : Msg) : Nat := bits (m.word 0) 15 12
def Msg.ndata (m : Msg) : Nat := bits (m.word 0) 11 8
def Msg.opc (m : Msg) : Nat := bits (m.word 0) 7 0
def Msg.rt (m : Msg) : Bool := (m.word 1).getLsbD 63
def Msg.swi (m : Msg) : Bool := (m.word 1).getLsbD 62
def Msg.job (m : Msg) : Nat := bits (m.word 1) 40 37
def Msg.tag (m : Msg) : Nat := bits (m.word 1) 36 25
def Msg.core (m : Msg) : Nat := bits (m.word 1) 24 19
def Msg.node (m : Msg) : Nat := bits (m.word 1) 18 0
/-- TAG, CORE and NODE together, as a manifest names a requester. -/
def Msg.id (m : Msg) : Nat := bits (m.word 1) 36 0
def Msg.addr (m : Msg) : Nat := bits (m.word 2) 47 0
def Msg.cseq (m : Msg) : Nat := bits (m.word 3) 63 44
def Msg.circ (m : Msg) : Nat := bits (m.word 3) 43 38
def Msg.len (m : Msg) : Nat := bits (m.word 3) 31 0
def Msg.opnd (m : Msg) : Word := m.word 4
/-- Destination j of an MWRITE. -/
def Msg.dest (m : Msg) (j : Nat) : Nat := m.seg.toNat / 2 ^ (320 + 19 * j) % 2 ^ 19

/-- A segment of its doublewords. -/
def segment (ws : List Word) : BitVec 512 := BitVec.ofNat 512 (wordsValue ws)

/-- The first doubleword of a segment. -/
def headWord (dst stat cnt ty ndata opc : Nat) (phy cmb : Bool) : Word :=
  BitVec.ofNat 64 (dst % 2 ^ 19 * 2 ^ 32 + stat % 256 * 2 ^ 24 + (if phy then 2 ^ 21 else 0) + (if cmb then 2 ^ 20 else 0) +
    cnt % 16 * 2 ^ 16 + ty % 16 * 2 ^ 12 + ndata % 16 * 2 ^ 8 + opc % 256)

/-- Data segments that n bytes fill. -/
def segmentsFor (n : Nat) : Nat := (n + 63) / 64

/-- Bytes padded with zeros to whole segments. -/
def padSegments (bs : List Byte) : List Byte := bs ++ List.replicate (segmentsFor bs.length * 64 - bs.length) 0

/-! ### Requests -/

/-- A request to be sent. -/
structure Request where
  core : Nat
  job : Nat
  opc : Nat
  node : Nat
  raddr : Nat
  len : Nat
  ty : Nat
  phy : Bool
  opnd : Word
  circ : Nat
  data : List Byte
  dests : List Nat
  cmd : Option Nat
  access : Option (Nat × Nat)
  place : Nat
  /-- CNT of a request with one destination (log 18). -/
  cnt : Nat := 0
deriving DecidableEq, Repr

/-- The package's own NODEID. -/
def ownNode (s : State) : Nat := bits s.pkg.node 18 0

/-! ### Routes (R357, R362) -/

/-- The destination that a route is kept for: a package, or past them an external switch (R374). -/
def Msg.target (m : Msg) : Nat := m.dst + (if m.response && m.rt && m.swi then 2 ^ 19 else 0)

/-- The output of an unscheduled message to a destination: 12 is local ejection; none without a route. -/
def outputFor (s : State) (dst : Nat) : Option Nat := if dst = ownNode s then some 12 else mapGet s.fabric.routes dst

/-- Whether a message is a multicast write. -/
def Msg.multicast (m : Msg) : Bool := !m.response && m.opc == 5

/-- The outputs that an unscheduled message takes, each once (R362). -/
def outputsOf (s : State) (m : Msg) : List Nat :=
  if m.multicast then
    (List.range 13).filter fun o => (List.range (m.cnt + 1)).any fun j => outputFor s (m.dest j) == some o
  else (outputFor s m.target).toList

/-- An unscheduled flit of one message at an input, in the entry of the flit that it arrived in, if it arrived. -/
def plainFlit (s : State) (m : Msg) (entry : Option Nat) : RFlit :=
  let outs := outputsOf s m
  { sch := false, bank := s.fabric.act, slot := 0, circ := m.circ, cls := m.response, msgs := [m], outs := outs,
    feeds := if outs.length ≤ 1 then [] else outs, waited := 0, credit := entry.isSome, entry := entry.getD 0 }

/-- Puts an unscheduled message at the local input. -/
def injectPlain (s : State) (m : Msg) : State :=
  { s with fabric := { s.fabric with inject := s.fabric.inject ++ [plainFlit s m none] } }

/-! ### Combining (R373) -/

/-- Whether a request may combine: an unscheduled FADD of I64 or I32 with PHY and CMB zero. -/
def Msg.combines (m : Msg) : Bool :=
  !m.response && m.opc == 3 && decide (m.ty ≤ 1) && !m.phy && !m.cmb && m.circ == 0

/-- Whether an entry of the combining table is open for a request: fewer than eight requests hold it. -/
def Combine.opens (e : Combine) (m : Msg) : Bool :=
  e.waiting && e.dst == m.dst && e.job == m.job && e.addr == m.addr && e.ty == m.ty && decide (e.msgs.length < 8)

/-- Replaces the first element that satisfies a test. -/
def updateFirst {α : Type} (p : α → Bool) (f : α → α) : List α → List α
  | [] => []
  | a :: l => if p a then f a :: l else a :: updateFirst p f l

/-- The request that an entry of the combining table forwards: a lone one unchanged, several as one combined request. -/
def combinedRequest (s : State) (e : Combine) (tag : Nat) : Msg :=
  match e.msgs with
  | [m] => m
  | l =>
    let w := if e.ty = 1 then 32 else 64
    let sum := (e.manifest.foldl (fun a q => a + q.2.toNat) 0) % 2 ^ w
    let data := e.manifest.flatMap fun q => valueBytes 8 q.1 ++ wordBytes q.2
    { response := false, input := 12, data := data ++ List.replicate (128 - data.length) 0
      seg := segment
        [headWord e.dst 0 (l.length - 1) e.ty 2 3 false true,
         BitVec.ofNat 64 (2 ^ 63 + e.job % 16 * 2 ^ 37 + tag % 4096 * 2 ^ 25 + ownNode s), BitVec.ofNat 64 e.addr,
         BitVec.ofNat 64 (w / 8), BitVec.ofNat 64 sum, 0, 0, 0] }

/-- Forwards open entry k of the combining table; the manifest of a combined request is kept as the record (R373). -/
def forwardEntry (s : State) (k : Nat) : State :=
  match s.fabric.combining[k]? with
  | none => s
  | some e =>
    if !e.waiting then s
    else
      let f := s.fabric
      let tag := f.nextTag
      let rest := if e.msgs.length ≤ 1 then f.combining.eraseIdx k
        else f.combining.set k { e with waiting := false, tag := tag, msgs := [] }
      injectPlain { s with fabric := { f with combining := rest, nextTag := tag + 1 } } (combinedRequest s e tag)

/-- A request joins an open entry of the combining table, which is forwarded with its eighth, or opens one, where it can
(R373). -/
def combine (s : State) (m : Msg) : Option State :=
  let t := s.fabric.combining
  let put (l : List Combine) : State := { s with fabric := { s.fabric with combining := l } }
  if !m.combines then none
  else if t.any (·.opens m) then
    let s := put (updateFirst (·.opens m)
      (fun e => { e with manifest := e.manifest ++ [(m.id, m.opnd)], msgs := e.msgs ++ [m] }) t)
    match s.fabric.combining.findIdx? fun e => e.waiting && decide (8 ≤ e.msgs.length) with
    | some k => some (forwardEntry s k)
    | none => some s
  else if t.length < combiningEntries then
    some (put (t ++ [{ waiting := true, dst := m.dst, job := m.job, addr := m.addr, ty := m.ty, tag := 0,
                       manifest := [(m.id, m.opnd)], msgs := [m] }]))
  else none

/-- Puts a message at the local injection input: in the combining table, in an unscheduled flit, or in a flit of its circuit. -/
def inject (s : State) (m : Msg) : State :=
  if m.circ ≠ 0 && !m.response then
    let flit : RFlit := { sch := true, bank := s.fabric.act, slot := 0, circ := m.circ, cls := false, msgs := [m], outs := [],
                          waited := 0, credit := false }
    { s with fabric := { s.fabric with inject := s.fabric.inject ++ [flit] } }
  else
    match combine s m with
    | some s => s
    | none => injectPlain s m

/-- The destinations of an MWRITE as bits. -/
def destBits (l : List Nat) : Nat := (l.zipIdx).foldl (fun a q => a + q.1 % 2 ^ 19 * 2 ^ (19 * q.2)) 0

/-- The segment of a request. -/
def requestSegment (s : State) (r : Request) (tag cseq : Nat) : BitVec 512 :=
  let d := destBits r.dests
  segment
    [headWord r.node 0 (if r.dests.isEmpty then r.cnt else r.dests.length - 1) r.ty (segmentsFor r.data.length) r.opc r.phy false,
     BitVec.ofNat 64 (r.job % 16 * 2 ^ 37 + tag % 4096 * 2 ^ 25 + r.core % 64 * 2 ^ 19 + ownNode s),
     BitVec.ofNat 64 (r.raddr % 2 ^ 48),
     BitVec.ofNat 64 (cseq % 2 ^ 20 * 2 ^ 44 + r.circ % 64 * 2 ^ 38 + r.len % 2 ^ 32), r.opnd, BitVec.ofNat 64 d,
     BitVec.ofNat 64 (d / 2 ^ 64), BitVec.ofNat 64 (d / 2 ^ 128)]

/-- Whether the next tag is free for a core: no request of it that waits for an answer has it (Table 13.2). -/
def tagFree (s : State) (core : Nat) : Bool :=
  !(s.fabric.outstanding.any fun o => o.core == core && o.tag % 4096 == s.fabric.nextTag % 4096)

/-- Records a request as unanswered, under the next tag. -/
def sendRequest (s : State) (r : Request) : State :=
  let f := s.fabric
  let tag := f.nextTag
  let cseq := if r.circ = 0 then 0 else mapGetD f.cseq r.circ 0
  let o : Outstanding := { tag := tag, core := r.core, cmd := r.cmd, access := r.access, opc := BitVec.ofNat 8 r.opc,
                           node := r.node, raddr := r.raddr, place := r.place, len := r.len, ty := r.ty }
  let outs := if r.opc = 5 then r.dests.map fun n => { o with node := n } else [o]
  let f := { f with outstanding := f.outstanding ++ outs, nextTag := tag + 1,
                    cseq := if r.circ = 0 then f.cseq else mapSet f.cseq r.circ (cseq + 1) }
  let s := { s with fabric := f }
  inject s { response := false, seg := requestSegment s r tag cseq, data := padSegments r.data, input := 12 }

/-! ### Responses -/

/-- The response to a request: its operation code plus 0x80, back to its source, with a status, data and an old value. A
combined request's manifest comes first in the data (R374). -/
def respond (s : State) (m : Msg) (stat : Nat) (data : List Byte) (opnd : Word) : State :=
  let manifest := if m.cmb then m.data.take 128 else []
  let body := manifest ++ padSegments data
  inject s
    { response := true
      seg := segment
        [headWord m.node stat m.cnt m.ty (body.length / 64) (m.opc + 0x80) m.phy m.cmb, m.word 1, m.word 2,
         BitVec.ofNat 64 m.len, opnd, 0, 0, 0]
      data := body, input := 12 }

end Sys2Proof.Machine
end

