-- ==== Sys2Proof/Machine/Virtual.lean ====
section
/-!
DEFINITION. Reads and writes of whole blocks at virtual addresses, as the device makes them for commands, units and engines:
page by page through translation. An access to a page that another package lends is carried to the lender (R80): the turn is not
taken, or the command waits, until the answer has come.
-/
namespace Sys2Proof.Machine
open Sys2Proof.Config

/-- n bytes from an address cut at 64 KiB pages: address and length of each piece; fuel bounds the pieces. -/
def pagePieces (a : Nat) : Nat → Nat → List (Nat × Nat)
  | 0, _ => []
  | _, 0 => []
  | fuel + 1, n =>
    let k := min n (65536 - a % 65536)
    (a, k) :: pagePieces (a + k) fuel (n - k)

/-- The pieces of an access of n bytes. -/
def piecesOf (a n : Nat) : List (Nat × Nat) := pagePieces a (n / 65536 + 2) n

/-! ### Accesses to lent memory (R80, R81, R371) -/

/-- How one access ends: with its bytes and the old value, with a cause, or not yet. -/
inductive Reply where
  | ok (data : List Byte) (old : Word)
  | fault (code : BitVec 8)
  | wait
deriving DecidableEq, Repr

/-- The cause of a response's status; status 5 stands for a response that did not come (R371). -/
def lentCause (stat : Nat) : BitVec 8 :=
  match stat with
  | 1 => 0x31
  | 2 => 0x13
  | 3 => 0x40
  | 4 => 0x21
  | _ => 0x30

/-- Whether two requests are for one access: it has been asked for and its answer not yet used. -/
def LentAccess.same (a b : LentAccess) : Bool :=
  !a.used && a.cmd == b.cmd && a.progress == b.progress && a.owner == b.owner && a.job == b.job && a.va == b.va && a.opc == b.opc &&
    a.cnt == b.cnt && a.len == b.len && a.data == b.data

/-- Makes an access to another package's memory: it is asked for at the end of the step, and ends with the lender's answer. What
a command has asked for earlier is done with. A region no longer lent holds a command until it asks anew (R228). -/
def lentReply (s : State) (a : LentAccess) : Reply × State :=
  match s.lent.find? (·.same a) with
  | none =>
    if s.balked then (.wait, s)
    else
      let kept := s.lent.filter fun b => a.cmd.isNone || b.cmd != a.cmd || b.progress == a.progress
      (.wait, { s with lent := kept ++ [a] })
  | some b =>
    match b.answer with
    | none => (.wait, s)
    | some (0, data, old) =>
      (.ok data old, if a.cmd.isSome then s else { s with lent := updateFirst (· == b) (fun b => { b with used := true }) s.lent })
    | some (stat, _, _) =>
      (.fault (lentCause stat), if a.cmd.isSome && stat != 2 then s else { s with lent := s.lent.erase b })

/-- The pieces of an access of n bytes to another package's memory, as offset and length: they cross no 512-byte boundary there
(R365). -/
def lentPieces (addr n : Nat) : List (Nat × Nat) := (rowRuns addr (n / 512 + 2) n).map fun r => (r.1 - addr, r.2)

/-- Makes the requests of a read (no bytes given) or of a write one after another. -/
def lentEach (s : State) (a : LentAccess) (bs : Option (List Byte)) : List (Nat × Nat) → Reply × State
  | [] => (.ok [] 0, s)
  | (off, k) :: rest =>
    let data := match bs with | some l => (l.drop off).take k | none => []
    match lentReply s { a with va := a.va + off, target := { a.target with addr := a.target.addr + off }, len := k, data := data } with
    | (.ok d _, s) =>
      match lentEach s a bs rest with
      | (.ok ds o, s) => (.ok (d.take k ++ ds) o, s)
      | r => r
    | r => r

/-- A read of n bytes of lent memory (R80). -/
def lentRead (s : State) (a : LentAccess) (n : Nat) : Reply × State :=
  lentEach s { a with opc := 1 } none (lentPieces a.target.addr n)

/-- A write of bytes of lent memory (R80). -/
def lentWrite (s : State) (a : LentAccess) (bs : List Byte) : Reply × State :=
  lentEach s { a with opc := 2 } (some bs) (lentPieces a.target.addr bs.length)

/-- The indivisible steps that the device makes on a doubleword: a decrement, the taking of one count, and a signal (R29, R288,
R346). -/
inductive Step8 where
  | decrement
  | take
  | signal
deriving DecidableEq, Repr

/-- The value that such a step writes; none where it writes nothing. A signal writes nothing where its sum would pass 2^64 − 1. -/
def Step8.next : Step8 → Word → Option Word
  | .decrement, v => some (v - 1)
  | .take, v => if v = 0 then none else some (v - 1)
  | .signal, v => if v = BitVec.allOnes 64 then none else some (v + 1)

/-- Such a step on lent memory, at the lender's memory port (R80, log 18). -/
def lentStep (s : State) (a : LentAccess) (op : Step8) : Reply × State :=
  lentReply s (match op with
    | .decrement => { a with opc := 3, len := 8, opnd := BitVec.allOnes 64 }
    | .take => { a with opc := lentOpc, cnt := 9, len := 8 }
    | .signal => { a with opc := 4, len := 8 })

/-- An access of the device for a job, for core k. -/
def deviceAccess (k job va : Nat) (t : Target) : LentAccess :=
  { cmd := none, progress := (0, 0), owner := 0, core := k, job := job, va := va, target := t, opc := 0, cnt := 0, len := 0,
    data := [], opnd := 0, tag := none, answer := none, used := false }

/-- Where the device finds an access that it has asked for already: its translation stands. -/
def askedAt (s : State) (job va owner : Nat) (opcs : List Nat) : Option Target :=
  (s.lent.find? fun a => !a.used && a.cmd.isNone && a.job == job && a.va == va && a.owner == owner && opcs.contains a.opc).map
    (·.target)

/-- How an access of the device to memory of this package or of its control node ends, that is no scalar word's: in control-node
memory it waits while Ngugrim retrains, until the 2 s of its retraining have passed (R417); in HBM until its memory serves it.
The first component is the cause that ends it; a wait makes the step balk. -/
def reachTarget (s : State) (job va : Nat) (t : Target) (n : Nat) : Option (BitVec 8) × State :=
  if targetMay s t n then (none, s)
  else if t.tier = 2 then
    match lentReply s { deviceAccess 0 job va t with len := n } with
    | (.fault f, s) => (some f, s)
    | (_, s) => (none, balk s)
  else (none, balk (targetWaits s t n))

/-- The address that a cause of an access names: the remote address for the causes of the fabric (Table 14.2). -/
def faultPlace (t : Target) (f : BitVec 8) (va : Word) : Word := if f = 0x30 ∨ f = 0x31 then BitVec.ofNat 64 t.addr else va

/-! ### Reads and writes -/

/-- The target of a piece: that of what is asked for already, or its translation, physical for a Reeve's commands. -/
def pieceTarget (s : State) (k job va : Nat) (kind : AccessKind) (opc : Nat) (reeve : Bool) : Translation × State :=
  match askedAt s job va 0 [opc] with
  | some t => (.ok t, s)
  | none => if reeve then (physicalTarget (BitVec.ofNat 64 va), s) else translate s (some k) job (BitVec.ofNat 64 va) kind

/-- Reads one piece: a translation fault or poison ends it, with its cause and address; in a step that is not taken, it is not
made. -/
def readPiece (s : State) (k job va n : Nat) (kind : AccessKind) (reeve : Bool) :
    Except (BitVec 8 × Word) (List Byte) × State :=
  let a := BitVec.ofNat 64 va
  if s.balked then (.error (0x10, a), s)
  else
  match pieceTarget s k job va kind 1 reeve with
  | (.error f, s) => (.error (f, a), s)
  | (.ok t, s) =>
    if t.tier = 1 then
      match lentRead s (deviceAccess k job va t) n with
      | (.ok bs _, s) => (.ok bs, s)
      | (.fault f, s) => (.error (f, faultPlace t f a), s)
      | (.wait, s) => (.error (0x30, a), balk s)
    else
    match reachTarget s job va t n with
    | (some f, s) => (.error (f, faultPlace t f a), s)
    | (none, s) =>
    match targetPoison s t n with
    | some i => (.error (0x40, BitVec.ofNat 64 ((va + i) / 32 * 32)), afterTarget s t n)
    | none => (.ok (targetBytes s t n), afterTarget s t n)

/-- Reads the pieces in order; the first fault ends it. -/
def readPieces (s : State) (k job : Nat) (kind : AccessKind) (reeve : Bool) :
    List (Nat × Nat) → Except (BitVec 8 × Word) (List Byte) × State
  | [] => (.ok [], s)
  | (a, n) :: rest =>
    match readPiece s k job a n kind reeve with
    | (.error f, s) => (.error f, s)
    | (.ok bs, s) =>
      match readPieces s k job kind reeve rest with
      | (.error f, s) => (.error f, s)
      | (.ok cs, s) => (.ok (bs ++ cs), s)

/-- A read of n bytes at a virtual address of a job (physical for a Reeve's commands), for core k. -/
def readVirtual (s : State) (k job va n : Nat) (kind : AccessKind) (reeve : Bool) :
    Except (BitVec 8 × Word) (List Byte) × State :=
  readPieces s k job kind reeve (piecesOf va n)

/-- Writes one piece. -/
def writePiece (s : State) (k job va : Nat) (bs : List Byte) (reeve : Bool) : Except (BitVec 8 × Word) Unit × State :=
  let a := BitVec.ofNat 64 va
  if s.balked then (.error (0x10, a), s)
  else
  match pieceTarget s k job va .store 2 reeve with
  | (.error f, s) => (.error (f, a), s)
  | (.ok t, s) =>
    if t.tier = 1 then
      match lentWrite s (deviceAccess k job va t) bs with
      | (.ok _ _, s) => (.ok (), s)
      | (.fault f, s) => (.error (f, faultPlace t f a), s)
      | (.wait, s) => (.error (0x30, a), balk s)
    else
    match reachTarget s job va t bs.length with
    | (some f, s) => (.error (f, faultPlace t f a), s)
    | (none, s) => (.ok (), targetWrite s t bs)

/-- Writes pieces in order; the first fault ends it, and what was written stays. -/
def writePieces (s : State) (k job : Nat) (reeve : Bool) :
    List (Nat × Nat) → List Byte → Except (BitVec 8 × Word) Unit × State
  | [], _ => (.ok (), s)
  | (a, n) :: rest, bs =>
    match writePiece s k job a (bs.take n) reeve with
    | (.error f, s) => (.error f, s)
    | (.ok _, s) => writePieces s k job reeve rest (bs.drop n)

/-- A write of bytes at a virtual address of a job (physical for a Reeve's commands), for core k. -/
def writeVirtual (s : State) (k job va : Nat) (bs : List Byte) (reeve : Bool) : Except (BitVec 8 × Word) Unit × State :=
  writePieces s k job reeve (piecesOf va bs.length) bs

/-- One indivisible step on a doubleword at a virtual address, for a unit: the old value. A fault or poison leaves memory as it
is (R67, Table 10.5). -/
def atomicVirtual (s : State) (k job va owner : Nat) (op : Step8) : Except (BitVec 8 × Word) Word × State :=
  let a := BitVec.ofNat 64 va
  if s.balked then (.error (0x10, a), s)
  else
  let (r, s) : Translation × State := match askedAt s job va owner [3, lentOpc] with
    | some t => (.ok t, s)
    | none => translate s (some k) job a .atomic
  match r with
  | .error e => (.error (e, a), s)
  | .ok t =>
    if t.tier = 1 then
      match lentStep s { deviceAccess k job va t with owner := owner } op with
      | (.ok _ old, s) => (.ok old, s)
      | (.fault f, s) => (.error (f, faultPlace t f a), s)
      | (.wait, s) => (.error (0x30, a), balk s)
    else
    match reachTarget s job va t 8 with
    | (some f, s) => (.error (f, faultPlace t f a), s)
    | (none, s) =>
    match targetPoison s t 8 with
    | some _ => (.error (0x40, a), afterTarget s t 8)
    | none =>
      let old := bytesWord (targetBytes s t 8)
      let s := afterTarget s t 8
      match op.next old with
      | some v => (.ok old, targetWrite s t (wordBytes v))
      | none => (.ok old, s)

/-! ### Sending the requests of a step -/

/-- Sends the request of an access. -/
def sendLent (s : State) (a : LentAccess) : State :=
  let tag := s.fabric.nextTag
  let s := { s with lent := updateFirst (· == a) (fun a => { a with tag := some tag }) s.lent }
  sendRequest s
    { core := a.core, job := a.job, opc := a.opc, node := a.target.node, raddr := a.target.addr, len := a.len, ty := 0, phy := true,
      opnd := a.opnd, circ := 0, data := a.data, dests := [], cmd := none, access := none, place := 0, cnt := a.cnt }

/-- At the end of a step the requests of its accesses leave, as far as tags are free. -/
def sendLents (s : State) : State :=
  s.lent.foldl (fun s a => if a.opc ≠ 0 ∧ a.tag = none ∧ tagFree s a.core then sendLent s a else s) s

/-- The accesses that wait, after a step that was taken: those of the device whose answers it has used are done with. -/
def lentSettled (s : State) : State := { s with lent := s.lent.filter (!·.used) }

/-- A lender's answer, or none within its time, reaches the access that has asked (R371). -/
def answerLent (s : State) (tag stat : Nat) (data : List Byte) (old : Word) : State :=
  { s with lent := s.lent.map fun a => if a.tag == some tag then { a with answer := some (stat, data, old) } else a }

/-- Ngugrim has not finished retraining within 2 s: the device's accesses that wait for it end (R417). -/
def endWaits (s : State) : State :=
  { s with lent := s.lent.map fun a => if a.opc == 0 && !a.used then { a with answer := some (5, [], 0) } else a }

end Sys2Proof.Machine
end

