-- ==== Sys2Proof/Machine/Engine.lean ====
section
/-!
DEFINITION. The engine commands that format C words queue (R220, R221, R223-R228, R251, R285, R363, R384): their entry into a
queue, their marks, their waits and signals, their accesses to memory, their faults, and how they end.
-/
namespace Sys2Proof.Machine
open Sys2Proof.Config

/-! ### Commands of a crew -/

/-- The four queues of a core (R223, R251, R285, R363). -/
inductive QueueName where
  | copy
  | matrix
  | bank
  | port
deriving DecidableEq, Repr

/-- The queue that a command enters; a Gleaner command enters none of the four. -/
def EngKind.queue : EngKind → QueueName
  | .tld | .tst | .tmov | .tcopy2d | .clist | .trope | .glcfg | .glgo => .copy
  | .mcfg | .mgo | .mclaim | .mrel | .mldo | .mret | .mcell => .matrix
  | .bqcmd | .bqload | .winfence => .bank
  | .fld | .fst | .fget | .fput | .ffadd | .fmcast | .fsig | .leaseGrant | .leaseRecall | .leaseRelease | .slotswLoad
  | .slotswSwitch => .port

/-- Entries of a queue. -/
def QueueName.size : QueueName → Nat
  | .bank => 16
  | _ => 32

/-- The commands of a queue that have not left it. -/
def queued (c : CoreState) : QueueName → List EngCmd
  | .copy => c.copyQ
  | .matrix => c.matQ
  | .bank => c.bankQ
  | .port => c.portQ

/-- Replaces the commands of a queue. -/
def setQueued (c : CoreState) (q : QueueName) (l : List EngCmd) : CoreState :=
  match q with
  | .copy => { c with copyQ := l }
  | .matrix => { c with matQ := l }
  | .bank => { c with bankQ := l }
  | .port => { c with portQ := l }

/-- The commands of a queue in progress. -/
def running (c : CoreState) : QueueName → List EngCmd
  | .copy => c.copyRun
  | .matrix => c.matRun
  | .bank => c.bankRun
  | .port => c.portRun

/-- Replaces the commands in progress. -/
def setRunning (c : CoreState) (q : QueueName) (l : List EngCmd) : CoreState :=
  match q with
  | .copy => { c with copyRun := l }
  | .matrix => { c with matRun := l }
  | .bank => { c with bankRun := l }
  | .port => { c with portRun := l }

/-- Every command of a core's four queues. -/
def coreCmds (c : CoreState) : List EngCmd :=
  c.copyRun ++ c.copyQ ++ c.matRun ++ c.matQ ++ c.bankRun ++ c.bankQ ++ c.portRun ++ c.portQ

/-- Every command of a crew that is not complete. -/
def crewCmds (s : State) (k : Nat) (c : Crew) : List EngCmd :=
  ((coreCmds (coreAt s (coreOf k))).filter fun e => e.crewId == c.crewId) ++ c.glCmds

/-- Changes a command wherever it stands on a core. -/
def modCmd (s : State) (core id : Nat) (f : EngCmd → EngCmd) : State :=
  let c := coreAt s core
  let up := updateIf (·.id == id) f
  putCore s core { c with copyQ := up c.copyQ, copyRun := up c.copyRun, matQ := up c.matQ, matRun := up c.matRun,
                          bankQ := up c.bankQ, bankRun := up c.bankRun, portQ := up c.portQ, portRun := up c.portRun }

/-- Puts a command back as it has become. -/
def putCmd (s : State) (core : Nat) (e : EngCmd) : State := modCmd s core e.id fun _ => e

/-! ### Marks (R220, R221) -/

/-- Whether an outstanding command of the crew, issued at an earlier count, will write tile register t. -/
def markedW (s : State) (k : Nat) (c : Crew) (t : Nat) : Bool :=
  (crewCmds s k c).any fun e => decide (e.issued < c.counter) && e.writes.contains t
/-- Whether an outstanding command of the crew, issued at an earlier count, will read tile register t. -/
def markedR (s : State) (k : Nat) (c : Crew) (t : Nat) : Bool :=
  (crewCmds s k c).any fun e => decide (e.issued < c.counter) && e.reads.contains t
/-- Whether tile register t carries any mark of the crew's outstanding commands. -/
def marked (s : State) (k : Nat) (c : Crew) (t : Nat) : Bool :=
  (crewCmds s k c).any fun e => e.writes.contains t || e.reads.contains t

/-- Tile registers that a form marks R and W (Tables 08.5, 09.6, 13.4; R243). -/
def tilesOf (kind : EngKind) (cimm : BitVec 14) : List Nat × List Nat :=
  let lo := (cimm.extractLsb' 0 4).toNat
  match kind with
  | .tld | .trope => ([], [lo])
  | .tst => ([lo], [])
  | .tmov => ([(cimm.extractLsb' 4 4).toNat], [lo])
  | .tcopy2d | .clist => ([lo], [lo])
  | .mldo => ([(cimm.extractLsb' 5 4).toNat], [])
  | .mret => ([], [(cimm.extractLsb' 1 4).toNat])
  | .fld => ([], [lo])
  | .fst | .fmcast => ([lo], [])
  | _ => ([], [])

/-- The definition of a tile register. -/
def tdefOf (c : Crew) (t : Nat) : Word := (c.tdef[t]?).getD 0

/-! ### Entering a queue -/

/-- The metadata register that a GLGO's offsets come from: that of the last GLCFG issued; none before any. -/
def gleanerTile (c : Crew) : Option Nat :=
  match (c.glCmds.filter fun e => e.kind == .glcfg).getLast? with
  | some e => some (e.cimm.extractLsb' 0 4).toNat
  | none => if c.gleaner.configured then some c.gleaner.tile else none

/-- The command of a word with its operands, at its issue or as it is issued again; a GLGO marks the metadata register of the
last GLCFG before it (R243). -/
def makeCmd (s : State) (k : Nat) (c : Crew) (kind : EngKind) (o : FmtC) (xa xb : Word) (issued : Nat) : EngCmd :=
  let (r, w) := match kind with
    | .glgo => ((gleanerTile c).toList, [])
    | _ => tilesOf kind o.cimm
  { id := s.stamp, kind := kind, slot := k, crewId := c.crewId, job := jobOf s c, seq := s.stamp, issued := issued, xa := xa,
    xb := xb, cimm := o.cimm, wv := o.wv, sw := o.sw.toNat, sv := o.sv, ss := o.ss.toNat, reads := r, writes := w,
    tiles := (r ++ w).map fun t => (t, tdefOf c t), cbSlots := [], consumed := false, started := false, progress := 0,
    worked := false, held := false, latch := [], readyAt := none, flags := 0 }

/-- The operand-log entry of a command (Table 14.6). -/
def cmdEntry (s : State) (c : Crew) (e : EngCmd) : LogEntry :=
  { newEntry s c .cmd e.xa e.xb 0 0 0 with phase := .going, cmdId := e.id }

/-- Queues a command of the S-stream's word; a full queue is a command-queue-full stall (R223, R251, R285, R363). -/
def queueCmd (s : State) (k : Nat) (c : Crew) (kind : EngKind) (o : FmtC) (xa xb : Word) : Effect :=
  let core := coreAt s (coreOf k)
  let q := kind.queue
  if (queued core q).length ≥ q.size then .stall s
  else
    let e := makeCmd s k c kind o xa xb c.counter
    .done (bump (putCore s (coreOf k) (setQueued core q (queued core q ++ [e])))) { c with log := c.log ++ [cmdEntry s c e] }

/-- The frame of a format C word (R86): the registers it reads, the Reeve's rule on semaphores (R383), poison (R227, R254,
R286, R364), then its own checks and its entry. -/
def commandWord (o : FmtC) (privileged : Bool) (useA useB : Bool) (s : State)
    (body : State → Nat → Crew → Word → Word → Effect) : Out :=
  let srcs := (if useA then [(RegFile.x, o.ra.toNat)] else []) ++ (if useB then [(RegFile.x, o.rb.toNat)] else [])
  let nums := (if useA then [(0, o.ra)] else []) ++ (if useB then [(1, o.rb)] else [])
  runWord s .s privileged none (freesC o) srcs fun s k _ c =>
    if isReeve k && (o.wv || o.sv) then .trap 0x01 0xB
    else
      match poisonedX s c nums with
      | some p => .trap 0x04 p
      | none => body s k c (if useA then readX s c 0 o.ra else 0) (if useB then readX s c 1 o.rb else 0)

/-! ### Waits, signals and the end of a command -/

/-- Whether a crew that issued a command still runs on its bench under the same identifier. -/
def issuer (s : State) (e : EngCmd) : Option Crew :=
  match crewAt s e.slot with
  | some c => if c.crewId = e.crewId then some c else none
  | none => none

/-- Whether a command may not start: the crew that issued it is TRAPPED or HELD (R387), or HOLD lasts (R415). -/
def cmdFrozen (s : State) (e : EngCmd) : Bool := s.pkg.hold || ((issuer s e).isSome && crewStopped s e.slot)

/-- Consumes a command's wait (R224): the state in which it may go on, or that in which it has joined the waiters; behind a
SEMINIT of its crew that is still pending it begins to wait later (R345). -/
def consumeWait (s : State) (core : Nat) (e : EngCmd) : Bool × State :=
  if !e.wv || e.consumed then (true, s)
  else if (issuer s e).any fun c => initPending c e.sw e.seq then (false, s)
  else if semMay s core e.sw (.cmd e.slot e.id) then (true, semTake s core e.sw (.cmd e.slot e.id))
  else (false, semJoin s core e.sw (.cmd e.slot e.id))

/-- Counts a Reeve's command that has completed or stopped, with its cause (R384). -/
def reeveDone (s : State) (k : Nat) (cause : BitVec 8) : State :=
  let cl := clusterOf k
  let r := reeveAt s cl
  let q := withBits r.rqst 63 32 (bits r.rqst 63 32 + 1)
  let q := if cause = 0 then q
    else withBits (withBits q 15 8 cause.toNat) 7 0 (min (bits q 7 0 + 1) 0xFF)
  putReeve s cl { r with rqst := q }

/-- A late cause of a command: reported to its crew through the operand log (R228, R386). again says that its accesses are not
performed, so that it is issued again (R392). -/
def cmdFault (s : State) (e : EngCmd) (code : BitVec 8) (addr : Word) (again : Bool) : State :=
  match issuer s e with
  | none => s
  | some c =>
    if crewCancelled s c then modCrew s e.slot fun c => freeLog c e.seq
    else
      modCrew (lateFault s e.slot e.seq code addr) e.slot fun c =>
        modLog c e.seq fun l => { l with ri := again }

/-- Frees the Mills that a command holds, their banks HOST-owned again (R275, R287, R288). -/
def releaseMills (s : State) (core id : Nat) : State :=
  { s with mills := s.mills.map fun q =>
      (q.1, if q.2.holder == some (core, id) then { q.2 with holder := none, owner := none, ownedBanks := 0, service := none } else q.2) }

/-- Takes a command out of everything that holds it on its core. -/
def dropCmd (s : State) (core : Nat) (e : EngCmd) : State :=
  let s := endWrites (releaseMills s core e.id) e false
  let s := { s with lent := s.lent.filter (·.cmd != some (core, e.id)) }
  let c := coreAt s core
  let out := fun (l : List EngCmd) => l.filter (·.id != e.id)
  let s := putCore s core { c with copyQ := out c.copyQ, copyRun := out c.copyRun, matQ := out c.matQ, matRun := out c.matRun,
                                   bankQ := out c.bankQ, bankRun := out c.bankRun, portQ := out c.portQ,
                                   portRun := out c.portRun }
  modCrew s e.slot fun c => { c with glCmds := out c.glCmds }

/-- Frees the log entry of a command, where the crew that issued it is still there (R391). -/
def freeCmdLog (s : State) (e : EngCmd) : State :=
  modCrew s e.slot fun c => if c.crewId = e.crewId then freeLog c e.seq else c

/-- A command stops on a fault (R228): it leaves its queue, its marks go with it, SS is not signalled. -/
def stopCmd (s : State) (core : Nat) (e : EngCmd) (code : BitVec 8) (addr : Word) (again : Bool) : State :=
  let s := dropCmd s core e
  if isReeve e.slot then freeCmdLog (reeveDone s e.slot code) e else cmdFault s e code addr again

/-- A command completes: it leaves its queue and its log entry is freed; with SV it signals SS, and an overflow is the issuing
crew's late fault (R224, R345, R391). -/
def finishCmd (s : State) (core : Nat) (e : EngCmd) : State :=
  let s := dropCmd (endWrites s e e.sv) core e
  if isReeve e.slot then freeCmdLog (reeveDone s e.slot 0) e
  else if e.sv then
    match semAdd s core e.ss 1 with
    | (true, s) => freeCmdLog s e
    | (false, s) => cmdFault s e 0x21 (BitVec.ofNat 64 e.ss) false
  else freeCmdLog s e

/-- A translation fault holds the command at its access and asserts the stall wire (R228, R389); a cancelled crew's command
stops there instead. -/
def holdCmd (s : State) (core : Nat) (e : EngCmd) (code : BitVec 8) (addr : Word) : State :=
  if isReeve e.slot then stopCmd s core e code addr false
  else
    match issuer s e with
    | none => dropCmd s core e
    | some c =>
      if crewCancelled s c then finishCancelled s core e c else holdFault (putCmd s core { e with held := true }) e.slot e.seq code addr
where
  /-- A held access of a cancelled crew is discarded, and the command with it. -/
  finishCancelled (s : State) (core : Nat) (e : EngCmd) (_ : Crew) : State :=
    modCrew (dropCmd s core e) e.slot fun c => freeLog c e.seq

/-! ### A command's memory accesses (R226-R228, R340) -/

/-- Whether an access of a command at a virtual address and its target must wait for an earlier scalar access of its crew to
overlapping bytes, one of the two writing them (R147, R226). One whose translation is still out may reach the same bytes. -/
def behindStores (s : State) (e : EngCmd) (va : Nat) (t : Target) (n : Nat) (writes : Bool) : Bool :=
  match issuer s e with
  | none => false
  | some c => c.log.any fun l =>
      decide (l.seq < e.seq) && entryBytes l != 0 && (writes || entryWrites l) && (!l.faulted || l.ri) &&
      match l.target with
      | some u => u.tier == t.tier && u.node == t.node && decide (t.addr < u.addr + entryBytes l ∧ u.addr < t.addr + n)
      | none => !l.faulted || decide (va < l.opa.toNat + entryBytes l ∧ l.opa.toNat < va + n)

/-- Whether a scratchpad access of a command must wait for a vector store of its crew issued at a count up to its own (R221). -/
def behindVectors (s : State) (e : EngCmd) : Bool :=
  match issuer s e with
  | none => false
  | some c => c.vstores.any fun v => decide (v.issued ≤ e.issued)

/-- Whether a command's access must wait: for its target, and for the end of HOLD if it is a Porter command's (R415). -/
def accessWaits (s : State) (e : EngCmd) (t : Target) (n : Nat) : Bool :=
  (s.pkg.hold && e.kind.queue == .port) || (t.tier ≠ 1 && !targetMay s t n)

/-- Whether an access waits for a Ngugrim that has not retrained in time (R417). -/
def ngugrimLost (s : State) (t : Target) : Bool := s.port.lost && t.tier == 2

/-- How one access of a command ends. -/
inductive Moved (α : Type) where
  | ok (v : α) (s : State)
  /-- It must wait for an earlier access, or the memory (R226, R276, R415). -/
  | wait (s : State)
  | fault (code : BitVec 8) (addr : Word) (s : State)

/-- The same end with its value as f gives it. -/
def Moved.map (f : α → β) : Moved α → Moved β
  | .ok v s => .ok (f v) s
  | .wait s => .wait s
  | .fault c a s => .fault c a s

/-- What an access of a command to lent memory asks the lender for. -/
def cmdAccess (e : EngCmd) (va : Nat) (t : Target) : LentAccess :=
  { deviceAccess (coreOf e.slot) e.job va t with
    cmd := some (coreOf e.slot, e.id), progress := (e.progress, e.latch.length) }

/-- The target of an access that a command has asked a lender for: its translation stands until the answer (R79). -/
def cmdAsked (s : State) (e : EngCmd) (va : Nat) (opcs : List Nat) : Option Target :=
  (s.lent.find? fun a => a.cmd == some (coreOf e.slot, e.id) && a.progress == (e.progress, e.latch.length) && a.va == va &&
    opcs.contains a.opc).map (·.target)

/-- How an access of a command to lent memory goes on (R80, R228, R371). -/
def ofReply (va : Nat) (t : Target) : Reply × State → Moved (List Byte × Word)
  | (.ok bs old, s) => .ok (bs, old) s
  | (.fault f, s) => .fault f (faultPlace t f (BitVec.ofNat 64 va)) s
  | (.wait, s) => .wait s

/-- The target of a command's access, reached: it waits for its translation (R276), for its memory, for its crew's earlier
accesses (R226), and a Porter command's for the end of HOLD (R415). -/
def cmdTarget (s : State) (e : EngCmd) (va n : Nat) (kind : AccessKind) : Moved Target :=
  let a := BitVec.ofNat 64 va
  if 2 ^ 48 ≤ va ∧ !isReeve e.slot then .fault 0x10 a s
  else
    let (r, t) := if isReeve e.slot then (physicalTarget a, s) else translate s (some (coreOf e.slot)) e.job a kind
    if t.balked then .wait (keepWalks s t)
    else
      match r with
      | .error f => .fault f a t
      | .ok g =>
        if ngugrimLost t g then .fault 0x30 (BitVec.ofNat 64 g.addr) t
        else if behindStores t e va g n (kind != .load) then .wait t
        else if accessWaits t e g n then .wait (targetWaits t g n)
        else .ok g t

/-- A command's read of bytes that lie in one page; bytes of poisoned sectors stop it with ECC_UE after the given use of them
(Table 10.5). -/
def cmdRead (s : State) (e : EngCmd) (va n : Nat) : Moved (List Byte) :=
  match cmdAsked s e va [1] with
  | some t => (ofReply va t (lentRead s (cmdAccess e va t) n)).map (·.1)
  | none =>
  match cmdTarget s e va n .load with
  | .wait s => .wait s
  | .fault f a s => .fault f a s
  | .ok t s =>
    if !isReeve e.slot && racesAt s e.job e.crewId t n then .fault 0x20 (BitVec.ofNat 64 va) s
    else if t.tier = 1 then (ofReply va t (lentRead s (cmdAccess e va t) n)).map (·.1)
    else
      match targetPoison s t n with
      | some _ => .fault 0x40 (BitVec.ofNat 64 va) (afterTarget s t n)
      | none => .ok (targetBytes s t n) (afterTarget s t n)

/-- A command's write of bytes that lie in one page (R339, R340); a write to lent memory is checked and recorded before it
leaves. -/
def cmdWrite (s : State) (e : EngCmd) (va : Nat) (bs : List Byte) : Moved Unit :=
  match cmdAsked s e va [2] with
  | some t => (ofReply va t (lentWrite s (cmdAccess e va t) bs)).map fun _ => ()
  | none =>
  match cmdTarget s e va bs.length .store with
  | .wait s => .wait s
  | .fault f a s => .fault f a s
  | .ok t s =>
    if !isReeve e.slot && racesAt s e.job e.crewId t bs.length then .fault 0x20 (BitVec.ofNat 64 va) s
    else
      let s := if isReeve e.slot then s else recordWrite s e.job e.crewId t bs.length
      if t.tier = 1 then (ofReply va t (lentWrite s (cmdAccess e va t) bs)).map fun _ => ()
      else .ok () (signCrossings (commandWriter e) s (targetWrite s t bs))

/-- The byte that a command's write is to change in part, read for it. -/
def cmdOldByte (s : State) (e : EngCmd) (va : Nat) : Moved Byte :=
  match cmdAsked s e va [1, 2] with
  | some t => (ofReply va t (lentRead s (cmdAccess e va t) 1)).map (·.1.headD 0)
  | none =>
    match cmdTarget s e va 1 .store with
    | .wait s => .wait s
    | .fault f a s => .fault f a s
    | .ok t s =>
      if t.tier = 1 then (ofReply va t (lentRead s (cmdAccess e va t) 1)).map (·.1.headD 0)
      else .ok ((targetBytes s t 1).headD 0) s

/-! ### The work of a command -/

/-- How one access of a command's work ends. -/
inductive Worked where
  | more (s : State) (e : EngCmd)
  | finished (s : State) (e : EngCmd)
  | wait (s : State) (e : EngCmd)
  | fault (s : State) (e : EngCmd) (code : BitVec 8) (addr : Word)

/-- Makes a command's accesses one after another until it is finished, must wait, or meets a fault. -/
def workOn (f : State → EngCmd → Worked) : Nat → State → EngCmd → Worked
  | 0, s, e => .wait s e
  | fuel + 1, s, e =>
    match f s e with
    | .more s e => workOn f fuel s e
    | r => r

/-- Works on a command as far as it goes: finished it is marked so; a fault holds or stops it (R228). -/
def workCmd (core : Nat) (f : State → EngCmd → Worked) (s : State) (e : EngCmd) : State :=
  match workOn f (2 ^ 60) s e with
  | .more s e | .wait s e => putCmd s core e
  | .finished s e => putCmd s core { e with worked := true }
  | .fault s e code addr =>
    if heldCode code then holdCmd (putCmd s core e) core e code addr else stopCmd (putCmd s core e) core e code addr true

end Sys2Proof.Machine
end

