-- ==== Sys2Proof/Machine/Work.lean ====
section
/-!
DEFINITION. The hierarchy of work: dockets (R19, R20), level counters (R15-R17), completion and cancellation (R18, R411-R414),
completion records (R48), and the creation of units (R50).
-/
namespace Sys2Proof.Machine
open Sys2Proof.Config

/-! ### Docket fields (Table 01.2) -/

def Docket.job (d : List Word) : Nat := bits (d.getD 4 0) 43 40
def Docket.pv (d : List Word) : Bool := (d.getD 4 0).getLsbD 38
def Docket.phase (d : List Word) : Nat := bits (d.getD 4 0) 37 32
def Docket.gv (d : List Word) : Bool := (d.getD 4 0).getLsbD 25
def Docket.graph (d : List Word) : Nat := bits (d.getD 4 0) 24 16
def Docket.launch (d : List Word) : Nat := bits (d.getD 4 0) 11 0
def Docket.join (d : List Word) : Nat := bits (d.getD 3 0) 47 0
def Docket.aff (d : List Word) : Nat := bits (d.getD 5 0) 63 56
def Docket.lsz (d : List Word) : Nat := bits (d.getD 5 0) 51 48
def Docket.jn (d : List Word) : Bool := (d.getD 5 0).getLsbD 40
def Docket.strict (d : List Word) : Bool := (d.getD 5 0).getLsbD 39
def Docket.mig (d : List Word) : Bool := (d.getD 5 0).getLsbD 38
def Docket.rst (d : List Word) : Bool := (d.getD 5 0).getLsbD 37
def Docket.prio (d : List Word) : Nat := bits (d.getD 5 0) 34 32
def Docket.save (d : List Word) : Nat := bits (d.getD 6 0) 47 0

/-- The levels that a docket names, as (kind, identifier): launch, graph with GV, phase with PV, job (R16). -/
def docketLevels (d : List Word) : List (Nat × Nat) :=
  [(1, Docket.launch d)] ++ (if Docket.gv d then [(2, Docket.graph d)] else []) ++
    (if Docket.pv d then [(3, Docket.phase d)] else []) ++ [(4, Docket.job d)]

/-- A level is ACTIVE and of a job. -/
def levelActive (s : State) (job : Nat) (l : Nat × Nat) : Bool :=
  let v := levelAt s l.1 l.2
  v.state == .active && v.job == job

/-- The reserved fields of a docket are zero (Table 01.2). -/
def docketReservedZero (d : List Word) : Bool :=
  bits (d.getD 0 0) 63 48 == 0 && bits (d.getD 1 0) 63 48 == 0 && bits (d.getD 3 0) 63 48 == 0 &&
  bits (d.getD 4 0) 63 44 == 0 && !(d.getD 4 0).getLsbD 39 && bits (d.getD 4 0) 31 26 == 0 && bits (d.getD 4 0) 15 12 == 0 &&
  bits (d.getD 5 0) 55 52 == 0 && bits (d.getD 5 0) 47 41 == 0 && bits (d.getD 5 0) 36 35 == 0 &&
  bits (d.getD 5 0) 31 8 == 0 && bits (d.getD 6 0) 63 48 == 0

/-- A docket is malformed (R20), where the levels that must be ACTIVE are as given. -/
def malformedNaming (s : State) (levels : List (Nat × Nat)) (d : List Word) : Bool :=
  !docketReservedZero d || bits (d.getD 5 0) 7 0 != 1 || bits (d.getD 0 0) 2 0 != 0 || bits (d.getD 1 0) 2 0 != 0 ||
  bits (d.getD 3 0) 2 0 != 0 || bits (d.getD 6 0) 5 0 != 0 || Docket.aff d == 0 ||
  !(levels.all (levelActive s (Docket.job d))) || ((Docket.rst d || Docket.mig d) && Docket.save d == 0) ||
  (Docket.jn d && !Docket.gv d)

/-- A docket is malformed (R20). -/
def docketMalformed (s : State) (d : List Word) : Bool := malformedNaming s (docketLevels d) d

/-! ### Completion records (R36, R48) -/

/-- Records of the completion ring: 2^(CPSZ + 8). -/
def cpRingSize (s : State) : Nat := 2 ^ (bits s.port.cpbase 3 0 + 8)
/-- Whether the completion ring has room. -/
def cpRoom (s : State) : Bool := decide ((s.port.cptail - s.port.cphead).toNat < cpRingSize s)

/-- Writes one completion record and advances CPTAIL. -/
def writeCompletion (s : State) (d0 d1 : Word) : State :=
  let a := bits s.port.cpbase 47 12 * 4096 + 16 * (s.port.cptail.toNat % cpRingSize s)
  let s := ctlWrite s a (wordBytes d0 ++ wordBytes d1)
  { s with port := { s.port with cptail := s.port.cptail + 1 } }

/-- Whether a level lies inside another: launches, graphs and phases inside their job, launches and graphs inside their phase. -/
def liesInside (key : Nat) (l : Level) (outer : Nat × Nat) (job : Nat) : Bool :=
  l.job == job &&
    ((outer.1 == 4 && decide (key / 65536 < 4)) || (outer.1 == 3 && decide (key / 65536 < 3) && l.phase == some outer.2))

/-- Whether a level-ended record must still wait for that of a level inside its own (R48): the record of a job that ends while
a phase of it is open waits for the phase's (DESIGN CHOICE, log 77: R411 ends the job, R48 orders the records). -/
def recordWaits (s : State) (key : Nat) : Bool :=
  s.levels.any fun e => e.2.inUse && liesInside e.1 e.2 (key / 65536, key % 65536) (mapGetD s.levels key .never).job

/-- The key that marks a command's status record among the completion records that wait; every level's key is above it. -/
def statusKey : Nat := 0

/-- What follows the writing of a record: after a status record CQHEAD passes the command (R36); after a level-ended record
the identifier is free, and a job has no root block any more (R39, R48, R66). -/
def recordWritten (s : State) (key : Nat) : State :=
  if key = statusKey then { s with port := { s.port with cqhead := s.port.cqhead + 1 } }
  else { s with levels := mapSet s.levels key { mapGetD s.levels key .never with inUse := false } }

/-- Writes waiting completion records, in order, while the ring has room and Ngugrim is up (R36, R48, R49). -/
def drainEnded (s : State) : Nat → State
  | 0 => s
  | fuel + 1 =>
    match s.port.ended.find? fun e => e.2.2 == statusKey || !recordWaits s e.2.2 with
    | none => s
    | some e =>
      if cpRoom s && !s.port.retrain then
        let s := writeCompletion s e.1 e.2.1
        drainEnded (recordWritten { s with port := { s.port with ended := s.port.ended.erase e } } e.2.2) fuel
      else s

/-- Writes what can be written of the waiting records. -/
def flushEnded (s : State) : State := drainEnded s s.port.ended.length

/-! ### Counters, completion, cancellation -/

/-- A half of a replay that ends is no longer the other half's: an identifier that is opened again is another's (R39, R43). -/
def unpair (s : State) (l : Nat × Nat) : State :=
  match (levelAt s l.1 l.2).partner with
  | some p =>
    let other := levelAt s (3 - l.1) p
    if other.partner = some l.2 then putLevel s (3 - l.1) p { other with partner := none } else s
  | none => s

/-- Ends a level whose counter is zero: DONE when it is closed, CANCELLED when it is cancelling (R411, R414). -/
def settleLevel (s : State) (l : Nat × Nat) : State :=
  let v := levelAt s l.1 l.2
  let finish (st : LevelState) (status : Nat) : State :=
    let s := putLevel (unpair s l) l.1 l.2 { v with state := st, partner := none }
    let d0 : Word := BitVec.ofNat 64 (2 * 2 ^ 56 + status * 2 ^ 48)
    let d1 : Word := BitVec.ofNat 64 (l.1 * 2 ^ 28 + l.2)
    flushEnded { s with port := { s.port with ended := s.port.ended ++ [(d0, d1, levelKey l.1 l.2)] } }
  if v.count = 0 then
    match v.state with
    | .active => if v.closed then finish .done 0 else s
    | .cancelling => finish .cancelled 1
    | _ => s
  else s

/-- Whether adding n keeps every named counter within 2^32 − 1 (R17). -/
def countersFit (s : State) (ls : List (Nat × Nat)) (n : Nat) : Bool :=
  ls.all fun l => decide ((levelAt s l.1 l.2).count + n ≤ 0xFFFFFFFF)

/-- Adds n to every named counter (R16). -/
def addCounters (s : State) (ls : List (Nat × Nat)) (n : Nat) : State :=
  ls.foldl (fun s l => let v := levelAt s l.1 l.2; putLevel s l.1 l.2 { v with count := v.count + n }) s

/-- Subtracts n from every named counter; the launch or graph ends before its phase, and the phase before its job (R48). -/
def subCounters (s : State) (ls : List (Nat × Nat)) (n : Nat) : State :=
  let s := ls.foldl (fun s l => let v := levelAt s l.1 l.2; putLevel s l.1 l.2 { v with count := v.count - n }) s
  ls.foldl settleLevel s

/-- Opens a level ACTIVE. -/
def openLevel (s : State) (kind id job : Nat) (phase : Option Nat) (root : Nat) : State :=
  putLevel s kind id { state := .active, closed := false, count := 0, job := job, phase := phase, inUse := true, root := root,
                       partner := none }

/-- Closes a level. -/
def closeLevel (s : State) (kind id : Nat) : State :=
  let v := levelAt s kind id
  settleLevel (putLevel s kind id { v with closed := true }) (kind, id)

/-- The unstarted commands of a crew leave every queue of their core: they are discarded and signal nothing (R18, R228). -/
def discardUnstarted (s : State) (k : Nat) : State :=
  match crewAt s k with
  | none => s
  | some c =>
    let core := coreAt s (coreOf k)
    let keep (q : List EngCmd) : List EngCmd := q.filter fun e => e.crewId != c.crewId
    let gone := (core.copyQ ++ core.matQ ++ core.bankQ ++ core.portQ ++ c.glCmds).filter fun e =>
      e.crewId == c.crewId && !e.started
    let dropWait (m : Sem) : Sem :=
      { m with waiters := m.waiters.filter fun w =>
          match w with
          | .crew j => j != k
          | .cmd _ id => !(gone.any (·.id == id)) }
    let core := { core with
      copyQ := keep core.copyQ, matQ := keep core.matQ, portQ := keep core.portQ,
      bankQ := core.bankQ.filter fun e => e.crewId != c.crewId || e.started
      sems := core.sems.map fun e => (e.1, dropWait e.2)
      claims := core.claims.filter fun q => q.crewId != c.crewId || q.granted }
    let c := { c with
      glCmds := c.glCmds.filter (·.started)
      log := c.log.filter fun e => !(gone.any (·.seq == e.seq)) }
    putCrew (putCore s (coreOf k) core) k c

/-- The commands of a crew that stand held at a faulting access are discarded with it (Table 14.7). -/
def discardHeld (s : State) (k : Nat) : State :=
  match crewAt s k with
  | none => s
  | some c =>
    let core := coreAt s (coreOf k)
    ((core.copyRun ++ core.bankQ ++ core.bankRun ++ core.portRun ++ c.glCmds).filter fun e =>
      e.crewId == c.crewId && e.held).foldl (dropCmd · (coreOf k) ·) s

/-- A running crew of a cancelled unit issues no further word; its held accesses and reported causes are discarded, its held
and unstarted commands too. It retires once its issued words have landed and its started commands have completed (R18, R410). -/
def cancelCrew (s : State) (k : Nat) : State :=
  let s := discardUnstarted (discardHeld s k) k
  modCrew s k fun c => settle
    { c with state := .running
             s := { c.s with exited := true, loops := [], rvz := none, fetched := none }
             v := { c.v with exited := true, loops := [], rvz := none, fetched := none }
             log := c.log.filter survives
             pendX := c.pendX.filter fun p => p.ready || (c.log.any fun e => e.seq == p.seq && survives e)
             late := [], waitValue := none }

/-- A level is named by a unit. -/
def unitNames (u : WorkUnit) (l : Nat × Nat) : Bool := (docketLevels u.docket).contains l

/-- Releases the claims of crews that hold no bench any more (R248, R250). -/
def releaseClaims (s : State) (ids : List Nat) : State :=
  if ids.isEmpty then s
  else
    { s with cores := s.cores.map fun e =>
        (e.1, { e.2 with claims := e.2.claims.filter fun q => !ids.contains q.crewId }) }

/-- The units that no bench has taken yet: those in the store, and those that wait for space in it (R50). -/
def undispatched (s : State) : List Nat :=
  s.dispatcher.store ++ s.dispatcher.waiting.filterMap fun w => match w with | .enqueue uid _ => some uid | _ => none

/-- Cancels every unit that names a level: the undispatched are discarded and leave their counters, the crews of the others
stop (R18). A unit whose join action is performed counts as retired (R414). -/
def cancelUnits (s : State) (l : Nat × Nat) : State :=
  let dead := (undispatched s).filter fun uid =>
    match mapGet s.units uid with | some u => unitNames u l | none => false
  let s := dead.foldl (fun s uid =>
    match mapGet s.units uid with
    | some u =>
      let s := { s with units := mapErase s.units uid
                        dispatcher := { s.dispatcher with
                          store := s.dispatcher.store.filter (· != uid)
                          reserved := s.dispatcher.reserved.filter (·.2 != uid) } }
      subCounters (releaseClaims s u.crewIds) (docketLevels u.docket) 1
    | none => s) s
  s.units.foldl (fun s e =>
    if e.2.dispatched && unitNames e.2 l && !e.2.joined && !e.2.cancelled then
      -- A unit whose crews are switched out holds no bench and leaves its counters at once.
      if !(s.crews.any fun c => c.2.uid == e.1) then
        subCounters (releaseClaims { s with units := mapErase s.units e.1 } e.2.crewIds) (docketLevels e.2.docket) 1
      else
      let s := { s with units := mapSet s.units e.1 { e.2 with cancelled := true } }
      e.2.members.foldl (fun s k =>
        match crewAt s k with
        | some c => if c.uid = e.1 then cancelCrew s k else s
        | none => s) s
    else s) s

/-- The replay of a graph creates none of the nodes that are left; its launch is closed and their shares leave the counters
(R43). -/
def endReplay (s : State) (graph : Nat) : State :=
  match mapGet s.replays graph with
  | none => s
  | some r =>
    let left := r.ncnt - r.created.length
    let s := { s with replays := mapErase s.replays graph }
    let lv := levelAt s 1 r.launch
    let s := putLevel s 1 r.launch { lv with closed := true }
    let ls := [(1, r.launch), (2, graph)] ++ (match r.phase with | some p => [(3, p)] | none => []) ++ [(4, r.job)]
    subCounters s ls left

/-- A level enters CANCELLING (R18). -/
def markCancelling (s : State) (l : Nat × Nat) : State :=
  putLevel s l.1 l.2 { levelAt s l.1 l.2 with state := .cancelling }

/-- The ACTIVE levels that a cancellation covers: the level, the other half of a replay, and for a phase or a job the launches,
graphs and phases inside it (R18, R43). -/
def cancelSet (s : State) (kind id : Nat) : List (Nat × Nat) :=
  let v := levelAt s kind id
  let inside := (s.levels.filter fun e => liesInside e.1 e.2 (kind, id) v.job).map fun e => (e.1 / 65536, e.1 % 65536)
  let pair := match v.partner with
    | some p => if kind = 1 then [(2, p)] else if kind = 2 then [(1, p)] else []
    | none => []
  ((inside.filter (·.1 == 2)) ++ (pair.filter (·.1 == 2)) ++ (inside.filter (·.1 == 1)) ++ (pair.filter (·.1 == 1)) ++
    (inside.filter (·.1 == 3)) ++ [(kind, id)]).filter fun l => (levelAt s l.1 l.2).state == .active

/-- Cancels a level (R18, R413): a level that is not ACTIVE is left as it is. Every level of the set is CANCELLING before the
first unit leaves a counter, so each of them ends CANCELLED (R414). -/
def cancelLevel (s : State) (kind id : Nat) : State :=
  if (levelAt s kind id).state = .active then
    let ls := cancelSet s kind id
    let s := ls.foldl cancelUnits (ls.foldl markCancelling s)
    let s := (ls.filter (·.1 == 2)).foldl (fun s l => endReplay s l.2) s
    let s := ls.foldl settleLevel s
    -- What the device has asked other packages for is asked anew where it is still wanted.
    { s with lent := s.lent.filter fun a => a.cmd.isSome || a.owner != 0 || a.job != (levelAt s kind id).job }
  else s

/-- Cancels a unit's innermost level: the graph with GV set, the launch otherwise (R67). -/
def cancelInnermost (s : State) (d : List Word) : State :=
  if Docket.gv d then cancelLevel s 2 (Docket.graph d) else cancelLevel s 1 (Docket.launch d)

/-! ### Creating units (R16, R50) -/

/-- Whether the docket store has space. -/
def storeRoom (s : State) : Bool := decide (s.dispatcher.store.length < storeCapacity)

/-- x2 to x9 of a unit without a parameter block (R28). -/
def argParams (d : List Word) : List Word := [d.getD 7 0, 0, 0, 0, 0, 0, 0, 0]

/-- A unit with its docket, to be enqueued. -/
def WorkUnit.make (uid : Nat) (docket params : List Word) (kind : DocketKind) (nsucc succ : Nat) : WorkUnit :=
  { uid := uid, docket := docket, params := params, kind := kind, nsucc := nsucc, succ := succ, prio := Docket.prio docket,
    seq := uid, dispatched := false, members := [], left := [], crewIds := [], home := [], cancelled := false, walk := none,
    joined := false, avoid := none }

/-- Does what the device does for a unit outside a command, or leaves it to be gone on with where an access must wait (R276,
R415). -/
def orWaits (s : State) (w : Creator) (f : State → State) : State :=
  let t := f s
  if t.balked then
    keepWalks { s with dispatcher := { s.dispatcher with waiting := s.dispatcher.waiting ++ [w] } } t
  else t

/-- Puts a unit that has its number into the docket store, at the tail of its queue. -/
def intoStore (s : State) (uid : Nat) : State :=
  bump { s with units := s.units.map fun q => if q.1 = uid then (uid, { q.2 with seq := s.stamp }) else q
                dispatcher := { s.dispatcher with store := s.dispatcher.store ++ [uid] } }

/-- Puts a unit into the docket store, at the tail of its queue. -/
def enqueue (s : State) (u : WorkUnit) : State :=
  bump { s with units := mapSet s.units s.stamp { u with uid := s.stamp, seq := s.stamp }
                dispatcher := { s.dispatcher with store := s.dispatcher.store ++ [s.stamp] } }

/-- Creates the unit of a docket: its levels' counters rise by 1 and it is enqueued (R16, R50). -/
def createUnit (s : State) (docket params : List Word) (nsucc succ : Nat) : State :=
  enqueue (addCounters s (docketLevels docket) 1) (.make 0 docket params .fresh nsucc succ)

end Sys2Proof.Machine
end

