-- ==== Sys2Proof/WellFormed.lean ====
section
/-!
DEFINITION. What a well-formed instruction is: the checks that R97 makes on a stream word from its bits alone (registers
R91, last-use bits R92, guards R93, types R94, modifiers R95, fields an instruction does not use R8), the checks of R37 on a
command record, and the field values that a Mill word may hold (R295, R304 to R323). A check that fails is named.
-/
namespace Sys2Proof

/-- Why a word, a command record or a Mill word is not an instruction. -/
inductive Reject where
  /-- the major opcode is reserved (R96) -/
  | reservedMajor
  /-- the minor opcode is reserved (R96) -/
  | reservedMinor
  /-- a reserved field, or one the instruction does not use, is non-zero (R97) -/
  | reservedField
  /-- a register field lies outside its kind's range, or p0 is a destination (R91) -/
  | badRegister
  /-- a last-use bit stands on a field that is not read (R92) -/
  | badLastUse
  /-- PRED is 12 to 15, or p0 is negated, or the form takes no guard (R93) -/
  | badGuard
  /-- TYPE holds a code that the form does not list (R94) -/
  | badType
  /-- MOD holds a modifier that the form does not accept (R95) -/
  | badModifier
  /-- ORD holds a code that the form does not accept (R144) -/
  | badOrder
  /-- the OPC of a command record is 0x00 or 0x09 to 0xFF (R37) -/
  | badOpcode
  /-- LVL of a CANCEL command is not 1 to 4 (Table 02.2) -/
  | badLevel
  /-- a field of a Mill word holds a value outside its range (R295) -/
  | millValue
  /-- the bytes are fewer than the instruction needs -/
  | tooShort
deriving DecidableEq, Repr

namespace WellFormed

/-- What a register field of format A names (R91). -/
inductive Kind where
  | none | x | v | p | d | t | sem
deriving DecidableEq, Repr

/-- The range check of a register field whose last-use bit is `l` (R91, R92). A tile register is never freed (R183). -/
def source (k : Kind) (r : BitVec 6) (l : Bool) : Option Reject :=
  match k with
  | .none => if r != 0 then some .reservedField else if l then some .badLastUse else none
  | .x => none
  | .v => if r.toNat < 32 then none else some .badRegister
  | .p => if r.toNat < 12 then none else some .badRegister
  | .d => if r.toNat < 12 && r != 0 then none else some .badRegister
  | .t => if r.toNat < 16 then (if l then some .badLastUse else none) else some .badRegister
  | .sem => none

/-- A guard field (R93): PRED 12 to 15, or the negation of p0, is no guard; a form without guards takes zero. -/
def guard (guarded : Bool) (pred : BitVec 4) (pn : Bool) : Option Reject :=
  if guarded then
    if pred.toNat < 12 && !(pred = 0 && pn) then none else some .badGuard
  else if pred = 0 && !pn then none else some .badGuard

/-- Which type codes a form accepts, bit c for code c (Table 04.6). -/
abbrev Types := BitVec 16
/-- TYPE 0x0 only. -/
def t0 : Types := 0x0001
/-- INT: I8, I16, I32, UI8, UI16, UI32 (R184). -/
def tInt : Types := 0x01DC
/-- FLT: FP32, FP16, BF16 (R184). -/
def tFlt : Types := 0x0E00
/-- INT and FLT. -/
def tIntFlt : Types := 0x0FDC
/-- The types of VNEG: I8, I16, I32 and FLT. -/
def tNeg : Types := 0x0E1C
/-- W16: the 16-bit and 32-bit types of Table 07.1. -/
def tW16 : Types := 0x0F98
/-- ANY: every code but 0x0. -/
def tAny : Types := 0xFFFE
/-- The types of VWMUL. -/
def tWmul : Types := 0x0CEE
/-- The types of VDOT. -/
def tDot : Types := 0x3C66
/-- The types of VQNT and VDEQ. -/
def tQuant : Types := 0x7022
/-- The types of PCNT and PFIRST. -/
def tPcnt : Types := 0x0311
/-- FP32 only. -/
def tF32 : Types := 0x0200
/-- The types of the integer atomics: I64, I32, UI32 (Table 12.6). -/
def tAtom : Types := 0x0111

/-- Which modifiers a form accepts (the MOD column of Table 07.2, Table 06.7, R347, R349). -/
inductive Mods where
  /-- none at all -/
  | none
  /-- MOD<0> only: QPUSH -/
  | low
  /-- .z -/
  | z
  /-- rounding where TYPE is FLT (and the argument says so), .sat where it is INT, .z -/
  | arith (rounds : Bool)
  /-- rounding, .sat, .z -/
  | rsz
  /-- rounding, .z -/
  | rz
  /-- rounding, .z, and .sat for the .add of an INT type -/
  | reduce (add : Bool)
  /-- rounding where TYPE is FLT, .o -/
  | scatadd
  /-- a fence's ordering code 2 to 5 -/
  | fence
  /-- an atomic's ordering code 1 to 5 and .nr -/
  | atomic
  /-- an atomic's ordering code 1 to 5, without .nr -/
  | atomicRet
deriving DecidableEq, Repr

/-- MOD checked against what the form accepts (R95). -/
def modOk (m : Mods) (ty : BitVec 4) (rd : BitVec 6) (mod : BitVec 6) : Bool :=
  let r := mod.extractLsb' 3 3
  let sat := mod.getLsbD 2
  let z := mod.getLsbD 1
  let b := mod.getLsbD 0
  let flt := tFlt.getLsbD ty.toNat
  match m with
  | .none => mod = 0
  | .low => r = 0 && !sat && !z
  | .z => r = 0 && !sat && !b
  | .arith rounds => (r = 0 || (rounds && flt && r.toNat ≤ 5)) && !(sat && flt) && !b
  | .rsz => r.toNat ≤ 5 && !b
  | .rz => r.toNat ≤ 5 && !sat && !b
  | .reduce add => r.toNat ≤ 5 && !(sat && !(add && !flt)) && !b
  | .scatadd => (r = 0 || (flt && r.toNat ≤ 5)) && !sat && !z
  | .fence => 2 ≤ r.toNat && r.toNat ≤ 5 && !sat && !z && !b
  | .atomic => 1 ≤ r.toNat && r.toNat ≤ 5 && !sat && !z && !(b && (rd != 0 || !(r = 1 || r = 3)))
  | .atomicRet => 1 ≤ r.toNat && r.toNat ≤ 5 && !sat && !z && !b

/-- The checks of a format A word: its register fields, its TYPE, its MOD and its guard. -/
def fmtA (rd ra rb rc : Kind) (types : Types) (m : Mods) (guarded : Bool) (o : FmtA) : Option Reject :=
  source rd o.rd false <|> source ra o.ra o.la <|> source rb o.rb o.lb <|> source rc o.rc o.lc
    <|> (if types.getLsbD o.ty.toNat then none else some .badType)
    <|> (if modOk m o.ty o.rd o.mod then none else some .badModifier)
    <|> guard guarded o.pred o.pn

/-- A minor field below `n`. -/
def minorBelow (k : BitVec 5) (n : Nat) : Option Reject := if k.toNat < n then none else some .reservedMinor

/-- The checks of a format I word; `used` marks the bits of IMM that the instruction uses. -/
def fmtI (rd ra : Kind) (used : BitVec 30) (guarded : Bool) (o : FmtI) : Option Reject :=
  source rd o.rd false <|> source ra o.ra o.la
    <|> (if o.imm &&& ~~~used = 0 then none else some .reservedField) <|> guard guarded o.pred false

/-- PSET (R210): a predicate destination, no guard, and either an immediate count or a register count. -/
def psetOk (o : FmtI) : Option Reject :=
  let n := (o.imm.extractLsb' 0 9).toNat
  source .d o.rd false <|> guard false o.pred false
    <|> (if o.imm.extractLsb' 10 19 = 0 then none else some .reservedField)
    <|> (if o.imm.getLsbD 29 then (if n = 0 then none else some .reservedField)
         else source .none o.ra o.la <|> (if n ≤ (if o.imm.getLsbD 9 then 128 else 256) then none else some .reservedField))

/-- The checks of a branch word: what RA names and whether OFF is used (Table 05.4). -/
def fmtB (ra : Kind) (off : Bool) (o : FmtB) : Option Reject :=
  source ra o.ra o.la <|> (if off || o.off = 0 then none else some .reservedField)

/-- What the data field of a format M word is. -/
inductive MemKind where
  | load | store | vload | vstore
deriving DecidableEq, Repr

/-- The checks of a format M word: `ords` marks the accepted ORD codes, `tile` says that RA names a tile register. -/
def fmtM (k : MemKind) (tile : Bool) (ords : BitVec 8) (o : FmtM) : Option Reject :=
  (match k with
    | .load => if o.ld then some .badLastUse else none
    | .store => none
    | .vload => source .v o.rd false <|> (if o.ld then some .badLastUse else none)
    | .vstore => source .v o.rd o.ld)
    <|> (if tile then source .t o.ra o.la else none)
    <|> (if ords.getLsbD o.ord.toNat then none else some .badOrder)
    <|> guard true o.pred o.pn

/-- The checks of a format C word (R90): `used` marks the bits of CIMM that the form uses. -/
def fmtC (ra rb : Bool) (used : BitVec 14) (o : FmtC) : Option Reject :=
  source (if ra then .x else .none) o.ra o.la <|> source (if rb then .x else .none) o.rb o.lb
    <|> (if o.wv || o.sw = 0 then none else some .reservedField)
    <|> (if o.sv || o.ss = 0 then none else some .reservedField)
    <|> (if o.cimm &&& ~~~used = 0 then none else some .reservedField)

/-- The width in bits of a type code (Table 04.6). -/
def typeWidth (ty : BitVec 4) : Nat :=
  match ty.toNat with
  | 0 => 64
  | 1 | 5 | 14 => 4
  | 2 | 6 | 12 | 13 | 15 => 8
  | 3 | 7 | 10 | 11 => 16
  | _ => 32

/-- The legal pairs of VCVT (R192): source `s`, destination `d`. E8M0 with E8M0, which one bullet of R192 allows and another
does not, is none (DESIGN CHOICE, log 79). -/
def vcvtPair (s d : BitVec 4) : Bool :=
  let ws := typeWidth s
  let wd := typeWidth d
  s != 0 && d != 0 && ws ≤ 4 * wd && wd ≤ 4 * ws
    && !(s = 15 && !tFlt.getLsbD d.toNat) && !(d = 15 && !tFlt.getLsbD s.toNat)

/-- The pairs and parts of NCVT (Table 11.9): source `s`, destination `d`. -/
def ncvtPair (s d : BitVec 4) (part : BitVec 3) : Bool :=
  match s.toNat, d.toNat with
  | 11, 9 | 10, 9 | 9, 11 | 9, 10 | 3, 9 | 7, 9 => part.toNat ≤ 1
  | 1, 9 | 5, 9 => true
  | 2, 9 | 6, 9 => part.toNat ≤ 3
  | 4, 9 | 9, 4 => part = 0
  | _, _ => false

/-- The rows that a CSRW word falls into by its CSR number. -/
inductive CsrwRow where
  | plain | tdef | fflags | frm | srctr | strict | mflags | msh | fevbase | trqbase | shockst | trqhead | fevhead
deriving DecidableEq, Repr

/-- The row of a CSRW (the CSR numbers of Tables 05.1, 06.6, 08.4, 09.5, 10.2, 13.7, 14.4 and 15.5). -/
def csrwRow (imm : BitVec 30) : CsrwRow :=
  match (imm.extractLsb' 0 12).toNat with
  | 0x001 => .fflags
  | 0x002 => .frm
  | 0x005 => .srctr
  | 0x006 => .mflags
  | 0x011 => .strict
  | 0x060 => .msh
  | 0x072 => .fevbase
  | 0x074 => .fevhead
  | 0x080 => .trqbase
  | 0x082 => .trqhead
  | 0x094 => .shockst
  | n => if 0x040 ≤ n && n ≤ 0x04F then .tdef else .plain

/-- A Mill word whose field values break the named range. -/
def millIf (bad : Bool) : Option Reject := if bad then some .millValue else none

/-- The JOB field of an identifier word (Table 01.2). -/
def idJob : Word := 0x00000F0000000000
/-- The PV and PHASE fields. -/
def idPhase : Word := 0x0000007F00000000
/-- The GV and GRAPH fields. -/
def idGraph : Word := 0x0000000003FF0000
/-- The LAUNCH field. -/
def idLaunch : Word := 0x0000000000000FFF

/-- IDS holds no bit outside the fields that the command uses (R37). -/
def idsWithin (c : Cmd) (used : Word) : Option Reject :=
  if c.ids &&& ~~~used = 0 then none else some .reservedField

/-- The identifier fields that LVL selects for CANCEL (Table 02.3). -/
def cancelIds (lvl : BitVec 3) : Option Word :=
  match lvl.toNat with
  | 1 => some (idJob ||| idLaunch)
  | 2 => some (idJob ||| idGraph)
  | 3 => some (idJob ||| idPhase)
  | 4 => some idJob
  | _ => none

/-- Every field of a command record that its opcode does not use is zero (R37). AM and PG go together. -/
def cmdUses (c : Cmd) (lvl am addr0 cnt astep addr1 addr2 : Bool) : Option Reject :=
  if (lvl || c.lvl = 0) && (am || (!c.am && !c.pg)) && (addr0 || c.addr0 = 0) && (cnt || c.cnt = 0)
    && (astep || c.astep = 0) && (addr1 || c.addr1 = 0) && (addr2 || c.addr2 = 0)
  then none else some .reservedField

end WellFormed

open WellFormed in
/-- The first check of R97, of R37 or of the Mill's words that an instruction fails, by name. A last-use bit of SEMSIG with RA 0
and of MSEMSIG with RB 0 passes, as on any x0 (R92; DESIGN CHOICE, log 79). -/
def Instr.illFormed : Instr → Option Reject
  | .jobopen c => cmdUses c false false true false false false false <|> idsWithin c (idJob)
  | .jobend c => cmdUses c false false false false false false false <|> idsWithin c (idJob)
  | .phaseopen c => cmdUses c false false false false false false false <|> idsWithin c (idJob ||| idPhase)
  | .phaseclose c => cmdUses c false false false false false false false <|> idsWithin c (idJob ||| idPhase)
  | .launch c => cmdUses c false true true true true true true <|> idsWithin c (idJob ||| idPhase ||| idLaunch)
  | .replay c => cmdUses c false false true true false false false <|> idsWithin c (idJob ||| idPhase ||| idGraph ||| idLaunch)
  | .gpatch c => cmdUses c false false true true false true true <|> idsWithin c (idJob)
  | .cancelCommand c => cmdUses c true false false false false false false <|> (match cancelIds c.lvl with | none => some .badLevel | some m => idsWithin c m)
  | .gpatchRelease => none
  | .cqtailWrite _ => none
  | .cqbaseWrite _ => none
  | .cpbaseWrite _ => none
  | .cpheadWrite _ => none
  | .enWrite _ => none
  | .errClear => none
  | .attreqWrite _ => none
  | .attestationReport => none
  | .registerWrite _ _ => none
  | .docketCreationResume => none
  | .dispatch _ => none
  | .docketPromotion _ => none
  | .gangReservation _ => none
  | .crewRetire _ => none
  | .instructionFetchReturn _ _ => none
  | .translationReturn _ _ => none
  | .loadDataArrive _ _ => none
  | .lateFaultDelivery _ => none
  | .signalTakeEffect _ _ => none
  | .msemwaitReread _ => none
  | .waitcReread _ => none
  | .cbSlotFree _ _ => none
  | .copyCmdStart _ => none
  | .copyCmdComplete _ => none
  | .gleanerFill _ => none
  | .mclaimGrant _ _ => none
  | .matrixCmdStart _ _ => none
  | .matrixCmdComplete _ _ => none
  | .bankQueueCmdStart _ => none
  | .millGrant _ => none
  | .bqcmdComplete _ _ => none
  | .millWatchdog _ => none
  | .wheelRevolution _ => none
  | .hostReservedService _ _ _ => none
  | .patrolScrub _ => none
  | .porterCmdStart _ => none
  | .porterCmdComplete _ _ => none
  | .fabricResponse _ => none
  | .fabricTimeout _ => none
  | .fabricRead _ => none
  | .fabricWrite _ => none
  | .fabricFadd _ => none
  | .fabricSignal _ => none
  | .fabricMwrite _ => none
  | .physicalLentAccess _ => none
  | .flitReceive _ _ => none
  | .slotTick => none
  | .frameStart => none
  | .combineWindowExpire _ => none
  | .leaseGrantMessage _ _ _ _ => none
  | .leaseGrantAnswer _ _ _ => none
  | .leaseGrantTimeout _ => none
  | .leaseRecallMessage _ _ _ => none
  | .leaseReleaseMessage _ _ => none
  | .leaseReleaseAnswer _ _ _ => none
  | .leaseRevokeMessage _ _ => none
  | .leaseDeadline _ => none
  | .tlbiComplete _ => none
  | .icinvComplete _ => none
  | .preemptComplete _ => none
  | .haltWake _ => none
  | .hardwareError _ _ => none
  | .droopDetect _ => none
  | .droopRecover _ => none
  | .holdEntry => none
  | .holdExit _ => none
  | .orderlyStop _ => none
  | .ngugrimRetrainStart => none
  | .ngugrimRetrainEnd => none
  | .ngugrimRetrainTimeout => none
  | .linkRetrainStart _ => none
  | .linkRetrainEnd _ => none
  | .linkDown _ => none
  | .shockEvent _ => none
  | .packageBoot _ => none
  | .wearUpdate _ _ _ => none
  | .nop o => fmtA .none .none .none .none t0 .none false o
  | .brk _ _ => none
  | .br o => fmtB .none true o
  | .brc o => fmtB .p true o
  | .jmp o => fmtB .x true o
  | .call o => fmtB .none true o
  | .ret o => fmtB .none false o
  | .brq o => fmtB .none true o
  | .loop o => (if o.last = 0 then some .reservedField else none)
  | .loopi o => (if o.last = 0 then some .reservedField else none)
  | .qpush o => fmtA .none .x .none .none t0 .low true o
  | .rvz o => fmtA .none .none .none .none t0 .none false o
  | .exit o => fmtA .none .none .none .none t0 .none false o
  | .spawn o => fmtA .x .x .none .none t0 .none true o
  | .joindec o => fmtA .x .x .none .none t0 .none true o
  | .waitc o => fmtA .x .x .x .none t0 .none false o
  | .cancel o => fmtA .x .x .x .none t0 .none true o
  | .add o => fmtA .x .x .x .none t0 .none true o
  | .sub o => fmtA .x .x .x .none t0 .none true o
  | .and o => fmtA .x .x .x .none t0 .none true o
  | .or o => fmtA .x .x .x .none t0 .none true o
  | .xor o => fmtA .x .x .x .none t0 .none true o
  | .andn o => fmtA .x .x .x .none t0 .none true o
  | .shl o => fmtA .x .x .x .none t0 .none true o
  | .shr o => fmtA .x .x .x .none t0 .none true o
  | .sra o => fmtA .x .x .x .none t0 .none true o
  | .rot o => fmtA .x .x .x .none t0 .none true o
  | .min o => fmtA .x .x .x .none t0 .none true o
  | .max o => fmtA .x .x .x .none t0 .none true o
  | .minz o => fmtA .x .x .x .none t0 .none true o
  | .maxz o => fmtA .x .x .x .none t0 .none true o
  | .sel o => fmtA .x .x .x .p t0 .none true o
  | .clz o => fmtA .x .x .none .none t0 .none true o
  | .ctz o => fmtA .x .x .none .none t0 .none true o
  | .popc o => fmtA .x .x .none .none t0 .none true o
  | .bswap o => fmtA .x .x .none .none t0 .none true o
  | .mul o => fmtA .x .x .x .none t0 .none true o
  | .mulh o => fmtA .x .x .x .none t0 .none true o
  | .mulhz o => fmtA .x .x .x .none t0 .none true o
  | .div o => fmtA .x .x .x .none t0 .none true o
  | .divz o => fmtA .x .x .x .none t0 .none true o
  | .rem o => fmtA .x .x .x .none t0 .none true o
  | .remz o => fmtA .x .x .x .none t0 .none true o
  | .cmp k o => minorBelow k 6 <|> fmtA .d .x .x .none t0 .none true o
  | .bfx o => fmtA .x .x .x .none t0 .none true o
  | .bfi o => fmtA .x .x .x .x t0 .none true o
  | .pfxh o => fmtA .x .x .x .x t0 .none true o
  | .addi o => fmtI .x .x 0x3FFFFFFF#30 true o
  | .andi o => fmtI .x .x 0x3FFFFFFF#30 true o
  | .ori o => fmtI .x .x 0x3FFFFFFF#30 true o
  | .li _ => none
  | .lih o => (if o.imm.extractLsb' 24 16 = 0 then none else some .reservedField)
  | .ldb o => fmtM .load false 0b00100111#8 o
  | .ldbz o => fmtM .load false 0b00100111#8 o
  | .ldh o => fmtM .load false 0b00100111#8 o
  | .ldhz o => fmtM .load false 0b00100111#8 o
  | .ldw o => fmtM .load false 0b00100111#8 o
  | .ldwz o => fmtM .load false 0b00100111#8 o
  | .ldd o => fmtM .load false 0b00100111#8 o
  | .stb o => fmtM .store false 0b00101011#8 o
  | .sth o => fmtM .store false 0b00101011#8 o
  | .stw o => fmtM .store false 0b00101011#8 o
  | .std o => fmtM .store false 0b00101011#8 o
  | .lds o => fmtM .load false 0b00000001#8 o
  | .chk o => fmtA .none .x .none .none t0 .none true o
  | .vld _ o => fmtM .vload true 0b00000001#8 o
  | .vst _ o => fmtM .vstore true 0b00000001#8 o
  | .vadd o => fmtA .v .v .v .none tIntFlt (.arith true) true o
  | .vsub o => fmtA .v .v .v .none tIntFlt (.arith true) true o
  | .vmul o => fmtA .v .v .v .none tIntFlt (.arith true) true o
  | .vmin o => fmtA .v .v .v .none tIntFlt .z true o
  | .vmax o => fmtA .v .v .v .none tIntFlt .z true o
  | .vabs o => fmtA .v .v .none .none tIntFlt (.arith false) true o
  | .vneg o => fmtA .v .v .none .none tNeg (.arith false) true o
  | .vabd o => fmtA .v .v .v .none tIntFlt (.arith true) true o
  | .vmulh o => fmtA .v .v .v .none tInt .z true o
  | .vfma o => fmtA .v .v .v .v tFlt .rsz true o
  | .vfms o => fmtA .v .v .v .v tFlt .rsz true o
  | .vfnma o => fmtA .v .v .v .v tFlt .rsz true o
  | .vfnms o => fmtA .v .v .v .v tFlt .rsz true o
  | .vand o => fmtA .v .v .v .none tAny .z true o
  | .vor o => fmtA .v .v .v .none tAny .z true o
  | .vxor o => fmtA .v .v .v .none tAny .z true o
  | .vandn o => fmtA .v .v .v .none tAny .z true o
  | .vnot o => fmtA .v .v .none .none tAny .z true o
  | .vshl o => fmtA .v .v .v .none tInt .z true o
  | .vshr o => fmtA .v .v .v .none tInt .z true o
  | .vsra o => fmtA .v .v .v .none tInt .z true o
  | .vrot o => fmtA .v .v .v .none tInt .z true o
  | .vcmp k o => minorBelow k 7 <|> (if k = 6 && !tFlt.getLsbD o.ty.toNat then some .badType else none) <|> fmtA .d .v .v .none tW16 .z true o
  | .vsel o => fmtA .v .v .v .p tAny .z true o
  | .vcvt k o => minorBelow k 16 <|> (if vcvtPair (k.setWidth 4) o.ty then none else some .badType) <|> fmtA .v .v .none .none tAny .rsz true o
  | .vwmul o => fmtA .v .v .v .none tWmul .rsz true o
  | .vdot o => fmtA .v .v .v .v tDot .rsz true o
  | .vred k o => minorBelow k 6 <|> fmtA .v .v .none .none (if k.toNat < 3 then tIntFlt else tInt) (.reduce (k = 0)) true o
  | .vredx k o => minorBelow k 2 <|> fmtA .v .v .none .none tIntFlt .z true o
  | .vscan k o => minorBelow k 3 <|> fmtA .v .v .none .none tIntFlt (.reduce (k = 0)) true o
  | .vperm o => fmtA .v .v .v .x t0 .z true o
  | .vshuf o => fmtA .v .v .v .x tW16 .z true o
  | .vbcast o => fmtA .v .v .x .x tAny .z true o
  | .vxlane o => fmtA .v .v .x .x tAny .z true o
  | .vgath o => fmtA .v .t .v .none tW16 .z true o
  | .vscat o => fmtA .none .t .v .v tW16 .none true o
  | .vscatadd o => fmtA .none .t .v .v tIntFlt .scatadd true o
  | .vgathq o => fmtA .v .t .none .none tW16 .z true o
  | .vqnt o => fmtA .v .v .v .none tQuant .rsz true o
  | .vdeq o => fmtA .v .v .v .none tQuant .rsz true o
  | .vmovsToVector o => fmtA .v .x .none .none tAny .z true o
  | .vmovsToScalar o => fmtA .x .v .x .none tAny .none true o
  | .vmovsDq o => fmtA .x .none .none .none t0 .none true o
  | .pand o => fmtA .d .p .p .none t0 .z true o
  | .por o => fmtA .d .p .p .none t0 .z true o
  | .pxor o => fmtA .d .p .p .none t0 .z true o
  | .pnot o => fmtA .d .p .none .none t0 .z true o
  | .pmov o => fmtA .d .p .none .none t0 .z true o
  | .pset o => psetOk o
  | .pcnt o => fmtA .x .p .none .none tPcnt .none true o
  | .pfirst o => fmtA .x .p .none .none tPcnt .none true o
  | .vrcpa o => fmtA .v .v .none .none tFlt .z true o
  | .vrsqa o => fmtA .v .v .none .none tFlt .z true o
  | .vsqrt o => fmtA .v .v .none .none tFlt .rz true o
  | .vexp2 o => fmtA .v .v .none .none tFlt .rsz true o
  | .vlog2 o => fmtA .v .v .none .none tFlt .rz true o
  | .vsint o => fmtA .v .v .none .none tF32 .rz true o
  | .vcost o => fmtA .v .v .none .none tF32 .rz true o
  | .vrng o => fmtA .v .x .x .x t0 .z true o
  | .tld o => fmtC true true 0xF#14 o
  | .tst o => fmtC true true 0xF#14 o
  | .tmov o => fmtC false false 0xFF#14 o
  | .tcopy2d o => fmtC true true 0xF#14 o
  | .clist o => fmtC true true 0xF#14 o
  | .trope o => fmtC true true 0xF#14 o
  | .cbinit o => fmtA .t .x .x .none t0 .none true o
  | .cbwait o => fmtA .x .t .none .none t0 .none true o
  | .cbdone o => fmtA .none .t .none .none t0 .none true o
  | .glcfg o => fmtC true true 0xF#14 o
  | .glgo o => fmtC true false 0#14 o
  | .mcfg o => fmtC true false 7#14 o
  | .mgo o => fmtC false false 3#14 o
  | .mclaim o => fmtC true false 0#14 o
  | .mrel o => fmtC false false 0#14 o
  | .mldo o => fmtC false false 0x3FF#14 o
  | .mret o => fmtC false false 0x3FF#14 o
  | .mcell o => fmtC true false 0x1F#14 o
  | .bqcmd o => fmtC true true 0#14 o
  | .bqload o => fmtC true true 0xFF#14 o
  | .winfence o => fmtC false false 0#14 o
  | .seminit o => fmtA .sem .x .none .none t0 .none true o
  | .semsig o => fmtA .sem .x .none .none t0 .none true o
  | .semwait o => fmtA .sem .none .none .none t0 .none true o
  | .msemsig o => fmtA .none .x .x .none t0 .none true o
  | .msemwait o => fmtA .none .x .none .none t0 .none true o
  | .fence o => fmtA .none .x .none .none t0 .fence true o
  | .fenceAll o => fmtA .none .none .none .none t0 .fence true o
  | .aadd o => fmtA .x .x .x .none tAtom .atomic true o
  | .amin o => fmtA .x .x .x .none tAtom .atomic true o
  | .amax o => fmtA .x .x .x .none tAtom .atomic true o
  | .aand o => fmtA .x .x .x .none tAtom .atomic true o
  | .aor o => fmtA .x .x .x .none tAtom .atomic true o
  | .axor o => fmtA .x .x .x .none tAtom .atomic true o
  | .aswp o => fmtA .x .x .x .none tAtom .atomicRet true o
  | .acas o => fmtA .x .x .x .x tAtom .atomicRet true o
  | .afadd o => fmtA .x .x .x .none tF32 .atomic true o
  | .fld o => fmtC true true 0x3F0F#14 o
  | .fst o => fmtC true true 0x3F0F#14 o
  | .fget o => fmtC true true 0x3F00#14 o
  | .fput o => fmtC true true 0x3F00#14 o
  | .ffadd o => fmtC true true 0x3F00#14 o
  | .fmcast o => fmtC true true 0x3F0F#14 o
  | .fsig o => fmtC true true 0x3F00#14 o
  | .leaseGrant o => (if o.cimm = 0 then none else some .reservedField) <|> fmtC true false 3#14 o
  | .leaseRecall o => (if o.cimm = 1 then none else some .reservedField) <|> fmtC true false 3#14 o
  | .leaseRelease o => (if o.cimm = 2 then none else some .reservedField) <|> fmtC true false 3#14 o
  | .slotswLoad o => (if o.cimm = 0 then none else some .reservedField) <|> fmtC true false 1#14 o
  | .slotswSwitch o => (if o.cimm = 1 then none else some .reservedField) <|> fmtC true false 1#14 o
  | .trap o => fmtI .none .none 0xFF#30 true o
  | .eret o => fmtA .x .x .x .none t0 .none false o
  | .halt o => fmtA .none .none .none .none t0 .none false o
  | .csrr o => fmtI .x .none 0xFFF#30 true o
  | .csrw o => (if csrwRow o.imm = .plain then none else some .reservedField) <|> fmtI .none .x 0xFFF#30 true o
  | .csrwTdef o => (if csrwRow o.imm = .tdef then none else some .reservedField) <|> fmtI .none .x 0xFFF#30 true o
  | .csrwFflags o => (if csrwRow o.imm = .fflags then none else some .reservedField) <|> fmtI .none .x 0xFFF#30 true o
  | .csrwFrm o => (if csrwRow o.imm = .frm then none else some .reservedField) <|> fmtI .none .x 0xFFF#30 true o
  | .csrwSrctr o => (if csrwRow o.imm = .srctr then none else some .reservedField) <|> fmtI .none .x 0xFFF#30 true o
  | .csrwStrict o => (if csrwRow o.imm = .strict then none else some .reservedField) <|> fmtI .none .x 0xFFF#30 true o
  | .csrwMflags o => (if csrwRow o.imm = .mflags then none else some .reservedField) <|> fmtI .none .x 0xFFF#30 true o
  | .csrwMsh o => (if csrwRow o.imm = .msh then none else some .reservedField) <|> fmtI .none .x 0xFFF#30 true o
  | .csrwFevbase o => (if csrwRow o.imm = .fevbase then none else some .reservedField) <|> fmtI .none .x 0xFFF#30 true o
  | .csrwTrqbase o => (if csrwRow o.imm = .trqbase then none else some .reservedField) <|> fmtI .none .x 0xFFF#30 true o
  | .csrwShockst o => (if csrwRow o.imm = .shockst then none else some .reservedField) <|> fmtI .none .x 0xFFF#30 true o
  | .tlbi o => fmtA .x .x .x .none t0 .none false o
  | .icinv o => fmtA .x .x .x .none t0 .none false o
  | .ctxsSnap o => fmtA .x .x .x .none t0 .none false o
  | .ctxsOut o => fmtA .x .x .x .none t0 .none false o
  | .ctxlInto o => fmtA .x .x .x .none t0 .none false o
  | .ctxlResume o => fmtA .x .x .x .none t0 .none false o
  | .splog o => fmtA .x .x .x .none t0 .none false o
  | .nldVector _ _ _ _ => none
  | .nldScalar _ _ _ => none
  | .nstVector _ _ _ _ => none
  | .nstScalar _ _ _ => none
  | .nldk _ _ _ _ _ => none
  | .npb _ => none
  | .npbWf _ => none
  | .npbSet _ _ => none
  | .nliScalar _ _ => none
  | .nliShift _ _ => none
  | .nliVector _ _ _ => none
  | .nliFromMx _ _ _ => none
  | .naddi _ _ _ => none
  | .nadd _ _ _ _ t c s => millIf (t = 3 || (!(c = 1) && s != 0))
  | .naddScalar _ _ _ t => millIf (t = 1 || t = 3)
  | .nsub _ _ _ _ t c s => millIf (t = 3 || (!(c = 1) && s != 0))
  | .nsubScalar _ _ _ t => millIf (t = 1 || t = 3)
  | .nmul _ _ _ _ t c s => millIf (t = 3 || (!(c = 1) && s != 0))
  | .nmulScalar _ _ _ t => millIf (t = 1 || t = 3)
  | .nfma _ _ _ _ c s => millIf (!(c = 1) && s != 0)
  | .nmax _ _ _ _ t c s => millIf (t = 3 || (!(c = 1) && s != 0))
  | .nmaxScalar _ _ _ t => millIf (t = 1 || t = 3)
  | .nmin _ _ _ _ t c s => millIf (t = 3 || (!(c = 1) && s != 0))
  | .nminScalar _ _ _ t => millIf (t = 1 || t = 3)
  | .nand _ _ _ _ t c s => millIf (t = 3 || (!(c = 1) && s != 0))
  | .nandScalar _ _ _ t => millIf (t = 1 || t = 3)
  | .nor _ _ _ _ t c s => millIf (t = 3 || (!(c = 1) && s != 0))
  | .norScalar _ _ _ t => millIf (t = 1 || t = 3)
  | .nxor _ _ _ _ t c s => millIf (t = 3 || (!(c = 1) && s != 0))
  | .nxorScalar _ _ _ t => millIf (t = 1 || t = 3)
  | .nshl _ _ _ _ t c s => millIf (t = 3 || t = 1 || (!(c = 1) && s != 0))
  | .nshlScalar _ _ _ t => millIf (t = 1 || t = 3)
  | .nshr _ _ _ _ t c s => millIf (t = 3 || t = 1 || (!(c = 1) && s != 0))
  | .nshrScalar _ _ _ t => millIf (t = 1 || t = 3)
  | .nperm _ _ _ _ => none
  | .ncvt _ _ _ p y z => millIf (!ncvtPair z y p)
  | .ncmp d _ _ _ t c s k => millIf (d = 0 || t = 3 || k = 7 || (k = 6 && t != 1) || (!(c = 1) && s != 0))
  | .nsel _ _ _ _ c s => millIf (!(c = 1) && s != 0)
  | .ndot _ _ _ _ _ q => millIf (q.toNat > 7)
  | .ndotBf16 _ _ _ _ _ => none
  | .nred _ _ _ t o => millIf (t = 3 || o.toNat > 5 || (o.toNat > 2 && t = 1))
  | .nredScalar _ _ _ t o => millIf (t = 3 || o.toNat > 5 || (o.toNat > 2 && t = 1))
  | .nexp2 _ _ _ => none
  | .nsmx _ _ _ _ => none
  | .ntrip d _ _ n => millIf (d.toNat + n.toNat + 1 > 16)
  | .nskip _ _ _ => none
  | .nidx _ _ _ _ => none
  | .nidxW d _ _ => millIf (d = 0)
  | .nloop _ l => millIf (l = 0)
  | .nbr _ => none
  | .nbrc _ _ _ => none
  | .nbrcMask _ _ _ => none
  | .nsems _ n => millIf (n = 0)
  | .nsemw _ => none
  | .nflag _ _ => none
  | .nend => none
  | .idleCount _ => none
  | .writePerformed _ _ => none
  | .bqloadComplete _ => none
  | .winfenceComplete _ => none
  | .wheelSlot _ => none
  | .csrwTrqhead o => (if csrwRow o.imm = .trqhead then none else some .reservedField) <|> fmtI .none .x 0xFFF#30 true o
  | .csrwFevhead o => (if csrwRow o.imm = .fevhead then none else some .reservedField) <|> fmtI .none .x 0xFFF#30 true o
  | .energyStoreDepleted => none
  | .reservedMajorWord _ => none
  | .reservedMillWord _ => none
  | .routerErrorRecovery => none

/-- An instruction that fails none of the checks. -/
def Instr.wellFormed (i : Instr) : Bool := i.illFormed.isNone

end Sys2Proof
end

