-- ==== Sys2Proof/Machine/Command.lean ====
section
/-!
DEFINITION. The commands of the control node (R36-R49, R452): the level commands, LAUNCH with its process groups and rank
block, REPLAY and the creation of graph nodes (R28-R30, R43, R44), GPATCH, CANCEL; and what follows when the docket store has
space again (R50).
-/
namespace Sys2Proof.Machine
open Sys2Proof.Config

/-! ### Identifier fields and the end of a command -/

def Cmd.job (c : Cmd) : Nat := bits c.ids 43 40
def Cmd.pv (c : Cmd) : Bool := c.ids.getLsbD 38
def Cmd.phase (c : Cmd) : Nat := bits c.ids 37 32
def Cmd.gv (c : Cmd) : Bool := c.ids.getLsbD 25
def Cmd.graph (c : Cmd) : Nat := bits c.ids 24 16
def Cmd.launch (c : Cmd) : Nat := bits c.ids 11 0

/-- The phase that IDS names, where PV is set. -/
def Cmd.phase? (c : Cmd) : Option Nat := if Cmd.pv c then some (Cmd.phase c) else none

/-- The status record of a command (Table 02.7). -/
def statusRecord (c : Cmd) (status addr count : Nat) : Word × Word :=
  (BitVec.ofNat 64 (2 ^ 56 + status * 2 ^ 48 + addr % 2 ^ 48), BitVec.ofNat 64 (count * 2 ^ 32 + c.tag.toNat))

/-- Ends a command: its status record is written, or waits for room in its ring, and CQHEAD moves past it (R36, R48). The
records of levels that the command itself ended come before it (DESIGN CHOICE, log 77: R48 orders levels only). -/
def endCommand (s : State) (c : Cmd) (status addr count : Nat) : State :=
  let r := statusRecord c status addr count
  flushEnded { s with port := { s.port with
    ended := s.port.ended ++ [(r.1, r.2, statusKey)], current := none, held := false } }

/-- Runs a command's body unless its record is malformed, which ends it with BADCMD (R37, R452). -/
def command (c : Cmd) (bad : Bool) (s : State) (body : State → State) : Out :=
  .next (if bad then endCommand s c 0x01 0 0 else body s)

/-- A level of the given kind is open to commands: ACTIVE or CANCELLING, not closed, and of the job (R39). -/
def openFor (s : State) (kind id job : Nat) : Bool :=
  let v := levelAt s kind id
  v.inUse && !v.closed && v.job == job && (v.state == .active || v.state == .cancelling)

/-- The job and, with PV set, the phase that a command names are open (R39). -/
def namesOpen (s : State) (c : Cmd) : Bool :=
  openFor s 4 (Cmd.job c) (Cmd.job c) && (!Cmd.pv c || openFor s 3 (Cmd.phase c) (Cmd.job c))

/-! ### Level commands (Table 02.3) -/

/-- Nothing that the device keeps of an earlier job with a number serves the job that opens now: translations, pointer entries
(R74), instruction lines (log 77), race records, intervals and guard entries (R338, R341). -/
def forgetJob (s : State) (job : Nat) : State :=
  { s with
    tlb := s.tlb.filter (·.job != job)
    pointers := s.pointers.filter fun q => q.1 / 2 ^ 50 != job
    cores := s.cores.map fun q => (q.1, { q.2 with tlb := q.2.tlb.filter (·.job != job)
                                                   icache := q.2.icache.filter (·.job != job)
                                                   races := q.2.races.filter (·.job != job) })
    intervals := s.intervals.filter fun e => e.1 / 512 != job
    guards := s.guards.filter fun e => e.1 / 512 != job
    lent := s.lent.filter fun a => a.cmd.isSome || a.job != job }

/-- JOBOPEN (R39). -/
def execJobopen (c : Cmd) (s : State) : Out :=
  command c ((Instr.jobopen c).illFormed.isSome || c.addr0.toNat % 4096 != 0) s fun s =>
    if (levelAt s 4 (Cmd.job c)).inUse then endCommand s c 0x02 0 0
    else
      endCommand (forgetJob (openLevel s 4 (Cmd.job c) (Cmd.job c) none c.addr0.toNat) (Cmd.job c)) c 0 0 0

/-- JOBEND (R39). -/
def execJobend (c : Cmd) (s : State) : Out :=
  command c (Instr.jobend c).illFormed.isSome s fun s =>
    if openFor s 4 (Cmd.job c) (Cmd.job c) then endCommand (closeLevel s 4 (Cmd.job c)) c 0 0 0
    else endCommand s c 0x03 0 0

/-- PHASEOPEN (R39): PV must be 1. -/
def execPhaseopen (c : Cmd) (s : State) : Out :=
  command c ((Instr.phaseopen c).illFormed.isSome || !Cmd.pv c) s fun s =>
    if !openFor s 4 (Cmd.job c) (Cmd.job c) then endCommand s c 0x03 0 0
    else if (levelAt s 3 (Cmd.phase c)).inUse then endCommand s c 0x02 0 0
    else endCommand (openLevel s 3 (Cmd.phase c) (Cmd.job c) none 0) c 0 0 0

/-- PHASECLOSE (R39). -/
def execPhaseclose (c : Cmd) (s : State) : Out :=
  command c ((Instr.phaseclose c).illFormed.isSome || !Cmd.pv c) s fun s =>
    if namesOpen s c then endCommand (closeLevel s 3 (Cmd.phase c)) c 0 0 0 else endCommand s c 0x03 0 0

/-- The identifier that LVL selects from an identifier word. -/
def levelId (kind : Nat) (ids : Word) : Nat :=
  match kind with
  | 1 => bits ids 11 0
  | 2 => bits ids 24 16
  | 3 => bits ids 37 32
  | _ => bits ids 43 40

/-- CANCEL, the command (R39, R413): a level that is not ACTIVE, or is another job's, is left as it is, with OK. -/
def execCancelCommand (c : Cmd) (s : State) : Out :=
  command c (Instr.cancelCommand c).illFormed.isSome s fun s =>
    let id := levelId c.lvl.toNat c.ids
    let s := if (levelAt s c.lvl.toNat id).job = Cmd.job c then cancelLevel s c.lvl.toNat id else s
    endCommand s c 0 0 0

/-! ### LAUNCH (R40-R42) -/

/-- What a process group gives a package: rank, size, extents, first unit and number of units (R41). -/
structure Share where
  rank : Nat
  size : Nat
  d0 : Nat
  d1 : Nat
  d2 : Nat
  first : Nat
  num : Nat
deriving DecidableEq, Repr

/-- The share of a package without a process group (R41). -/
def wholeShare (count : Nat) : Share := { rank := 0, size := 1, d0 := 1, d1 := 1, d2 := 1, first := 0, num := count }

/-- The four-byte value at a position of a list of bytes. -/
def word32 (bs : List Byte) (i : Nat) : Nat := bytesValue ((bs.drop i).take 4)

/-- The share that a process-group table gives this package; none when the table is unusable (R41). -/
def shareOf (s : State) (head entries : List Byte) (count : Nat) : Option Share :=
  let size := word32 head 0
  let d0 := word32 head 8
  let d1 := word32 head 12
  let d2 := word32 head 16
  let me := bits s.pkg.node 18 0
  let ranks := (List.range size).filter fun k => word32 entries (4 * k) % 2 ^ 19 == me
  match ranks with
  | [k] =>
    let first := k * count / size
    if d0 * d1 * d2 = size then
      some { rank := k, size := size, d0 := d0, d1 := d1, d2 := d2, first := first, num := (k + 1) * count / size - first }
    else none
  | _ => none

/-- The process-group table at PGT: a fault, an unusable table, or the share (R41, R452). -/
def readShare (s : State) (c : Cmd) : Except (Option Word) Share × State :=
  if !c.pg then (.ok (wholeShare c.cnt.toNat), s)
  else
    match readVirtual s 0 (Cmd.job c) c.addr1.toNat 0x40 .dispatcher false with
    | (.error (_, a), s) => (.error (some a), s)
    | (.ok head, s) =>
      let size := word32 head 0
      if size = 0 ∨ size > 524288 then (.error none, s)
      else
        match readVirtual s 0 (Cmd.job c) (c.addr1.toNat + 0x40) (4 * size) .dispatcher false with
        | (.error (_, a), s) => (.error (some a), s)
        | (.ok entries, s) =>
          match shareOf s head entries c.cnt.toNat with
          | some sh => (.ok sh, s)
          | none => (.error none, s)

/-- The rank block (Table 02.5). -/
def rankBlock (h : Share) : List Byte :=
  let c0 := h.rank % h.d0
  let c1 := h.rank / h.d0 % h.d1
  let c2 := h.rank / (h.d0 * h.d1)
  let at_ (x y z : Nat) : Nat := x + h.d0 * (y + h.d1 * z)
  let dw (hi lo : Nat) : List Byte := valueBytes 4 lo ++ valueBytes 4 hi
  dw h.size h.rank ++ dw c1 c0 ++ dw 0 c2 ++
    dw (at_ ((c0 + 1) % h.d0) c1 c2) (at_ ((c0 + h.d0 - 1) % h.d0) c1 c2) ++
    dw (at_ c0 ((c1 + 1) % h.d1) c2) (at_ c0 ((c1 + h.d1 - 1) % h.d1) c2) ++
    dw (at_ c0 c1 ((c2 + 1) % h.d2)) (at_ c0 c1 ((c2 + h.d2 - 1) % h.d2)) ++ dw h.num h.first ++ dw 0 0

/-- A docket's identifiers replaced from IDS (R40). -/
def launchIds (c : Cmd) (d : List Word) : List Word :=
  let w := withBits (withBits (withBits (d.getD 4 0) 11 0 (Cmd.launch c)) 43 40 (Cmd.job c)) 38 32
    (bits c.ids 38 32)
  d.set 4 w

/-- Whether a docket of LAUNCH is malformed; GV 1 is malformed, and the launch itself need not be open yet (R20, R40). -/
def launchMalformed (s : State) (d : List Word) : Bool :=
  Docket.gv d || malformedNaming s ((docketLevels d).filter (·.1 != 1)) d

/-- The docket of unit i: the template with its ARG advanced, or the array's own (R40). -/
def launchDocket (s : State) (c : Cmd) (i : Nat) : Except Word (List Word) × State :=
  let a := if c.am then c.addr0.toNat + 64 * i else c.addr0.toNat
  match readVirtual s 0 (Cmd.job c) a 64 .dispatcher false with
  | (.error (_, f), s) => (.error f, s)
  | (.ok bs, s) =>
    let d := launchIds c (bytesWords 8 bs)
    (.ok (if c.am then d else d.set 7 (d.getD 7 0 + BitVec.ofNat 64 i * c.astep)), s)

/-- The end of a LAUNCH that has created its dockets: the launch is closed (R40), before the status record is written (DESIGN
CHOICE, log 77). -/
def endLaunch (s : State) (c : Cmd) (skipped first : Nat) : State :=
  let s := closeLevel s 1 (Cmd.launch c)
  if skipped = 0 then endCommand s c 0 0 0 else endCommand s c 0x05 first skipped

/-- Creates the units from index i on; fuel is their number. A launch that is no more ACTIVE creates none (R18). Each unit reads
the template again in replicate mode too, so a template that changes while the command runs gives its later units (DESIGN
CHOICE, log 77: R40 does not say when the template is read for a unit). A full store leaves the rest waiting (R50); a fault ends
the command with FAULT (R38); malformed dockets and refused additions are skipped and counted (R17, R40). -/
def launchUnits (s : State) (c : Cmd) (i skipped first : Nat) : Nat → State
  | 0 => endLaunch s c skipped first
  | fuel + 1 =>
    if (levelAt s 1 (Cmd.launch c)).state ≠ .active then launchUnits s c (i + 1) skipped first fuel
    else if !storeRoom s then
      { s with dispatcher := { s.dispatcher with waiting := s.dispatcher.waiting ++ [.launch i (i + fuel + 1) skipped first] }
               port := { s.port with current := some c } }
    else
      match launchDocket s c i with
      | (.error f, s) => endCommand (closeLevel s 1 (Cmd.launch c)) c 0x06 f.toNat 0
      | (.ok d, s) =>
        let where_ := if c.am then c.addr0.toNat + 64 * i else c.addr0.toNat
        if launchMalformed s d || !countersFit s (docketLevels d) 1 then
          launchUnits s c (i + 1) (skipped + 1) (if skipped = 0 then where_ else first) fuel
        else launchUnits (createUnit s d (argParams d) 0 0) c (i + 1) skipped first fuel

/-- The levels that a command's units name beside its launch and graph. -/
def outerLevels (c : Cmd) : List (Nat × Nat) := (if Cmd.pv c then [(3, Cmd.phase c)] else []) ++ [(4, Cmd.job c)]

/-- Opens the launch, writes the rank block, and creates the units (R40, R42). -/
def startLaunch (s : State) (c : Cmd) (h : Share) : State :=
  let s := openLevel s 1 (Cmd.launch c) (Cmd.job c) (Cmd.phase? c) 0
  if c.addr2 = 0 then launchUnits s c h.first 0 0 h.num
  else
    match writeVirtual s 0 (Cmd.job c) c.addr2.toNat (rankBlock h) false with
    | (.error (_, f), s) => endCommand (closeLevel s 1 (Cmd.launch c)) c 0x06 f.toNat 0
    | (.ok _, s) => launchUnits s c h.first 0 0 h.num

/-- LAUNCH (R40-R42, R452). -/
def execLaunch (c : Cmd) (s : State) : Out :=
  command c ((Instr.launch c).illFormed.isSome || Cmd.gv c || c.cnt = 0 || c.addr2.toNat % 64 != 0 ||
      c.addr0.toNat % 64 != 0 || (c.pg && c.addr1.toNat % 64 != 0)) s fun s =>
    if !namesOpen s c then endCommand s c 0x03 0 0
    else if (levelAt s 1 (Cmd.launch c)).inUse then endCommand s c 0x02 0 0
    else
      match readShare s c with
      | (.error (some f), s) => endCommand s c 0x06 f.toNat 0
      | (r, s) =>
        let template := if c.am then (.ok [], s) else launchDocket s c 0
        match template with
        | (.error f, s) => endCommand s c 0x06 f.toNat 0
        | (.ok d, s) =>
          match r with
          | .error _ => endCommand s c 0x08 0 0
          | .ok h =>
            if !countersFit s (outerLevels c) h.num then endCommand s c 0x09 0 0
            else if !c.am && launchMalformed s d then endCommand s c 0x04 0 0
            else startLaunch s c h

/-! ### REPLAY and the nodes of a graph (R28-R30, R43, R44) -/

/-- The levels of a replay, its launch and graph first. -/
def replayLevels (graph : Nat) (r : Replay) : List (Nat × Nat) :=
  [(1, r.launch), (2, graph)] ++ (match r.phase with | some p => [(3, p)] | none => []) ++ [(4, r.job)]

/-- The reserved fields of a node record are zero, SUCC and PARAM are aligned (Table 01.4, R30). -/
def nodeWellFormed (r : List Word) : Bool :=
  bits (r.getD 9 0) 63 32 == 0 && bits (r.getD 10 0) 63 48 == 0 && bits (r.getD 10 0) 2 0 == 0 &&
  bits (r.getD 11 0) 63 48 == 0 && bits (r.getD 11 0) 5 0 == 0 &&
  ((r.drop 12).take 4).all (· == 0)

/-- The docket that a node's template forms (R28). -/
def nodeDocket (graph : Nat) (r : Replay) (addr : Nat) (template : List Word) : List Word :=
  let w := template.getD 4 0
  let w := withBits (withBits w 11 0 r.launch) 25 16 (512 + graph)
  let w := withBits (withBits w 38 32 r.phaseField) 43 40 r.job
  ((template.set 3 (withBits (template.getD 3 0) 47 0 addr)).set 4 w).set 5 (template.getD 5 0 ||| (1#64 <<< 40))

/-- The parameters of a node: its block, or ARG alone (R28). -/
def nodeParams (s : State) (job param : Nat) (d : List Word) : Except Word (List Word) × State :=
  if param = 0 then (.ok (argParams d), s)
  else
    match readVirtual s 0 job param 64 .dispatcher false with
    | (.error (_, f), s) => (.error f, s)
    | (.ok bs, s) => (.ok (bytesWords 8 bs), s)

/-- Creates the docket of the node at an address: a fault, or the state with the unit enqueued; a malformed node cancels its
graph (R28, R30, R44). When it is the last node, the launch is closed (R43). -/
def createNode (s : State) (graph : Nat) (r : Replay) (addr : Nat) : Except (Word × State) State :=
  match readVirtual s 0 r.job addr 128 .dispatcher false with
  | (.error (_, f), s) => .error (f, s)
  | (.ok bs, s) =>
    let rec_ := bytesWords 16 bs
    let d := nodeDocket graph r addr (rec_.take 8)
    if !nodeWellFormed rec_ || docketMalformed s d then .ok (cancelLevel s 2 graph)
    else
      match nodeParams s r.job (bits (rec_.getD 11 0) 47 0) d with
      | (.error f, s) => .error (f, s)
      | (.ok params, s) =>
        let s := enqueue s (.make 0 d params .fresh (bits (rec_.getD 9 0) 31 16) (bits (rec_.getD 10 0) 47 0))
        let r' := { r with created := r.created ++ [addr] }
        let s := { s with replays := mapSet s.replays graph r' }
        .ok (if r'.created.length ≥ r.ncnt then
          closeLevel { s with replays := mapErase s.replays graph } 1 r.launch else s)

/-- Ends a replay's command with FAULT: its graph and launch are cancelled (R38). -/
def faultReplay (s : State) (c : Cmd) (f : Word) : State :=
  endCommand (cancelLevel s 2 (Cmd.graph c)) c 0x06 f.toNat 0

/-- Step 2 of R29: creates the dockets of the nodes whose IN is 0, in ascending index from i; fuel is the number left. -/
def replayRoots (s : State) (c : Cmd) (i : Nat) : Nat → State
  | 0 => endCommand s c 0 0 0
  | fuel + 1 =>
    match mapGet s.replays (Cmd.graph c) with
    | none => endCommand s c 0 0 0
    | some r =>
      let addr := r.nodes + 128 * i
      match readVirtual s 0 r.job (addr + 0x48) 8 .dispatcher false with
      | (.error (_, f), s) => faultReplay s c f
      | (.ok bs, s) =>
        if bits (bytesWord bs) 15 0 ≠ 0 then replayRoots s c (i + 1) fuel
        else if !storeRoom s then
          { s with dispatcher := { s.dispatcher with waiting := s.dispatcher.waiting ++ [.replay i] }
                   port := { s.port with current := some c } }
        else
          match createNode s (Cmd.graph c) r addr with
          | .error (f, s) => faultReplay s c f
          | .ok s => replayRoots s c (i + 1) fuel

/-- Step 1 of R29: PEND := IN for every node, in ascending index from i. -/
def replayPends (s : State) (c : Cmd) (job nodes i : Nat) : Nat → Except Word Unit × State
  | 0 => (.ok (), s)
  | fuel + 1 =>
    let addr := nodes + 128 * i
    match readVirtual s 0 job (addr + 0x48) 8 .dispatcher false with
    | (.error (_, f), s) => (.error f, s)
    | (.ok bs, s) =>
      match writeVirtual s 0 job (addr + 0x40) (valueBytes 8 (bits (bytesWord bs) 15 0)) false with
      | (.error (_, f), s) => (.error f, s)
      | (.ok _, s) => replayPends s c job nodes (i + 1) fuel

/-- Whether a graph that was started from a node array is ACTIVE or CANCELLING (R43). NODES is a virtual address (R38), so the
same array is the same address of the same job (DESIGN CHOICE, log 77). -/
def nodesBusy (s : State) (job nodes : Nat) : Bool :=
  s.levels.any fun e =>
    e.1 / 65536 == 2 && e.2.job == job && e.2.root == nodes && (e.2.state == .active || e.2.state == .cancelling)

/-- REPLAY (R43, R452). A graph level keeps its node array's address in the field that a job uses for its root. -/
def execReplay (c : Cmd) (s : State) : Out :=
  command c ((Instr.replay c).illFormed.isSome || !Cmd.gv c || c.cnt = 0 || decide (c.cnt.toNat > 65536) ||
      c.addr0.toNat % 128 != 0) s fun s =>
    if !namesOpen s c then endCommand s c 0x03 0 0
    else if (levelAt s 1 (Cmd.launch c)).inUse || (levelAt s 2 (Cmd.graph c)).inUse then endCommand s c 0x02 0 0
    else if nodesBusy s (Cmd.job c) c.addr0.toNat then endCommand s c 0x07 0 0
    else if !countersFit s (outerLevels c) c.cnt.toNat then endCommand s c 0x09 0 0
    else
      let job := Cmd.job c
      let s := openLevel s 2 (Cmd.graph c) job (Cmd.phase? c) c.addr0.toNat
      let s := openLevel s 1 (Cmd.launch c) job (Cmd.phase? c) 0
      let s := putLevel s 2 (Cmd.graph c) { levelAt s 2 (Cmd.graph c) with partner := some (Cmd.launch c) }
      let s := putLevel s 1 (Cmd.launch c) { levelAt s 1 (Cmd.launch c) with partner := some (Cmd.graph c) }
      let r : Replay := { launch := Cmd.launch c, job := job, phase := Cmd.phase? c, phaseField := bits c.ids 38 32, nodes := c.addr0.toNat,
                          ncnt := c.cnt.toNat, created := [] }
      let s := { s with replays := mapSet s.replays (Cmd.graph c) r }
      let s := addCounters s (replayLevels (Cmd.graph c) r) r.ncnt
      let s := closeLevel s 2 (Cmd.graph c)
      match replayPends s c job r.nodes 0 r.ncnt with
      | (.error f, s) => faultReplay s c f
      | (.ok _, s) => replayRoots s c 0 r.ncnt

/-! ### GPATCH (R45) -/

/-- Whether an ACTIVE replay of a job from NODES has a node whose docket is not created (R45). -/
def replayHolds (s : State) (job nodes : Nat) : Bool :=
  s.replays.any fun e =>
    e.2.job == job && e.2.nodes == nodes && decide (e.2.created.length < e.2.ncnt) &&
      (levelAt s 2 e.1).state == .active

/-- The copy of a GPATCH in ascending 8-byte granules (R45); fuel is the granules. -/
def patchCopy (s : State) (c : Cmd) (i : Nat) : Nat → State
  | 0 => endCommand s c 0 0 0
  | fuel + 1 =>
    match readVirtual s 0 (Cmd.job c) (c.addr1.toNat + 8 * i) 8 .dispatcher false with
    | (.error (_, f), s) => endCommand s c 0x06 f.toNat 0
    | (.ok bs, s) =>
      match writeVirtual s 0 (Cmd.job c) (c.addr2.toNat + 8 * i) bs false with
      | (.error (_, f), s) => endCommand s c 0x06 f.toNat 0
      | (.ok _, s) => patchCopy s c (i + 1) fuel

/-- GPATCH (R45): held while a replay from NODES has uncreated nodes. -/
def execGpatch (c : Cmd) (s : State) : Out :=
  command c ((Instr.gpatch c).illFormed.isSome || c.cnt.toNat % 8 != 0 || decide (c.cnt.toNat < 8 ∨ c.cnt.toNat > 4096) ||
      c.addr1.toNat % 8 != 0 || c.addr2.toNat % 8 != 0) s fun s =>
    if !openFor s 4 (Cmd.job c) (Cmd.job c) then endCommand s c 0x03 0 0
    else if replayHolds s (Cmd.job c) c.addr0.toNat then { s with port := { s.port with current := some c, held := true } }
    else patchCopy s c 0 (c.cnt.toNat / 8)

/-- GPATCH_RELEASE (R45): the held GPATCH, which has not started, starts once no ACTIVE replay from NODES has an uncreated
node, as any command starts (R35, R36, R39). -/
def execGpatchRelease (s : State) : Out :=
  match s.port.current with
  | some c =>
    if s.port.held && !replayHolds s (Cmd.job c) c.addr0.toNat && s.port.en && !s.port.stopped && cpRoom s &&
        !s.port.retrain && memoryAwake s then
      .next (if openFor s 4 (Cmd.job c) (Cmd.job c) then
          patchCopy { s with port := { s.port with held := false } } c 0 (c.cnt.toNat / 8)
        else endCommand s c 0x03 0 0)
    else .next s
  | none => .next s

/-! ### The join action of a unit (R26, R29, R410) -/

/-- Steps 2 and 3 are done: the unit leaves its levels' counters and is forgotten (R410). -/
def closeUnit (s : State) (u : WorkUnit) : State :=
  subCounters { s with units := mapErase s.units u.uid } (docketLevels u.docket) 1

/-- Creates the successor that a walk has released (R29); a fault cancels the unit's innermost level (R67). A replay that has
ended creates no further node (R43). -/
def createSuccessor (s : State) (u : WorkUnit) (node : Nat) : State :=
  match mapGet s.replays (Docket.graph u.docket) with
  | none => s
  | some r =>
    match createNode s (Docket.graph u.docket) r node with
    | .ok s => s
    | .error (_, s) => cancelInnermost s u.docket

/-- The decrement of the PEND that entry i of a unit's SUCC array names: the entry and the PEND's old value, or a fault. A PEND
found 0 cancels the graph (R30); what it then holds is not said, and the model leaves it 0 (DESIGN CHOICE, log 77). An entry
that is not 8-byte aligned is a misaligned access of the device (DESIGN CHOICE, log 77: R29 does not say what the device does
with it). -/
def decrementPend (s : State) (u : WorkUnit) (i : Nat) : Except Unit (Nat × Word) × State :=
  match readVirtual s 0 (Docket.job u.docket) (u.succ + 8 * i) 8 .dispatcher false with
  | (.error _, s) => (.error (), s)
  | (.ok bs, s) =>
    let node := (bytesWord bs).toNat
    if node % 8 ≠ 0 then (.error (), s)
    else
      match atomicVirtual s 0 (Docket.job u.docket) (node + 0x40) u.uid .take with
      | (.error _, s) => (.error (), s)
      | (.ok v, s) => (.ok (node, v), s)

/-- The walk over a node's successors from index i: each PEND is decremented, one that goes from 1 to 0 is created, one found
0 cancels the graph (R29, R30). An entry that is not aligned is a fault on its access, and the walk goes on behind it (DESIGN
CHOICE, log 77). A successor to be created waits, with the rest of the walk, while the store is full (R50); a
fault cancels the innermost level (R67). -/
def walkSuccessors (s : State) (u : WorkUnit) (i : Nat) : Nat → State
  | 0 => closeUnit s u
  | fuel + 1 =>
    match decrementPend s u i with
    | (.error _, s) => walkSuccessors (cancelInnermost s u.docket) u (i + 1) fuel
    | (.ok (node, v), s) =>
      if v = 0 then walkSuccessors (cancelLevel s 2 (Docket.graph u.docket)) u (i + 1) fuel
      else if v ≠ 1 then walkSuccessors s u (i + 1) fuel
      else if storeRoom s then walkSuccessors (createSuccessor s u node) u (i + 1) fuel
      else
        { s with units := mapSet s.units u.uid { u with walk := some (i + 1) }
                 dispatcher := { s.dispatcher with waiting := s.dispatcher.waiting ++ [.join u.uid node] } }

/-- Steps 2 and 3 of R410 for a unit whose last member has retired; a cancelled unit skips step 2 (R18). -/
def retireUnit (s : State) (u : WorkUnit) : State :=
  if u.cancelled then closeUnit s u
  else
    let u := { u with joined := true }
    let s := { s with units := mapSet s.units u.uid u }
    if Docket.jn u.docket then walkSuccessors s u 0 u.nsucc
    else if Docket.join u.docket = 0 then closeUnit s u
    else
      match atomicVirtual s 0 (Docket.job u.docket) (Docket.join u.docket) u.uid .decrement with
      | (.error _, s) => closeUnit (cancelInnermost s u.docket) u
      | (.ok _, s) => closeUnit s u

end Sys2Proof.Machine
end

