-- ==== Sys2Proof/Decode.lean ====
section
/-!
DEFINITION. The decoder of the three kinds of words (the 64-bit stream words of Tables 04.1 to 04.8, the 32-bit Mill words
of Tables 11.2 and 11.3, the 64-byte command records of Table 02.2), total and rejecting by name; and the encoder of each
kind, written from the same tables. Two rows of the opcode table can share one word: CTXS and CTXL carry their mode in a
register, so their words decode to the row of mode 0 and the step picks the row by the register (Sys2Proof.Machine.resolve).

The decoder of the Mill words is marked noncomputable for one reason only: Lean's compiler limits how many constructors with
fields one inductive may have (245) and the table has more rows, so no machine code is made for it. It is a plain
structural definition, and Lean's kernel evaluates it.
-/
namespace Sys2Proof

/-- The value of bytes in little-endian order (R6). -/
def leValue : List Byte → Nat
  | [] => 0
  | b :: bs => b.toNat + 256 * leValue bs

/-- The first n bytes of a value in little-endian order (R6). -/
def leBytes : Nat → Nat → List Byte
  | 0, _ => []
  | n + 1, v => BitVec.ofNat 8 v :: leBytes n (v / 256)

/-! ### Fields of the formats (Tables 04.1 to 04.6a) -/

/-- The MAJOR field, bits 53-47 (R83). -/
def majorOf (w : Word) : BitVec 7 := w.extractLsb' 47 7
/-- The GAP field, bits 63-54 (R83). -/
def gapOf (w : Word) : BitVec 10 := w.extractLsb' 54 10
/-- The MINOR field of format A, bits 14-10 (Table 04.1). -/
def minorOfA (w : Word) : BitVec 5 := w.extractLsb' 10 5
/-- The MINOR field of format C, bits 18-14 (Table 04.6a). -/
def minorOfC (w : Word) : BitVec 5 := w.extractLsb' 14 5

/-- The fields of format A (Table 04.1). -/
def unpackA (w : Word) : FmtA :=
  { gap := gapOf w, rd := w.extractLsb' 41 6, ra := w.extractLsb' 35 6, la := w.getLsbD 34, rb := w.extractLsb' 28 6,
    lb := w.getLsbD 27, rc := w.extractLsb' 21 6, lc := w.getLsbD 20, pred := w.extractLsb' 16 4, pn := w.getLsbD 15,
    ty := w.extractLsb' 6 4, mod := w.extractLsb' 0 6 }

/-- The fields of format I (Table 04.2). -/
def unpackI (w : Word) : FmtI :=
  { gap := gapOf w, rd := w.extractLsb' 41 6, ra := w.extractLsb' 35 6, la := w.getLsbD 34, pred := w.extractLsb' 30 4,
    imm := w.extractLsb' 0 30 }

/-- The branch layout of format B (Table 04.3). -/
def unpackB (w : Word) : FmtB :=
  { gap := gapOf w, ra := w.extractLsb' 41 6, la := w.getLsbD 40, off := w.extractLsb' 0 40 }

/-- The loop layout of format B for LOOP (Table 04.3). -/
def unpackLoop (w : Word) : FmtLoop :=
  { gap := gapOf w, ra := w.extractLsb' 41 6, la := w.getLsbD 40, last := w.extractLsb' 0 24 }

/-- The loop layout of format B for LOOPI (Table 04.3). -/
def unpackLoopI (w : Word) : FmtLoopI :=
  { gap := gapOf w, count := w.extractLsb' 24 23, last := w.extractLsb' 0 24 }

/-- The fields of format L (Table 04.4). -/
def unpackL (w : Word) : FmtL := { gap := gapOf w, rd := w.extractLsb' 41 6, imm := w.extractLsb' 0 40 }

/-- The fields of format M (Table 04.5). -/
def unpackM (w : Word) : FmtM :=
  { gap := gapOf w, rd := w.extractLsb' 41 6, ld := w.getLsbD 40, ra := w.extractLsb' 34 6, la := w.getLsbD 33,
    off := w.extractLsb' 11 22, ord := w.extractLsb' 5 3, pred := w.extractLsb' 1 4, pn := w.getLsbD 0 }

/-- The fields of format C (Table 04.6a). -/
def unpackC (w : Word) : FmtC :=
  { gap := gapOf w, ra := w.extractLsb' 41 6, la := w.getLsbD 40, rb := w.extractLsb' 34 6, lb := w.getLsbD 33,
    sw := w.extractLsb' 27 6, wv := w.getLsbD 26, ss := w.extractLsb' 20 6, sv := w.getLsbD 19,
    cimm := w.extractLsb' 0 14 }

/-- One bit as a bit vector. -/
def bit1 (b : Bool) : BitVec 1 := BitVec.ofBool b

/-- A format A word (Table 04.1). -/
def packA (major : BitVec 7) (minor : BitVec 5) (o : FmtA) : Word :=
  o.gap ++ major ++ o.rd ++ o.ra ++ bit1 o.la ++ o.rb ++ bit1 o.lb ++ o.rc ++ bit1 o.lc ++ o.pred ++ bit1 o.pn ++ minor
    ++ o.ty ++ o.mod
/-- A format I word (Table 04.2). -/
def packI (major : BitVec 7) (o : FmtI) : Word :=
  o.gap ++ major ++ o.rd ++ o.ra ++ bit1 o.la ++ o.pred ++ o.imm
/-- A branch word (Table 04.3). -/
def packB (major : BitVec 7) (o : FmtB) : Word := o.gap ++ major ++ o.ra ++ bit1 o.la ++ o.off
/-- A LOOP word (Table 04.3). -/
def packLoop (o : FmtLoop) : Word := o.gap ++ 0x07#7 ++ o.ra ++ bit1 o.la ++ 0#16 ++ o.last
/-- A LOOPI word (Table 04.3). -/
def packLoopI (o : FmtLoopI) : Word := o.gap ++ 0x08#7 ++ o.count ++ o.last
/-- A format L word (Table 04.4). -/
def packL (major : BitVec 7) (o : FmtL) : Word := o.gap ++ major ++ o.rd ++ 0#1 ++ o.imm
/-- A format M word (Table 04.5). -/
def packM (major : BitVec 7) (sz : BitVec 2) (zx : Bool) (o : FmtM) : Word :=
  o.gap ++ major ++ o.rd ++ bit1 o.ld ++ o.ra ++ bit1 o.la ++ o.off ++ sz ++ bit1 zx ++ o.ord ++ o.pred ++ bit1 o.pn
/-- A format C word (Table 04.6a). -/
def packC (major : BitVec 7) (minor : BitVec 5) (o : FmtC) : Word :=
  o.gap ++ major ++ o.ra ++ bit1 o.la ++ o.rb ++ bit1 o.lb ++ o.sw ++ bit1 o.wv ++ o.ss ++ bit1 o.sv ++ minor ++ o.cimm

/-! ### The opcode map of the stream words (Table 04.8) -/

/-- The minors of MAJOR 0x01 (Table 04.8). -/
def minorA01 (o : FmtA) (minor : Nat) : Except Reject Instr :=
  match minor with
  | 0 => .ok (.nop o)
  | _ => .error .reservedMinor

/-- The minors of MAJOR 0x0A (Table 04.8). -/
def minorA0A (o : FmtA) (minor : Nat) : Except Reject Instr :=
  match minor with
  | 0 => .ok (.qpush o)
  | 1 => .ok (.rvz o)
  | 2 => .ok (.exit o)
  | 3 => .ok (.spawn o)
  | 4 => .ok (.joindec o)
  | 5 => .ok (.waitc o)
  | 6 => .ok (.cancel o)
  | _ => .error .reservedMinor

/-- The minors of MAJOR 0x10 (Table 04.8). -/
def minorA10 (o : FmtA) (minor : Nat) : Except Reject Instr :=
  match minor with
  | 0 => .ok (.add o)
  | 1 => .ok (.sub o)
  | 2 => .ok (.and o)
  | 3 => .ok (.or o)
  | 4 => .ok (.xor o)
  | 5 => .ok (.andn o)
  | 6 => .ok (.shl o)
  | 7 => .ok (.shr o)
  | 8 => .ok (.sra o)
  | 9 => .ok (.rot o)
  | 10 => .ok (.min o)
  | 11 => .ok (.max o)
  | 12 => .ok (.minz o)
  | 13 => .ok (.maxz o)
  | 14 => .ok (.sel o)
  | 15 => .ok (.clz o)
  | 16 => .ok (.ctz o)
  | 17 => .ok (.popc o)
  | 18 => .ok (.bswap o)
  | _ => .error .reservedMinor

/-- The minors of MAJOR 0x11 (Table 04.8). -/
def minorA11 (o : FmtA) (minor : Nat) : Except Reject Instr :=
  match minor with
  | 0 => .ok (.mul o)
  | 1 => .ok (.mulh o)
  | 2 => .ok (.mulhz o)
  | 3 => .ok (.div o)
  | 4 => .ok (.divz o)
  | 5 => .ok (.rem o)
  | 6 => .ok (.remz o)
  | _ => .error .reservedMinor

/-- The minors of MAJOR 0x13 (Table 04.8). -/
def minorA13 (o : FmtA) (minor : Nat) : Except Reject Instr :=
  match minor with
  | 0 => .ok (.bfx o)
  | 1 => .ok (.bfi o)
  | 2 => .ok (.pfxh o)
  | _ => .error .reservedMinor

/-- The minors of MAJOR 0x2B (Table 04.8). -/
def minorA2B (o : FmtA) (minor : Nat) : Except Reject Instr :=
  match minor with
  | 0 => .ok (.chk o)
  | _ => .error .reservedMinor

/-- The minors of MAJOR 0x32 (Table 04.8). -/
def minorA32 (o : FmtA) (minor : Nat) : Except Reject Instr :=
  match minor with
  | 0 => .ok (.vadd o)
  | 1 => .ok (.vsub o)
  | 2 => .ok (.vmul o)
  | 3 => .ok (.vmin o)
  | 4 => .ok (.vmax o)
  | 5 => .ok (.vabs o)
  | 6 => .ok (.vneg o)
  | 7 => .ok (.vabd o)
  | 8 => .ok (.vmulh o)
  | _ => .error .reservedMinor

/-- The minors of MAJOR 0x33 (Table 04.8). -/
def minorA33 (o : FmtA) (minor : Nat) : Except Reject Instr :=
  match minor with
  | 0 => .ok (.vfma o)
  | 1 => .ok (.vfms o)
  | 2 => .ok (.vfnma o)
  | 3 => .ok (.vfnms o)
  | _ => .error .reservedMinor

/-- The minors of MAJOR 0x34 (Table 04.8). -/
def minorA34 (o : FmtA) (minor : Nat) : Except Reject Instr :=
  match minor with
  | 0 => .ok (.vand o)
  | 1 => .ok (.vor o)
  | 2 => .ok (.vxor o)
  | 3 => .ok (.vandn o)
  | 4 => .ok (.vnot o)
  | 5 => .ok (.vshl o)
  | 6 => .ok (.vshr o)
  | 7 => .ok (.vsra o)
  | 8 => .ok (.vrot o)
  | _ => .error .reservedMinor

/-- The minors of MAJOR 0x36 (Table 04.8). -/
def minorA36 (o : FmtA) (minor : Nat) : Except Reject Instr :=
  match minor with
  | 0 => .ok (.vsel o)
  | _ => .error .reservedMinor

/-- The minors of MAJOR 0x38 (Table 04.8). -/
def minorA38 (o : FmtA) (minor : Nat) : Except Reject Instr :=
  match minor with
  | 0 => .ok (.vwmul o)
  | _ => .error .reservedMinor

/-- The minors of MAJOR 0x39 (Table 04.8). -/
def minorA39 (o : FmtA) (minor : Nat) : Except Reject Instr :=
  match minor with
  | 0 => .ok (.vdot o)
  | _ => .error .reservedMinor

/-- The minors of MAJOR 0x3D (Table 04.8). -/
def minorA3D (o : FmtA) (minor : Nat) : Except Reject Instr :=
  match minor with
  | 0 => .ok (.vperm o)
  | 1 => .ok (.vshuf o)
  | 2 => .ok (.vbcast o)
  | 3 => .ok (.vxlane o)
  | _ => .error .reservedMinor

/-- The minors of MAJOR 0x3E (Table 04.8). -/
def minorA3E (o : FmtA) (minor : Nat) : Except Reject Instr :=
  match minor with
  | 0 => .ok (.vgath o)
  | 1 => .ok (.vscat o)
  | 2 => .ok (.vscatadd o)
  | 3 => .ok (.vgathq o)
  | _ => .error .reservedMinor

/-- The minors of MAJOR 0x3F (Table 04.8). -/
def minorA3F (o : FmtA) (minor : Nat) : Except Reject Instr :=
  match minor with
  | 0 => .ok (.vqnt o)
  | 1 => .ok (.vdeq o)
  | _ => .error .reservedMinor

/-- The minors of MAJOR 0x40 (Table 04.8). -/
def minorA40 (o : FmtA) (minor : Nat) : Except Reject Instr :=
  match minor with
  | 0 => .ok (.vmovsToVector o)
  | 1 => .ok (.vmovsToScalar o)
  | 2 => .ok (.vmovsDq o)
  | _ => .error .reservedMinor

/-- The minors of MAJOR 0x50 (Table 04.8). -/
def minorA50 (o : FmtA) (minor : Nat) : Except Reject Instr :=
  match minor with
  | 0 => .ok (.pand o)
  | 1 => .ok (.por o)
  | 2 => .ok (.pxor o)
  | 3 => .ok (.pnot o)
  | 4 => .ok (.pmov o)
  | _ => .error .reservedMinor

/-- The minors of MAJOR 0x52 (Table 04.8). -/
def minorA52 (o : FmtA) (minor : Nat) : Except Reject Instr :=
  match minor with
  | 0 => .ok (.pcnt o)
  | 1 => .ok (.pfirst o)
  | _ => .error .reservedMinor

/-- The minors of MAJOR 0x58 (Table 04.8). -/
def minorA58 (o : FmtA) (minor : Nat) : Except Reject Instr :=
  match minor with
  | 0 => .ok (.vrcpa o)
  | 1 => .ok (.vrsqa o)
  | 2 => .ok (.vsqrt o)
  | 3 => .ok (.vexp2 o)
  | 4 => .ok (.vlog2 o)
  | 5 => .ok (.vsint o)
  | 6 => .ok (.vcost o)
  | _ => .error .reservedMinor

/-- The minors of MAJOR 0x59 (Table 04.8). -/
def minorA59 (o : FmtA) (minor : Nat) : Except Reject Instr :=
  match minor with
  | 0 => .ok (.vrng o)
  | _ => .error .reservedMinor

/-- The minors of MAJOR 0x5D (Table 04.8). -/
def minorA5D (o : FmtA) (minor : Nat) : Except Reject Instr :=
  match minor with
  | 0 => .ok (.cbinit o)
  | 1 => .ok (.cbwait o)
  | 2 => .ok (.cbdone o)
  | _ => .error .reservedMinor

/-- The minors of MAJOR 0x6A (Table 04.8). -/
def minorA6A (o : FmtA) (minor : Nat) : Except Reject Instr :=
  match minor with
  | 0 => .ok (.seminit o)
  | 1 => .ok (.semsig o)
  | 2 => .ok (.semwait o)
  | 3 => .ok (.msemsig o)
  | 4 => .ok (.msemwait o)
  | 5 => .ok (.fence o)
  | 6 => .ok (.fenceAll o)
  | _ => .error .reservedMinor

/-- The minors of MAJOR 0x6B (Table 04.8). -/
def minorA6B (o : FmtA) (minor : Nat) : Except Reject Instr :=
  match minor with
  | 0 => .ok (.aadd o)
  | 1 => .ok (.amin o)
  | 2 => .ok (.amax o)
  | 3 => .ok (.aand o)
  | 4 => .ok (.aor o)
  | 5 => .ok (.axor o)
  | 6 => .ok (.aswp o)
  | 7 => .ok (.acas o)
  | 8 => .ok (.afadd o)
  | _ => .error .reservedMinor

/-- The minors of MAJOR 0x77 (Table 04.8). -/
def minorA77 (o : FmtA) (minor : Nat) : Except Reject Instr :=
  match minor with
  | 0 => .ok (.eret o)
  | 1 => .ok (.halt o)
  | _ => .error .reservedMinor

/-- The minors of MAJOR 0x7A (Table 04.8). -/
def minorA7A (o : FmtA) (minor : Nat) : Except Reject Instr :=
  match minor with
  | 0 => .ok (.tlbi o)
  | 1 => .ok (.icinv o)
  | _ => .error .reservedMinor

/-- The minors of MAJOR 0x7B (Table 04.8). -/
def minorA7B (o : FmtA) (minor : Nat) : Except Reject Instr :=
  match minor with
  | 0 => .ok (.ctxsSnap o)
  | 1 => .ok (.ctxlInto o)
  | _ => .error .reservedMinor

/-- The minors of MAJOR 0x7C (Table 04.8). -/
def minorA7C (o : FmtA) (minor : Nat) : Except Reject Instr :=
  match minor with
  | 0 => .ok (.splog o)
  | _ => .error .reservedMinor

/-- The minors of MAJOR 0x5C (Table 04.8). -/
def minorC5C (o : FmtC) (minor : Nat) : Except Reject Instr :=
  match minor with
  | 0 => .ok (.tld o)
  | 1 => .ok (.tst o)
  | 2 => .ok (.tmov o)
  | 3 => .ok (.tcopy2d o)
  | 4 => .ok (.clist o)
  | 5 => .ok (.trope o)
  | _ => .error .reservedMinor

/-- The minors of MAJOR 0x5E (Table 04.8). -/
def minorC5E (o : FmtC) (minor : Nat) : Except Reject Instr :=
  match minor with
  | 0 => .ok (.glcfg o)
  | 1 => .ok (.glgo o)
  | _ => .error .reservedMinor

/-- The minors of MAJOR 0x64 (Table 04.8). -/
def minorC64 (o : FmtC) (minor : Nat) : Except Reject Instr :=
  match minor with
  | 0 => .ok (.mcfg o)
  | 1 => .ok (.mgo o)
  | 2 => .ok (.mclaim o)
  | 3 => .ok (.mrel o)
  | 4 => .ok (.mldo o)
  | 5 => .ok (.mret o)
  | 6 => .ok (.mcell o)
  | _ => .error .reservedMinor

/-- The minors of MAJOR 0x68 (Table 04.8). -/
def minorC68 (o : FmtC) (minor : Nat) : Except Reject Instr :=
  match minor with
  | 0 => .ok (.bqcmd o)
  | 1 => .ok (.bqload o)
  | 2 => .ok (.winfence o)
  | _ => .error .reservedMinor

/-- The minors of MAJOR 0x70 (Table 04.8). -/
def minorC70 (o : FmtC) (minor : Nat) : Except Reject Instr :=
  match minor with
  | 0 => .ok (.fld o)
  | 1 => .ok (.fst o)
  | 2 => .ok (.fget o)
  | 3 => .ok (.fput o)
  | 4 => .ok (.ffadd o)
  | 5 => .ok (.fmcast o)
  | 6 => .ok (.fsig o)
  | _ => .error .reservedMinor

/-- CSRW words by the CSR they name (R406). -/
def csrwOf (o : FmtI) : Instr :=
  match WellFormed.csrwRow o.imm with
  | .tdef => .csrwTdef o
  | .fflags => .csrwFflags o
  | .frm => .csrwFrm o
  | .srctr => .csrwSrctr o
  | .strict => .csrwStrict o
  | .mflags => .csrwMflags o
  | .msh => .csrwMsh o
  | .fevbase => .csrwFevbase o
  | .trqbase => .csrwTrqbase o
  | .shockst => .csrwShockst o
  | .trqhead => .csrwTrqhead o
  | .fevhead => .csrwFevhead o
  | .plain => .csrw o

/-- The loads of MAJOR 0x28 by SZ and ZX (R145). -/
def loadOf (sz : BitVec 2) (zx : Bool) (o : FmtM) : Except Reject Instr :=
  match sz.toNat, zx with
  | 0, false => .ok (.ldb o)
  | 0, true => .ok (.ldbz o)
  | 1, false => .ok (.ldh o)
  | 1, true => .ok (.ldhz o)
  | 2, false => .ok (.ldw o)
  | 2, true => .ok (.ldwz o)
  | _, false => .ok (.ldd o)
  | _, true => .error .reservedMinor

/-- The stores of MAJOR 0x29 by SZ (R146). -/
def storeOf (sz : BitVec 2) (o : FmtM) : Instr :=
  match sz.toNat with
  | 0 => .stb o
  | 1 => .sth o
  | 2 => .stw o
  | _ => .std o

/-- The privileged Porter forms of MAJOR 0x71 by minor and CIMM (Table 13.4). -/
def controlOf (o : FmtC) (minor : Nat) : Except Reject Instr :=
  match minor, o.cimm.toNat with
  | 0, 0 => .ok (.leaseGrant o)
  | 0, 1 => .ok (.leaseRecall o)
  | 0, 2 => .ok (.leaseRelease o)
  | 1, 0 => .ok (.slotswLoad o)
  | 1, 1 => .ok (.slotswSwitch o)
  | 0, _ => .error .reservedField
  | 1, _ => .error .reservedField
  | _, _ => .error .reservedMinor

/-- A stream word by its major and minor, before the checks of its fields (Table 04.8). -/
def rawWord (w : Word) : Except Reject Instr :=
  match (majorOf w).toNat with
  | 0x01 => minorA01 (unpackA w) (minorOfA w).toNat
  | 0x0A => minorA0A (unpackA w) (minorOfA w).toNat
  | 0x10 => minorA10 (unpackA w) (minorOfA w).toNat
  | 0x11 => minorA11 (unpackA w) (minorOfA w).toNat
  | 0x13 => minorA13 (unpackA w) (minorOfA w).toNat
  | 0x2B => minorA2B (unpackA w) (minorOfA w).toNat
  | 0x32 => minorA32 (unpackA w) (minorOfA w).toNat
  | 0x33 => minorA33 (unpackA w) (minorOfA w).toNat
  | 0x34 => minorA34 (unpackA w) (minorOfA w).toNat
  | 0x36 => minorA36 (unpackA w) (minorOfA w).toNat
  | 0x38 => minorA38 (unpackA w) (minorOfA w).toNat
  | 0x39 => minorA39 (unpackA w) (minorOfA w).toNat
  | 0x3D => minorA3D (unpackA w) (minorOfA w).toNat
  | 0x3E => minorA3E (unpackA w) (minorOfA w).toNat
  | 0x3F => minorA3F (unpackA w) (minorOfA w).toNat
  | 0x40 => minorA40 (unpackA w) (minorOfA w).toNat
  | 0x50 => minorA50 (unpackA w) (minorOfA w).toNat
  | 0x52 => minorA52 (unpackA w) (minorOfA w).toNat
  | 0x58 => minorA58 (unpackA w) (minorOfA w).toNat
  | 0x59 => minorA59 (unpackA w) (minorOfA w).toNat
  | 0x5D => minorA5D (unpackA w) (minorOfA w).toNat
  | 0x6A => minorA6A (unpackA w) (minorOfA w).toNat
  | 0x6B => minorA6B (unpackA w) (minorOfA w).toNat
  | 0x77 => minorA77 (unpackA w) (minorOfA w).toNat
  | 0x7A => minorA7A (unpackA w) (minorOfA w).toNat
  | 0x7B => minorA7B (unpackA w) (minorOfA w).toNat
  | 0x7C => minorA7C (unpackA w) (minorOfA w).toNat
  | 0x12 => .ok (.cmp (minorOfA w) (unpackA w))
  | 0x35 => .ok (.vcmp (minorOfA w) (unpackA w))
  | 0x3A => .ok (.vred (minorOfA w) (unpackA w))
  | 0x3B => .ok (.vredx (minorOfA w) (unpackA w))
  | 0x3C => .ok (.vscan (minorOfA w) (unpackA w))
  | 0x37 => .ok (.vcvt (minorOfA w) (unpackA w))
  | 0x14 => .ok (.addi (unpackI w))
  | 0x15 => .ok (.andi (unpackI w))
  | 0x16 => .ok (.ori (unpackI w))
  | 0x51 => .ok (.pset (unpackI w))
  | 0x76 => .ok (.trap (unpackI w))
  | 0x78 => .ok (.csrr (unpackI w))
  | 0x79 => .ok (csrwOf (unpackI w))
  | 0x02 => .ok (.br (unpackB w))
  | 0x03 => .ok (.brc (unpackB w))
  | 0x04 => .ok (.jmp (unpackB w))
  | 0x05 => .ok (.call (unpackB w))
  | 0x06 => .ok (.ret (unpackB w))
  | 0x09 => .ok (.brq (unpackB w))
  | 0x07 => if w.extractLsb' 24 16 = 0 then .ok (.loop (unpackLoop w)) else .error .reservedField
  | 0x08 => .ok (.loopi (unpackLoopI w))
  | 0x17 => if w.getLsbD 40 then .error .reservedField else .ok (.li (unpackL w))
  | 0x18 => if w.getLsbD 40 then .error .reservedField else .ok (.lih (unpackL w))
  | 0x28 => loadOf (w.extractLsb' 9 2) (w.getLsbD 8) (unpackM w)
  | 0x29 => if w.getLsbD 8 then .error .reservedField else .ok (storeOf (w.extractLsb' 9 2) (unpackM w))
  | 0x2A => if w.extractLsb' 9 2 = 3 && !w.getLsbD 8 then .ok (.lds (unpackM w)) else .error .reservedField
  | 0x30 => if w.getLsbD 8 then .error .reservedField else .ok (.vld (w.extractLsb' 9 2) (unpackM w))
  | 0x31 => if w.getLsbD 8 then .error .reservedField else .ok (.vst (w.extractLsb' 9 2) (unpackM w))
  | 0x5C => minorC5C (unpackC w) (minorOfC w).toNat
  | 0x5E => minorC5E (unpackC w) (minorOfC w).toNat
  | 0x64 => minorC64 (unpackC w) (minorOfC w).toNat
  | 0x68 => minorC68 (unpackC w) (minorOfC w).toNat
  | 0x70 => minorC70 (unpackC w) (minorOfC w).toNat
  | 0x71 => controlOf (unpackC w) (minorOfC w).toNat
  | 0x7F => .ok (.brk (w.extractLsb' 54 10) (w.extractLsb' 0 47))
  | _ => .error .reservedMajor

/-- The instruction of a 64-bit stream word, or the check of R97 that it fails. -/
def decodeWord (w : Word) : Except Reject Instr :=
  match rawWord w with
  | .error r => .error r
  | .ok i =>
    match i.illFormed with
    | none => .ok i
    | some r => .error r

/-! ### Mill words (Tables 11.2 to 11.11) -/

/-- The Mill instruction of a 32-bit word: an opcode that is reserved, or a field that is unused and non-zero, is rejected
(R295). Values outside a field's range stay in the instruction and end the kernel when it issues. -/
noncomputable def decodeMill (w : BitVec 32) : Except Reject Instr :=
  if w &&& 0xFC03C800 = 0x04000000 then .ok (.nldVector (w.extractLsb' 22 4) (w.extractLsb' 18 4) (w.extractLsb' 12 2) (w.extractLsb' 0 11))
  else if w &&& 0xFC03F800 = 0x04000800 then .ok (.nldScalar (w.extractLsb' 22 4) (w.extractLsb' 18 4) (w.extractLsb' 0 11))
  else if w &&& 0xFC03C800 = 0x08000000 then .ok (.nstVector (w.extractLsb' 22 4) (w.extractLsb' 18 4) (w.extractLsb' 12 2) (w.extractLsb' 0 11))
  else if w &&& 0xFC03F800 = 0x08000800 then .ok (.nstScalar (w.extractLsb' 22 4) (w.extractLsb' 18 4) (w.extractLsb' 0 11))
  else if w &&& 0xFC000FFE = 0x0C000000 then .ok (.nldk (w.extractLsb' 22 4) (w.extractLsb' 18 4) (w.extractLsb' 14 4) (w.extractLsb' 12 2) (w.extractLsb' 0 1))
  else if w &&& 0xFFC3FFFF = 0x10000000 then .ok (.npb (w.extractLsb' 18 4))
  else if w &&& 0xFFC3FFFF = 0x10000001 then .ok (.npbWf (w.extractLsb' 18 4))
  else if w &&& 0xFFC03FFF = 0x10000002 then .ok (.npbSet (w.extractLsb' 18 4) (w.extractLsb' 14 4))
  else if w &&& 0xFC3FF000 = 0x14000000 then .ok (.nliScalar (w.extractLsb' 22 4) (w.extractLsb' 0 12))
  else if w &&& 0xFC3FF000 = 0x14040000 then .ok (.nliShift (w.extractLsb' 22 4) (w.extractLsb' 0 12))
  else if w &&& 0xFC3FC000 = 0x14080000 then .ok (.nliVector (w.extractLsb' 22 4) (w.extractLsb' 12 2) (w.extractLsb' 0 12))
  else if w &&& 0xFC3C0FFF = 0x140C0000 then .ok (.nliFromMx (w.extractLsb' 22 4) (w.extractLsb' 14 4) (w.extractLsb' 12 2))
  else if w &&& 0xFC03F000 = 0x18000000 then .ok (.naddi (w.extractLsb' 22 4) (w.extractLsb' 18 4) (w.extractLsb' 0 12))
  else if w &&& 0xFC000807 = 0x1C000000 then .ok (.nadd (w.extractLsb' 22 4) (w.extractLsb' 18 4) (w.extractLsb' 14 4) (w.extractLsb' 12 2) (w.extractLsb' 9 2) (w.extractLsb' 8 1) (w.extractLsb' 3 5))
  else if w &&& 0xFC0039FF = 0x1C000800 then .ok (.naddScalar (w.extractLsb' 22 4) (w.extractLsb' 18 4) (w.extractLsb' 14 4) (w.extractLsb' 9 2))
  else if w &&& 0xFC000807 = 0x20000000 then .ok (.nsub (w.extractLsb' 22 4) (w.extractLsb' 18 4) (w.extractLsb' 14 4) (w.extractLsb' 12 2) (w.extractLsb' 9 2) (w.extractLsb' 8 1) (w.extractLsb' 3 5))
  else if w &&& 0xFC0039FF = 0x20000800 then .ok (.nsubScalar (w.extractLsb' 22 4) (w.extractLsb' 18 4) (w.extractLsb' 14 4) (w.extractLsb' 9 2))
  else if w &&& 0xFC000807 = 0x24000000 then .ok (.nmul (w.extractLsb' 22 4) (w.extractLsb' 18 4) (w.extractLsb' 14 4) (w.extractLsb' 12 2) (w.extractLsb' 9 2) (w.extractLsb' 8 1) (w.extractLsb' 3 5))
  else if w &&& 0xFC0039FF = 0x24000800 then .ok (.nmulScalar (w.extractLsb' 22 4) (w.extractLsb' 18 4) (w.extractLsb' 14 4) (w.extractLsb' 9 2))
  else if w &&& 0xFC000E07 = 0x28000200 then .ok (.nfma (w.extractLsb' 22 4) (w.extractLsb' 18 4) (w.extractLsb' 14 4) (w.extractLsb' 12 2) (w.extractLsb' 8 1) (w.extractLsb' 3 5))
  else if w &&& 0xFC000807 = 0x2C000000 then .ok (.nmax (w.extractLsb' 22 4) (w.extractLsb' 18 4) (w.extractLsb' 14 4) (w.extractLsb' 12 2) (w.extractLsb' 9 2) (w.extractLsb' 8 1) (w.extractLsb' 3 5))
  else if w &&& 0xFC0039FF = 0x2C000800 then .ok (.nmaxScalar (w.extractLsb' 22 4) (w.extractLsb' 18 4) (w.extractLsb' 14 4) (w.extractLsb' 9 2))
  else if w &&& 0xFC000807 = 0x30000000 then .ok (.nmin (w.extractLsb' 22 4) (w.extractLsb' 18 4) (w.extractLsb' 14 4) (w.extractLsb' 12 2) (w.extractLsb' 9 2) (w.extractLsb' 8 1) (w.extractLsb' 3 5))
  else if w &&& 0xFC0039FF = 0x30000800 then .ok (.nminScalar (w.extractLsb' 22 4) (w.extractLsb' 18 4) (w.extractLsb' 14 4) (w.extractLsb' 9 2))
  else if w &&& 0xFC000807 = 0x34000000 then .ok (.nand (w.extractLsb' 22 4) (w.extractLsb' 18 4) (w.extractLsb' 14 4) (w.extractLsb' 12 2) (w.extractLsb' 9 2) (w.extractLsb' 8 1) (w.extractLsb' 3 5))
  else if w &&& 0xFC0039FF = 0x34000800 then .ok (.nandScalar (w.extractLsb' 22 4) (w.extractLsb' 18 4) (w.extractLsb' 14 4) (w.extractLsb' 9 2))
  else if w &&& 0xFC000807 = 0x38000000 then .ok (.nor (w.extractLsb' 22 4) (w.extractLsb' 18 4) (w.extractLsb' 14 4) (w.extractLsb' 12 2) (w.extractLsb' 9 2) (w.extractLsb' 8 1) (w.extractLsb' 3 5))
  else if w &&& 0xFC0039FF = 0x38000800 then .ok (.norScalar (w.extractLsb' 22 4) (w.extractLsb' 18 4) (w.extractLsb' 14 4) (w.extractLsb' 9 2))
  else if w &&& 0xFC000807 = 0x3C000000 then .ok (.nxor (w.extractLsb' 22 4) (w.extractLsb' 18 4) (w.extractLsb' 14 4) (w.extractLsb' 12 2) (w.extractLsb' 9 2) (w.extractLsb' 8 1) (w.extractLsb' 3 5))
  else if w &&& 0xFC0039FF = 0x3C000800 then .ok (.nxorScalar (w.extractLsb' 22 4) (w.extractLsb' 18 4) (w.extractLsb' 14 4) (w.extractLsb' 9 2))
  else if w &&& 0xFC000807 = 0x40000000 then .ok (.nshl (w.extractLsb' 22 4) (w.extractLsb' 18 4) (w.extractLsb' 14 4) (w.extractLsb' 12 2) (w.extractLsb' 9 2) (w.extractLsb' 8 1) (w.extractLsb' 3 5))
  else if w &&& 0xFC0039FF = 0x40000800 then .ok (.nshlScalar (w.extractLsb' 22 4) (w.extractLsb' 18 4) (w.extractLsb' 14 4) (w.extractLsb' 9 2))
  else if w &&& 0xFC000807 = 0x44000000 then .ok (.nshr (w.extractLsb' 22 4) (w.extractLsb' 18 4) (w.extractLsb' 14 4) (w.extractLsb' 12 2) (w.extractLsb' 9 2) (w.extractLsb' 8 1) (w.extractLsb' 3 5))
  else if w &&& 0xFC0039FF = 0x44000800 then .ok (.nshrScalar (w.extractLsb' 22 4) (w.extractLsb' 18 4) (w.extractLsb' 14 4) (w.extractLsb' 9 2))
  else if w &&& 0xFC000FFF = 0x48000000 then .ok (.nperm (w.extractLsb' 22 4) (w.extractLsb' 18 4) (w.extractLsb' 14 4) (w.extractLsb' 12 2))
  else if w &&& 0xFC03C800 = 0x4C000000 then .ok (.ncvt (w.extractLsb' 22 4) (w.extractLsb' 18 4) (w.extractLsb' 12 2) (w.extractLsb' 8 3) (w.extractLsb' 4 4) (w.extractLsb' 0 4))
  else if w &&& 0xFF000800 = 0x50000000 then .ok (.ncmp (w.extractLsb' 22 2) (w.extractLsb' 18 4) (w.extractLsb' 14 4) (w.extractLsb' 12 2) (w.extractLsb' 9 2) (w.extractLsb' 8 1) (w.extractLsb' 3 5) (w.extractLsb' 0 3))
  else if w &&& 0xFC000E07 = 0x54000000 then .ok (.nsel (w.extractLsb' 22 4) (w.extractLsb' 18 4) (w.extractLsb' 14 4) (w.extractLsb' 12 2) (w.extractLsb' 8 1) (w.extractLsb' 3 5))
  else if w &&& 0xFC000FC0 = 0x58000000 then .ok (.ndot (w.extractLsb' 22 4) (w.extractLsb' 18 4) (w.extractLsb' 14 4) (w.extractLsb' 12 2) (w.extractLsb' 5 1) (w.extractLsb' 0 5))
  else if w &&& 0xFC000FE0 = 0x58000400 then .ok (.ndotBf16 (w.extractLsb' 22 4) (w.extractLsb' 18 4) (w.extractLsb' 14 4) (w.extractLsb' 12 2) (w.extractLsb' 0 5))
  else if w &&& 0xFC03C9F8 = 0x5C000000 then .ok (.nred (w.extractLsb' 22 4) (w.extractLsb' 18 4) (w.extractLsb' 12 2) (w.extractLsb' 9 2) (w.extractLsb' 0 3))
  else if w &&& 0xFC03C9F8 = 0x5C000800 then .ok (.nredScalar (w.extractLsb' 22 4) (w.extractLsb' 18 4) (w.extractLsb' 12 2) (w.extractLsb' 9 2) (w.extractLsb' 0 3))
  else if w &&& 0xFC03CFFF = 0x60000200 then .ok (.nexp2 (w.extractLsb' 22 4) (w.extractLsb' 18 4) (w.extractLsb' 12 2))
  else if w &&& 0xFC000FFF = 0x64000000 then .ok (.nsmx (w.extractLsb' 22 4) (w.extractLsb' 18 4) (w.extractLsb' 14 4) (w.extractLsb' 12 2))
  else if w &&& 0xFC003FF8 = 0x68000000 then .ok (.ntrip (w.extractLsb' 22 4) (w.extractLsb' 18 4) (w.extractLsb' 14 4) (w.extractLsb' 0 3))
  else if w &&& 0xFC003FFF = 0x6C000000 then .ok (.nskip (w.extractLsb' 22 4) (w.extractLsb' 18 4) (w.extractLsb' 14 4))
  else if w &&& 0xFC03C800 = 0x70000000 then .ok (.nidx (w.extractLsb' 22 4) (w.extractLsb' 18 4) (w.extractLsb' 12 2) (w.extractLsb' 0 11))
  else if w &&& 0xFF3FCF80 = 0x70000800 then .ok (.nidxW (w.extractLsb' 22 2) (w.extractLsb' 12 2) (w.extractLsb' 0 7))
  else if w &&& 0xFFC3F000 = 0x74000000 then .ok (.nloop (w.extractLsb' 18 4) (w.extractLsb' 0 12))
  else if w &&& 0xFFFFF000 = 0x78000000 then .ok (.nbr (w.extractLsb' 0 12))
  else if w &&& 0xFF83F000 = 0x7C000000 then .ok (.nbrc (w.extractLsb' 22 1) (w.extractLsb' 18 4) (w.extractLsb' 0 12))
  else if w &&& 0xFFBF3000 = 0x7C800000 then .ok (.nbrcMask (w.extractLsb' 22 1) (w.extractLsb' 14 2) (w.extractLsb' 0 12))
  else if w &&& 0xFFC3F000 = 0x80000000 then .ok (.nsems (w.extractLsb' 18 4) (w.extractLsb' 0 12))
  else if w &&& 0xFFC3FFFF = 0x84000000 then .ok (.nsemw (w.extractLsb' 18 4))
  else if w &&& 0xFC3FFFFE = 0x88000000 then .ok (.nflag (w.extractLsb' 22 4) (w.extractLsb' 0 1))
  else if w &&& 0xFFFFFFFF = 0x8C000000 then .ok (.nend)
  else .error .reservedField

/-! ### Command records (Table 02.2) -/

/-- The fields of a 64-byte command record, when no reserved bit is set. -/
def unpackCmd (r : BitVec 512) : Except Reject Cmd :=
  if r.extractLsb' 53 3 = 0 && r.extractLsb' 32 16 = 0 && r.extractLsb' 176 16 = 0 && r.extractLsb' 224 32 = 0
    && r.extractLsb' 368 16 = 0 && r.extractLsb' 432 16 = 0 && r.extractLsb' 448 64 = 0
  then .ok { tag := r.extractLsb' 0 32, lvl := r.extractLsb' 50 3, am := r.getLsbD 49, pg := r.getLsbD 48,
             ids := r.extractLsb' 64 64, addr0 := r.extractLsb' 128 48, cnt := r.extractLsb' 192 32,
             astep := r.extractLsb' 256 64, addr1 := r.extractLsb' 320 48, addr2 := r.extractLsb' 384 48 }
  else .error .reservedField

/-- The command of a record (R37). -/
def decodeCommand (r : BitVec 512) : Except Reject Instr :=
  match unpackCmd r with
  | .error e => .error e
  | .ok c =>
    match (match (r.extractLsb' 56 8).toNat with
      | 1 => some (Instr.jobopen c)
      | 2 => some (Instr.jobend c)
      | 3 => some (Instr.phaseopen c)
      | 4 => some (Instr.phaseclose c)
      | 5 => some (Instr.launch c)
      | 6 => some (Instr.replay c)
      | 7 => some (Instr.gpatch c)
      | 8 => some (Instr.cancelCommand c)
      | _ => none) with
    | none => .error .badOpcode
    | some i =>
      match i.illFormed with
      | none => .ok i
      | some e => .error e

/-- A command record from its fields (Table 02.2). -/
def packCmd (opc : BitVec 8) (c : Cmd) : BitVec 512 :=
  0#64 ++ (0#16 ++ c.addr2) ++ (0#16 ++ c.addr1) ++ c.astep ++ (0#32 ++ c.cnt) ++ (0#16 ++ c.addr0) ++ c.ids
    ++ (opc ++ 0#3 ++ c.lvl ++ bit1 c.am ++ bit1 c.pg ++ 0#16 ++ c.tag)

/-! ### The decoders over bytes -/

/-- The stream word that eight bytes hold, decoded. -/
def decodeWordBytes (bs : List Byte) : Except Reject Instr :=
  if bs.length < 8 then .error .tooShort else decodeWord (BitVec.ofNat 64 (leValue (bs.take 8)))

/-- The Mill word that four bytes hold, decoded. -/
noncomputable def decodeMillBytes (bs : List Byte) : Except Reject Instr :=
  if bs.length < 4 then .error .tooShort else decodeMill (BitVec.ofNat 32 (leValue (bs.take 4)))

/-- The command record that 64 bytes hold, decoded. -/
def decodeCommandBytes (bs : List Byte) : Except Reject Instr :=
  if bs.length < 64 then .error .tooShort else decodeCommand (BitVec.ofNat 512 (leValue (bs.take 64)))

/-- The instruction that the decoder reads from `w`, whose bits the table numbers from the least significant bit of the
first word: a Mill word for up to 32 bits, a stream word for up to 64, a command record beyond. -/
noncomputable def decodeTableWord (nbits w : Nat) : Option Instr :=
  let r := if nbits ≤ 32 then decodeMillBytes (leBytes 4 w)
    else if nbits ≤ 64 then decodeWordBytes (leBytes 8 w)
    else decodeCommandBytes (leBytes 64 w)
  match r with
  | .ok i => some i
  | .error _ => none

/-! ### The encoders -/

/-- The stream word of an instruction (Table 04.8); none for an instruction that is no stream word. -/
def encodeWord : Instr → Option Word
  | .nop o => some (packA 0x01 0 o)
  | .brk gap data => some (gap ++ 0x7F#7 ++ data)
  | .br o => some (packB 0x02 o)
  | .brc o => some (packB 0x03 o)
  | .jmp o => some (packB 0x04 o)
  | .call o => some (packB 0x05 o)
  | .ret o => some (packB 0x06 o)
  | .brq o => some (packB 0x09 o)
  | .loop o => some (packLoop o)
  | .loopi o => some (packLoopI o)
  | .qpush o => some (packA 0x0A 0 o)
  | .rvz o => some (packA 0x0A 1 o)
  | .exit o => some (packA 0x0A 2 o)
  | .spawn o => some (packA 0x0A 3 o)
  | .joindec o => some (packA 0x0A 4 o)
  | .waitc o => some (packA 0x0A 5 o)
  | .cancel o => some (packA 0x0A 6 o)
  | .add o => some (packA 0x10 0 o)
  | .sub o => some (packA 0x10 1 o)
  | .and o => some (packA 0x10 2 o)
  | .or o => some (packA 0x10 3 o)
  | .xor o => some (packA 0x10 4 o)
  | .andn o => some (packA 0x10 5 o)
  | .shl o => some (packA 0x10 6 o)
  | .shr o => some (packA 0x10 7 o)
  | .sra o => some (packA 0x10 8 o)
  | .rot o => some (packA 0x10 9 o)
  | .min o => some (packA 0x10 10 o)
  | .max o => some (packA 0x10 11 o)
  | .minz o => some (packA 0x10 12 o)
  | .maxz o => some (packA 0x10 13 o)
  | .sel o => some (packA 0x10 14 o)
  | .clz o => some (packA 0x10 15 o)
  | .ctz o => some (packA 0x10 16 o)
  | .popc o => some (packA 0x10 17 o)
  | .bswap o => some (packA 0x10 18 o)
  | .mul o => some (packA 0x11 0 o)
  | .mulh o => some (packA 0x11 1 o)
  | .mulhz o => some (packA 0x11 2 o)
  | .div o => some (packA 0x11 3 o)
  | .divz o => some (packA 0x11 4 o)
  | .rem o => some (packA 0x11 5 o)
  | .remz o => some (packA 0x11 6 o)
  | .cmp k o => some (packA 0x12 k o)
  | .bfx o => some (packA 0x13 0 o)
  | .bfi o => some (packA 0x13 1 o)
  | .pfxh o => some (packA 0x13 2 o)
  | .addi o => some (packI 0x14 o)
  | .andi o => some (packI 0x15 o)
  | .ori o => some (packI 0x16 o)
  | .li o => some (packL 0x17 o)
  | .lih o => some (packL 0x18 o)
  | .ldb o => some (packM 0x28 0 false o)
  | .ldbz o => some (packM 0x28 0 true o)
  | .ldh o => some (packM 0x28 1 false o)
  | .ldhz o => some (packM 0x28 1 true o)
  | .ldw o => some (packM 0x28 2 false o)
  | .ldwz o => some (packM 0x28 2 true o)
  | .ldd o => some (packM 0x28 3 false o)
  | .stb o => some (packM 0x29 0 false o)
  | .sth o => some (packM 0x29 1 false o)
  | .stw o => some (packM 0x29 2 false o)
  | .std o => some (packM 0x29 3 false o)
  | .lds o => some (packM 0x2A 3 false o)
  | .chk o => some (packA 0x2B 0 o)
  | .vld sz o => some (packM 0x30 sz false o)
  | .vst sz o => some (packM 0x31 sz false o)
  | .vadd o => some (packA 0x32 0 o)
  | .vsub o => some (packA 0x32 1 o)
  | .vmul o => some (packA 0x32 2 o)
  | .vmin o => some (packA 0x32 3 o)
  | .vmax o => some (packA 0x32 4 o)
  | .vabs o => some (packA 0x32 5 o)
  | .vneg o => some (packA 0x32 6 o)
  | .vabd o => some (packA 0x32 7 o)
  | .vmulh o => some (packA 0x32 8 o)
  | .vfma o => some (packA 0x33 0 o)
  | .vfms o => some (packA 0x33 1 o)
  | .vfnma o => some (packA 0x33 2 o)
  | .vfnms o => some (packA 0x33 3 o)
  | .vand o => some (packA 0x34 0 o)
  | .vor o => some (packA 0x34 1 o)
  | .vxor o => some (packA 0x34 2 o)
  | .vandn o => some (packA 0x34 3 o)
  | .vnot o => some (packA 0x34 4 o)
  | .vshl o => some (packA 0x34 5 o)
  | .vshr o => some (packA 0x34 6 o)
  | .vsra o => some (packA 0x34 7 o)
  | .vrot o => some (packA 0x34 8 o)
  | .vcmp k o => some (packA 0x35 k o)
  | .vsel o => some (packA 0x36 0 o)
  | .vcvt k o => some (packA 0x37 k o)
  | .vwmul o => some (packA 0x38 0 o)
  | .vdot o => some (packA 0x39 0 o)
  | .vred k o => some (packA 0x3A k o)
  | .vredx k o => some (packA 0x3B k o)
  | .vscan k o => some (packA 0x3C k o)
  | .vperm o => some (packA 0x3D 0 o)
  | .vshuf o => some (packA 0x3D 1 o)
  | .vbcast o => some (packA 0x3D 2 o)
  | .vxlane o => some (packA 0x3D 3 o)
  | .vgath o => some (packA 0x3E 0 o)
  | .vscat o => some (packA 0x3E 1 o)
  | .vscatadd o => some (packA 0x3E 2 o)
  | .vgathq o => some (packA 0x3E 3 o)
  | .vqnt o => some (packA 0x3F 0 o)
  | .vdeq o => some (packA 0x3F 1 o)
  | .vmovsToVector o => some (packA 0x40 0 o)
  | .vmovsToScalar o => some (packA 0x40 1 o)
  | .vmovsDq o => some (packA 0x40 2 o)
  | .pand o => some (packA 0x50 0 o)
  | .por o => some (packA 0x50 1 o)
  | .pxor o => some (packA 0x50 2 o)
  | .pnot o => some (packA 0x50 3 o)
  | .pmov o => some (packA 0x50 4 o)
  | .pset o => some (packI 0x51 o)
  | .pcnt o => some (packA 0x52 0 o)
  | .pfirst o => some (packA 0x52 1 o)
  | .vrcpa o => some (packA 0x58 0 o)
  | .vrsqa o => some (packA 0x58 1 o)
  | .vsqrt o => some (packA 0x58 2 o)
  | .vexp2 o => some (packA 0x58 3 o)
  | .vlog2 o => some (packA 0x58 4 o)
  | .vsint o => some (packA 0x58 5 o)
  | .vcost o => some (packA 0x58 6 o)
  | .vrng o => some (packA 0x59 0 o)
  | .tld o => some (packC 0x5C 0 o)
  | .tst o => some (packC 0x5C 1 o)
  | .tmov o => some (packC 0x5C 2 o)
  | .tcopy2d o => some (packC 0x5C 3 o)
  | .clist o => some (packC 0x5C 4 o)
  | .trope o => some (packC 0x5C 5 o)
  | .cbinit o => some (packA 0x5D 0 o)
  | .cbwait o => some (packA 0x5D 1 o)
  | .cbdone o => some (packA 0x5D 2 o)
  | .glcfg o => some (packC 0x5E 0 o)
  | .glgo o => some (packC 0x5E 1 o)
  | .mcfg o => some (packC 0x64 0 o)
  | .mgo o => some (packC 0x64 1 o)
  | .mclaim o => some (packC 0x64 2 o)
  | .mrel o => some (packC 0x64 3 o)
  | .mldo o => some (packC 0x64 4 o)
  | .mret o => some (packC 0x64 5 o)
  | .mcell o => some (packC 0x64 6 o)
  | .bqcmd o => some (packC 0x68 0 o)
  | .bqload o => some (packC 0x68 1 o)
  | .winfence o => some (packC 0x68 2 o)
  | .seminit o => some (packA 0x6A 0 o)
  | .semsig o => some (packA 0x6A 1 o)
  | .semwait o => some (packA 0x6A 2 o)
  | .msemsig o => some (packA 0x6A 3 o)
  | .msemwait o => some (packA 0x6A 4 o)
  | .fence o => some (packA 0x6A 5 o)
  | .fenceAll o => some (packA 0x6A 6 o)
  | .aadd o => some (packA 0x6B 0 o)
  | .amin o => some (packA 0x6B 1 o)
  | .amax o => some (packA 0x6B 2 o)
  | .aand o => some (packA 0x6B 3 o)
  | .aor o => some (packA 0x6B 4 o)
  | .axor o => some (packA 0x6B 5 o)
  | .aswp o => some (packA 0x6B 6 o)
  | .acas o => some (packA 0x6B 7 o)
  | .afadd o => some (packA 0x6B 8 o)
  | .fld o => some (packC 0x70 0 o)
  | .fst o => some (packC 0x70 1 o)
  | .fget o => some (packC 0x70 2 o)
  | .fput o => some (packC 0x70 3 o)
  | .ffadd o => some (packC 0x70 4 o)
  | .fmcast o => some (packC 0x70 5 o)
  | .fsig o => some (packC 0x70 6 o)
  | .leaseGrant o => some (packC 0x71 0 o)
  | .leaseRecall o => some (packC 0x71 0 o)
  | .leaseRelease o => some (packC 0x71 0 o)
  | .slotswLoad o => some (packC 0x71 1 o)
  | .slotswSwitch o => some (packC 0x71 1 o)
  | .trap o => some (packI 0x76 o)
  | .eret o => some (packA 0x77 0 o)
  | .halt o => some (packA 0x77 1 o)
  | .csrr o => some (packI 0x78 o)
  | .csrw o => some (packI 0x79 o)
  | .csrwTdef o => some (packI 0x79 o)
  | .csrwFflags o => some (packI 0x79 o)
  | .csrwFrm o => some (packI 0x79 o)
  | .csrwSrctr o => some (packI 0x79 o)
  | .csrwStrict o => some (packI 0x79 o)
  | .csrwMflags o => some (packI 0x79 o)
  | .csrwMsh o => some (packI 0x79 o)
  | .csrwFevbase o => some (packI 0x79 o)
  | .csrwTrqbase o => some (packI 0x79 o)
  | .csrwShockst o => some (packI 0x79 o)
  | .tlbi o => some (packA 0x7A 0 o)
  | .icinv o => some (packA 0x7A 1 o)
  | .ctxsSnap o => some (packA 0x7B 0 o)
  | .ctxsOut o => some (packA 0x7B 0 o)
  | .ctxlInto o => some (packA 0x7B 1 o)
  | .ctxlResume o => some (packA 0x7B 1 o)
  | .splog o => some (packA 0x7C 0 o)
  | .csrwTrqhead o => some (packI 0x79 o)
  | .csrwFevhead o => some (packI 0x79 o)
  | _ => none

/-- The Mill word of an instruction (Table 11.3); none for an instruction that is no Mill word. -/
def encodeMill : Instr → Option (BitVec 32)
  | .nldVector d a m n => some (1#6 ++ d ++ a ++ 0#4 ++ m ++ 0#1 ++ n)
  | .nldScalar d a n => some (1#6 ++ d ++ a ++ 1#7 ++ n)
  | .nstVector s a m n => some (2#6 ++ s ++ a ++ 0#4 ++ m ++ 0#1 ++ n)
  | .nstScalar s a n => some (2#6 ++ s ++ a ++ 1#7 ++ n)
  | .nldk d a b m h => some (3#6 ++ d ++ a ++ b ++ m ++ 0#11 ++ h)
  | .npb a => some (64#10 ++ a ++ 0#18)
  | .npbWf a => some (64#10 ++ a ++ 1#18)
  | .npbSet a b => some (64#10 ++ a ++ b ++ 2#14)
  | .nliScalar d i => some (5#6 ++ d ++ 0#10 ++ i)
  | .nliShift d i => some (5#6 ++ d ++ 64#10 ++ i)
  | .nliVector d m i => some (5#6 ++ d ++ 32#8 ++ m ++ i)
  | .nliFromMx d b m => some (5#6 ++ d ++ 3#4 ++ b ++ m ++ 0#12)
  | .naddi d a i => some (6#6 ++ d ++ a ++ 0#6 ++ i)
  | .nadd d a b m t c s => some (7#6 ++ d ++ a ++ b ++ m ++ 0#1 ++ t ++ c ++ s ++ 0#3)
  | .naddScalar d a b t => some (7#6 ++ d ++ a ++ b ++ 1#3 ++ t ++ 0#9)
  | .nsub d a b m t c s => some (8#6 ++ d ++ a ++ b ++ m ++ 0#1 ++ t ++ c ++ s ++ 0#3)
  | .nsubScalar d a b t => some (8#6 ++ d ++ a ++ b ++ 1#3 ++ t ++ 0#9)
  | .nmul d a b m t c s => some (9#6 ++ d ++ a ++ b ++ m ++ 0#1 ++ t ++ c ++ s ++ 0#3)
  | .nmulScalar d a b t => some (9#6 ++ d ++ a ++ b ++ 1#3 ++ t ++ 0#9)
  | .nfma d a b m c s => some (10#6 ++ d ++ a ++ b ++ m ++ 1#3 ++ c ++ s ++ 0#3)
  | .nmax d a b m t c s => some (11#6 ++ d ++ a ++ b ++ m ++ 0#1 ++ t ++ c ++ s ++ 0#3)
  | .nmaxScalar d a b t => some (11#6 ++ d ++ a ++ b ++ 1#3 ++ t ++ 0#9)
  | .nmin d a b m t c s => some (12#6 ++ d ++ a ++ b ++ m ++ 0#1 ++ t ++ c ++ s ++ 0#3)
  | .nminScalar d a b t => some (12#6 ++ d ++ a ++ b ++ 1#3 ++ t ++ 0#9)
  | .nand d a b m t c s => some (13#6 ++ d ++ a ++ b ++ m ++ 0#1 ++ t ++ c ++ s ++ 0#3)
  | .nandScalar d a b t => some (13#6 ++ d ++ a ++ b ++ 1#3 ++ t ++ 0#9)
  | .nor d a b m t c s => some (14#6 ++ d ++ a ++ b ++ m ++ 0#1 ++ t ++ c ++ s ++ 0#3)
  | .norScalar d a b t => some (14#6 ++ d ++ a ++ b ++ 1#3 ++ t ++ 0#9)
  | .nxor d a b m t c s => some (15#6 ++ d ++ a ++ b ++ m ++ 0#1 ++ t ++ c ++ s ++ 0#3)
  | .nxorScalar d a b t => some (15#6 ++ d ++ a ++ b ++ 1#3 ++ t ++ 0#9)
  | .nshl d a b m t c s => some (16#6 ++ d ++ a ++ b ++ m ++ 0#1 ++ t ++ c ++ s ++ 0#3)
  | .nshlScalar d a b t => some (16#6 ++ d ++ a ++ b ++ 1#3 ++ t ++ 0#9)
  | .nshr d a b m t c s => some (17#6 ++ d ++ a ++ b ++ m ++ 0#1 ++ t ++ c ++ s ++ 0#3)
  | .nshrScalar d a b t => some (17#6 ++ d ++ a ++ b ++ 1#3 ++ t ++ 0#9)
  | .nperm d a b m => some (18#6 ++ d ++ a ++ b ++ m ++ 0#12)
  | .ncvt d a m p y z => some (19#6 ++ d ++ a ++ 0#4 ++ m ++ 0#1 ++ p ++ y ++ z)
  | .ncmp d a b m t c s k => some (80#8 ++ d ++ a ++ b ++ m ++ 0#1 ++ t ++ c ++ s ++ k)
  | .nsel d a b m c s => some (21#6 ++ d ++ a ++ b ++ m ++ 0#3 ++ c ++ s ++ 0#3)
  | .ndot d a b m u q => some (22#6 ++ d ++ a ++ b ++ m ++ 0#6 ++ u ++ q)
  | .ndotBf16 d a b m q => some (22#6 ++ d ++ a ++ b ++ m ++ 32#7 ++ q)
  | .nred d a m t o => some (23#6 ++ d ++ a ++ 0#4 ++ m ++ 0#1 ++ t ++ 0#6 ++ o)
  | .nredScalar d a m t o => some (23#6 ++ d ++ a ++ 0#4 ++ m ++ 1#1 ++ t ++ 0#6 ++ o)
  | .nexp2 d a m => some (24#6 ++ d ++ a ++ 0#4 ++ m ++ 512#12)
  | .nsmx d a b m => some (25#6 ++ d ++ a ++ b ++ m ++ 0#12)
  | .ntrip d a b n => some (26#6 ++ d ++ a ++ b ++ 0#11 ++ n)
  | .nskip d a b => some (27#6 ++ d ++ a ++ b ++ 0#14)
  | .nidx d a m i => some (28#6 ++ d ++ a ++ 0#4 ++ m ++ 0#1 ++ i)
  | .nidxW d m t => some (112#8 ++ d ++ 0#8 ++ m ++ 16#5 ++ t)
  | .nloop a l => some (464#10 ++ a ++ 0#6 ++ l)
  | .nbr o => some (491520#20 ++ o)
  | .nbrc n a o => some (248#9 ++ n ++ a ++ 0#6 ++ o)
  | .nbrcMask n k o => some (249#9 ++ n ++ 0#6 ++ k ++ 0#2 ++ o)
  | .nsems a n => some (512#10 ++ a ++ 0#6 ++ n)
  | .nsemw a => some (528#10 ++ a ++ 0#18)
  | .nflag d c => some (34#6 ++ d ++ 0#21 ++ c)
  | .nend => some (2348810240#32)
  | _ => none

/-- The record of a command (Table 02.2); none for an instruction that is no command. -/
def encodeCommand : Instr → Option (BitVec 512)
  | .jobopen c => some (packCmd 1 c)
  | .jobend c => some (packCmd 2 c)
  | .phaseopen c => some (packCmd 3 c)
  | .phaseclose c => some (packCmd 4 c)
  | .launch c => some (packCmd 5 c)
  | .replay c => some (packCmd 6 c)
  | .gpatch c => some (packCmd 7 c)
  | .cancelCommand c => some (packCmd 8 c)
  | _ => none

end Sys2Proof
end

