-- ==== Sys2Proof/Machine/Fetch.lean ====
section
/-!
DEFINITION. Fetching instruction words: translation with X, the instruction cache that may keep a line until ICINV (R84,
R401), ECC (Table 10.5), and a Reeve's physical fetches (R383).
-/
namespace Sys2Proof.Machine
open Sys2Proof.Config

/-- The job under which a bench's fetches are cached: the crew's, or one of the Reeve's own. -/
def fetchJob (s : State) (k : Nat) (c : Crew) : Nat := if isReeve k then 16 + clusterOf k else jobOf s c

/-- The target of a fetch. A Reeve's fetch outside both windows faults with PAGE_ATTR (R383). -/
def fetchTarget (s : State) (k : Nat) (c : Crew) (va : Word) : Translation × State :=
  if isReeve k then (physicalTarget va, s)
  else
    match tlbHit s (coreOf k) (jobOf s c) va .fetch with
    | some r => (r, spend s 1)
    | none => translate (spend s 1) (some (coreOf k)) (jobOf s c) va .fetch

/-- The line of an instruction cache that holds an address. -/
def cachedLine (s : State) (core job line : Nat) : Option ICacheLine :=
  (coreAt s core).icache.find? fun l => l.job == job && l.line == line

/-- Fetches the word at an address: a cause code, or the word. -/
def fetchWord (s : State) (k : Nat) (c : Crew) (va : Word) : Except (BitVec 8) Word × State :=
  let job := fetchJob s k c
  let line := va.toNat / 64
  let fresh (s : State) : Except (BitVec 8) Word × State :=
    match fetchTarget s k c va with
    | (.error f, s) => (.error f, s)
    | (.ok t, s) =>
      let base := t.addr / 64 * 64
      let s' := if hbmReady s base 64 then afterRead (hostTakes s base 64) base 64 else balkAt s base 64
      if (poisonAt s t.addr 8).isSome then (.error 0x40, s')
      else
        let bs := hbmBytesAt s base 64
        let core := coreAt s' (coreOf k)
        let l : ICacheLine := { job := job, line := line, bytes := bs }
        let keep := core.icache.filter fun m => !(m.job == job && m.line == line)
        -- A line of which a sector is poisoned is not kept: a fetch from that sector meets its poison (R284).
        let lines := if touchesPoison s (cellOf base) 64 then keep else l :: keep
        (.ok (bytesWord ((bs.drop (t.addr % 64)).take 8)), putCore s' (coreOf k) { core with icache := lines })
  match cachedLine s (coreOf k) job line with
  | some l =>
    if freeBit s.free then (.ok (bytesWord ((l.bytes.drop (va.toNat % 64)).take 8)), spend s 1) else fresh (spend s 1)
  | none => fresh s

end Sys2Proof.Machine
end

