-- ==== Sys2Proof/Machine/Flow.lean ====
section
/-!
DEFINITION. Branches (R124, R125), hardware loops (R126-R129), RVZ (R113), EXIT (R131) and QPUSH (R120-R123).
-/
namespace Sys2Proof.Machine

/-- Whether an address lies in a loop's body, pc + 8 to last, inclusive (R126). -/
def inBody (l : Loop) (a : Word) : Bool := decide (l.start.toNat ≤ a.toNat) && decide (a.toNat ≤ l.last.toNat)

/-- The loops that stay active after a taken branch: those whose body does not hold the target are removed, innermost
first (R129). -/
def loopsAfterBranch (loops : List Loop) (target : Word) : List Loop := loops.dropWhile fun l => !inBody l target

/-- A taken BR, BRC, JMP or BRQ: MISALIGN when the target is not a multiple of 8 (R124). -/
def takeBranch (s : State) (str : Stream) (c : Crew) (target : Word) : Effect :=
  if target.toNat % 8 ≠ 0 then .trap 0x05 target
  else .jump s c target (loopsAfterBranch (c.stream str).loops target)

/-- A transfer that leaves loop state unchanged: CALL and RET (R129). -/
def takeTransfer (s : State) (str : Stream) (c : Crew) (target : Word) : Effect :=
  if target.toNat % 8 ≠ 0 then .trap 0x05 target else .jump s c target (c.stream str).loops

/-- The link register of a stream (R125). -/
def linkReg : Stream → BitVec 6
  | .s => 62
  | .v => 63

/-- BR (R124). -/
def execBr (o : FmtB) (s : State) : Out :=
  runWord s .both false none [] [] fun s _ str c => takeBranch s str c (branchTarget (c.stream str).pc o.off)

/-- BRC (R124, R125): RA names a predicate; 12 to 63 is illegal, as its decoding says. -/
def execBrc (o : FmtB) (s : State) : Out :=
  runWord s .both false none [(.p, o.ra.toNat, o.la)] [(.p, o.ra.toNat)] fun s _ str c =>
    if (readP s c 0 o.ra.toNat).getLsbD 0 then takeBranch s str c (branchTarget (c.stream str).pc o.off) else .done s c

/-- JMP (R124): a poisoned xA traps with POISON. -/
def execJmp (o : FmtB) (s : State) : Out :=
  runWord s .both false none [(.x, o.ra.toNat, o.la)] [(.x, o.ra.toNat)] fun s _ str c =>
    match poisonedX s c [(0, o.ra)] with
    | some a => .trap 0x04 a
    | none => takeBranch s str c (readX s c 0 o.ra + o.off.signExtend 64 * 8)

/-- CALL (R124, R125): the link register takes the address after the word, with bound 1. -/
def execCall (o : FmtB) (s : State) : Out :=
  runWord s .both false none [] [] fun s _ str c =>
    let pc := (c.stream str).pc
    takeTransfer s str (pendX c str (linkReg str) (pc + 8) false 1) (branchTarget pc o.off)

/-- RET (R124, R125). -/
def execRet (_ : FmtB) (s : State) : Out :=
  runWord s .both false none [] [] fun s _ str c =>
    match deadSource c [(.x, (linkReg str).toNat)] with
    | some a => .trap 0x03 a
    | none =>
      if lateRead c (linkReg str).toNat then .stall s else
      match poisonedX s c [(0, linkReg str)] with
      | some a => .trap 0x04 a
      | none => takeTransfer s str c (readX s c 0 (linkReg str))

/-- The entry that a pop of this count takes: the oldest, unless it was pushed in this very count (R110, R122). -/
def popped (c : Crew) (q : List QEntry) : Option QEntry :=
  match q with
  | e :: _ => if e.pushedAt < c.counter then some e else none
  | [] => none

/-- BRQ (R120-R124): pops the branch-outcome queue; an empty one is illegal (0x3), an entry not yet filled stalls (R121), and
a poisoned one traps with 0xC0. -/
def execBrq (o : FmtB) (s : State) : Out :=
  runWord s .v false none [] [] fun s _ str c =>
    match popped c c.brQ with
    | none => .trap 0x01 3
    | some e =>
      if e.src.isSome then .stall s
      else if e.poison then .trap 0x04 0xC0
      else
        let c := { c with brQ := c.brQ.tail }
        if e.val.getLsbD 0 then takeBranch s str c (branchTarget (c.stream str).pc o.off) else .done s c

/-- The checks of a loop word, in their order (R127): ILLEGAL_LOOP names the address of the word at last. -/
def loopCheck (s : State) (k : Nat) (c : Crew) (st : StreamState) (last : Word) : Except (BitVec 8 × Word) Unit × State :=
  match fetchWord s k c last with
  | (.error f, s) => (.error (f, last), s)
  | (.ok w, s) =>
    let major := bits w 53 47
    let nested := match st.loops with | [l] => decide (last.toNat > l.last.toNat) | _ => false
    if decide (2 ≤ major ∧ major ≤ 9) || decide (st.loops.length ≥ 2) || nested then (.error (0x02, last), s)
    else (.ok (), s)

/-- A loop word whose checks are made: it stalls while the word at last cannot be read (R276). -/
def checkedLoop (s : State) (k : Nat) (c : Crew) (str : Stream) (last : Word) (body : State → Effect) : Effect :=
  match loopCheck s k c (c.stream str) last with
  | (r, t) =>
    if t.balked then .stall (keepWalks s t)
    else
      match r with
      | .error (f, a) => .trap f a
      | .ok _ => body t

/-- What follows the checks: a count of 0 skips the body, any other creates a loop (R127). -/
def enterLoop (s : State) (str : Stream) (c : Crew) (last count : Word) : Effect :=
  let st := c.stream str
  if count = 0 then
    match st.loops with
    | l :: _ =>
      if l.last = last then
        let (pc, loops) := wordAfter { st with pc := last }
        .jump s c pc loops
      else .jump s c (last + 8) st.loops
    | [] => .jump s c (last + 8) []
  else .jump s c (st.pc + 8) ({ start := st.pc + 8, last := last, remaining := count } :: st.loops)

/-- LOOP (R126, R127): the checks come before the count is read, so before REG_DEAD and POISON. -/
def execLoop (o : FmtLoop) (s : State) : Out :=
  runWord s .both false none [(.x, o.ra.toNat, o.la)] [] fun s k str c =>
    let last := (c.stream str).pc + o.last.zeroExtend 64 * 8
    checkedLoop s k c str last fun s' =>
      match deadSource c [(.x, o.ra.toNat)] with
      | some a => .trap 0x03 a
      | none =>
        if lateRead c o.ra.toNat then .stall s' else
        match poisonedX s' c [(0, o.ra)] with
        | some a => .trap 0x04 a
        | none => enterLoop s' str c last (readX s' c 0 o.ra)

/-- LOOPI (R126, R127). -/
def execLoopi (o : FmtLoopI) (s : State) : Out :=
  runWord s .both false none [] [] fun s k str c =>
    let last := (c.stream str).pc + o.last.zeroExtend 64 * 8
    checkedLoop s k c str last fun s' => enterLoop s' str c last (o.count.zeroExtend 64)

/-- Whether the V-stream's due word pops a queue in this count: a BRQ that finds a filled and unpoisoned entry the
branch-outcome queue, a VMOVS from dq that finds a filled one the data queue, unless its guard, which it reads as the word after
this one, suppresses it or makes it trap (R110, R119, R208). A word that traps pops nothing. -/
def vPops (s : State) (c : Crew) (branch : Bool) : Bool :=
  isDue c .v &&
    match c.v.fetched with
    | some w =>
      match decodeWord w with
      | .ok (.brq _) => branch && ((popped c c.brQ).any fun e => e.src.isNone && !e.poison)
      | .ok (.vmovsDq o) =>
        !branch && ((popped c c.dataQ).any fun e => e.src.isNone) && (deadSource c [(.p, o.pred.toNat)]).isNone &&
          (readP (spend s 16) c 9 o.pred.toNat).getLsbD 0 != o.pn
      | _ => false
    | none => false

/-- Whether a push finds room; the pop of the same count comes first (R110, R122). -/
def pushRoom (s : State) (c : Crew) (branch : Bool) : Bool :=
  if branch then decide (c.brQ.length < Config.branchQueueEntries + (if vPops s c true then 1 else 0))
  else decide (c.dataQ.length < Config.dataQueueEntries + (if vPops s c false then 1 else 0))

/-- Adds an entry to a queue. -/
def pushEntry (c : Crew) (branch : Bool) (e : QEntry) : Crew :=
  if branch then { c with brQ := c.brQ ++ [e] } else { c with dataQ := c.dataQ ++ [e] }

/-- The youngest load of the S-stream in flight to a register, if it is the register's youngest in-flight writer (R121). -/
def fillingLoad (c : Crew) (r : Nat) : Option (Pend 64) :=
  match (c.pendX.filter fun p => p.reg == r && p.str == .s && decide (p.issued < c.counter)).getLast? with
  | some p => if p.load then some p else none
  | none => none

/-- The entry that a load in flight fills: at once where its data has arrived ahead of its bound, else when it comes (R121). -/
def loadEntry (c : Crew) (branch : Bool) (p : Pend 64) : QEntry :=
  { src := if p.ready then none else some p.seq, val := if !p.ready then 0 else if branch then p.val &&& 1 else p.val,
    poison := p.ready && p.poison, pushedAt := c.counter }

/-- QPUSH (R120-R123). -/
def execQpush (o : FmtA) (s : State) : Out :=
  runWord s .s false (guardA o) (freesA o) (readsA o 1) fun s _ _ c =>
    let branch := o.mod.getLsbD 0
    let full := if branch then (4 : Word) else 2
    match fillingLoad c o.ra.toNat with
    | some p => if pushRoom s c branch then .done s (pushEntry c branch (loadEntry c branch p)) else .trap 0x01 full
    | none =>
      let p := tagX s c 0 o.ra
      let v := resultX s p (readX s c 0 o.ra)
      if branch && p then .trap 0x04 (regCode .x o.ra.toNat)
      else if pushRoom s c branch then
        .done s (pushEntry c branch { src := none, val := if branch then v &&& 1 else v, poison := p, pushedAt := c.counter })
      else .trap 0x01 full

/-- The other stream. -/
def otherStream : Stream → Stream
  | .s => .v
  | .v => .s

/-- RVZ (R113): the first waits, the later joins both streams at its count; with an exited partner it is illegal (0x5). Beside
its partner's EXIT of the same count it issues, and waits for nothing: the trap of a waiting RVZ follows (log 55). -/
def execRvz (o : FmtA) (s : State) : Out :=
  runWord s .both false none [] [] fun s _ str c =>
    let other := c.stream (otherStream str)
    if other.exited && other.last != some c.counter then .trap 0x01 5
    else
      let c := match str with
        | .s => { c with epochS := c.epochS + 1 }
        | .v => { c with epochV := c.epochV + 1 }
      match other.rvz with
      | some _ => .done s (c.setStream (otherStream str) { other with rvz := none, last := some c.counter })
      | none =>
        let st := c.stream str
        .done s (c.setStream str { st with rvz := some (c.counter, st.pc, o.gap.toNat), rvzLoops := st.loops })

/-- The stream that waits at an RVZ which can never be joined, its partner having exited (R113). -/
def orphan (c : Crew) : Option Stream :=
  if c.s.rvz.isSome && c.v.exited then some .s else if c.v.rvz.isSome && c.s.exited then some .v else none

/-- A crew whose stream waits at an RVZ, with that word due again at the count that stands, as though it had not completed: its
loops are as before it, and it is not counted among the RVZ words of its stream (R113, R128). -/
def dueAgain (c : Crew) (str : Stream) : Crew :=
  let st := c.stream str
  match st.rvz with
  | none => c
  | some (_, pc, gap) =>
    let c := match str with
      | .s => { c with epochS := c.epochS - 1 }
      | .v => { c with epochV := c.epochV - 1 }
    c.setStream str { st with rvz := none, pc := pc, loops := st.rvzLoops, fetched := none, last := some (c.counter - 1 - gap) }

/-- A crew at its resumption: an RVZ that can never be joined issues again at the count that stands, where it traps (R113). -/
def retested (c : Crew) : Crew := match orphan c with | some str => dueAgain c str | none => c

/-- EXIT (R131, R129): the stream issues nothing more and its loops are removed. -/
def execExit (_ : FmtA) (s : State) : Out :=
  runWord s .both false none [] [] fun s _ str c =>
    let st := c.stream str
    .jump s (c.setStream str { st with exited := true }) (st.pc + 8) []

end Sys2Proof.Machine
end

