-- ==== Sys2Proof/Machine/Context.lean ====
section
/-!
DEFINITION. The save area of a crew (R396, Table 14.8): its doublewords, writing a context there and reading it back, and the
operand-log entries made again from their words (R392, R393). The manual leaves the layout inside the compound fields open;
log 25 gives the one chosen here.
-/
namespace Sys2Proof.Machine
open Sys2Proof.Config

/-! ### What a logged word is -/

/-- The kind, ordering and destination of a scalar memory word's entry. -/
def logKindOf : Instr → Option (LogKind × BitVec 3 × Nat)
  | .ldb o => some (.load 1 false, o.ord, o.rd.toNat)
  | .ldbz o => some (.load 1 true, o.ord, o.rd.toNat)
  | .ldh o => some (.load 2 false, o.ord, o.rd.toNat)
  | .ldhz o => some (.load 2 true, o.ord, o.rd.toNat)
  | .ldw o => some (.load 4 false, o.ord, o.rd.toNat)
  | .ldwz o => some (.load 4 true, o.ord, o.rd.toNat)
  | .ldd o => some (.load 8 false, o.ord, o.rd.toNat)
  | .lds o => some (.loadSpec, 0, o.rd.toNat)
  | .stb o => some (.store 1, o.ord, 0)
  | .sth o => some (.store 2, o.ord, 0)
  | .stw o => some (.store 4, o.ord, 0)
  | .std o => some (.store 8, o.ord, 0)
  | .aadd o => atomic 0 o
  | .amin o => atomic 1 o
  | .amax o => atomic 2 o
  | .aand o => atomic 3 o
  | .aor o => atomic 4 o
  | .axor o => atomic 5 o
  | .aswp o => atomic 6 o
  | .acas o => atomic 7 o
  | .afadd o => atomic 8 o
  | .msemsig _ => some (.msemsig, 3, 0)
  | .msemwait _ => some (.msemwait, 2, 0)
  | .semsig o => some (.semsig o.rd.toNat, 0, 0)
  | .seminit o => some (.seminit o.rd.toNat, 0, 0)
  | .fence o => some (.fence (o.mod.extractLsb' 3 3) true, o.mod.extractLsb' 3 3, 0)
  | .fenceAll o => some (.fence (o.mod.extractLsb' 3 3) false, o.mod.extractLsb' 3 3, 0)
  | .spawn o => some (.spawn, 3, o.rd.toNat)
  | .joindec o => some (.joindec, 3, o.rd.toNat)
  | .waitc o => some (.waitc, 2, o.rd.toNat)
  | _ => none
where
  /-- The entry of an atomic. -/
  atomic (op : BitVec 4) (o : FmtA) : Option (LogKind × BitVec 3 × Nat) :=
    some (.atomic op o.ty (!o.mod.getLsbD 0), o.mod.extractLsb' 3 3, o.rd.toNat)

/-- The kind and fields of an engine command's word. -/
def commandOf : Instr → Option (EngKind × FmtC)
  | .tld o => some (.tld, o)
  | .tst o => some (.tst, o)
  | .tmov o => some (.tmov, o)
  | .tcopy2d o => some (.tcopy2d, o)
  | .clist o => some (.clist, o)
  | .trope o => some (.trope, o)
  | .glcfg o => some (.glcfg, o)
  | .glgo o => some (.glgo, o)
  | .mcfg o => some (.mcfg, o)
  | .mgo o => some (.mgo, o)
  | .mclaim o => some (.mclaim, o)
  | .mrel o => some (.mrel, o)
  | .mldo o => some (.mldo, o)
  | .mret o => some (.mret, o)
  | .mcell o => some (.mcell, o)
  | .bqcmd o => some (.bqcmd, o)
  | .bqload o => some (.bqload, o)
  | .winfence o => some (.winfence, o)
  | .fld o => some (.fld, o)
  | .fst o => some (.fst, o)
  | .fget o => some (.fget, o)
  | .fput o => some (.fput, o)
  | .ffadd o => some (.ffadd, o)
  | .fmcast o => some (.fmcast, o)
  | .fsig o => some (.fsig, o)
  | _ => none

/-! ### The doublewords of a context -/

/-- An optional count; all ones stands for none. -/
def countWord : Option Nat → Word
  | some n => BitVec.ofNat 64 n
  | none => BitVec.allOnes 64

/-- The three doublewords of a loop; zeros for none. -/
def loopWords : Option Loop → List Word
  | some l => [l.start &&& 0xFFFFFFFFFFFF, l.last &&& 0xFFFFFFFFFFFF, l.remaining]
  | none => [0, 0, 0]

/-- Entries of a crew's operand log before the last RVZ that joined its streams (R329). -/
def joinedBefore (c : Crew) : Nat := (c.log.filter fun e => decide (e.epoch < min c.epochS c.epochV)).length

/-- The doublewords of a crew's S-stream, with that number in bits 63-48 of the last address word. -/
def sStreamWords (c : Crew) (w : List Word) : List Word :=
  w.set 6 (w.getD 6 0 ||| BitVec.ofNat 64 (joinedBefore c % 65536 * 2 ^ 48))

/-- A stream's 64 bytes: PC, the GAP of a waiting RVZ in bits 57-48, exited in bit 62, waiting in bit 63; count; the loops, with
the RVZ's address in bits 63-48 of the first three of their address words. -/
def streamWords (st : StreamState) : List Word :=
  let flags := (match st.rvz with | some (_, _, g) => 2 ^ 63 + g % 1024 * 2 ^ 48 | none => 0) +
    (if st.exited then 2 ^ 62 else 0)
  let at_ := match st.rvz with | some (_, a, _) => a.toNat | none => 0
  let part (i : Nat) : Word := BitVec.ofNat 64 (at_ / 2 ^ (16 * i) % 65536 * 2 ^ 48)
  let l := loopWords st.loops[0]? ++ loopWords st.loops[1]?
  [(st.pc &&& 0xFFFFFFFFFFFF) ||| BitVec.ofNat 64 flags, countWord st.last, l.getD 0 0 ||| part 0, l.getD 1 0 ||| part 1,
   l.getD 2 0, l.getD 3 0 ||| part 2, l.getD 4 0, l.getD 5 0]

/-- The stream of its eight doublewords. -/
def streamOf (w : List Word) : StreamState :=
  let d := w.getD 0 0
  let last := w.getD 1 0
  let loopAt (i : Nat) : List Loop :=
    if w.getD (i + 2) 0 = 0 then []
    else [{ start := w.getD i 0 &&& 0xFFFFFFFFFFFF, last := w.getD (i + 1) 0 &&& 0xFFFFFFFFFFFF, remaining := w.getD (i + 2) 0 }]
  let at_ := bits (w.getD 2 0) 63 48 + bits (w.getD 3 0) 63 48 * 2 ^ 16 + bits (w.getD 5 0) 63 48 * 2 ^ 32
  let count := if last = BitVec.allOnes 64 then none else some last.toNat
  { pc := BitVec.ofNat 64 (bits d 47 0), last := count, fetched := none,
    rvz := if d.getLsbD 63 then some (count.getD 0, BitVec.ofNat 64 at_, bits d 57 48) else none,
    exited := d.getLsbD 62, loops := loopAt 2 ++ loopAt 5, rvzLoops := loopAt 2 ++ loopAt 5 }

/-- A tile register's two doublewords: its marks, its buffer's mode, DIR, NSLOT, FREE and FILL; ci, ki and the stride. -/
def tileWords (c : Crew) (cmds : List EngCmd) (t : Nat) : List Word :=
  let w := (cmds.filter (·.writes.contains t)).length
  let r := (cmds.filter (·.reads.contains t)).length
  match mapGet c.circ t with
  | some b =>
    [BitVec.ofNat 64 (w % 2 ^ 16 + r % 2 ^ 16 * 2 ^ 16 + 2 ^ 32 + (if b.out then 2 ^ 33 else 0) + b.nslot % 512 * 2 ^ 34 +
      b.free % 512 * 2 ^ 43 + b.fill % 512 * 2 ^ 52),
     BitVec.ofNat 64 (b.ci % 256 + b.ki % 256 * 256 + b.stride % 2 ^ 32 * 2 ^ 32)]
  | none => [BitVec.ofNat 64 (w % 2 ^ 16 + r % 2 ^ 16 * 2 ^ 16), 0]

/-- The circular buffer of a tile register's two doublewords. -/
def circOf (d0 d1 : Word) : Option CircBuf :=
  if d0.getLsbD 32 then
    some { out := d0.getLsbD 33, nslot := bits d0 42 34, stride := bits d1 63 32, free := bits d0 51 43, fill := bits d0 60 52,
           ci := bits d1 7 0, ki := bits d1 15 8, releasing := [] }
  else none

/-- Bits of a list of flags, element i in bit i. -/
def flagBits (l : List Bool) : Nat := (l.zipIdx).foldl (fun a q => if q.1 then a + 2 ^ q.2 else a) 0

/-- Sixteen-bit numbers packed four to a doubleword, n doublewords. -/
def packed16 (n : Nat) (l : List Nat) : List Word :=
  (List.range n).map fun i =>
    BitVec.ofNat 64 ((List.range 4).foldl (fun a j => a + l.getD (4 * i + j) 0 % 65536 * 2 ^ (16 * j)) 0)

/-- The live-index, plus 1, of the entry that fills a queue entry; 0 for a filled one. -/
def fillerIndex (c : Crew) (e : QEntry) : Nat :=
  match e.src with
  | some seq => liveIndex c seq + 1
  | none => 0

/-- The two queues' 256 bytes: 16 data entries; data tags, head and count; branch bits, head and count; branch tags; fillers. -/
def queueWords (c : Crew) : List Word :=
  let n := c.dataQ.length
  let m := c.brQ.length
  ((List.range 16).map fun i => match c.dataQ[i]? with | some e => e.val | none => 0) ++
  [BitVec.ofNat 64 (flagBits (c.dataQ.map (·.poison)) + n * 2 ^ 24),
   BitVec.ofNat 64 (flagBits (c.brQ.map (·.val.getLsbD 0)) + m * 2 ^ 40),
   BitVec.ofNat 64 (flagBits (c.brQ.map (·.poison)))] ++
  packed16 4 (c.dataQ.map (fillerIndex c)) ++ packed16 8 (c.brQ.map (fillerIndex c)) ++ [0]

/-- The Gleaner context's 64 bytes of configuration and cursor, and its offset queue. -/
def gleanerWords (g : Gleaner) : List Word :=
  let conf := g.ibase.toNat + (g.rate - 1) * 2 ^ 32 + (if g.rle then 2 ^ 40 else 0) + g.tile % 16 * 2 ^ 48 +
    (if g.configured then 2 ^ 63 else 0)
  let filled := (g.queue.filter Option.isSome).length
  [g.tdef, BitVec.ofNat 64 conf, BitVec.ofNat 64 g.mpos, BitVec.ofNat 64 g.m, BitVec.ofNat 64 g.p, BitVec.ofNat 64 g.run,
   BitVec.ofNat 64 (g.queue.length + filled * 2 ^ 16), 0] ++
  (List.range 256).map fun i =>
    let at_ (j : Nat) : Nat := match g.queue[j]? with | some (some v) => v.toNat | _ => 0
    BitVec.ofNat 64 (at_ (2 * i) + at_ (2 * i + 1) * 2 ^ 32)

/-- An entry of the operand log (Table 14.6). An entry that waits behind a faulted one is kept for re-issue with it. -/
def entryWords (e : LogEntry) : List Word :=
  let isCmd := match e.kind with | .cmd => true | _ => false
  [BitVec.ofNat 64 (2 ^ 63 + (if e.faulted then 2 ^ 62 else 0) + (if e.ri then 2 ^ 61 else 0) +
      (if isCmd then 2 ^ 60 else 0) + (if e.faulted then e.code.toNat * 2 ^ 48 else 0) + e.pc.toNat % 2 ^ 48),
   BitVec.ofNat 64 e.cnt, e.word, e.opa, e.opb, e.opc, 0, 0]

/-- Pads a list of doublewords with zeros. -/
def padWords (n : Nat) (l : List Word) : List Word := l ++ List.replicate (n - l.length) 0

/-- The freed registers of a file as bits. -/
def freedBits (c : Crew) (f : RegFile) : Word :=
  c.freed.foldl (fun w e => if e.file = f then w ||| (1#64 <<< e.reg) else w) 0

/-- The 64 KiB of a crew's save area (Table 14.8); the commands are those whose marks its tile registers carry. -/
def contextWords (s : State) (k : Nat) (c : Crew) (cmds : List EngCmd) (state : Nat) (image : Nat) : List Word :=
  let docket := match unitOf s c with | some u => padWords 8 (u.docket.take 8) | none => List.replicate 8 0
  docket ++
  [BitVec.ofNat 64 c.crewId, BitVec.ofNat 64 state,
   BitVec.ofNat 64 (coreOf k + (if image ≠ 0 then 256 else 0) + (if c.claim.isSome then 512 else 0)), BitVec.ofNat 64 image,
   0, 0, 0, 0] ++
  c.x.toList ++ [c.xPoison, freedBits c .x, freedBits c .v, freedBits c .p, 0, 0, 0, 0] ++
  (c.pr.toList.flatMap fun p => (List.range 4).map fun i => p.extractLsb' (64 * i) 64) ++
  [c.fflags, c.frm, c.srseed, c.srstrm, c.srctr, c.mflags, c.strict, BitVec.ofNat 64 c.counter, c.trapcause, c.trappc,
   c.trapaddr, if c.step then 1 else 0, 0, 0, 0, 0] ++
  c.tdef.toList ++ ((List.range 16).flatMap (tileWords c cmds)) ++ sStreamWords c (streamWords c.s) ++ streamWords c.v ++ queueWords c ++
  c.shadow.toList ++ [c.pattern, BitVec.ofNat 64 c.plen, c.claim.getD 0,
    BitVec.ofNat 64 ((if c.claim.isSome then 1 else 0) + (if c.claimGranted then 2 else 0)), 0, 0, 0, 0, 0] ++
  gleanerWords c.gleaner ++ List.replicate 16 0 ++ padWords 5376 ((c.log.take 672).flatMap entryWords) ++
  List.replicate 224 0 ++ (c.vr.toList.flatMap fun v => (List.range 64).map fun i => v.extractLsb' (64 * i) 64)

/-! ### Reading a context back -/

/-- n doublewords from position i. -/
def slice (w : List Word) (i n : Nat) : List Word := (w.drop i).take n

/-- A log entry of its eight doublewords, under a new number: unfaulted entries wait for re-issue with the others. -/
def entryOf (seq : Nat) (w : List Word) : Option LogEntry :=
  let d := w.getD 0 0
  let word := w.getD 2 0
  let base (kind : LogKind) (ord : BitVec 3) (rd : Nat) : LogEntry :=
    { seq := seq, kind := kind, pc := BitVec.ofNat 64 (bits d 47 0), cnt := (w.getD 1 0).toNat, word := word, opa := w.getD 3 0,
      opb := w.getD 4 0, opc := w.getD 5 0, ord := ord, faulted := d.getLsbD 62, code := d.extractLsb' 48 8,
      addr := w.getD 3 0, ri := d.getLsbD 61, phase := .translating, target := none, rd := rd, cmdId := seq, epoch := 0,
      data := [], tag := none, again := true }
  if !d.getLsbD 63 then none
  else if d.getLsbD 60 then some (base .cmd 0 0)
  else
    match decodeWord word with
    | .error _ => none
    | .ok i => (logKindOf i).map fun q => base q.1 q.2.1 q.2.2

/-- The log of 672 entries. An entry of a word that the crew's present log holds keeps its number; the others take numbers
from the given one on. -/
def logOf (old : List LogEntry) (w : List Word) (seq : Nat) : List LogEntry :=
  (List.range 672).filterMap fun i =>
    let d := slice w (8 * i) 8
    match old.find? fun e => BitVec.ofNat 64 e.cnt == d.getD 1 0 && e.word == d.getD 2 0 with
    | some e => (entryOf e.seq d).map fun n => { n with phase := e.phase, target := e.target, epoch := e.epoch }
    | none => entryOf (seq + i) d

/-- Whether an entry delivers a result to a register. -/
def entryReturns (e : LogEntry) : Bool :=
  match e.kind with
  | .load _ _ | .loadSpec | .spawn | .joindec => true
  | .atomic _ _ r => r
  | _ => false

/-- The pending writes of re-issued entries: each lands when its access does, with its bound where it was (R393). -/
def pendsOf (log : List LogEntry) : List (Pend 64) :=
  (log.filter fun e => entryReturns e && e.rd != 0).map fun e =>
    { reg := e.rd, mask := BitVec.allOnes 64, val := 0, poison := false, issued := e.cnt, land := .count (e.cnt + 400),
      ready := false, seq := e.seq, str := .s, again := true,
      load := match e.kind with | .load _ _ | .loadSpec => true | _ => false }

/-- Freed registers of a file from their bits. -/
def freedOf (f : RegFile) (w : Word) : List Freed :=
  ((List.range 64).filter (w.getLsbD ·)).map fun i => { file := f, reg := i, count := 0 }

/-- Queue entries from their values, tags and fillers. -/
def qEntriesOf (log : List LogEntry) (n : Nat) (val : Nat → Word) (tag : Nat → Bool) (filler : Nat → Nat) : List QEntry :=
  (List.range n).map fun i =>
    { src := if filler i = 0 then none else (log[filler i - 1]?).map (·.seq), val := val i, poison := tag i, pushedAt := 0 }

/-- The sixteen-bit number at position i of packed doublewords. -/
def unpack16 (w : List Word) (i : Nat) : Nat := (w.getD (i / 4) 0).toNat / 2 ^ (16 * (i % 4)) % 65536

/-- The Gleaner context of its doublewords. -/
def gleanerOf (w : List Word) : Gleaner :=
  let conf := w.getD 1 0
  let n := bits (w.getD 6 0) 15 0
  let filled := bits (w.getD 6 0) 31 16
  { configured := conf.getLsbD 63, tile := bits conf 51 48, tdef := w.getD 0 0, ibase := conf.truncate 32, rate := bits conf 34 32 + 1,
    rle := conf.getLsbD 40, mpos := (w.getD 2 0).toNat, m := (w.getD 3 0).toNat, p := (w.getD 4 0).toNat,
    run := (w.getD 5 0).toNat,
    queue := (List.range n).map fun i =>
      if i < filled then some (BitVec.ofNat 32 ((w.getD (8 + i / 2) 0).toNat / 2 ^ (32 * (i % 2)))) else none }

/-- A crew with the context of a save area; its identity, its claim set and its bench's own state stay (R399). -/
def loadContext (c : Crew) (w : List Word) (seq : Nat) : Crew :=
  let before := bits (w.getD 206 0) 63 48
  let log := (logOf c.log (slice w 544 5376) seq).zipIdx.map fun q => { q.1 with epoch := if q.2 < before then 0 else 1 }
  let vs := streamOf (slice w 208 8)
  let ss := streamOf (slice w 200 8)
  let q := slice w 216 32
  let n := bits (q.getD 16 0) 28 24
  let m := bits (q.getD 17 0) 45 40
  let csr (i : Nat) : Word := w.getD (136 + i) 0
  { c with
    x := Vector.ofFn fun i : Fin 64 => if i.val = 0 then 0 else w.getD (16 + i.val) 0
    xPoison := w.getD 80 0 &&& ~~~1
    freed := freedOf .x (w.getD 81 0) ++ freedOf .v (w.getD 82 0 &&& 0xFFFFFFFF) ++ freedOf .p (w.getD 83 0 &&& 0xFFF)
    pr := Vector.ofFn fun i : Fin 12 =>
      if i.val = 0 then BitVec.allOnes 256 else BitVec.ofNat 256 (wordsValue (slice w (88 + 4 * i.val) 4))
    -- Reserved fields of the CSRs read as zero (R8); LVLSEL is zero at a resumption (R412).
    fflags := csr 0 &&& 0x1F, frm := csr 1 &&& 7, srseed := csr 2, srstrm := csr 3 &&& 0xFFFFFFFF, srctr := csr 4
    mflags := csr 5 &&& 0x17, strict := csr 6 &&& 1, counter := (csr 7).toNat, trapcause := csr 8 &&& 0xFFFF
    trappc := csr 9 &&& 0xFFFFFFFFFFFF, trapaddr := csr 10, step := (csr 11).getLsbD 0, stepAt := none, lvlsel := 0
    tdef := Vector.ofFn fun i : Fin 16 => tileDefinition (w.getD (152 + i.val) 0)
    circ := (List.range 16).filterMap fun t => (circOf (w.getD (168 + 2 * t) 0) (w.getD (169 + 2 * t) 0)).map fun b => (t, b)
    s := ss, v := vs
    dataQ := qEntriesOf log n (q.getD · 0) ((q.getD 16 0).getLsbD ·) (unpack16 (slice q 19 4))
    brQ := qEntriesOf log m (fun i => if (q.getD 17 0).getLsbD i then 1 else 0) ((q.getD 18 0).getLsbD ·)
      (unpack16 (slice q 23 8))
    shadow := Vector.ofFn fun i : Fin 7 => w.getD (248 + i.val) 0
    pattern := w.getD 255 0, plen := (w.getD 256 0).toNat
    gleaner := gleanerOf (slice w 264 264)
    pendX := pendsOf log, pendV := [], pendP := [], csrPend := [], pendF := [], pipes := []
    -- Gleaner commands under way go on (R241).
    glCmds := c.glCmds.filter fun e => log.any (·.seq == e.seq)
    -- The entries before the last RVZ that joined the streams stay before it (R329, R393).
    log := log, vstores := [], served := [], late := [], waitValue := none,
    epochS := if ss.rvz.isSome then 2 else 1, epochV := if vs.rvz.isSome then 2 else 1
    vr := Vector.ofFn fun i : Fin 32 => BitVec.ofNat 4096 (wordsValue (slice w (6144 + 64 * i.val) 64)) }

/-! ### Reaching a save area -/

/-- The save area of a member (R396). -/
def saveArea (docket : List Word) (member : Nat) : Nat := Docket.save docket + member * 0x10000

/-- Reads a save area through a job's translation. -/
def readContext (s : State) (core job va : Nat) : Option (List Word) × State :=
  match readVirtual s core job va 65536 .load false with
  | (.ok bs, s) => (some (bytesWords 8192 bs), s)
  | (.error _, s) => (none, s)

/-- Writes a save area through a job's translation; false where an access faults. -/
def writeContext (s : State) (core job va : Nat) (w : List Word) : Bool × State :=
  match writeVirtual s core job va (w.flatMap wordBytes) false with
  | (.ok _, s) => (true, s)
  | (.error _, s) => (false, s)

/-- The level-0 regions of a crew's tile registers, in ascending number (R397). -/
def imageRegions (tdef : List Word) : List Region := (tdef.map regionOf).filter fun r => !r.empty && r.lvl == 0

/-- Writes the image of a crew's level-0 regions, contiguously from an address (R397). -/
def writeImage (s : State) (k job : Nat) (tdef : List Word) (va : Nat) : Bool × State :=
  let bs := (imageRegions tdef).flatMap fun r => r.read s k 0 r.size
  match writeVirtual s (coreOf k) job va bs false with
  | (.ok _, s) => (true, s)
  | (.error _, s) => (false, s)

/-- Copies an image back to the same level-0 addresses (R399). -/
def readImage (s : State) (k job va : Nat) : List Region → Bool × State
  | [] => (true, s)
  | r :: rest =>
    match readVirtual s (coreOf k) job va r.size .load false with
    | (.ok bs, s) => readImage (r.write s k 0 bs) k job (va + r.size) rest
    | (.error _, s) => (false, s)

/-! ### Re-issue (R393) -/

/-- A command of a crew's log that is issued again: one held at a fault goes on from its access (R228); any other re-enters its
queue behind the commands already there. Where a crew whose set is closed resumes on another core, its MLDO, MGO and MRET that
stood behind an issued MREL reach that core's slots and banks, of which it holds none (DESIGN CHOICE, log 81: R250 says only
that a crew with an open set resumes on its core). -/
def requeue (s : State) (k : Nat) (c : Crew) (l : LogEntry) : State :=
  if (coreCmds (coreAt s (coreOf k))).any (·.id == l.seq) then
    modCmd s (coreOf k) l.seq fun e => { e with held := false }
  else
  match decodeWord l.word with
  | .error _ => s
  | .ok i =>
    match commandOf i with
    | none => s
    | some (kind, o) =>
      let e := { makeCmd s k c kind o l.opa l.opb l.cnt with id := l.seq, seq := l.seq }
      match kind with
      | .glcfg | .glgo => modCrew s k fun c => { c with glCmds := c.glCmds ++ [e] }
      | _ =>
        let core := coreAt s (coreOf k)
        let core := if kind == .mclaim then { core with claims := core.claims ++ [{ crewId := c.crewId, set := l.opa, granted := false }] }
          else core
        putCore s (coreOf k) (setQueued core kind.queue (queued core kind.queue ++ [e]))

/-- Re-issues every entry of a resumed crew's log that is marked for it, in ascending CNT; a faulted entry that is not is freed,
once its cause has been taken (R392-R394). -/
def reissue (s : State) (k : Nat) : State :=
  match crewAt s k with
  | none => s
  | some c =>
    let c := retested c
    let again := c.log.filter (·.ri)
    let log := (c.log.filter fun e => e.ri || !e.faulted || c.late.contains e.seq).map fun e =>
      if e.ri then
        let isCmd := match e.kind with | .cmd => true | _ => false
        let noPage := match e.kind with | .semsig _ | .seminit _ | .fence _ false => true | _ => false
        { e with faulted := false, ri := false, code := 0, again := true,
                 phase := if isCmd || noPage then .going else .translating }
      else e
    let late := c.late.filter fun q => !(again.any (·.seq == q))
    let c := { c with log := log, late := late, pendX := c.pendX.map fun p =>
                 if again.any (·.seq == p.seq) && p.seq ≠ 0 then { p with again := true, land := .count (p.issued + 400) } else p }
    let s := putCrew s k c
    again.foldl (fun s e => match e.kind with | .cmd => requeue s k ((crewAt s k).getD c) e | _ => s) s

end Sys2Proof.Machine
end

