-- ==== Sys2Proof/Machine/Dispatcher.lean ====
section
/-!
DEFINITION. The Dispatcher: placing dockets on benches (R50-R58), promotion and reservations (R52, R53), creations that waited
for the store (R50), SPAWN's docket (R132), resuming and re-running (R399, R402, R403), and the retirement of crews (R410). -/
namespace Sys2Proof.Machine
open Sys2Proof.Config

/-! ### Benches -/

/-- A bench of an enabled core without a crew (R55). -/
def benchFree (s : State) (slot : Nat) : Bool :=
  decide (slot < benches) && !s.pkg.coredis.getLsbD (slot / 16) && (crewAt s slot).isNone

/-- The free benches of a cluster in order (R55). -/
def freeBenches (s : State) (cl : Nat) : List Nat := ((List.range 128).map (cl * 128 + ·)).filter (benchFree s)

/-- Whether a unit's AFF permits a cluster. -/
def permits (u : WorkUnit) (cl : Nat) : Bool := (Docket.aff u.docket).testBit cl

/-- The unit that holds a cluster's reservation (R53). -/
def reservation (s : State) (cl : Nat) : Option Nat := mapGet s.dispatcher.reserved cl

/-- The benches that a unit could take with the served one among them, lowest first: the served bench and the lowest-ordered
other free ones of its cluster (R57), each resumed member on the core it left (R58), none on the core to avoid (R403). -/
def placement (s : State) (u : WorkUnit) (slot : Nat) : Option (List Nat) :=
  let n := Docket.lsz u.docket + 1 - u.left.length
  let avail := (freeBenches s (clusterOf slot)).filter fun b => u.avoid != some (coreOf b)
  if !avail.contains slot then none
  else
    let homes := u.home.filterMap id
    if homes.isEmpty then
      let others := (avail.filter (· != slot)).take (n - 1)
      if others.length = n - 1 then some (others.foldl setInsert [slot]) else none
    else
      -- Members that left one core take the served bench, when it is theirs, and that core's lowest free ones.
      let cores := homes.eraseDups
      let take (core : Nat) : List Nat :=
        let m := (homes.filter (· == core)).length
        let own := avail.filter (coreOf · == core)
        if coreOf slot = core then ((own.filter (· != slot)).take (m - 1)).foldl setInsert [slot] else own.take m
      let all := (cores.flatMap take).foldl setInsert []
      if cores.contains (coreOf slot) && all.length == n then some all else none

/-- The benches of a gang that holds the cluster's reservation: the lowest free ones (R57). -/
def reservedPlacement (s : State) (u : WorkUnit) (cl : Nat) : Option (List Nat) :=
  (freeBenches s cl).findSome? (placement s u)

/-! ### Choosing (R51) -/

/-- The unplaced units of a priority, in queue order. -/
def waitingAt (s : State) (prio : Nat) : List WorkUnit :=
  (s.dispatcher.store.filterMap (mapGet s.units ·)).filter (·.prio == prio)

/-- The launches with a queue at a priority, each with its head, in ascending launch from the one after the last served. -/
def headsAt (s : State) (prio : Nat) : List WorkUnit :=
  let us := waitingAt s prio
  let ls := (us.map fun u => Docket.launch u.docket).foldl setInsert []
  let order := match mapGet s.dispatcher.lastServed prio with
    | some l => (ls.filter fun k => decide (l < k)) ++ (ls.filter fun k => decide (k ≤ l))
    | none => ls
  order.filterMap fun l => us.find? fun u => Docket.launch u.docket == l

/-- The unit that a free bench takes and its benches (R51, R53). A gang that holds a reservation waits for its cluster and is
placed in no other, although it heads its queue (DESIGN CHOICE, log 77: R53 says that it keeps the reservation until it is
dispatched). -/
def choose (s : State) (slot : Nat) : Option (WorkUnit × List Nat) :=
  let cl := clusterOf slot
  match reservation s cl with
  | some uid =>
    match mapGet s.units uid with
    | some u => (reservedPlacement s u cl).map fun bs => (u, bs)
    | none => none
  | none =>
    let heads := [7, 6, 5, 4, 3, 2, 1, 0].flatMap (headsAt s)
    heads.findSome? fun u =>
      if permits u cl && !(s.dispatcher.reserved.any (·.2 == u.uid)) then (placement s u slot).map fun bs => (u, bs) else none

/-! ### Starting a unit -/

/-- The snapshot block of a docket (R402). -/
def snapshotBlock (d : List Word) : Nat := Docket.save d + (Docket.lsz d + 1) * 0x10000

/-- The Dispatcher writes the first part of the snapshot block at the first dispatch (R402). -/
def writeSnapshot (s : State) (u : WorkUnit) (core : Nat) : Bool × State :=
  if Docket.rst u.docket && u.kind == .fresh then
    match writeVirtual s core (Docket.job u.docket) (snapshotBlock u.docket)
        ((padWords 8 u.docket ++ padWords 8 u.params).flatMap wordBytes) false with
    | (.ok _, s) => (true, s)
    | (.error _, s) => (false, s)
  else (true, s)

/-- Copies one restore entry (R402): false where an access faults. -/
def restoreEntry (s : State) (core job : Nat) (e : List Word) : Bool × State :=
  let n := bits (e.getD 2 0) 31 0
  match readVirtual s core job (e.getD 0 0).toNat n .load false with
  | (.error _, s) => (false, s)
  | (.ok bs, s) =>
    match writeVirtual s core job (e.getD 1 0).toNat bs false with
    | (.ok _, s) => (true, s)
    | (.error _, s) => (false, s)

/-- Copies the restore list of a re-run unit in ascending order (R402, R403); fuel is its length. -/
def restoreAll (s : State) (core job list : Nat) : Nat → Bool × State
  | 0 => (true, s)
  | fuel + 1 =>
    match readVirtual s core job list 32 .load false with
    | (.error _, s) => (false, s)
    | (.ok bs, s) =>
      match restoreEntry s core job (bytesWords 4 bs) with
      | (true, s) => restoreAll s core job (list + 32) fuel
      | r => r

/-- The copies that go before the first words of a re-run unit (R403). -/
def restoreUnit (s : State) (u : WorkUnit) (core : Nat) : Bool × State :=
  if u.kind != .rerun then (true, s)
  else
    let job := Docket.job u.docket
    match readVirtual s core job (snapshotBlock u.docket + 0x80) 16 .load false with
    | (.error _, s) => (false, s)
    | (.ok bs, s) =>
      let list := bits (bytesWord (bs.take 8)) 47 0
      let n := bits (bytesWord (bs.drop 8)) 15 0
      if list = 0 then (true, s) else restoreAll s core job list n

/-- Creates the crew of a member on a bench (R22, R60). -/
def startMember (s : State) (u : WorkUnit) (member slot crewId : Nat) : State :=
  let d := u.docket
  let c := Crew.create crewId u.uid member (BitVec.ofNat 64 (bits (d.getD 0 0) 47 0)) (BitVec.ofNat 64 (bits (d.getD 1 0) 47 0))
    (d.getD 2 0) u.params (Docket.strict d) s.free
  { putCrew (spend s 32) slot c with nextCrew := max s.nextCrew (crewId + 1) }

/-- Loads the context of a member from its save area on a bench (R399); false where an access faults. -/
def resumeMember (s : State) (u : WorkUnit) (member slot crewId : Nat) : Bool × State :=
  let job := Docket.job u.docket
  let area := saveArea u.docket member
  match readContext s (coreOf slot) job area with
  | (none, s) => (false, s)
  | (some w, s) =>
    let fresh := Crew.create crewId u.uid member 0 0 0 [] false s.free
    let c := loadContext fresh w s.stamp
    let mx := w.getD 258 0
    let c := { c with lvlsel := 0, claim := if mx.getLsbD 0 then some (w.getD 257 0) else none, claimGranted := mx.getLsbD 1 }
    let s := { putCrew (spend s 32) slot c with stamp := s.stamp + 672 }
    let left := bits (w.getD 10 0) 5 0
    let image := (w.getD 11 0).toNat
    let moved : Bool × State :=
      if left ≠ coreOf slot ∧ (w.getD 10 0).getLsbD 8 then readImage s slot job image (imageRegions c.tdef.toList) else (true, s)
    match moved with
    | (false, s) => (false, s)
    | (true, s) =>
      match writeVirtual s (coreOf slot) job (area + 0x48) (wordBytes 0) false with
      | (.ok _, s) => (true, reissue s slot)
      | (.error _, s) => (false, s)

/-- Starts or resumes the members on their benches, in ascending index. -/
def startMembers (s : State) (u : WorkUnit) : List (Nat × Nat) → Bool × State
  | [] => (true, s)
  | (member, slot) :: rest =>
    match u.kind with
    | .resume =>
      match resumeMember s u member slot (u.crewIds.getD member 0) with
      | (true, s) => startMembers s u rest
      | r => r
    | _ => startMembers (startMember s u member slot (u.crewIds.getD member 0)) u rest

/-- The members of a unit that have not retired (R24). -/
def remainingMembers (u : WorkUnit) : List Nat := (List.range (Docket.lsz u.docket + 1)).filter (!u.left.contains ·)

/-- The bench of each member by its index; a retired member has none. -/
def memberSlots (u : WorkUnit) (bs : List Nat) : List Nat :=
  (List.range (Docket.lsz u.docket + 1)).map fun i =>
    match ((remainingMembers u).zip bs).find? (·.1 == i) with
    | some q => q.2
    | none => 0xFFFF

/-- Dispatches a unit onto its benches: it leaves the store and its reservation, and its crews are created (R22, R402, R403).
Its launch is the one last served at its priority, also where a gang came through its reservation (DESIGN CHOICE, log 77: R51
does not say whether R53's way counts). A fault of an access that the device makes for it cancels its innermost level (R67). -/
def dispatchUnit (s : State) (u : WorkUnit) (bs : List Nat) : State :=
  let d := s.dispatcher
  let s := { s with dispatcher := { d with
      store := d.store.filter (· != u.uid), lastServed := mapSet d.lastServed u.prio (Docket.launch u.docket),
      reserved := d.reserved.filter (·.2 != u.uid) } }
  let u' := { u with dispatched := true, members := memberSlots u bs, home := [], avoid := none,
                     crewIds := if u.kind = .resume then u.crewIds else freshIds s bs.length }
  let s := { s with units := mapSet s.units u.uid u' }
  let core := coreOf (bs.headD 0)
  let (okSnap, s) := writeSnapshot s u core
  let (okCopy, s) := if okSnap then restoreUnit s u core else (false, s)
  let (ok, s) := startMembers s u' ((remainingMembers u).zip bs)
  if okSnap && okCopy && ok then s else cancelInnermost s u.docket

/-- Whether a free bench before this one has a docket to take: benches are served in ascending order, again whenever what
they may take changes (R51). -/
def earlierBench (s : State) (slot : Nat) : Bool :=
  (List.range slot).any fun b => benchFree s b && (choose s b).isSome

/-- Whether an access on a core has passed an entry of its crew that another crew of the core would have seen before it: such a
crew does not come before the entry is performed (R333, log 80). -/
def passedOn (s : State) (core : Nat) : Bool :=
  s.crews.any fun q => decide (q.1 < 1024) && coreOf q.1 == core && q.2.log.any (·.passed)

/-- DISPATCH (R51-R53, R56-R58): serves a free bench, the lowest one that has a docket to take. HOLD and a package in reset
dispatch nothing (R415). -/
def execDispatch (slot : Nat) (s : State) : Out :=
  .next (if s.pkg.hold || s.pkg.inReset || !benchFree s slot then s
    else
      match choose s slot with
      | some (u, bs) => if earlierBench s slot || bs.any (fun b => passedOn s (coreOf b)) then s else dispatchUnit s u bs
      | none => s)

/-- DOCKET_PROMOTION (R52): one priority up, to the tail of its launch's queue there; it stops at 7. -/
def execDocketPromotion (uid : Nat) (s : State) : Out :=
  .next (match mapGet s.units uid with
    | some u =>
      if s.dispatcher.store.contains uid && decide (u.prio < 7) && !s.pkg.hold then
        { s with units := mapSet s.units uid { u with prio := u.prio + 1 }
                 dispatcher := { s.dispatcher with store := s.dispatcher.store.filter (· != uid) ++ [uid] } }
      else s
    | none => s)

/-- The permitted cluster with the most free benches, the lowest on a tie (R53). -/
def bestCluster (s : State) (u : WorkUnit) : Option Nat :=
  let homes := u.home.filterMap id
  let ok := (List.range clusters).filter fun cl => permits u cl && (homes.all fun k => k / 8 == cl)
  ok.foldl (fun best cl =>
    match best with
    | none => some cl
    | some b => if (freeBenches s b).length < (freeBenches s cl).length then some cl else some b) none

/-- Gangs that wait without a reservation, by enqueue. -/
def unreserved (s : State) : List WorkUnit :=
  (s.dispatcher.store.filterMap (mapGet s.units ·)).filter fun u =>
    decide (Docket.lsz u.docket > 0) && !(s.dispatcher.reserved.any (·.2 == u.uid))

/-- GANG_RESERVATION (R53): a cluster holds one reservation; gangs that want the same cluster take it in order of enqueue. -/
def execGangReservation (uid : Nat) (s : State) : Out :=
  .next (match (unreserved s).find? (·.uid == uid) with
    | none => s
    | some u =>
      match bestCluster s u with
      | none => s
      | some cl =>
        let first := !((unreserved s).any fun v => decide (v.seq < u.seq) && bestCluster s v == some cl)
        if (reservation s cl).isNone && first && !s.pkg.hold then
          { s with dispatcher := { s.dispatcher with reserved := mapSet s.dispatcher.reserved cl uid } }
        else s)

/-! ### SPAWN's docket (R132) -/

/-- The status of SPAWN's docket: 1 malformed, 2 another job, 3 a counter at its limit; 0 is to be created. -/
def spawnStatus (s : State) (k : Nat) (c : Crew) (d : List Word) : Nat :=
  if docketMalformed s d then 1
  else if !isReeve k && Docket.job d != jobOf s c then 2
  else if !countersFit s (docketLevels d) 1 then 3
  else 0

/-- NSUCC and SUCC of the node record that SPAWN's docket names with JN, latched as it is created (R44): a cause and its
address, or the two fields. -/
def spawnRecord (s : State) (d : List Word) : Except (BitVec 8 × Word) (Nat × Nat) × State :=
  if !Docket.jn d then (.ok (0, 0), s)
  else
    match readVirtual s 0 (Docket.job d) (Docket.join d + 0x48) 16 .dispatcher false with
    | (.error f, s) => (.error f, s)
    | (.ok bs, s) =>
      let rec_ := bytesWords 2 bs
      (.ok (bits (rec_.getD 0 0) 31 16, bits (rec_.getD 1 0) 47 0), s)

/-- A fault on a read of SPAWN: held where R389 holds it, and read afresh at its release; any other, and any on a Reeve, is a
late cause (R132). -/
def spawnFault (s : State) (k seq : Nat) (code : BitVec 8) (addr : Word) : State :=
  let s := modCrew s k fun c => modLog c seq fun e => { e with data := [] }
  if heldCode code && !isReeve k then holdFault s k seq code addr else lateFault s k seq code addr

/-- A SPAWN whose docket has been read: it lands its status, or waits for the store (R50, R132). -/
def spawnDocket (s : State) (k seq : Nat) (d : List Word) : State :=
  match crewAt s k with
  | none => s
  | some c =>
    let st := spawnStatus s k c d
    if st ≠ 0 then putCrew s k (deliver s.free c seq (BitVec.ofNat 64 st) false)
    else if storeRoom s then
      match spawnRecord s d with
      | (.error f, s) => spawnFault s k seq f.1 f.2
      | (.ok r, s) =>
        let s := createUnit s d (argParams d) r.1 r.2
        match crewAt s k with
        | some c => putCrew s k (deliver s.free c seq 0 false)
        | none => s
    else
      let s := putCrew s k (modLog c seq fun e => { e with data := d })
      { s with dispatcher := { s.dispatcher with waiting := s.dispatcher.waiting ++ [.spawn k seq] } }

/-- Delivers the status of a word under way to the Reeve that issued it. -/
def deliverStatus (s : State) (cl seq v : Nat) : State :=
  spend (modCrew s (1024 + cl) fun c => deliver s.free c seq (BitVec.ofNat 64 v) false) 1

/-- Whether what waits may go on: a creation once the store has space, the port's commands not while Ngugrim retrains (R49,
R50); a retirement or a struck unit whenever its accesses can be made. -/
def creatorMay (s : State) : Creator → Bool
  | .launch _ _ _ _ | .replay _ => storeRoom s && !s.port.retrain
  | .join _ _ | .spawn _ _ | .enqueue _ _ => storeRoom s
  | .retire _ | .struck _ _ _ _ => true

/-- The oldest waiting creation that may go on (R50). -/
def nextCreator (s : State) : Option Creator := s.dispatcher.waiting.find? (creatorMay s)

/-- Whether another core than the failing one can take a unit (R403). -/
def anotherCore (s : State) (d : List Word) (failing : Nat) : Bool :=
  (List.range clusters).any fun cl =>
    (Docket.aff d).testBit cl &&
      (let ks := ((List.range 8).map (8 * cl + ·)).filter fun k => k != failing && enabledCore s k
       !ks.isEmpty && decide (Docket.lsz d + 1 ≤ 16 * ks.length))

/-- The re-runs made so far, as the snapshot block records them (R402); none where an access faults. -/
def runsOfUnit (s : State) (core : Nat) (d : List Word) : Option Nat × State :=
  match readVirtual s core (Docket.job d) (snapshotBlock d + 0x90) 8 .load false with
  | (.ok bs, s) => (some (bits (bytesWord bs) 1 0), s)
  | (.error _, s) => (none, s)

/-- Creates a struck unit again from its snapshot, with RUNS one higher (R403); false where an access faults. -/
def rerunUnit (s : State) (u : WorkUnit) (core runs : Nat) : Bool × State :=
  let d := u.docket
  match readVirtual s core (Docket.job d) (snapshotBlock d) 128 .load false with
  | (.error _, s) => (false, s)
  | (.ok bs, s) =>
    match writeVirtual s core (Docket.job d) (snapshotBlock d + 0x90) (wordBytes (BitVec.ofNat 64 (runs + 1))) false with
    | (.error _, s) => (false, s)
    | (.ok _, s) =>
      let w := bytesWords 16 bs
      let again := { WorkUnit.make u.uid (w.take 8) (w.drop 8) .rerun u.nsucc u.succ with avoid := some core }
      let s := { s with units := mapSet s.units u.uid again }
      (true, if storeRoom s then intoStore s u.uid
        else { s with dispatcher := { s.dispatcher with waiting := s.dispatcher.waiting ++ [.enqueue u.uid none] } })

/-- A unit that is not run again: its innermost level is cancelled, and it leaves its counters (R403). -/
def loseUnit (s : State) (u : WorkUnit) : State :=
  let s := cancelInnermost s u.docket
  match mapGet s.units u.uid with
  | some u => subCounters { s with units := mapErase s.units u.uid } (docketLevels u.docket) 1
  | none => s

/-- What the device does with a unit whose crews a hardware error has stopped: it is created again, or lost (R403). -/
def settleStruck (s : State) (u : WorkUnit) (core : Nat) (rerun lost : Record) : State :=
  let cl := core / 8
  let (runs, s) := if Docket.rst u.docket then runsOfUnit s core u.docket else (none, s)
  let lose (s : State) : State := loseUnit (postRecord s cl lost) u
  match runs with
  | some n =>
    if n < 2 && anotherCore s u.docket core then
      match rerunUnit s u core n with
      | (true, s) => postRecord s cl rerun
      | (false, s) => lose s
    else lose s
  | none => lose s

/-- DOCKET_CREATION_RESUME (R50): the oldest waiting creation goes on once the store has space; so does a retirement, or the end
of a struck unit, that had to wait for an access. -/
def execDocketCreationResume (s : State) : Out :=
  .next (match nextCreator s with
    | none => s
    | some w =>
        let s := { s with dispatcher := { s.dispatcher with waiting := s.dispatcher.waiting.erase w } }
        match w with
        | .retire uid => match mapGet s.units uid with | some u => retireUnit s u | none => s
        | .struck uid core rerun lost =>
          match mapGet s.units uid with
          | some u => settleStruck s u core rerun lost
          | none => s
        | .launch next last skipped first =>
          match s.port.current with
          | some c => launchUnits s c next skipped first (last - next)
          | none => s
        | .replay next =>
          match s.port.current with
          | some c => replayRoots s c next (c.cnt.toNat - next)
          | none => s
        | .join uid node =>
          match mapGet s.units uid with
          | some u =>
            let i := u.walk.getD 0
            walkSuccessors (createSuccessor s u node) { u with walk := none } i (u.nsucc - i)
          | none => s
        | .spawn k seq =>
          match crewAt s k with
          | some c =>
            match logEntry c seq with
            | some e => spawnDocket s k seq e.data
            | none => s
          | none => s
        | .enqueue uid reply =>
          let found := (mapGet s.units uid).isSome
          let s := if found then intoStore s uid else s
          match reply with
          | some (cl, seq) => deliverStatus s cl seq (if found then 0 else 1)
          | none => s)

/-! ### Retirement (R131, R410) -/

/-- Whether a crew's streams have exited, every issued word has landed and all its work is done (R131, R410). -/
def mayRetire (s : State) (k : Nat) (c : Crew) : Bool :=
  c.s.exited && c.v.exited && c.state == .running && c.log.isEmpty && c.vstores.isEmpty && c.late.isEmpty &&
    c.pendX.isEmpty && c.pendV.isEmpty && c.pendP.isEmpty && (crewCmds s k c).isEmpty && !groupFrozen s k

/-- Releases the claims of a crew, and its place among the waiters of its core (R248). -/
def releaseCore (s : State) (k : Nat) (crewId : Nat) : State :=
  let s := releaseClaims s [crewId]
  let core := coreAt s (coreOf k)
  putCore s (coreOf k) { core with
    sems := core.sems.map fun e => (e.1, { e.2 with waiters := e.2.waiters.filter (· != .crew k) }) }

/-- CREW_RETIRE (R131, R410): the claim set and the bench first, then, with the last member, the join action and the counters. A
join action that must wait for an access goes on later (R276, R415). -/
def execCrewRetire (slot : Nat) (s : State) : Out :=
  .next (match crewAt s slot with
    | none => s
    | some c =>
      if isReeve slot || !mayRetire s slot c then s
      else
        let s := releaseCore { s with crews := mapErase s.crews slot } slot c.crewId
        match mapGet s.units c.uid with
        | none => s
        | some u =>
          let u := { u with left := u.left ++ [c.member] }
          let s := { s with units := mapSet s.units u.uid u }
          if u.left.length ≥ u.members.length then orWaits s (.retire u.uid) fun s => retireUnit s u else s)

end Sys2Proof.Machine
end

