-- ==== Sys2Proof/Machine/Flags.lean ====
section
/-!
DEFINITION. The five IEEE flags that number-format events raise (R161, Table 06.6), as bits NV, DZ, OF, UF, NX from bit 4 down. -/
namespace Sys2Proof.Machine

/-- A set of flags, in the places of FFLAGS (Table 06.6). -/
abbrev FlagSet := BitVec 5

/-- Invalid operation. -/
def flagNV : FlagSet := 0x10
/-- Division by zero. -/
def flagDZ : FlagSet := 0x08
/-- Overflow with inexact (R157). -/
def flagOFNX : FlagSet := 0x05
/-- Underflow with inexact (R158). -/
def flagUFNX : FlagSet := 0x03
/-- Inexact (R158). -/
def flagNX : FlagSet := 0x01

/-- A flag set raised only under a condition. -/
def flagIf (b : Bool) (f : FlagSet) : FlagSet := if b then f else 0

/-- The OR of the flags of several elements (R161). -/
def orFlags (l : List FlagSet) : FlagSet := l.foldl (· ||| ·) 0

end Sys2Proof.Machine
end

