-- ==== Sys2Proof/Machine/Numbers.lean ====
section
/-!
DEFINITION. Number formats (R151-R155), rounding (R156-R158), conversions (R159), exact sums and products with their special
cases (R152, R158, R161), and integer elements (R154, R186).
-/
namespace Sys2Proof.Machine

/-! ### Formats and values -/

/-- What a format does beyond its largest finite value (Table 06.1, R157). -/
inductive TopKind where
  /-- Infinities and NaNs in the top exponent. -/
  | ieee
  /-- E4M3: no infinity, one NaN code. -/
  | oneNaN
  /-- E2M1: neither. -/
  | finite
deriving DecidableEq, Repr

/-- A floating-point format (Table 06.1). -/
structure Format where
  width : Nat
  expBits : Nat
  fracBits : Nat
  bias : Nat
  emax : Int
  top : TopKind
deriving DecidableEq, Repr

def fp32 : Format := { width := 32, expBits := 8, fracBits := 23, bias := 127, emax := 127, top := .ieee }
def fp16 : Format := { width := 16, expBits := 5, fracBits := 10, bias := 15, emax := 15, top := .ieee }
def bf16 : Format := { width := 16, expBits := 8, fracBits := 7, bias := 127, emax := 127, top := .ieee }
def e4m3 : Format := { width := 8, expBits := 4, fracBits := 3, bias := 7, emax := 8, top := .oneNaN }
def e5m2 : Format := { width := 8, expBits := 5, fracBits := 2, bias := 15, emax := 15, top := .ieee }
def e2m1 : Format := { width := 4, expBits := 2, fracBits := 1, bias := 1, emax := 2, top := .finite }

/-- The least normal exponent. -/
def Format.emin (F : Format) : Int := 1 - F.bias
/-- The exponent of the least significand bit of subnormals. -/
def Format.qmin (F : Format) : Int := F.emin - F.fracBits
/-- The magnitude code of the largest finite value. -/
def Format.maxCode (F : Format) : Nat :=
  match F.top with
  | .ieee => (2 ^ F.expBits - 1) * 2 ^ F.fracBits - 1
  | .oneNaN => 2 ^ (F.width - 1) - 2
  | .finite => 2 ^ (F.width - 1) - 1
/-- The magnitude code of infinity, where there is one. -/
def Format.infCode (F : Format) : Nat := (2 ^ F.expBits - 1) * 2 ^ F.fracBits
/-- The canonical NaN (Table 06.1); E2M1 has none, and a NaN becomes 0 there (R157). -/
def Format.nanCode (F : Format) : Nat :=
  match F.top with
  | .ieee => F.infCode + 2 ^ (F.fracBits - 1)
  | .oneNaN => 2 ^ (F.width - 1) - 1
  | .finite => 0

/-- A number: a NaN, an infinity, or (−1)^neg × m × 2^e, a zero with its sign when m is 0. -/
inductive Num where
  | nan (signalling : Bool)
  | inf (neg : Bool)
  | fin (neg : Bool) (m : Nat) (e : Int)
deriving DecidableEq, Repr

/-- The number that an encoding holds (R151, R152). -/
def Format.decode (F : Format) (w : Nat) : Num :=
  let neg := w.testBit (F.width - 1)
  let mag := w % 2 ^ (F.width - 1)
  let ex := mag / 2 ^ F.fracBits
  let fr := mag % 2 ^ F.fracBits
  let special := match F.top with
    | .ieee => ex == 2 ^ F.expBits - 1
    | .oneNaN => mag == 2 ^ (F.width - 1) - 1
    | .finite => false
  if special then
    match F.top with
    | .ieee => if fr = 0 then .inf neg else .nan (!fr.testBit (F.fracBits - 1))
    | _ => .nan false
  else if ex = 0 then .fin neg fr F.qmin
  else .fin neg (2 ^ F.fracBits + fr) (ex - F.bias - F.fracBits)

/-- The value of an E8M0 scale (R153). -/
def scaleOf (w : Nat) : Num := if w % 256 = 255 then .nan false else .fin false 1 (w % 256 - 127)

/-- Whether a number is a NaN. -/
def Num.isNaN : Num → Bool
  | .nan _ => true
  | _ => false
/-- NV for a signalling NaN (R152). -/
def Num.signal : Num → FlagSet
  | .nan true => flagNV
  | _ => 0
/-- The number with its sign inverted. -/
def Num.negate : Num → Num
  | .nan s => .nan s
  | .inf n => .inf (!n)
  | .fin n m e => .fin (!n) m e
/-- The magnitude of a number. -/
def Num.abs : Num → Num
  | .nan s => .nan s
  | .inf _ => .inf false
  | .fin _ m e => .fin false m e

/-! ### Rounding (R156-R158) -/

/-- Rounding modes, by the codes of Table 06.4; SR carries its random word (R165). -/
inductive Mode where
  | rne
  | rtz
  | rdn
  | rup
  | sr (r : BitVec 32)
deriving DecidableEq, Repr

/-- The mode of a code of Table 06.4; a code that the table does not list, which no CSRW admits, rounds to nearest. -/
def modeOf (code : Nat) (random : BitVec 32) : Mode :=
  match code with
  | 2 => .rtz
  | 3 => .rdn
  | 4 => .rup
  | 5 => .sr random
  | _ => .rne

/-- A magnitude to be rounded: m × 2^e, or with sticky a value strictly between it and the next multiple of 2^e. -/
structure Exact where
  m : Nat
  e : Int
  sticky : Bool
deriving DecidableEq, Repr

/-- The exponent of the leading bit of a positive magnitude. -/
def Exact.top (x : Exact) : Int := x.e + (Nat.log2 x.m : Int)

/-- A magnitude in units of 2^q: the units just below or at it, the part left over in units of 2^-k, k, and whether it is on
the grid of 2^q. -/
def Exact.split (x : Exact) (q : Int) : Nat × Nat × Nat × Bool :=
  if q ≤ x.e then (x.m * 2 ^ (x.e - q).toNat, 0, 0, !x.sticky)
  else
    let k := (q - x.e).toNat
    (x.m / 2 ^ k, x.m % 2 ^ k, k, decide (x.m % 2 ^ k = 0) && !x.sticky)

/-- Whether a magnitude off the grid goes up to the next unit (Table 06.4). -/
def roundUp (mode : Mode) (neg : Bool) (units rest k : Nat) (sticky : Bool) : Bool :=
  match mode with
  | .rne => decide (2 * rest > 2 ^ k) || (decide (2 * rest = 2 ^ k) && (sticky || units % 2 == 1))
  | .rtz => false
  | .rdn => neg
  | .rup => !neg
  | .sr r => decide (r.toNat < rest * 2 ^ 32 / 2 ^ k)

/-- A magnitude rounded to units of 2^q, and whether it changed. -/
def Exact.toUnits (x : Exact) (mode : Mode) (neg : Bool) (q : Int) : Nat × Bool :=
  let (u, rest, k, exact) := x.split q
  if exact then (u, false) else (if roundUp mode neg u rest k x.sticky then u + 1 else u, true)

/-- The magnitude code of units × 2^q, where q is the exponent of the last significand bit. -/
def Format.codeOf (F : Format) (units : Nat) (q : Int) : Nat :=
  if units < 2 ^ F.fracBits then units
  else
    let units' := if units = 2 ^ (F.fracBits + 1) then 2 ^ F.fracBits else units
    let q' := if units = 2 ^ (F.fracBits + 1) then q + 1 else q
    (q' - F.qmin + 1).toNat * 2 ^ F.fracBits + (units' - 2 ^ F.fracBits)

/-- A magnitude code with its sign. -/
def Format.signed (F : Format) (neg : Bool) (code : Nat) : Nat := if neg then 2 ^ (F.width - 1) + code else code

/-- The result of an overflow (R157, Table 06.5). -/
def Format.overflow (F : Format) (mode : Mode) (sat neg : Bool) : Nat :=
  let largest := match mode with
    | .rne | .sr _ => false
    | .rtz => true
    | .rdn => !neg
    | .rup => neg
  if sat || largest then F.signed neg F.maxCode
  else
    match F.top with
    | .ieee => F.signed neg F.infCode
    | .oneNaN => F.nanCode
    | .finite => F.signed neg F.maxCode

/-- Rounds a non-zero magnitude with its sign to a format: the encoding and the flags (R156-R158). -/
def Format.roundExact (F : Format) (mode : Mode) (sat neg : Bool) (x : Exact) : Nat × FlagSet :=
  let q := max (x.top - F.fracBits) F.qmin
  let (u, inexact) := x.toUnits mode neg q
  let code := F.codeOf u q
  if code > F.maxCode then (F.overflow mode sat neg, flagOFNX)
  else
    let free := x.top - F.fracBits
    let (v, _) := x.toUnits mode neg free
    let tiny := decide (x.top < F.emin) && !(decide (x.top = F.emin - 1) && v == 2 ^ (F.fracBits + 1))
    (F.signed neg code, if inexact then (if tiny then flagUFNX else flagNX) else 0)

/-- Rounds a number to a format (R152, R156-R158). -/
def Format.round (F : Format) (mode : Mode) (sat : Bool) (x : Num) : Nat × FlagSet :=
  match x with
  | .nan s =>
    match F.top with
    | .finite => (F.nanCode, flagNV)
    | _ => (F.nanCode, flagIf s flagNV)
  | .inf neg =>
    match F.top with
    | .ieee => (F.signed neg F.infCode, 0)
    | .oneNaN => (if sat then F.signed neg F.maxCode else F.nanCode, flagNV)
    | .finite => (F.signed neg F.maxCode, flagNV)
  | .fin neg m e =>
    if m = 0 then (F.signed neg 0, 0) else F.roundExact mode sat neg { m := m, e := e, sticky := false }

/-! ### Exact arithmetic -/

/-- The signed integer of a finite number in units of 2^e', where e' is at most its exponent. -/
def scaled (neg : Bool) (m : Nat) (e e' : Int) : Int :=
  let v : Int := (m * 2 ^ (e - e').toNat : Nat)
  if neg then -v else v

/-- The number of a signed integer in units of 2^e; zero has the given sign. -/
def numOf (v : Int) (e : Int) (zeroNeg : Bool) : Num :=
  if v = 0 then .fin zeroNeg 0 0 else .fin (decide (v < 0)) v.natAbs e

/-- The exact sum with its sign of zero (R158) and NV (R161). -/
def addNum (rdn : Bool) (a b : Num) : Num × FlagSet :=
  match a, b with
  | .nan _, _ | _, .nan _ => (.nan false, a.signal ||| b.signal)
  | .inf n, .inf k => if n = k then (.inf n, 0) else (.nan false, flagNV)
  | .inf n, _ => (.inf n, 0)
  | _, .inf n => (.inf n, 0)
  | .fin n m e, .fin k l f =>
    if m = 0 ∧ l = 0 then (.fin (if n = k then n else rdn) 0 0, 0)
    else
      let g := min e f
      (numOf (scaled n m e g + scaled k l f g) g rdn, 0)

/-- The exact product with NV for 0 × ∞ (R158, R161). -/
def mulNum (a b : Num) : Num × FlagSet :=
  match a, b with
  | .nan _, _ | _, .nan _ => (.nan false, a.signal ||| b.signal)
  | .inf n, .inf k => (.inf (n != k), 0)
  | .inf n, .fin k m _ => if m = 0 then (.nan false, flagNV) else (.inf (n != k), 0)
  | .fin k m _, .inf n => if m = 0 then (.nan false, flagNV) else (.inf (n != k), 0)
  | .fin n m e, .fin k l f => (.fin (n != k) (m * l) (e + f), 0)

/-- Whether a mode is RDN, under which an exact zero sum is −0 (R158). -/
def Mode.isDown : Mode → Bool
  | .rdn => true
  | _ => false

/-- a × b + c, exact (R188). -/
def fmaNum (rdn : Bool) (a b c : Num) : Num × FlagSet :=
  let (p, f) := mulNum a b
  let (r, g) := addNum rdn p c
  (r, f ||| g)

/-- Rounds an exact result, with the flags raised on the way. -/
def Format.finish (F : Format) (mode : Mode) (sat : Bool) (r : Num × FlagSet) : Nat × FlagSet :=
  let (w, f) := F.round mode sat r.1
  (w, r.2 ||| f)

/-- Compares two numbers that are no NaN: less than, as values. -/
def numLt (a b : Num) : Bool :=
  match a, b with
  | .nan _, _ | _, .nan _ => false
  | .inf n, .inf k => n && !k
  | .inf n, _ => n
  | _, .inf n => !n
  | .fin n m e, .fin k l f => let g := min e f; decide (scaled n m e g < scaled k l f g)

/-- The order of VMIN and VMAX, with −0 below +0 (R187). -/
def numBelow (a b : Num) : Bool :=
  match a, b with
  | .fin n 0 _, .fin k 0 _ => n && !k
  | _, _ => numLt a b

/-- The exact sum of products, the same in every order (R166, R194, R310): a NaN among them, or infinities of both signs, which
raise NV, make it a NaN. That NV is raised beside a quiet NaN too is the model's choice (log 44). A sum of products that are all
−0 is −0, by the signs of the products (R158; DESIGN CHOICE, log 81: R313 says that a cleared unit contributes +0). -/
def sumNum (rdn : Bool) (l : List Num) : Num × FlagSet :=
  let both := l.contains (.inf true) && l.contains (.inf false)
  if both || l.any Num.isNaN then (.nan false, flagIf both flagNV)
  else
    match l with
    | [] => (.fin false 0 0, 0)
    | x :: rest => (rest.foldl (fun acc y => (addNum rdn acc y).1) x, 0)

/-- An accumulator plus the exact sum of products, each with the flags that it raised (R166, R194, R310). -/
def accumulate (rdn : Bool) (acc : Num) (products : List (Num × FlagSet)) : Num × FlagSet :=
  let (s, f) := sumNum rdn (products.map (·.1))
  let (r, g) := addNum rdn acc s
  (r, f ||| g ||| orFlags (products.map (·.2)))

/-! ### Integers (R154, R159) -/

/-- The value of an element of w bits. -/
def intOf (w : Nat) (signed : Bool) (v : Nat) : Int :=
  if signed && v.testBit (w - 1) then (v : Int) - 2 ^ w else v
/-- The least and greatest value of an integer type. -/
def intMin (w : Nat) (signed : Bool) : Int := if signed then -(2 ^ (w - 1)) else 0
def intMax (w : Nat) (signed : Bool) : Int := if signed then 2 ^ (w - 1) - 1 else 2 ^ w - 1
/-- The low w bits of an integer. -/
def wrapInt (w : Nat) (v : Int) : Nat := (v % (2 ^ w : Nat)).toNat
/-- An integer clamped to a type's range. -/
def clampInt (w : Nat) (signed : Bool) (v : Int) : Int := max (intMin w signed) (min (intMax w signed) v)
/-- An integer result: the low bits, or clamped (R186). -/
def intResult (w : Nat) (signed sat : Bool) (v : Int) : Nat := wrapInt w (if sat then clampInt w signed v else v)

/-- A number rounded to an integer type (R159). -/
def numToInt (w : Nat) (signed : Bool) (mode : Mode) (x : Num) : Nat × FlagSet :=
  match x with
  | .nan _ => (0, flagNV)
  | .inf n => (wrapInt w (if n then intMin w signed else intMax w signed), flagNV)
  | .fin neg m e =>
    let (u, inexact) := if m = 0 then (0, false) else ({ m := m, e := e, sticky := false } : Exact).toUnits mode neg 0
    let v : Int := if neg then -(u : Int) else u
    if v < intMin w signed then (wrapInt w (intMin w signed), flagNV)
    else if v > intMax w signed then (wrapInt w (intMax w signed), flagNV)
    else (wrapInt w v, flagIf inexact flagNX)

/-- The exact number of an integer. -/
def numOfInt (v : Int) : Num := numOf v 0 false

/-- A number to an E8M0 scale (R159). -/
def numToScale (x : Num) : Nat × FlagSet :=
  match x with
  | .nan _ | .inf _ => (0xFF, flagNV)
  | .fin _ m e =>
    if m = 0 then (0, flagUFNX &&& 0x02)
    else
      let t := e + (Nat.log2 m : Int)
      if t < -127 then (0, 0x02)
      else ((t + 127).toNat % 256, flagIf (m != 2 ^ Nat.log2 m) flagNX)

/-! ### Element types (Table 04.6) -/

/-- The width of an element type by its code. -/
def typeWidth (t : Nat) : Nat :=
  match t with
  | 0x0 => 64
  | 0x1 | 0x5 | 0xE => 4
  | 0x2 | 0x6 | 0xC | 0xD | 0xF => 8
  | 0x3 | 0x7 | 0xA | 0xB => 16
  | _ => 32

/-- The floating-point format of a type code. -/
def formatOf (t : Nat) : Option Format :=
  match t with
  | 0x9 => some fp32
  | 0xA => some fp16
  | 0xB => some bf16
  | 0xC => some e4m3
  | 0xD => some e5m2
  | 0xE => some e2m1
  | _ => none

/-- Whether an integer type is signed. -/
def typeSigned (t : Nat) : Bool := decide (t ≤ 4)

/-- The number that an element of a type holds. -/
def elementNum (t v : Nat) : Num :=
  match formatOf t with
  | some F => F.decode v
  | none => if t = 0xF then scaleOf v else numOfInt (intOf (typeWidth t) (typeSigned t) v)

end Sys2Proof.Machine
end

