-- ==== Sys2Proof/Machine/Functions.lean ====
section
/-!
DEFINITION. The special functions (R170-R174), computed in fixed point to 320 fractional bits before their one rounding
(log 9), rotary pairs (R175), and the counter generator BCG-128 (R176).
-/
namespace Sys2Proof.Machine

/-- Fractional bits of the fixed-point intermediates (log 9). -/
def fixBits : Nat := 320
/-- One, in fixed point. -/
def fixOne : Nat := 2 ^ fixBits
/-- The product of two fixed-point numbers, truncated. -/
def fixMul (a b : Nat) : Nat := a * b / fixOne

/-- The integer square root, one result bit at a time from bit n − 1 down. -/
def isqrtBits (x : Nat) : Nat → Nat → Nat
  | 0, r => r
  | n + 1, r => if (r + 2 ^ n) * (r + 2 ^ n) ≤ x then isqrtBits x n (r + 2 ^ n) else isqrtBits x n r
/-- The integer square root. -/
def isqrt (x : Nat) : Nat := isqrtBits x (Nat.log2 x / 2 + 1) 0

/-- The sum of z^(2k+1) / (2k+1) over n terms from the given odd index, z2 being z² and p the present power. -/
def atanhSum (z2 : Nat) : Nat → Nat → Nat → Nat
  | 0, _, _ => 0
  | n + 1, p, i => p / i + atanhSum z2 n (fixMul p z2) (i + 2)
/-- ln of a / b, for 1 ≤ a / b ≤ 2. -/
def fixLn (a b : Nat) : Nat :=
  let z := (a - b) * fixOne / (a + b)
  2 * atanhSum (fixMul z z) 110 z 1
/-- ln 2. -/
def fixLn2 : Nat := fixLn 2 1

/-- The sum of y^k / k! over n terms, p being the present term of index i. -/
def expSum (y : Nat) : Nat → Nat → Nat → Nat
  | 0, _, _ => 0
  | n + 1, p, i => p + expSum y n (fixMul p y / (i + 1)) (i + 1)
/-- e^y for 0 ≤ y < 1. -/
def fixExp (y : Nat) : Nat := expSum y 80 fixOne 0

/-- atan(1 / d) by its alternating series, p being the present power. -/
def atanSum (d : Nat) : Nat → Nat → Nat → Int
  | 0, _, _ => 0
  | n + 1, p, i => (p / i : Nat) - atanSum d n (p / (d * d)) (i + 2)
/-- π / 2, by Machin's formula. -/
def fixHalfPi : Nat :=
  (8 * atanSum 5 140 (fixOne / 5) 1 - 2 * atanSum 239 45 (fixOne / 239) 1).toNat

/-- The alternating sum of y^i / i! in steps of two from index i, p being the present term and y2 the square. -/
def trigSum (y2 : Nat) : Nat → Nat → Nat → Int
  | 0, _, _ => 0
  | n + 1, p, i => (p : Int) - trigSum y2 n (fixMul p y2 / ((i + 1) * (i + 2))) (i + 2)
/-- sin y, for 0 ≤ y ≤ π / 2. -/
def fixSin (y : Nat) : Nat := (trigSum (fixMul y y) 50 y 1).toNat

/-! ### The instructions' functions on one element -/

/-- A number from its sign, a significand and an exponent truncated to q significant bits. -/
def truncSig (q m : Nat) (e : Int) : Nat × Int :=
  let n := Nat.log2 m + 1
  if n ≤ q then (m, e) else (m / 2 ^ (n - q), e + (n - q : Nat))

/-- Significant bits of the approximations (R171). -/
def approxBits (F : Format) : Nat := if F.fracBits = 23 then 12 else if F.fracBits = 10 then 11 else 8

/-- VRCPA of one element (R171, Table 06.8). -/
def rcpa (F : Format) (x : Num) : Nat × FlagSet :=
  match x with
  | .nan s => (F.nanCode, flagIf s flagNV)
  | .inf n => (F.signed n 0, 0)
  | .fin n m e =>
    if m = 0 then (F.signed n F.infCode, flagDZ)
    else
      let k := Nat.log2 m + 16
      let (t, te) := truncSig (approxBits F) (2 ^ k / m) (-e - k)
      let top := te + (Nat.log2 t : Int)
      if top ≥ F.emax + 1 then (F.signed n F.infCode, flagOFNX)
      else if top < F.emin then (F.signed n 0, flagUFNX)
      else ((F.roundExact .rtz false n { m := t, e := te, sticky := false }).1, 0)

/-- The significand m × 2^e with an even exponent. -/
def evenExp (m : Nat) (e : Int) : Nat × Int := if e % 2 = 0 then (m, e) else (2 * m, e - 1)

/-- VRSQA of one element (R172, Table 06.8). -/
def rsqa (F : Format) (x : Num) : Nat × FlagSet :=
  match x with
  | .nan s => (F.nanCode, flagIf s flagNV)
  | .inf n => if n then (F.nanCode, flagNV) else (0, 0)
  | .fin n m e =>
    if m = 0 then (F.signed n F.infCode, flagDZ)
    else if n then (F.nanCode, flagNV)
    else
      let (m, e) := evenExp m e
      let (t, te) := truncSig (approxBits F) (isqrt (2 ^ 128 / m)) (-(e / 2) - 64)
      ((F.roundExact .rtz false false { m := t, e := te, sticky := false }).1, 0)

/-- VSQRT of one element (R173, Table 06.8). -/
def sqrtOf (F : Format) (mode : Mode) (x : Num) : Nat × FlagSet :=
  match x with
  | .nan s => (F.nanCode, flagIf s flagNV)
  | .inf n => if n then (F.nanCode, flagNV) else (F.infCode, 0)
  | .fin n m e =>
    if m = 0 then (F.signed n 0, 0)
    else if n then (F.nanCode, flagNV)
    else
      let (m, e) := evenExp m e
      let v := m * 2 ^ 256
      let r := isqrt v
      F.roundExact mode false false { m := r, e := e / 2 - 128, sticky := r * r != v }

/-- VEXP2 of one element (R173, Table 06.8). A finite argument too large or small for any format is first brought to ±2^20,
which over- or underflows alike. -/
def exp2Of (F : Format) (mode : Mode) (sat : Bool) (x : Num) : Nat × FlagSet :=
  match x with
  | .nan s => (F.nanCode, flagIf s flagNV)
  | .inf n => if n then (0, 0) else (F.infCode, 0)
  | .fin n m e =>
    if m = 0 then F.roundExact mode sat false { m := 1, e := 0, sticky := false }
    else
      let big := decide (e + (Nat.log2 m : Int) ≥ 20)
      let v : Int := if big then (2 ^ 20 * fixOne : Nat) else
        if e ≥ 0 then (m * 2 ^ e.toNat * fixOne : Nat) else ((m * fixOne) / 2 ^ (-e).toNat : Nat)
      let v := if n then -v else v
      let k := v / (fixOne : Int)
      let f := (v % (fixOne : Int)).toNat
      if f = 0 then F.roundExact mode sat false { m := 1, e := k, sticky := big }
      else F.roundExact mode sat false { m := fixExp (fixMul f fixLn2), e := k - fixBits, sticky := true }

/-- VLOG2 of one element (R173, Table 06.8). -/
def log2Of (F : Format) (mode : Mode) (x : Num) : Nat × FlagSet :=
  match x with
  | .nan s => (F.nanCode, flagIf s flagNV)
  | .inf n => if n then (F.nanCode, flagNV) else (F.infCode, 0)
  | .fin n m e =>
    if m = 0 then (F.signed true F.infCode, flagDZ)
    else if n then (F.nanCode, flagNV)
    else
      let t := Nat.log2 m
      let k : Int := e + t
      if m = 2 ^ t then F.round mode false (numOfInt k)
      else
        let frac := fixLn m (2 ^ t) * fixOne / fixLn2
        let v : Int := k * (fixOne : Int) + frac
        F.roundExact mode false (decide (v < 0)) { m := v.natAbs, e := -(fixBits : Int), sticky := true }

/-- sin of a fraction u / 2^32 of a turn, rounded to FP32 (R174). -/
def sinTurn (mode : Mode) (u : Nat) : Nat × FlagSet :=
  let u := u % 2 ^ 32
  let quarter := u / 2 ^ 30
  let r := u % 2 ^ 30
  let neg := decide (quarter ≥ 2)
  if r = 0 then
    if quarter % 2 = 0 then (0, 0) else (fp32.signed neg 0x3F800000, 0)
  else
    let r := if quarter % 2 = 0 then r else 2 ^ 30 - r
    fp32.roundExact mode false neg { m := fixSin (fixHalfPi * r / 2 ^ 30), e := -(fixBits : Int), sticky := true }

/-- cos of a fraction of a turn: sin a quarter turn on (R174). -/
def cosTurn (mode : Mode) (u : Nat) : Nat × FlagSet := sinTurn mode (u + 2 ^ 30)

/-- The rotation of a pair (R175): FP32 results and the flags, which the Carter does not raise. -/
def ropePair (x0 x1 : Num) (pos theta : Nat) : Nat × Nat × FlagSet :=
  let phi := pos * theta % 2 ^ 32
  let c := fp32.decode (cosTurn .rne phi).1
  let s := fp32.decode (sinTurn .rne phi).1
  let (a, fa) := mulNum x0 c
  let (b, fb) := mulNum x1 s
  let (d, fd) := mulNum x0 s
  let (e, fe) := mulNum x1 c
  let y0 := fp32.finish .rne false (addNum false a b.negate)
  let y1 := fp32.finish .rne false (addNum false d e)
  (y0.1, y1.1, fa ||| fb ||| fd ||| fe ||| y0.2 ||| y1.2)

/-! ### BCG-128 (R176) -/

/-- One round of the generator; fuel is the number of rounds left. -/
def bcgRounds : Nat → BitVec 32 → BitVec 32 → BitVec 32 → BitVec 32 → BitVec 32 → BitVec 32 → BitVec 128
  | 0, a, b, c, d, _, _ => d ++ c ++ b ++ a
  | n + 1, a, b, c, d, k0, k1 =>
    let a := a + k0
    let c := c + k1
    let a := a + b
    let d := (d ^^^ a).rotateLeft 13
    let c := c + d
    let b := (b ^^^ c).rotateLeft 17
    let a := a + b
    let d := (d ^^^ a).rotateLeft 5
    let c := c + d
    let b := (b ^^^ c).rotateLeft 11
    bcgRounds n a b c d (k0 + 0x6C8E9CF5) (k1 + 0xD1B54A33)

/-- 128 bits from a seed, a stream and a counter. -/
def bcg128 (seed : Word) (strm : BitVec 32) (ctr : Word) : BitVec 128 :=
  bcgRounds 8 (ctr.extractLsb' 0 32) (ctr.extractLsb' 32 32) strm 0xB3C90E27 (seed.extractLsb' 0 32) (seed.extractLsb' 32 32)

/-- The random word of result element j under SR (R165). -/
def randomWord (seed strm ctr : Word) (j : Nat) : BitVec 32 :=
  (bcg128 seed (strm.truncate 32) (ctr + BitVec.ofNat 64 (j / 4))).extractLsb' (32 * (j % 4)) 32

end Sys2Proof.Machine
end

