-- ==== Sys2Proof/Machine/Tile.lean ====
section
/-!
DEFINITION. What the Carter's commands move (R225, R226, R228, R230-R234): tensor descriptors and the layout unit (R31-R34), the
records of TCOPY2D, CLIST and TROPE, each command's moves one by one, and how a move is made.
-/
namespace Sys2Proof.Machine
open Sys2Proof.Config

/-! ### Tensor descriptors (Table 01.5) -/

/-- A tensor descriptor. -/
structure Descriptor where
  base : Nat
  ext : List Nat
  sd : List Nat
  pcbase : Nat
  layout : Nat
  rank : Nat
  etype : Nat
  tile0 : Nat
  tile1 : Nat
  pccnt : Nat
  /-- A reserved field is not zero. -/
  reserved : Bool
deriving DecidableEq, Repr

/-- Half i of a list of doublewords. -/
def half (w : List Word) (i : Nat) : Nat := bits (w.getD (i / 2) 0) (32 * (i % 2) + 31) (32 * (i % 2))

/-- The descriptor of its eight doublewords. -/
def descriptorOf (w : List Word) : Descriptor :=
  let d := BitVec.ofNat 64 (half w 13)
  let rank := bits d 6 4
  let ext := (List.range 6).map fun i => half w (2 + i)
  let sd := (List.range 5).map fun i => half w (8 + i)
  { base := bits (w.getD 0 0) 47 0, ext := ext, sd := sd, pcbase := bits d 19 11, layout := bits d 10 8, rank := rank,
    etype := bits d 3 0, tile0 := half w 14 % 65536, tile1 := half w 14 / 65536, pccnt := half w 15 % 512,
    reserved := bits (w.getD 0 0) 63 48 != 0 || bits d 31 20 != 0 || d.getLsbD 7 || half w 15 / 512 != 0 ||
      (ext.drop rank).any (· != 0) || (sd.drop (rank - 1)).any (· != 0) }

/-- The element width of a descriptor. -/
def Descriptor.width (d : Descriptor) : Nat := typeWidth d.etype

/-- The extent of a dimension; 1 at or beyond RANK (R230). -/
def Descriptor.extent (d : Descriptor) (i : Nat) : Nat := if i < d.rank then d.ext.getD i 0 else 1

/-- Whether a descriptor passes R33 and R34. -/
def Descriptor.valid (d : Descriptor) : Bool :=
  decide (d.layout < 4) && decide (1 ≤ d.rank ∧ d.rank ≤ 6) && decide (d.tile0 ≠ 0 ∧ d.tile1 ≠ 0) &&
  decide (d.tile0 * d.tile1 * d.width ≤ 0x8000 * 8) && (d.layout != 1 || d.tile0 * d.width % 128 == 0) && !d.reserved &&
  (decide (d.layout < 2) ||
    (d.rank == 2 && d.extent 1 % 32 == 0 && decide (d.pcbase + d.pccnt ≤ 511) &&
      (if d.layout = 2 then (d.etype == 1 || d.etype == 5) && d.extent 0 % 128 == 0 else d.etype == 0xB)))

/-- The virtual address of the byte that holds an element (R32, R33, Table 01.6). -/
def Descriptor.address (d : Descriptor) (c0 c1 c2 : Nat) : Nat :=
  let w := d.width
  let outer := c2 * d.sd.getD 1 0 * 16
  let i := c1 / 32 % (d.pccnt + 1)
  let q := c1 / 32 / (d.pccnt + 1)
  d.base + match d.layout with
    | 0 => c0 * w / 8 + c1 * d.sd.getD 0 0 * 16 + outer
    | 1 =>
      (c1 / d.tile1 * ((d.extent 0 + d.tile0 - 1) / d.tile0) + c0 / d.tile0) * (d.tile0 * d.tile1 * w / 8) +
        c1 % d.tile1 * (d.tile0 * w / 8) + c0 % d.tile0 * w / 8 + outer
    | 2 => i * 0x30000000 + (q * (d.extent 0 / 8) + c0 / 8) * 128 + c1 % 32 * 4 + c0 % 8 / 2
    | _ => i * 0x30000000 + (q * d.extent 0 + c0) * 64 + c1 % 32 * 2

/-! ### Moves -/

/-- One access of a command. -/
inductive Move where
  /-- Memory bytes to a position of the region, where it lies in the region. -/
  | load (va : Int) (n : Nat) (pos : Option Nat)
  /-- The low nibble of a memory byte to a region byte whose high nibble becomes zero. -/
  | loadNibble (va : Int) (pos : Nat)
  /-- Zeros to the region. -/
  | clear (n pos : Nat)
  /-- Region bytes to memory, zeros where they lie outside the region. -/
  | store (va : Int) (n : Nat) (pos : Option Nat)
  /-- The low nibble of a region byte to that of a memory byte. -/
  | storeNibble (va : Int) (pos : Nat)
  /-- Nothing. -/
  | skip
deriving DecidableEq, Repr

/-- The memory bytes that a move touches: address, length, and whether it writes them. -/
def Move.touches : Move → Option (Int × Nat × Bool)
  | .load a n _ => some (a, n, false)
  | .loadNibble a _ => some (a, 1, false)
  | .store a n _ => some (a, n, true)
  | .storeNibble a _ => some (a, 1, true)
  | _ => none

/-- Move p of a TLD or TST (R230): an element, or for 4-bit types a pair; none past the last. -/
def tileMove (d : Descriptor) (r : Region) (toMemory : Bool) (xa xb : Word) (p : Nat) : Option Move :=
  let w := d.width
  let perRow := if w = 4 then d.tile0 / 2 else d.tile0
  let j := p / perRow
  if perRow = 0 ∨ d.tile1 ≤ j then none
  else
    let e := if w = 4 then 2 * (p % perRow) else p % perRow
    let c0 := bits xb 31 0 + e
    let c1 := bits xb 63 32 + j
    let c2 := bits xa 63 48
    let pos := j * r.rowBytes + e * w / 8
    let n := if w = 4 then 1 else w / 8
    -- The coordinates of dimensions 3 to 5 are 0 (R230), which an extent of 0 does not hold (R34).
    let outer := decide (c1 < d.extent 1) && decide (c2 < d.extent 2) && ([3, 4, 5].all fun i => decide (0 < d.extent i))
    let va : Int := d.address c0 c1 c2
    let whole := outer && decide (c0 + (if w = 4 then 1 else 0) < d.extent 0)
    let low := outer && decide (c0 < d.extent 0)
    if whole then some (if toMemory then .store va n (some pos) else .load va n (some pos))
    else if low then some (if toMemory then .storeNibble va pos else .loadNibble va pos)
    else some (if toMemory then .skip else .clear n pos)

/-- Whether a descriptor serves a TLD or TST of a region (R230, R34). -/
def tileFits (d : Descriptor) (r : Region) (xb : Word) : Bool :=
  d.valid && decide (d.tile0 * d.width / 8 ≤ r.rowBytes) && decide (d.tile1 ≤ r.rows) &&
    (d.width != 4 || (d.tile0 % 2 == 0 && bits xb 0 0 == 0))

/-- A signed 32-bit field of a record. -/
def signed32 (v : Nat) : Int := (BitVec.ofNat 32 v).toInt

/-- Whether a TCOPY2D record is well formed, its MADDR apart (R228, R232, Table 08.6). -/
def copyRecordOk (w : List Word) : Bool :=
  let d2 := w.getD 2 0
  let s := 2 ^ bits d2 33 32
  bits (w.getD 0 0) 63 48 == 0 && bits d2 63 35 == 0 && bits (w.getD 3 0) 63 32 == 0 && bits d2 31 16 != 0 &&
    bits d2 15 0 != 0 && half w 3 % s == 0 && half w 2 % s == 0

/-- Move p of a TCOPY2D record (R232). -/
def copyMove (w : List Word) (r : Region) (p : Nat) : Option Move :=
  let d2 := w.getD 2 0
  let s := 2 ^ bits d2 33 32
  let j := p / bits d2 15 0
  let e := p % bits d2 15 0
  if bits d2 31 16 ≤ j then none
  else
    let m : Int := (bits (w.getD 0 0) 47 0 : Nat) + (j : Nat) * signed32 (half w 2) + (e : Nat) * signed32 (half w 3)
    let row := bits (w.getD 3 0) 15 0 + j
    let col := bits (w.getD 3 0) 31 16 + e * s
    let pos := if row < r.rows ∧ col + s ≤ r.rowBytes then some (row * r.rowBytes + col) else none
    if d2.getLsbD 34 then some (.store m s pos)
    else match pos with
      | some q => some (.load m s (some q))
      | none => some .skip

/-- The number of a TCOPY2D record's moves. -/
def copyMoves (w : List Word) : Nat := bits (w.getD 2 0) 15 0 * bits (w.getD 2 0) 31 16

/-- Whether a CLIST entry is well formed, its MADDR apart (R233). -/
def listEntryOk (w : List Word) : Bool := bits (w.getD 1 0) 63 33 == 0 && bits (w.getD 1 0) 3 0 == 0

/-- Move p of a CLIST entry: sixteen bytes. -/
def listMove (w : List Word) (r : Region) (p : Nat) : Option Move :=
  if bits (w.getD 0 0) 63 48 ≤ p then none
  else
    let va : Int := (bits (w.getD 0 0) 47 0 + 16 * p : Nat)
    let f := bits (w.getD 1 0) 31 0 + 16 * p
    let pos := if f + 16 ≤ r.size then some f else none
    some (if (w.getD 1 0).getLsbD 32 then .store va 16 pos else .load va 16 pos)

/-- The number of a CLIST entry's moves. -/
def listMoves (w : List Word) : Nat := bits (w.getD 0 0) 63 48

/-- The fields of a TROPE record (Table 08.8). -/
structure RopeRecord where
  kaddr : Nat
  taddr : Nat
  dim : Nat
  ntok : Nat
  kstr : Int
  halves : Bool
  outBf16 : Bool
  inFp32 : Bool
  reserved : Bool
deriving DecidableEq, Repr

/-- The record of its four doublewords. -/
def ropeRecordOf (w : List Word) : RopeRecord :=
  let d2 := w.getD 2 0
  let d3 := w.getD 3 0
  { kaddr := bits (w.getD 0 0) 47 0, taddr := bits (w.getD 1 0) 47 0, dim := bits d2 57 48, ntok := bits d2 47 32,
    kstr := signed32 (bits d2 31 0), halves := d3.getLsbD 2, outBf16 := d3.getLsbD 1, inFp32 := d3.getLsbD 0,
    reserved := bits (w.getD 0 0) 63 48 != 0 || bits (w.getD 1 0) 63 48 != 0 || bits d2 63 58 != 0 || bits d3 63 3 != 0 }

/-- Bytes of a TROPE's input element. -/
def RopeRecord.inBytes (r : RopeRecord) : Nat := if r.inFp32 then 4 else 2
/-- Bytes of a TROPE's output element. -/
def RopeRecord.outBytes (r : RopeRecord) : Nat := if r.outBf16 then 2 else 4

/-- Whether a TROPE record is well formed, its addresses apart (R234). -/
def RopeRecord.ok (r : RopeRecord) : Bool :=
  !r.reserved && r.dim % 2 == 0 && decide (2 ≤ r.dim) && decide (1 ≤ r.ntok) && r.kstr % (r.inBytes : Nat) == 0

/-- Token and elements of step p of a TROPE: one step for each pair. -/
def RopeRecord.pair (r : RopeRecord) (p : Nat) : Nat × Nat × Nat × Nat :=
  let h := r.dim / 2
  let i := p % h
  (p / h, i, if r.halves then i else 2 * i, if r.halves then i + h else 2 * i + 1)

/-- The address of a key element. -/
def RopeRecord.keyAddress (r : RopeRecord) (t j : Nat) : Int :=
  (r.kaddr : Nat) + (t : Nat) * r.kstr + (j * r.inBytes : Nat)

/-! ### Accesses that may cross pages -/

/-- Reads pieces one after another. -/
def spanRead (s : State) (e : EngCmd) : List (Nat × Nat) → Moved (List Byte)
  | [] => .ok [] s
  | (a, n) :: rest =>
    match cmdRead s e a n with
    | .ok bs s =>
      match spanRead s e rest with
      | .ok cs s => .ok (bs ++ cs) s
      | r => r
    | r => r

/-- Writes pieces one after another. -/
def spanWrite (s : State) (e : EngCmd) : List (Nat × Nat) → List Byte → Moved Unit
  | [], _ => .ok () s
  | (a, n) :: rest, bs =>
    match cmdWrite s e a (bs.take n) with
    | .ok _ s => spanWrite s e rest (bs.drop n)
    | r => r

/-- The fault of an address outside the space: PAGE_NOT_PRESENT, on a Reeve PAGE_ATTR (R232, R383). -/
def outOfSpace (s : State) (e : EngCmd) (va : Int) : Moved α :=
  .fault (if isReeve e.slot then 0x12 else 0x10) (BitVec.ofInt 64 va) s

/-- A command's read of memory bytes. -/
def engineRead (s : State) (e : EngCmd) (va : Int) (n : Nat) : Moved (List Byte) :=
  if va < 0 then outOfSpace s e va else spanRead s e (piecesOf va.toNat n)

/-- A command's write of memory bytes. -/
def engineWrite (s : State) (e : EngCmd) (va : Int) (bs : List Byte) : Moved Unit :=
  if va < 0 then outOfSpace s e va else spanWrite s e (piecesOf va.toNat bs.length) bs

/-- Whether the crew holds slot ci of a buffer (R236). -/
def CircBuf.holds (b : CircBuf) : Bool := if b.out then decide (0 < b.free) else decide (0 < b.fill)

/-- The region that a command reaches through tile register t, at the slot that it has taken of a circular buffer (R239). -/
def cmdRegion (e : EngCmd) (t : Nat) : Region :=
  let r := regionOf (((e.tiles.find? (·.1 == t)).map (·.2)).getD 0)
  { r with base := r.base + ((e.cbSlots.find? (·.1 == t)).map (·.2)).getD 0 }

/-- Writes bytes of a region, where a position is given. -/
def regionPut (s : State) (e : EngCmd) (r : Region) (pos : Option Nat) (bs : List Byte) : State :=
  match pos with
  | some f => r.write s e.slot f bs
  | none => s

/-- Makes a move. -/
def makeMove (s : State) (e : EngCmd) (r : Region) (m : Move) : Moved Unit :=
  match m with
  | .skip => .ok () s
  | .clear n pos => .ok () (r.write s e.slot pos (List.replicate n 0))
  | .load va n pos =>
    match engineRead s e va n with
    | .ok bs s => .ok () (regionPut s e r pos bs)
    | .wait s => .wait s
    | .fault c a s => .fault c a s
  | .loadNibble va pos =>
    match engineRead s e va 1 with
    | .ok bs s => .ok () (r.write s e.slot pos (bs.map (· &&& 0x0F)))
    | .wait s => .wait s
    | .fault c a s => .fault c a s
  | .store va n pos =>
    engineWrite s e va (match pos with | some f => r.read s e.slot f n | none => List.replicate n 0)
  | .storeNibble va pos =>
    if va < 0 then outOfSpace s e va
    else
      match cmdOldByte s e va.toNat with
      | .ok b s => engineWrite s e va [(b &&& 0xF0) ||| (r.byte s e.slot pos &&& 0x0F)]
      | .wait s => .wait s
      | .fault c a s => .fault c a s

/-- The moves from p on that go on with a load (or store, toMemory) at address a, within its sector of k bytes. -/
def runFrom (moveAt : Nat → Option Move) (toMemory : Bool) (k : Nat) : Nat → Int → Nat → List Move
  | 0, _, _ => []
  | fuel + 1, a, p =>
    if a % k = 0 then []
    else
      match moveAt p with
      | some (.load va n pos) =>
        if !toMemory && va = a then .load va n pos :: runFrom moveAt toMemory k fuel (a + n) (p + 1) else []
      | some (.store va n pos) =>
        if toMemory && va = a then .store va n pos :: runFrom moveAt toMemory k fuel (a + n) (p + 1) else []
      | _ => []

/-- The moves from p on that make one access: they read, or write, rising bytes of one sector of k bytes (R278, log 74). -/
def moveRun (moveAt : Nat → Option Move) (k p : Nat) : List Move :=
  match moveAt p with
  | some (.load va n pos) => .load va n pos :: runFrom moveAt false k (k - 1) (va + n) (p + 1)
  | some (.store va n pos) => .store va n pos :: runFrom moveAt true k (k - 1) (va + n) (p + 1)
  | some m => [m]
  | none => []

/-- Bytes of memory that a move loads or stores. -/
def Move.bytes : Move → Nat
  | .load _ n _ | .store _ n _ => n
  | _ => 0

/-- Hands the bytes that a run of loads has read to their places. -/
def scatterRun (s : State) (e : EngCmd) (r : Region) : List Move → List Byte → State
  | .load _ n pos :: ms, bs => scatterRun (regionPut s e r pos (bs.take n)) e r ms (bs.drop n)
  | _, _ => s

/-- The bytes that a run of stores writes. -/
def gatherRun (s : State) (e : EngCmd) (r : Region) (ms : List Move) : List Byte :=
  ms.flatMap fun m =>
    match m with
    | .store _ n (some f) => r.read s e.slot f n
    | .store _ n none => List.replicate n 0
    | _ => []

/-- Makes a run of moves as one access. -/
def makeRun (s : State) (e : EngCmd) (r : Region) (ms : List Move) : Moved Unit :=
  match ms with
  | [m] => makeMove s e r m
  | .load va _ _ :: _ =>
    match engineRead s e va (ms.map Move.bytes).sum with
    | .ok bs s => .ok () (scatterRun s e r ms bs)
    | .wait s => .wait s
    | .fault c a s => .fault c a s
  | .store va _ _ :: _ => engineWrite s e va (gatherRun s e r ms)
  | _ => .ok () s

/-- The 32 bytes of a poisoned sector reach the region as undefined bytes (R228): the positions of the moves from p on, of n in
all, that load from the same sector. -/
def poisonFill (s : State) (e : EngCmd) (r : Region) (moveAt : Nat → Option Move) (n p : Nat) : State :=
  match moveAt p with
  | some (.load va _ _) | some (.loadNibble va _) =>
    spend ((List.range (n - p)).foldl (fun s q =>
      match moveAt (p + q) with
      | some (.load a n (some pos)) =>
        (List.range n).foldl (fun s (i : Nat) =>
          if (a + (i : Int)) / 32 = va / 32 then r.write s e.slot (pos + i) [freeByte s.free (pos + i)] else s) s
      | some (.loadNibble a pos) => if a / 32 = va / 32 then r.write s e.slot pos [freeByte s.free pos] else s
      | _ => s) s) 1
  | _ => s

/-! ### The work of each command -/

/-- Factor between a command's records in its progress. -/
def recordStride : Nat := 2 ^ 40

/-- A malformed descriptor or record (R228). -/
def malformed (s : State) (e : EngCmd) : Worked := .fault s e 0x01 0x10

/-- Reads a record of n bytes at an address into the command's latch (R232-R234): none while it must wait. -/
def latchRecord (s : State) (e : EngCmd) (va : Int) (n : Nat) : Worked :=
  match engineRead s e va n with
  | .ok bs s => .more s { e with latch := bytesWords (n / 8) bs }
  | .wait s => .wait s e
  | .fault c a s => .fault s e c a

/-- The moves of a run that one access makes: how many is a free choice of the command's, for no rule says which bytes of a
command one counted access covers (R283, log 74). -/
def oneAccess (e : EngCmd) (p : Nat) (ms : List Move) : List Move :=
  ms.take (1 + freeChoice e.seq (2 ^ 70 + p) % max 1 ms.length)

/-- Makes moves from p on, of n in all, that are one access, of at most a 64-byte sector, and steps on (R278). One that meets
poison is made by ECC sectors, so that what lies before the poisoned one is delivered (R228, R284). -/
def stepMove (s : State) (e : EngCmd) (r : Region) (moveAt : Nat → Option Move) (n p : Nat) : Worked :=
  let ms := oneAccess e p (moveRun moveAt 64 p)
  match makeRun s e r ms with
  | .ok _ s => .more s { e with progress := e.progress + ms.length }
  | .wait s => .wait s e
  | .fault 0x40 _ _ =>
    let ms := moveRun moveAt 32 p
    match makeRun s e r ms with
    | .ok _ s => .more s { e with progress := e.progress + ms.length }
    | .wait s => .wait s e
    | .fault 0x40 a s => .fault (poisonFill s e r moveAt n p) e 0x40 a
    | .fault c a s => .fault s e c a
  | .fault c a s => .fault s e c a

/-- One access of a TLD or TST (R230). -/
def tileWork (toMemory : Bool) (s : State) (e : EngCmd) : Worked :=
  if e.latch.isEmpty then latchRecord s e (bits e.xa 47 6 * 64 : Nat) 64
  else
    let d := descriptorOf e.latch
    let r := cmdRegion e ((if toMemory then e.reads else e.writes).headD 0)
    if !tileFits d r e.xb then malformed s e
    else
      let moveAt := tileMove d r toMemory e.xa e.xb
      match moveAt e.progress with
      | none => .finished s e
      | some _ => stepMove s e r moveAt (d.tile0 * d.tile1) e.progress

/-- One access of a command that follows records of n bytes (R232, R233): check gives a record's fault, and moves its moves. -/
def recordWork (n count : Nat) (misaligned : List Word → Bool) (ok : List Word → Bool) (toMemory : List Word → Bool)
    (moves : List Word → Region → Nat → Option Move) (size : List Word → Nat) (s : State) (e : EngCmd) : Worked :=
  let i := e.progress / recordStride
  let p := e.progress % recordStride
  if count ≤ i then .finished s e
  else if e.latch.isEmpty then latchRecord s e (e.xa.toNat + n * i : Nat) n
  else
    let w := e.latch
    let r := cmdRegion e (e.writes.headD 0)
    let opposed := match (issuer s e).bind fun c => mapGet c.circ (e.writes.headD 0) with
      | some b => b.out != toMemory w
      | none => false
    if !ok w || opposed then malformed s e
    else if misaligned w then .fault s e 0x05 (BitVec.ofNat 64 (bits (w.getD 0 0) 47 0))
    else
      match moves w r p with
      | none => .more s { e with progress := (i + 1) * recordStride, latch := [] }
      | some _ => stepMove s e r (moves w r) (size w) p

/-- One access of a TCOPY2D (R232). -/
def copyWork (s : State) (e : EngCmd) : Worked :=
  recordWork 32 e.xb.toNat (fun w => bits (w.getD 0 0) 47 0 % 2 ^ bits (w.getD 2 0) 33 32 != 0) copyRecordOk
    (fun w => (w.getD 2 0).getLsbD 34) copyMove copyMoves s e

/-- One access of a CLIST (R233). -/
def listWork (s : State) (e : EngCmd) : Worked :=
  recordWork 16 e.xb.toNat (fun w => bits (w.getD 0 0) 3 0 != 0) listEntryOk (fun w => (w.getD 1 0).getLsbD 32) listMove
    listMoves s e

/-- One pair of a TROPE (R175, R234). -/
def ropeStep (s : State) (e : EngCmd) (k : RopeRecord) : Worked :=
  let (t, i, j0, j1) := k.pair e.progress
  let r := cmdRegion e (e.writes.headD 0)
  if k.ntok ≤ t then .finished s e
  else
    match engineRead s e (k.taddr + 4 * i : Nat) 4 with
    | .wait s => .wait s e
    | .fault c a s => .fault s e c a
    | .ok theta s =>
      match engineRead s e (k.keyAddress t j0) k.inBytes with
      | .wait s => .wait s e
      | .fault c a s => .fault (poisonedKeys s r k (k.keyAddress t j0) c) e c a
      | .ok b0 s =>
        match engineRead s e (k.keyAddress t j1) k.inBytes with
        | .wait s => .wait s e
        | .fault c a s => .fault (poisonedKeys s r k (k.keyAddress t j1) c) e c a
        | .ok b1 s =>
          let F := if k.inFp32 then fp32 else bf16
          let pos := (bits e.xb 31 0 + t) % 2 ^ 32
          let (y0, y1, _) := ropePair (F.decode (bytesValue b0)) (F.decode (bytesValue b1)) pos (bytesValue theta)
          let out (y : Nat) : List Byte :=
            if k.outBf16 then valueBytes 2 (bf16.round .rne false (fp32.decode y)).1 else valueBytes 4 y
          let s := regionPut s e r (place r k t j0) (out y0)
          .more (regionPut s e r (place r k t j1) (out y1)) { e with progress := e.progress + 1 }
where
  /-- The region position of an element; none outside the region. -/
  place (r : Region) (k : RopeRecord) (t j : Nat) : Option Nat :=
    if t < r.rows ∧ (j + 1) * k.outBytes ≤ r.rowBytes then some (t * r.rowBytes + j * k.outBytes) else none
  /-- The keys of a poisoned sector, wherever they go in the region, reach it as undefined bytes (R228). -/
  poisonedKeys (s : State) (r : Region) (k : RopeRecord) (at_ : Int) (code : BitVec 8) : State :=
    if code = 0x40 then
      spend ((List.range k.ntok).foldl (fun s t => (List.range k.dim).foldl (fun s j =>
        if k.keyAddress t j / 32 = at_ / 32 then
          regionPut s e r (place r k t j) ((List.range k.outBytes).map fun i => freeByte s.free ((t * k.dim + j) * 4 + i))
        else s) s) s) 1
    else s

/-- One access of a TROPE (R234). -/
def ropeWork (s : State) (e : EngCmd) : Worked :=
  if e.latch.isEmpty then latchRecord s e e.xa.toNat 32
  else
    let k := ropeRecordOf e.latch
    if !k.ok then malformed s e
    else if k.kaddr % k.inBytes ≠ 0 then .fault s e 0x05 (BitVec.ofNat 64 k.kaddr)
    else if k.taddr % 4 ≠ 0 then .fault s e 0x05 (BitVec.ofNat 64 k.taddr)
    else ropeStep s e k

/-- A TMOV (R231): bytes that the two regions share, and copies of them, are undefined. -/
def moveWork (s : State) (e : EngCmd) : Worked :=
  let src := cmdRegion e (e.reads.headD 0)
  let dst := cmdRegion e (e.writes.headD 0)
  let sk := (List.range src.size).filterMap (src.key e.slot)
  let dk := (List.range dst.size).filterMap (dst.key e.slot)
  let shared := sk.filter dk.contains
  let values := sk.map fun k => if shared.contains k then freeByte s.free k else memGet s.spad k
  let cells := (dk.zip values).map fun q => if shared.contains q.1 then (q.1, freeByte s.free q.1) else q
  let rest := (shared.filter fun k => !((dk.take src.size).contains k)).map fun k => (k, freeByte s.free k)
  .finished (spend { s with spad := memWriteCells s.spad (cells ++ rest) } 1) e

/-- One access of a Carter command, once the vector words before it are performed (R221). -/
def carterWork (s : State) (e : EngCmd) : Worked :=
  if behindVectors s e then .wait s e
  else
    match e.kind with
    | .tld => tileWork false s e
    | .tst => tileWork true s e
    | .tcopy2d => copyWork s e
    | .clist => listWork s e
    | .trope => ropeWork s e
    | _ => moveWork s e

/-! ### What a command will touch (R147, R225, R226) -/

/-- Bytes of memory that a command touches: address, length, and whether it writes them. -/
abbrev Span := Int × Nat × Bool

/-- A record of a command as memory holds it now. -/
def recordNow (s : State) (e : EngCmd) (va n : Nat) : List Word :=
  match engineRead s { e with seq := 0 } va n with
  | .ok bs _ => bytesWords (n / 8) bs
  | _ => []

/-- The descriptor or records of a command in memory: address, bytes of one, how many. -/
def cmdRecords (e : EngCmd) : Nat × Nat × Nat :=
  match e.kind with
  | .tld | .tst => (bits e.xa 47 6 * 64, 64, 1)
  | .tcopy2d => (e.xa.toNat, 32, e.xb.toNat)
  | .clist => (e.xa.toNat, 16, e.xb.toNat)
  | .trope => (e.xa.toNat, 32, 1)
  | .bqcmd => (e.xa.toNat, 64, 1)
  | .fget | .fput | .ffadd => (e.xa.toNat, 32, e.xb.toNat)
  | .fmcast => (bits e.xb 47 0, 4 * (bits e.xb 57 48 + 1), 1)
  | .leaseGrant | .leaseRecall | .leaseRelease => (e.xa.toNat, 64, 1)
  | .slotswLoad => (e.xa.toNat, 2048, 1)
  | _ => (0, 0, 0)

/-- Record i of a command: the one that it has read, or what memory holds now; none where it cannot be read. -/
def cmdRecord (s : State) (e : EngCmd) (i : Nat) : List Word :=
  let (b, k, n) := cmdRecords e
  if n = 1 ∧ e.latch ≠ [] then e.latch else recordNow s e (b + k * i) k

/-- The records that a command is still to read. -/
def recordSpans (e : EngCmd) : List Span :=
  let (b, k, n) := cmdRecords e
  if n = 0 || (n == 1 && !e.latch.isEmpty) then [] else [((b : Nat), k * n, false)]

/-- What the first n moves touch. -/
def movesSpans (moves : Nat → Option Move) (n : Nat) : List Span :=
  (List.range n).filterMap fun p => (moves p).bind Move.touches

/-- What each record of a command touches. -/
def eachRecord (s : State) (e : EngCmd) (f : List Word → List Span) : List Span :=
  (List.range (cmdRecords e).2.2).flatMap fun i => f (cmdRecord s e i)

/-- The bytes of memory that a command touches, by the descriptor or records that memory holds now. The count of an MWAIT is
in waitsThere. -/
def cmdSpans (s : State) (e : EngCmd) : List Span :=
  recordSpans e ++
  match e.kind with
  | .tld | .tst =>
    let d := descriptorOf (cmdRecord s e 0)
    let out := decide (e.kind = .tst)
    let r := cmdRegion e ((if out then e.reads else e.writes).headD 0)
    if tileFits d r e.xb then movesSpans (tileMove d r out e.xa e.xb) (d.tile0 * d.tile1) else []
  | .tcopy2d => eachRecord s e fun w =>
    if copyRecordOk w then
      movesSpans (copyMove w (cmdRegion e (e.writes.headD 0))) (copyMoves w)
    else []
  | .clist => eachRecord s e fun w =>
    if listEntryOk w then movesSpans (listMove w (cmdRegion e (e.writes.headD 0))) (listMoves w) else []
  | .trope =>
    let k := ropeRecordOf (cmdRecord s e 0)
    if k.ok then
      ((k.taddr : Nat), 2 * k.dim, false) :: (List.range k.ntok).map fun t => (k.keyAddress t 0, k.dim * k.inBytes, false)
    else []
  | .bqload => [((e.xa.toNat : Nat), bits e.xb 16 0, false)]
  | .bqcmd =>
    let w := cmdRecord s e 0
    let at8 (use : Bool) (i : Nat) : List Span := if use then [((bits (w.getD i 0) 47 0 : Nat), 8, true)] else []
    at8 (bits (w.getD 5 0) 47 0 != 0) 5 ++ at8 ((w.getD 0 0).getLsbD 51) 4
  | .fget | .fput => eachRecord s e fun w =>
    [((bits (w.getD 0 0) 47 0 : Nat), bits (w.getD 3 0) 31 0, decide (e.kind = .fget))]
  | .ffadd => eachRecord s e fun w =>
    if bits (w.getD 3 0) 47 0 = 0 then [] else [((bits (w.getD 3 0) 47 0 : Nat), 8, true)]
  | _ => []

/-- Whether a command touches bytes of memory that an access touches, one of the two writing them. -/
def cmdTouches (s : State) (e : EngCmd) (a m : Nat) (writes : Bool) : Bool :=
  (cmdSpans s e).any fun q => (q.2.2 || writes) && decide ((a : Int) < q.1 + q.2.1 ∧ q.1 < (a : Int) + m)

/-- The pages that spans of memory lie in. -/
def spanPages (l : List Span) : List Nat :=
  (l.flatMap fun q =>
    let a := q.1.toNat
    if q.2.1 = 0 then [] else (List.range ((a + q.2.1 - 1) / 65536 - a / 65536 + 1)).map (a / 65536 + ·)).eraseDups

/-- What an address of a command reaches, as its translation stands now, whatever the page permits. -/
def reaches (s : State) (e : EngCmd) (a : Nat) : Option Target :=
  let a := BitVec.ofNat 64 a
  if isReeve e.slot then (physicalTarget a).toOption else (translate s (some (coreOf e.slot)) e.job a .fence).1.toOption

/-- The addresses at which a command reaches the memory of a target, in the pages that it touches. -/
def aliasesOf (s : State) (e : EngCmd) (t : Target) : List Nat :=
  ((spanPages (cmdSpans s e)).filter fun p =>
    match reaches s e (p * 65536) with
    | some u => u.tier == t.tier && u.node == t.node && u.addr / 65536 == t.addr / 65536
    | none => false).map (· * 65536 + t.addr % 65536)

/-- Whether a command touches bytes at a target. -/
def touchesTarget (s : State) (e : EngCmd) (t : Target) (n : Nat) (writes : Bool) : Bool :=
  (aliasesOf s e t).any fun a => cmdTouches s e a n writes

/-- Whether a descriptor or record of a command cannot be read now, so that its accesses are not known. -/
def recordsUnknown (s : State) (e : EngCmd) : Bool :=
  (List.range (cmdRecords e).2.2).any fun i => (cmdRecord s e i).isEmpty

/-- Whether a started command is still to touch a page that has no translation now, so that what it will touch there is not
known. -/
def pagesUnknown (s : State) (e : EngCmd) : Bool :=
  e.started && (spanPages (cmdSpans s e)).any fun p => (reaches s e (p * 65536)).isNone

/-- Whether a command may write memory, as far as its records are known. -/
def mayWrite (s : State) (e : EngCmd) : Bool :=
  if recordsUnknown s e then
    match e.kind with
    | .tld | .trope | .bqload | .fput => false
    | _ => true
  else (cmdSpans s e).any (·.2.2)

/-- Whether a command may touch the bytes of an access, one of the two writing them, though its addresses do not show it: places
of two pages overlap, one of which has no translation now and so may be the other (log 75). The pages of one number in one
address space are no such pair. -/
def mayTouch (s : State) (e : EngCmd) (same known : Bool) (a n : Nat) (writes : Bool) : Bool :=
  (cmdSpans s e).any fun q =>
    (q.2.2 || writes) && (piecesOf q.1.toNat q.2.1).any fun p =>
      !(same && p.1 / 65536 == a / 65536) && (!known || (e.started && (reaches s e p.1).isNone)) &&
        decide (a % 65536 < p.1 % 65536 + p.2 ∧ p.1 % 65536 < a % 65536 + n)

/-- Whether two commands are issued in one address space. -/
def oneSpace (f e : EngCmd) : Bool := f.job == e.job && isReeve f.slot == isReeve e.slot

/-- Whether command e touches bytes that command f writes, by their addresses in one job or by what they reach. -/
def writesMeet (s : State) (f e : EngCmd) : Bool :=
  ((cmdSpans s f).filter (·.2.2)).any fun q =>
    (oneSpace f e && cmdTouches s e q.1.toNat q.2.1 true) ||
      (piecesOf q.1.toNat q.2.1).any fun p =>
        match reaches s f p.1 with
        | some t => touchesTarget s e t p.2 true
        | none => false

/-- Whether two commands may touch bytes in common, one writing them, for all that is known of their records and pages. -/
def unknownMeets (s : State) (f e : EngCmd) : Bool :=
  ((recordsUnknown s f || recordsUnknown s e) && (mayWrite s f || mayWrite s e)) ||
    ((pagesUnknown s f || pagesUnknown s e) && (cmdSpans s f).any fun q =>
      (piecesOf q.1.toNat q.2.1).any fun p =>
        mayTouch s e (oneSpace f e) (!f.started || (reaches s f p.1).isSome) p.1 p.2 q.2.2)

/-- Whether an earlier and a later Carter command touch bytes of memory in common that one of them writes. -/
def memoryMeets (s : State) (f e : EngCmd) : Bool := unknownMeets s f e || writesMeet s f e || writesMeet s e f

/-- Whether two regions of a core's commands may have bytes in common. -/
def Region.meets (a b : Region) : Bool := a.lvl == b.lvl && decide (a.base < b.limit ∧ b.base < a.limit)

/-- Whether a command may touch bytes that an earlier one of its queue is still to touch, and so waits for it (R225): regions
of theirs meet, or their accesses to memory do, or may (log 75). -/
def mustFollow (s : State) (f e : EngCmd) : Bool :=
  let regions (q : EngCmd) := (q.reads ++ q.writes).map (cmdRegion q)
  !f.worked && (((regions f).any fun a => (regions e).any a.meets) || memoryMeets s f e)

/-- Whether a command has made its accesses to memory: an FGET or FFADD makes them with its responses. -/
def memoryDone (e : EngCmd) : Bool := e.worked && e.kind != .fget && e.kind != .ffadd

/-- Whether a BQCMD is still to consume a count at the bytes of a load, store or atomic of its crew (R288); the words of memory
semaphores are not among those that R147 orders. -/
def waitsThere (s : State) (e : EngCmd) (l : LogEntry) : Bool :=
  let w := cmdRecord s e 0
  e.kind == .bqcmd && e.readyAt.isNone && (w.getD 0 0).getLsbD 50 &&
    (match l.kind with | .msemsig | .msemwait => false | _ => true) &&
    decide (l.opa.toNat < bits (w.getD 3 0) 47 0 + 8 ∧ bits (w.getD 3 0) 47 0 < l.opa.toNat + entryBytes l)

/-- Whether a scalar access of a crew must wait for an earlier command of it: one that touches the same bytes, or that may for
all that is known (R147, R226, log 75). -/
def behindCommands (s : State) (k : Nat) (c : Crew) (l : LogEntry) : Bool :=
  entryBytes l != 0 && (crewCmds s k c).any fun e =>
    decide (e.seq < l.seq) && !memoryDone e &&
      ((recordsUnknown s e && (mayWrite s e || entryWrites l)) || cmdTouches s e l.opa.toNat (entryBytes l) (entryWrites l) || waitsThere s e l ||
        (pagesUnknown s e && mayTouch s e true true l.opa.toNat (entryBytes l) (entryWrites l)) ||
        match l.target with
        | some t => touchesTarget s e t (entryBytes l) (entryWrites l)
        | none => false)

end Sys2Proof.Machine
end

