-- ==== Sys2Proof/Machine/AccessEvents.lean ====
section
/-!
DEFINITION. How the accesses of a crew's words come to be performed: translations that return (R75), data that arrives (R115,
R117, R334-R337), stores and reductions at their ports (R337, R351), signals (R345), waits on memory (R134, R346), accesses to
lent memory (R80, R81), late causes (R386, R394), and the fetch of instruction words (R84).
-/
namespace Sys2Proof.Machine
open Sys2Proof.Config

/-! ### Values -/

/-- A loaded value extended to 64 bits (R145). -/
def extendLoad (bytes : Nat) (zext : Bool) (v : Nat) : Word :=
  let b : BitVec (8 * bytes) := BitVec.ofNat (8 * bytes) v
  if zext then b.zeroExtend 64 else b.signExtend 64

/-- The bytes that a load reads, with the crew's earlier stores to them that are not yet performed (R147, R337). -/
def forwarded (c : Crew) (e : LogEntry) (t : Target) (bs : List Byte) : List Byte :=
  (earlierThan c e).foldl (fun bs f =>
    match f.kind, f.target with
    | .store n, some u =>
      if forwards f && u.tier == t.tier && u.node == t.node then
        (List.range bs.length).map fun i =>
          let a := t.addr + i
          if u.addr ≤ a ∧ a < u.addr + n then BitVec.ofNat 8 (f.opb.toNat / 2 ^ (8 * (a - u.addr))) else bs.getD i 0
      else bs
    | _, _ => bs) bs

/-- The width of an atomic (R349). -/
def atomicWidth (ty : BitVec 4) : Nat := if ty = 0 then 64 else 32

/-- The new value of an atomic of w bits (Table 12.6); none where nothing is written. -/
def atomicNew (op ty : BitVec 4) (old b c : Nat) : Option Nat :=
  let w := atomicWidth ty
  let signed := decide (ty = 0 ∨ ty = 4)
  let below := decide (intOf w signed old < intOf w signed b)
  match op.toNat with
  | 0 => some ((old + b) % 2 ^ w)
  | 1 => some (if below then old else b)
  | 2 => some (if below then b else old)
  | 3 => some (old &&& b)
  | 4 => some (old ||| b)
  | 5 => some (old ^^^ b)
  | 6 => some b
  | 7 => if old = b then some c else none
  | _ => some (fp32.finish .rne false (addNum false (fp32.decode old) (fp32.decode b))).1

/-- What an atomic returns (R349). -/
def atomicResult (ty : BitVec 4) (old : Nat) : Word :=
  if ty = 4 then (BitVec.ofNat 32 old).signExtend 64 else BitVec.ofNat 64 old

/-! ### Performing accesses to local HBM and control-node memory -/

/-- Whether an entry's access is plain (R328). -/
def plainEntry (e : LogEntry) : Bool :=
  match e.kind with
  | .load _ _ | .store _ => e.ord == 0
  | .loadSpec | .waitc | .spawn => true
  | _ => false

/-- Delivers a value to what waits for an entry. -/
def deliverTo (s : State) (k : Nat) (c : Crew) (e : LogEntry) (v : Word) (poison : Bool) : State :=
  spend (putCrew s k (deliver s.free c e.seq v poison)) 1

/-- A load of an entry whose target is local (R145, R148, R340, Table 10.5). -/
def performLoad (s : State) (k : Nat) (c : Crew) (e : LogEntry) (t : Target) : State :=
  let n := entryBytes e
  let spec := match e.kind with | .loadSpec => true | _ => false
  if e.ord = 0 && !isReeve k && racesAt s (jobOf s c) c.crewId t n then
    if spec then deliverTo s k c e (freeWord s.free) true else lateFault s k e.seq 0x20 e.opa
  else
    let v := bytesValue (forwarded c e t (targetBytes s t n))
    let bad := (targetPoison s t n).isSome
    let s := afterTarget s t n
    let z := match e.kind with | .load _ z => z | _ => true
    if bad then deliverTo s k c e (freeWord s.free) true else deliverTo s k c e (extendLoad n z v) false

/-- A store of an entry whose target is local (R146, R339, R340). -/
def performStore (s : State) (k : Nat) (c : Crew) (e : LogEntry) (t : Target) : State :=
  let n := entryBytes e
  let plain := e.ord = 0 && !isReeve k
  if plain && racesAt s (jobOf s c) c.crewId t n then lateFault s k e.seq 0x20 e.opa
  else
    let s := targetWrite s t (valueBytes n e.opb.toNat)
    let s := if plain then recordWrite s (jobOf s c) c.crewId t n else s
    putCrew s k (performed c e.seq)

/-- An indivisible read and write of a local target: f gives the value to write, or a cause; poison is a late ECC_UE and
leaves memory as it is (Table 10.5). -/
def indivisible (s : State) (k : Nat) (e : LogEntry) (t : Target) (n : Nat)
    (f : Nat → Except (BitVec 8) (Option Nat)) (done : State → Nat → State) : State :=
  if (targetPoison s t n).isSome then lateFault (afterTarget s t n) k e.seq 0x40 e.opa
  else
    let old := bytesValue (targetBytes s t n)
    let s := afterTarget s t n
    match f old with
    | .error code => lateFault s k e.seq code e.opa
    | .ok (some v) => done (targetWrite s t (valueBytes n v)) old
    | .ok none => done s old

/-- An atomic or reduction (R349, R351). -/
def performAtomic (s : State) (k : Nat) (c : Crew) (e : LogEntry) (t : Target) (op ty : BitVec 4) (ret : Bool) : State :=
  let m := 2 ^ atomicWidth ty
  indivisible s k e t (entryBytes e) (fun old => .ok (atomicNew op ty old (e.opb.toNat % m) (e.opc.toNat % m))) fun s old =>
    if ret then deliverTo s k c e (atomicResult ty old) false else putCrew s k (performed c e.seq)

/-- MSEMSIG (R346): a sum past 2^64 − 1 leaves the count unchanged and is a late SEM_OVERFLOW. -/
def performMsemsig (s : State) (k : Nat) (c : Crew) (e : LogEntry) (t : Target) : State :=
  indivisible s k e t 8
    (fun old => if old + e.opb.toNat ≥ 2 ^ 64 then .error 0x21 else .ok (some (old + e.opb.toNat))) fun s _ =>
      putCrew s k (performed c e.seq)

/-- JOINDEC (R133). -/
def performJoindec (s : State) (k : Nat) (c : Crew) (e : LogEntry) (t : Target) : State :=
  indivisible s k e t 8 (fun old => .ok (some ((old + 2 ^ 64 - 1) % 2 ^ 64))) fun s old =>
    deliverTo s k c e (BitVec.ofNat 64 old) false

/-- The read of SPAWN's docket (R132). -/
def performSpawn (s : State) (k : Nat) (c : Crew) (e : LogEntry) (t : Target) : State :=
  if !isReeve k && racesAt s (jobOf s c) c.crewId t 64 then lateFault s k e.seq 0x20 e.opa
  else if (targetPoison s t 64).isSome then lateFault (afterTarget s t 64) k e.seq 0x40 e.opa
  else spawnDocket (afterTarget s t 64) k e.seq (bytesWords 8 (targetBytes s t 64))

/-- Performs an entry's access at its local target. -/
def performAt (s : State) (k : Nat) (c : Crew) (e : LogEntry) (t : Target) : State :=
  match e.kind with
  | .load _ _ | .loadSpec => performLoad s k c e t
  | .store _ => performStore s k c e t
  | .atomic op ty ret => performAtomic s k c e t op ty ret
  | .msemsig => performMsemsig s k c e t
  | .joindec => performJoindec s k c e t
  | .spawn => performSpawn s k c e t
  | _ => s

/-! ### Lent memory (R80, R81) -/

/-- The operation code, TY and CNT that carry an entry's access to a lender. Where Table 13.2 has no code for it, one code that
it leaves free does, with the operation in CNT: the minor of an atomic, 9 for MSEMWAIT, 10 for MSEMSIG (DESIGN CHOICE, log 18). -/
def remoteCode (e : LogEntry) : Nat × Nat × Nat :=
  match e.kind with
  | .store _ => (2, 0, 0)
  | .atomic op ty _ =>
    if op = 0 then (3, if ty = 0 then 0 else 1, 0) else if op = 8 then (3, 2, 0) else (lentOpc, ty.toNat, op.toNat)
  | .joindec => (3, 0, 0)
  | .msemsig => if e.opb = 1 then (4, 0, 0) else (lentOpc, 0, 10)
  | .msemwait => (lentOpc, 0, 9)
  | _ => (1, 0, 0)

/-- Sends the access of an entry to the lender of its page. -/
def sendAccess (s : State) (k : Nat) (c : Crew) (e : LogEntry) (t : Target) : State :=
  let (opc, ty, cnt) := remoteCode e
  let tag := s.fabric.nextTag
  let opnd : Word := match e.kind with
    | .joindec => BitVec.allOnes 64
    | .atomic _ ty _ => if ty = 0 then e.opb else e.opb &&& 0xFFFFFFFF
    | .msemsig => e.opb
    | _ => 0
  let data : List Byte := match e.kind with
    | .store n => valueBytes n e.opb.toNat
    | .atomic 7 _ _ => wordBytes e.opc
    | _ => []
  let s := putCrew s k (modLog c e.seq fun e => { e with tag := some tag })
  sendRequest s
    { core := coreOf k, job := jobOf s c, opc := opc, node := t.node, raddr := t.addr, len := entryBytes e, ty := ty, phy := true,
      opnd := opnd, circ := 0, data := data, dests := [], cmd := none, access := some (k, e.seq), place := 0, cnt := cnt }

/-- The answer of a lender to an entry's access: data, an old value, or a status (R371, Table 14.2). Waits keep the value that
they have read until they are made again. -/
def remoteAnswer (s : State) (k : Nat) (c : Crew) (e : LogEntry) (stat : Nat) (data : List Byte) (opnd : Word) : State :=
  let c := modLog c e.seq fun e => { e with tag := none }
  let s := putCrew s k c
  let raddr : Word := match e.target with | some t => BitVec.ofNat 64 t.addr | none => 0
  let spec := match e.kind with | .loadSpec => true | _ => false
  let poison := deliverTo s k c e (freeWord s.free) true
  match stat with
  | 0 =>
    match e.kind with
    | .load n z => deliverTo s k c e (extendLoad n z (bytesValue (data.take n))) false
    | .loadSpec => deliverTo s k c e (bytesWord (data.take 8)) false
    | .atomic _ ty true => deliverTo s k c e (atomicResult ty (opnd.toNat % 2 ^ atomicWidth ty)) false
    | .joindec => deliverTo s k c e opnd false
    | .spawn => spawnDocket s k e.seq (bytesWords 8 (data.take 64))
    | .waitc => putCrew s k (modLog c e.seq fun e => { e with data := [bytesWord (data.take 8)] })
    | .msemwait => putCrew s k (modLog c e.seq fun e => { e with data := [opnd] })
    | _ => putCrew s k (performed c e.seq)
  | 1 => if spec then poison else lateFault s k e.seq 0x31 raddr
  | 2 => if spec then poison else holdFault s k e.seq 0x13 e.opa
  | 3 =>
    match e.kind with
    | .load _ _ | .loadSpec => poison
    | _ => lateFault s k e.seq 0x40 e.opa
  | _ => lateFault s k e.seq 0x21 e.opa

/-- A lender's answer that did not come within 1 s (R371). -/
def remoteTimeout (s : State) (k : Nat) (c : Crew) (e : LogEntry) : State :=
  let c := modLog c e.seq fun e => { e with tag := none }
  let s := putCrew s k c
  let raddr : Word := match e.target with | some t => BitVec.ofNat 64 t.addr | none => 0
  match e.kind with
  | .loadSpec => deliverTo s k c e (freeWord s.free) true
  | _ => lateFault s k e.seq 0x30 raddr

/-! ### The events -/

/-- Sends an entry's access to its lender; a plain one to a checked page is checked, and a write recorded, before it leaves
(R339, R340). -/
def performLent (s : State) (k : Nat) (c : Crew) (e : LogEntry) (t : Target) : State :=
  let n := entryBytes e
  if plainEntry e && !isReeve k && racesAt s (jobOf s c) c.crewId t n then
    match e.kind with
    | .loadSpec => deliverTo s k c e (freeWord s.free) true
    | _ => lateFault s k e.seq 0x20 e.opa
  else
    let s := sendAccess s k c e t
    if plainEntry e && entryWrites e && !isReeve k then recordWrite s (jobOf s c) c.crewId t n else s

/-- Makes an entry's access where the order of the log, the crew's earlier Carter commands (R226) and its target let it be
made; an access to lent memory is sent, and one to HBM that its controllers do not serve yet stands before them (R276). -/
def performEntry (s : State) (k : Nat) (c : Crew) (e : LogEntry) : State :=
  match e.target with
  | none => s
  | some t =>
    if e.phase != .going || e.faulted || !orderLets s k c e || behindCommands s k c e then s
    else
      let d := markPassed c e
      if t.tier = 1 then (if e.tag.isSome then s else performLent (putCrew s k d) k d e t)
      else if targetMay s t (entryBytes e) then signCrossings (k, c.crewId, e.seq) s (performAt (putCrew s k d) k d e t)
      else targetWaits s t (entryBytes e)

/-- An event that concerns an entry of the log of the crew on a bench. -/
def entryEvent (slot seq : Nat) (s : State) (f : Crew → LogEntry → State) : Out :=
  .next (match crewAt s slot with
    | none => s
    | some c =>
      match logEntry c seq with
      | none => s
      | some e => f c e)

/-- Whether an entry's access waits for the translation of its address. -/
def inTranslation (e : LogEntry) : Bool := e.phase == .translating && !e.faulted

/-- The translation of an entry's access is known: it goes on, or faults. -/
def takeTranslation (s : State) (k : Nat) (c : Crew) (e : LogEntry) : Translation → State
  | .ok t => translated s k c e t
  | .error f => translationFault s k c e f

/-- What the translation agent has found of a page reaches an access that waits for it. -/
def takePage (p : Except (BitVec 8) PageFound) (s : State) (q : Nat × Nat) : State :=
  match (crewAt s q.1).bind fun c => (logEntry c q.2).map fun e => (c, e) with
  | none => s
  | some (c, e) =>
    match p with
    | .error f => translationFault s q.1 c e f
    | .ok p =>
      let (r, s) := pageTarget s (some (coreOf q.1)) (jobOf s c) e.opa.toNat (entryAccess e) p
      takeTranslation s q.1 c e r

/-- The accesses of a job's crews that wait for the translation of one page, by bench and number: misses that overlap share one
walk (R76). -/
def sharers (s : State) (job : Nat) (va : Word) (p : Except (BitVec 8) PageFound) : List (Nat × Nat) :=
  let size := match p with | .ok p => if p.large then 2 ^ 23 else 65536 | .error _ => 65536
  s.crews.flatMap fun q =>
    if isReeve q.1 || jobOf s q.2 != job then []
    else (q.2.log.filter fun e => inTranslation e && e.opa.toNat / size == va.toNat / size).map fun e => (q.1, e.seq)

/-- TRANSLATION_RETURN (R66, R75, R76, R389). -/
def execTranslationReturn (slot seq : Nat) (s : State) : Out :=
  entryEvent slot seq s fun c e =>
    if !inTranslation e || !memoryAwake s then s
    else if isReeve slot then takeTranslation s slot c e (physicalTarget e.opa)
    else
      let (p, s) := findPage s (jobOf s c) e.opa
      (sharers s (jobOf s c) e.opa p).foldl (takePage p) s

/-- LOAD_DATA_ARRIVE (R117): a load, an atomic with a return, JOINDEC, or the docket of SPAWN. -/
def execLoadDataArrive (slot seq : Nat) (s : State) : Out :=
  entryEvent slot seq s fun c e =>
    match e.kind with
    | .load _ _ | .loadSpec | .atomic _ _ true | .joindec => performEntry s slot c e
    | .spawn => if e.data.isEmpty then performEntry s slot c e else s
    | _ => s

/-- The keys of the bytes that a vector store touches. -/
def VStore.keys (v : VStore) : List Nat :=
  v.writes.map (·.1) ++ v.adds.flatMap fun a => (List.range (typeWidth a.ty / 8)).map (a.key + ·)

/-- Where a bench's accesses to a scratchpad byte are served in order: the byte's bank of the core scratchpad, or the bench's
share of a Reeve's scratchpad or of a shared level (R214-R216). -/
def servedAt (key : Nat) : Nat :=
  let space := key / 2 ^ 32
  if space < 64 then key / 128 % 64 else if space < 72 then 64 else if space < 80 then 65 else 66

/-- Whether two vector stores of a crew must keep their order: one bank or one share serves both, and they are not two plain
scatter-adds (R204, R205, R216). -/
def storesClash (u v : VStore) : Bool :=
  (u.adds.isEmpty || v.adds.isEmpty || u.ordered || v.ordered) &&
    (u.keys.map servedAt).any fun a => (v.keys.map servedAt).contains a

/-- The element sum of a scatter-add: wrapping for integers, rounded for floating-point types (R204). -/
def scatterSum (a : VAdd) (old : Nat) : Nat :=
  match formatOf a.ty with
  | some F => (F.finish (modeOf a.mode a.random) false
      (addNum (modeOf a.mode a.random).isDown (F.decode old) (F.decode a.value))).1
  | none => (old + a.value) % 2 ^ typeWidth a.ty

/-- Performs a vector store: its bytes are written, and each addition reads, adds and writes its element in one step. -/
def performVector (m : Memory) (v : VStore) : Memory :=
  v.adds.foldl (fun m a =>
    let n := typeWidth a.ty / 8
    memWrite m a.key (valueBytes n (scatterSum a (bytesValue (memRead m a.key n))))) (memWriteCells m v.writes)

/-- Whether a vector store may be performed: no earlier one of the crew is to be served before it, and no acquire that RVZ
puts before it is outstanding (R205, R216, R329, R348). -/
def vstoreAllows (c : Crew) (v : VStore) : Bool :=
  let before := c.vstores.takeWhile (·.seq != v.seq)
  !(before.any fun u => storesClash u v) &&
    !(c.log.any fun e => acquires e && decide (e.epoch < v.epoch))

/-- Performs a vector store of a crew. -/
def performStored (s : State) (k : Nat) (c : Crew) (v : VStore) : State :=
  putCrew { s with spad := performVector s.spad v } k (settle { c with vstores := c.vstores.filter (·.seq != v.seq) })

/-- WRITE_PERFORMED (R337, R351): a scalar store, a reduction, or a vector store. -/
def execWritePerformed (slot seq : Nat) (s : State) : Out :=
  .next (match crewAt s slot with
    | none => s
    | some c =>
      match c.vstores.find? (·.seq == seq) with
      | some v =>
        if vstoreAllows c v then performStored s slot c v else s
      | none =>
        match logEntry c seq with
        | none => s
        | some e =>
          match e.kind with
          | .store _ | .atomic _ _ false => performEntry s slot c e
          | _ => s)

/-- SIGNAL_TAKE_EFFECT (R345): SEMSIG, a SEMINIT behind signals, MSEMSIG. -/
def execSignalTakeEffect (slot seq : Nat) (s : State) : Out :=
  entryEvent slot seq s fun c e =>
    if e.faulted || !orderAllows c e then s
    else
      match e.kind with
      | .semsig n =>
        match semAdd s (coreOf slot) n e.opb.toNat with
        | (true, s) => modCrew s slot fun c => performed c seq
        | (false, s) => lateFault s slot seq 0x21 (BitVec.ofNat 64 n)
      | .seminit n =>
        let m := semAt s (coreOf slot) n
        modCrew (putSem s (coreOf slot) n { m with count := e.opb.truncate 32 }) slot fun c => performed c seq
      | .msemsig => performEntry s slot c e
      | _ => s

/-- The oldest wait on memory that was displaced from its stream, or the entry of the word that waits at the crew's S-stream. -/
def waitingEntry (c : Crew) : Option LogEntry :=
  match (c.log.find? (displaced c)).or (waitEntry c) with
  | some e => if e.phase == .going && !e.faulted && c.waitValue.isNone && c.state == .running then some e else none
  | none => none

/-- The end of a wait on memory: the word issues at once with the value found (R346). The register of a displaced WAITC takes
the value (R393). -/
def endWait (s : State) (k : Nat) (c : Crew) (e : LogEntry) (v : Word) : State :=
  if displaced c e then
    spend (putCrew s k (landDue s.free (pendX (performed c e.seq) .s (BitVec.ofNat 6 e.rd) v false 0))) 1
  else
    let s := putCrew s k { performed c e.seq with waitValue := some v }
    { s with agenda := .crew k :: s.agenda }

/-- Reads a waiting word's doubleword afresh through its translation (R134, R346): a fault, poison, or the value. -/
def rereadWait (s : State) (k : Nat) (c : Crew) (e : LogEntry) (use : State → Target → Word → State) : State :=
  if !memoryAwake s then s
  else
  match targetFor s k (jobOf s c) e.opa (entryAccess e) with
  | (.error f, s) => translationFault s k c e f
  | (.ok t, s) =>
    if t.tier = 1 || !orderAllows c e then s
    else if !targetMay s t 8 then targetWaits s t 8
    else if plainEntry e && !isReeve k && racesAt s (jobOf s c) c.crewId t 8 then lateFault s k e.seq 0x20 e.opa
    else if (targetPoison s t 8).isSome then lateFault (afterTarget s t 8) k e.seq 0x40 e.opa
    else use (afterTarget s t 8) t (bytesWord (targetBytes s t 8))

/-- A wait on lent memory: it asks the lender, and takes up the answer; a consumed count advances the intervals (R338). -/
def lentWait (s : State) (k : Nat) (c : Crew) (e : LogEntry) (t : Target) (ends : Word → Bool) : State :=
  match e.data with
  | v :: _ =>
    if ends v then endWait (match e.kind with | .msemwait => advanceCell s t | _ => s) k c e v
    else putCrew s k (modLog c e.seq fun e => { e with data := [] })
  | [] => if e.tag.isSome || !orderAllows c e then s else performLent s k c e t

/-- MSEMWAIT_REREAD (R346): one indivisible step at the port finds the count above zero and takes one. -/
def execMsemwaitReread (slot : Nat) (s : State) : Out :=
  .next (match crewAt s slot with
    | none => s
    | some c =>
      match waitingEntry c with
      | none => s
      | some e =>
        match e.kind, e.target with
        | .msemwait, some t =>
          if t.tier = 1 then lentWait s slot c e t (· != 0)
          else rereadWait s slot c e fun s t v =>
            if v = 0 then s
            else
              let s := signCrossings (slot, c.crewId, e.seq) s (targetWrite s t (wordBytes (v - 1)))
              endWait (advanceCell s t) slot c e v
        | _, _ => s)

/-- WAITC_REREAD (R134). -/
def execWaitcReread (slot : Nat) (s : State) : Out :=
  .next (match crewAt s slot with
    | none => s
    | some c =>
      match waitingEntry c with
      | none => s
      | some e =>
        match e.kind, e.target with
        | .waitc, some t =>
          if t.tier = 1 then lentWait s slot c e t (fun v => decide (v.toNat ≤ e.opb.toNat))
          else rereadWait s slot c e fun s _ v => if v.toNat ≤ e.opb.toNat then endWait s slot c e v else s
        | _, _ => s)

/-- LATE_FAULT_DELIVERY (R386, R394): one trap, for the oldest entry; the others recur at resumption. -/
def execLateFaultDelivery (slot : Nat) (s : State) : Out :=
  .next (match crewAt s slot with
    | none => s
    | some c =>
      if c.state != .running then s
      else
        match c.log.find? fun e => c.late.contains e.seq with
        | none => s
        | some e =>
          let late := c.late.filter fun q => q != e.seq && c.log.any fun f => f.seq == q && !f.ri
          takeTrap (putCrew s slot { c with late := late }) slot none e.code 0 e.pc e.addr (liveIndex c e.seq))

/-! ### Fetching -/

/-- Whether a stream's next word is to be fetched: the counter stands past its previous issue (R84). -/
def fetchNeeded (c : Crew) (str : Stream) : Bool :=
  let st := c.stream str
  !st.exited && st.rvz.isNone && st.fetched.isNone && (match st.last with | some p => decide (p < c.counter) | none => true)

/-- INSTRUCTION_FETCH_RETURN (R84, R124): the word arrives, or its fetch faults at the count that stands; it waits while the
memory does not serve it (R276). -/
def execInstructionFetchReturn (slot : Nat) (str : Stream) (s : State) : Out :=
  .next (match crewAt s slot with
    | none => s
    | some c =>
      if !fetchNeeded c str || groupFrozen s slot || s.pkg.hold then s
      else
        let pc := (c.stream str).pc
        match fetchWord s slot c pc with
        | (r, t) =>
          if t.balked then keepWalks s t
          else
            match r with
            | .ok w => putCrew t slot (c.setStream str { c.stream str with fetched := some w })
            | .error f => wordTrap t slot str c f pc)

end Sys2Proof.Machine
end

