-- ==== Sys2Proof/Machine/VectorOps.lean ====
section
/-!
DEFINITION. What every vector and predicate word shares: elements and groups (R178, R179), guards (R180, R181), the pipe and
the memory path (R185), the effective rounding mode and the stochastic state (R163, R165), results and flags (R162, R181). -/
namespace Sys2Proof.Machine
open Sys2Proof.Config

/-! ### Elements -/

/-- Elements of width w in a register. -/
def elementCount (w : Nat) : Nat := 4096 / w

/-- Element i of a register (Table 07.1). -/
def elem (w : Nat) (v : VecReg) (i : Nat) : Nat := v.toNat / 2 ^ (w * i) % 2 ^ w

/-- Narrow-side element i of a group of k registers (R179). -/
def groupElem (w k : Nat) (g : Nat → VecReg) (i : Nat) : Nat := elem w (g (i % k)) (i / k)

/-- The granule whose predicate bit governs element i (Table 07.1). -/
def governing (w i : Nat) : Nat := w * i / 16

/-- Whether element i is active under guard bits (R180). -/
def active (g : PredReg) (w i : Nat) : Bool := g.getLsbD (governing w i)

/-- Elements packed into a number, the first lowest. -/
def packElems (w : Nat) (l : List Nat) : Nat := l.foldr (fun x a => a * 2 ^ w + x % 2 ^ w) 0

/-- The guard bits of a vector word (R180). -/
def guardBits (s : State) (c : Crew) (pred : Nat) (pn : Bool) : PredReg :=
  if pn then ~~~(readP s c 9 pred) else readP s c 9 pred

/-- What each of n elements of width w receives: nothing where it is inactive. -/
def onActive (g : PredReg) (w n : Nat) (f : Nat → Nat × FlagSet) : List (Option (Nat × FlagSet)) :=
  (List.range n).map fun i => if active g w i then some (f i) else none

/-- The flags of a word: the OR of its active elements' (R181). -/
def gathered (l : List (Option (Nat × FlagSet))) : FlagSet := orFlags (l.map fun e => match e with | some q => q.2 | none => 0)

/-! ### Results -/

/-- The pending write of elements to one vector register; with .z the inactive ones are zeroed (R181). -/
def putRegister (c : Crew) (r w : Nat) (z : Bool) (l : List (Option (Nat × FlagSet))) (bound : Nat) : Crew :=
  let val := packElems w (l.map fun e => match e with | some q => q.1 | none => 0)
  let mask := packElems w (l.map fun e => match e with | some _ => 2 ^ w - 1 | none => 0)
  pendV c r (if z then BitVec.allOnes 4096 else BitVec.ofNat 4096 mask) (BitVec.ofNat 4096 val) bound

/-- The elements of narrow-side order that register r of a group of k takes. -/
def groupPart {α : Type} (k r : Nat) (l : List α) : List α := (l.zipIdx.filter fun q => q.2 % k == r).map (·.1)

/-- The pending write of elements to a group of k registers (R179). -/
def putGroup (c : Crew) (r k w : Nat) (z : Bool) (l : List (Option (Nat × FlagSet))) (bound : Nat) : Crew :=
  (List.range k).foldl (fun c j => putRegister c (r + j) w z (groupPart k j l) bound) c

/-- Flags in flight until a result with a bound lands (R162), which no word sees before its bound but by the free choices of
readFlags and unlandedFlags. -/
def raiseFlags (c : Crew) (f : FlagSet) (bound : Nat) : Crew :=
  if f = 0 then c else { c with pendF := c.pendF ++ [(c.counter, c.counter + bound, f)] }

/-! ### Rounding (R163, R165) -/

/-- The effective mode's code: MOD<5:3>, or FRM where it is 0. -/
def modeCode (c : Crew) (m : BitVec 6) : Nat :=
  if m.extractLsb' 3 3 = 0 then c.frm.toNat % 8 else (m.extractLsb' 3 3).toNat

/-- The random word of result element j. -/
def wordRandom (c : Crew) (j : Nat) : BitVec 32 := randomWord c.srseed c.srstrm c.srctr j

/-- The effective mode of result element j. -/
def elementMode (c : Crew) (m : BitVec 6) (j : Nat) : Mode :=
  if modeCode c m = 5 then .sr (wordRandom c j) else modeOf (modeCode c m) 0

/-- A word whose effective mode is SR advances SRCTR at its issue (R165). -/
def advanceRandom (c : Crew) (m : BitVec 6) (rounds : Bool) : Crew :=
  if rounds && modeCode c m == 5 then { c with srctr := c.srctr + 256 } else c

/-- Whether a type is a floating-point type. -/
def isFloat (t : Nat) : Bool := (formatOf t).isSome

/-! ### The frame of a vector word -/

/-- The vector pipe and the vector memory path of a bench. -/
inductive Resource where
  | pipe
  | memory
deriving DecidableEq, Repr

/-- A resource's key in the crew. -/
def Resource.key : Resource → Nat
  | .pipe => 0
  | .memory => 1

/-- Whether a resource is held at the crew's count (R185). -/
def resourceHeld (c : Crew) (r : Resource) : Bool :=
  match mapGet c.pipes r.key with
  | some last => decide (c.counter ≤ last)
  | none => false

/-- Holds a resource for k counts. -/
def hold (c : Crew) (r : Resource) (k : Nat) : Crew := { c with pipes := mapSet c.pipes r.key (c.counter + k - 1) }

/-- Whether the resource that a word needs is held. -/
def useHeld (c : Crew) : Option (Resource × Nat) → Bool
  | some u => resourceHeld c u.1
  | none => false

/-- Holds the resource that a word needs. -/
def holdUse (c : Crew) : Option (Resource × Nat) → Crew
  | some u => hold c u.1 u.2
  | none => c

/-- The registers of a group as sources, and their last use. -/
def groupReads (r k : Nat) : List (RegFile × Nat) := (List.range k).map fun j => (.v, r + j)
/-- The frees of a field that names a group (R183). -/
def groupFrees (r k : Nat) (l : Bool) : List (RegFile × Nat × Bool) := (List.range k).map fun j => (.v, r + j, l)

/-- The fields of a vector word that its frame reads. -/
structure VFrame where
  pred : Nat
  pn : Bool
  /-- Groups named: first register and number (R179). -/
  groups : List (Nat × Nat)
  use : Option (Resource × Nat)
  reads : List (RegFile × Nat)
  frees : List (RegFile × Nat × Bool)
  /-- Scalar sources, numbered. -/
  scalars : List (Nat × BitVec 6)

/-- Runs a vector word: group alignment (R179), its resource (R185), scalar poison (R183), then its body under its guard. -/
def vectorWord (f : VFrame) (s : State) (body : State → Nat → Crew → PredReg → Effect) : Out :=
  runWord s .v false none f.frees ((.p, f.pred) :: f.reads) fun s k _ c =>
    if f.groups.any fun g => g.1 % g.2 != 0 then .trap 0x01 7
    else if useHeld c f.use then .trap 0x01 6
    else
      match poisonedX s c f.scalars with
      | some a => .trap 0x04 a
      | none => body s k (holdUse c f.use) (guardBits s c f.pred f.pn)

/-- The frame of a format A word on the pipe, with its first n vector sources. -/
def frameA (o : FmtA) (n occupancy : Nat) : VFrame :=
  { pred := o.pred.toNat, pn := o.pn, groups := [], use := some (.pipe, occupancy)
    reads := ([(.v, o.ra.toNat), (.v, o.rb.toNat), (.v, o.rc.toNat)] : List (RegFile × Nat)).take n
    frees := ([(.v, o.ra.toNat, o.la), (.v, o.rb.toNat, o.lb), (.v, o.rc.toNat, o.lc)] : List (RegFile × Nat × Bool)).take n
    scalars := [] }

/-- MOD's .z and .sat. -/
def zeroing (o : FmtA) : Bool := o.mod.getLsbD 1
def saturating (o : FmtA) : Bool := o.mod.getLsbD 2

/-- An element-by-element form with n vector sources of its TYPE: f computes element i from its mode and its operands
(R181). rounds tells whether the word has an effective mode (R163). -/
def elementWord (o : FmtA) (n bound : Nat) (rounds : Bool) (f : Mode → Nat → Nat → Nat → Nat × FlagSet) (s : State) : Out :=
  vectorWord (frameA o n 2) s fun s _ c g =>
    let w := typeWidth o.ty.toNat
    let a := readV s c 0 o.ra.toNat
    let b := readV s c 1 o.rb.toNat
    let d := readV s c 2 o.rc.toNat
    let l := onActive g w (elementCount w) fun i =>
      f (if rounds then elementMode c o.mod i else .rne) (elem w a i) (elem w b i) (elem w d i)
    .done s (advanceRandom (raiseFlags (putRegister c o.rd.toNat w (zeroing o) l bound) (gathered l) bound) o.mod rounds)

end Sys2Proof.Machine
end

