-- ==== Sys2Proof/Machine/MillOps.lean ====
section
/-!
DEFINITION. The state of a Mill as operations reach it (R292), the fetch of its words from the code store (R290, R294), its
lanes with poison and flags (R298-R300), the ends of a kernel (R293, R296), and its accesses to memory through the command
wheel (R273, R297, R301) with near-memory ECC (R283, R284).
-/
namespace Sys2Proof.Machine
open Sys2Proof.Config

/-- A Mill and its controller before any kernel (log 23): the wheel at slot 0 with the share that MSH has at reset (R273, R274). -/
def MillState.reset : MillState :=
  { owner := none, ended := false, holder := none, mv := Vector.replicate 16 0, mvPoison := Vector.replicate 16 0,
    mx := Vector.replicate 16 0, mxPoison := 0, mask := Vector.ofFn fun i : Fin 4 => if i.val = 0 then BitVec.allOnes 32 else 0,
    pb := 0, vc := 0, wf := 0, laneFlags := 0, loops := [], pc := 0, chan := 0, ownedBanks := 0, revolution := 0,
    wheelSlot := 0, share := 8, slotRow := none, slotUse := 0, trip := 0, service := none }

/-- A Mill. -/
def millAt (s : State) (m : Nat) : MillState := mapGetD s.mills m .reset
/-- Replaces a Mill. -/
def putMill (s : State) (m : Nat) (v : MillState) : State := { s with mills := mapSet s.mills m v }

/-- The stack of a Mill, and the key of a byte of its code store (R290). -/
def codeKey (m offset : Nat) : Nat := m / 64 * 65536 + offset

/-- The word at a byte offset of a Mill's code store; none past its end, where a kernel ends with ILL (DESIGN CHOICE, log 81:
the rules do not say whether the 16-bit pc wraps). -/
def millWordAt (s : State) (m pc : Nat) : Option (BitVec 32) :=
  if pc ≤ 0xFFFC then some (BitVec.ofNat 32 (bytesValue (memRead s.code (codeKey m pc) 4))) else none

/-- Whether a Mill runs a kernel and may issue (R297). -/
def millRuns (s : State) (m : Nat) : Bool :=
  match mapGet s.mills m with
  | some v => v.owner.isSome && !v.ended && !s.pkg.hold
  | none => false

/-! ### Flags of a channel (Table 10.8) -/

def chanUE : BitVec 12 := 0x100
def chanILL : BitVec 12 := 0x200
def chanOWN : BitVec 12 := 0x400
def chanWD : BitVec 12 := 0x800

/-- The flags of one lane. -/
def laneFlag (v : MillState) (l : Nat) : FlagSet := v.laneFlags.extractLsb' (5 * l) 5
/-- The OR of the flags of every lane. -/
def allLaneFlags (v : MillState) : FlagSet := orFlags ((List.range 32).map (laneFlag v))
/-- Raises flags in a lane (R300). -/
def raiseLane (v : MillState) (l : Nat) (f : FlagSet) : MillState :=
  { v with laneFlags := v.laneFlags ||| (f.zeroExtend 160 <<< (5 * l)) }

/-- The end of a kernel with channel flags: those of its lanes join them (R293, R296). -/
def endKernel (v : MillState) (f : BitVec 12) : MillState :=
  { v with ended := true, loops := [], chan := v.chan ||| f ||| (allLaneFlags v).zeroExtend 12 }

/-- Whether a kernel ended by NEND. -/
def endedWell (v : MillState) : Bool := v.ended && (v.chan &&& (chanILL ||| chanOWN ||| chanWD)) == 0

/-! ### Registers -/

/-- The value of an mx register; mx0 reads zero (Table 11.1). -/
def mxGet (v : MillState) (r : BitVec 4) : Word := if r = 0 then 0 else v.mx[r.toNat]
/-- The poison tag of an mx register. -/
def mxTag (v : MillState) (r : BitVec 4) : Bool := r != 0 && v.mxPoison.getLsbD r.toNat
/-- Writes an mx register with its tag; a write to mx0 is discarded. mx1 to mx4 carry a tag too (DESIGN CHOICE, log 81: R299
speaks of any mx register, Table 11.1 names the tags of mx5 to mx15 only). -/
def mxPut (v : MillState) (r : BitVec 4) (x : Word) (tag : Bool) : MillState :=
  if r = 0 then v
  else { v with mx := v.mx.set r.toNat x,
                mxPoison := if tag then v.mxPoison ||| (1#16 <<< r.toNat) else v.mxPoison &&& ~~~(1#16 <<< r.toNat) }
/-- A mask register. -/
def mkGet (v : MillState) (k : BitVec 2) : BitVec 32 := v.mask[k.toNat]
/-- Writes a mask register; mk0 is read-only. -/
def mkPut (v : MillState) (k : BitVec 2) (x : BitVec 32) : MillState :=
  if k = 0 then v else { v with mask := v.mask.set k.toNat x }

/-- Lane l of an mv register. -/
def lane (v : MillState) (r : BitVec 4) (l : Nat) : Nat := elem 32 ((v.mv[r.toNat]).zeroExtend 4096) l
/-- The poison tag of lane l. -/
def laneTag (v : MillState) (r : BitVec 4) (l : Nat) : Bool := (v.mvPoison[r.toNat]).getLsbD l

/-- What a word gives a lane: its value, its poison tag and the flags it raises. -/
structure LaneResult where
  value : Nat
  tag : Bool
  flags : FlagSet
deriving DecidableEq, Repr

/-- Bits of a list, the first lowest. -/
def boolBits : List Bool → Nat
  | [] => 0
  | b :: l => (if b then 1 else 0) + 2 * boolBits l

/-- Writes the lanes of an mv register that a word gives results for; every other lane keeps its value (R298). -/
def putLanes (v : MillState) (r : BitVec 4) (out : Nat → Option LaneResult) : MillState :=
  let outs := (List.range 32).map out
  let value := outs.zipIdx.map fun q => match q.1 with | some x => x.value | none => lane v r q.2
  let tags := outs.zipIdx.map fun q => match q.1 with | some x => x.tag | none => laneTag v r q.2
  let flags := outs.map fun q => match q with | some x => x.flags.toNat | none => 0
  { v with mv := v.mv.set r.toNat (BitVec.ofNat 1024 (packElems 32 value))
           mvPoison := v.mvPoison.set r.toNat (BitVec.ofNat 32 (boolBits tags))
           laneFlags := v.laneFlags ||| BitVec.ofNat 160 (packElems 5 flags) }

/-- A result for the lanes that a mask makes active (R298). -/
def onLanes (v : MillState) (m : BitVec 2) (f : Nat → LaneResult) (l : Nat) : Option LaneResult :=
  if (mkGet v m).getLsbD l then some (f l) else none

/-! ### How a word ends -/

/-- How the body of a Mill word ends. -/
inductive MillEnd where
  /-- The word completes. -/
  | done (s : State) (v : MillState)
  /-- The word completes and control goes to a byte offset, with the loops that stay active. -/
  | jump (s : State) (v : MillState) (pc : Word) (loops : List Loop)
  /-- The kernel ends, with channel flags (R293, R295, R296). -/
  | ends (s : State) (v : MillState) (flags : BitVec 12)
  /-- The word waits, for a slot of the wheel or a count (R273, R316). -/
  | waits (s : State) (v : MillState)

/-- The pc of a Mill as a word. -/
def millPc (v : MillState) : Word := BitVec.ofNat 64 v.pc

/-- The state after a word of a kernel: its writes are those of the bank-queue command that runs it (R279). -/
def signKernel (s t : State) (v : MillState) : State :=
  match v.owner.bind fun o => (coreAt s o.1).bankRun.find? (·.id == o.2) with
  | some e => signCrossings (commandWriter e) s t
  | none => t

/-- Runs a Mill's word (R295-R297): a field value outside its range ends the kernel with ILL. The free values that a word may
take are spent. -/
def millWord (bad : Bool) (s : State) (body : State → MillState → MillEnd) : Out :=
  match s.cur with
  | .mill m =>
    match mapGet s.mills m with
    | none => .fault .noIssuer
    | some v =>
      if bad then .next (putMill s m (endKernel v chanILL))
      else
        match body s v with
        | .done s' v' =>
          let (pc, loops) := nextWord 4 (millPc v') v'.loops
          .next (spend (putMill (signKernel s s' v) m { v' with pc := pc.toNat, loops := loops }) 32)
        | .jump s' v' pc loops => .next (spend (putMill (signKernel s s' v) m { v' with pc := pc.toNat, loops := loops }) 32)
        | .ends s' v' f => .next (putMill (signKernel s s' v) m (endKernel v' f))
        | .waits s' v' => .next (putMill (signKernel s s' v) m v')
  | _ => .fault .noIssuer

/-- The number of the Mill whose word runs. -/
def millNumber (s : State) : Nat := match s.cur with | .mill m => m | _ => 0

/-! ### The command wheel (R273, R274, R276, R297) -/

/-- Whether the present slot takes another access of the Mill to the row and bank of an offset: its accesses to one row share
one slot, up to eight, and a service under way keeps its bank (R276, R297). -/
def slotTakes (v : MillState) (w : Nat) : Bool :=
  millSlot v && v.service != some (bankOf w) &&
    (match v.slotRow with | none => true | some r => r == w / 1024 && decide (v.slotUse < 8))

/-- Takes the slot's next access. -/
def takeSlot (v : MillState) (w : Nat) : MillState := { v with slotRow := some (w / 1024), slotUse := v.slotUse + 1 }

/-- Checks an access of n bytes (R301): the first check that fails ends the kernel. -/
def millChecked (s : State) (v : MillState) (a n align : Nat) (body : MillEnd) : MillEnd :=
  if channelBytes ≤ a || a % align != 0 then .ends s v chanILL
  else if !v.ownedBanks.getLsbD (bankOf a) then .ends s v chanOWN
  else if channelBytes < a + n then .ends s v chanILL
  else if !v.ownedBanks.getLsbD (bankOf (a + n - 1)) then .ends s v chanOWN
  else body

/-- Checks and places an access of n bytes within one block: it waits for a slot (R273, R297). -/
def millAccess (s : State) (v : MillState) (a n align : Nat) (body : MillState → Nat → MillEnd) : MillEnd :=
  millChecked s v a n align (if slotTakes v a then body (takeSlot v a) a else .waits s v)

/-- The bytes from a on, of n, that the present slot still takes: to the end of the row, and eight accesses of 128 bytes. -/
def slotSpan (v : MillState) (a n : Nat) : Nat := min n (min (1024 - a % 1024) ((8 - v.slotUse) * 128 - a % 128))

/-- Takes the accesses of n bytes from a on out of the slot. -/
def takeSpan (v : MillState) (a n : Nat) : MillState :=
  { v with slotRow := some (a / 1024), slotUse := v.slotUse + (a % 128 + n + 127) / 128 }

/-! ### Memory -/

/-- The bank-linear offset of a Mill's offset (R272). -/
def millCell (m w : Nat) : Nat := m * channelBytes + w

/-- The target of a cell of local HBM, through the bank-linear window. -/
def millTarget (b : Nat) : Target := { tier := 0, addr := linearBase + b, node := 0, chk := false, shr := 3, guardIx := 0 }

/-- The bytes that a Mill's read returns, and the state after it: ECC is counted in the sectors named (R283, R284). -/
def millRead (s : State) (b n : Nat) (want : Nat → Bool) : List Byte × State :=
  let a := linearBase + b
  let s' := ((eccSectors b n).filter want).foldl (fun t k => eccCount t (32 * k) 32) s
  (hbmBytesAt s a n, if readsCrossed s a n then { s' with free := s'.free + 1 } else s')

/-- Whether the ECC sector of a byte is delivered as poisoned. -/
def cellPoisoned (s : State) (b : Nat) : Bool := sectorPoisoned s (b / 32)

/-- A Mill's read of n bytes in one block, whole. -/
def millReadAll (s : State) (b n : Nat) : List Byte × State := millRead s b n fun _ => true

/-- Bytes with some 4-byte lanes replaced. -/
def replaceLanes (old : List Byte) (n : Nat) (new : Nat → Option Nat) : List Byte :=
  (List.range n).flatMap fun l =>
    match new l with
    | some v => valueBytes 4 v
    | none => (old.drop (4 * l)).take 4

/-- Stores lanes of one 64-byte sector, wholly old or wholly new to any reader (R278, R279): new gives a lane's value, and tag
says that it is poisoned, so that its ECC sector takes the poison pattern (R284). -/
def storeSector (s : State) (b : Nat) (new : Nat → Option Nat) (tag : Nat → Bool) : State :=
  let sec := b / 64
  let half (h : Nat) : List Nat := (List.range 8).map (8 * h + ·)
  let touched (h : Nat) : List Nat := (half h).filter fun l => (new l).isSome
  if (List.range 16).all fun l => (new l).isNone then s
  else
    let ecc := (List.range 2).foldl (fun t h =>
      match touched h with
      | [] => t
      | l :: rest => if rest.length = 7 then eccWrite t (b + 32 * h) 32 else eccWrite t (b + 4 * l) 4) s
    let old := if crossed s true sec then sectorSeen s true sec s.free else sectorNow ecc sec
    let t := writeSector { s with hbm := ecc.hbm } true b (replaceLanes old 16 new)
    let t := { t with eccPoison := ecc.eccPoison, eccErr := ecc.eccErr, pkg := ecc.pkg }
    (List.range 2).foldl (fun t h =>
      if (touched h).any tag then poisonSectors t (b + 32 * h) 32 else t) t

/-- A Mill's store of whole doublewords of one sector. -/
def storeWord64 (s : State) (b : Nat) (x : Word) : State := hbmWrite s (linearBase + b) (wordBytes x)

end Sys2Proof.Machine
end

