-- ==== Sys2Proof/Machine/Vector.lean ====
section
/-!
DEFINITION. Vector arithmetic, logic, comparison, conversion, reduction and quantisation (R186-R197, R206, R207).
-/
namespace Sys2Proof.Machine
open Sys2Proof.Config

/-! ### Arithmetic (R186-R188) -/

/-- An arithmetic form on INT and FLT types: the exact integer, or the floating-point result with its flags. -/
def arithWord (o : FmtA) (n intBound fltBound : Nat) (rounds : Bool) (int : Int → Int → Int)
    (flt : Bool → Num → Num → Num → Num × FlagSet) (s : State) : Out :=
  let t := o.ty.toNat
  let w := typeWidth t
  match formatOf t with
  | some F =>
    elementWord o n fltBound rounds (fun m a b c =>
      F.finish m (saturating o) (flt m.isDown (F.decode a) (F.decode b) (F.decode c))) s
  | none =>
    elementWord o n intBound false (fun _ a b _ =>
      (intResult w (typeSigned t) (saturating o) (int (intOf w (typeSigned t) a) (intOf w (typeSigned t) b)), 0)) s

/-- VADD (R186, R187). -/
def execVadd (o : FmtA) (s : State) : Out := arithWord o 2 2 4 true (· + ·) (fun rd a b _ => addNum rd a b) s
/-- VSUB (R186, R187). -/
def execVsub (o : FmtA) (s : State) : Out := arithWord o 2 2 4 true (· - ·) (fun rd a b _ => addNum rd a b.negate) s
/-- VMUL (R186, R187). -/
def execVmul (o : FmtA) (s : State) : Out := arithWord o 2 4 4 true (· * ·) (fun _ a b _ => mulNum a b) s
/-- VABD (R186, R187). -/
def execVabd (o : FmtA) (s : State) : Out :=
  arithWord o 2 2 4 true (fun a b => (a - b).natAbs) (fun rd a b _ => let (r, f) := addNum rd a b.negate; (r.abs, f)) s

/-- A selection between two encodings: the canonical NaN where either is a NaN, NV for a signalling one (R187). -/
def selectNum (F : Format) (first : Num → Num → Bool) (a b : Nat) : Nat × FlagSet :=
  let x := F.decode a
  let y := F.decode b
  if x.isNaN || y.isNaN then (F.nanCode, x.signal ||| y.signal) else (if first x y then a else b, 0)

/-- VMIN and VMAX: the first operand where it is the one wanted. -/
def extremeWord (o : FmtA) (max : Bool) (s : State) : Out :=
  let t := o.ty.toNat
  let w := typeWidth t
  let int (v : Nat) : Int := intOf w (typeSigned t) v
  elementWord o 2 2 false (fun _ a b _ =>
    match formatOf t with
    | some F => selectNum F (fun x y => if max then numBelow y x else numBelow x y) a b
    | none => (if max then (if int b < int a then a else b) else (if int a < int b then a else b), 0)) s
/-- VMIN (R186, R187). -/
def execVmin (o : FmtA) (s : State) : Out := extremeWord o false s
/-- VMAX (R186, R187). -/
def execVmax (o : FmtA) (s : State) : Out := extremeWord o true s

/-- A form on the sign alone: exact, with NaNs made canonical (R187). -/
def signWord (o : FmtA) (int : Int → Int) (flt : Nat → Nat → Nat) (s : State) : Out :=
  let t := o.ty.toNat
  let w := typeWidth t
  elementWord o 1 2 false (fun _ a _ _ =>
    match formatOf t with
    | some F =>
      let x := F.decode a
      if x.isNaN then (F.nanCode, x.signal) else (flt w a, 0)
    | none => (intResult w (typeSigned t) (saturating o) (int (intOf w (typeSigned t) a)), 0)) s
/-- VABS (R186, R187). -/
def execVabs (o : FmtA) (s : State) : Out := signWord o (fun a => a.natAbs) (fun w a => a % 2 ^ (w - 1)) s
/-- VNEG (R186, R187). -/
def execVneg (o : FmtA) (s : State) : Out := signWord o (fun a => -a) (fun w a => a ^^^ 2 ^ (w - 1)) s

/-- VMULH (R186): bits 2w − 1 to w of the product. -/
def execVmulh (o : FmtA) (s : State) : Out :=
  let t := o.ty.toNat
  let w := typeWidth t
  elementWord o 2 4 false (fun _ a b _ =>
    (wrapInt w (intOf w (typeSigned t) a * intOf w (typeSigned t) b / 2 ^ w), 0)) s

/-- A fused form (R188): the product's and the addend's signs are inverted as told. -/
def fusedWord (o : FmtA) (negProduct negAddend : Bool) (s : State) : Out :=
  arithWord o 3 5 5 true (fun a _ => a) (fun rd a b c =>
    fmaNum rd (if negProduct then a.negate else a) b (if negAddend then c.negate else c)) s
/-- VFMA (R188). -/
def execVfma (o : FmtA) (s : State) : Out := fusedWord o false false s
/-- VFMS (R188). -/
def execVfms (o : FmtA) (s : State) : Out := fusedWord o false true s
/-- VFNMA (R188). -/
def execVfnma (o : FmtA) (s : State) : Out := fusedWord o true false s
/-- VFNMS (R188). -/
def execVfnms (o : FmtA) (s : State) : Out := fusedWord o true true s

/-! ### Logic and shifts (R189) -/

/-- A form on the bits of elements. -/
def bitWord (o : FmtA) (n : Nat) (f : Nat → Nat → Nat → Nat) (s : State) : Out :=
  let w := typeWidth o.ty.toNat
  elementWord o n 2 false (fun _ a b _ => (f w a b % 2 ^ w, 0)) s
/-- VAND (R189). -/
def execVand (o : FmtA) (s : State) : Out := bitWord o 2 (fun _ a b => a &&& b) s
/-- VOR (R189). -/
def execVor (o : FmtA) (s : State) : Out := bitWord o 2 (fun _ a b => a ||| b) s
/-- VXOR (R189). -/
def execVxor (o : FmtA) (s : State) : Out := bitWord o 2 (fun _ a b => a ^^^ b) s
/-- VANDN (R189). -/
def execVandn (o : FmtA) (s : State) : Out := bitWord o 2 (fun w a b => a &&& (b ^^^ (2 ^ w - 1))) s
/-- VNOT (R189). -/
def execVnot (o : FmtA) (s : State) : Out := bitWord o 1 (fun w a _ => a ^^^ (2 ^ w - 1)) s
/-- VSHL (R189). -/
def execVshl (o : FmtA) (s : State) : Out := bitWord o 2 (fun w a b => a <<< (b % w)) s
/-- VSHR (R189). -/
def execVshr (o : FmtA) (s : State) : Out := bitWord o 2 (fun w a b => a >>> (b % w)) s
/-- VSRA (R189). -/
def execVsra (o : FmtA) (s : State) : Out := bitWord o 2 (fun w a b => wrapInt w (intOf w true a / 2 ^ (b % w))) s
/-- VROT (R189): left. -/
def execVrot (o : FmtA) (s : State) : Out := bitWord o 2 (fun w a b => (a <<< (b % w)) ||| (a >>> (w - b % w))) s

/-! ### Compare and select (R190, R191) -/

/-- A comparison of two floating-point values, by minor, and its flags (R190). -/
def compareNum (k : Nat) (x y : Num) : Bool × FlagSet :=
  let nan := x.isNaN || y.isNaN
  let flags := if nan && decide (2 ≤ k ∧ k ≤ 5) then flagNV else x.signal ||| y.signal
  (match k with
    | 0 => !nan && !numLt x y && !numLt y x
    | 1 => nan || numLt x y || numLt y x
    | 2 => numLt x y
    | 3 => !nan && !numLt y x
    | 4 => numLt y x
    | 5 => !nan && !numLt x y
    | _ => nan, flags)

/-- A comparison of two integers, by minor. -/
def compareInt (k : Nat) (a b : Int) : Bool :=
  match k with
  | 0 => decide (a = b)
  | 1 => decide (a ≠ b)
  | 2 => decide (a < b)
  | 3 => decide (a ≤ b)
  | 4 => decide (b < a)
  | _ => decide (b ≤ a)

/-- VCMP (R190): each element's granule bits take its condition. -/
def execVcmp (k : BitVec 5) (o : FmtA) (s : State) : Out :=
  vectorWord (frameA o 2 2) s fun s _ c g =>
    let t := o.ty.toNat
    let w := typeWidth t
    let a := readV s c 0 o.ra.toNat
    let b := readV s c 1 o.rb.toNat
    let l := onActive g w (elementCount w) fun i =>
      let (r, f) := match formatOf t with
        | some F => compareNum k.toNat (F.decode (elem w a i)) (F.decode (elem w b i))
        | none => (compareInt k.toNat (intOf w (typeSigned t) (elem w a i)) (intOf w (typeSigned t) (elem w b i)), 0)
      (if r then 2 ^ (w / 16) - 1 else 0, f)
    let val := packElems (w / 16) (l.map fun e => match e with | some q => q.1 | none => 0)
    let mask := packElems (w / 16) (l.map fun e => match e with | some _ => 2 ^ (w / 16) - 1 | none => 0)
    let c := pendP c .v o.rd.toNat (if zeroing o then BitVec.allOnes 256 else BitVec.ofNat 256 mask) (BitVec.ofNat 256 val) 3
    .done s (raiseFlags c (gathered l) 3)

/-- VSEL (R191): pC's governing bits choose. -/
def execVsel (o : FmtA) (s : State) : Out :=
  let f := frameA o 2 2
  vectorWord { f with reads := f.reads ++ [(.p, o.rc.toNat)], frees := f.frees ++ [(.p, o.rc.toNat, o.lc)] } s fun s _ c g =>
    let w := typeWidth o.ty.toNat
    let p := readP s c 2 o.rc.toNat
    let a := readV s c 0 o.ra.toNat
    let b := readV s c 1 o.rb.toNat
    let l := onActive g w (elementCount w) fun i => (if active p w i then elem w a i else elem w b i, 0)
    .done s (putRegister c o.rd.toNat w (zeroing o) l 2)

/-! ### Conversion and widening (R192-R194) -/

/-- One element's conversion between two types (R156-R159, R192). -/
def convertElement (src dst : Nat) (m : Mode) (sat : Bool) (v : Nat) : Nat × FlagSet :=
  let x := elementNum src v
  match formatOf dst with
  | some F => F.round m sat x
  | none =>
    if dst = 0xF then numToScale x
    else if isFloat src then numToInt (typeWidth dst) (typeSigned dst) m x
    else (intResult (typeWidth dst) (typeSigned dst) sat (intOf (typeWidth src) (typeSigned src) v), 0)

/-- VCVT (R179, R192): the source type is MINOR<3:0>, the destination type TYPE. -/
def execVcvt (k : BitVec 5) (o : FmtA) (s : State) : Out :=
  let src := k.toNat % 16
  let dst := o.ty.toNat
  let ws := typeWidth src
  let wd := typeWidth dst
  let kd := wd / ws
  let ks := ws / wd
  let rounds := isFloat src || isFloat dst
  let groups := (if kd > 1 then [(o.rd.toNat, kd)] else []) ++ (if ks > 1 then [(o.ra.toNat, ks)] else [])
  vectorWord
    { frameA o 1 (2 * max 1 (max kd ks)) with groups := groups, reads := groupReads o.ra.toNat (max 1 ks),
                                              frees := groupFrees o.ra.toNat (max 1 ks) o.la } s fun s _ c g =>
    let w := min ws wd
    let bound := if kd > 1 then 6 else 4
    let l := onActive g w (elementCount w) fun i =>
      let v := if ks > 1 then groupElem ws ks (fun j => readV s c j (o.ra.toNat + j)) i
        else elem ws (readV s c 0 o.ra.toNat) i
      convertElement src dst (if rounds then elementMode c o.mod i else .rne) (saturating o) v
    let c := putGroup c o.rd.toNat (max 1 kd) wd (zeroing o) l bound
    .done s (advanceRandom (raiseFlags c (gathered l) bound) o.mod rounds)

/-- VWMUL (R193): the pair at vd takes products of twice the width; an FP16 product raises no flag. -/
def execVwmul (o : FmtA) (s : State) : Out :=
  let t := o.ty.toNat
  let w := typeWidth t
  let f := frameA o 2 4
  vectorWord { f with groups := [(o.rd.toNat, 2)] } s fun s _ c g =>
    let a := readV s c 0 o.ra.toNat
    let b := readV s c 1 o.rb.toNat
    let l := onActive g w (elementCount w) fun i =>
      match formatOf t with
      | some F =>
        let r := fp32.finish (elementMode c o.mod i) (saturating o) (mulNum (F.decode (elem w a i)) (F.decode (elem w b i)))
        if F = fp16 then (r.1, 0) else r
      | none => (wrapInt (2 * w) (intOf w (typeSigned t) (elem w a i) * intOf w (typeSigned t) (elem w b i)), 0)
    let c := putGroup c o.rd.toNat 2 (2 * w) (zeroing o) l 5
    .done s (advanceRandom (raiseFlags c (gathered l) 5) o.mod (isFloat t))

/-- Element j of a dot product on integer types (R194). -/
def dotInt (t : Nat) (sat : Bool) (a b c : VecReg) (j : Nat) : Nat :=
  let w := typeWidth t
  let k := 32 / w
  let sum := (List.range k).foldl (fun (acc : Int) i =>
    acc + intOf w (typeSigned t) (elem w a (j * k + i)) * intOf w (typeSigned t) (elem w b (j * k + i))) 0
  intResult 32 (typeSigned t) sat (intOf 32 (typeSigned t) (elem 32 c j) + sum)

/-- Element j of a dot product on floating-point types: one rounding of the exact sum (R194). -/
def dotFloat (F : Format) (m : Mode) (sat : Bool) (a b c : VecReg) (j : Nat) : Nat × FlagSet :=
  let w := F.width
  let k := 32 / w
  let products := (List.range k).map fun i => mulNum (F.decode (elem w a (j * k + i))) (F.decode (elem w b (j * k + i)))
  fp32.finish m sat (accumulate m.isDown (fp32.decode (elem 32 c j)) products)

/-- VDOT (R194): 128 elements of 32 bits, governed as such. -/
def execVdot (o : FmtA) (s : State) : Out :=
  vectorWord (frameA o 3 2) s fun s _ c g =>
    let t := o.ty.toNat
    let a := readV s c 0 o.ra.toNat
    let b := readV s c 1 o.rb.toNat
    let d := readV s c 2 o.rc.toNat
    let l := onActive g 32 128 fun j =>
      match formatOf t with
      | some F => dotFloat F (elementMode c o.mod j) (saturating o) a b d j
      | none => (dotInt t (saturating o) a b d j, 0)
    let c := putRegister c o.rd.toNat 32 (zeroing o) l 6
    .done s (advanceRandom (raiseFlags c (gathered l) 6) o.mod (isFloat t))

/-! ### Reductions and scan (R168, R195-R197) -/

/-- One application of a reduction's operation: 0 add, 1 min, 2 max, 3 and, 4 or, 5 xor. -/
def reduceOp (op t : Nat) (m : Mode) (sat : Bool) (a b : Nat) : Nat × FlagSet :=
  let w := typeWidth t
  let int (v : Nat) : Int := intOf w (typeSigned t) v
  match op with
  | 0 =>
    match formatOf t with
    | some F => F.finish m false (addNum m.isDown (F.decode a) (F.decode b))
    | none => (intResult w (typeSigned t) sat (int a + int b), 0)
  | 1 =>
    match formatOf t with
    | some F => selectNum F numBelow a b
    | none => (if int b < int a then b else a, 0)
  | 2 =>
    match formatOf t with
    | some F => selectNum F (fun x y => numBelow y x) a b
    | none => (if int a < int b then b else a, 0)
  | 3 => (a &&& b, 0)
  | 4 => (a ||| b, 0)
  | _ => (a ^^^ b, 0)

/-- The identity of a reduction's operation (R195). -/
def reduceIdentity (op t : Nat) : Nat :=
  let w := typeWidth t
  match op, formatOf t with
  | 0, some F => F.signed true 0
  | 1, some F => F.infCode
  | 2, some F => F.signed true F.infCode
  | 1, none => wrapInt w (intMax w (typeSigned t))
  | 2, none => wrapInt w (intMin w (typeSigned t))
  | 3, _ => 2 ^ w - 1
  | _, _ => 0

/-- One level of the tree of R168, its nodes numbered from q. -/
def treeLevel (f : Nat → Nat → Nat → Nat × FlagSet) : Nat → List Nat → List (Nat × FlagSet)
  | q, a :: b :: rest => f q a b :: treeLevel f (q + 1) rest
  | _, _ => []

/-- The tree of R168 over a list; fuel is the number of levels, q the number of the level's first node. -/
def reduceTree (f : Nat → Nat → Nat → Nat × FlagSet) : Nat → Nat → List Nat → Nat × FlagSet
  | 0, _, l => (l.headD 0, 0)
  | fuel + 1, q, l =>
    let level := treeLevel f q l
    let (r, flags) := reduceTree f fuel (q + level.length) (level.map (·.1))
    (r, flags ||| orFlags (level.map (·.2)))

/-- A result in bits 63 to 0 of a register, the rest kept or zeroed (R195). -/
def putLow (c : Crew) (o : FmtA) (v : Nat) (bound : Nat) : Crew :=
  pendV c o.rd.toNat (if zeroing o then BitVec.allOnes 4096 else BitVec.ofNat 4096 (2 ^ 64 - 1)) (BitVec.ofNat 4096 (v % 2 ^ 64))
    bound

/-- VRED (R195); its minimum and maximum select exactly and have no rounding mode (R163, log 44). -/
def execVred (k : BitVec 5) (o : FmtA) (s : State) : Out :=
  vectorWord (frameA o 1 2) s fun s _ c g =>
    let t := o.ty.toNat
    let w := typeWidth t
    let n := elementCount w
    let a := readV s c 0 o.ra.toNat
    let l := (List.range n).map fun i => if active g w i then elem w a i else reduceIdentity k.toNat t
    let rounds := isFloat t && k == 0
    let (r, flags) := reduceTree (fun q x y =>
      reduceOp k.toNat t (if rounds then elementMode c o.mod q else .rne) (saturating o) x y) (Nat.log2 n) 0 l
    .done s (advanceRandom (raiseFlags (putLow c o r 12) flags 12) o.mod rounds)

/-- Whether element x outranks element y under VREDX: a NaN below every number; .max by value, .min inverted (R196). -/
def outranks (t : Nat) (max : Bool) (x y : Nat) : Bool :=
  let w := typeWidth t
  match formatOf t with
  | some F =>
    let a := F.decode x
    let b := F.decode y
    !a.isNaN && (b.isNaN || (if max then numBelow b a else numBelow a b))
  | none =>
    let a := intOf w (typeSigned t) x
    let b := intOf w (typeSigned t) y
    if max then decide (b < a) else decide (a < b)

/-- VREDX (R196): minor 0 is .max, 1 is .min. -/
def execVredx (k : BitVec 5) (o : FmtA) (s : State) : Out :=
  vectorWord (frameA o 1 2) s fun s _ c g =>
    let t := o.ty.toNat
    let w := typeWidth t
    let max := decide (k = 0)
    let a := readV s c 0 o.ra.toNat
    let l := (List.range (elementCount w)).filter (active g w)
    let best := l.foldl (fun (b : Option Nat) i =>
      match b with
      | none => some i
      | some j => if outranks t max (elem w a i) (elem w a j) then some i else some j) none
    let nan (i : Nat) : Bool := match formatOf t with | some F => (F.decode (elem w a i)).isNaN | none => false
    let flags := orFlags (l.map fun i => match formatOf t with | some F => (F.decode (elem w a i)).signal | none => 0)
    let (index, value, flags) := match best with
      | none => (0xFFFFFFFF, reduceIdentity (if max then 2 else 1) t, flags)
      | some i =>
        if nan i then (0, (match formatOf t with | some F => F.nanCode | none => 0), flagNV) else (i, elem w a i, flags)
    .done s (raiseFlags (putLow c o (index * 2 ^ 32 + value) 12) flags 12)

/-- The inclusive scan of R197 over elements from index i on: what each active element receives. -/
def scanElems (act : Nat → Bool) (f : Nat → Nat → Nat × FlagSet) : Nat → Nat → Nat → List (Option (Nat × FlagSet))
  | 0, _, _ => []
  | n + 1, i, acc =>
    if act i then
      let r := f i acc
      some r :: scanElems act f n (i + 1) r.1
    else none :: scanElems act f n (i + 1) acc

/-- VSCAN (R197); its minimum and maximum have no rounding mode (R163, log 44). -/
def execVscan (k : BitVec 5) (o : FmtA) (s : State) : Out :=
  vectorWord (frameA o 1 2) s fun s _ c g =>
    let t := o.ty.toNat
    let w := typeWidth t
    let a := readV s c 0 o.ra.toNat
    let rounds := isFloat t && k == 0
    let l := scanElems (active g w) (fun i acc =>
      reduceOp k.toNat t (if rounds then elementMode c o.mod i else .rne) (saturating o) acc (elem w a i)) (elementCount w) 0
      (reduceIdentity k.toNat t)
    .done s (advanceRandom (raiseFlags (putRegister c o.rd.toNat w (zeroing o) l 16) (gathered l) 16) o.mod rounds)

/-! ### Quantise and dequantise (R155, R206, R207) -/

/-- A magnitude with its sign rounded to an integer type, clamped with NV (R159). -/
def exactToInt (w : Nat) (signed : Bool) (m : Mode) (neg : Bool) (x : Exact) : Nat × FlagSet :=
  let (u, inexact) := x.toUnits m neg 0
  let v : Int := if neg then -(u : Int) else u
  if v < intMin w signed then (wrapInt w (intMin w signed), flagNV)
  else if v > intMax w signed then (wrapInt w (intMax w signed), flagNV)
  else (wrapInt w v, flagIf inexact flagNX)

/-- The exact quotient of two BF16 numbers converted to an integer type (R206). An infinity divided by 0 raises the NV of its
conversion and no DZ, as IEEE has it (DESIGN CHOICE, log 81: R206 writes DZ for any x / 0). -/
def quotientToInt (w : Nat) (signed : Bool) (m : Mode) (x y : Num) : Nat × FlagSet :=
  match x, y with
  | .nan _, _ | _, .nan _ => (0, flagNV)
  | .inf _, .inf _ => (0, flagNV)
  | .inf n, .fin k _ _ => numToInt w signed m (.inf (n != k))
  | .fin _ _ _, .inf _ => (0, 0)
  | .fin n a e, .fin k b f =>
    if a = 0 ∧ b = 0 then (0, flagNV)
    else if b = 0 then let (v, g) := numToInt w signed m (.inf (n != k)); (v, g ||| flagDZ)
    else if a = 0 then (0, 0)
    else exactToInt w signed m (n != k) { m := a * 2 ^ 400 / b, e := e - f - 400, sticky := a * 2 ^ 400 % b != 0 }

/-- 2^(±(e − 127)) of an E8M0 byte, as an exact factor; a NaN for 0xFF. -/
def scaleFactor (e : Nat) (inverse : Bool) : Num :=
  match scaleOf e with
  | .fin n m x => .fin n m (if inverse then -x else x)
  | r => r

/-- VQNT (R206): BF16 from a pair or quad at vA to type t. -/
def execVqnt (o : FmtA) (s : State) : Out :=
  let t := o.ty.toNat
  let w := typeWidth t
  let k := 16 / w
  let f := frameA o 2 (2 * k)
  vectorWord
    { f with groups := [(o.ra.toNat, k)], reads := groupReads o.ra.toNat k ++ [(.v, o.rb.toNat)],
             frees := groupFrees o.ra.toNat k o.la ++ [(.v, o.rb.toNat, o.lb)] } s fun s _ c g =>
    let b := readV s c 4 o.rb.toNat
    let l := onActive g w (elementCount w) fun i =>
      let x := bf16.decode (groupElem 16 k (fun j => readV s c j (o.ra.toNat + j)) i)
      let m := elementMode c o.mod i
      match formatOf t with
      | some F =>
        let e := elem 8 b (i / 32)
        let (y, g) := mulNum x (scaleFactor e true)
        F.finish m (saturating o) (y, g ||| flagIf (e == 255) flagNV)
      | none => quotientToInt w (typeSigned t) m x (bf16.decode (elem 16 b (i / 128)))
    let c := putRegister c o.rd.toNat w (zeroing o) l 8
    .done s (advanceRandom (raiseFlags c (gathered l) 8) o.mod true)

/-- VDEQ (R207): elements of type t to BF16 in a pair or quad at vd. -/
def execVdeq (o : FmtA) (s : State) : Out :=
  let t := o.ty.toNat
  let w := typeWidth t
  let k := 16 / w
  vectorWord { frameA o 2 (2 * k) with groups := [(o.rd.toNat, k)] } s fun s _ c g =>
    let a := readV s c 0 o.ra.toNat
    let b := readV s c 1 o.rb.toNat
    let l := onActive g w (elementCount w) fun i =>
      let x := elementNum t (elem w a i)
      let scale := if isFloat t then scaleFactor (elem 8 b (i / 32)) false else bf16.decode (elem 16 b (i / 128))
      bf16.finish (elementMode c o.mod i) (saturating o) (mulNum x scale)
    let c := putGroup c o.rd.toNat k 16 (zeroing o) l 6
    .done s (advanceRandom (raiseFlags c (gathered l) 6) o.mod true)

end Sys2Proof.Machine
end

