-- ==== Sys2Proof/Machine/Mill.lean ====
section
/-!
DEFINITION. The Mill words (R302-R323): memory words, arithmetic and logic, moves and conversions, the dot unit, flow and
control, the key-value page words, and the attention triple. The value of a field that lies outside its range ends the kernel
with ILL (R295): each meaning names its ranges first.
-/
namespace Sys2Proof.Machine
open Sys2Proof.Config

/-! ### Load and store (R302) -/

/-- The address of a memory word: mxA plus n units, exact (R11, R302). -/
def millAddress (v : MillState) (a : BitVec 4) (n : BitVec 11) (unit : Nat) : Nat := (mxGet v a).toNat + n.toNat * unit

/-- A memory word: a poisoned address ends the kernel with ILL (R299), then R301 decides. -/
def millMemory (a : BitVec 4) (n : BitVec 11) (bytes align unit : Nat) (s : State)
    (body : State → MillState → Nat → MillEnd) : Out :=
  millWord false s fun s v =>
    if mxTag v a then .ends s v chanILL
    else millAccess s v (millAddress v a n unit) bytes align fun v w => body s v (millCell (millNumber s) w)

/-- Sets UE where a read met poison (R284). -/
def noteUE (v : MillState) (bad : Bool) : MillState := if bad then { v with chan := v.chan ||| chanUE } else v

/-- The value of a lane that was read: undefined where its sector is poisoned. -/
def readLane (s : State) (b : Nat) (bs : List Byte) (l : Nat) : Nat :=
  if cellPoisoned s (b + 4 * l) then (freeWord (s.free + l)).toNat else bytesValue ((bs.drop (4 * l)).take 4)

/-- Loads 128 bytes into the active lanes through a function of a lane's number and memory word (R302, R320). -/
def loadLanes (s : State) (v : MillState) (b : Nat) (d : BitVec 4) (m : BitVec 2) (f : Nat → Nat → Nat) : MillEnd :=
  let active (l : Nat) : Bool := (mkGet v m).getLsbD l
  let (bs, s') := millRead s b 128 fun k => (List.range 8).any fun i => active (8 * (k - b / 32) + i)
  let bad := (List.range 32).any fun l => active l && cellPoisoned s (b + 4 * l)
  .done s' (noteUE (putLanes v d (onLanes v m fun l =>
    { value := f l (readLane s b bs l), tag := cellPoisoned s (b + 4 * l), flags := 0 })) bad)

/-- NLD to lanes (R302). -/
def execNldVector (d a : BitVec 4) (m : BitVec 2) (n : BitVec 11) (s : State) : Out :=
  millMemory a n 128 128 128 s fun s v b => loadLanes s v b d m fun _ x => x

/-- NLD to an mx register (R302). -/
def execNldScalar (d a : BitVec 4) (n : BitVec 11) (s : State) : Out :=
  millMemory a n 8 8 8 s fun s v b =>
    let (bs, s') := millReadAll s b 8
    let bad := cellPoisoned s b
    .done s' (noteUE (mxPut v d (if bad then freeWord s.free else bytesWord bs) bad) bad)

/-- NST of lanes (R302). -/
def execNstVector (r a : BitVec 4) (m : BitVec 2) (n : BitVec 11) (s : State) : Out :=
  millMemory a n 128 128 128 s fun s v b =>
    let new (h l : Nat) : Option Nat := if (mkGet v m).getLsbD (16 * h + l) then some (lane v r (16 * h + l)) else none
    let tag (h l : Nat) : Bool := laneTag v r (16 * h + l)
    .done (storeSector (storeSector s b (new 0) (tag 0)) (b + 64) (new 1) (tag 1)) v

/-- NST of an mx register (R302). -/
def execNstScalar (r a : BitVec 4) (n : BitVec 11) (s : State) : Out :=
  millMemory a n 8 8 8 s fun s v b =>
    let s := storeWord64 s b (mxGet v r)
    .done (if mxTag v r then poisonSectors s b 8 else s) v

/-! ### Key-value pages (R317-R320) -/

/-- The position of lane l of half h (R320). -/
def keyPosition (v : MillState) (h l : Nat) : Nat := (v.pb.toNat + 32 * h + l) % 2 ^ 32

/-- One key word rotated (R175, R320). -/
def rotateKey (pos theta x : Nat) : Nat :=
  let (y0, y1, _) := ropePair (bf16.decode (x % 65536)) (bf16.decode (x / 65536 % 65536)) pos theta
  (bf16.round .rne false (fp32.decode y1)).1 * 65536 + (bf16.round .rne false (fp32.decode y0)).1

/-- NLDK (R320): θ is a control value (R299). -/
def execNldk (d a b : BitVec 4) (m : BitVec 2) (h : BitVec 1) (s : State) : Out :=
  millWord false s fun s v =>
    if mxTag v a || mxTag v b then .ends s v chanILL
    else
      let theta := bits (mxGet v b) 31 0
      millAccess s v (mxGet v a).toNat 128 128 fun v w =>
        loadLanes s v (millCell (millNumber s) w) d m fun l x => rotateKey (keyPosition v h.toNat l) theta x

/-- CSUM of a page header (Table 11.10). -/
def headerSum (pbase valid gen : Nat) : Nat := (pbase * 0x9E3779B1 + valid * 0x85EBCA77 + gen) % 2 ^ 32

/-- NPB (R319): the header is read and checked. -/
def execNpb (a : BitVec 4) (s : State) : Out :=
  millWord false s fun s v =>
    if mxTag v a then .ends s v chanILL
    else
      millAccess s v (mxGet v a).toNat 16 64 fun v w =>
        let b := millCell (millNumber s) w
        let (bs, s') := millReadAll s b 16
        if cellPoisoned s b then .ends s' v (chanUE ||| chanILL)
        else
          let d0 := bytesWord (bs.take 8)
          let d1 := bytesWord (bs.drop 8)
          let valid := bits d0 38 32
          if bits d0 63 39 != 0 || decide (64 < valid) || bits d1 31 0 != headerSum (bits d0 31 0) valid (bits d1 63 32) then
            .ends s' v chanILL
          else .done s' { v with pb := BitVec.ofNat 32 (bits d0 31 0), vc := BitVec.ofNat 7 valid }

/-- NPB.wf (R319). A poisoned mxA ends the kernel with ILL (DESIGN CHOICE, log 81: R299 names header fields, and WF has no tag). -/
def execNpbWf (a : BitVec 4) (s : State) : Out :=
  millWord false s fun s v =>
    if mxTag v a then .ends s v chanILL else .done s { v with wf := (mxGet v a).truncate 32 }

/-- NPB.set (R319). A count above 64 in mxB ends the kernel with ILL (DESIGN CHOICE, log 81: the rule names no result for it). -/
def execNpbSet (a b : BitVec 4) (s : State) : Out :=
  millWord false s fun s v =>
    if mxTag v a || mxTag v b || decide (64 < bits (mxGet v b) 6 0) then .ends s v chanILL
    else .done s { v with pb := (mxGet v a).truncate 32, vc := (mxGet v b).truncate 7 }

/-! ### Immediates (R306) -/

/-- NLI (R306). -/
def execNliScalar (d : BitVec 4) (i : BitVec 12) (s : State) : Out :=
  millWord false s fun s v => .done s (mxPut v d (i.signExtend 64) false)

/-- NLI.sh (R306). -/
def execNliShift (d : BitVec 4) (i : BitVec 12) (s : State) : Out :=
  millWord false s fun s v => .done s (mxPut v d ((mxGet v d <<< 12) ||| i.zeroExtend 64) (mxTag v d))

/-- NLI to lanes (R306). -/
def execNliVector (d : BitVec 4) (m : BitVec 2) (i : BitVec 12) (s : State) : Out :=
  millWord false s fun s v =>
    .done s (putLanes v d (onLanes v m fun _ => { value := (i.signExtend 32).toNat, tag := false, flags := 0 }))

/-- NLI of an mx register to lanes (R306). -/
def execNliFromMx (d b : BitVec 4) (m : BitVec 2) (s : State) : Out :=
  millWord false s fun s v =>
    .done s (putLanes v d (onLanes v m fun _ => { value := bits (mxGet v b) 31 0, tag := mxTag v b, flags := 0 }))

/-- NADDI (R306). -/
def execNaddi (d a : BitVec 4) (i : BitVec 12) (s : State) : Out :=
  millWord false s fun s v => .done s (mxPut v d (mxGet v a + i.signExtend 64) (mxTag v a))

/-! ### The common forms (R303-R305) -/

/-- The type code of Table 04.6 that TY names (Table 11.6): I32, FP32, UI32. -/
def millType (t : BitVec 2) : Nat := match t.toNat with | 0 => 0x4 | 1 => 0x9 | _ => 0x8

/-- Whether a lane form's TY or SEL lies outside its range (R295, Table 11.6). -/
def badCommon (t : BitVec 2) (c : BitVec 1) (sel : BitVec 5) : Bool := t == 3 || (c == 0 && sel != 0)
/-- Whether a scalar form's TY lies outside its range. -/
def badScalar (t : BitVec 2) : Bool := t == 1 || t == 3

/-- The lane of mvB that lane l takes as its operand b (R303). -/
def laneB (c : BitVec 1) (sel : BitVec 5) (l : Nat) : Nat := if c = 1 then sel.toNat else l

/-- A common lane form: f has the lane's operands, the lane of mvd among them where the word reads it. -/
def laneForm (bad : Bool) (d a b : BitVec 4) (m : BitVec 2) (c : BitVec 1) (sel : BitVec 5) (readsD : Bool)
    (f : Nat → Nat → Nat → Nat × FlagSet) (s : State) : Out :=
  millWord bad s fun s v =>
    .done s (putLanes v d (onLanes v m fun l =>
      let (x, flags) := f (lane v a l) (lane v b (laneB c sel l)) (lane v d l)
      { value := x, tag := laneTag v a l || laneTag v b (laneB c sel l) || (readsD && laneTag v d l), flags := flags }))

/-- An arithmetic lane form of two operands (R304). -/
def arithForm (bad : Bool) (d a b : BitVec 4) (m : BitVec 2) (t : BitVec 2) (c : BitVec 1) (sel : BitVec 5)
    (int : Int → Int → Int) (flt : Nat → Nat → Nat × FlagSet) (s : State) : Out :=
  laneForm bad d a b m c sel false (fun x y _ =>
    if t = 1 then flt x y
    else (wrapInt 32 (int (intOf 32 (t == 0) x) (intOf 32 (t == 0) y)), 0)) s

/-- A scalar form (R303, R304). A poisoned mxB that is the count of NSHL or NSHR spreads its poison as any source does (DESIGN
CHOICE, log 81: R299's control values name a count). -/
def scalarForm (d a b : BitVec 4) (t : BitVec 2) (int : Int → Int → Int) (s : State) : Out :=
  millWord (badScalar t) s fun s v =>
    let x := intOf 64 (t == 0) (mxGet v a).toNat
    let y := intOf 64 (t == 0) (mxGet v b).toNat
    .done s (mxPut v d (BitVec.ofNat 64 (wrapInt 64 (int x y))) (mxTag v a || mxTag v b))

/-- A bitwise form on numbers of either sign. -/
def onBits (w : Nat) (f : Nat → Nat → Nat) (x y : Int) : Int := (f (wrapInt w x) (wrapInt w y) : Nat)

/-- FP32 addition of encodings (R300). -/
def addFp32 (x y : Nat) : Nat × FlagSet := fp32.finish .rne false (addNum false (fp32.decode x) (fp32.decode y))
/-- FP32 subtraction. -/
def subFp32 (x y : Nat) : Nat × FlagSet := fp32.finish .rne false (addNum false (fp32.decode x) (fp32.decode y).negate)
/-- FP32 multiplication. -/
def mulFp32 (x y : Nat) : Nat × FlagSet := fp32.finish .rne false (mulNum (fp32.decode x) (fp32.decode y))
/-- FP32 fused multiply and add: x × y + z. -/
def fmaFp32 (x y z : Nat) : Nat × FlagSet :=
  fp32.finish .rne false (fmaNum false (fp32.decode x) (fp32.decode y) (fp32.decode z))
/-- The larger of two FP32 encodings (R187). -/
def maxFp32 (x y : Nat) : Nat × FlagSet := selectNum fp32 (fun p q => numBelow q p) x y
/-- The smaller of two FP32 encodings. -/
def minFp32 (x y : Nat) : Nat × FlagSet := selectNum fp32 numBelow x y

/-- NADD (R304). -/
def execNadd (d a b : BitVec 4) (m t : BitVec 2) (c : BitVec 1) (sel : BitVec 5) (s : State) : Out :=
  arithForm (badCommon t c sel) d a b m t c sel (· + ·) addFp32 s
/-- NADD on mx registers (R304). -/
def execNaddScalar (d a b : BitVec 4) (t : BitVec 2) (s : State) : Out := scalarForm d a b t (· + ·) s
/-- NSUB (R304). -/
def execNsub (d a b : BitVec 4) (m t : BitVec 2) (c : BitVec 1) (sel : BitVec 5) (s : State) : Out :=
  arithForm (badCommon t c sel) d a b m t c sel (· - ·) subFp32 s
/-- NSUB on mx registers (R304). -/
def execNsubScalar (d a b : BitVec 4) (t : BitVec 2) (s : State) : Out := scalarForm d a b t (· - ·) s
/-- NMUL (R304). -/
def execNmul (d a b : BitVec 4) (m t : BitVec 2) (c : BitVec 1) (sel : BitVec 5) (s : State) : Out :=
  arithForm (badCommon t c sel) d a b m t c sel (· * ·) mulFp32 s
/-- NMUL on mx registers (R304). -/
def execNmulScalar (d a b : BitVec 4) (t : BitVec 2) (s : State) : Out := scalarForm d a b t (· * ·) s
/-- NFMA (R304): mvd is its third operand. -/
def execNfma (d a b : BitVec 4) (m : BitVec 2) (c : BitVec 1) (sel : BitVec 5) (s : State) : Out :=
  laneForm (badCommon 1 c sel) d a b m c sel true fmaFp32 s
/-- NMAX (R304). -/
def execNmax (d a b : BitVec 4) (m t : BitVec 2) (c : BitVec 1) (sel : BitVec 5) (s : State) : Out :=
  arithForm (badCommon t c sel) d a b m t c sel max maxFp32 s
/-- NMAX on mx registers (R304). -/
def execNmaxScalar (d a b : BitVec 4) (t : BitVec 2) (s : State) : Out := scalarForm d a b t max s
/-- NMIN (R304). -/
def execNmin (d a b : BitVec 4) (m t : BitVec 2) (c : BitVec 1) (sel : BitVec 5) (s : State) : Out :=
  arithForm (badCommon t c sel) d a b m t c sel min minFp32 s
/-- NMIN on mx registers (R304). -/
def execNminScalar (d a b : BitVec 4) (t : BitVec 2) (s : State) : Out := scalarForm d a b t min s
/-- NAND, the bitwise and (R304). -/
def execNand (d a b : BitVec 4) (m t : BitVec 2) (c : BitVec 1) (sel : BitVec 5) (s : State) : Out :=
  laneForm (badCommon t c sel) d a b m c sel false (fun x y _ => (x &&& y, 0)) s
/-- NAND on mx registers (R304). -/
def execNandScalar (d a b : BitVec 4) (t : BitVec 2) (s : State) : Out := scalarForm d a b t (onBits 64 (· &&& ·)) s
/-- NOR, the bitwise or (R304). -/
def execNor (d a b : BitVec 4) (m t : BitVec 2) (c : BitVec 1) (sel : BitVec 5) (s : State) : Out :=
  laneForm (badCommon t c sel) d a b m c sel false (fun x y _ => (x ||| y, 0)) s
/-- NOR on mx registers (R304). -/
def execNorScalar (d a b : BitVec 4) (t : BitVec 2) (s : State) : Out := scalarForm d a b t (onBits 64 (· ||| ·)) s
/-- NXOR (R304). -/
def execNxor (d a b : BitVec 4) (m t : BitVec 2) (c : BitVec 1) (sel : BitVec 5) (s : State) : Out :=
  laneForm (badCommon t c sel) d a b m c sel false (fun x y _ => (x ^^^ y, 0)) s
/-- NXOR on mx registers (R304). -/
def execNxorScalar (d a b : BitVec 4) (t : BitVec 2) (s : State) : Out := scalarForm d a b t (onBits 64 (· ^^^ ·)) s

/-- A shift left by the low bits of a count. -/
def shiftLeft (w : Nat) (x y : Int) : Int := x * 2 ^ (wrapInt w y % w)
/-- A shift right by the low bits of a count: a negative number fills with its top bit. -/
def shiftRight (w : Nat) (x y : Int) : Int := x / 2 ^ (wrapInt w y % w)

/-- NSHL (R304). -/
def execNshl (d a b : BitVec 4) (m t : BitVec 2) (c : BitVec 1) (sel : BitVec 5) (s : State) : Out :=
  arithForm (badCommon t c sel || t == 1) d a b m t c sel (shiftLeft 32) (fun _ _ => (0, 0)) s
/-- NSHL on mx registers (R304). -/
def execNshlScalar (d a b : BitVec 4) (t : BitVec 2) (s : State) : Out := scalarForm d a b t (shiftLeft 64) s
/-- NSHR (R304). -/
def execNshr (d a b : BitVec 4) (m t : BitVec 2) (c : BitVec 1) (sel : BitVec 5) (s : State) : Out :=
  arithForm (badCommon t c sel || t == 1) d a b m t c sel (shiftRight 32) (fun _ _ => (0, 0)) s
/-- NSHR on mx registers (R304). -/
def execNshrScalar (d a b : BitVec 4) (t : BitVec 2) (s : State) : Out := scalarForm d a b t (shiftRight 64) s

/-- Writes the bits of a mask register that active lanes give (R305, R317). -/
def putMask (v : MillState) (d m : BitVec 2) (f : Nat → Bool) : MillState :=
  mkPut v d (BitVec.ofNat 32 (boolBits ((List.range 32).map fun l =>
    if (mkGet v m).getLsbD l then f l else (mkGet v d).getLsbD l)))

/-- The comparison of a lane (R190, R305). -/
def compareLane (t : BitVec 2) (k : Nat) (x y : Nat) : Bool × FlagSet :=
  if t = 1 then compareNum k (fp32.decode x) (fp32.decode y)
  else (compareInt k (intOf 32 (t == 0) x) (intOf 32 (t == 0) y), 0)

/-- NCMP (R299, R300, R305): a bit from a poisoned lane is 0; each active lane raises its flags. -/
def execNcmp (d : BitVec 2) (a b : BitVec 4) (m t : BitVec 2) (c : BitVec 1) (sel : BitVec 5) (k : BitVec 3) (s : State) : Out :=
  millWord (badCommon t c sel || d == 0 || k == 7 || (k == 6 && t != 1)) s fun s v =>
    let tag (l : Nat) : Bool := laneTag v a l || laneTag v b (laneB c sel l)
    let r (l : Nat) : Bool × FlagSet := compareLane t k.toNat (lane v a l) (lane v b (laneB c sel l))
    let raised := (List.range 32).foldl (fun u l =>
      if (mkGet v m).getLsbD l then raiseLane u l (r l).2 else u) v
    .done s (putMask raised d m fun l => !tag l && (r l).1)

/-- NSEL (R305): every lane is written. -/
def execNsel (d a b : BitVec 4) (m : BitVec 2) (c : BitVec 1) (sel : BitVec 5) (s : State) : Out :=
  millWord (badCommon 0 c sel) s fun s v =>
    .done s (putLanes v d fun l =>
      some (if (mkGet v m).getLsbD l then { value := lane v a l, tag := laneTag v a l, flags := 0 }
        else { value := lane v b (laneB c sel l), tag := laneTag v b (laneB c sel l), flags := 0 }))

/-! ### Permutes and conversions (R306, R307, R317) -/

/-- Byte i of an mv register. -/
def millByte (v : MillState) (r : BitVec 4) (i : Nat) : Nat := lane v r (i / 4) / 2 ^ (8 * (i % 4)) % 256

/-- NPERM (R306). -/
def execNperm (d a b : BitVec 4) (m : BitVec 2) (s : State) : Out :=
  millWord false s fun s v =>
    .done s (putLanes v d (onLanes v m fun l =>
      let ks := (List.range 4).map fun j => millByte v b (4 * l + j)
      { value := packElems 8 (ks.map fun k => if k < 128 then millByte v a k else 0)
        tag := laneTag v b l || ks.any fun k => decide (k < 128) && laneTag v a (k / 4), flags := 0 }))

/-- The conversion of a lane (Table 11.9): source type y, destination z, part p, the destination's old value. -/
def convertLane (src dst part x old : Nat) : Nat × FlagSet :=
  if src = 0x9 ∧ dst ≠ 0x4 then
    let (h, f) := convertElement src dst .rne false x
    ((if part = 0 then old / 65536 * 65536 + h else h * 65536 + old % 65536), f)
  else convertElement src dst .rne false (x / 2 ^ (typeWidth src * part) % 2 ^ typeWidth src)

/-- NCVT (R307). -/
def execNcvt (d a : BitVec 4) (m : BitVec 2) (p : BitVec 3) (y z : BitVec 4) (s : State) : Out :=
  millWord (!WellFormed.ncvtPair z y p) s fun s v =>
    let merges := decide (z = 0x9 ∧ y ≠ 0x4)
    .done s (putLanes v d (onLanes v m fun l =>
      let (x, f) := convertLane z.toNat y.toNat p.toNat (lane v a l) (lane v d l)
      { value := x, tag := laneTag v a l || (merges && laneTag v d l), flags := f }))

/-- NIDX (R306). -/
def execNidx (d a : BitVec 4) (m : BitVec 2) (i : BitVec 11) (s : State) : Out :=
  millWord false s fun s v =>
    .done s (putLanes v d (onLanes v m fun l =>
      { value := ((mxGet v a).truncate 32 + BitVec.ofNat 32 l + i.signExtend 32).toNat, tag := mxTag v a, flags := 0 }))

/-- NIDX.w (R317). -/
def execNidxW (d m : BitVec 2) (t : BitVec 7) (s : State) : Out :=
  millWord (d == 0) s fun s v =>
    .done s (putMask v d m fun l =>
      decide (t.toNat + l < v.vc.toNat) && decide (v.wf.toNat ≤ (v.pb.toNat + t.toNat + l) % 2 ^ 32))

/-! ### Reductions, 2^x and the dot unit (R308-R310) -/

/-- The reduction of a register's active lanes, its flags and whether it is poisoned (R299, R308). -/
def reduceLanes (v : MillState) (a : BitVec 4) (m : BitVec 2) (t op : Nat) : Nat × FlagSet × Bool :=
  let active (l : Nat) : Bool := (mkGet v m).getLsbD l
  let l := (List.range 32).map fun l => if active l then lane v a l else reduceIdentity op t
  let (r, f) := reduceTree (fun _ x y => reduceOp op t .rne false x y) 5 0 l
  (r, f, (List.range 32).any fun l => active l && laneTag v a l)

/-- Whether NRED's TY or CC lies outside its range. -/
def badReduce (t : BitVec 2) (o : BitVec 3) : Bool := t == 3 || decide (5 < o.toNat) || (decide (2 < o.toNat) && t == 1)

/-- NRED to every lane (R308). -/
def execNred (d a : BitVec 4) (m t : BitVec 2) (o : BitVec 3) (s : State) : Out :=
  millWord (badReduce t o) s fun s v =>
    let (r, f, tag) := reduceLanes v a m (millType t) o.toNat
    .done s (raiseLane (putLanes v d fun _ => some { value := r, tag := tag, flags := 0 }) 0 f)

/-- NRED to an mx register (R308). -/
def execNredScalar (d a : BitVec 4) (m t : BitVec 2) (o : BitVec 3) (s : State) : Out :=
  millWord (badReduce t o) s fun s v =>
    let (r, f, tag) := reduceLanes v a m (millType t) o.toNat
    let x : Word := if t = 0 then (BitVec.ofNat 32 r).signExtend 64 else BitVec.ofNat 64 r
    .done s (raiseLane (mxPut v d x tag) 0 f)

/-- 2^x of an FP32 encoding (R173, R309). -/
def exp2Fp32 (x : Nat) : Nat × FlagSet := exp2Of fp32 .rne false (fp32.decode x)

/-- NEXP2 (R309). -/
def execNexp2 (d a : BitVec 4) (m : BitVec 2) (s : State) : Out :=
  millWord false s fun s v =>
    .done s (putLanes v d (onLanes v m fun l =>
      let (x, f) := exp2Fp32 (lane v a l)
      { value := x, tag := laneTag v a l, flags := f }))

/-- A sum of products rounded into an accumulator once (R310). -/
def dotInto (acc : Nat) (products : List (Num × FlagSet)) : Nat × FlagSet :=
  fp32.finish .rne false (accumulate false (fp32.decode acc) products)

/-- Half h of a lane as a BF16 number. -/
def halfNum (x h : Nat) : Num := bf16.decode (x / 65536 ^ h % 65536)

/-- NDOT on nibbles (R310). -/
def execNdot (d a b : BitVec 4) (m : BitVec 2) (u : BitVec 1) (q : BitVec 5) (s : State) : Out :=
  millWord (decide (7 < q.toNat)) s fun s v =>
    let t := if u = 0 then 0x1 else 0x5
    let other (e : Nat) : Num := halfNum (lane v b (4 * q.toNat + e / 2)) (e % 2)
    let tagB := (List.range 4).any fun j => laneTag v b (4 * q.toNat + j)
    .done s (putLanes v d (onLanes v m fun l =>
      let (x, f) := dotInto (lane v d l) ((List.range 8).map fun e =>
        mulNum (elementNum t (lane v a l / 16 ^ e % 16)) (other e))
      { value := x, tag := laneTag v a l || laneTag v d l || tagB, flags := f }))

/-- NDOT on BF16 pairs (R310). -/
def execNdotBf16 (d a b : BitVec 4) (m : BitVec 2) (q : BitVec 5) (s : State) : Out :=
  millWord false s fun s v =>
    .done s (putLanes v d (onLanes v m fun l =>
      let (x, f) := dotInto (lane v d l) ((List.range 2).map fun h =>
        mulNum (halfNum (lane v a l) h) (halfNum (lane v b q.toNat) h))
      { value := x, tag := laneTag v a l || laneTag v d l || laneTag v b q.toNat, flags := f }))

/-! ### The attention triple (R321-R323) -/

/-- What a softmax step gives: m, c and s, the weight and flags of each lane, and the flags of lane 0. -/
structure Softmax where
  m : Nat
  c : Nat
  sum : Nat
  p : List (Nat × FlagSet)
  flags : FlagSet
deriving DecidableEq, Repr

/-- −∞ and 1.0 in FP32. -/
def minusInf : Nat := 0xFF800000
def fpOne : Nat := 0x3F800000

/-- The exponential of a rounded difference (R321). -/
def expDiff (x m : Nat) : Nat × FlagSet :=
  let (d, f) := subFp32 x m
  let (e, g) := exp2Fp32 d
  (e, f ||| g)

/-- One online-softmax step over scores (R321). -/
def softmaxStep (mo so : Nat) (x : List Nat) : Softmax :=
  let (mn, f) := x.foldl (fun (q : Nat × FlagSet) y => let (z, g) := maxFp32 q.1 y; (z, q.2 ||| g)) (mo, (fp32.decode mo).signal)
  if mn = minusInf then { m := mn, c := fpOne, sum := so, p := x.map fun _ => (0, 0), flags := f }
  else
    let (c, g) := expDiff mo mn
    let p := x.map fun y => expDiff y mn
    let (t, h) := reduceTree (fun _ a b => addFp32 a b) 5 0 (p.map (·.1))
    let (sn, k) := fmaFp32 so c t
    { m := mn, c := c, sum := sn, p := p, flags := f ||| g ||| h ||| k }

/-- NSMX (R321). -/
def execNsmx (d a b : BitVec 4) (m : BitVec 2) (s : State) : Out :=
  millWord false s fun s v =>
    let active (l : Nat) : Bool := (mkGet v m).getLsbD l
    let r := softmaxStep (lane v b 0) (lane v b 1) ((List.range 32).map fun l => if active l then lane v a l else minusInf)
    let mTag := laneTag v b 0 || (List.range 32).any fun l => active l && laneTag v a l
    let u := putLanes v d fun l => some { value := (r.p.getD l (0, 0)).1, tag := mTag, flags := (r.p.getD l (0, 0)).2 }
    let u := putLanes u b fun l =>
      match l with
      | 0 => some { value := r.m, tag := mTag, flags := r.flags }
      | 1 => some { value := r.sum, tag := laneTag v b 1 || mTag, flags := 0 }
      | 2 => some { value := r.c, tag := mTag, flags := 0 }
      | _ => none
    .done s u

/-- Lane k of a triple record, and whether it is poisoned (Table 11.11): n registers from d, and m and s of register b. -/
def tripleLane (v : MillState) (d b : BitVec 4) (n k : Nat) : Nat × Bool :=
  let empty := decide (lane v b 0 = minusInf)
  let reg (j : Nat) : BitVec 4 := d + BitVec.ofNat 4 j
  let tagged := laneTag v b 0 || laneTag v b 1 || (List.range n).any fun j => v.mvPoison[(reg j).toNat] != 0
  match k with
  | 0 => (lane v b 0, laneTag v b 0)
  | 1 => (if empty then 0 else lane v b 1, laneTag v b 1)
  | 2 => (32 * n, false)
  | 3 => ((if empty then 2 else 0) + (if tagged then 1 else 0), false)
  | k =>
    if k < 16 then (0, false)
    else
      let j := (k - 16) / 32
      let l := (k - 16) % 32
      (if empty then 0 else lane v (reg j) l, laneTag v (reg j) l)

/-- NTRIP (R323): its accesses take the slots of each row that they lie in, up to eight in a slot (R273, R297). -/
def execNtrip (d a b : BitVec 4) (n : BitVec 3) (s : State) : Out :=
  millWord (decide (16 < d.toNat + n.toNat + 1)) s fun s v =>
    if mxTag v a then .ends s v chanILL
    else
      let n := n.toNat + 1
      let w := (mxGet v a).toNat
      let size := 64 + 128 * n
      millChecked s v w size 64 (
        let at_ := w + v.trip
        if !slotTakes v at_ then .waits s v
        else
          let k := slotSpan v at_ (size - v.trip)
          let s' := (List.range (k / 64)).foldl (fun s i =>
            let j := v.trip / 64 + i
            storeSector s (millCell (millNumber s) w + 64 * j) (fun l => some (tripleLane v d b n (16 * j + l)).1)
              (fun l => (tripleLane v d b n (16 * j + l)).2)) s
          let u := takeSpan v at_ k
          if v.trip + k < size then .waits s' { u with trip := v.trip + k } else .done s' { u with trip := 0 })

/-! ### Flow and control (R311-R316) -/

/-- NSKIP (R313). -/
def execNskip (d a b : BitVec 4) (s : State) : Out :=
  millWord false s fun s v =>
    let x := mxGet v a
    let from_ := (mxGet v b).toNat
    let j := (((List.range 64).find? fun j => decide (from_ ≤ j) && x.getLsbD j)).getD 64
    .done s (mxPut v d (BitVec.ofNat 64 j) (mxTag v a || mxTag v b))

/-- Whether the opcode of a word at the end of a loop transfers control, sets up a loop or ends the kernel (R312). -/
def badLast (w : BitVec 32) : Bool := [0x1D, 0x1E, 0x1F, 0x23].contains (w.toNat / 2 ^ 26)

/-- NLOOP (R127, R128, R312). -/
def execNloop (a : BitVec 4) (f : BitVec 12) (s : State) : Out :=
  millWord (f == 0) s fun s v =>
    let last := millPc v + f.zeroExtend 64 * 4
    let nested := match v.loops with | [l] => decide (l.last.toNat < last.toNat) | _ => false
    match millWordAt s (millNumber s) last.toNat with
    | none => .ends s v chanILL
    | some w =>
      if badLast w || decide (2 ≤ v.loops.length) || nested || mxTag v a then .ends s v chanILL
      else
        let count := mxGet v a
        if count = 0 then
          match v.loops with
          | l :: _ =>
            if l.last = last then let (pc, loops) := nextWord 4 last v.loops; .jump s v pc loops
            else .jump s v (last + 4) v.loops
          | [] => .jump s v (last + 4) []
        else .jump s v (millPc v + 4) ({ start := millPc v + 4, last := last, remaining := count } :: v.loops)

/-- A taken branch (R311, R312): ILL outside the code store. -/
def millBranch (s : State) (v : MillState) (o : BitVec 12) : MillEnd :=
  let target := millPc v + o.signExtend 64 * 4
  if 0xFFFC < target.toNat then .ends s v chanILL else .jump s v target (loopsAfterBranch v.loops target)

/-- NBR (R311). -/
def execNbr (o : BitVec 12) (s : State) : Out := millWord false s fun s v => millBranch s v o

/-- NBRC on an mx register (R299, R311). -/
def execNbrc (n : BitVec 1) (a : BitVec 4) (o : BitVec 12) (s : State) : Out :=
  millWord false s fun s v =>
    if mxTag v a then .ends s v chanILL
    else if (mxGet v a != 0) == (n == 0) then millBranch s v o
    else .done s v

/-- NBRC on a mask (R311). -/
def execNbrcMask (n : BitVec 1) (k : BitVec 2) (o : BitVec 12) (s : State) : Out :=
  millWord false s fun s v => if (mkGet v k != 0) == (n == 0) then millBranch s v o else .done s v

/-- A semaphore word (R316): a poisoned count sets UE and ends the kernel with ILL. -/
def millSem (bad : Bool) (a : BitVec 4) (s : State) (body : State → MillState → Nat → Word → MillEnd) : Out :=
  millWord bad s fun s v =>
    if mxTag v a then .ends s v chanILL
    else
      millAccess s v (mxGet v a).toNat 8 8 fun v w =>
        let b := millCell (millNumber s) w
        let (bs, s') := millReadAll s b 8
        if cellPoisoned s b then .ends s' v (chanUE ||| chanILL) else body s' v b (bytesWord bs)

/-- NSEMS (R316). -/
def execNsems (a : BitVec 4) (n : BitVec 12) (s : State) : Out :=
  millSem (n == 0) a s fun s v b count =>
    if 2 ^ 64 ≤ count.toNat + n.toNat then .ends s v chanILL
    else .done (storeWord64 s b (count + n.zeroExtend 64)) v

/-- NSEMW (R316, R338): a count of zero is read again in the next slot. -/
def execNsemw (a : BitVec 4) (s : State) : Out :=
  millSem false a s fun s v b count =>
    if count = 0 then .waits s { v with slotUse := 8 }
    else .done (advanceCell (storeWord64 s b (count - 1)) (millTarget b)) v

/-- NFLAG (R314). -/
def execNflag (d : BitVec 4) (c : BitVec 1) (s : State) : Out :=
  millWord false s fun s v =>
    let x : Word := (allLaneFlags v).zeroExtend 64 ||| (if v.chan &&& chanUE != 0 then 0x100 else 0)
    let v := if c = 1 then { v with laneFlags := 0 } else v
    .done s (mxPut v d x false)

/-- NEND (R315). -/
def execNend (s : State) : Out := millWord false s fun s v => .ends s v 0

/-- A reserved Mill word (R295). -/
def execReservedMillWord (_ : BitVec 32) (s : State) : Out := millWord true s fun s v => .done s v

end Sys2Proof.Machine
end

