-- ==== Sys2Proof/Machine/BankQueue.lean ====
section
/-!
DEFINITION. The bank queue (R285-R291): its words, the preparation of a command at the head, the arbiter and the grant (R275,
R287), the completion of each kind of command; the Mills' watchdog (R284), the command wheel (R273, R274, R276) and the patrol
scrubber (R283).
-/
namespace Sys2Proof.Machine
open Sys2Proof.Config

/-! ### The words (R286) -/

/-- BQCMD (R286, R288). -/
def execBqcmd (o : FmtC) (s : State) : Out :=
  commandWord o false true true s fun s k c xa xb =>
    if xa.toNat % 64 ≠ 0 then .trap 0x05 xa else queueCmd s k c .bqcmd o xa xb

/-- BQLOAD (R286, R290). -/
def execBqload (o : FmtC) (s : State) : Out :=
  commandWord o false true true s fun s k c xa xb =>
    let len := bits xb 16 0
    let off := bits xb 47 32
    if xa.toNat % 64 ≠ 0 then .trap 0x05 xa
    else if bits xb 31 17 != 0 || bits xb 63 48 != 0 || len % 64 != 0 || off % 64 != 0 || decide (len < 64) ||
        decide (65536 < off + len) || o.cimm.extractLsb' 0 8 == 0 then .trap 0x01 0xB
    else queueCmd s k c .bqload o xa xb

/-- WINFENCE (R286, R291). -/
def execWinfence (o : FmtC) (s : State) : Out :=
  commandWord o false false false s fun s k c _ _ => queueCmd s k c .winfence o 0 0

/-! ### The record (Table 10.7) -/

/-- The fields of a bank-queue record, latched as doublewords. -/
def recMS (w : List Word) : Bool := (w.getD 0 0).getLsbD 51
def recMW (w : List Word) : Bool := (w.getD 0 0).getLsbD 50
def recBanks (w : List Word) : BitVec 16 := (w.getD 0 0).extractLsb' 34 16
def recCount (w : List Word) : Nat := bits (w.getD 0 0) 33 25
def recFirst (w : List Word) : Nat := bits (w.getD 0 0) 24 16
def recKoff (w : List Word) : Nat := bits (w.getD 0 0) 15 0
def recMwait (w : List Word) : Nat := bits (w.getD 3 0) 47 0
def recMsig (w : List Word) : Nat := bits (w.getD 4 0) 47 0
def recStat (w : List Word) : Nat := bits (w.getD 5 0) 47 0

/-- Whether a record is malformed (R288). -/
def recBad (w : List Word) : Bool :=
  bits (w.getD 0 0) 63 52 != 0 || recBanks w == 0 || decide (511 < recFirst w + recCount w) || recKoff w % 64 != 0 ||
    (recMW w && recMwait w == 0) || (recMS w && recMsig w == 0) || bits (w.getD 3 0) 63 48 != 0 ||
    bits (w.getD 4 0) 63 48 != 0 || bits (w.getD 5 0) 63 48 != 0 || w.getD 6 0 != 0 || w.getD 7 0 != 0

/-- The first misaligned address of a record (R288). -/
def recMisaligned (w : List Word) : Option Nat := [recMwait w, recMsig w, recStat w].find? fun a => a % 8 != 0

/-! ### Preparing the head (R285, R288) -/

/-- A command's answer from a lender is used: the next access at the same place asks anew. -/
def asksAnew (e : EngCmd) (m : Moved α) : Moved α :=
  match m with
  | .ok v s => .ok v { s with lent := s.lent.filter (·.cmd != some (coreOf e.slot, e.id)) }
  | m => m

/-- One indivisible step of a command on a doubleword: the old value and the target. -/
def cmdAtomic (s : State) (e : EngCmd) (va : Nat) (op : Step8) : Moved (Word × Target) :=
  let lent (t : Target) (s : State) : Moved (Word × Target) :=
    asksAnew e ((ofReply va t (lentStep s (cmdAccess e va t) op)).map fun r => (r.2, t))
  match cmdAsked s e va [3, 4, lentOpc] with
  | some t => lent t s
  | none =>
  match cmdTarget s e va 8 .atomic with
  | .wait s => .wait s
  | .fault f a s => .fault f a s
  | .ok t s =>
    if t.tier = 1 then lent t s
    else if (targetPoison s t 8).isSome then .fault 0x40 (BitVec.ofNat 64 va) (afterTarget s t 8)
    else
      let old := bytesWord (targetBytes s t 8)
      let s := afterTarget s t 8
      match op.next old with
      | some v => .ok (old, t) (signCrossings (commandWriter e) s (targetWrite s t (wordBytes v)))
      | none => .ok (old, t) s

/-- A fault of a bank-queue command: held, or stopped (R228). -/
def bankFault (s : State) (core : Nat) (e : EngCmd) (code : BitVec 8) (addr : Word) : State :=
  let s := putCmd s core e
  if heldCode code then holdCmd s core e code addr else stopCmd s core e code addr true

/-- The moment at which the latest request that waits at the arbiter became ready. -/
def latestReady (s : State) : Option Nat :=
  (s.cores.filterMap fun q => q.2.bankQ.head?.bind (·.readyAt)).max?

/-- The command at the head is ready: it asks the arbiter for its Mills (R287). Whether that is in the clk of the latest
request before it is a free choice (log 61). -/
def makeReady (s : State) (core : Nat) (e : EngCmd) : State :=
  let at_ := if freeBit s.free then (latestReady s).getD s.stamp else s.stamp
  spend (bump (putCmd s core { e with started := true, readyAt := some at_ })) 1

/-- A BQCMD's wait on MWAIT, as MSEMWAIT does (R288, R338). -/
def waitRecord (s : State) (core : Nat) (e : EngCmd) : State :=
  if !recMW e.latch then makeReady s core e
  else
    match cmdAtomic s e (recMwait e.latch) .take with
    | .wait s => putCmd s core e
    | .fault c a s => bankFault s core e c a
    | .ok (v, t) s => if v = 0 then putCmd s core e else makeReady (advanceCell s t) core e

/-- A BQCMD's record, checked once it is read (R288). -/
def checkRecord (s : State) (core : Nat) (e : EngCmd) : State :=
  if recBad e.latch then stopCmd s core e 0x01 0xE true
  else
    match recMisaligned e.latch with
    | some a => stopCmd s core e 0x05 (BitVec.ofNat 64 a) true
    | none => waitRecord s core e

/-- What the head of the queue does once it has consumed its wait. -/
def prepareHead (s : State) (core : Nat) (e : EngCmd) : State :=
  match e.kind with
  | .winfence =>
    let c := coreAt s core
    putCore s core { c with bankQ := c.bankQ.tail, bankRun := c.bankRun ++ [{ e with started := true }] }
  | .bqload => makeReady s core e
  | _ =>
    if e.latch.isEmpty then
      match engineRead s e e.xa.toNat 64 with
      | .wait s => putCmd s core e
      | .fault c a s => bankFault s core e c a
      | .ok bs s => checkRecord s core { e with latch := bytesWords 8 bs }
    else waitRecord s core e

/-- Whether the command at the head may start beside those in progress (R285). -/
def headMay (c : CoreState) (e : EngCmd) : Bool :=
  match e.kind with
  | .bqcmd => c.bankRun.all fun f => f.kind == .bqcmd
  | _ => c.bankRun.isEmpty

/-- BANK_QUEUE_CMD_START (R224, R285, R288): the head consumes its wait, reads its record and waits on its memory semaphore, as
far as it can go; it has started once it has consumed a count, or is ready. -/
def execBankQueueCmdStart (core : Nat) (s : State) : Out :=
  .next (
    let c := coreAt s core
    match c.bankQ with
    | [] => s
    | e :: _ =>
      if e.held || e.readyAt.isSome || (!e.started && cmdFrozen s e) || !headMay c e then s
      else
        match consumeWait s core e with
        | (false, s) => s
        | (true, s) => prepareHead s core { e with consumed := true, started := e.wv })

/-! ### The arbiter (R275, R287) -/

/-- Mills that a command names (R287). -/
def millsNamed (e : EngCmd) (m : Nat) : Bool :=
  match e.kind with
  | .bqcmd => decide (recFirst e.latch ≤ m ∧ m ≤ recFirst e.latch + recCount e.latch)
  | _ => e.cimm.getLsbD (m / 64)

/-- The requests that wait at the arbiter: the core and the command of each. -/
def requests (s : State) : List (Nat × EngCmd) :=
  s.cores.filterMap fun q =>
    match q.2.bankQ with
    | e :: _ => if e.readyAt.isSome then some (q.1, e) else none
    | [] => none

/-- Whether request f of core g counts as earlier than request e of core k. -/
def earlierRequest (g k : Nat) (f e : EngCmd) : Bool :=
  let a := f.readyAt.getD 0
  let b := e.readyAt.getD 0
  decide (a < b) || (a == b && decide (g < k))

/-- Whether a request may be granted (R287). -/
def mayGrant (s : State) (core : Nat) (e : EngCmd) : Bool :=
  let named := (List.range mills).filter (millsNamed e)
  named.all (fun m => (millAt s m).holder.isNone) &&
    !((requests s).any fun q => earlierRequest q.1 core q.2 e && named.any (millsNamed q.2))

/-- A Mill as a kernel starts on it (Table 11.1). -/
def kernelStart (v : MillState) (core : Nat) (e : EngCmd) (i : Nat) : MillState :=
  { MillState.reset with
    owner := some (core, e.id), holder := some (core, e.id), ownedBanks := recBanks e.latch, pc := recKoff e.latch
    mx := Vector.ofFn fun r : Fin 16 =>
      match r.val with
      | 1 => e.latch.getD 1 0
      | 2 => e.latch.getD 2 0
      | 3 => e.xb
      | 4 => BitVec.ofNat 64 i
      | _ => 0
    revolution := v.revolution, wheelSlot := v.wheelSlot, share := v.share, service := v.service }

/-- Grants a command its Mills: a BQCMD's banks become MILL-owned and its kernels start; a BQLOAD holds the Mills. -/
def grantMills (s : State) (core : Nat) (e : EngCmd) : State :=
  ((List.range mills).filter (millsNamed e)).foldl (fun s m =>
    let v := millAt s m
    putMill s m (match e.kind with
      | .bqcmd => kernelStart v core e (m - recFirst e.latch)
      | _ => { v with holder := some (core, e.id) })) s

/-- MILL_GRANT (R275, R285, R287, R292). -/
def execMillGrant (core : Nat) (s : State) : Out :=
  .next (
    let c := coreAt s core
    match c.bankQ with
    | [] => s
    | e :: rest =>
      -- In HOLD a started BQLOAD goes on, and no kernel starts (R415).
      if e.readyAt.isSome && decide (c.bankRun.length < 4) && headMay c e && mayGrant s core e &&
          (!s.pkg.hold || e.kind == .bqload) then
        grantMills (putCore s core { c with bankQ := rest, bankRun := c.bankRun ++ [e] }) core e
      else s)

/-! ### Completion (R275, R288-R291) -/

/-- The Mills that a command holds. -/
def heldMills (s : State) (core id : Nat) : List MillState :=
  (s.mills.filter fun q => q.2.holder == some (core, id)).map (·.2)

/-- The status word (Table 10.8). -/
def bankStatus (l : List MillState) : Word :=
  let flags := l.foldl (fun (f : BitVec 12) v => f ||| v.chan) 0
  BitVec.ofNat 64 ((l.filter endedWell).length * 2 ^ 32) ||| (flags &&& 0xF1F).zeroExtend 64

/-- The banks of a command go back to HOST (R275). -/
def returnBanks (s : State) (core id : Nat) : State :=
  { s with mills := s.mills.map fun q =>
      (q.1, if q.2.holder == some (core, id) then { q.2 with ownedBanks := 0, service := none } else q.2) }

/-- A BQCMD's signal of its memory semaphore, and its end (R288). -/
def signalRecord (s : State) (core : Nat) (e : EngCmd) : State :=
  if !recMS e.latch then finishCmd s core e
  else
    match cmdAtomic s e (recMsig e.latch) .signal with
    | .wait s => putCmd s core e
    | .fault 0x21 a s => stopCmd s core e 0x21 a false
    | .fault c a s => bankFault s core e c a
    | .ok (v, _) s =>
      if v = BitVec.allOnes 64 then stopCmd s core e 0x21 (BitVec.ofNat 64 (recMsig e.latch)) false
      else finishCmd (endWrites s e true) core e

/-- What follows a BQCMD's status write: the watchdog's fault, or the signals (R288). -/
def afterStatus (s : State) (core : Nat) (e : EngCmd) : State :=
  let e := { e with progress := 1 }
  if (bankStatus (heldMills s core e.id)).getLsbD 11 then stopCmd s core e 0x7F e.xa false else signalRecord s core e

/-- A BQCMD's status write (R288, R289). -/
def writeStatus (s : State) (core : Nat) (e : EngCmd) : State :=
  if recStat e.latch = 0 then afterStatus s core e
  else
    match engineWrite s e (recStat e.latch) (wordBytes (bankStatus (heldMills s core e.id))) with
    | .wait s => putCmd s core e
    | .fault c a s => bankFault s core e c a
    | .ok _ s => afterStatus s core e

/-- BQCMD_COMPLETE (R275, R288, R289): every kernel has ended; the command's last steps, from where a held fault or a wait left
them. -/
def execBqcmdComplete (core id : Nat) (s : State) : Out :=
  .next (match (coreAt s core).bankRun.find? (·.id == id) with
    | none => s
    | some e =>
      if e.kind != .bqcmd || e.held || !((heldMills s core id).all (·.ended)) then s
      else if e.progress = 0 then writeStatus (drainRings (returnBanks s core id)) core e
      else signalRecord s core e)

/-- Copies a 64-byte sector of a kernel image into the code stores of the stacks in the mask (R290). -/
def loadCode (s : State) (e : EngCmd) : Worked :=
  if bits e.xb 16 0 ≤ e.progress then .finished s e
  else
    match engineRead s e (e.xa.toNat + e.progress : Nat) 64 with
    | .wait s => .wait s e
    | .fault c a s => .fault s e c a
    | .ok bs s =>
      let dst := bits e.xb 47 32 + e.progress
      let code := (List.range 8).foldl (fun m st =>
        if e.cimm.getLsbD st then memWrite m (codeKey (64 * st) dst) bs else m) s.code
      .more { s with code := code } { e with progress := e.progress + 64 }

/-- BQLOAD_COMPLETE (R290): the copy, as far as it goes, and its end. -/
def execBqloadComplete (core : Nat) (s : State) : Out :=
  .next (match (coreAt s core).bankRun.find? (·.kind == .bqload) with
    | none => s
    | some e =>
      if e.held then s
      else
        match workOn loadCode (2 ^ 20) s e with
        | .finished s e => finishCmd s core e
        | .more s e | .wait s e => putCmd s core e
        | .fault s e c a => bankFault s core e c a)

/-- Whether accesses of the issuing crew that precede a WINFENCE are still to be performed (R280). -/
def fenceWaits (s : State) (e : EngCmd) : Bool :=
  match issuer s e with
  | none => false
  | some c => c.log.any fun l => decide (l.seq < e.seq) && entryBytes l != 0

/-- WINFENCE_COMPLETE (R280, R291). -/
def execWinfenceComplete (core : Nat) (s : State) : Out :=
  .next (match (coreAt s core).bankRun.find? (·.kind == .winfence) with
    | none => s
    | some e => if fenceWaits s e then s else finishCmd (fenceWindows s e.crewId) core e)

/-! ### Mills and their controllers -/

/-- MILL_WATCHDOG (R284, R296): a kernel that has run for 200 µs, HOLD apart, is stopped. What an NTRIP between two of its slots
has already stored stays (DESIGN CHOICE, log 81: the stores are performed, though R296 gives the word at the failure no effect). -/
def execMillWatchdog (mill : Nat) (s : State) : Out :=
  .next (if millRuns s mill then putMill s mill (endKernel (millAt s mill) chanWD) else s)

/-- The service that is still under way at a slot of its reserved revolution's eight: it ends by slot 60 (R276), and before
that when it does. -/
def serviceAt (n : Nat) (v : MillState) : Option Nat :=
  if decide (60 ≤ v.revolution % 8 * 16 + v.wheelSlot) || freeBit n then none else v.service

/-- The start of a slot: none of it is used. -/
def newSlot (n : Nat) (v : MillState) : MillState := { v with slotRow := none, slotUse := 0, service := serviceAt n v }

/-- What the host slot that ends leaves to the host slots after it: what an access moves beyond its five sectors (R273). -/
def endSlot (s : State) (mill : Nat) : State :=
  let used := mapGetD s.host.slots mill 0
  if millSlot (millAt s mill) || used = 0 then s
  else { s with host := { s.host with slots := if used ≤ 5 then mapErase s.host.slots mill else mapSet s.host.slots mill (used - 5) } }

/-- WHEEL_SLOT (R273): the next slot of a revolution starts; records that wait for the memory take it (R276). -/
def execWheelSlot (mill : Nat) (s : State) : Out :=
  .next (
    let v := millAt s mill
    if mills ≤ mill ∨ 15 ≤ v.wheelSlot then s
    else drainRings (spend (putMill (endSlot s mill) mill (newSlot s.free { v with wheelSlot := v.wheelSlot + 1 })) 1))

/-- WHEEL_REVOLUTION (R273, R274): the next revolution starts, with the SHARE that MSH holds. -/
def execWheelRevolution (mill : Nat) (s : State) : Out :=
  .next (if mills ≤ mill then s
    else
      let v := millAt s mill
      let v := { v with revolution := v.revolution + 1, wheelSlot := 0, share := bits s.pkg.msh 4 0 }
      drainRings (spend (putMill (endSlot s mill) mill (newSlot s.free v)) 1))

/-- HOST_RESERVED_SERVICE (R276): in a host-reserved slot the controller opens the row of a MILL-owned bank for which the oldest
host access waits, and serves the accesses that wait for that row, up to 16 sectors. -/
def execHostReservedService (mill bank row : Nat) (s : State) : Out :=
  .next (
    let v := millAt s mill
    match oldestRun s mill with
    | none => s
    | some r =>
      if v.wheelSlot == 0 && v.revolution % 8 == 0 && v.service.isNone && memoryAwake s && bankOf r.1 == bank && rowOf r.1 == row then
        drainRings (putMill (serveRuns s (serviceRuns s r)) mill { v with service := some bank })
      else s)

/-- PATROL_SCRUB (R283, R415): every corrected ECC sector of a stack is written afresh; poisoned ones keep their poison. HBM in
self-refresh is not scrubbed. -/
def execPatrolScrub (stack : Nat) (s : State) : Out := .next (if memoryAwake s then scrubStack s stack else s)

end Sys2Proof.Machine
end

