-- ==== Sys2Proof/Machine/Cancel.lean ====
section
/-!
DEFINITION. The CANCEL word (R135).
-/
namespace Sys2Proof.Machine
open Sys2Proof.Config

/-- What CANCEL does in a crew's job, none on a Reeve (R385): its status and the state. -/
def cancelRequest (s : State) (job : Option Nat) (ids level : Word) : Nat × State :=
  let kind := bits level 2 0
  let id := levelId kind ids
  if kind = 0 ∨ 4 < kind then (3, s)
  else if (match job with | some j => j != bits ids 43 40 | none => false) then (2, s)
  else if (levelAt s kind id).state = .active && (levelAt s kind id).job == bits ids 43 40 then (0, cancelLevel s kind id)
  else (1, s)

/-- CANCEL (R135). A crew of the cancelled level issues nothing after it (R18). -/
def execCancel (o : FmtA) (s : State) : Out :=
  runWord s .s false (guardA o) (freesA o) (readsA o 2) fun s k str c =>
    match poisonedX s c (numberedA o 2) with
    | some p => .trap 0x04 p
    | none =>
      let (status, s') := cancelRequest s (if isReeve k then none else some (jobOf s c)) (readX s c 0 o.ra) (readX s c 1 o.rb)
      .done s' (pendX ((crewAt s' k).getD c) str o.rd (BitVec.ofNat 64 status) false 400)

end Sys2Proof.Machine
end

