-- ==== Sys2Proof/Machine/Carter.lean ====
section
/-!
DEFINITION. The Carter: its words (R227, R229), the copy queue (R223-R225), circular buffers (R235-R240) and the Gleaner
(R241-R245).
-/
namespace Sys2Proof.Machine
open Sys2Proof.Config

/-! ### The words (R227, Table 08.5) -/

/-- The region that a tile register defines. -/
def tileRegion (c : Crew) (t : Nat) : Region := regionOf (tdefOf c t)

/-- Whether a tile register is a buffer of the wrong direction for a command that reads or writes it (R240). -/
def wrongWay (c : Crew) (t : Nat) (reads : Bool) : Bool :=
  match mapGet c.circ t with
  | some b => b.out != reads
  | none => false

/-- Queues a Carter command once its operands and tile registers pass the checks of R227: alignment of xA, then the given
condition and tile registers that are not empty, then the direction of its buffers. -/
def carterWord (o : FmtC) (kind : EngKind) (useA useB : Bool) (align : Nat) (ok : Crew → Word → Word → Bool)
    (both : Bool) (s : State) : Out :=
  commandWord o false useA useB s fun s k c xa xb =>
    let (r, w) := tilesOf kind o.cimm
    if xa.toNat % 2 ^ 48 % align ≠ 0 then .trap 0x05 (if kind = .tld ∨ kind = .tst then xa &&& 0xFFFFFFFFFFFF else xa)
    else if (r ++ w).any (fun t => (tileRegion c t).empty) || !ok c xa xb then .trap 0x01 0xB
    else if !both && (r.any (wrongWay c · true) || w.any (wrongWay c · false)) then .trap 0x01 9
    else queueCmd s k c kind o xa xb

/-- TLD (R230). -/
def execTld (o : FmtC) (s : State) : Out := carterWord o .tld true true 64 (fun _ _ _ => true) false s
/-- TST (R230). -/
def execTst (o : FmtC) (s : State) : Out := carterWord o .tst true true 64 (fun _ _ _ => true) false s
/-- TMOV (R231). -/
def execTmov (o : FmtC) (s : State) : Out :=
  carterWord o .tmov false false 1 (fun c _ _ =>
    decide ((tileRegion c (o.cimm.extractLsb' 4 4).toNat).size ≤ (tileRegion c (o.cimm.extractLsb' 0 4).toNat).size)) false s
/-- TCOPY2D (R232). -/
def execTcopy2d (o : FmtC) (s : State) : Out :=
  carterWord o .tcopy2d true true 32 (fun _ _ xb => decide (1 ≤ xb.toNat ∧ xb.toNat ≤ 4096)) true s
/-- CLIST (R233). -/
def execClist (o : FmtC) (s : State) : Out :=
  carterWord o .clist true true 16 (fun _ _ xb => decide (1 ≤ xb.toNat ∧ xb.toNat ≤ 65536)) true s
/-- TROPE (R234). -/
def execTrope (o : FmtC) (s : State) : Out := carterWord o .trope true true 32 (fun _ _ xb => bits xb 63 32 == 0) false s

/-! ### The copy queue (R223, R224, R239) -/

/-- The buffers of the issuing crew that a command uses: register and buffer. -/
def cmdBuffers (s : State) (e : EngCmd) : List (Nat × CircBuf) :=
  match issuer s e with
  | none => []
  | some c => (e.writes ++ e.reads.filter (!e.writes.contains ·)).filterMap fun t => (mapGet c.circ t).map fun b => (t, b)

/-- Whether a buffer has a slot for the Carter: an IN buffer a free one, an OUT buffer a filled one (R239). -/
def CircBuf.ready (b : CircBuf) : Bool := if b.out then decide (0 < b.fill) else decide (0 < b.free)

/-- Changes a buffer of the crew that issued a command. -/
def modBuffer (s : State) (e : EngCmd) (t : Nat) (f : CircBuf → CircBuf) : State :=
  modCrew s e.slot fun c =>
    if c.crewId = e.crewId then
      { c with circ := match mapGet c.circ t with | some b => mapSet c.circ t (f b) | none => c.circ }
    else c

/-- Takes a slot of each buffer that a command uses: the one after those of the commands in progress (R239). -/
def takeSlots (s : State) (core : Nat) (e : EngCmd) : EngCmd × State :=
  (cmdBuffers s e).foldl (fun (q : EngCmd × State) tb =>
    let (t, b) := tb
    let ahead := ((coreAt s core).copyRun.filter fun f => f.crewId == e.crewId && f.cbSlots.any (·.1 == t)).length
    let slot := (b.ki + ahead) % b.nslot
    ({ q.1 with cbSlots := q.1.cbSlots ++ [(t, slot * b.stride)] },
     modBuffer q.2 e t fun b => if b.out then { b with fill := b.fill - 1 } else { b with free := b.free - 1 })) (e, s)

/-- Hands back the slots of a command that completes (R239). -/
def giveSlots (s : State) (e : EngCmd) : State :=
  e.cbSlots.foldl (fun s q => modBuffer s e q.1 fun b =>
    if b.out then { b with free := b.free + 1, ki := (b.ki + 1) % b.nslot }
    else { b with fill := b.fill + 1, ki := (b.ki + 1) % b.nslot }) s

/-- A command in progress goes on with its work, unless it is held, is done, or must follow one before it (R225). -/
def resumeCopy (core : Nat) (s : State) (id : Nat) : State :=
  let run := (coreAt s core).copyRun
  match run.find? (·.id == id) with
  | none => s
  | some e => if e.held || e.worked || (run.takeWhile (·.id != id)).any (mustFollow s · e) then s else workCmd core carterWork s e

/-- COPY_CMD_START (R223-R225): the command at the head of the queue starts. Whether it comes to its first access in the same
step is a free choice, since how long its translation takes is not given (log 75). -/
def execCopyCmdStart (core : Nat) (s : State) : Out :=
  .next (
    let c := coreAt s core
    match c.copyQ with
    | [] => s
    | e :: _ =>
      if c.copyRun.length ≥ 4 || cmdFrozen s e || !((cmdBuffers s e).all (·.2.ready)) then s
      else
        match consumeWait s core e with
        | (false, s) => s
        | (true, s) =>
          let (e, s) := takeSlots s core { e with consumed := true, started := true }
          let c := coreAt s core
          let later := freeBit s.free
          let s := spend (putCore s core { c with copyQ := c.copyQ.tail, copyRun := c.copyRun ++ [e] }) 1
          if later then s else resumeCopy core s e.id)

/-- COPY_CMD_COMPLETE (R223, R224): the oldest command in progress is complete, or those in progress go on with their work. -/
def execCopyCmdComplete (core : Nat) (s : State) : Out :=
  .next (match (coreAt s core).copyRun with
    | [] => s
    | e :: rest =>
      if e.worked && !e.held then finishCmd (giveSlots s e) core e
      else (e :: rest).foldl (fun s f => resumeCopy core s f.id) s)

/-! ### Circular buffers (R235-R238) -/

/-- Whether CBINIT's operands pass R235. -/
def circOk (k : Nat) (xa xb : Word) : Bool :=
  let r := regionOf (tileDefinition xa)
  let n := bits xb 8 0
  let stride := bits xb 63 32
  decide (1 ≤ n ∧ n ≤ 256) && bits xb 15 9 == 0 && bits xb 31 17 == 0 && stride % 64 == 0 && decide (r.size ≤ stride) &&
    (r.empty || (r.valid k && (r.slot (n - 1) stride).valid k))

/-- CBINIT (R235): it takes effect for words of later counts (R110). -/
def execCbinit (o : FmtA) (s : State) : Out :=
  runWord s .s false (guardA o) (freesA o) (readsA o 2) fun s k _ c =>
    if isReeve k then .trap 0x01 0xB
    else
      match poisonedX s c (numberedA o 2) with
      | some p => .trap 0x04 p
      | none =>
        let xa := readX s c 0 o.ra
        let xb := readX s c 1 o.rb
        let t := o.rd.toNat
        if !circOk k xa xb then .trap 0x01 0xA
        else if marked s k c t then .stall s
        else
          .done s { c with csrPend := c.csrPend ++ [(0x40 + t, tileDefinition xa, c.counter), (circCsr + t, xb, c.counter)] }

/-- A word on the buffer of tile register t: illegal on a Reeve and in no buffer mode; it waits until the crew holds a slot
(R237, R238). -/
def bufferWord (o : FmtA) (t : Nat) (s : State) (body : State → Stream → Crew → CircBuf → Effect) : Out :=
  runWord s .s false (guardA o) [] [] fun s k str c =>
    if isReeve k then .trap 0x01 0xB
    else
      match mapGet c.circ t with
      | none => .trap 0x01 9
      | some b => if b.holds then body s str c b else .stall s

/-- CBWAIT (R237). -/
def execCbwait (o : FmtA) (s : State) : Out :=
  bufferWord o o.ra.toNat s fun s str c b =>
    .done s (pendX c str o.rd (BitVec.ofNat 64 (if b.out then b.free else b.fill)) false 1)

/-- CBDONE (R238). -/
def execCbdone (o : FmtA) (s : State) : Out :=
  bufferWord o o.ra.toNat s fun s _ c b =>
    let b := { b with ci := (b.ci + 1) % b.nslot, releasing := b.releasing ++ [c.counter],
                      free := if b.out then b.free - 1 else b.free, fill := if b.out then b.fill else b.fill - 1 }
    .done s { c with circ := mapSet c.circ o.ra.toNat b }

/-- CB_SLOT_FREE (R238): the vector words up to the CBDONE are performed, and the slot passes to the other side. -/
def execCbSlotFree (slot tile : Nat) (s : State) : Out :=
  .next (match crewAt s slot with
    | none => s
    | some c =>
      match mapGet c.circ tile with
      | none => s
      | some b =>
        match b.releasing with
        | [] => s
        | n :: rest =>
          if c.vstores.any fun v => decide (v.issued ≤ n) then s
          else
            let b := { b with releasing := rest, free := if b.out then b.free else b.free + 1,
                              fill := if b.out then b.fill + 1 else b.fill }
            putCrew s slot { c with circ := mapSet c.circ tile b })

/-! ### The Gleaner (R241-R244) -/

/-- A Gleaner command in the crew's order, with its operand-log entry. -/
def gleanerCmd (s : State) (k : Nat) (c : Crew) (kind : EngKind) (o : FmtC) (xa xb : Word) : Effect :=
  let e := makeCmd s k c kind o xa xb c.counter
  .done (bump s) { c with glCmds := c.glCmds ++ [e], log := c.log ++ [cmdEntry s c e] }

/-- GLCFG (R242). -/
def execGlcfg (o : FmtC) (s : State) : Out :=
  commandWord o false true true s fun s k c xa xb =>
    let t := (o.cimm.extractLsb' 0 4).toNat
    if isReeve k then .trap 0x01 0xB
    else if bits xa 39 35 != 0 || bits xa 63 41 != 0 || bits xb 63 32 != 0 then .trap 0x01 0xB
    else if (tileRegion c t).empty || (tileRegion c t).lvl != 0 then .trap 0x01 0xA
    else gleanerCmd s k c .glcfg o xa xb

/-- GLGO (R243): it reserves its entries at once. -/
def execGlgo (o : FmtC) (s : State) : Out :=
  commandWord o false true false s fun s k c xa _ =>
    if isReeve k then .trap 0x01 0xB
    else
      match gleanerTile c with
      | none => .trap 0x01 8
      | some _ =>
        if xa.toNat < 1 ∨ 512 < xa.toNat then .trap 0x01 0xB
        else if 512 < c.gleaner.queue.length + xa.toNat then .stall s
        else
          let queue := c.gleaner.queue ++ List.replicate xa.toNat none
          let c := { c with gleaner := { c.gleaner with queue := queue } }
          gleanerCmd s k c .glgo o xa 0

/-- The next offset of a bitmap; fuel is the number of positions left to scan. -/
def nextSet (bit : Nat → Bool) (sz : Nat) (g : Gleaner) : Nat → BitVec 32 × Gleaner
  | 0 => (0xFFFFFFFF, g)
  | fuel + 1 =>
    if 8 * sz ≤ g.m then (0xFFFFFFFF, g)
    else if bit g.m then (g.ibase + BitVec.ofNat 32 g.m - BitVec.ofNat 32 g.mpos, { g with m := g.m + 1 })
    else nextSet bit sz { g with m := g.m + 1 } fuel

/-- The next offset of run-length entries; fuel is the number of entries left. -/
def nextRun (entry : Nat → Nat) (sz : Nat) (g : Gleaner) : Nat → BitVec 32 × Gleaner
  | 0 => (0xFFFFFFFF, g)
  | fuel + 1 =>
    if g.run ≠ 0 then (g.ibase + BitVec.ofNat 32 g.p, { g with p := g.p + 1, run := g.run - 1 })
    else if sz / 2 ≤ g.m then (0xFFFFFFFF, g)
    else
      let e := entry g.m
      nextRun entry sz { g with m := g.m + 1, p := g.p + e / 256, run := e % 256 } fuel

/-- The decoder of R243 over the metadata region. -/
def nextOffset (s : State) (slot : Nat) (g : Gleaner) : BitVec 32 × Gleaner :=
  let r := regionOf g.tdef
  if g.rle then
    nextRun (fun m => bytesValue (r.read s slot (2 * m) 2)) r.size g (r.size / 2 + 2 - g.m)
  else nextSet (fun m => (r.byte s slot (m / 8)).getLsbD (m % 8)) r.size g (8 * r.size + 1 - g.m)

/-- The configuration that a GLCFG makes of its crew's context as it takes effect: it latches the definition that its metadata
register then has, whether it is at its first issue or at a later one (R241, R242, log 81). -/
def configure (c : Crew) (e : EngCmd) : Gleaner :=
  { c.gleaner with
           configured := true, tile := (e.cimm.extractLsb' 0 4).toNat, tdef := tdefOf c (e.cimm.extractLsb' 0 4).toNat,
           ibase := e.xa.truncate 32, rate := bits e.xa 34 32 + 1, rle := e.xa.getLsbD 40, mpos := bits e.xb 31 0,
           m := bits e.xb 31 0, p := 0, run := 0 }

/-- Replaces the first unfilled entry of an offset queue. -/
def fillFirst (v : BitVec 32) : List (Option (BitVec 32)) → List (Option (BitVec 32))
  | [] => []
  | none :: q => some v :: q
  | e :: q => e :: fillFirst v q

/-- Entries of a queue that later GLGOs than the first command have reserved. -/
def laterReserved (l : List EngCmd) : Nat := ((l.tail.filter fun e => e.kind == .glgo).map (·.xa.toNat)).foldl (· + ·) 0

/-- GLEANER_FILL (R241-R244): the crew's oldest Gleaner command takes effect, or fills its next entry; with its last entry a
GLGO is complete. -/
def execGleanerFill (slot : Nat) (s : State) : Out :=
  .next (match crewAt s slot with
    | none => s
    | some c =>
      match c.glCmds with
      | [] => s
      | e :: rest =>
        if (!e.started && cmdFrozen s e) || behindVectors s e then s
        else
          match consumeWait s (coreOf slot) e with
          | (false, s) => s
          | (true, s) =>
            let e := { e with consumed := true, started := true }
            match e.kind with
            | .glcfg => finishCmd (modCrew s slot fun c => { c with gleaner := configure c e }) (coreOf slot) e
            | _ =>
              let (v, g) := nextOffset s slot c.gleaner
              let queue := fillFirst v c.gleaner.queue
              let c := { c with gleaner := { g with queue := queue }, glCmds := e :: rest }
              let left := (queue.filter Option.isNone).length
              if left ≤ laterReserved (e :: rest) then finishCmd (putCrew s slot c) (coreOf slot) e
              else putCrew s slot c)

end Sys2Proof.Machine
end

