-- ==== Sys2Proof/Machine/Issue.lean ====
section
/-!
DEFINITION. The schedule counter of a crew and its lockstep group (R108, R109, R112): the stalls that no due word causes
(Table 05.2), and the count that passes, with the writes, CSR values and flags that take effect in it (R115, R162, R406) and
the traps that are due at the next count (R113, R395).
-/
namespace Sys2Proof.Machine
open Sys2Proof.Config

/-- Whether an entry of the operand log stalls its crew: its translation is out (R75), it is a remote access that has not
returned (R81), or the count of its bound has come, which for one issued again is that of its first issue (R117, R391, log 54). -/
def entryStalls (c : Crew) (e : LogEntry) : Bool :=
  match e.kind with
  | .cmd => false
  | .waitc | .msemwait => !e.faulted && (e.phase == .translating || displaced c e)
  | k =>
    let fence := match k with | .fence _ _ => true | _ => false
    let away := match e.target with | some t => t.tier != 0 | none => false
    !e.faulted && (e.phase == .translating || (away && !fence)) || decide (e.cnt + 400 ≤ c.counter)

/-- Whether a crew's docket waits for the backing store (R132). -/
def docketStall (s : State) (k : Nat) : Bool :=
  s.dispatcher.waiting.any fun w => match w with | .spawn j _ => j == k | _ => false

/-- Whether a crew is in a stall that none of its due words causes (Table 05.2). -/
def crewStalled (s : State) (k : Nat) : Bool :=
  match crewAt s k with
  | none => false
  | some c => s.pkg.hold || c.log.any (entryStalls c) || docketStall s k

/-- The members of the lockstep group of the crew on a bench; none for an empty bench. -/
def membersOf (s : State) (k : Nat) : List Nat :=
  match crewAt s k with
  | none => []
  | some c => groupOf s k c

/-- A test of the crew on a bench. -/
def crewIs (s : State) (k : Nat) (f : Crew → Bool) : Bool :=
  match crewAt s k with
  | some c => f c
  | none => false

/-- Whether the streams of a group may issue in this clk: no member is TRAPPED or HELD, and none stalls (R112, R387). -/
def groupMay (s : State) (k : Nat) : Bool :=
  (crewAt s k).isSome && !groupFrozen s k && !((membersOf s k).any (crewStalled s))

/-- The words of a group that are due at the present count, or still to be fetched: members ascending, the S-stream first. -/
def dueWords (s : State) (k : Nat) : List (Nat × Stream) :=
  (membersOf s k).flatMap fun m =>
    ([.s, .v] : List Stream).filterMap fun str =>
      if crewIs s m fun c => fetchNeeded c str || isDue c str then some (m, str) else none

/-- The circular buffer that CBINIT's xB describes (R235). -/
def newCirc (v : Word) : CircBuf :=
  { out := v.getLsbD 16, nslot := bits v 8 0, stride := bits v 63 32, free := bits v 8 0, fill := 0, ci := 0, ki := 0,
    releasing := [] }

/-- A CSR's value takes effect (R406); a new tile register ends its buffer mode (R217). -/
def storeCsr (c : Crew) (n : Nat) (v : Word) : Crew :=
  if 0x40 ≤ n ∧ n < 0x50 then
    { c with tdef := c.tdef.setIfInBounds (n - 0x40) v, circ := mapErase c.circ (n - 0x40) }
  else if circCsr ≤ n ∧ n < circCsr + 16 then { c with circ := mapSet c.circ (n - circCsr) (newCirc v) }
  else
    match n with
    | 0x002 => { c with frm := v &&& 7 }
    | 0x003 => { c with srseed := v }
    | 0x004 => { c with srstrm := v &&& 0xFFFFFFFF }
    | 0x005 => { c with srctr := v }
    | 0x011 => { c with strict := v &&& 1 }
    | _ => c

/-- The flags of words that have landed before the crew's count (R162). -/
def landFlags (c : Crew) : Crew :=
  let (done, left) := c.pendF.partition fun p => decide (p.2.1 < c.counter)
  { c with fflags := done.foldl (fun w p => w ||| p.2.2.zeroExtend 64) c.fflags, pendF := left }

/-- The crew at its next count: writes land, CSR values written at earlier counts hold, and flags are gathered. -/
def nextCount (n : Nat) (c : Crew) : Crew :=
  let c := { c with counter := c.counter + 1 }
  let c := landDue n c
  let (now, later) := c.csrPend.partition fun p => decide (p.2.2 < c.counter)
  landFlags (now.foldl (fun c p => storeCsr c p.1 p.2.1) { c with csrPend := later })

/-- The RVZ of an orphan traps as its word, which is due again at the count that stands (R113). -/
def orphanTrap (s : State) (k : Nat) (c : Crew) (str : Stream) : State :=
  match (c.stream str).rvz with
  | none => s
  | some (_, pc, _) => takeTrap (putCrew s k (dueAgain c str)) k (some str) 0x01 0 pc 5 0xFFFF

/-- The traps due at a count before any word of it: STEP (R395), and the RVZ of an orphan. -/
def countTrap (s : State) (k : Nat) : State :=
  match crewAt s k with
  | none => s
  | some c =>
    if c.stepAt == some c.counter then
      takeTrap (putCrew s k { c with stepAt := none, step := false }) k none 0x51 0 c.s.pc 0 0xFFFF
    else
      match orphan c with
      | some str => orphanTrap s k c str
      | none => s

/-- The vector stores of a crew whose count has come are performed, in order (R216, Table 07.5); fuel is their number. -/
def performDue (s : State) (k : Nat) : Nat → State
  | 0 => s
  | fuel + 1 =>
    match crewAt s k with
    | none => s
    | some c =>
      match c.vstores.find? fun v => decide (v.due ≤ c.counter) && vstoreAllows c v with
      | none => s
      | some v => performDue (performStored s k c v) k fuel

/-- The vector stores of the crew on a bench that are due by its count are performed. -/
def performAllDue (s : State) (k : Nat) : State :=
  match crewAt s k with
  | none => s
  | some c => performDue s k c.vstores.length

/-- A count passes for a group: every member's counter rises together (R24, R109). -/
def passCount (s : State) (k : Nat) : State :=
  let ms := membersOf s k
  let s' := ms.foldl (fun t m => modCrew t m (nextCount s.free)) s
  ms.foldl countTrap (ms.foldl performAllDue (spend s' 1))

/-- IDLE_COUNT (R109): the counter passes a count at which nothing more is due. -/
def execIdleCount (slot : Nat) (s : State) : Out :=
  .next (if groupMay s slot && (dueWords s slot).isEmpty then passCount s slot else s)

end Sys2Proof.Machine
end

