-- ==== Sys2Proof/Machine/Router.lean ====
section
/-!
DEFINITION. The on-die router: flits and their CRC (R352, R353), the link ends with sequence numbers, replay and credits (R354,
R355, R357), slot tables and demotion (R358-R360), ejection (R361), branches (R362), the combining table's windows and the
splitting of combined replies (R373, R374).
-/
namespace Sys2Proof.Machine
open Sys2Proof.Config

/-! ### Flits (Table 13.1) -/

/-- Doubleword i of a flit. -/
def flitWord (f : Flit) (i : Nat) : Word := f.extractLsb' (64 * i) 64
/-- Segment k of a flit. -/
def flitSegment (f : Flit) (k : Nat) : BitVec 512 := f.extractLsb' (512 * k) 512
def flitBank (f : Flit) : Bool := (flitWord f 0).getLsbD 53
def flitSch (f : Flit) : Bool := (flitWord f 0).getLsbD 52
def flitCls (f : Flit) : Bool := (flitWord f 0).getLsbD 51
def flitNak (f : Flit) : Bool := (flitWord f 0).getLsbD 50
def flitSlot (f : Flit) : Nat := bits (flitWord f 0) 49 42
def flitAck (f : Flit) : Nat := bits (flitWord f 0) 41 30
def flitSeq (f : Flit) : Nat := bits (flitWord f 0) 29 18
def flitKind (f : Flit) : Nat := bits (flitWord f 0) 17 0
def flitCrs (f : Flit) : Nat := bits (flitWord f 1) 15 8
def flitCrq (f : Flit) : Nat := bits (flitWord f 1) 7 0
def flitCrc (f : Flit) : Nat := bits (flitWord f 7) 63 32

/-- Eight steps of the CRC register (IEEE 802.3, reflected, log 28). -/
def crcSteps : Nat → Nat → Nat
  | 0, c => c
  | n + 1, c => crcSteps n (if c % 2 = 1 then (c / 2) ^^^ 0xEDB88320 else c / 2)
/-- The CRC register after some bytes. -/
def crcBytes : List Byte → Nat → Nat
  | [], c => c
  | b :: bs, c => crcBytes bs (crcSteps 8 (c ^^^ b.toNat))
/-- CRC-32 of bytes. -/
def crc32 (bs : List Byte) : Nat := crcBytes bs 0xFFFFFFFF ^^^ 0xFFFFFFFF

/-- The CRC that a flit should carry: over bytes 0x000 to 0x03B and 0x040 to 0x27F (Table 13.1). -/
def crcOf (f : Flit) : Nat :=
  let bs := valueBytes 640 f.toNat
  crc32 (bs.take 0x3C ++ bs.drop 0x40)

/-- A flit of its header's doublewords and its segments. -/
def makeFlit (w0 w1 : Word) (segs : List (BitVec 512)) : Flit :=
  let body := segs.zipIdx.foldl (fun a q => a + q.1.toNat * 2 ^ (512 * (q.2 + 1))) (w0.toNat + w1.toNat * 2 ^ 64)
  BitVec.ofNat 5120 (body + crcOf (BitVec.ofNat 5120 body) * 2 ^ 480)

/-- The segments of a message: its own, then its data; and their kinds (R353). -/
def msgSegments (m : Msg) : List (BitVec 512 × Nat) :=
  (m.seg, if m.response then 2 else 1) ::
    (List.range (m.data.length / 64)).map fun i => (BitVec.ofNat 512 (bytesValue ((m.data.drop (64 * i)).take 64)), 3)

/-- A message without the reserved bits of its segment and of its manifest, which are ignored on receipt (R352, Table 13.2). -/
def Msg.clean (m : Msg) : Msg :=
  let w0 := withBits (withBits (m.word 0) 63 51 0) 23 22 0
  let seg := segment [w0, withBits (m.word 1) 61 41 0, withBits (m.word 2) 63 48 0, withBits (m.word 3) 37 32 0, m.word 4,
                      m.word 5, m.word 6, m.word 7]
  let entry (j : Nat) : List Byte :=
    wordBytes (withBits (bytesWord ((m.data.drop (16 * j)).take 8)) 63 37 0) ++ (m.data.drop (16 * j + 8)).take 8
  { m with seg := seg
           data := if m.cmb && decide (128 ≤ m.data.length) then (List.range 8).flatMap entry ++ m.data.drop 128 else m.data }

/-- The messages of a flit's segments from segment k on (R353); fuel bounds them. -/
def parseFrom (f : Flit) (input : Nat) : Nat → Nat → List Msg
  | 0, _ => []
  | fuel + 1, k =>
    let kind := flitKind f / 4 ^ (k - 1) % 4
    if 9 < k then []
    else if kind = 1 ∨ kind = 2 then
      let m : Msg := { response := decide (kind = 2), seg := flitSegment f k, data := [], input := input }
      let n := min m.ndata (9 - k)
      let data := (List.range n).flatMap fun i => valueBytes 64 (flitSegment f (k + 1 + i)).toNat
      { m with data := data }.clean :: parseFrom f input fuel (k + 1 + n)
    else parseFrom f input fuel (k + 1)

/-! ### Link ends (R354, R355, R357) -/

/-- A fabric port. -/
def portAt (s : State) (p : Nat) : LinkPort := mapGetD s.fabric.ports p .reset
/-- Replaces a port. -/
def putPort (s : State) (p : Nat) (l : LinkPort) : State :=
  { s with fabric := { s.fabric with ports := mapSet s.fabric.ports p l } }
/-- Whether a port's link carries flits. -/
def LinkPort.up (l : LinkPort) : Bool := !l.retraining && !l.down

/-- Whether a port may send a new flit in this slot: nothing is to be sent again, fewer than 256 flits are unacknowledged, and
an unscheduled flit has a credit of its class. -/
def LinkPort.maySend (l : LinkPort) (sch cls : Bool) : Bool :=
  l.up && l.wire.isNone && l.resend.isNone && decide (l.replay.length < 256) &&
    (sch || decide (0 < (if cls then l.creditS else l.creditQ)))

/-- The header of a flit that a port sends. -/
def headerOf (s : State) (l : LinkPort) (sch cls : Bool) (seq kind : Nat) : Word × Word :=
  (BitVec.ofNat 64 ((if s.fabric.act then 2 ^ 53 else 0) + (if sch then 2 ^ 52 else 0) + (if cls then 2 ^ 51 else 0) +
      (if l.nakDue then 2 ^ 50 else 0) + (if sch then s.fabric.slot % 256 else 0) * 2 ^ 42 + l.acked * 2 ^ 30 +
      seq * 2 ^ 18 + kind),
   BitVec.ofNat 64 (min 255 l.freedS * 256 + min 255 l.freedQ))

/-- A port after it has sent its acknowledgement and credits. -/
def LinkPort.reported (l : LinkPort) : LinkPort :=
  { l with nakDue := false, freedQ := l.freedQ - min 255 l.freedQ, freedS := l.freedS - min 255 l.freedS }

/-- Sends a new flit with messages on a port. -/
def sendFlit (s : State) (p : Nat) (sch cls : Bool) (msgs : List Msg) : State :=
  let l := portAt s p
  let segs := (msgs.flatMap msgSegments).take 9
  let kind := segs.zipIdx.foldl (fun a q => a + q.1.2 * 4 ^ q.2) 0
  let (w0, w1) := headerOf s l sch cls l.nextSeq kind
  let f := makeFlit w0 w1 (segs.map (·.1))
  putPort s p
    { l.reported with
      wire := some f, replay := l.replay ++ [f], nextSeq := (l.nextSeq + 1) % 4096
      creditQ := if sch || cls then l.creditQ else l.creditQ - 1
      creditS := if !sch && cls then l.creditS - 1 else l.creditS }

/-- Sends an idle flit (R353): it repeats the last sequence number. -/
def sendIdle (s : State) (p : Nat) : State :=
  let l := portAt s p
  let (w0, w1) := headerOf s l false false ((l.nextSeq + 4095) % 4096) 0
  putPort s p { l.reported with wire := some (makeFlit w0 w1 []) }

/-- Sends the next flit that must be sent again, unchanged (R354). -/
def sendAgain (l : LinkPort) : LinkPort :=
  match l.resend with
  | none => l
  | some i =>
    match l.replay[i]? with
    | none => { l with resend := none }
    | some f => { l with wire := some f, resend := if i + 1 < l.replay.length then some (i + 1) else none }

/-- The flits that an acknowledgement leaves in the replay buffer. -/
def unacked (ack : Nat) (l : List Flit) : List Flit := l.filter fun f => (flitSeq f + 4096 - ack - 1) % 4096 < 2048

/-- What a port takes from the header of a flit: the acknowledgement, the request for a replay, and the credits. -/
def takeHeader (l : LinkPort) (f : Flit) : LinkPort :=
  let replay := unacked (flitAck f) l.replay
  { l with replay := replay
           resend := if flitNak f then (if replay.isEmpty then none else some 0)
             else l.resend.bind fun i =>
               let j := i - (l.replay.length - replay.length)
               if j < replay.length then some j else none
           creditQ := l.creditQ + flitCrq f, creditS := l.creditS + flitCrs f }

/-! ### What arrives (R354, R359-R361) -/

/-- A combined reply that arrives for its router is split by the router's record, and by the echo where there is none or the two
differ (R374): so by what the echo says. -/
def splitReply (m : Msg) : List Msg :=
  let manifest := (List.range (m.cnt + 1)).map fun j =>
    (bytesValue ((m.data.drop (16 * j)).take 8) % 2 ^ 37, bytesWord ((m.data.drop (16 * j + 8)).take 8))
  let w := if m.ty = 1 then 32 else 64
  let step (q : List Msg × Nat) (e : Nat × Word) : List Msg × Nat :=
    let r : Msg :=
      { response := true, data := [], input := m.input
        seg := segment [headWord (e.1 % 2 ^ 19) m.stat 0 m.ty 0 0x83 false false,
                        BitVec.ofNat 64 (m.job * 2 ^ 37 + e.1), m.word 2, BitVec.ofNat 64 m.len, BitVec.ofNat 64 q.2, 0, 0, 0] }
    (q.1 ++ [r], (q.2 + e.2.toNat) % 2 ^ w)
  (manifest.foldl step ([], m.opnd.toNat % 2 ^ w)).1

/-- Delivers a message to this package (R361, R374): a second copy of a circuit's request is discarded. -/
def eject (s : State) (m : Msg) : State :=
  let f := s.fabric
  if m.response then
    if m.rt then
      let s := { s with fabric := { f with combining := f.combining.filter fun e => e.waiting || e.tag % 4096 != m.tag } }
      (splitReply m).foldl injectPlain s
    else { s with fabric := { f with responses := f.responses ++ [m] } }
  else
    let mark := (m.node, m.circ, m.cseq)
    if m.circ ≠ 0 && f.seen.contains mark then s
    else
      let near (q : Nat × Nat × Nat) : Bool :=
        !(q.1 == m.node && q.2.1 == m.circ) || decide ((m.cseq + 2 ^ 20 - q.2.2) % 2 ^ 20 < 4096) ||
          decide ((q.2.2 + 2 ^ 20 - m.cseq) % 2 ^ 20 < 4096)
      { s with fabric := { f with inbox := f.inbox ++ [m],
                                  seen := if m.circ ≠ 0 then f.seen.filter near ++ [mark] else f.seen } }

/-! ### Input entries and credits (R357) -/

/-- The entries, taken against a credit, that flits of a queue stand in. -/
def entriesOf (l : List RFlit) : List Nat := ((l.filter (·.credit)).map (·.entry)).eraseDups

/-- Entries of one queue that are gone from another. -/
def entriesLeft (old new : List RFlit) : Nat := ((entriesOf old).filter (!(entriesOf new).contains ·)).length

/-- A port whose input queues have changed: the credit of an entry goes back when no message of its flit is left (R357). -/
def LinkPort.credited (old new : LinkPort) : LinkPort :=
  { new with freedQ := new.freedQ + entriesLeft old.inQ new.inQ, freedS := new.freedS + entriesLeft old.inS new.inS }

/-- Changes the input queues of a port. -/
def modInputs (s : State) (p : Nat) (f : LinkPort → LinkPort) : State := putPort s p ((portAt s p).credited (f (portAt s p)))

/-- Takes an unscheduled message into an input's queue of its class, or into the combining table (R357, R373); one without a
route is lost. -/
def enterInput (s : State) (p : Nat) (m : Msg) (entry : Option Nat) : State :=
  match combine s m with
  | some s => s
  | none =>
    let fl := plainFlit s m entry
    if fl.outs.isEmpty then s
    else
      let l := portAt s p
      putPort s p (if m.response then { l with inS := l.inS ++ [fl] } else { l with inQ := l.inQ ++ [fl] })

/-- Takes the messages of an unscheduled flit of a class into one input entry, which is free again at once where none of them
stays in it. -/
def enterAll (s : State) (p : Nat) (cls credit : Bool) (msgs : List Msg) : State :=
  let n := s.stamp
  let s := msgs.foldl (fun s m => enterInput s p m (if credit then some n else none)) (bump s)
  let l := portAt s p
  if !credit || (l.inQ ++ l.inS).any (fun f => f.credit && f.entry == n) then s
  else putPort s p (if cls then { l with freedS := l.freedS + 1 } else { l with freedQ := l.freedQ + 1 })

/-- Takes an accepted flit: a scheduled one of the active bank enters the scheduled buffer while that has room, and is demoted
otherwise (R359, R360). -/
def acceptFlit (s : State) (p : Nat) (f : Flit) : State :=
  let msgs := parseFrom f p 9 1
  let l := portAt s p
  if flitSch f && flitBank f == s.fabric.act && decide (l.schedQ.length < 4) then
    let fl : RFlit := { sch := true, bank := flitBank f, slot := flitSlot f, circ := 0, cls := flitCls f, msgs := msgs, outs := [],
                        waited := 0, credit := false }
    putPort s p { l with schedQ := l.schedQ ++ [fl] }
  else enterAll s p (flitCls f) (!flitSch f) msgs

/-- FLIT_RECEIVE (R354). -/
def execFlitReceive (port : Nat) (flit : Flit) (s : State) : Out :=
  .next (
    let l := portAt s port
    let next := (l.acked + 1) % 4096
    if 12 ≤ port || !l.up then s
    else if flitCrc flit != crcOf flit then putPort s port { l with nakDue := true }
    else if flitKind flit = 0 then
      putPort s port { takeHeader l flit with nakDue := l.nakDue || flitSeq flit == next }
    else if flitSeq flit = next then
      acceptFlit (putPort s port { takeHeader l flit with acked := next }) port flit
    else if (l.acked + 4096 - flitSeq flit) % 4096 < 2048 then s
    else putPort s port { l with nakDue := true })

/-! ### A slot (R357-R359, R362) -/

/-- A multicast write with some of its destinations: CNT and DSTS rewritten (R362). -/
def Msg.narrowed (m : Msg) (ds : List Nat) : Msg :=
  let d := destBits ds
  { m with seg := segment [withBits (m.word 0) 19 16 (ds.length - 1), m.word 1, m.word 2, m.word 3, m.word 4, BitVec.ofNat 64 d,
                           BitVec.ofNat 64 (d / 2 ^ 64), BitVec.ofNat 64 (d / 2 ^ 128)] }

/-- The branch among some outputs that carries a destination: that of its route, or the first (log 49). -/
def branchFor (s : State) (outs : List Nat) (d : Nat) : Option Nat :=
  match outputFor s d with
  | some o => if outs.contains o then some o else outs.head?
  | none => outs.head?

/-- The messages that a branch of a flit, one of several, carries to an output: an MWRITE only the destinations that route
through it (R362). -/
def branchOf (s : State) (outs : List Nat) (o : Nat) (m : Msg) : Option Msg :=
  if m.multicast then
    let ds := ((List.range (m.cnt + 1)).map m.dest).filter fun d => branchFor s outs d == some o
    if ds.isEmpty then none else some (m.narrowed ds)
  else some m

/-- The messages that a flit carries to an output. -/
def flitMessages (s : State) (o : Nat) (fl : RFlit) : List Msg :=
  if fl.feeds.length ≤ 1 then fl.msgs else fl.msgs.filterMap (branchOf s fl.feeds o)

/-- Sends messages on an output, or ejects them; none where the output is blocked. -/
def sendMsgs (s : State) (o : Nat) (sch cls : Bool) (msgs : List Msg) : Option State :=
  if o = 12 then some (msgs.foldl eject s)
  else if (portAt s o).maySend sch cls then some (sendFlit s o sch cls msgs)
  else none

/-- Sends a flit's branch on an output; none where the output is blocked. -/
def sendOut (s : State) (o : Nat) (fl : RFlit) : Option State :=
  let msgs := flitMessages s o fl
  if msgs.isEmpty && !fl.msgs.isEmpty then some s else sendMsgs s o fl.sch fl.cls msgs

/-! ### Replica buffers (R362) -/

/-- Whether the branch of a flit to an output stands in that output's replica buffer. -/
def replicated (s : State) (o : Nat) (f : RFlit) : Bool := f.tag != 0 && (portAt s o).replicas.any (·.tag == f.tag)

/-- Whether a flit at an input has a branch to an output that has not been sent and stands in no replica buffer. -/
def hasBranch (s : State) (o : Nat) (f : RFlit) : Bool := f.outs.contains o && !replicated s o f

/-- A blocked branch of a flit takes a place in its output's replica buffer, which holds 64. -/
def takeReplica (s : State) (f : RFlit) (o : Nat) : State :=
  let l := portAt s o
  if o = 12 ∨ replicated s o f ∨ 64 ≤ l.replicas.length then s
  else putPort s o { l with replicas := l.replicas ++ [{ f with msgs := flitMessages s o f, outs := [o], feeds := [] }] }

/-- The flits of a queue with names for those of several branches that have some left to send. -/
def nameFlits (n : Nat) (l : List RFlit) : List RFlit :=
  l.zipIdx.map fun q => if 2 ≤ q.1.feeds.length ∧ q.1.outs ≠ [] ∧ q.1.tag = 0 then { q.1 with tag := n + q.2 } else q.1

/-- Names the flits of every input. -/
def nameAll (s : State) : State :=
  let name (s : State) (p : Nat) : State :=
    let l := portAt s p
    let n := s.stamp + 1
    { putPort s p { l with inQ := nameFlits n l.inQ, inS := nameFlits (n + l.inQ.length) l.inS,
                           schedQ := nameFlits (n + l.inQ.length + l.inS.length) l.schedQ } with
      stamp := n + l.inQ.length + l.inS.length + l.schedQ.length }
  let s := (List.range 12).foldl name s
  { s with fabric := { s.fabric with inject := nameFlits (s.stamp + 1) s.fabric.inject }
           stamp := s.stamp + 1 + s.fabric.inject.length }

/-- The flits that stand at the inputs. -/
def atInputs (s : State) : List RFlit :=
  ((List.range 12).flatMap fun p => (portAt s p).inQ ++ (portAt s p).inS ++ (portAt s p).schedQ) ++ s.fabric.inject

/-- At the end of a slot the blocked branches take replicas, as far as there is room. -/
def takeReplicas (s : State) : State :=
  let s := nameAll s
  ((atInputs s).filter fun f => f.tag != 0).foldl (fun s f => f.outs.foldl (fun s o => takeReplica s f o) s) s

/-- The flits of a queue once the branch of one to an output has been sent: it leaves with its last. -/
def branchSent (tag o : Nat) (l : List RFlit) : List RFlit :=
  l.filterMap fun f =>
    if f.tag = tag then (let outs := f.outs.filter (· != o); if outs.isEmpty then none else some { f with outs := outs }) else some f

/-- Sends the oldest replica of an output; none where there is none, or it is blocked. -/
def serveReplica (s : State) (o : Nat) : Option State :=
  match (portAt s o).replicas with
  | [] => none
  | r :: rest =>
    match sendMsgs s o r.sch r.cls r.msgs with
    | none => none
    | some t =>
      let t := putPort t o { portAt t o with replicas := rest }
      let sent := branchSent r.tag o
      let t := (List.range 12).foldl (fun t p =>
        modInputs t p fun l => { l with inQ := sent l.inQ, inS := sent l.inS, schedQ := sent l.schedQ }) t
      some { t with fabric := { t.fabric with inject := sent t.fabric.inject } }

/-! ### The slot tables (R358, R359) -/

/-- The slot-table entry in force. -/
def slotEntry (s : State) : Word := (if s.fabric.act then s.fabric.bankB else s.fabric.bankA).getD (s.fabric.slot % 256) 0x000FFFFFFFFFFFFF
/-- The input that an entry gives an output. -/
def slotInput (e : Word) (o : Nat) : Nat := bits e (4 * o + 3) (4 * o)

/-- The scheduled flits of an input; those of the local input that may leave in this slot are of the circuit named. -/
def scheduledAt (s : State) (e : Word) (i : Nat) : List RFlit :=
  if i = 12 then s.fabric.inject.filter fun f => f.sch && f.circ == bits e 63 58 else (portAt s i).schedQ

/-- Replaces the first scheduled flit of an input that has started no branch; none removes it. -/
def putScheduled (s : State) (e : Word) (i : Nat) (f : Option RFlit) : State :=
  let rec go (p : RFlit → Bool) : List RFlit → List RFlit
    | [] => []
    | a :: l => if p a then (match f with | some b => b :: l | none => l) else a :: go p l
  if i = 12 then
    { s with fabric := { s.fabric with
        inject := go (fun f => f.sch && f.circ == bits e 63 58 && f.outs.isEmpty) s.fabric.inject } }
  else
    let l := portAt s i
    putPort s i { l with schedQ := go (fun f => f.outs.isEmpty) l.schedQ }

/-- One input's oldest scheduled flit in a slot: it leaves on every output that the entry feeds from the input. Of several
branches a blocked one stays, to be sent when it can (R362); a flit for one output stays the oldest (R359). -/
def scheduledSlot (s : State) (e : Word) (i : Nat) : State :=
  let outs := (List.range 13).filter fun o => slotInput e o == i
  match (scheduledAt s e i).find? (·.outs.isEmpty), outs with
  | none, _ | _, [] => s
  | some f, outs =>
    let f := { f with feeds := outs }
    let (s, left) := outs.foldl (fun (q : State × List Nat) o =>
      match sendOut q.1 o f with
      | some t => (t, q.2)
      | none => (q.1, q.2 ++ [o])) (s, [])
    putScheduled s e i
      (if left.isEmpty then none else if outs.length = 1 then some { f with feeds := [] } else some { f with outs := left })

/-- Takes an output from the first flit of some kind of a queue that still has it, which leaves when it was the last. -/
def serveFirst (o : Nat) (p : RFlit → Bool) : List RFlit → List RFlit
  | [] => []
  | f :: l =>
    if p f then
      let outs := f.outs.filter (· != o)
      if outs.isEmpty then l else { f with outs := outs } :: l
    else f :: serveFirst o p l

/-- Sends the first flit of some kind of a queue that has a branch to an output: what becomes of the queue, and the state. -/
def serveQueue (s : State) (o : Nat) (p : RFlit → Bool) (q : List RFlit) : Option (List RFlit × State) :=
  let p (f : RFlit) : Bool := p f && hasBranch s o f
  match q.find? p with
  | none => none
  | some f => (sendOut s o f).map fun t => (serveFirst o p q, t)

/-- Serves an output from the local input's flits of some kind. -/
def serveLocal (s : State) (o : Nat) (p : RFlit → Bool) : Option State :=
  (serveQueue s o p s.fabric.inject).map fun q =>
    let added := q.2.fabric.inject.drop s.fabric.inject.length
    { q.2 with fabric := { q.2.fabric with inject := q.1 ++ added } }

/-- Serves an output from one input: branches of scheduled flits that found no room, then responses, then requests, so that no
request holds back a response (R357). -/
def serveInput (s : State) (o i : Nat) : Option State :=
  if i = 12 then
    (serveLocal s o (·.sch)).or ((serveLocal s o fun f => !f.sch && f.cls).or (serveLocal s o fun f => !f.sch && !f.cls))
  else
    let l := portAt s i
    match serveQueue s o (fun _ => true) l.schedQ with
    | some (q, t) => some (modInputs t i fun l => { l with schedQ := q })
    | none =>
      match serveQueue s o (fun _ => true) l.inS with
      | some (q, t) => some (modInputs t i fun l => { l with inS := q })
      | none => (serveQueue s o (fun _ => true) l.inQ).map fun q => modInputs q.2 i fun l => { l with inQ := q.1 }

/-- Serves an output round-robin across the inputs from one on; fuel is the number of inputs left (R357). -/
def serveRound (s : State) (o i : Nat) : Nat → State
  | 0 => s
  | fuel + 1 =>
    match serveInput s o (i % 13) with
    | some t => { t with fabric := { t.fabric with rr := mapSet t.fabric.rr o ((i + 1) % 13) } }
    | none => serveRound s o (i + 1) fuel

/-- An output that no scheduled flit has used carries its oldest replica, or unscheduled traffic. -/
def unscheduledSlot (s : State) (used : List Nat) (o : Nat) : State :=
  if used.contains o then s
  else (serveReplica s o).getD (serveRound s o (mapGetD s.fabric.rr o 0) 13)

/-- Local flits of circuits that have waited a whole frame are demoted (R359). -/
def ageLocal (s : State) : State :=
  { s with fabric := { s.fabric with
      inject := s.fabric.inject.map fun f =>
        if f.sch && f.outs.isEmpty then
          if 255 ≤ f.waited then
            match f.msgs with
            | m :: _ => plainFlit s m none
            | [] => f
          else { f with waited := f.waited + 1 }
        else f } }

/-- The outputs on which a scheduled flit leaves in a slot: those whose input has one. -/
def scheduledOutputs (s : State) (e : Word) : List Nat :=
  (List.range 13).filter fun o =>
    decide (slotInput e o ≤ 12) && (scheduledAt s e (slotInput e o)).any (·.outs.isEmpty)

/-- SLOT_TICK (R357-R359, R362): the router applies the entry of its slot; a port with nothing to send carries an idle flit. -/
def execSlotTick (s : State) : Out :=
  .next (if 256 ≤ s.fabric.slot then s
    else
      let s := (List.range 12).foldl (fun s p => putPort s p (let l := { portAt s p with wire := none }; if l.up then sendAgain l else l)) s
      let e := slotEntry s
      let used := scheduledOutputs s e
      let s := (List.range 13).foldl (fun s i => scheduledSlot s e i) s
      let s := (List.range 13).foldl (fun s o => unscheduledSlot s used o) s
      let s := takeReplicas (ageLocal s)
      let s := (List.range 12).foldl (fun s p =>
        let l := portAt s p
        if l.up && l.wire.isNone then sendIdle s p else s) s
      { s with fabric := { s.fabric with slot := s.fabric.slot + 1 } })

/-! ### Combining windows (R373, R374) -/

/-- COMBINE_WINDOW_EXPIRE (R373): an open entry whose window ends is forwarded. -/
def execCombineWindowExpire (k : Nat) (s : State) : Out := .next (forwardEntry s k)

/-- ROUTER_ERROR_RECOVERY (R374): the combining table is cleared; requests still held in it go on uncombined, and the replies of
those already forwarded are split by their echo. -/
def execRouterErrorRecovery (s : State) : Out :=
  .next (
    let held := (s.fabric.combining.filter (·.waiting)).flatMap (·.msgs)
    held.foldl injectPlain { s with fabric := { s.fabric with combining := [] } })

end Sys2Proof.Machine
end

