-- ==== Sys2Proof/Machine/Porter.lean ====
section
/-!
DEFINITION. The Porter (R363-R372): its words, the requests that each command sends, its start and completion, the responses
and their statuses, and the requests that this package serves for others (R370).
-/
namespace Sys2Proof.Machine
open Sys2Proof.Config

/-! ### The words (R364) -/

/-- A Porter word that names remote bytes at xA of package xB: both are checked, and a tile register that it names must not be
empty. -/
def remoteWord (o : FmtC) (kind : EngKind) (align : Nat) (tile : Bool) (s : State) : Out :=
  commandWord o false true true s fun s k c xa xb =>
    if xa.toNat % align ≠ 0 then .trap 0x05 xa
    else if bits xa 63 48 != 0 || decide (2 ^ 19 ≤ xb.toNat) ||
        (tile && (regionOf (tdefOf c (o.cimm.extractLsb' 0 4).toNat)).empty) then .trap 0x01 0xB
    else queueCmd s k c kind o xa xb

/-- A Porter word that follows records at xA. -/
def recordsWord (o : FmtC) (kind : EngKind) (limit : Nat) (s : State) : Out :=
  commandWord o false true true s fun s k c xa xb =>
    if xa.toNat % 32 ≠ 0 then .trap 0x05 xa
    else if decide (xb.toNat < 1) || decide (limit < xb.toNat) then .trap 0x01 0xB
    else queueCmd s k c kind o xa xb

/-- FLD (R365). -/
def execFld (o : FmtC) (s : State) : Out := remoteWord o .fld 64 true s
/-- FST (R365). -/
def execFst (o : FmtC) (s : State) : Out := remoteWord o .fst 64 true s
/-- FGET (R366). -/
def execFget (o : FmtC) (s : State) : Out := recordsWord o .fget 4096 s
/-- FPUT (R366). -/
def execFput (o : FmtC) (s : State) : Out := recordsWord o .fput 4096 s
/-- FFADD (R368). -/
def execFfadd (o : FmtC) (s : State) : Out := recordsWord o .ffadd 256 s
/-- FSIG (R369). -/
def execFsig (o : FmtC) (s : State) : Out := remoteWord o .fsig 8 false s

/-- FMCAST (R367). -/
def execFmcast (o : FmtC) (s : State) : Out :=
  commandWord o false true true s fun s k c xa xb =>
    if xa.toNat % 64 ≠ 0 then .trap 0x05 xa
    else if bits xb 47 0 % 4 ≠ 0 then .trap 0x05 (BitVec.ofNat 64 (bits xb 47 0))
    else if bits xa 63 48 != 0 || bits xb 63 58 != 0 || (regionOf (tdefOf c (o.cimm.extractLsb' 0 4).toNat)).empty then
      .trap 0x01 0xB
    else queueCmd s k c .fmcast o xa xb

/-- A LEASE or SLOTSW.load word: the address is 64-byte aligned. -/
def reeveWord (o : FmtC) (kind : EngKind) (align : Nat) (s : State) : Out :=
  commandWord o true true false s fun s k c xa _ =>
    if xa.toNat % align ≠ 0 then .trap 0x05 xa else queueCmd s k c kind o xa 0

/-- LEASE.grant (R378). -/
def execLeaseGrant (o : FmtC) (s : State) : Out := reeveWord o .leaseGrant 64 s
/-- LEASE.recall (R378). -/
def execLeaseRecall (o : FmtC) (s : State) : Out := reeveWord o .leaseRecall 64 s
/-- LEASE.release (R378). -/
def execLeaseRelease (o : FmtC) (s : State) : Out := reeveWord o .leaseRelease 64 s
/-- SLOTSW.load (R382). -/
def execSlotswLoad (o : FmtC) (s : State) : Out := reeveWord o .slotswLoad 64 s
/-- SLOTSW.switch (R382): xA is a frame number. -/
def execSlotswSwitch (o : FmtC) (s : State) : Out := reeveWord o .slotswSwitch 1 s

/-! ### Requests (R365-R369) -/

/-- Piece p of a transfer of n bytes at a remote address, as offset and length: at most 512 bytes that cross no 512-byte
boundary (R365). -/
def remotePiece (a n p : Nat) : Option (Nat × Nat) :=
  let off := if p = 0 then 0 else 512 - a % 512 + 512 * (p - 1)
  if n ≤ off then none else some (off, min (n - off) (512 - (a + off) % 512))

/-- A request of a command (R363, R364, R384). -/
def cmdRequest (e : EngCmd) (opc node raddr len place : Nat) (data : List Byte) : Request :=
  { core := coreOf e.slot, job := e.job, opc := opc, node := node, raddr := raddr, len := len, ty := 0, phy := isReeve e.slot,
    opnd := 0, circ := (e.cimm.extractLsb' 8 6).toNat, data := data, dests := [], cmd := some e.id, access := none, place := place }

/-- Sends a request once a tag is free, and steps on. -/
def sendNext (s : State) (e : EngCmd) (r : Request) : Worked :=
  if tagFree s r.core then .more (sendRequest s r) { e with progress := e.progress + 1 } else .wait s e

/-- The region of a Porter command's tile register. -/
def porterRegion (e : EngCmd) : Region := cmdRegion e ((e.writes ++ e.reads).headD 0)

/-- One request of an FLD. -/
def fldWork (s : State) (e : EngCmd) : Worked :=
  match remotePiece (bits e.xa 47 0) (porterRegion e).size e.progress with
  | none => .finished s e
  | some (off, n) => sendNext s e (cmdRequest e 1 e.xb.toNat (e.xa.toNat + off) n off [])

/-- One request of an FST. -/
def fstWork (s : State) (e : EngCmd) : Worked :=
  let r := porterRegion e
  match remotePiece (bits e.xa 47 0) r.size e.progress with
  | none => .finished s e
  | some (off, n) => sendNext s e (cmdRequest e 2 e.xb.toNat (e.xa.toNat + off) n 0 (r.read s e.slot off n))

/-- Whether a transfer record is well formed, its addresses' alignment apart (Table 13.5). -/
def transferOk (w : List Word) : Bool :=
  bits (w.getD 0 0) 63 48 == 0 && bits (w.getD 1 0) 63 48 == 0 && bits (w.getD 2 0) 63 19 == 0 && bits (w.getD 3 0) 63 32 == 0 &&
    bits (w.getD 3 0) 31 0 % 8 == 0 && bits (w.getD 3 0) 31 0 != 0

/-- Whether a fetch-and-add record is well formed, its addresses' alignment apart (Table 13.6). -/
def addRecordOk (w : List Word) : Bool :=
  let d1 := w.getD 1 0
  bits (w.getD 0 0) 63 48 == 0 && bits d1 63 34 == 0 && bits d1 33 32 != 3 && bits d1 31 19 == 0 &&
    bits (w.getD 3 0) 63 48 == 0 && (bits d1 33 32 == 0 || bits (w.getD 2 0) 63 32 == 0)

/-- A record that breaks its table (R366). -/
def badRecord (s : State) (e : EngCmd) : Worked := .fault s e 0x01 0xF
/-- A misaligned address field of a record. -/
def badAddress (s : State) (e : EngCmd) (a : Nat) : Worked := .fault s e 0x05 (BitVec.ofNat 64 a)

/-- One step of an FGET or FPUT: its next record, or its next request (R366). -/
def transferWork (s : State) (e : EngCmd) : Worked :=
  let i := e.progress / recordStride
  let p := e.progress % recordStride
  if e.xb.toNat ≤ i then .finished s e
  else if e.latch.isEmpty then latchRecord s e (e.xa.toNat + 32 * i : Nat) 32
  else
    let w := e.latch
    let laddr := bits (w.getD 0 0) 47 0
    let raddr := bits (w.getD 1 0) 47 0
    if !transferOk w then badRecord s e
    else if laddr % 8 ≠ 0 then badAddress s e laddr
    else if raddr % 8 ≠ 0 then badAddress s e raddr
    else
      match remotePiece raddr (bits (w.getD 3 0) 31 0) p with
      | none => .more s { e with progress := (i + 1) * recordStride, latch := [] }
      | some (off, n) =>
        let node := bits (w.getD 2 0) 18 0
        if e.kind = .fget then sendNext s e (cmdRequest e 1 node (raddr + off) n (laddr + off) [])
        else if !tagFree s (coreOf e.slot) then .wait s e
        else
          match engineRead s e (laddr + off : Nat) n with
          | .ok bs s => sendNext s e (cmdRequest e 2 node (raddr + off) n 0 bs)
          | .wait s => .wait s e
          | .fault c a s => .fault s e c a

/-- One step of an FFADD: its next record, or that record's request (R368). -/
def addWork (s : State) (e : EngCmd) : Worked :=
  let i := e.progress
  if e.xb.toNat ≤ i then .finished s e
  else if e.latch.isEmpty then latchRecord s e (e.xa.toNat + 32 * i : Nat) 32
  else
    let w := e.latch
    let ty := bits (w.getD 1 0) 33 32
    let n := if ty = 0 then 8 else 4
    let raddr := bits (w.getD 0 0) 47 0
    let ret := bits (w.getD 3 0) 47 0
    if !addRecordOk w then badRecord s e
    else if raddr % n ≠ 0 then badAddress s e raddr
    else if ret % 8 ≠ 0 then badAddress s e ret
    else
      match sendNext s e { cmdRequest e 3 (bits (w.getD 1 0) 18 0) raddr n ret [] with ty := ty, opnd := w.getD 2 0 } with
      | .more s e => .more s { e with latch := [] }
      | r => r

/-- The packages of an FMCAST, in the order of its list (R367). -/
def castNodes (e : EngCmd) : List Nat :=
  (List.range (bits e.xb 57 48 + 1)).map fun j => bits (e.latch.getD (j / 2) 0) (32 * (j % 2) + 31) (32 * (j % 2))

/-- One request of an FMCAST: up to ten destinations of one piece (R367). -/
def castWork (s : State) (e : EngCmd) : Worked :=
  let count := bits e.xb 57 48 + 1
  if e.latch.isEmpty then
    match engineRead s e (bits e.xb 47 0 : Nat) (4 * count) with
    | .ok bs s => .more s { e with latch := bytesWords ((count + 1) / 2) (bs ++ List.replicate 4 0) }
    | .wait s => .wait s e
    | .fault c a s => .fault s e c a
  else
    let r := porterRegion e
    let nodes := castNodes e
    let groups := (count + 9) / 10
    if nodes.any fun n => decide (2 ^ 19 ≤ n) then badRecord s e
    else
      match remotePiece (bits e.xa 47 0) r.size (e.progress / groups) with
      | none => .finished s e
      | some (off, n) =>
        sendNext s e { cmdRequest e 5 0 (e.xa.toNat + off) n 0 (r.read s e.slot off n) with
                         dests := (nodes.drop (10 * (e.progress % groups))).take 10 }

/-- The request of an FSIG (R369). -/
def signalWork (s : State) (e : EngCmd) : Worked :=
  if e.progress = 0 then sendNext s e (cmdRequest e 4 e.xb.toNat e.xa.toNat 8 0 []) else .finished s e

/-! ### Slot-table images (R358, R382) -/

/-- Whether an image is malformed: a reserved code or bit, or an output that names its own input (R358). -/
def imageBad (l : List Word) : Bool :=
  l.any fun w => bits w 57 52 != 0 || (List.range 13).any fun o =>
    let i := slotInput w o
    i == 13 || i == 14 || (i == o && decide (o < 12))

/-- The work of a SLOTSW.load: the image of 2 KiB into the shadow bank (R382). -/
def imageWork (s : State) (e : EngCmd) : Worked :=
  match engineRead s e (e.xa.toNat : Nat) 2048 with
  | .wait s => .wait s e
  | .fault c a s => .fault s e c a
  | .ok bs s =>
    let image := bytesWords 256 bs
    let f := s.fabric
    if imageBad image then .finished { s with fabric := { f with lderr := true } } e
    else if f.act then .finished { s with fabric := { f with bankA := image, lderr := false } } e
    else .finished { s with fabric := { f with bankB := image, lderr := false } } e

/-- The work of a SLOTSW.switch: it is pending, for frame xA (R382). -/
def switchWork (s : State) (e : EngCmd) : Worked :=
  .finished { s with fabric := { s.fabric with pend := true, switchAt := some e.xa.toNat } } e

/-! ### Leases: the Reeve's side (R377-R379) -/

/-- Lease statuses (Table 13.8). -/
def leaseOk : Nat := 0
def leaseBadrec : Nat := 1
def leaseOverlap : Nat := 2
def leaseRefused : Nat := 3
def leaseUnknown : Nat := 4
def leaseTimeout : Nat := 5

/-- Replaces the leases. -/
def putLeases (s : State) (l : List Lease) : State := { s with fabric := { s.fabric with leases := l } }

/-- Whether a lease record breaks Table 13.8 for an operation: a .grant names the regions and the grace too. -/
def leaseBad (w : List Word) (grant : Bool) : Bool :=
  let d1 := w.getD 1 0
  bits (w.getD 0 0) 63 35 != 0 || bits d1 63 45 != 0 || bits (w.getD 2 0) 63 9 != 0 || ((w.drop 3).any (· != 0)) ||
    (grant && (decide (6835 < bits d1 44 32) || decide (bits d1 31 16 < 1) || decide (4096 < bits d1 31 16) ||
      decide (49152 < bits d1 15 0 + bits d1 31 16)))

/-- Whether two runs of regions meet. -/
def regionsMeet (a n b m : Nat) : Bool := decide (a < b + m) && decide (b < a + n)

/-- Whether the package holds as many leases as it can, across both roles (R378). -/
def leaseFull (s : State) : Bool := decide (maxLeases ≤ (s.fabric.leases.filter (·.state != .releasing)).length)

/-- What a LEASE command does with its record: a status at once, or a lease that the command waits on (R378, R379). -/
def leaseOp (s : State) (core : Nat) (e : EngCmd) : Option Nat × State :=
  let w := e.latch
  let peer := bits (w.getD 0 0) 34 16
  let lid := bits (w.getD 0 0) 15 0
  let d1 := w.getD 1 0
  let ls := s.fabric.leases
  let mine (lender : Bool) (l : Lease) : Bool := l.lender == lender && l.peer == peer && l.lid == lid
  if leaseBad w (e.kind == .leaseGrant) then (some leaseBadrec, s)
  else
    match e.kind with
    | .leaseGrant =>
      let reg0 := bits d1 15 0
      let nreg := bits d1 31 16
      if ls.any fun l => l.lender && regionsMeet l.reg0 l.nreg reg0 nreg then (some leaseOverlap, s)
      else if leaseFull s then (some leaseRefused, s)
      else
        (none, putLeases s (ls ++ [{ lender := true, peer := peer, lid := lid, reg0 := reg0, nreg := nreg, grace := bits d1 44 32,
                                     state := .granting, deadline := 0, cmd := some (core, e.id) }]))
    | .leaseRecall =>
      if ls.any fun l => mine true l && l.state == .held then
        (none, putLeases s (updateIf (fun l => mine true l && l.state == .held) (fun l =>
          { l with state := .recalling, deadline := BitVec.ofNat 64 (s.fabric.frame + l.grace), cmd := some (core, e.id) }) ls))
      else (some leaseUnknown, s)
    | _ =>
      let open_ (l : Lease) : Bool := mine false l && l.cmd.isNone && l.state != .releasing
      if ls.any open_ then (none, putLeases s (updateIf open_ (fun l => { l with cmd := some (core, e.id) }) ls))
      else (some leaseUnknown, s)

/-- The work of a LEASE command: its record, then its operation. The status, once known, follows the record's doublewords. -/
def leaseWork (core : Nat) (s : State) (e : EngCmd) : Worked :=
  if e.latch.isEmpty then latchRecord s e (e.xa.toNat : Nat) 64
  else
    match leaseOp s core e with
    | (some st, s) => .finished s { e with latch := e.latch ++ [BitVec.ofNat 64 st] }
    | (none, s) => .finished s e

/-- A lease command whose status is known: STATUS and DONE are stored together, and it completes (R378). -/
def endLease (s : State) (core : Nat) (e : EngCmd) : State :=
  match e.latch[8]? with
  | none => s
  | some st =>
    match engineWrite s e (e.xa.toNat + 16 : Nat) (wordBytes (st ||| 0x100)) with
    | .wait s => s
    | .fault c a s => stopCmd s core e c a false
    | .ok _ s => finishCmd s core e

/-- The status of a lease command becomes known. -/
def leaseAnswered (s : State) (cmd : Option (Nat × Nat)) (status : Nat) : State :=
  match cmd with
  | none => s
  | some (core, id) =>
    match (coreAt s core).portRun.find? (·.id == id) with
    | none => s
    | some e =>
      let e := { e with latch := e.latch ++ [BitVec.ofNat 64 status] }
      endLease (putCmd s core e) core e

/-! ### Start and completion (R363, R372) -/

/-- One access or request of a Porter command. -/
def porterWork (core : Nat) (s : State) (e : EngCmd) : Worked :=
  match e.kind with
  | .fld => fldWork s e
  | .fst => fstWork s e
  | .fget | .fput => transferWork s e
  | .ffadd => addWork s e
  | .fmcast => castWork s e
  | .fsig => signalWork s e
  | .slotswLoad => imageWork s e
  | .slotswSwitch => switchWork s e
  | _ => leaseWork core s e

/-- Whether a command's region must wait for vector words of its crew (R221). -/
def porterWaits (s : State) (e : EngCmd) : Bool :=
  (e.kind == .fld || e.kind == .fst || e.kind == .fmcast) && behindVectors s e

/-- Whether the command at the head of the queue may start (R363, R369, R382). -/
def porterMay (s : State) (c : CoreState) (e : EngCmd) : Bool :=
  match e.kind with
  | .fsig => !(c.portRun.any (·.crewId == e.crewId)) && !fenceWaits s e
  | .leaseGrant | .leaseRecall | .leaseRelease => c.portRun.isEmpty
  | .slotswLoad | .slotswSwitch => c.portRun.isEmpty && !s.fabric.pend
  | _ => true

/-- PORTER_CMD_START (R224, R363): whether the command comes to its first access in the same step is a free choice, since how
long its translation takes is not given (log 75); a Reeve's addresses need none, so its record is read, or its switch is
pending, as it starts (R377, R382). -/
def execPorterCmdStart (core : Nat) (s : State) : Out :=
  .next (
    let c := coreAt s core
    match c.portQ with
    | [] => s
    | e :: _ =>
      if 8 ≤ c.portRun.length || cmdFrozen s e || !porterMay s c e then s
      else
        match consumeWait s core e with
        | (false, s) => s
        | (true, s) =>
          let e := { e with consumed := true, started := true }
          let c := coreAt s core
          let later := !isReeve e.slot && freeBit s.free
          let s := spend (putCore s core { c with portQ := c.portQ.tail, portRun := c.portRun ++ [e] }) 1
          if later || porterWaits s e then s else workCmd core (porterWork core) s e)

/-- Whether requests of a command are unanswered. -/
def unanswered (s : State) (core id : Nat) : Bool := s.fabric.outstanding.any fun o => o.core == core && o.cmd == some id

/-- PORTER_CMD_COMPLETE (R372): the command goes on with its work, or is complete once every request is answered. A lease
command completes with its status, and a switch at its frame (R378, R382). -/
def execPorterCmdComplete (core id : Nat) (s : State) : Out :=
  .next (match (coreAt s core).portRun.find? (·.id == id) with
    | none => s
    | some e =>
      if e.held then s
      else if !e.worked then (if porterWaits s e then s else workCmd core (porterWork core) s e)
      else
        match e.kind with
        | .leaseGrant | .leaseRecall | .leaseRelease => endLease s core e
        | .slotswSwitch => s
        | _ => if unanswered s core id then s else finishCmd s core e)

/-! ### Responses (R371, R372) -/

/-- Drops the requests of a command that has stopped: their responses are discarded. -/
def dropRequests (s : State) (core id : Nat) : State :=
  { s with fabric := { s.fabric with
      outstanding := s.fabric.outstanding.filter fun o => !(o.core == core && o.cmd == some id) } }

/-- Drops one request. -/
def dropRequest (s : State) (o : Outstanding) : State :=
  { s with fabric := { s.fabric with outstanding := s.fabric.outstanding.erase o } }

/-- A command stops on a status of a response or on a timeout (R371). -/
def remoteStop (s : State) (core : Nat) (e : EngCmd) (code : BitVec 8) (raddr : Nat) : State :=
  stopCmd (dropRequests s core e.id) core e code (BitVec.ofNat 64 raddr) true

/-- The old value that an FFADD stores at RET (R368). -/
def returnedValue (ty : Nat) (opnd : Word) : Word :=
  match ty with
  | 0 => opnd
  | 1 => (opnd.truncate 32).signExtend 64
  | _ => (opnd.truncate 32).zeroExtend 64

/-- What a response delivers to its command: data into the region or to memory, or an old value. -/
def takeAnswer (s : State) (e : EngCmd) (o : Outstanding) (m : Msg) : Moved Unit :=
  match e.kind with
  | .fld => .ok () (regionPut s e (porterRegion e) (some o.place) (m.data.take o.len))
  | .fget => engineWrite s e (o.place : Nat) (m.data.take o.len)
  | .ffadd => if o.place = 0 then .ok () s else engineWrite s e (o.place : Nat) (wordBytes (returnedValue o.ty m.opnd))
  | _ => .ok () s

/-- A response that met poison reaches an FLD's region up to the poisoned ECC sector, whose 32 bytes are undefined there; the
command stops at it (R228, R371). Which sector it is, is a free choice: a response does not name it. -/
def poisonedAnswer (s : State) (e : EngCmd) (o : Outstanding) (m : Msg) : State :=
  if e.kind = .fld then
    let first := o.raddr / 32
    let sec := first + freeChoice s.free o.raddr % ((o.raddr + o.len - 1) / 32 - first + 1)
    let bytes := (List.range o.len).filterMap fun i =>
      let k := (o.raddr + i) / 32
      if k < sec then some (m.data.getD i 0) else if k = sec then some (freeByte s.free (o.place + i)) else none
    spend (regionPut s e (porterRegion e) (some o.place) bytes) 1
  else s

/-- A response to a command's request; none where the command must wait with it. -/
def answerCmd (s : State) (core : Nat) (e : EngCmd) (o : Outstanding) (m : Msg) : Option State :=
  match m.stat with
  | 0 =>
    match takeAnswer s e o m with
    | .ok _ s => some (dropRequest s o)
    | .wait _ => none
    | .fault c a s =>
      if heldCode c && !isReeve e.slot then some (holdCmd s core e c a)
      else some (stopCmd (dropRequests s core e.id) core e c a true)
  | 1 => some (remoteStop s core e 0x31 o.raddr)
  | 2 => some (remoteStop s core e 0x13 o.raddr)
  | 3 => some (remoteStop (poisonedAnswer s e o m) core e 0x40 o.raddr)
  | _ => some (remoteStop s core e 0x21 o.raddr)

/-- Removes response k. -/
def takeResponse (s : State) (k : Nat) : State :=
  { s with fabric := { s.fabric with responses := s.fabric.responses.eraseIdx k } }

/-- The unanswered request that a response answers. -/
def answered (s : State) (m : Msg) : Option Outstanding :=
  s.fabric.outstanding.find? fun o => o.tag % 4096 == m.tag && o.core % 64 == m.core

/-- FABRIC_RESPONSE (R371, R372): a response to no unanswered request is discarded. Responses wait while HOLD lasts (R415). -/
def execFabricResponse (k : Nat) (s : State) : Out :=
  .next (if s.pkg.hold then s else match s.fabric.responses[k]? with
    | none => s
    | some m =>
      match answered s m with
      | none => takeResponse s k
      | some o =>
        match o.access with
        | some (slot, seq) =>
          let s := takeResponse (dropRequest s o) k
          match (crewAt s slot).bind fun c => (logEntry c seq).map fun e => (c, e) with
          | some (c, e) => if e.tag == some o.tag then remoteAnswer s slot c e m.stat m.data m.opnd else s
          | none => s
        | none =>
          match o.cmd.bind fun id => (coreAt s o.core).portRun.find? (·.id == id) with
          | none => takeResponse (dropRequest (answerLent s o.tag m.stat m.data m.opnd) o) k
          | some e =>
            if e.held then s
            else
              match answerCmd s o.core e o m with
              | none => s
              | some t => if t.fabric.outstanding.contains o then t else takeResponse t k)

/-- FABRIC_TIMEOUT (R371): no response has come within 1 s of sending. -/
def execFabricTimeout (tag : Nat) (s : State) : Out :=
  .next (match s.fabric.outstanding.find? (·.tag == tag) with
    | none => s
    | some o =>
      match o.access with
      | some (slot, seq) =>
        let s := dropRequest s o
        match (crewAt s slot).bind fun c => (logEntry c seq).map fun e => (c, e) with
        | some (c, e) => if e.tag == some o.tag then remoteTimeout s slot c e else s
        | none => s
      | none =>
        match o.cmd.bind fun id => (coreAt s o.core).portRun.find? (·.id == id) with
        | none => dropRequest (answerLent s tag 5 [] 0) o
        | some e => remoteStop s o.core e 0x30 o.raddr)

/-! ### Serving requests of other packages (R370) -/

/-- Request k of the inbox with an operation code and PHY zero. -/
def requestAt (s : State) (k opc : Nat) : Option Msg :=
  match s.fabric.inbox[k]? with
  | some m => if m.opc = opc ∧ !m.phy then some m else none
  | none => none

/-- Takes request k. -/
def takeRequest (s : State) (k : Nat) : State := { s with fabric := { s.fabric with inbox := s.fabric.inbox.eraseIdx k } }

/-- Where a request's bytes lie: its job open, a translation without fault, SHR of FABRIC and tier 0 (R370). -/
def servedTarget (s : State) (m : Msg) (kind : AccessKind) : Option Target × State :=
  if !(levelAt s 4 m.job).inUse then (none, s)
  else
    match translate s none m.job (BitVec.ofNat 64 m.addr) kind with
    | (.error _, s) => (none, s)
    | (.ok t, s) => (if t.shr < 4 ∨ t.tier ≠ 0 then none else some t, s)

/-- Serves request k: NACK where R370 refuses it; otherwise its access once the memory can make it, until which it stands before
the controllers (R276). -/
def serve (k opc : Nat) (kind : AccessKind) (size : Msg → Nat) (s : State) (f : State → Msg → Target → State) : Out :=
  .next (match requestAt s k opc with
    | none => s
    | some m =>
      match servedTarget s m kind with
      | (none, s) => respond (takeRequest s k) m 1 [] 0
      | (some t, s) =>
        if s.pkg.hold then s
        else if targetMay s t (size m) then f (takeRequest s k) m t
        else targetWaits s t (size m))

/-- FABRIC_READ (R370): poisoned data is returned with POISON. -/
def execFabricRead (k : Nat) (s : State) : Out :=
  serve k 1 .load (·.len) s fun s m t =>
    respond (afterTarget s t m.len) m (if (targetPoison s t m.len).isSome then 3 else 0) (targetBytes s t m.len) 0

/-- A write of a request. -/
def serveWrite (s : State) (m : Msg) (t : Target) : State := respond (targetWrite s t (m.data.take m.len)) m 0 [] 0

/-- FABRIC_WRITE (R370). -/
def execFabricWrite (k : Nat) (s : State) : Out := serve k 2 .store (·.len) s serveWrite

/-- FABRIC_MWRITE (R367, R370). -/
def execFabricMwrite (k : Nat) (s : State) : Out := serve k 5 .store (·.len) s serveWrite

/-- The new value of a remote addition (R368). -/
def fabricSum (ty : Nat) (old opnd : Nat) : Nat :=
  match ty with
  | 0 => (old + opnd) % 2 ^ 64
  | 1 => (old + opnd) % 2 ^ 32
  | _ => (fp32.finish .rne false (addNum false (fp32.decode old) (fp32.decode (opnd % 2 ^ 32)))).1

/-- Bytes of an addition's operand. -/
def addBytes (m : Msg) : Nat := if m.ty = 0 then 8 else 4

/-- An addition at a target, single or combined: one indivisible step; a poisoned operand is left as it is (Table 10.5). -/
def serveAdd (s : State) (m : Msg) (t : Target) : State :=
  let n := addBytes m
  if (targetPoison s t n).isSome then respond (afterTarget s t n) m 3 [] 0
  else
    let old := bytesValue (targetBytes s t n)
    let s := targetWrite (afterTarget s t n) t (valueBytes n (fabricSum m.ty old m.opnd.toNat))
    respond s m 0 [] (BitVec.ofNat 64 old)

/-- FABRIC_FADD (R368, R374). -/
def execFabricFadd (k : Nat) (s : State) : Out := serve k 3 .atomic addBytes s serveAdd

/-- A signal of a memory semaphore: OVERFLOW leaves the count unchanged (R369). -/
def serveSignal (s : State) (m : Msg) (t : Target) : State :=
  if (targetPoison s t 8).isSome then respond (afterTarget s t 8) m 3 [] 0
  else
    let old := bytesWord (targetBytes s t 8)
    let s := afterTarget s t 8
    if old = BitVec.allOnes 64 then respond s m 4 [] old else respond (targetWrite s t (wordBytes (old + 1))) m 0 [] old

/-- FABRIC_SIGNAL (R369). -/
def execFabricSignal (k : Nat) (s : State) : Out := serve k 4 .atomic (fun _ => 8) s serveSignal

end Sys2Proof.Machine
end

