-- ==== Sys2Proof/Machine/Lease.lean ====
section
/-!
DEFINITION. Leases as their messages and deadlines move them (R378-R380), their event records (R381), the requests of borrowers
that a lender serves (R80, R380), and the frames with the switch of slot tables (R382).
-/
namespace Sys2Proof.Machine
open Sys2Proof.Config

/-! ### Event records (R381, Table 13.10) -/

/-- The record of an event of a lease; only DEMOTE carries a deadline. -/
def leaseRecord (kind : Nat) (l : Lease) (deadline : Word) : List Word :=
  [BitVec.ofNat 64 (l.peer % 2 ^ 19 * 2 ^ 24 + l.lid % 2 ^ 16 * 2 ^ 8 + kind),
   BitVec.ofNat 64 (l.nreg % 2 ^ 16 * 2 ^ 16 + l.reg0 % 2 ^ 16), deadline, 0]

/-- Posts an event of a lease, behind those that wait for room. -/
def leaseEvent (s : State) (kind : Nat) (l : Lease) (deadline : Word) : State :=
  drainEvents { s with fabric := { s.fabric with events := s.fabric.events ++ [leaseRecord kind l deadline] } }
    (s.fabric.events.length + 1)

/-! ### Requests to lent regions (R80, R380) -/

/-- Whether a physical address lies in the regions of a lease: window offset bits 38-23. -/
def leaseCovers (l : Lease) (a : Nat) : Bool :=
  let r := (if inLinear a then a - linearBase else a) / 2 ^ 23
  inWindow a && decide (l.reg0 ≤ r) && decide (r < l.reg0 + l.nreg)

/-- Whether a lease lets its borrower be served: HELD, or RECALLING before frame DEADLINE. -/
def leaseServes (s : State) (l : Lease) : Bool :=
  l.lender && (l.state == .held || (l.state == .recalling && decide (s.fabric.frame < l.deadline.toNat)))

/-- Whether a request reaches this lender's memory port under a lease. -/
def lentTo (s : State) (m : Msg) : Bool :=
  s.fabric.leases.any fun l => l.peer == m.node && leaseCovers l m.addr && leaseServes s l

/-- Whether an accepted request under a lease is still to be performed. -/
def leaseBusy (s : State) (l : Lease) : Bool :=
  s.fabric.inbox.any fun m => m.accepted && m.node == l.peer && leaseCovers l m.addr

/-- Bytes that a request moves. -/
def requestBytes (m : Msg) : Nat :=
  match m.opc with
  | 3 => addBytes m
  | 4 => 8
  | _ => m.len

/-- An access of a borrower for which Table 13.2 has no operation code, with its operation in CNT (R80, log 18): one indivisible
step; a poisoned operand is left as it is (Table 10.5). -/
def serveLent (s : State) (m : Msg) (t : Target) : State :=
  let n := m.len
  if (targetPoison s t n).isSome then respond (afterTarget s t n) m 3 [] 0
  else
    let old := bytesValue (targetBytes s t n)
    let s := afterTarget s t n
    let put (v : Nat) : State := respond (targetWrite s t (valueBytes n v)) m 0 [] (BitVec.ofNat 64 old)
    let keep (stat : Nat) : State := respond s m stat [] (BitVec.ofNat 64 old)
    match m.cnt with
    | 9 => if old = 0 then keep 0 else put (old - 1)
    | 10 => if 2 ^ 64 ≤ old + m.opnd.toNat then keep 4 else put (old + m.opnd.toNat)
    | op =>
      match atomicNew (BitVec.ofNat 4 op) (BitVec.ofNat 4 m.ty) old (m.opnd.toNat % 2 ^ (8 * n))
          (bytesValue (m.data.take n)) with
      | some v => put v
      | none => keep 0

/-- Performs a request at a target; an operation code that no request has is refused. -/
def performRequest (s : State) (m : Msg) (t : Target) : State :=
  match m.opc with
  | 1 => respond (afterTarget s t m.len) m (if (targetPoison s t m.len).isSome then 3 else 0) (targetBytes s t m.len) 0
  | 2 | 5 => serveWrite s m t
  | 3 => serveAdd s m t
  | 4 => serveSignal s m t
  | opc => if opc = lentOpc then serveLent s m t else respond s m 2 [] 0

/-- PHYSICAL_LENT_ACCESS (R380): the request reaches the memory port, is accepted under a lease or answered REVOKED, and is
performed as soon as the memory can. -/
def execPhysicalLentAccess (k : Nat) (s : State) : Out :=
  .next (match s.fabric.inbox[k]? with
    | none => s
    | some m =>
      if !m.phy then s
      else
        match physicalTarget (BitVec.ofNat 64 m.addr) with
        | .error _ => respond (takeRequest s k) m 2 [] 0
        | .ok t =>
          if !(m.accepted || lentTo s m) then respond (takeRequest s k) m 2 [] 0
          else if !s.pkg.hold && targetMay s t (requestBytes m) then performRequest (takeRequest s k) m t
          else
            let s := if s.pkg.hold then s else targetWaits s t (requestBytes m)
            { s with fabric := { s.fabric with inbox := s.fabric.inbox.set k { m with accepted := true } } })

/-! ### The lender's side (R378, R379) -/

/-- The lender's lease of a borrower under a number. -/
def lentLease (s : State) (peer lid : Nat) : Option Lease :=
  s.fabric.leases.find? fun l => l.lender && l.peer == peer && l.lid == lid

/-- Removes a lease. -/
def dropLease (s : State) (l : Lease) : State := putLeases s (s.fabric.leases.erase l)
/-- Puts a lease back as it has become. -/
def setLease (s : State) (l l' : Lease) : State := putLeases s (updateFirst (· == l) (fun _ => l') s.fabric.leases)

/-- LEASE_GRANT_ANSWER (R378): OK makes the lease HELD; any other answer leaves none, and the .grant gives REFUSED. -/
def execLeaseGrantAnswer (peer lid : Nat) (status : BitVec 8) (s : State) : Out :=
  .next (match lentLease s peer lid with
    | none => s
    | some l =>
      if l.state != .granting then s
      else if status = 0 then leaseAnswered (setLease s l { l with state := .held, cmd := none }) l.cmd leaseOk
      else leaseAnswered (dropLease s l) l.cmd leaseRefused)

/-- LEASE_GRANT_TIMEOUT (R378): no answer within 1 s. -/
def execLeaseGrantTimeout (lid : Nat) (s : State) : Out :=
  .next (match s.fabric.leases.find? fun l => l.lender && l.lid == lid && l.state == .granting with
    | none => s
    | some l => leaseAnswered (dropLease s l) l.cmd leaseTimeout)

/-- The lender closes a RECALLING lease: REVOKE is sent, RECLAIMED is written, the .recall completes (R379). -/
def reclaimLease (s : State) (l : Lease) : State := leaseAnswered (leaseEvent (dropLease s l) 4 l 0) l.cmd leaseOk

/-- LEASE_RELEASE_MESSAGE (R379): it closes the lease once every accepted access is performed (R380). -/
def execLeaseReleaseMessage (peer lid : Nat) (s : State) : Out :=
  .next (match lentLease s peer lid with
    | none => s
    | some l =>
      if leaseBusy s l then s
      else
        match l.state with
        | .held => leaseEvent (dropLease s l) 5 l 0
        | .recalling => reclaimLease s l
        | _ => s)

/-- LEASE_DEADLINE (R379, R380, R416): frame DEADLINE has begun; the lease closes once every accepted access is performed. -/
def execLeaseDeadline (lid : Nat) (s : State) : Out :=
  .next (match s.fabric.leases.find? fun l => l.lender && l.lid == lid && l.state == .recalling with
    | none => s
    | some l => if decide (l.deadline.toNat ≤ s.fabric.frame) && !leaseBusy s l then reclaimLease s l else s)

/-! ### The borrower's side (R378, R379) -/

/-- The borrower's lease of a lender under a number. -/
def borrowedLease (s : State) (peer lid : Nat) : Option Lease :=
  s.fabric.leases.find? fun l => !l.lender && l.peer == peer && l.lid == lid

/-- LEASE_GRANT_MESSAGE (R378, R379): a full table refuses the lease. -/
def execLeaseGrantMessage (peer lid reg0 nreg : Nat) (s : State) : Out :=
  .next (if leaseFull s then s
    else
      let l : Lease := { lender := false, peer := peer, lid := lid, reg0 := reg0, nreg := nreg, grace := 0, state := .held,
                         deadline := 0, cmd := none }
      leaseEvent (putLeases s (s.fabric.leases ++ [l])) 1 l 0)

/-- LEASE_RECALL_MESSAGE (R379). -/
def execLeaseRecallMessage (peer lid : Nat) (deadline : Word) (s : State) : Out :=
  .next (match borrowedLease s peer lid with
    | none => s
    | some l =>
      if l.state = .held then leaseEvent (setLease s l { l with state := .demoting, deadline := deadline }) 2 l deadline else s)

/-- LEASE_RELEASE_ANSWER (R379): the lease is closed and the .release completes with the lender's status. -/
def execLeaseReleaseAnswer (peer lid : Nat) (status : BitVec 8) (s : State) : Out :=
  .next (match borrowedLease s peer lid with
    | none => s
    | some l =>
      if l.cmd.isNone then s else leaseAnswered (dropLease s l) l.cmd (if status = 0 then leaseOk else leaseUnknown))

/-- LEASE_REVOKE_MESSAGE (R379): the lease is closed; a .release that waits for its answer keeps waiting. -/
def execLeaseRevokeMessage (peer lid : Nat) (s : State) : Out :=
  .next (match borrowedLease s peer lid with
    | none => s
    | some l =>
      match l.state with
      | .held | .demoting =>
        let s := if l.cmd.isSome then setLease s l { l with state := .releasing } else dropLease s l
        leaseEvent s 3 l 0
      | _ => s)

/-! ### Frames (R358, R382) -/

/-- The core and the .switch command that waits for its frame. -/
def switchCmd (s : State) : Option (Nat × EngCmd) :=
  (List.range clusters).findSome? fun cl =>
    ((coreAt s (8 * cl)).portRun.find? fun e => e.kind == .slotswSwitch && e.worked).map fun e => (8 * cl, e)

/-- FRAME_START (R358, R382): a pending switch whose frame has begun exchanges the banks and completes. -/
def execFrameStart (s : State) : Out :=
  .next (if s.fabric.slot < 256 then s
    else
      let f := { s.fabric with frame := (s.fabric.frame + 1) % 2 ^ 64, slot := 0 }
      let s := { s with fabric := f }
      match f.switchAt with
      | none => s
      | some at_ =>
        if f.pend && decide (at_ ≤ f.frame) then
          let s := { s with fabric := { f with act := !f.act, pend := false, switchAt := none } }
          match switchCmd s with
          | some (core, e) => finishCmd s core e
          | none => s
        else s)

end Sys2Proof.Machine
end

