-- ==== Sys2Proof/Machine/Csr.lean ====
section
/-!
DEFINITION. Control and status registers (R406): what CSRR reads, which benches may read and write each register, the fields
that a CSRW writes, and the CSRW words with a behaviour of their own (R111, R160, R162, R165, R218, R261, R274, R376, R388, R419).
-/
namespace Sys2Proof.Machine
open Sys2Proof.Config

/-! ### Reading -/

/-- The number of a CSR word. -/
def csrNumber (o : FmtI) : Nat := (o.imm.extractLsb' 0 12).toNat

/-- Whether a register may be accessed on a Reeve only (R376, R388; Table 10.4). -/
def reeveOnly (n : Nat) : Bool := decide (0x61 ≤ n ∧ n ≤ 0x63) || decide (0x72 ≤ n ∧ n ≤ 0x75) || decide (0x80 ≤ n ∧ n ≤ 0x83)

/-- The code of a level's state (Table 15.1). -/
def LevelState.code : LevelState → Nat
  | .neverOpened => 0
  | .active => 1
  | .cancelling => 2
  | .done => 3
  | .cancelled => 4

/-- The width of a level's identifier (Table 01.1): launch 12, graph 9, phase 6, job 4 bits. -/
def levelWidth (kind : Nat) : Nat :=
  match kind with
  | 1 => 12
  | 2 => 9
  | 3 => 6
  | _ => 4

/-- LVLSTAT (R412): the level that LVLSEL selects, of the crew's job, or of any job on a Reeve. -/
def levelStatus (s : State) (k : Nat) (c : Crew) : Word :=
  let kind := bits c.lvlsel 2 0
  if kind < 1 ∨ 4 < kind then 7
  else
    let id := bits c.lvlsel 15 4 % 2 ^ levelWidth kind
    let l := levelAt s kind id
    let job := if kind = 4 then id else l.job
    if !isReeve k && decide (job ≠ jobOf s c) && (kind == 4 || l.state != .neverOpened) then 7
    else BitVec.ofNat 64 (l.count * 2 ^ 32 + l.state.code)

/-- Whether a SLOTSW.load is queued or in progress (Table 13.7). -/
def loadPending (s : State) : Bool :=
  (List.range clusters).any fun cl =>
    let c := coreAt s (8 * cl)
    (c.portQ ++ c.portRun).any (·.kind == .slotswLoad)

/-- SLOTST (Table 13.7). -/
def slotStatus (s : State) : Word :=
  let f := s.fabric
  BitVec.ofNat 64 ((if f.lderr then 8 else 0) + (if loadPending s then 4 else 0) + (if f.pend then 2 else 0) + (if f.act then 1 else 0))

/-- FFLAGS as CSRR reads it: the flags that have landed in earlier clks, and each flag of a word still in flight either set or
clear (R162). -/
def readFlags (s : State) (c : Crew) : Word :=
  let flying := (c.pendF.filter fun p => decide (p.1 < c.counter)).foldl (fun w p => w ||| p.2.2.zeroExtend 64) (0 : Word)
  c.fflags ||| (flying &&& freeWord (s.free + 10))

/-- What a CSRR of a register reads; none for a number without a field map (R406). -/
def csrRead (s : State) (k : Nat) (c : Crew) (n : Nat) : Option Word :=
  let r := reeveAt s (clusterOf k)
  match n with
  | 0x001 => some (readFlags s c)
  | 0x002 => some c.frm
  | 0x003 => some c.srseed
  | 0x004 => some c.srstrm
  | 0x005 => some c.srctr
  | 0x006 => some c.mflags
  | 0x008 => some c.trapcause
  | 0x009 => some c.trappc
  | 0x00A => some c.trapaddr
  | 0x010 => some (BitVec.ofNat 64 c.counter)
  | 0x011 => some c.strict
  | 0x020 => some (s.pkg.node &&& 0x7FFFF)
  | 0x021 => some (BitVec.ofNat 64 (clusterOf k))
  | 0x022 => some (BitVec.ofNat 64 (coreOf k + if isReeve k then 64 else 0))
  | 0x023 => some (BitVec.ofNat 64 (if isReeve k then 16 else benchOf k))
  | 0x024 => some (BitVec.ofNat 64 (c.crewId % 2 ^ 32))
  | 0x060 => some s.pkg.msh
  | 0x061 => some s.pkg.eccce
  | 0x062 => some s.pkg.eccue
  | 0x063 => some s.pkg.eccaddr
  | 0x070 => some (BitVec.ofNat 64 s.fabric.frame)
  | 0x071 => some (slotStatus s)
  | 0x072 => some s.fabric.fevbase
  | 0x073 => some (s.fabric.fevtail.zeroExtend 64)
  | 0x074 => some (s.fabric.fevhead.zeroExtend 64)
  | 0x075 => some s.fabric.fevsem
  | 0x080 => some r.trqbase
  | 0x081 => some (r.trqtail.zeroExtend 64)
  | 0x082 => some (r.trqhead.zeroExtend 64)
  | 0x083 => some r.rqst
  | 0x090 => some c.lvlsel
  | 0x091 => some (levelStatus s k c)
  | 0x092 => some s.pkg.droopst
  | 0x093 => some s.pkg.linkst
  | 0x094 => some s.pkg.shockst
  | 0x095 => some s.pkg.repair
  | 0x096 => some s.pkg.coredis
  | 0x097 => some s.pkg.weareol
  | n => if 0x40 ≤ n ∧ n ≤ 0x4F then c.tdef[n - 0x40]? else none

/-- CSRR (R406): bound 2. -/
def execCsrr (o : FmtI) (s : State) : Out :=
  runWord s .s false (guardI o) [] [] fun s k str c =>
    if reeveOnly (csrNumber o) && !isReeve k then .trap 0x01 0xB
    else
      match csrRead s k c (csrNumber o) with
      | some v => .done s (pendX c str o.rd v false 2)
      | none => .trap 0x01 0xB

/-! ### Writing -/

/-- The frame of a CSRW: what its number refuses (R406), then poison, then the register's own rule. -/
def csrwWord (o : FmtI) (s : State) (may : Nat → Bool) (body : State → Nat → Crew → Word → Effect) : Out :=
  runWord s .s false (guardI o) (freesI o) [(.x, o.ra.toNat)] fun s k _ c =>
    if !may k then .trap 0x01 0xB
    else
      match poisonedX s c [(0, o.ra)] with
      | some p => .trap 0x04 p
      | none => body s k c (readX s c 0 o.ra)

/-- Any bench may write the register. -/
def anyBench (_ : Nat) : Bool := true

/-- A value that takes effect for words of later counts (R406). -/
def laterCsr (c : Crew) (n : Nat) (v : Word) : Crew := { c with csrPend := c.csrPend ++ [(n, v, c.counter)] }

/-- The fields marked RW of a register take the value, the others stay. -/
def fieldsOf (mask old v : Word) : Word := (old &&& ~~~mask) ||| (v &&& mask)

/-- The flags still to land after a CSRW to FFLAGS: a word of an earlier count may have landed within its bound before the
CSRW, by a free choice, and its flags are then replaced (R114, R115, R162). -/
def unlandedFlags (s : State) (c : Crew) : List (Nat × Nat × BitVec 5) :=
  (c.pendF.zipIdx.filter fun q => decide (c.counter ≤ q.1.1) || !(freeWord (s.free + 10)).getLsbD (q.2 % 64)).map (·.1)

/-- CSRW_FFLAGS (R162): flags that land in this clk or later are ORed in as they land. -/
def execCsrwFflags (o : FmtI) (s : State) : Out :=
  csrwWord o s anyBench fun s _ c v => .done s { c with fflags := v &&& 0x1F, pendF := unlandedFlags s c }

/-- CSRW_FRM (R160): a MODE of 0, 6 or 7 is illegal. -/
def execCsrwFrm (o : FmtI) (s : State) : Out :=
  csrwWord o s anyBench fun s _ c v =>
    if bits v 2 0 = 0 ∨ 6 ≤ bits v 2 0 then .trap 0x01 0xB else .done s (laterCsr c 0x002 (v &&& 7))

/-- CSRW_SRCTR (R165): the written value stands without the advance of a word of the same count. -/
def execCsrwSrctr (o : FmtI) (s : State) : Out := csrwWord o s anyBench fun s _ c v => .done s (laterCsr c 0x005 v)

/-- CSRW_STRICT (R111). -/
def execCsrwStrict (o : FmtI) (s : State) : Out := csrwWord o s anyBench fun s _ c v => .done s (laterCsr c 0x011 (v &&& 1))

/-- CSRW_MFLAGS (R261). -/
def execCsrwMflags (o : FmtI) (s : State) : Out :=
  csrwWord o s anyBench fun s _ c v => .done s { c with mflags := v &&& 0x17 }

/-- CSRW_TDEF (R218): it waits while the register carries a mark; its checks are made as it issues. -/
def execCsrwTdef (o : FmtI) (s : State) : Out :=
  csrwWord o s anyBench fun s k c v =>
    let t := csrNumber o - 0x40
    let w := tileDefinition v
    if marked s k c t then .stall s
    else if w ≠ 0 && !(regionOf w).valid k then .trap 0x01 0xA
    else .done s (laterCsr c (csrNumber o) w)

/-- CSRW_MSH (R274): each wheel takes the new share at its next revolution. -/
def execCsrwMsh (o : FmtI) (s : State) : Out :=
  csrwWord o s isReeve fun s _ c v =>
    if 16 < bits v 4 0 then .trap 0x01 0xB else .done { s with pkg := { s.pkg with msh := v &&& 0x1F } } c

/-- The fields BASE and SZ of a ring's base register. -/
def ringBits : Word := 0xFFFFFFFFF00F

/-- CSRW_FEVBASE (R376): both indices become 0, and events that waited for room are written. -/
def execCsrwFevbase (o : FmtI) (s : State) : Out :=
  csrwWord o s isReeve fun s _ c v =>
    if 10 < bits v 3 0 || !wholeInWindow (bits v 47 12 * 4096) (32 * 2 ^ (bits v 3 0 + 6)) then .trap 0x01 0xB
    else
      let f := { s.fabric with fevbase := v &&& ringBits, fevtail := 0, fevhead := 0 }
      .done (drainEvents { s with fabric := f } f.events.length) c

/-- CSRW_FEVHEAD (R381). -/
def execCsrwFevhead (o : FmtI) (s : State) : Out :=
  csrwWord o s isReeve fun s _ c v =>
    let f := { s.fabric with fevhead := v.truncate 32 }
    .done (drainEvents { s with fabric := f } f.events.length) c

/-- CSRW_TRQBASE (R388): both indices become 0, and records that waited for room are written. -/
def execCsrwTrqbase (o : FmtI) (s : State) : Out :=
  csrwWord o s isReeve fun s k c v =>
    if 6 < bits v 3 0 || !wholeInWindow (bits v 47 12 * 4096) (64 * 2 ^ (bits v 3 0 + 6)) then .trap 0x01 0xB
    else
      let cl := clusterOf k
      let r := { reeveAt s cl with trqbase := v &&& ringBits, trqtail := 0, trqhead := 0 }
      .done (drainTrapRing (putReeve s cl r) cl r.records.length) c

/-- CSRW_TRQHEAD (R388). -/
def execCsrwTrqhead (o : FmtI) (s : State) : Out :=
  csrwWord o s isReeve fun s k c v =>
    let cl := clusterOf k
    let r := { reeveAt s cl with trqhead := v.truncate 32 }
    .done (drainTrapRing (putReeve s cl r) cl r.records.length) c

/-- CSRW_SHOCKST (R419): FORCE alone is RW. -/
def execCsrwShockst (o : FmtI) (s : State) : Out :=
  csrwWord o s isReeve fun s _ c v =>
    .done { s with pkg := { s.pkg with shockst := fieldsOf 4 s.pkg.shockst v } } c

/-- Whether a bench may write a register that has no row of its own: SRSEED, SRSTRM and LVLSEL on every bench, the package's
registers with RW fields on a Reeve (R376, R388, R406, R412, R418); nothing else. -/
def plainMay (n k : Nat) : Bool :=
  match n with
  | 0x003 | 0x004 | 0x090 => true
  | 0x061 | 0x062 | 0x063 | 0x075 | 0x083 | 0x092 | 0x093 => isReeve k
  | _ => false

/-- A CSRW of a register without a row of its own; none where its value is refused (R376). -/
def plainWrite (s : State) (k : Nat) (c : Crew) (n : Nat) (v : Word) : Option (State × Crew) :=
  let p := s.pkg
  match n with
  | 0x003 => some (s, laterCsr c 0x003 v)
  | 0x004 => some (s, laterCsr c 0x004 (v &&& 0xFFFFFFFF))
  | 0x090 => some (s, { c with lvlsel := v &&& 0xFFF7 })
  | 0x061 => some ({ s with pkg := { p with eccce := v &&& 0xFFFFFFFF } }, c)
  | 0x062 => some ({ s with pkg := { p with eccue := v &&& 0xFFFFFFFF } }, c)
  | 0x063 => some ({ s with pkg := { p with eccaddr := v &&& 0x8000FFFFFFFFFFE0 } }, c)
  | 0x075 =>
    let a := v &&& 0xFFFFFFFFFFF8
    if a ≠ 0 && !wholeInWindow a.toNat 8 then none else some ({ s with fabric := { s.fabric with fevsem := a } }, c)
  | 0x083 =>
    let r := reeveAt s (clusterOf k)
    some (putReeve s (clusterOf k) { r with rqst := fieldsOf 0xFFFF r.rqst v }, c)
  | 0x092 => some ({ s with pkg := { p with droopst := fieldsOf 0xFFFFFFFFFF p.droopst v } }, c)
  | 0x093 => some ({ s with pkg := { p with linkst := fieldsOf 0xFFFFFFFF00000000 p.linkst v } }, c)
  | _ => none

/-- CSRW (R406). -/
def execCsrw (o : FmtI) (s : State) : Out :=
  csrwWord o s (plainMay (csrNumber o)) fun s k c v =>
    match plainWrite s k c (csrNumber o) v with
    | some (s, c) => .done s c
    | none => .trap 0x01 0xB

end Sys2Proof.Machine
end

