-- ==== Sys2Proof/Machine/System.lean ====
section
/-!
DEFINITION. The system words (R404): TRAP, ERET (R395), HALT (R407), CTXS and CTXL (R396-R399), TLBI (R78, R79, R408), ICINV
(R401), SPLOG (R409), with the events that complete them, and hardware errors (R402, R403).
-/
namespace Sys2Proof.Machine
open Sys2Proof.Config

/-! ### Words and targets (R385, R404) -/

/-- TRAP (R405). -/
def execTrap (o : FmtI) (s : State) : Out :=
  runWord s .s false (guardI o) [] [] fun _ _ _ _ => .software (o.imm.truncate 8)

/-- A privileged word of two operands: a bit of xA or xB that must be zero and is not is illegal (R404). -/
def privilegedWord (o : FmtA) (zeroA zeroB : Word) (s : State) (body : State → Nat → Crew → Word → Word → Effect) : Out :=
  runWord s .s true none (freesA o) (readsA o 2) fun s k _ c =>
    match poisonedX s c (numberedA o 2) with
    | some p => .trap 0x04 p
    | none =>
      let a := readX s c 0 o.ra
      let b := readX s c 1 o.rb
      if a &&& zeroA ≠ 0 || b &&& zeroB ≠ 0 then .trap 0x01 0xB else body s k c a b

/-- The bits of a bench reference that must be zero (Table 14.1). -/
def referenceZero : Word := 0xFFFFFC00

/-- The bench that a reference names: in the Reeve's cluster, with a crew of that identifier that is not cancelled (R385, R394). -/
def targetCrew (s : State) (k : Nat) (ref : Word) : Option (Nat × Crew) :=
  let slot := bits ref 5 0 * 16 + bits ref 9 6
  if bits ref 5 0 / 8 ≠ clusterOf k then none
  else
    match crewAt s slot with
    | none => none
    | some c => if c.crewId % 2 ^ 32 == bits ref 63 32 && !crewCancelled s c then some (slot, c) else none

/-- A status that lands in the clk after the word completes (R397). -/
def status (c : Crew) (o : FmtA) (v : Nat) : Crew := pendX c .s o.rd (BitVec.ofNat 64 v) false 1

/-- Whether a context word on a bench is under way. -/
def inTransfer (s : State) (slot crewId : Nat) (op : ContextOp) : Bool :=
  (reeveAt s (clusterOf slot)).transfers.any fun t => t.slot == slot && t.crewId == crewId && t.op == op

/-! ### Leaving a trap (R395) -/

/-- Whether an entry of the log is held at a fault. -/
def heldEntry (e : LogEntry) : Bool := e.faulted && heldCode e.code

/-- Makes a HELD crew's oldest held fault into its trap (R395). -/
def deliverFault (s : State) (k : Nat) (c : Crew) (e : LogEntry) : State :=
  takeTrap (putCrew s k c) k none e.code 0 e.pc e.addr (liveIndex c e.seq)

/-- Releases a held access, which translates afresh; a held command goes on from it. -/
def releaseHeld (s : State) (k : Nat) (c : Crew) (e : LogEntry) : State :=
  let isCmd := match e.kind with | .cmd => true | _ => false
  let c := modLog c e.seq fun e =>
    { e with faulted := false, ri := false, code := 0, phase := if isCmd then .going else .translating }
  let c := if c.state = .held && !(c.log.any heldEntry) then { c with state := .running } else c
  let s := putCrew s k c
  if isCmd then requeue s k c e else s

/-- Resumes a TRAPPED crew at the count where it stopped: TRAP's word counts as completed, and the marked entries of its log are
issued again (R393, R395). -/
def resumeCrew (s : State) (k : Nat) (c : Crew) : State :=
  let c := { c with state := .running, step := false, stepAt := none, lvlsel := 0 }
  let c :=
    if bits c.trapcause 7 0 = 0x60 then
      let (pc, loops) := wordAfter c.s
      complete c .s pc loops
    else c
  reissue (putCrew s k c) k

/-- What ERET does to its target. -/
def eretOn (s : State) (k : Nat) (c : Crew) (step deliver : Bool) : Nat × State :=
  let arm (s : State) : State := modCrew s k fun c => { c with step := step, stepAt := none }
  if inTransfer s k c.crewId .out then (2, s)
  else
    match c.state with
    | .running => (2, s)
    | .trapped => (0, arm (resumeCrew s k c))
    | .held =>
      match c.log.find? heldEntry with
      | none => (0, arm (putCrew s k { c with state := .running }))
      | some e => if deliver then (0, deliverFault s k c e) else (0, arm (releaseHeld s k c e))

/-- ERET (R395). -/
def execEret (o : FmtA) (s : State) : Out :=
  privilegedWord o referenceZero 0xFFFFFFFFFFFFFFFC s fun s k c a b =>
    match targetCrew s k a with
    | none => .done s (status c o 1)
    | some (slot, t) =>
      let (st, s) := eretOn s slot t (b.getLsbD 0) (b.getLsbD 1)
      .done s (status c o st)

/-! ### HALT (R407) -/

/-- Whether a Reeve's trap ring is empty. -/
def ringEmpty (s : State) (cl : Nat) : Bool := (reeveAt s cl).trqhead == (reeveAt s cl).trqtail

/-- HALT (R407). -/
def execHalt (_ : FmtA) (s : State) : Out :=
  runWord s .s true none [] [] fun s k _ c => if ringEmpty s (clusterOf k) then .stall s else .done s c

/-- HALT_WAKE (R407): a Reeve whose due word is HALT resumes once a record is written. -/
def execHaltWake (cluster : Nat) (s : State) : Out :=
  let k := 1024 + cluster
  match crewAt s k with
  | none => .next s
  | some c =>
    if groupMay s k && isDue c .s && !ringEmpty s cluster then
      match c.s.fetched with
      | some w =>
        match decodeWord w with
        | .ok (.halt o) => execHalt o { s with cur := .crew k .s }
        | _ => .next s
      | none => .next s
    else .next s

/-! ### SPLOG (R409) -/

/-- A doubleword of a stopped crew's log. -/
def logWord (c : Crew) (i k : Nat) : Word :=
  match c.log[i]? with
  | some e => (entryWords e).getD k 0
  | none => 0

/-- SPLOG (R409): bound 24. -/
def execSplog (o : FmtA) (s : State) : Out :=
  privilegedWord o referenceZero 0xFFFFFFFFFFFFE000 s fun s k c a b =>
    let v := match targetCrew s k a with
      | some (_, t) => if t.state = .running then BitVec.allOnes 64 else logWord t (bits b 9 0) (bits b 12 10)
      | none => BitVec.allOnes 64
    .done s (pendX c .s o.rd v false 24)

/-! ### TLBI and ICINV (R78, R79, R401, R408) -/

/-- Whether an extent of addresses from a first one covers part of n bytes at a; an extent of 0 covers everything. -/
def sweeps (w : Sweep) (a n : Nat) : Bool := w.extent == 0 || (decide (a < w.first + w.extent) && decide (w.first < a + n))

/-- The sweep of a word: its job, where it is open. -/
def newSweep (s : State) (job first extent : Nat) : Sweep :=
  { seq := s.stamp, job := if (rootOf s job).isSome then some job else none, first := first, extent := extent }

/-- TLBI (R408). -/
def execTlbi (o : FmtA) (s : State) : Out :=
  privilegedWord o 0xFFFF00000000FFFF 0xFFFFFFF000000000 s fun s k c a b =>
    let w := newSweep s (bits b 35 32) a.toNat (bits b 31 0 * 65536)
    let r := reeveAt s (clusterOf k)
    .done (bump (putReeve s (clusterOf k) { r with tlbi := r.tlbi ++ [w] })) (awaitX c o.rd w.seq true false)

/-- ICINV (R401). -/
def execIcinv (o : FmtA) (s : State) : Out :=
  privilegedWord o 0 0 s fun s k c a b =>
    let w := newSweep s (bits b 35 32) a.toNat (bits b 31 0)
    let r := reeveAt s (clusterOf k)
    .done (bump (putReeve s (clusterOf k) { r with icinv := r.icinv ++ [w] })) (awaitX c o.rd w.seq true false)

/-- Bytes that an entry of the pointer cache covers, by its key's level. -/
def pointerSpan (key : Nat) : Nat := match key / 2 ^ 48 % 4 with | 1 => 2 ^ 39 | 2 => 2 ^ 30 | _ => 2 ^ 23

/-- Step 1 of a TLBI: the entries of the job in the range leave every TLB and the pointer cache; the guard-table entries, which
no virtual page holds, are read afresh (R338). -/
def dropEntries (s : State) (w : Sweep) (job : Nat) : State :=
  let kept (l : List TlbEntry) : List TlbEntry := l.filter fun e =>
    let n := if e.large then 2 ^ 23 else 65536
    !(e.job == job && sweeps w (e.page * n) n)
  { s with
    tlb := kept s.tlb
    cores := s.cores.map fun q => (q.1, { q.2 with tlb := kept q.2.tlb })
    pointers := s.pointers.filter fun q =>
      !(q.1 / 2 ^ 50 == job && sweeps w (q.1 % 2 ^ 48 * pointerSpan q.1) (pointerSpan q.1))
    guards := s.guards.filter fun q => q.1 / 512 != job }

/-- Whether a TLBI removes an entry through which an address of the job translates: one of its page, or a large one that meets
the range in the last-level TLB or in that of core k (R78). -/
def sweptThrough (s : State) (w : Sweep) (job k va : Nat) : Bool :=
  sweeps w (va / 65536 * 65536) 65536 ||
    (sweeps w (va / 2 ^ 23 * 2 ^ 23) (2 ^ 23) &&
      (s.tlb ++ (coreAt s k).tlb).any fun t => t.job == job && t.large && t.page == va / 2 ^ 23)

/-- Whether an entry's access was translated through an entry that a TLBI removes, and is still to be performed. -/
def sweptAccess (s : State) (w : Sweep) (job k : Nat) (e : LogEntry) : Bool :=
  match e.kind with
  | .cmd | .semsig _ | .seminit _ | .fence _ _ => false
  | _ => e.phase == .going && !e.faulted && e.data.isEmpty && sweptThrough s w job (coreOf k) e.opa.toNat

/-- Whether an access must be translated afresh rather than waited for: it waits on memory, or stands behind a fault, a wait on
memory or an engine command (R79). -/
def sweepsAfresh (s : State) (k : Nat) (c : Crew) (e : LogEntry) : Bool :=
  match e.kind with
  | .waitc | .msemwait => e.tag.isNone
  | _ => e.tag.isNone && (earlierThan c e ++ [e]).any fun f => f.faulted || isWait f || behindCommands s k c f

/-- The crews of a job. -/
def crewsOf (s : State) (job : Nat) : List (Nat × Crew) := s.crews.filter fun q => !isReeve q.1 && jobOf s q.2 == job

/-- Step 3 of a TLBI: no access translated through a removed entry is left to be performed, nor to be answered by a lender. -/
def sweptAll (s : State) (w : Sweep) (job : Nat) : Bool :=
  ((crewsOf s job).all fun q => q.2.log.all fun e => !sweptAccess s w job q.1 e || sweepsAfresh s q.1 q.2 e) &&
    !(s.lent.any fun a => a.opc != 0 && a.job == job && sweeps w a.va a.len && a.answer.isNone)

/-- Accesses that wait translate afresh. -/
def retranslate (s : State) (w : Sweep) (job : Nat) : State :=
  let again (k : Nat) (c : Crew) (e : LogEntry) : LogEntry :=
    if sweptAccess s w job k e && sweepsAfresh s k c e then { e with phase := .translating, target := none } else e
  (crewsOf s job).foldl (fun s q => putCrew s q.1 { q.2 with log := q.2.log.map (again q.1 q.2) }) s

/-- TLBI_COMPLETE (R78, R79): the oldest TLBI of a cluster's Reeve. -/
def execTlbiComplete (cluster : Nat) (s : State) : Out :=
  .next (
    let r := reeveAt s cluster
    match r.tlbi with
    | [] => s
    | w :: rest =>
      let s' := putReeve s cluster { r with tlbi := rest }
      match w.job with
      | none => deliverStatus s' cluster w.seq 1
      | some job => if sweptAll s w job then deliverStatus (dropEntries (retranslate s' w job) w job) cluster w.seq 0 else s)

/-- Whether every store of a Reeve before a word is performed (R401). -/
def storesDone (s : State) (cluster seq : Nat) : Bool :=
  match crewAt s (1024 + cluster) with
  | none => true
  | some c => !(c.log.any fun e => entryWrites e && decide (e.seq < seq)) && !(c.vstores.any fun v => decide (v.seq < seq))

/-- A crew without the words that it has fetched and not issued; a wait that such a word had begun on memory goes with it,
unless a lender is asked already (R401). -/
def unfetched (c : Crew) : Crew :=
  { c with s := { c.s with fetched := none }, v := { c.v with fetched := none }
           log := c.log.filter fun e => !(isWait e && !displaced c e && !e.faulted && e.tag.isNone) }

/-- A crew leaves the waiters of its core's semaphores: the word that waited is discarded (R399, R401). -/
def leaveWaiters (s : State) (k : Nat) : State :=
  let core := coreAt s (coreOf k)
  putCore s (coreOf k) { core with
    sems := core.sems.map fun e => (e.1, { e.2 with waiters := e.2.waiters.filter (· != .crew k) }) }

/-- The lines of a job in a range leave every instruction cache, and the job's fetched words are discarded (R401). -/
def dropLines (s : State) (w : Sweep) (job : Nat) : State :=
  let s := { s with cores := s.cores.map fun q =>
      (q.1, { q.2 with icache := q.2.icache.filter fun l => !(l.job == job && sweeps w (l.line * 64) 64) }) }
  (crewsOf s job).foldl (fun s q => putCrew (leaveWaiters s q.1) q.1 (unfetched q.2)) s

/-- ICINV_COMPLETE (R401): the oldest ICINV of a cluster's Reeve. -/
def execIcinvComplete (cluster : Nat) (s : State) : Out :=
  .next (
    let r := reeveAt s cluster
    match r.icinv with
    | [] => s
    | w :: rest =>
      if !storesDone s cluster w.seq then s
      else
        let s := putReeve s cluster { r with icinv := rest }
        match w.job with
        | none => deliverStatus s cluster w.seq 1
        | some job => deliverStatus (dropLines s w job) cluster w.seq 0)

/-! ### Saving a context (R396, R397) -/

/-- Whether nothing that a crew has issued can still be performed: what is left is faulted, behind a fault, a wait or a command. -/
def crewSettled (c : Crew) : Bool :=
  c.vstores.isEmpty && c.log.all fun e =>
    (match e.kind with | .cmd => true | _ => false) || e.faulted || (isWait e && e.tag.isNone) || (earlierThan c e).any (·.faulted)

/-- Whether a lender has met the condition of a crew's wait, so that its word counts as issued. -/
def metWait (c : Crew) : Option (LogEntry × Word) :=
  match waitEntry c with
  | none => none
  | some e =>
    match e.data with
    | v :: _ =>
      let met : Bool := match e.kind with | .msemwait => v != 0 | _ => decide (v.toNat ≤ e.opb.toNat)
      if met then some (e, v) else none
    | [] => none

/-- A crew whose met wait has issued. -/
def endMetWait (c : Crew) : Crew :=
  match metWait c with
  | none => c
  | some (e, v) =>
    let (pc, loops) := wordAfter c.s
    pendX (complete (freeLog c e.seq) .s pc loops) .s (BitVec.ofNat 6 e.rd) v false 0

/-- A crew as its context is taken: every issued word has landed (R118), and CSRs, flags and buffers have their values. -/
def settledCrew (n : Nat) (c : Crew) : Crew :=
  let c := landAll n (endMetWait c)
  let c := c.csrPend.foldl (fun c p => storeCsr c p.1 p.2.1) { c with csrPend := [] }
  let circ := c.circ.map fun q =>
    let b := q.2
    let k := b.releasing.length
    (q.1, { b with releasing := [], free := if b.out then b.free else b.free + k, fill := if b.out then b.fill + k else b.fill })
  { c with fflags := c.pendF.foldl (fun w p => w ||| p.2.2.zeroExtend 64) c.fflags, pendF := [], circ := circ,
           log := (c.log.filter fun e => !isWait e || e.faulted || displaced c e).map fun e =>
             if displaced c e then { e with ri := true } else e }

/-- Writes a member's image and its save area, with the marks of its commands; false where an access faults (R396, R397). -/
def saveMember (s : State) (k : Nat) (c : Crew) (cmds : List EngCmd) (state image : Nat) : Bool × State :=
  let job := jobOf s c
  let w := contextWords s k c cmds state image
  let area := match unitOf s c with | some u => saveArea u.docket c.member | none => 0
  let (ok, s) := if image = 0 then (true, s) else writeImage s k job c.tdef.toList image
  if ok then writeContext s (coreOf k) job area w else (false, s)

/-- A crew's unstarted commands are withdrawn into its log (R397): they leave their queues and its waits. -/
def withdrawn (s : State) (k : Nat) : State :=
  match crewAt s k with
  | none => s
  | some c =>
    let log := c.log.map fun e => match e.kind with | .cmd => { e with ri := true } | _ => e
    modCrew (discardUnstarted s k) k fun c => { c with log := log }

/-- Bytes of a crew's image. -/
def imageBytes (c : Crew) : Nat := ((imageRegions c.tdef.toList).map (·.size)).foldl (· + ·) 0

/-- Saves the members of a group with OUT, each with its image behind the last one's (R397, log 25). -/
def saveOut (s : State) (image : Nat) : List Nat → Bool × State
  | [] => (true, s)
  | k :: rest =>
    match crewAt s k with
    | none => saveOut s image rest
    | some c =>
      let cmds := crewCmds s k c
      let s := withdrawn (putCrew s k { settledCrew s.free c with
                  trapcause := 0x70, trappc := c.s.pc &&& 0xFFFFFFFFFFFF, trapaddr := 0 }) k
      match crewAt s k with
      | none => saveOut s image rest
      | some c =>
        match saveMember s k c cmds 2 image with
        | (true, s) => saveOut s (if image = 0 then 0 else image + imageBytes c) rest
        | r => r

/-- Frees the benches of a group that is saved; its unit waits to be resumed. -/
def freeGroup (s : State) (uid : Nat) (members : List Nat) : State :=
  let homes (u : WorkUnit) : List (Option Nat) := (List.range (Docket.lsz u.docket + 1)).map fun i =>
    if u.left.contains i then none
    else match members.find? fun m => crewIs s m (·.member == i) with | some m => some (coreOf m) | none => none
  let units := s.units.map fun q => if q.1 = uid then (q.1, { q.2 with home := homes q.2, members := [] }) else q
  members.foldl (fun s m => { s with crews := mapErase s.crews m }) { s with units := units }

/-- The state to which a crew goes back when its pre-emption is given up. -/
def ungive (c : Crew) : Crew := { c with state := if c.log.any heldEntry then .held else .running }

/-- Whether a group's pre-emption must be given up: an event of Table 14.7 above it has struck (R394). -/
def outRefused (s : State) (members : List Nat) : Bool :=
  members.any fun m => crewIs s m fun c =>
    c.log.any (·.faulted) || !c.late.isEmpty || (crewCmds s m c).any (·.held)

/-- Whether a group is ready to be saved: its issued words have landed and its started commands are complete (R397). -/
def outReady (s : State) (members : List Nat) : Bool :=
  members.all fun m => crewIs s m fun c => crewSettled c && !((crewCmds s m c).any (·.started)) && !docketStall s m

/-- A CTXS.OUT whose target is ready to be saved, or has met an event. -/
def finishOut (s : State) (c : Crew) (t : Transfer) : Option (Nat × State) :=
  let ms := membersOf s t.slot
  let back (s : State) : State := ms.foldl (fun s m => modCrew s m ungive) s
  if outRefused s ms then some (2, back s)
  else if outReady s ms then
    match saveOut s t.image ms with
    | (true, s') => some (0, freeGroup s' c.uid ms)
    | (false, _) => some (5, back s)
  else none

/-- A CTXS.SNAP of a TRAPPED crew that has settled. -/
def finishSnap (s : State) (c : Crew) (t : Transfer) : Option (Nat × State) :=
  if c.state ≠ .trapped then some (2, s)
  else if crewSettled c then
    match saveMember s t.slot (settledCrew s.free c) (crewCmds s t.slot c) 1 t.image with
    | (true, s) => some (0, s)
    | (false, _) => some (5, s)
  else none

/-- A CTXL.INTO of a TRAPPED crew that has settled (R399). -/
def finishInto (s : State) (c : Crew) (t : Transfer) : Option (Nat × State) :=
  if c.state ≠ .trapped then some (2, s)
  else if crewSettled c then
    let area := match unitOf s c with | some u => saveArea u.docket c.member | none => 0
    match readContext s (coreOf t.slot) (jobOf s c) area with
    | (none, s) => some (5, s)
    | (some w, s) =>
      if (w.getD 9 0).toNat ≠ 1 then some (2, s)
      else
        let d := loadContext c w s.stamp
        let s := if d.s.pc = c.s.pc ∧ d.s.last = c.s.last then s else leaveWaiters s t.slot
        some (0, putCrew { s with stamp := s.stamp + 672 } t.slot
          { d with late := c.late.filter fun q => d.log.any fun e => e.seq == q && e.faulted })
  else none

/-- Carries a context word as far as it goes: its status and the state, or the state in which it must wait. -/
def finishTransfer (s : State) (t : Transfer) : Except State (Nat × State) :=
  match crewAt s t.slot with
  | none => .ok (1, s)
  | some c =>
    if c.crewId ≠ t.crewId || crewCancelled s c then .ok (1, s)
    else if s.pkg.hold then .error s
    else
      let r := match t.op with
        | .out => finishOut s c t
        | .snap => finishSnap s c t
        | .into => finishInto s c t
      -- An access that must wait leaves the word under way.
      match r with
      | some (st, t) => if t.balked then .error (keepWalks s t) else .ok (st, t)
      | none => .error s

/-- PREEMPT_COMPLETE (R397): a context word under way on a bench completes. -/
def execPreemptComplete (slot : Nat) (s : State) : Out :=
  .next (
    let cl := clusterOf slot
    let r := reeveAt s cl
    match r.transfers.find? (·.slot == slot) with
    | none => s
    | some t =>
      match finishTransfer s t with
      | .error s => s
      | .ok (st, s) =>
        let r := reeveAt s cl
        deliverStatus (putReeve s cl { r with transfers := r.transfers.filter (· != t) }) cl t.seq st)

/-- The status that a CTXS gets before it touches its target (R397). -/
def saveStatus (s : State) (c : Crew) (image : Nat) (refused : Bool) : Nat :=
  let d := match unitOf s c with | some u => u.docket | none => []
  if refused then 2
  else if Docket.save d = 0 then 3
  else if image ≠ 0 && (!Docket.mig d || c.claim.isSome) then 4
  else 0

/-- Begins a context word: it completes at once where it can (R397). -/
def startTransfer (s : State) (k : Nat) (c : Crew) (o : FmtA) (t : Transfer) : Effect :=
  match finishTransfer s t with
  | .ok (st, s) => .done s (status c o st)
  | .error s =>
    let r := reeveAt s (clusterOf k)
    .done (bump (putReeve s (clusterOf k) { r with transfers := r.transfers ++ [t] })) (awaitX c o.rd t.seq true false)

/-- CTXS.SNAP (R397). -/
def execCtxsSnap (o : FmtA) (s : State) : Out :=
  privilegedWord o referenceZero 0xFFFF00000000003E s fun s k c a b =>
    let image := bits b 47 6 * 64
    match targetCrew s k a with
    | none => .done s (status c o 1)
    | some (slot, t) =>
      let st := saveStatus s t image (t.state != .trapped || inTransfer s slot t.crewId .out)
      if st ≠ 0 then .done s (status c o st)
      else startTransfer s k c o { op := .snap, slot := slot, crewId := t.crewId, seq := s.stamp, image := image }

/-- Whether a member of a group may not be pre-empted: it is TRAPPED or HELD, or an event of Table 14.7 is due (R394, R397). -/
def outBarred (s : State) (m : Nat) : Bool :=
  crewIs s m fun c => c.state != .running || !c.late.isEmpty || c.stepAt.isSome

/-- CTXS.OUT (R397): the group takes PREEMPT at its count, and the word completes with its saving. -/
def execCtxsOut (o : FmtA) (s : State) : Out :=
  privilegedWord o referenceZero 0xFFFF00000000003E s fun s k c a b =>
    let image := bits b 47 6 * 64
    match targetCrew s k a with
    | none => .done s (status c o 1)
    | some (slot, t) =>
      let ms := membersOf s slot
      let open_ := ms.any fun m => crewIs s m (·.claim.isSome)
      let st := saveStatus s { t with claim := if open_ then some 0 else none } image (ms.any (outBarred s))
      if st ≠ 0 then .done s (status c o st)
      else
        let s := ms.foldl (fun s m => modCrew s m fun c => { c with state := .trapped }) s
        startTransfer s k c o { op := .out, slot := slot, crewId := t.crewId, seq := s.stamp, image := image }

/-! ### Loading a context (R399) -/

/-- CTXL.INTO (R399). -/
def execCtxlInto (o : FmtA) (s : State) : Out :=
  privilegedWord o referenceZero 0xFFFFFFFFFFFFFFFE s fun s k c a _ =>
    match targetCrew s k a with
    | none => .done s (status c o 1)
    | some (slot, t) =>
      if t.state ≠ .trapped || inTransfer s slot t.crewId .out then .done s (status c o 2)
      else startTransfer s k c o { op := .into, slot := slot, crewId := t.crewId, seq := s.stamp, image := 0 }

/-- Whether a unit is switched out: dispatched, not retired, and on no bench. -/
def switchedOut (s : State) (u : WorkUnit) : Bool :=
  u.dispatched && u.members.isEmpty && !u.cancelled && !(s.crews.any (·.2.uid == u.uid))

/-- The unit whose save area of member 0 stands at an address: one that is switched out, or else one whose crews are on benches. -/
def savedUnit (s : State) (va : Word) : Option WorkUnit :=
  let at_ := (s.units.map (·.2)).filter fun u => u.dispatched && !u.cancelled && BitVec.ofNat 64 (Docket.save u.docket) == va
  (at_.find? (switchedOut s)).or (at_.find? fun u => s.crews.any (·.2.uid == u.uid))

/-- Whether every member of a saved unit has its image and no open claim set (R399); none where an access faults. -/
def movable (s : State) (core : Nat) (u : WorkUnit) : List Nat → Option Bool × State
  | [] => (some true, s)
  | m :: rest =>
    match readVirtual s core (Docket.job u.docket) (saveArea u.docket m + 0x50) 8 .load false with
    | (.error _, s) => (none, s)
    | (.ok bs, s) =>
      match movable s core u rest with
      | (some b, s) => (some (b && (bytesWord bs).getLsbD 8 && !(bytesWord bs).getLsbD 9), s)
      | r => r

/-- A saved unit as its resume docket: with its docket's PRIO, and free to change core where its docket has MIG and the
condition for migration holds (R58, R399). -/
def resuming (u : WorkUnit) (free : Bool) : WorkUnit :=
  { u with kind := .resume, dispatched := false, prio := Docket.prio u.docket,
           home := if free && Docket.mig u.docket then u.home.map fun _ => none else u.home }

/-- CTXL.RESUME (R399). -/
def execCtxlResume (o : FmtA) (s : State) : Out :=
  privilegedWord o 0 0xFFFFFFFFFFFFFFFE s fun s k c a _ =>
    match savedUnit s a with
    | none => .done s (status c o 1)
    | some u =>
      match readVirtual s (coreOf k) (Docket.job u.docket) (a.toNat + 0x48) 8 .load false with
      | (.error _, s) => .done s (status c o 5)
      | (.ok bs, s) =>
        if bytesValue bs ≠ 2 || !switchedOut s u then .done s (status c o 2)
        else
          match movable s (coreOf k) u (remainingMembers u) with
          | (none, s) => .done s (status c o 5)
          | (some free, s) =>
            let s := { s with units := mapSet s.units u.uid (resuming u free) }
            if storeRoom s then .done (intoStore s u.uid) (status c o 0)
            else
              .done (bump { s with dispatcher := { s.dispatcher with
                  waiting := s.dispatcher.waiting ++ [.enqueue u.uid (some (clusterOf k, s.stamp))] } })
                (awaitX c o.rd s.stamp true false)

/-! ### Hardware errors (R402, R403) -/

/-- Everything that a crew drives stops where it stands and signals nothing; the crew is gone (R403). -/
def loseCrew (s : State) (k : Nat) : State :=
  match crewAt s k with
  | none => s
  | some c =>
    let core := coreOf k
    let s := (crewCmds s k c).foldl (fun s e => dropRequests (dropCmd s core e) core e.id) s
    let s := releaseCore s k c.crewId
    let k' := coreAt s core
    let mine (w : Waiter) : Bool := match w with | .crew j => j == k | .cmd j _ => j == k
    let s := putCore s core { k' with sems := k'.sems.map fun q => (q.1, { q.2 with waiters := q.2.waiters.filter (!mine ·) }) }
    { s with
      crews := mapErase s.crews k
      dispatcher := { s.dispatcher with waiting := s.dispatcher.waiting.filter fun w =>
        match w with | .spawn j _ => j != k | _ => true } }

/-- The record of a crew that a hardware error has struck (R403). -/
def lossRecord (k job : Nat) (c : Crew) (kind : Nat) (code : BitVec 8) : Record :=
  trapRecord kind 0x41 0 false job (benchRef k c) c.s.pc (code.zeroExtend 64) c.counter 0xFFFF

/-- HARDWARE_ERROR (R394, R403): the crew's group stops at once; its unit runs again or is lost, as soon as the accesses that
this takes can be made. A Reeve is restarted by the Clerk (R383). -/
def execHardwareError (slot : Nat) (code : BitVec 8) (s : State) : Out :=
  .next (match crewAt s slot with
    | none => s
    | some c =>
      if isResidue slot then s
      else if isReeve slot then restartReeve { s with crews := mapErase s.crews slot } (clusterOf slot)
      else
        match unitOf s c with
        | none => loseCrew s slot
        | some u =>
          let gone := (groupOf s slot c).foldl loseCrew s
          if u.cancelled then loseUnit gone u
          else
            let job := jobOf s c
            let rerun := lossRecord slot job c 4 code
            let lost := lossRecord slot job c 3 code
            orWaits gone (.struck u.uid (coreOf slot) rerun lost) fun s => settleStruck s u (coreOf slot) rerun lost)

end Sys2Proof.Machine
end

