-- ==== Sys2Proof/Machine/Health.lean ====
section
/-!
DEFINITION. The package's condition (chapter 15): the boot with its self-test (R383, R419-R421, R423), droop, HOLD and the orderly
stop (R415, R416), the retraining of Ngugrim and of the fabric links (R49, R355, R417), shocks (R419) and wear (R422).
-/
namespace Sys2Proof.Machine
open Sys2Proof.Config

/-! ### Boot (R383, R419-R421, R423) -/

/-- Whether the next boot's self-test is forced (R419, R421): a shock since the last passed full one, a depleted store, FORCE. -/
def testForced (s : State) : Bool := bits s.pkg.shockst 31 16 != 0 || s.pkg.shockst.getLsbD 3 || s.pkg.shockst.getLsbD 2

/-- Cores that a mask disables. -/
def coresIn (mask : Word) : Nat := ((List.range 64).filter (mask.getLsbD ·)).length

/-- Whether a boot's outcome is one that R419 to R421 allow: a forced test is full, a failing one too, and more than 8 disabled
cores fail. -/
def bootAllowed (s : State) (b : BootOutcome) : Bool :=
  b.forced == testForced s && (!b.forced || b.full) && (b.failStep == 0 || b.full) &&
    (decide (coresIn b.coredis ≤ 8) || b.failStep != 0)

/-- BOOTST after a self-test (Table 02.1). -/
def bootStatus (b : BootOutcome) : Word :=
  BitVec.ofNat 64 (coresIn b.coredis * 2 ^ 24 + b.failStep.toNat * 2 ^ 16 + (if b.forced then 8 else 0) + (if b.full then 4 else 0) +
    (if b.failStep = 0 then 0 else 2) + 1)

/-- SHOCKST after a self-test (Table 15.5): a passed full one clears the log and FORCE, a failed one sets FORCE. -/
def testedShock (w : Word) (b : BootOutcome) : Word :=
  let w := (w &&& ~~~1) ||| (if b.full then 1 else 0)
  if b.failStep ≠ 0 then (w &&& ~~~2) ||| 4
  else if b.full then (w &&& 8) ||| 3
  else w ||| 2

/-- The state of a package reset: everything at reset but the turns to come, what the memories hold (log 4), and the registers
that reset keeps. -/
def packageReset (s : State) : State :=
  { State.reset with
    agenda := s.agenda, cur := s.cur, free := s.free, stamp := s.stamp, nextCrew := s.nextCrew, hbm := s.hbm, spad := s.spad,
    ctl := s.ctl, code := s.code, eccPoison := s.eccPoison, eccErr := s.eccErr, eccStuck := s.eccStuck, spadStuck := s.spadStuck
    pkg := { Package.reset with droopst := s.pkg.droopst &&& 0xFF00000000000000, shockst := s.pkg.shockst, shocks := s.pkg.shocks } }

/-- Starts the Reeve of every cluster (R383). -/
def startReeves (s : State) : State := (List.range clusters).foldl startReeve s

/-- PACKAGE_BOOT (R423): a bad signature leaves the package in reset, and the failure is reported on Ngugrim: where is not
stated (log 81); otherwise the self-test's outcome, the fabric's configuration and the Reeves. -/
def execPackageBoot (b : BootOutcome) (s : State) : Out :=
  .next (
    let r := packageReset s
    if !b.signatureOk then { r with pkg := { r.pkg with signatureFailed := true } }
    else if !bootAllowed s b then s
    else
      let passed := b.failStep == 0
      let pkg := { r.pkg with
        node := b.node.zeroExtend 64
        shockst := testedShock r.pkg.shockst b
        shocks := if passed && b.full then [] else r.pkg.shocks
        repair := BitVec.ofNat 64 (b.spfree.toNat * 2 ^ 48 + b.hbmfree.toNat * 2 ^ 16 + b.used.toNat)
        coredis := b.coredis
        inReset := false
        signatureFailed := false
        enBlocked := !passed }
      startReeves
        { r with
          pkg := pkg
          -- A passed full self-test has repaired every failing scratchpad row, or disabled its core (R420).
          spadStuck := if passed && b.full then [] else r.spadStuck
          port := { r.port with bootst := bootStatus b }
          fabric := { r.fabric with frame := b.frame.toNat, routes := b.routes.foldl (fun m r => mapSet m r.1 r.2) [] } })

/-! ### Droop (R415) -/

/-- Adds 1 to a counter field that holds at its maximum. -/
def countField (w : Word) (hi lo : Nat) : Word := withBits w hi lo (min (bits w hi lo + 1) (2 ^ (hi + 1 - lo) - 1))
/-- Adds 1 to a counter field that wraps. -/
def wrapField (w : Word) (hi lo : Nat) : Word := withBits w hi lo ((bits w hi lo + 1) % 2 ^ (hi + 1 - lo))

/-- Changes the package's registers. -/
def modPackage (s : State) (f : Package → Package) : State := { s with pkg := f s.pkg }

/-- DROOP_DETECT (R415): level 1; counts, bounds and results do not change. -/
def execDroopDetect (cluster : Nat) (s : State) : Out :=
  .next (if clusters ≤ cluster || s.pkg.stretched.getLsbD cluster then s
    else modPackage s fun p => { p with stretched := p.stretched ||| (1#8 <<< cluster), droopst := countField p.droopst 19 0 })

/-- DROOP_RECOVER (R415). -/
def execDroopRecover (cluster : Nat) (s : State) : Out :=
  .next (modPackage s fun p => { p with stretched := p.stretched &&& ~~~(1#8 <<< cluster) })

/-- HOLD_ENTRY (R415): level 2. -/
def execHoldEntry (s : State) : Out :=
  .next (if s.pkg.hold then s else modPackage s fun p => { p with hold := true, droopst := countField p.droopst 39 20 })

/-- HOLD_EXIT (R415): the supply has held its range; the length is in units of 100 µs. Trap and event records that waited
for HBM are written. -/
def execHoldExit (len : BitVec 12) (s : State) : Out :=
  .next (if s.pkg.hold then
      drainRings (modPackage s fun p =>
        { p with hold := false, stretched := 0, droopst := withBits p.droopst 51 40 len.toNat })
    else s)

/-! ### The orderly stop (R416) -/

/-- A level that is open ends CANCELLED. -/
def stopLevel (s : State) (key : Nat) : State :=
  let l := mapGetD s.levels key .never
  if l.state = .active ∨ l.state = .cancelling then
    settleLevel { s with levels := mapSet s.levels key { l with state := .cancelling, count := 0 } } (key / 65536, key % 65536)
  else s

/-- ORDERLY_STOP (R416): cause 1 ends a HOLD, cause 2 is the supply; every crew is lost, every open level ends CANCELLED, the
cause is kept, and the package powers down. -/
def execOrderlyStop (cause : BitVec 8) (s : State) : Out :=
  .next (if !(cause = 2 || (cause = 1 && s.pkg.hold)) then s
    else
      let s := { s with crews := [], units := [], replays := [], dispatcher := State.reset.dispatcher
                        port := { s.port with current := none } }
      let s := (s.levels.map (·.1)).foldl stopLevel s
      let r := packageReset s
      { r with pkg := { r.pkg with powered := false, droopst := withBits r.pkg.droopst 63 56 cause.toNat } })

/-! ### Retraining (R49, R355, R417) -/

/-- NGUGRIM_RETRAIN_START (R49). -/
def execNgugrimRetrainStart (s : State) : Out :=
  .next (if s.port.retrain then s
    else
      modPackage { s with port := { s.port with retrain := true } } fun p =>
        { p with linkst := wrapField (p.linkst ||| 0x1000) 63 48 })

/-- NGUGRIM_RETRAIN_END (R49): level-ended records that waited are written, in their order. -/
def execNgugrimRetrainEnd (s : State) : Out :=
  .next (if s.port.retrain then
      flushEnded (modPackage { s with port := { s.port with retrain := false } } fun p => { p with linkst := p.linkst &&& ~~~0x1000 })
    else s)

/-- Whether a scalar access waits for Ngugrim. -/
def waitsNgugrim (e : LogEntry) : Bool :=
  match e.kind, e.target with
  | .cmd, _ | .fence _ _, _ | _, none => false
  | _, some t => t.tier == 2 && e.phase == .going && !e.faulted

/-- A crew's waiting accesses to control-node memory end (R417): LDS poisons its register (R148). -/
def endTier2 (s : State) (k : Nat) : State :=
  match crewAt s k with
  | none => s
  | some c => (c.log.filter waitsNgugrim).foldl (fun s e =>
      match crewAt s k with
      | some c => remoteTimeout s k c e
      | none => s) s

/-- The state that an event gives. -/
def after (s : State) : Out → State
  | .next t => t
  | _ => s

/-- The commands of a core that wait for Ngugrim stop, each at its next access (R417). -/
def endEngines (s : State) (core : Nat) : State :=
  let s := (coreAt s core).copyRun.foldl (fun s _ => after s (execCopyCmdComplete core s)) s
  let s := after s (execBankQueueCmdStart core s)
  let s := (coreAt s core).bankRun.foldl (fun s e =>
    after s (if e.kind = .bqload then execBqloadComplete core s else execBqcmdComplete core e.id s)) s
  (coreAt s core).portRun.foldl (fun s e => after s (execPorterCmdComplete core e.id s)) s

/-- NGUGRIM_RETRAIN_TIMEOUT (R417): every waiting access to control-node memory ends with FABRIC_TIMEOUT. -/
def execNgugrimRetrainTimeout (s : State) : Out :=
  .next (if s.port.retrain then
      let s := (s.crews.map (·.1)).foldl endTier2 s
      let s := { s with port := { s.port with lost := true } }
      let s := (s.cores.map (·.1)).foldl endEngines s
      endWaits { s with port := { s.port with lost := false } }
    else s)

/-- LINKST with the bit of a port, from a base bit, set or clear. -/
def portBit (w : Word) (base p : Nat) (on : Bool) : Word :=
  if on then w ||| (1#64 <<< (base + p)) else w &&& ~~~(1#64 <<< (base + p))

/-- LINK_RETRAIN_START (R355): the link's ends hold every flit. -/
def execLinkRetrainStart (port : Nat) (s : State) : Out :=
  .next (
    let l := portAt s port
    if 12 ≤ port || !l.up then s
    else
      modPackage (putPort s port { l with retraining := true, wire := none }) fun p =>
        { p with linkst := portBit (wrapField p.linkst 47 32) 0 port true })

/-- LINK_RETRAIN_END (R355): the sender resends from the last acknowledgement. -/
def execLinkRetrainEnd (port : Nat) (s : State) : Out :=
  .next (
    let l := portAt s port
    if !l.retraining then s
    else
      modPackage (putPort s port { l with retraining := false, resend := if l.replay.isEmpty then none else some 0 }) fun p =>
        { p with linkst := portBit p.linkst 0 port false })

/-- A route as the Clerk reloads it: through a port that is up, which one is not stated, or none (R357, R417). -/
def reroute (s : State) (port : Nat) (r : Nat × Nat) : Option (Nat × Nat) :=
  if r.2 ≠ port then some r
  else
    let up := (List.range 12).filter fun p => p != port && !(portAt s p).down
    (up[freeChoice s.free r.1 % (up.length + 1)]?).map fun p => (r.1, p)

/-- Flits of a queue without their branches through a port. -/
def dropBranches (port : Nat) (l : List RFlit) : List RFlit :=
  (l.map fun f => (f, { f with outs := f.outs.filter (· != port) })).filterMap fun q =>
    if q.2.outs.isEmpty && !q.1.outs.isEmpty then none else some q.2

/-- LINK_DOWN (R417): what was routed through the link is lost and ends under R371, and gives its input entries back; the routes
avoid it. -/
def execLinkDown (port : Nat) (s : State) : Out :=
  .next (
    let l := portAt s port
    if !l.retraining then s
    else
      let s := putPort s port
        { l with retraining := false, down := true, replay := [], resend := none, wire := none, replicas := [] }
      let f := s.fabric
      let ports := f.ports.map fun q =>
        (q.1, q.2.credited
          { q.2 with inQ := dropBranches port q.2.inQ, inS := dropBranches port q.2.inS, schedQ := dropBranches port q.2.schedQ })
      let s := { s with fabric := { f with ports := ports, inject := dropBranches port f.inject
                                           routes := f.routes.filterMap (reroute s port) } }
      modPackage (spend s 1) fun p => { p with linkst := portBit (portBit p.linkst 0 port false) 14 port true })

/-! ### Shocks and wear (R419, R422) -/

/-- SHOCK_EVENT (R419): a shock of 40 g or more enters the log of 64 entries. -/
def execShockEvent (peak : BitVec 16) (s : State) : Out :=
  .next (if peak.toNat < 40 then s
    else
      modPackage s fun p =>
        let log := (peak :: p.shocks).take 64
        { p with shocks := log
                 shockst := withBits (countField p.shockst 31 16) 47 32 ((log.map (·.toNat)).foldl max 0) })

/-- ENERGY_STORE_DEPLETED (R419). -/
def execEnergyStoreDepleted (s : State) : Out := .next (modPackage s fun p => { p with shockst := p.shockst ||| 8 })

/-- WEAR_UPDATE (R422). -/
def execWearUpdate (days : BitVec 16) (limit : BitVec 3) (hours : BitVec 32) (s : State) : Out :=
  .next (if 5 < limit.toNat then s
    else modPackage s fun p => { p with weareol := BitVec.ofNat 64 (days.toNat * 2 ^ 48 + limit.toNat * 2 ^ 32 + hours.toNat) })

end Sys2Proof.Machine
end

