-- ==== Sys2Proof/Machine/Matrix.lean ====
section
/-!
DEFINITION. The matrix engine (R246-R270): claims, the matrix queue and its four units, the shadow table and the loop nest, cell
operations, and retiring a bank.
-/
namespace Sys2Proof.Machine
open Sys2Proof.Config

/-! ### Rows of the shadow table (R256) -/

/-- KPS of an operand type (Table 09.1); none for a type that the engine does not take. -/
def positionsPerLine (t : Nat) : Option Nat :=
  match t with
  | 0xA | 0xB => some 128
  | 0xC | 0xD => some 256
  | 0xE | 0x1 | 0x5 => some 512
  | _ => none

/-- The least and the greatest address from a base over the level rows, with the stride that a row's field gives. -/
def addressRange (base : Nat) (rows : List Word) (stride : Word → Int) : Int × Int :=
  rows.foldl (fun (q : Int × Int) r =>
    let d := (bits r 15 0 : Nat) * stride r
    (q.1 + min 0 d, q.2 + max 0 d)) (base, base)

/-- SA and SB of a level row. -/
def strideA (r : Word) : Int := (r.extractLsb' 32 16).toInt
def strideB (r : Word) : Int := (r.extractLsb' 48 16).toInt

/-- The fields of the control row (Table 09.3). -/
def nestType (ctl : Word) : Nat := bits ctl 39 36
def nestBaseA (ctl : Word) : Nat := bits ctl 12 0
def nestBaseB (ctl : Word) : Nat := bits ctl 28 16
def nestBank (ctl : Word) : Nat := bits ctl 32 32

/-- Whether a row's contents pass MCFG's checks (R265). -/
def rowOk (row : Nat) (x : Word) : Bool :=
  if row < 6 then bits x 31 17 == 0
  else if row = 6 then
    bits x 63 41 == 0 && bits x 35 33 == 0 && bits x 31 29 == 0 && bits x 15 13 == 0 &&
      match positionsPerLine (nestType x) with
      | some kps => decide (nestBaseA x < 16 * kps) && decide (nestBaseB x < 16 * kps)
      | none => false
  else false

/-- The banks that a nest targets (R258). -/
def nestBanks (rows : List Word) (ctl : Word) : List Nat :=
  if rows.any fun r => r.getLsbD 16 && bits r 15 0 != 0 then [0, 1] else [nestBank ctl]

/-- Slots that a nest reaches from one side. -/
def slotRange (lo hi : Int) (kps : Nat) : List Nat := (List.range 16).filter fun s => lo / kps ≤ s ∧ s ≤ hi / kps

/-- Operation i of a cell pattern. -/
def patternOp (pattern : Word) (i : Nat) : Nat := bits pattern (2 * i + 1) (2 * i)

/-- Whether an MGO may start on a claim set with the rows, control row and pattern that it latches (R258). -/
def nestOk (set ctl pattern : Word) (rows : List Word) (plen : Nat) : Bool :=
  match positionsPerLine (nestType ctl) with
  | none => false
  | some kps =>
    let depth := rows.foldl (fun n r => n * (bits r 15 0 + 1)) 1
    let (a0, a1) := addressRange (nestBaseA ctl) rows strideA
    let (b0, b1) := addressRange (nestBaseB ctl) rows strideB
    let top : Int := 16 * kps
    decide (depth ≤ 65536) && decide (0 ≤ a0 ∧ a1 < top ∧ 0 ≤ b0 ∧ b1 < top) &&
      (slotRange a0 a1 kps).all (set.getLsbD ·) && (slotRange b0 b1 kps).all (fun b => set.getLsbD (16 + b)) &&
      (nestBanks rows ctl).all (fun b => set.getLsbD (32 + b)) &&
      (!(nestType ctl == 0xC || nestType ctl == 0xD || nestType ctl == 0xE) ||
        (List.range plen).all fun i => patternOp pattern i == 0)

/-! ### The words (R254, R264) -/

/-- A matrix word: illegal on a Reeve (R384). -/
def matrixWord (o : FmtC) (useA : Bool) (s : State) (body : State → Nat → Crew → Word → Effect) : Out :=
  commandWord o false useA false s fun s k c xa _ => if isReeve k then .trap 0x01 0xB else body s k c xa

/-- MCFG (R265). -/
def execMcfg (o : FmtC) (s : State) : Out :=
  matrixWord o true s fun s k c xa =>
    if rowOk (o.cimm.extractLsb' 0 3).toNat xa then queueCmd s k c .mcfg o xa 0 else .trap 0x01 0xB

/-- MGO (R266). -/
def execMgo (o : FmtC) (s : State) : Out :=
  matrixWord o false s fun s k c _ => if c.claim.isNone then .trap 0x01 0xC else queueCmd s k c .mgo o 0 0

/-- MCLAIM (R267): the set is open from its issue, and waits in order of issue (R249). -/
def execMclaim (o : FmtC) (s : State) : Out :=
  matrixWord o true s fun s k c xa =>
    if bits xa 63 34 != 0 || xa == 0 then .trap 0x01 0xB
    else if c.claim.isSome then .trap 0x01 0xC
    else
      match queueCmd s k c .mclaim o xa 0 with
      | .done s c =>
        let core := coreAt s (coreOf k)
        .done (putCore s (coreOf k) { core with claims := core.claims ++ [{ crewId := c.crewId, set := xa, granted := false }] })
          { c with claim := some xa, claimGranted := false }
      | e => e

/-- MREL (R267): the set closes at its issue. -/
def execMrel (o : FmtC) (s : State) : Out :=
  matrixWord o false s fun s k c _ =>
    match queueCmd s k c .mrel o 0 0 with
    | .done s c => .done s { c with claim := none, claimGranted := false }
    | e => e

/-- Whether a region has 128 rows of at least n bytes. -/
def rowsFor (r : Region) (n : Nat) : Bool := !r.empty && decide (128 ≤ r.rows) && decide (n ≤ r.rowBytes)

/-- MLDO (R268). -/
def execMldo (o : FmtC) (s : State) : Out :=
  matrixWord o false s fun s k c _ =>
    let r := regionOf (tdefOf c (o.cimm.extractLsb' 5 4).toNat)
    if !rowsFor r (if o.cimm.getLsbD 9 then 0 else 256) then .trap 0x01 0xB
    else
      match c.claim with
      | none => .trap 0x01 0xC
      | some set => if set.getLsbD (o.cimm.extractLsb' 0 5).toNat then queueCmd s k c .mldo o 0 0 else .trap 0x01 0xC

/-- The type that an MRET converts to. -/
def retType (cimm : BitVec 14) : Nat := (cimm.extractLsb' 5 4).toNat

/-- MRET (R269). -/
def execMret (o : FmtC) (s : State) : Out :=
  matrixWord o false s fun s k c _ =>
    let t := retType o.cimm
    let r := regionOf (tdefOf c (o.cimm.extractLsb' 1 4).toNat)
    if !([0x4, 0x9, 0xA, 0xB].contains t) || !rowsFor r (16 * typeWidth t) then .trap 0x01 0xB
    else
      match c.claim with
      | none => .trap 0x01 0xC
      | some set => if set.getLsbD (32 + (o.cimm.extractLsb' 0 1).toNat) then queueCmd s k c .mret o 0 0 else .trap 0x01 0xC

/-- MCELL (R270). -/
def execMcell (o : FmtC) (s : State) : Out :=
  matrixWord o true s fun s k c xa =>
    let plen := (o.cimm.extractLsb' 0 5).toNat + 1
    if decide (xa.toNat < 4 ^ plen) && (List.range plen).all (fun i => patternOp xa i != 3) then queueCmd s k c .mcell o xa 0
    else .trap 0x01 0xB

/-! ### The queue and its units (R251) -/

/-- The unit that runs a command. -/
def EngKind.unit : EngKind → MatrixUnit
  | .mldo => .loader
  | .mgo => .array
  | .mret => .retirer
  | _ => .control

/-- What commands of one crew may meet in (R251). -/
inductive MatrixThing where
  | slot (n : Nat)
  | scale (n : Nat)
  | bank (n : Nat)
  | shadow
  | pattern
deriving DecidableEq, Repr

/-- The rows that an MGO has latched: levels 0 to 5 and the control row. -/
def latchedRows (e : EngCmd) : List Word := e.latch.take 6
def latchedControl (e : EngCmd) : Word := e.latch.getD 6 0
def latchedPattern (e : EngCmd) : Word := e.latch.getD 7 0
def latchedLength (e : EngCmd) : Nat := (e.latch.getD 8 1).toNat

/-- An MGO with the shadow table and the cell pattern of its crew as they stand. -/
def latchNest (e : EngCmd) (c : Crew) : EngCmd := { e with latch := c.shadow.toList ++ [c.pattern, BitVec.ofNat 64 c.plen] }

/-- Slots of either side that an MGO reads. -/
def nestSlots (e : EngCmd) : List Nat :=
  match positionsPerLine (nestType (latchedControl e)) with
  | none => []
  | some kps =>
    let (a0, a1) := addressRange (nestBaseA (latchedControl e)) (latchedRows e) strideA
    let (b0, b1) := addressRange (nestBaseB (latchedControl e)) (latchedRows e) strideB
    slotRange a0 a1 kps ++ (slotRange b0 b1 kps).map (16 + ·)

/-- Whether the type that a nest names is scaled: E4M3, E5M2 and E2M1 (Table 09.1). -/
def scaledType (t : Nat) : Bool := t == 0xC || t == 0xD || t == 0xE

/-- What a command reads, once it has started (an MGO reads the table and the pattern only as it starts). -/
def cmdReads (e : EngCmd) (starting : Bool) : List MatrixThing :=
  match e.kind with
  | .mgo =>
    (nestSlots e).map .slot ++ (if scaledType (nestType (latchedControl e)) then (nestSlots e).map .scale else []) ++
      (if starting then [.shadow, .pattern] else [])
  | .mret => [.bank (e.cimm.extractLsb' 0 1).toNat]
  | _ => []

/-- What a command writes. -/
def cmdWrites (e : EngCmd) : List MatrixThing :=
  match e.kind with
  | .mcfg => [.shadow]
  | .mcell => [.pattern]
  | .mldo =>
    let n := (e.cimm.extractLsb' 0 5).toNat
    [if e.cimm.getLsbD 9 then .scale n else .slot n]
  | .mgo => (nestBanks (latchedRows e) (latchedControl e)).map .bank
  | _ => []

/-- Whether a command must wait for one of its crew that is in progress. -/
def meets (e f : EngCmd) : Bool :=
  let w := cmdWrites e
  let fw := cmdWrites f
  w.any (fun x => fw.contains x || (cmdReads f false).contains x) || (cmdReads e true).any fw.contains

/-- Whether a command may start, its wait apart (R251, R387). -/
def mayStart (s : State) (c : CoreState) (e : EngCmd) : Bool :=
  let mine (f : EngCmd) : Bool := f.crewId == e.crewId
  let first := match c.matQ.find? mine with | some f => f.id == e.id | none => false
  let e' := match issuer s e with | some crew => if e.kind = .mgo then latchNest e crew else e | none => e
  first && !(c.matRun.any fun f => f.kind.unit == e.kind.unit) && !cmdFrozen s e &&
    (if e.kind = .mrel then !(c.matRun.any mine) else !(c.matRun.any fun f => mine f && meets e' f))

/-- Moves a command from the queue to its unit. -/
def runMatrix (s : State) (core : Nat) (e : EngCmd) : State :=
  let c := coreAt s core
  putCore s core { c with matQ := c.matQ.filter (·.id != e.id),
                          matRun := c.matRun ++ [{ e with consumed := true, started := true }] }

/-- The claim set that a crew has been granted. -/
def grantedSet (c : CoreState) (crewId : Nat) : Word :=
  match c.claims.find? fun q => q.crewId == crewId && q.granted with
  | some q => q.set
  | none => 0

/-- A bank of a core. -/
def bankAt (c : CoreState) (n : Nat) : Bank := if n = 0 then c.bank0 else c.bank1
/-- Replaces a bank of a core. -/
def setBank (c : CoreState) (n : Nat) (b : Bank) : CoreState := if n = 0 then { c with bank0 := b } else { c with bank1 := b }

/-- Whether a command passes its checks at its start (R255, R258, R269). -/
def startOk (c : CoreState) (e : EngCmd) : Bool :=
  match e.kind with
  | .mgo => nestOk (grantedSet c e.crewId) (latchedControl e) (latchedPattern e) (latchedRows e) (latchedLength e)
  | .mret => (bankAt c (e.cimm.extractLsb' 0 1).toNat).integer == (retType e.cimm == 0x4)
  | _ => true

/-- Starts a command that has consumed its wait. -/
def startMatrix (s : State) (core : Nat) (e : EngCmd) : State :=
  let e := match issuer s e with | some crew => if e.kind = .mgo then latchNest e crew else e | none => e
  if startOk (coreAt s core) e then runMatrix s core e else stopCmd s core e 0x01 0xD true

/-- Whether a waiting claim may be granted: what it names is free, and no earlier one that waits names any of it (R249). -/
def grantable (c : CoreState) (crewId : Nat) : Bool :=
  match c.claims.findIdx? fun q => q.crewId == crewId && !q.granted with
  | none => false
  | some i =>
    let set := match c.claims[i]? with | some q => q.set | none => 0
    let clash (q : Claim) : Bool := (q.set &&& set) != 0
    !((c.claims.take i).any clash) && !((c.claims.drop (i + 1)).any fun q => q.granted && clash q)

/-- Whether an MCLAIM could start now. -/
def claimReady (s : State) (core : Nat) (e : EngCmd) : Bool :=
  mayStart s (coreAt s core) e && grantable (coreAt s core) e.crewId && (consumeWait s core e).1

/-- Starts the oldest of some commands that can start; one that cannot take its semaphore waits for it. An MCLAIM that can start
is started by its grant, and nothing younger on its unit before it (R251). -/
def startFirst (s : State) (core : Nat) : List EngCmd → State
  | [] => s
  | e :: rest =>
    if e.kind = .mclaim then (if claimReady s core e then s else startFirst s core rest)
    else if mayStart s (coreAt s core) e then
      match consumeWait s core e with
      | (true, s) => startMatrix s core e
      | (false, s) => startFirst s core rest
    else startFirst s core rest

/-- MATRIX_CMD_START (R251, R255). -/
def execMatrixCmdStart (core : Nat) (unit : MatrixUnit) (s : State) : Out :=
  .next (startFirst s core ((coreAt s core).matQ.filter fun e => e.kind.unit == unit))

/-- Whether a command of the control unit that is older than one of the queue could start now. -/
def olderStarts (s : State) (core id : Nat) : Bool :=
  ((coreAt s core).matQ.takeWhile (·.id != id)).any fun e =>
    e.kind.unit == .control &&
      (if e.kind = .mclaim then claimReady s core e else mayStart s (coreAt s core) e && (consumeWait s core e).1)

/-- A core's claims once the first of a crew's that wait is granted. -/
def grantClaim (crewId : Nat) : List Claim → List Claim
  | [] => []
  | q :: l => if q.crewId == crewId && !q.granted then { q with granted := true } :: l else q :: grantClaim crewId l

/-- A core's claims once the first of a crew's that it holds is released (R267). -/
def releaseClaim (crewId : Nat) : List Claim → List Claim
  | [] => []
  | q :: l => if q.crewId == crewId && q.granted then l else q :: releaseClaim crewId l

/-- The core that holds the set which an MREL releases: its own, or, for one withdrawn and issued again on another core, that on
which the crew claimed (R267). -/
def claimCore (s : State) (core crewId : Nat) : Nat :=
  let holds (c : CoreState) : Bool := c.claims.any fun q => q.crewId == crewId && q.granted
  if holds (coreAt s core) then core else ((s.cores.find? fun q => holds q.2).map (·.1)).getD core

/-- Releases a crew's set (R267). -/
def releaseSet (s : State) (core crewId : Nat) : State :=
  let k := claimCore s core crewId
  putCore s k { coreAt s k with claims := releaseClaim crewId (coreAt s k).claims }

/-- Whether a crew has a claim that waits. -/
def claimWaits (crewId : Nat) (l : List Claim) : Bool := l.any fun q => q.crewId == crewId && !q.granted

/-- A bank at its grant: of kind FP32, its cells undefined, each bank's its own (R247); its flags stay until a Z clear (R261). -/
def Bank.granted (b : Bank) (epoch : Nat) : Bank := { Bank.undefined epoch with flags := b.flags }

/-- Slots and banks whose contents become undefined at a grant (R247). -/
def freshContents (c : CoreState) (set : Word) (epoch : Nat) : CoreState :=
  let slots := (List.range 32).filter (set.getLsbD ·)
  let keep {α : Type} (m : FMap α) : FMap α := m.filter fun q => !slots.contains (q.1 / 128)
  { c with slotEpoch := slots.foldl (fun m n => mapSet m n epoch) c.slotEpoch
           slotLines := keep c.slotLines, scaleLines := keep c.scaleLines
           bank0 := if set.getLsbD 32 then c.bank0.granted (2 * epoch) else c.bank0
           bank1 := if set.getLsbD 33 then c.bank1.granted (2 * epoch + 1) else c.bank1 }

/-- MCLAIM_GRANT (R249): the crew's oldest matrix command is an MCLAIM that may be granted; it starts, if no older command of
the control unit can (R251). -/
def execMclaimGrant (core slot : Nat) (s : State) : Out :=
  .next (match crewAt s slot with
    | none => s
    | some c =>
      match (coreAt s core).matQ.find? fun e => e.slot == slot && e.crewId == c.crewId with
      | none => s
      | some e =>
        if e.kind != .mclaim || !mayStart s (coreAt s core) e || !grantable (coreAt s core) c.crewId ||
            olderStarts s core e.id then s
        else
          match consumeWait s core e with
          | (false, s) => s
          | (true, s) =>
            let s := runMatrix s core e
            let k := coreAt s core
            let claims := grantClaim c.crewId k.claims
            let s := bump (putCore s core (freshContents { k with claims := claims } e.xa s.stamp))
            modCrew s slot fun c => { c with claimGranted := c.claim.isSome && !claimWaits c.crewId claims })

/-! ### What the commands do -/

/-- A line of a slot; an undefined one holds free bytes. -/
def slotLine (c : CoreState) (slot line : Nat) : Nat :=
  match mapGet c.slotLines (slot * 128 + line) with
  | some v => v.toNat
  | none => bytesValue ((List.range 256).map fun j => freeByte (mapGetD c.slotEpoch slot 0) (slot * 65536 + line * 256 + j))

/-- A line of a scale area. -/
def scaleLine (c : CoreState) (slot line : Nat) : Nat :=
  match mapGet c.scaleLines (slot * 128 + line) with
  | some v => v.toNat
  | none =>
    bytesValue ((List.range 16).map fun j => freeByte (mapGetD c.slotEpoch slot 0) (slot * 65536 + 32768 + line * 16 + j))

/-- An operand at a position of a line. -/
def operandAt (w line pos : Nat) : Nat := line / 2 ^ (w * pos) % 2 ^ w

/-- One step of a nest: addresses, bank, operation (R257). -/
structure NestStep where
  a : Nat
  b : Nat
  bank : Nat
  op : Nat
deriving DecidableEq, Repr

/-- The index of a level in step s: the rows inside it run faster. -/
def levelIndices : List Word → Nat → List Nat
  | [], _ => []
  | r :: rest, s => s % (bits r 15 0 + 1) :: levelIndices rest (s / (bits r 15 0 + 1))

/-- Step s of a latched nest. -/
def nestStep (e : EngCmd) (s : Nat) : NestStep :=
  let rows := latchedRows e
  let ctl := latchedControl e
  let ix := levelIndices rows s
  let sum (f : Word → Int) : Int := (rows.zip ix).foldl (fun (a : Int) q => a + (q.2 : Nat) * f q.1) 0
  { a := ((nestBaseA ctl : Nat) + sum strideA).toNat, b := ((nestBaseB ctl : Nat) + sum strideB).toNat,
    bank := (((nestBank ctl : Nat) + sum fun r => if r.getLsbD 16 then 1 else 0) % 2).toNat,
    op := patternOp (latchedPattern e) (s % latchedLength e) }

/-- The steps of a latched nest, in order. -/
def nestSteps (e : EngCmd) : List NestStep :=
  (List.range ((latchedRows e).foldl (fun n r => n * (bits r 15 0 + 1)) 1)).map (nestStep e)

/-- An operand of a floating type, with its block scale (R155, R260). -/
def scaledOperand (t w pos line scales : Nat) : Num × FlagSet :=
  let x := elementNum t (operandAt w line pos)
  if w < 16 then mulNum x (scaleOf (scales / 2 ^ (8 * (pos / 32)))) else (x, 0)

/-- A cell's update on a floating type at one step (R259): MA on unpacked types, AD and CS. -/
def floatUpdate (op : Nat) (acc : Nat) (x y : Num) : Nat × FlagSet :=
  let a := fp32.decode acc
  match op with
  | 0 => fp32.finish .rne false (fmaNum false x y a)
  | 1 =>
    let (d, f) := addNum false x y.negate
    let (r, g) := addNum false a d.abs
    fp32.finish .rne false (r, f ||| g)
  | _ =>
    let (v, f) := addNum false x y
    if a.isNaN || v.isNaN then (fp32.nanCode, f ||| a.signal)
    else if numLt a v then fp32.finish .rne false (v, f) else (acc, f)

/-- A cell's update on an integer type (R259). -/
def intUpdate (op : Nat) (acc : Nat) (x y : Int) : Nat :=
  match op with
  | 0 => wrapInt 32 (acc + x * y)
  | 1 => wrapInt 32 (acc + (x - y).natAbs)
  | _ => if intOf 32 true acc < x + y then wrapInt 32 (x + y) else acc

/-- The sums of packed types: four consecutive products rounded into the accumulator at once (R166, R260). -/
def packedSum : Nat → FlagSet → List (Num × FlagSet) → Nat × FlagSet
  | acc, f, p :: q :: r :: t :: rest =>
    let (v, g) := fp32.finish .rne false (accumulate false (fp32.decode acc) [p, q, r, t])
    packedSum v (f ||| g) rest
  | acc, f, [] => (acc, f)
  | acc, f, rest =>
    let (v, g) := fp32.finish .rne false (accumulate false (fp32.decode acc) rest)
    (v, f ||| g)

/-- The value and flags of cell (m, n) after the steps of its bank. -/
def cellResult (c : CoreState) (t : Nat) (steps : List NestStep) (m n acc : Nat) : Nat × FlagSet :=
  let w := typeWidth t
  let kps := 2048 / w
  let num (side line a : Nat) : Num × FlagSet :=
    scaledOperand t w (a % kps) (slotLine c (side + a / kps) line) (scaleLine c (side + a / kps) line)
  let int (side line a : Nat) : Int := intOf w (typeSigned t) (operandAt w (slotLine c (side + a / kps) line) (a % kps))
  if isFloat t then
    if w < 16 then
      packedSum acc 0 (steps.map fun s =>
        let (x, f) := num 0 m s.a
        let (y, g) := num 16 n s.b
        let (p, h) := mulNum x y
        (p, f ||| g ||| h))
    else
      steps.foldl (fun (q : Nat × FlagSet) s =>
        let (v, f) := floatUpdate s.op q.1 (num 0 m s.a).1 (num 16 n s.b).1
        (v, q.2 ||| f)) (acc, 0)
  else (steps.foldl (fun v s => intUpdate s.op v (int 0 m s.a) (int 16 n s.b)) acc, 0)
where
  /-- Whether a type is a floating-point type. -/
  isFloat (t : Nat) : Bool := (formatOf t).isSome

/-- The value of a bank's cell. -/
def Bank.cell (b : Bank) (i : Nat) : Nat :=
  match mapGet b.cells i with
  | some v => v.toNat
  | none => match b.fill with | some v => v.toNat | none => (freeCell b.epoch i).toNat

/-- The value that a clear writes (Table 09.3). -/
def initValue (ctl : Word) : BitVec 32 :=
  if !ctl.getLsbD 40 then 0 else if (formatOf (nestType ctl)).isSome then 0xFF800000 else 0x80000000

/-- What an MGO does to a bank (R257-R260). -/
def runBank (c : CoreState) (e : EngCmd) (n : Nat) : CoreState :=
  let t := nestType (latchedControl e)
  let steps := (nestSteps e).filter (·.bank == n)
  if steps.isEmpty then c
  else
    let b := bankAt c n
    let b := if e.cimm.getLsbD n then { b with fill := some (initValue (latchedControl e)), cells := [], flags := 0 } else b
    let results := (List.range 16384).map fun i => cellResult c t steps (i / 128) (i % 128) (b.cell i)
    setBank c n
      { b with integer := !(formatOf t).isSome, cells := (results.zipIdx.map fun q => (q.2, BitVec.ofNat 32 q.1.1)),
               flags := b.flags ||| orFlags (results.map (·.2)) }

/-- The rows that an MLDO loads into a slot or a scale area (R268). -/
def loadLines (s : State) (core : Nat) (e : EngCmd) : State :=
  let r := cmdRegion e (e.reads.headD 0)
  let n := (e.cimm.extractLsb' 0 5).toNat
  let c := coreAt s core
  let line (l k : Nat) : Nat := bytesValue (r.read s e.slot (l * r.rowBytes) k)
  putCore s core
    (if e.cimm.getLsbD 9 then
      { c with scaleLines := (List.range 128).foldl (fun m l => mapSet m (n * 128 + l) (BitVec.ofNat 128 (line l 16))) c.scaleLines }
    else
      { c with slotLines := (List.range 128).foldl (fun m l => mapSet m (n * 128 + l) (BitVec.ofNat 2048 (line l 256)))
                 c.slotLines })

/-- The conversion of a cell (R269). -/
def retireCell (t : Nat) (sat : Bool) (v : Nat) : Nat × FlagSet :=
  match t with
  | 0xA => fp16.round .rne sat (fp32.decode v)
  | 0xB => bf16.round .rne sat (fp32.decode v)
  | _ => (v, 0)

/-- An MRET: the bank's cells converted into the region, and the flags into the crew's MFLAGS (R261, R269). -/
def retireBank (s : State) (core : Nat) (e : EngCmd) : State :=
  let r := cmdRegion e (e.writes.headD 0)
  let t := retType e.cimm
  let b := bankAt (coreAt s core) (e.cimm.extractLsb' 0 1).toNat
  let cell (m n : Nat) : Nat × FlagSet := retireCell t (e.cimm.getLsbD 9) (b.cell (m * 128 + n))
  let rows := (List.range 128).map fun m => (List.range 128).map (cell m)
  let s := rows.zipIdx.foldl (fun s q =>
    r.write s e.slot (q.2 * r.rowBytes) (q.1.flatMap fun v => valueBytes (typeWidth t / 8) v.1)) s
  let flags := b.flags ||| orFlags (rows.flatMap fun l => l.map (·.2))
  modCrew s e.slot fun c => if c.crewId = e.crewId then { c with mflags := c.mflags ||| flags.zeroExtend 64 } else c

/-- What a command does when it completes. -/
def matrixEffect (s : State) (core : Nat) (e : EngCmd) : State :=
  let mine (f : Crew → Crew) : State := modCrew s e.slot fun c => if c.crewId = e.crewId then f c else c
  match e.kind with
  | .mcfg => mine fun c => { c with shadow := c.shadow.setIfInBounds (e.cimm.extractLsb' 0 3).toNat e.xa }
  | .mcell => mine fun c => { c with pattern := e.xa, plen := (e.cimm.extractLsb' 0 5).toNat + 1 }
  | .mldo => loadLines s core e
  | .mgo => putCore s core ((nestBanks (latchedRows e) (latchedControl e)).foldl (runBank · e ·) (coreAt s core))
  | .mret => retireBank s core e
  | .mrel => releaseSet s core e.crewId
  | _ => s

/-- MATRIX_CMD_COMPLETE (R252, R253, R262): the command of a unit has made its effect; one that touches a scratchpad does so
after the vector words before it (R221). -/
def execMatrixCmdComplete (core : Nat) (unit : MatrixUnit) (s : State) : Out :=
  .next (match (coreAt s core).matRun.find? fun e => e.kind.unit == unit with
    | none => s
    | some e =>
      if (e.kind == .mldo || e.kind == .mret) && behindVectors s e then s
      else finishCmd (matrixEffect s core e) core e)

end Sys2Proof.Machine
end

