-- ==== Sys2Proof/Machine/Port.lean ====
section
/-!
DEFINITION. The registers of the command port that the control node writes (R35, R36, Table 02.1), and attestation (R424). -/
namespace Sys2Proof.Machine
open Sys2Proof.Config

/-- Records of the command ring: 2^(CQSZ + 6). -/
def cqRingSize (s : State) : Nat := 2 ^ (bits s.port.cqbase 3 0 + 6)

/-- The ring error of R35: a size above 10, or a tail too far ahead, sets ERR and stops the port until EN is written 0 and
then 1. -/
def portCheck (s : State) : State :=
  if decide (bits s.port.cqbase 3 0 > 10) || decide (bits s.port.cpbase 3 0 > 10) ||
      decide ((s.port.cqtail - s.port.cqhead).toNat > cqRingSize s) then
    { s with port := { s.port with err := true, stopped := true } }
  else s

/-- The bits of a ring-base register that are RW. -/
def baseField (v : Word) : Word := (v &&& 0xFFFFFFFFF000) ||| (v &&& 0xF)

/-- CQTAIL_WRITE (R36). -/
def execCqtailWrite (v : Word) (s : State) : Out :=
  .next (portCheck { s with port := { s.port with cqtail := v.truncate 32 } })

/-- CQBASE_WRITE (R35): ignored while EN is 1; both indices become 0. -/
def execCqbaseWrite (v : Word) (s : State) : Out :=
  .next (if s.port.en then s
    else
      -- A held GPATCH has not started (R45): the new ring holds other records.
      let p := { s.port with cqbase := baseField v, cqtail := 0, cqhead := 0 }
      portCheck { s with port := if p.held then { p with current := none, held := false } else p })

/-- CPBASE_WRITE (R35): ignored while EN is 1; both indices become 0, and records that waited for room are written (R36). -/
def execCpbaseWrite (v : Word) (s : State) : Out :=
  .next (if s.port.en then s
    else flushEnded (portCheck { s with port := { s.port with cpbase := baseField v, cptail := 0, cphead := 0 } }))

/-- CPHEAD_WRITE (R36, R48): level-ended records that waited for room are written. -/
def execCpheadWrite (v : Word) (s : State) : Out :=
  .next (flushEnded { s with port := { s.port with cphead := v.truncate 32 } })

/-- EN_WRITE (R35, R419, R421): ignored while a self-test holds EN at 0; writing 0 ends a stop, and writing 1 checks the rings
again. -/
def execEnWrite (v : Bool) (s : State) : Out :=
  .next (if s.pkg.enBlocked || s.pkg.inReset then s
    else if v then portCheck { s with port := { s.port with en := true } }
    else { s with port := { s.port with en := false, stopped := false } })

/-- ERR_CLEAR (R35): ERR is cleared by writing 1. -/
def execErrClear (s : State) : Out := .next { s with port := { s.port with err := false } }

/-- REGISTER_WRITE (R35): the fields without a behaviour of their own are read-only or reserved, so nothing changes. -/
def execRegisterWrite (_ : Nat) (_ : Word) (s : State) : Out := .next s

/-- ATTREQ_WRITE (R424): a non-zero ADDR while BUSY is 0 starts a request. -/
def execAttreqWrite (v : Word) (s : State) : Out :=
  .next (if bits v 47 6 = 0 || s.port.attesting then s
    else { s with port := { s.port with attreq := (v &&& 0xFFFFFFFFFFC0) ||| 2, attesting := true } })

/-- The first 128 bytes of an attestation report (Table 15.7). -/
def reportBody (s : State) (nonce : List Byte) : List Byte :=
  valueBytes 32 firmwareDigest.toNat ++
  -- The slot tables in force are those of the active bank (R358).
  valueBytes 32 (configDigest (if s.fabric.act then s.fabric.bankB else s.fabric.bankA)
    (s.fabric.routes.map fun r => BitVec.ofNat 64 (r.1 * 2 ^ 32 + r.2)) s.pkg.msh).toNat ++
  nonce ++ wordBytes (s.pkg.node &&& 0x7FFFF) ++ wordBytes s.pkg.shockst ++ wordBytes s.pkg.coredis ++ wordBytes s.pkg.weareol

/-- ATTESTATION_REPORT (R424): the report is written at A + 0x40, then BUSY is cleared and DONE set. -/
def execAttestationReport (s : State) : Out :=
  .next (if !s.port.attesting || s.port.retrain || s.pkg.inReset then s
    else
      let a := bits s.port.attreq 47 6 * 64
      let body := reportBody s (memRead s.ctl a 32)
      let s := ctlWrite s (a + 0x40) (body ++ valueBytes 64 (sm2Sign (sm3 body)).toNat)
      { s with port := { s.port with attreq := (s.port.attreq &&& 0xFFFFFFFFFFC0) ||| 1, attesting := false } })

/-- The record at CQHEAD, as the port reads it from control-node memory. -/
def headRecord (s : State) : Nat :=
  bytesValue (memRead s.ctl (bits s.port.cqbase 47 12 * 4096 + 64 * (s.port.cqhead.toNat % cqRingSize s)) 64)

/-- Whether the port may start the command at CQHEAD (R36, R48, R49, R415). -/
def portReady (s : State) : Bool :=
  s.port.en && !s.port.stopped && !s.port.retrain && s.port.current.isNone && !(s.port.ended.any (·.2.2 == statusKey)) &&
    s.port.cqhead != s.port.cqtail && cpRoom s && s.pkg.powered && !s.pkg.inReset && memoryAwake s

/-- Ends a record that is no command with BADCMD, under the tag it carries (R37, R452). -/
def refuseRecord (s : State) (tag : BitVec 32) : State :=
  endCommand s { tag := tag, lvl := 0, am := false, pg := false, ids := 0, addr0 := 0, cnt := 0, astep := 0, addr1 := 0,
                 addr2 := 0 } 0x01 0 0

end Sys2Proof.Machine
end

