-- ==== Sys2Proof/Machine/Scalar.lean ====
section
/-!
DEFINITION. The scalar integer instructions (R136-R143), CHK (R150), NOP (R98) and BRK (R400).
-/
namespace Sys2Proof.Machine

/-- A scalar integer form of format A that reads n sources and writes xd with a bound (R136). -/
def scalarWord (o : FmtA) (n bound : Nat) (f : Word → Word → Word → Word) (s : State) : Out :=
  runWord s .s false (guardA o) (freesA o) (readsA o n) fun s _ str c =>
    let p := anyTag s c (numberedA o n)
    .done s (pendX c str o.rd (resultX s p (f (readX s c 0 o.ra) (readX s c 1 o.rb) (readX s c 2 o.rc))) p bound)

/-- A scalar immediate form of format I (R142). -/
def immediateWord (o : FmtI) (f : Word → Word) (s : State) : Out :=
  runWord s .s false (guardI o) (freesI o) [(.x, o.ra.toNat)] fun s _ str c =>
    let p := tagX s c 0 o.ra
    .done s (pendX c str o.rd (resultX s p (f (readX s c 0 o.ra))) p 1)

/-- The shift count: bits 5-0 of xB (R137). -/
def shiftCount (b : Word) : Nat := b.toNat % 64

/-- The number of leading zero bits of the low n bits (R137). -/
def leadingZeros : Nat → Nat → Nat
  | 0, _ => 0
  | n + 1, v => if v.testBit n then 0 else 1 + leadingZeros n v

/-- The number of trailing zero bits of the low n bits (R137). -/
def trailingZeros : Nat → Nat → Nat
  | 0, _ => 0
  | n + 1, v => if v % 2 = 1 then 0 else 1 + trailingZeros n (v / 2)

/-- The number of one bits among the low n bits (R137). -/
def onesCount : Nat → Nat → Nat
  | 0, _ => 0
  | n + 1, v => v % 2 + onesCount n (v / 2)

/-- ADD (R137). -/
def execAdd (o : FmtA) (s : State) : Out := scalarWord o 2 1 (fun a b _ => a + b) s
/-- SUB (R137). -/
def execSub (o : FmtA) (s : State) : Out := scalarWord o 2 1 (fun a b _ => a - b) s
/-- AND (R137). -/
def execAnd (o : FmtA) (s : State) : Out := scalarWord o 2 1 (fun a b _ => a &&& b) s
/-- OR (R137). -/
def execOr (o : FmtA) (s : State) : Out := scalarWord o 2 1 (fun a b _ => a ||| b) s
/-- XOR (R137). -/
def execXor (o : FmtA) (s : State) : Out := scalarWord o 2 1 (fun a b _ => a ^^^ b) s
/-- ANDN (R137). -/
def execAndn (o : FmtA) (s : State) : Out := scalarWord o 2 1 (fun a b _ => a &&& ~~~b) s
/-- SHL (R137). -/
def execShl (o : FmtA) (s : State) : Out := scalarWord o 2 1 (fun a b _ => a <<< shiftCount b) s
/-- SHR (R137). -/
def execShr (o : FmtA) (s : State) : Out := scalarWord o 2 1 (fun a b _ => a >>> shiftCount b) s
/-- SRA (R137). -/
def execSra (o : FmtA) (s : State) : Out := scalarWord o 2 1 (fun a b _ => a.sshiftRight (shiftCount b)) s
/-- ROT (R137). -/
def execRot (o : FmtA) (s : State) : Out :=
  scalarWord o 2 1 (fun a b _ => (a <<< shiftCount b) ||| (a >>> ((64 - shiftCount b) % 64))) s
/-- MIN (R137): signed. -/
def execMin (o : FmtA) (s : State) : Out := scalarWord o 2 1 (fun a b _ => if a.slt b then a else b) s
/-- MAX (R137): signed. -/
def execMax (o : FmtA) (s : State) : Out := scalarWord o 2 1 (fun a b _ => if a.slt b then b else a) s
/-- MINZ (R137): unsigned. -/
def execMinz (o : FmtA) (s : State) : Out := scalarWord o 2 1 (fun a b _ => if a.ult b then a else b) s
/-- MAXZ (R137): unsigned. -/
def execMaxz (o : FmtA) (s : State) : Out := scalarWord o 2 1 (fun a b _ => if a.ult b then b else a) s

/-- SEL (R137): RC names a predicate; poison comes from the selected source alone (R136). -/
def execSel (o : FmtA) (s : State) : Out :=
  runWord s .s false (guardA o) [(.x, o.ra.toNat, o.la), (.x, o.rb.toNat, o.lb), (.p, o.rc.toNat, o.lc)]
    [(.x, o.ra.toNat), (.x, o.rb.toNat), (.p, o.rc.toNat)] fun s _ str c =>
    let first := (readP s c 2 o.rc.toNat).getLsbD 0
    let p := if first then tagX s c 0 o.ra else tagX s c 1 o.rb
    let v := if first then readX s c 0 o.ra else readX s c 1 o.rb
    .done s (pendX c str o.rd (resultX s p v) p 1)

/-- CLZ (R137). -/
def execClz (o : FmtA) (s : State) : Out := scalarWord o 1 1 (fun a _ _ => BitVec.ofNat 64 (leadingZeros 64 a.toNat)) s
/-- CTZ (R137). -/
def execCtz (o : FmtA) (s : State) : Out := scalarWord o 1 1 (fun a _ _ => BitVec.ofNat 64 (trailingZeros 64 a.toNat)) s
/-- POPC (R137). -/
def execPopc (o : FmtA) (s : State) : Out := scalarWord o 1 1 (fun a _ _ => BitVec.ofNat 64 (onesCount 64 a.toNat)) s
/-- BSWAP (R137). -/
def execBswap (o : FmtA) (s : State) : Out := scalarWord o 1 1 (fun a _ _ => bytesWord (wordBytes a).reverse) s

/-- The signed quotient of DIV, with its two corners (R138). -/
def divSigned (a b : Word) : Word := if b = 0 then BitVec.allOnes 64 else BitVec.ofInt 64 (a.toInt.tdiv b.toInt)
/-- The remainder of REM: the sign of the dividend; a divisor of 0 gives the dividend (R138). -/
def remSigned (a b : Word) : Word := if b = 0 then a else BitVec.ofInt 64 (a.toInt.tmod b.toInt)

/-- MUL (R138). -/
def execMul (o : FmtA) (s : State) : Out := scalarWord o 2 4 (fun a b _ => a * b) s
/-- MULH (R138): bits 127-64 of the signed product. -/
def execMulh (o : FmtA) (s : State) : Out :=
  scalarWord o 2 4 (fun a b _ => BitVec.ofInt 64 (a.toInt * b.toInt / 2 ^ 64)) s
/-- MULHZ (R138): bits 127-64 of the unsigned product. -/
def execMulhz (o : FmtA) (s : State) : Out :=
  scalarWord o 2 4 (fun a b _ => BitVec.ofNat 64 (a.toNat * b.toNat / 2 ^ 64)) s
/-- DIV (R138). -/
def execDiv (o : FmtA) (s : State) : Out := scalarWord o 2 40 (fun a b _ => divSigned a b) s
/-- DIVZ (R138). -/
def execDivz (o : FmtA) (s : State) : Out :=
  scalarWord o 2 40 (fun a b _ => if b = 0 then BitVec.allOnes 64 else BitVec.ofNat 64 (a.toNat / b.toNat)) s
/-- REM (R138). -/
def execRem (o : FmtA) (s : State) : Out := scalarWord o 2 40 (fun a b _ => remSigned a b) s
/-- REMZ (R138). -/
def execRemz (o : FmtA) (s : State) : Out :=
  scalarWord o 2 40 (fun a b _ => if b = 0 then a else BitVec.ofNat 64 (a.toNat % b.toNat)) s

/-- The conditions of CMP, by minor (R139). -/
def cmpHolds (k : Nat) (a b : Word) : Bool :=
  match k with
  | 0 => a == b
  | 1 => a != b
  | 2 => a.slt b
  | 3 => !a.slt b
  | 4 => a.ult b
  | _ => !a.ult b

/-- CMP (R139): every bit of pd takes the condition; a poisoned source traps with POISON. -/
def execCmp (k : BitVec 5) (o : FmtA) (s : State) : Out :=
  runWord s .s false (guardA o) (freesA o) (readsA o 2) fun s _ str c =>
    match poisonedX s c (numberedA o 2) with
    | some a => .trap 0x04 a
    | none =>
      let r := cmpHolds k.toNat (readX s c 0 o.ra) (readX s c 1 o.rb)
      .done s (pendP c str o.rd.toNat (BitVec.allOnes 256) (if r then BitVec.allOnes 256 else 0) 1)

/-- A field of w bits of a word from bit b; bits above 63 read as zero (R140). -/
def fieldExtract (a b : Word) : Word :=
  let lo := b.toNat % 64
  let w := b.toNat / 256 % 64 + 1
  BitVec.ofNat 64 (a.toNat / 2 ^ lo % 2 ^ w)
/-- A word with w bits from bit b replaced; positions above 63 are dropped (R140). -/
def fieldInsert (a b old : Word) : Word :=
  let lo := b.toNat % 64
  let w := b.toNat / 256 % 64 + 1
  let m := BitVec.ofNat 64 ((2 ^ w - 1) * 2 ^ lo)
  (old &&& ~~~m) ||| (BitVec.ofNat 64 (a.toNat % 2 ^ w * 2 ^ lo) &&& m)

/-- BFX (R140). -/
def execBfx (o : FmtA) (s : State) : Out := scalarWord o 2 1 (fun a b _ => fieldExtract a b) s
/-- BFI (R140). -/
def execBfi (o : FmtA) (s : State) : Out := scalarWord o 3 1 (fun a b c => fieldInsert a b c) s

/-- One step of the prefix hash (R141). -/
def prefixHash (h t k : Word) : Word :=
  let a := (h.rotateLeft 23 ^^^ t) + k
  let a := a * 0xC4A15E379B2D6F0B
  let a := a ^^^ (a >>> 31)
  let a := a * 0x8F3D26C9E1B47A55
  a ^^^ (a >>> 27)

/-- PFXH (R141). -/
def execPfxh (o : FmtA) (s : State) : Out := scalarWord o 3 6 prefixHash s

/-- ADDI (R142). -/
def execAddi (o : FmtI) (s : State) : Out := immediateWord o (fun a => a + immS o) s
/-- ANDI (R142). -/
def execAndi (o : FmtI) (s : State) : Out := immediateWord o (fun a => a &&& immS o) s
/-- ORI (R142). -/
def execOri (o : FmtI) (s : State) : Out := immediateWord o (fun a => a ||| immZ o) s

/-- LI (R143): the result is clean. -/
def execLi (o : FmtL) (s : State) : Out :=
  runWord s .s false none [] [] fun s _ str c => .done s (pendX c str o.rd (o.imm.signExtend 64) false 1)

/-- LIH (R143): bits 63-40 take IMM, the rest of xd and its tag stay. -/
def execLih (o : FmtL) (s : State) : Out :=
  runWord s .s false none [] [(.x, o.rd.toNat)] fun s _ str c =>
    let p := tagX s c 0 o.rd
    let v := (readX s c 0 o.rd &&& 0xFFFFFFFFFF) ||| ((o.imm.zeroExtend 64 &&& 0xFFFFFF) <<< 40)
    .done s (pendX c str o.rd (resultX s p v) p 1)

/-- CHK (R150). -/
def execChk (o : FmtA) (s : State) : Out :=
  runWord s .s false (guardA o) (freesA o) (readsA o 1) fun s _ _ c =>
    match poisonedX s c (numberedA o 1) with
    | some a => .trap 0x04 a
    | none => .done s c

/-- NOP (R98). -/
def execNop (_ : FmtA) (s : State) : Out := runWord s .both false none [] [] fun s _ _ c => .done s c

/-- BRK (R400): a precise cause in either stream. -/
def execBrk (_ : BitVec 10) (_ : BitVec 47) (s : State) : Out :=
  runWord s .both false none [] [] fun _ _ _ _ => .trap 0x50 0

/-- A word that names no instruction (R97): ILLEGAL_OP with TRAPADDR 0, with no effect. -/
def execReservedMajorWord (_ : Word) (s : State) : Out :=
  runWord s .both false none [] [] fun _ _ _ _ => .trap 0x01 0

end Sys2Proof.Machine
end

