-- ==== Sys2Proof/Machine/Special.lean ====
section
/-!
DEFINITION. The special-function words (R170-R174) and VRNG (R177).
-/
namespace Sys2Proof.Machine
open Sys2Proof.Config

/-- A special-function word on FP32, FP16 or BF16 elements. -/
def functionWord (o : FmtA) (bound : Nat) (rounds : Bool) (f : Format → Mode → Num → Nat × FlagSet) (s : State) : Out :=
  elementWord o 1 bound rounds (fun m a _ _ =>
    match formatOf o.ty.toNat with
    | some F => f F m (F.decode a)
    | none => (a, 0)) s

/-- VRCPA (R171). -/
def execVrcpa (o : FmtA) (s : State) : Out := functionWord o 6 false (fun F _ x => rcpa F x) s
/-- VRSQA (R172). -/
def execVrsqa (o : FmtA) (s : State) : Out := functionWord o 6 false (fun F _ x => rsqa F x) s
/-- VSQRT (R173). -/
def execVsqrt (o : FmtA) (s : State) : Out := functionWord o 20 true (fun F m x => sqrtOf F m x) s
/-- VEXP2 (R173). -/
def execVexp2 (o : FmtA) (s : State) : Out := functionWord o 12 true (fun F m x => exp2Of F m (saturating o) x) s
/-- VLOG2 (R173). -/
def execVlog2 (o : FmtA) (s : State) : Out := functionWord o 12 true (fun F m x => log2Of F m x) s
/-- VSINT (R174): source elements are UI32 fractions of a turn. -/
def execVsint (o : FmtA) (s : State) : Out := elementWord o 1 14 true (fun m a _ _ => sinTurn m a) s
/-- VCOST (R174). -/
def execVcost (o : FmtA) (s : State) : Out := elementWord o 1 14 true (fun m a _ _ => cosTurn m a) s

/-- VRNG (R177): 32 lanes of 128 bits; the guard masks granules. -/
def execVrng (o : FmtA) (s : State) : Out :=
  vectorWord
    { pred := o.pred.toNat, pn := o.pn, groups := [], use := some (.pipe, 2), reads := readsA o 3, frees := freesA o,
      scalars := [(0, o.ra), (1, o.rb), (2, o.rc)] } s fun s _ c g =>
    let seed := readX s c 0 o.ra
    let strm := (readX s c 1 o.rb).truncate 32
    let ctr := readX s c 2 o.rc
    let v := packElems 128 ((List.range 32).map fun i => (bcg128 seed strm (ctr + BitVec.ofNat 64 i)).toNat)
    let l := onActive g 16 256 fun i => (v / 2 ^ (16 * i) % 2 ^ 16, 0)
    .done s (putRegister c o.rd.toNat 16 (zeroing o) l 10)

end Sys2Proof.Machine
end

