-- ==== Sys2Proof/Machine/VectorMemory.lean ====
section
/-!
DEFINITION. Vector memory words (R200-R205, R216-R222, R236, R245): the region that a tile register gives them, loads and
gathers, and the stores and scatters that WRITE_PERFORMED performs.
-/
namespace Sys2Proof.Machine
open Sys2Proof.Config

/-! ### The region of a vector word -/

/-- The state of a circular buffer as a vector word sees it: before a CBDONE of its own count (R236). -/
def circSeen (c : Crew) (b : CircBuf) : CircBuf :=
  if b.releasing.contains c.counter then
    { b with ci := (b.ci + b.nslot - 1) % b.nslot, fill := if b.out then b.fill else b.fill + 1,
             free := if b.out then b.free + 1 else b.free }
  else b

/-- Whether an acquire that RVZ puts before the V-stream's present words is outstanding (R329, R330, R348). -/
def unacquired (c : Crew) : Bool := c.log.any fun e => acquires e && decide (e.epoch < c.epochV)

/-- What a vector word finds at its tile register: a busy-tile stall (R220, R236), the trap of R219, or a region. -/
inductive TileUse where
  | busy
  | foreign
  | region (r : Region)

/-- The region that a vector word reaches through tile register t. A load waits for the acquires that RVZ puts before it
(R329, log 43). -/
def tileUse (s : State) (k : Nat) (c : Crew) (t : Nat) (writes : Bool) : TileUse :=
  let r := regionOf (tdefOf c t)
  let reach (r : Region) : TileUse := if !r.empty && r.foreign k then .foreign else if !writes && unacquired c then .busy else .region r
  match mapGet c.circ t with
  | some b =>
    let b := circSeen c b
    if b.holds then reach (r.slot b.ci b.stride) else .busy
  | none => if markedW s k c t || (writes && markedR s k c t) then .busy else reach r

/-- The bounds of Table 07.5 for a region: of a load, and of a gather. On a Reeve level 0 has a cluster's (R212). -/
def loadBound (k : Nat) (r : Region) : Nat := if r.lvl = 0 && !isReeve k then 8 else if r.lvl = 2 then 72 else 28
def gatherBound (k : Nat) (r : Region) : Nat := if r.lvl = 0 && !isReeve k then 16 else if r.lvl = 2 then 112 else 48

/-- A frame with the memory path. -/
def memoryFrame (pred : Nat) (pn : Bool) (occupancy : Nat) (vs : List (Nat × Bool)) : VFrame :=
  { pred := pred, pn := pn, groups := [], use := some (.memory, occupancy), reads := vs.map fun q => (.v, q.1),
    frees := vs.map fun q => (.v, q.1, q.2), scalars := [] }

/-- A byte of a region. -/
def vectorByte (s : State) (k : Nat) (r : Region) (f : Nat) : Byte :=
  match r.key k f with
  | none => 0
  | some a => memGet s.spad a

/-- n bytes of a region from position f, as a number. -/
def vectorBytes (s : State) (k : Nat) (r : Region) (f n : Nat) : Nat :=
  bytesValue ((List.range n).map fun i => vectorByte s k r (f + i))

/-! ### The order in which a crew's accesses are served (R205, R216) -/

/-- The stores that are served before an access to bytes of a scratchpad: those that one bank or share with it serves, and those
that must be performed before them. -/
def servedFirst (keys : List Nat) (l : List VStore) : List VStore :=
  let places := (keys.map servedAt).eraseDups
  l.foldr (fun v acc => if (v.keys.any fun a => places.contains (servedAt a)) || acc.any (storesClash v ·) then v :: acc else acc) []

/-- A load is served after the crew's earlier stores on its banks and shares: they are performed first (R205, R216). -/
def serveStores (s : State) (c : Crew) (keys : List Nat) : State × Crew :=
  match servedFirst keys c.vstores with
  | [] => (s, c)
  | l =>
    ({ s with spad := l.foldl performVector s.spad },
     settle { c with vstores := c.vstores.filter fun v => !l.any (·.seq == v.seq) })

/-- The accesses of a vector word: for each bank or share, the number of 128-byte lines there that it touches. -/
def lineCounts (keys : List Nat) : List (Nat × Nat) :=
  let lines := (keys.map (· / 128)).eraseDups
  let places := lines.map fun l => servedAt (128 * l)
  places.eraseDups.map fun p => (p, (places.filter (· == p)).length)

/-- The bookkeeping of a vector word's accesses: the crew, and the count by which they are served. On a bank each takes a turn
of the wheel, 8 counts, behind the crew's earlier ones; of a share each line takes half a count, and the bound of the level
covers four (R216, Table 07.5). -/
def takePath (c : Crew) (bound : Nat) (keys : List Nat) : Crew × Nat :=
  (lineCounts keys).foldl (fun q p =>
    let start := max c.counter (mapGetD q.1.served p.1 0)
    if p.1 < 64 then
      let last := start + 8 * p.2
      ({ q.1 with served := mapSet q.1.served p.1 last }, max q.2 last)
    else
      ({ q.1 with served := mapSet q.1.served p.1 (start + (p.2 + 1) / 2) }, max q.2 (start + bound + (p.2 - 3) / 2))) (c, c.counter)

/-- A load of bytes of a scratchpad: the stores before it are performed, and its accesses are entered. -/
def loadPath (s : State) (c : Crew) (bound : Nat) (keys : List Nat) : State × Crew :=
  let (s, c) := serveStores s c keys
  (s, (takePath c bound keys).1)

/-- Adds a store that is still to be performed, by the count that Table 07.5 and the crew's earlier accesses give it. -/
def addStore (s : State) (c : Crew) (bound : Nat) (writes : List Host.Cell) (adds : List VAdd) (ordered : Bool) : Effect :=
  if writes.isEmpty && adds.isEmpty then .done s c
  else
    let v : VStore := { seq := s.stamp, issued := c.counter, epoch := c.epochV, writes := writes, adds := adds, ordered := ordered,
                        due := 0 }
    let (c, due) := takePath c bound v.keys
    .done (bump s) { c with vstores := c.vstores ++ [{ v with due := due }] }

/-- A word on a tile register: it waits while the register is busy, and traps on another cluster's region (R219, R220). -/
def tileWord (f : VFrame) (t : Nat) (writes : Bool) (s : State) (body : State → Nat → Crew → PredReg → Region → Effect) : Out :=
  vectorWord f s fun s k c g =>
    match tileUse s k c t writes with
    | .foreign => .trap 0x01 0xA
    | .busy => .stall s
    | .region r => body s k c g r

/-! ### VLD and VST (R200) -/

/-- VLD. -/
def execVld (sz : BitVec 2) (o : FmtM) (s : State) : Out :=
  let len := 64 * 2 ^ sz.toNat
  vectorWord (memoryFrame o.pred.toNat o.pn (if len = 512 then 2 else 1) []) s fun s k c g =>
    if o.off.toInt < 0 ∨ o.off.toNat % 64 ≠ 0 then .trap 0x05 (o.off.signExtend 64)
    else
      match tileUse s k c o.ra.toNat false with
      | .foreign => .trap 0x01 0xA
      | .busy => .stall s
      | .region r =>
        let (s, c) := loadPath s c (loadBound k r) ((List.range len).filterMap fun i => r.key k (o.off.toNat + i))
        let l := (List.range 512).map fun i =>
          if i < len && active g 8 i then some ((vectorByte s k r (o.off.toNat + i)).toNat, (0 : FlagSet)) else none
        .done s (putRegister c o.rd.toNat 8 false l (loadBound k r))

/-- VST. -/
def execVst (sz : BitVec 2) (o : FmtM) (s : State) : Out :=
  let len := 64 * 2 ^ sz.toNat
  vectorWord (memoryFrame o.pred.toNat o.pn (if len = 512 then 2 else 1) [(o.rd.toNat, o.ld)]) s fun s k c g =>
    if o.off.toInt < 0 ∨ o.off.toNat % 64 ≠ 0 then .trap 0x05 (o.off.signExtend 64)
    else
      match tileUse s k c o.ra.toNat true with
      | .foreign => .trap 0x01 0xA
      | .busy => .stall s
      | .region r =>
        let v := readV s c 0 o.rd.toNat
        let cells := (List.range len).filterMap fun i =>
          if active g 8 i then (r.key k (o.off.toNat + i)).map fun a => (a, BitVec.ofNat 8 (elem 8 v i)) else none
        addStore s c (loadBound k r) cells [] false

/-! ### Gathers and scatters (R202-R205) -/

/-- The positions of element j of a region's array of elements of n bytes; none outside the region. -/
def elementAt (r : Region) (n j : Nat) : Option Nat := if (j + 1) * n ≤ r.size then some (j * n) else none

/-- The end of a gather: element i takes region element index i. -/
def gatherBody (o : FmtA) (s : State) (k : Nat) (c : Crew) (g : PredReg) (r : Region) (index : Nat → Nat) : Effect :=
  let w := typeWidth o.ty.toNat
  let n := w / 8
  let wanted := (List.range (elementCount w)).filter (active g w)
  let (s, c) := loadPath s c (gatherBound k r) (wanted.flatMap fun i =>
    match elementAt r n (index i) with | some f => (List.range n).filterMap fun j => r.key k (f + j) | none => [])
  let l := onActive g w (elementCount w) fun i =>
    (match elementAt r n (index i) with | some f => vectorBytes s k r f n | none => 0, 0)
  .done s (putRegister c o.rd.toNat w (zeroing o) l (gatherBound k r))

/-- VGATH. -/
def execVgath (o : FmtA) (s : State) : Out :=
  tileWord (memoryFrame o.pred.toNat o.pn 4 [(o.rb.toNat, o.lb)]) o.ra.toNat false s fun s k c g r =>
    let b := readV s c 1 o.rb.toNat
    gatherBody o s k c g r fun i => elem (typeWidth o.ty.toNat) b i

/-- VGATHQ (R202, R245): pops one entry of the Gleaner's queue for each active element. -/
def execVgathq (o : FmtA) (s : State) : Out :=
  tileWord (memoryFrame o.pred.toNat o.pn 4 []) o.ra.toNat false s fun s k c g r =>
    let w := typeWidth o.ty.toNat
    let wanted := (List.range (elementCount w)).filter (active g w)
    let q := c.gleaner.queue
    if q.length < wanted.length then .trap 0x01 8
    else
      let taken := q.take wanted.length
      if taken.any Option.isNone then .stall s
      else
        let c := { c with gleaner := { c.gleaner with queue := q.drop wanted.length } }
        gatherBody o s k c g r fun i =>
          match taken[(wanted.takeWhile (· != i)).length]? with
          | some (some v) => v.toNat
          | _ => 0

/-- The elements that a scatter writes: region element's key and the vector element's index, ascending. An 8-bit type takes the
8-bit element of vB as an unsigned index (DESIGN CHOICE, log 81: R202 gives UI16 and UI32 indices only). -/
def scatterTargets (o : FmtA) (k : Nat) (g : PredReg) (r : Region) (b : VecReg) : List (Nat × Nat) :=
  let w := typeWidth o.ty.toNat
  (List.range (elementCount w)).filterMap fun i =>
    if active g w i then
      match elementAt r (w / 8) (elem w b i) with
      | some f => (r.key k f).map fun a => (a, i)
      | none => none
    else none

/-- VSCAT (R203): the highest-numbered of the elements that name one region element is written last. -/
def execVscat (o : FmtA) (s : State) : Out :=
  tileWord (memoryFrame o.pred.toNat o.pn 4 [(o.rb.toNat, o.lb), (o.rc.toNat, o.lc)]) o.ra.toNat true s fun s k c g r =>
    let w := typeWidth o.ty.toNat
    let v := readV s c 2 o.rc.toNat
    let cells := (scatterTargets o k g r (readV s c 1 o.rb.toNat)).flatMap fun q =>
      (valueBytes (w / 8) (elem w v q.2)).zipIdx.map fun b => (q.1 + b.2, b.1)
    addStore s c (loadBound k r) cells [] false

/-- VSCATADD (R204). -/
def execVscatadd (o : FmtA) (s : State) : Out :=
  tileWord (memoryFrame o.pred.toNat o.pn 4 [(o.rb.toNat, o.lb), (o.rc.toNat, o.lc)]) o.ra.toNat true s fun s k c g r =>
    let t := o.ty.toNat
    let w := typeWidth t
    let v := readV s c 2 o.rc.toNat
    let adds := (scatterTargets o k g r (readV s c 1 o.rb.toNat)).map fun q =>
      ({ key := q.1, ty := t, mode := modeCode c o.mod, value := elem w v q.2, random := wordRandom c q.2 } : VAdd)
    addStore s (advanceRandom c o.mod (isFloat t)) (loadBound k r) [] adds (o.mod.getLsbD 0)

end Sys2Proof.Machine
end

