-- ==== Sys2Proof/Machine/VectorMove.lean ====
section
/-!
DEFINITION. Cross-lane movement (R182, R198, R199), moves between scalar and vector registers (R208), and the predicate words
(R209-R211).
-/
namespace Sys2Proof.Machine
open Sys2Proof.Config

/-! ### Reads that fall through (R182) -/

/-- The nearest active element at or below j, going down no further than the given number of elements; none where there is
none. -/
def fallThrough (act : Nat → Bool) : Nat → Nat → Option Nat
  | 0, j => if act j then some j else none
  | d + 1, j => if act j then some j else fallThrough act d (j - 1)

/-- A read of source element j of n, with the identity operand where no element answers. -/
def laneRead (act : Nat → Bool) (n : Nat) (read : Nat → Nat) (identity : Nat) (j : Int) : Nat :=
  if 0 ≤ j ∧ j < n then
    match fallThrough act j.toNat j.toNat with
    | some i => read i
    | none => identity
  else identity

/-- The frame of a cross-lane word: its vector and its scalar sources. -/
def laneFrame (o : FmtA) (xs : List (Nat × BitVec 6 × Bool)) (vs : List (Nat × Bool)) : VFrame :=
  { pred := o.pred.toNat, pn := o.pn, groups := [], use := some (.pipe, 2)
    reads := (vs.map fun q => (.v, q.1)) ++ xs.map fun q => (.x, q.2.1.toNat)
    frees := (vs.map fun q => (.v, q.1, q.2)) ++ xs.map fun q => (.x, q.2.1.toNat, q.2.2)
    scalars := xs.map fun q => (q.1, q.2.1) }

/-- VPERM (R198): bytes within each half. -/
def execVperm (o : FmtA) (s : State) : Out :=
  vectorWord (laneFrame o [(2, o.rc, o.lc)] [(o.ra.toNat, o.la), (o.rb.toNat, o.lb)]) s fun s _ c g =>
    let a := readV s c 0 o.ra.toNat
    let b := readV s c 1 o.rb.toNat
    let identity := (readX s c 2 o.rc).toNat % 256
    let l := onActive g 8 512 fun i =>
      let half := i / 256 * 256
      (laneRead (fun j => active g 8 (half + j)) 256 (fun j => elem 8 a (half + j)) identity (elem 8 b i : Nat), 0)
    .done s (putRegister c o.rd.toNat 8 (zeroing o) l 4)

/-- The body of the element cross-lane forms: source gives j for element i (Table 07.4). -/
def laneBody (o : FmtA) (s : State) (c : Crew) (g : PredReg) (source : Nat → Int) : Effect :=
  let w := typeWidth o.ty.toNat
  let n := elementCount w
  let a := readV s c 0 o.ra.toNat
  let identity := (readX s c 2 o.rc).toNat % 2 ^ w
  let l := onActive g w n fun i => (laneRead (active g w) n (elem w a) identity (source i), 0)
  .done s (putRegister c o.rd.toNat w (zeroing o) l 4)

/-- VSHUF (R199). -/
def execVshuf (o : FmtA) (s : State) : Out :=
  vectorWord (laneFrame o [(2, o.rc, o.lc)] [(o.ra.toNat, o.la), (o.rb.toNat, o.lb)]) s fun s _ c g =>
    let w := typeWidth o.ty.toNat
    let b := readV s c 1 o.rb.toNat
    laneBody o s c g fun i => (elem w b i % elementCount w : Nat)
/-- VBCAST (R199). -/
def execVbcast (o : FmtA) (s : State) : Out :=
  vectorWord (laneFrame o [(1, o.rb, o.lb), (2, o.rc, o.lc)] [(o.ra.toNat, o.la)]) s fun s _ c g =>
    let j := (readX s c 1 o.rb).toNat % elementCount (typeWidth o.ty.toNat)
    laneBody o s c g fun _ => (j : Nat)
/-- VXLANE (R199). -/
def execVxlane (o : FmtA) (s : State) : Out :=
  vectorWord (laneFrame o [(1, o.rb, o.lb), (2, o.rc, o.lc)] [(o.ra.toNat, o.la)]) s fun s _ c g =>
    let d := (readX s c 1 o.rb).toInt
    laneBody o s c g fun i => (i : Nat) + d

/-! ### VMOVS (R208) -/

/-- VMOVS to a vector register. -/
def execVmovsToVector (o : FmtA) (s : State) : Out :=
  vectorWord (laneFrame o [(0, o.ra, o.la)] []) s fun s _ c g =>
    let w := typeWidth o.ty.toNat
    let v := (readX s c 0 o.ra).toNat % 2 ^ w
    .done s (putRegister c o.rd.toNat w (zeroing o) (onActive g w (elementCount w) fun _ => (v, 0)) 2)

/-- VMOVS of an element to a scalar register. -/
def execVmovsToScalar (o : FmtA) (s : State) : Out :=
  runWord s .v false (guardA o) [(.v, o.ra.toNat, o.la), (.x, o.rb.toNat, o.lb)] [(.v, o.ra.toNat), (.x, o.rb.toNat)]
    fun s _ str c =>
      match poisonedX s c [(1, o.rb)] with
      | some a => .trap 0x04 a
      | none =>
        let t := o.ty.toNat
        let w := typeWidth t
        let v := elem w (readV s c 0 o.ra.toNat) ((readX s c 1 o.rb).toNat % elementCount w)
        .done s (pendX c str o.rd (BitVec.ofInt 64 (intOf w (typeSigned t) v)) false 4)

/-- VMOVS from the data queue (R120-R122, R208). -/
def execVmovsDq (o : FmtA) (s : State) : Out :=
  runWord s .v false (guardA o) [] [] fun s _ str c =>
    match popped c c.dataQ with
    | none => .trap 0x01 1
    | some e =>
      if e.src.isSome then .stall s
      else .done s (pendX { c with dataQ := c.dataQ.tail } str o.rd e.val e.poison 1)

/-! ### Predicate words (R209-R211) -/

/-- A predicate word on the 256 bits of its sources, n of them (R209). -/
def predicateWord (o : FmtA) (n : Nat) (f : PredReg → PredReg → PredReg) (s : State) : Out :=
  vectorWord
    { pred := o.pred.toNat, pn := o.pn, groups := [], use := none
      reads := ([(.p, o.ra.toNat), (.p, o.rb.toNat)] : List (RegFile × Nat)).take n
      frees := ([(.p, o.ra.toNat, o.la), (.p, o.rb.toNat, o.lb)] : List (RegFile × Nat × Bool)).take n
      scalars := [] } s fun s _ c g =>
    let v := f (readP s c 0 o.ra.toNat) (readP s c 1 o.rb.toNat)
    .done s (pendP c .v o.rd.toNat (if zeroing o then BitVec.allOnes 256 else g) (v &&& g) 1)

/-- PAND (R209). -/
def execPand (o : FmtA) (s : State) : Out := predicateWord o 2 (fun a b => a &&& b) s
/-- POR (R209). -/
def execPor (o : FmtA) (s : State) : Out := predicateWord o 2 (fun a b => a ||| b) s
/-- PXOR (R209). -/
def execPxor (o : FmtA) (s : State) : Out := predicateWord o 2 (fun a b => a ^^^ b) s
/-- PNOT (R209). -/
def execPnot (o : FmtA) (s : State) : Out := predicateWord o 1 (fun a _ => ~~~a) s
/-- PMOV (R209). -/
def execPmov (o : FmtA) (s : State) : Out := predicateWord o 1 (fun a _ => a) s

/-- PSET (R210): the first m bits are set. -/
def execPset (o : FmtI) (s : State) : Out :=
  runWord s .v false none (freesI o) (if o.imm.getLsbD 29 then [(.x, o.ra.toNat)] else []) fun s _ str c =>
    match poisonedX s c (if o.imm.getLsbD 29 then [(0, o.ra)] else []) with
    | some a => .trap 0x04 a
    | none =>
      let n := if o.imm.getLsbD 29 then min (readX s c 0 o.ra).toNat 256 else (o.imm.extractLsb' 0 9).toNat
      let m := if o.imm.getLsbD 9 then 2 * min n 128 else min n 256
      .done s (pendP c str o.rd.toNat (BitVec.allOnes 256) (BitVec.ofNat 256 (2 ^ m - 1)) 1)

/-- The granules or elements that PCNT and PFIRST count (R211). -/
def countedLanes (t : Nat) (p g : PredReg) : List Nat :=
  if t = 0 then (List.range 256).filter fun i => p.getLsbD i && g.getLsbD i
  else (List.range 128).filter fun i => p.getLsbD (2 * i) && g.getLsbD (2 * i)

/-- PCNT and PFIRST (R211). -/
def countedWord (o : FmtA) (f : List Nat → Nat → Nat) (s : State) : Out :=
  vectorWord
    { pred := o.pred.toNat, pn := o.pn, groups := [], use := none, reads := [(.p, o.ra.toNat)],
      frees := [(.p, o.ra.toNat, o.la)], scalars := [] } s fun s _ c g =>
    let t := o.ty.toNat
    let n := f (countedLanes t (readP s c 0 o.ra.toNat) g) (if t = 0 then 256 else 128)
    .done s (pendX c .v o.rd (BitVec.ofNat 64 n) false 2)
/-- PCNT (R211). -/
def execPcnt (o : FmtA) (s : State) : Out := countedWord o (fun l _ => l.length) s
/-- PFIRST (R211). -/
def execPfirst (o : FmtA) (s : State) : Out := countedWord o (fun l n => l.headD n) s

end Sys2Proof.Machine
end

