-- ==== Sys2Proof/Machine/Dispatch.lean ====
section
/-!
DEFINITION. The dispatch: one arm per constructor of Instr, each one direct call of its meaning.
-/
namespace Sys2Proof.Machine

/-- What an instruction does: a word as State.cur issues it, a command as the command port executes it, an event as it strikes. -/
def exec (i : Instr) (s : State) : Host.Outcome State Fault Refusal :=
  match i with
  | .jobopen c => Sys2Proof.Machine.execJobopen c s
  | .jobend c => Sys2Proof.Machine.execJobend c s
  | .phaseopen c => Sys2Proof.Machine.execPhaseopen c s
  | .phaseclose c => Sys2Proof.Machine.execPhaseclose c s
  | .launch c => Sys2Proof.Machine.execLaunch c s
  | .replay c => Sys2Proof.Machine.execReplay c s
  | .gpatch c => Sys2Proof.Machine.execGpatch c s
  | .cancelCommand c => Sys2Proof.Machine.execCancelCommand c s
  | .gpatchRelease => Sys2Proof.Machine.execGpatchRelease s
  | .cqtailWrite v => Sys2Proof.Machine.execCqtailWrite v s
  | .cqbaseWrite v => Sys2Proof.Machine.execCqbaseWrite v s
  | .cpbaseWrite v => Sys2Proof.Machine.execCpbaseWrite v s
  | .cpheadWrite v => Sys2Proof.Machine.execCpheadWrite v s
  | .enWrite v => Sys2Proof.Machine.execEnWrite v s
  | .errClear => Sys2Proof.Machine.execErrClear s
  | .attreqWrite v => Sys2Proof.Machine.execAttreqWrite v s
  | .attestationReport => Sys2Proof.Machine.execAttestationReport s
  | .registerWrite offset v => Sys2Proof.Machine.execRegisterWrite offset v s
  | .docketCreationResume => Sys2Proof.Machine.execDocketCreationResume s
  | .dispatch slot => Sys2Proof.Machine.execDispatch slot s
  | .docketPromotion uid => Sys2Proof.Machine.execDocketPromotion uid s
  | .gangReservation uid => Sys2Proof.Machine.execGangReservation uid s
  | .crewRetire slot => Sys2Proof.Machine.execCrewRetire slot s
  | .instructionFetchReturn slot str => Sys2Proof.Machine.execInstructionFetchReturn slot str s
  | .translationReturn slot seq => Sys2Proof.Machine.execTranslationReturn slot seq s
  | .loadDataArrive slot seq => Sys2Proof.Machine.execLoadDataArrive slot seq s
  | .lateFaultDelivery slot => Sys2Proof.Machine.execLateFaultDelivery slot s
  | .signalTakeEffect slot seq => Sys2Proof.Machine.execSignalTakeEffect slot seq s
  | .msemwaitReread slot => Sys2Proof.Machine.execMsemwaitReread slot s
  | .waitcReread slot => Sys2Proof.Machine.execWaitcReread slot s
  | .cbSlotFree slot tile => Sys2Proof.Machine.execCbSlotFree slot tile s
  | .copyCmdStart core => Sys2Proof.Machine.execCopyCmdStart core s
  | .copyCmdComplete core => Sys2Proof.Machine.execCopyCmdComplete core s
  | .gleanerFill slot => Sys2Proof.Machine.execGleanerFill slot s
  | .mclaimGrant core slot => Sys2Proof.Machine.execMclaimGrant core slot s
  | .matrixCmdStart core unit => Sys2Proof.Machine.execMatrixCmdStart core unit s
  | .matrixCmdComplete core unit => Sys2Proof.Machine.execMatrixCmdComplete core unit s
  | .bankQueueCmdStart core => Sys2Proof.Machine.execBankQueueCmdStart core s
  | .millGrant core => Sys2Proof.Machine.execMillGrant core s
  | .bqcmdComplete core id => Sys2Proof.Machine.execBqcmdComplete core id s
  | .millWatchdog mill => Sys2Proof.Machine.execMillWatchdog mill s
  | .wheelRevolution mill => Sys2Proof.Machine.execWheelRevolution mill s
  | .hostReservedService mill bank row => Sys2Proof.Machine.execHostReservedService mill bank row s
  | .patrolScrub stack => Sys2Proof.Machine.execPatrolScrub stack s
  | .porterCmdStart core => Sys2Proof.Machine.execPorterCmdStart core s
  | .porterCmdComplete core id => Sys2Proof.Machine.execPorterCmdComplete core id s
  | .fabricResponse k => Sys2Proof.Machine.execFabricResponse k s
  | .fabricTimeout tag => Sys2Proof.Machine.execFabricTimeout tag s
  | .fabricRead k => Sys2Proof.Machine.execFabricRead k s
  | .fabricWrite k => Sys2Proof.Machine.execFabricWrite k s
  | .fabricFadd k => Sys2Proof.Machine.execFabricFadd k s
  | .fabricSignal k => Sys2Proof.Machine.execFabricSignal k s
  | .fabricMwrite k => Sys2Proof.Machine.execFabricMwrite k s
  | .physicalLentAccess k => Sys2Proof.Machine.execPhysicalLentAccess k s
  | .flitReceive port flit => Sys2Proof.Machine.execFlitReceive port flit s
  | .slotTick => Sys2Proof.Machine.execSlotTick s
  | .frameStart => Sys2Proof.Machine.execFrameStart s
  | .combineWindowExpire k => Sys2Proof.Machine.execCombineWindowExpire k s
  | .leaseGrantMessage peer lid reg0 nreg => Sys2Proof.Machine.execLeaseGrantMessage peer lid reg0 nreg s
  | .leaseGrantAnswer peer lid status => Sys2Proof.Machine.execLeaseGrantAnswer peer lid status s
  | .leaseGrantTimeout lid => Sys2Proof.Machine.execLeaseGrantTimeout lid s
  | .leaseRecallMessage peer lid deadline => Sys2Proof.Machine.execLeaseRecallMessage peer lid deadline s
  | .leaseReleaseMessage peer lid => Sys2Proof.Machine.execLeaseReleaseMessage peer lid s
  | .leaseReleaseAnswer peer lid status => Sys2Proof.Machine.execLeaseReleaseAnswer peer lid status s
  | .leaseRevokeMessage peer lid => Sys2Proof.Machine.execLeaseRevokeMessage peer lid s
  | .leaseDeadline lid => Sys2Proof.Machine.execLeaseDeadline lid s
  | .tlbiComplete cluster => Sys2Proof.Machine.execTlbiComplete cluster s
  | .icinvComplete cluster => Sys2Proof.Machine.execIcinvComplete cluster s
  | .preemptComplete slot => Sys2Proof.Machine.execPreemptComplete slot s
  | .haltWake cluster => Sys2Proof.Machine.execHaltWake cluster s
  | .hardwareError slot code => Sys2Proof.Machine.execHardwareError slot code s
  | .droopDetect cluster => Sys2Proof.Machine.execDroopDetect cluster s
  | .droopRecover cluster => Sys2Proof.Machine.execDroopRecover cluster s
  | .holdEntry => Sys2Proof.Machine.execHoldEntry s
  | .holdExit len => Sys2Proof.Machine.execHoldExit len s
  | .orderlyStop cause => Sys2Proof.Machine.execOrderlyStop cause s
  | .ngugrimRetrainStart => Sys2Proof.Machine.execNgugrimRetrainStart s
  | .ngugrimRetrainEnd => Sys2Proof.Machine.execNgugrimRetrainEnd s
  | .ngugrimRetrainTimeout => Sys2Proof.Machine.execNgugrimRetrainTimeout s
  | .linkRetrainStart port => Sys2Proof.Machine.execLinkRetrainStart port s
  | .linkRetrainEnd port => Sys2Proof.Machine.execLinkRetrainEnd port s
  | .linkDown port => Sys2Proof.Machine.execLinkDown port s
  | .shockEvent peak => Sys2Proof.Machine.execShockEvent peak s
  | .packageBoot b => Sys2Proof.Machine.execPackageBoot b s
  | .wearUpdate days limit hours => Sys2Proof.Machine.execWearUpdate days limit hours s
  | .nop o => Sys2Proof.Machine.execNop o s
  | .brk gap data => Sys2Proof.Machine.execBrk gap data s
  | .br o => Sys2Proof.Machine.execBr o s
  | .brc o => Sys2Proof.Machine.execBrc o s
  | .jmp o => Sys2Proof.Machine.execJmp o s
  | .call o => Sys2Proof.Machine.execCall o s
  | .ret o => Sys2Proof.Machine.execRet o s
  | .brq o => Sys2Proof.Machine.execBrq o s
  | .loop o => Sys2Proof.Machine.execLoop o s
  | .loopi o => Sys2Proof.Machine.execLoopi o s
  | .qpush o => Sys2Proof.Machine.execQpush o s
  | .rvz o => Sys2Proof.Machine.execRvz o s
  | .exit o => Sys2Proof.Machine.execExit o s
  | .spawn o => Sys2Proof.Machine.execSpawn o s
  | .joindec o => Sys2Proof.Machine.execJoindec o s
  | .waitc o => Sys2Proof.Machine.execWaitc o s
  | .cancel o => Sys2Proof.Machine.execCancel o s
  | .add o => Sys2Proof.Machine.execAdd o s
  | .sub o => Sys2Proof.Machine.execSub o s
  | .and o => Sys2Proof.Machine.execAnd o s
  | .or o => Sys2Proof.Machine.execOr o s
  | .xor o => Sys2Proof.Machine.execXor o s
  | .andn o => Sys2Proof.Machine.execAndn o s
  | .shl o => Sys2Proof.Machine.execShl o s
  | .shr o => Sys2Proof.Machine.execShr o s
  | .sra o => Sys2Proof.Machine.execSra o s
  | .rot o => Sys2Proof.Machine.execRot o s
  | .min o => Sys2Proof.Machine.execMin o s
  | .max o => Sys2Proof.Machine.execMax o s
  | .minz o => Sys2Proof.Machine.execMinz o s
  | .maxz o => Sys2Proof.Machine.execMaxz o s
  | .sel o => Sys2Proof.Machine.execSel o s
  | .clz o => Sys2Proof.Machine.execClz o s
  | .ctz o => Sys2Proof.Machine.execCtz o s
  | .popc o => Sys2Proof.Machine.execPopc o s
  | .bswap o => Sys2Proof.Machine.execBswap o s
  | .mul o => Sys2Proof.Machine.execMul o s
  | .mulh o => Sys2Proof.Machine.execMulh o s
  | .mulhz o => Sys2Proof.Machine.execMulhz o s
  | .div o => Sys2Proof.Machine.execDiv o s
  | .divz o => Sys2Proof.Machine.execDivz o s
  | .rem o => Sys2Proof.Machine.execRem o s
  | .remz o => Sys2Proof.Machine.execRemz o s
  | .cmp k o => Sys2Proof.Machine.execCmp k o s
  | .bfx o => Sys2Proof.Machine.execBfx o s
  | .bfi o => Sys2Proof.Machine.execBfi o s
  | .pfxh o => Sys2Proof.Machine.execPfxh o s
  | .addi o => Sys2Proof.Machine.execAddi o s
  | .andi o => Sys2Proof.Machine.execAndi o s
  | .ori o => Sys2Proof.Machine.execOri o s
  | .li o => Sys2Proof.Machine.execLi o s
  | .lih o => Sys2Proof.Machine.execLih o s
  | .ldb o => Sys2Proof.Machine.execLdb o s
  | .ldbz o => Sys2Proof.Machine.execLdbz o s
  | .ldh o => Sys2Proof.Machine.execLdh o s
  | .ldhz o => Sys2Proof.Machine.execLdhz o s
  | .ldw o => Sys2Proof.Machine.execLdw o s
  | .ldwz o => Sys2Proof.Machine.execLdwz o s
  | .ldd o => Sys2Proof.Machine.execLdd o s
  | .stb o => Sys2Proof.Machine.execStb o s
  | .sth o => Sys2Proof.Machine.execSth o s
  | .stw o => Sys2Proof.Machine.execStw o s
  | .std o => Sys2Proof.Machine.execStd o s
  | .lds o => Sys2Proof.Machine.execLds o s
  | .chk o => Sys2Proof.Machine.execChk o s
  | .vld sz o => Sys2Proof.Machine.execVld sz o s
  | .vst sz o => Sys2Proof.Machine.execVst sz o s
  | .vadd o => Sys2Proof.Machine.execVadd o s
  | .vsub o => Sys2Proof.Machine.execVsub o s
  | .vmul o => Sys2Proof.Machine.execVmul o s
  | .vmin o => Sys2Proof.Machine.execVmin o s
  | .vmax o => Sys2Proof.Machine.execVmax o s
  | .vabs o => Sys2Proof.Machine.execVabs o s
  | .vneg o => Sys2Proof.Machine.execVneg o s
  | .vabd o => Sys2Proof.Machine.execVabd o s
  | .vmulh o => Sys2Proof.Machine.execVmulh o s
  | .vfma o => Sys2Proof.Machine.execVfma o s
  | .vfms o => Sys2Proof.Machine.execVfms o s
  | .vfnma o => Sys2Proof.Machine.execVfnma o s
  | .vfnms o => Sys2Proof.Machine.execVfnms o s
  | .vand o => Sys2Proof.Machine.execVand o s
  | .vor o => Sys2Proof.Machine.execVor o s
  | .vxor o => Sys2Proof.Machine.execVxor o s
  | .vandn o => Sys2Proof.Machine.execVandn o s
  | .vnot o => Sys2Proof.Machine.execVnot o s
  | .vshl o => Sys2Proof.Machine.execVshl o s
  | .vshr o => Sys2Proof.Machine.execVshr o s
  | .vsra o => Sys2Proof.Machine.execVsra o s
  | .vrot o => Sys2Proof.Machine.execVrot o s
  | .vcmp k o => Sys2Proof.Machine.execVcmp k o s
  | .vsel o => Sys2Proof.Machine.execVsel o s
  | .vcvt k o => Sys2Proof.Machine.execVcvt k o s
  | .vwmul o => Sys2Proof.Machine.execVwmul o s
  | .vdot o => Sys2Proof.Machine.execVdot o s
  | .vred k o => Sys2Proof.Machine.execVred k o s
  | .vredx k o => Sys2Proof.Machine.execVredx k o s
  | .vscan k o => Sys2Proof.Machine.execVscan k o s
  | .vperm o => Sys2Proof.Machine.execVperm o s
  | .vshuf o => Sys2Proof.Machine.execVshuf o s
  | .vbcast o => Sys2Proof.Machine.execVbcast o s
  | .vxlane o => Sys2Proof.Machine.execVxlane o s
  | .vgath o => Sys2Proof.Machine.execVgath o s
  | .vscat o => Sys2Proof.Machine.execVscat o s
  | .vscatadd o => Sys2Proof.Machine.execVscatadd o s
  | .vgathq o => Sys2Proof.Machine.execVgathq o s
  | .vqnt o => Sys2Proof.Machine.execVqnt o s
  | .vdeq o => Sys2Proof.Machine.execVdeq o s
  | .vmovsToVector o => Sys2Proof.Machine.execVmovsToVector o s
  | .vmovsToScalar o => Sys2Proof.Machine.execVmovsToScalar o s
  | .vmovsDq o => Sys2Proof.Machine.execVmovsDq o s
  | .pand o => Sys2Proof.Machine.execPand o s
  | .por o => Sys2Proof.Machine.execPor o s
  | .pxor o => Sys2Proof.Machine.execPxor o s
  | .pnot o => Sys2Proof.Machine.execPnot o s
  | .pmov o => Sys2Proof.Machine.execPmov o s
  | .pset o => Sys2Proof.Machine.execPset o s
  | .pcnt o => Sys2Proof.Machine.execPcnt o s
  | .pfirst o => Sys2Proof.Machine.execPfirst o s
  | .vrcpa o => Sys2Proof.Machine.execVrcpa o s
  | .vrsqa o => Sys2Proof.Machine.execVrsqa o s
  | .vsqrt o => Sys2Proof.Machine.execVsqrt o s
  | .vexp2 o => Sys2Proof.Machine.execVexp2 o s
  | .vlog2 o => Sys2Proof.Machine.execVlog2 o s
  | .vsint o => Sys2Proof.Machine.execVsint o s
  | .vcost o => Sys2Proof.Machine.execVcost o s
  | .vrng o => Sys2Proof.Machine.execVrng o s
  | .tld o => Sys2Proof.Machine.execTld o s
  | .tst o => Sys2Proof.Machine.execTst o s
  | .tmov o => Sys2Proof.Machine.execTmov o s
  | .tcopy2d o => Sys2Proof.Machine.execTcopy2d o s
  | .clist o => Sys2Proof.Machine.execClist o s
  | .trope o => Sys2Proof.Machine.execTrope o s
  | .cbinit o => Sys2Proof.Machine.execCbinit o s
  | .cbwait o => Sys2Proof.Machine.execCbwait o s
  | .cbdone o => Sys2Proof.Machine.execCbdone o s
  | .glcfg o => Sys2Proof.Machine.execGlcfg o s
  | .glgo o => Sys2Proof.Machine.execGlgo o s
  | .mcfg o => Sys2Proof.Machine.execMcfg o s
  | .mgo o => Sys2Proof.Machine.execMgo o s
  | .mclaim o => Sys2Proof.Machine.execMclaim o s
  | .mrel o => Sys2Proof.Machine.execMrel o s
  | .mldo o => Sys2Proof.Machine.execMldo o s
  | .mret o => Sys2Proof.Machine.execMret o s
  | .mcell o => Sys2Proof.Machine.execMcell o s
  | .bqcmd o => Sys2Proof.Machine.execBqcmd o s
  | .bqload o => Sys2Proof.Machine.execBqload o s
  | .winfence o => Sys2Proof.Machine.execWinfence o s
  | .seminit o => Sys2Proof.Machine.execSeminit o s
  | .semsig o => Sys2Proof.Machine.execSemsig o s
  | .semwait o => Sys2Proof.Machine.execSemwait o s
  | .msemsig o => Sys2Proof.Machine.execMsemsig o s
  | .msemwait o => Sys2Proof.Machine.execMsemwait o s
  | .fence o => Sys2Proof.Machine.execFence o s
  | .fenceAll o => Sys2Proof.Machine.execFenceAll o s
  | .aadd o => Sys2Proof.Machine.execAadd o s
  | .amin o => Sys2Proof.Machine.execAmin o s
  | .amax o => Sys2Proof.Machine.execAmax o s
  | .aand o => Sys2Proof.Machine.execAand o s
  | .aor o => Sys2Proof.Machine.execAor o s
  | .axor o => Sys2Proof.Machine.execAxor o s
  | .aswp o => Sys2Proof.Machine.execAswp o s
  | .acas o => Sys2Proof.Machine.execAcas o s
  | .afadd o => Sys2Proof.Machine.execAfadd o s
  | .fld o => Sys2Proof.Machine.execFld o s
  | .fst o => Sys2Proof.Machine.execFst o s
  | .fget o => Sys2Proof.Machine.execFget o s
  | .fput o => Sys2Proof.Machine.execFput o s
  | .ffadd o => Sys2Proof.Machine.execFfadd o s
  | .fmcast o => Sys2Proof.Machine.execFmcast o s
  | .fsig o => Sys2Proof.Machine.execFsig o s
  | .leaseGrant o => Sys2Proof.Machine.execLeaseGrant o s
  | .leaseRecall o => Sys2Proof.Machine.execLeaseRecall o s
  | .leaseRelease o => Sys2Proof.Machine.execLeaseRelease o s
  | .slotswLoad o => Sys2Proof.Machine.execSlotswLoad o s
  | .slotswSwitch o => Sys2Proof.Machine.execSlotswSwitch o s
  | .trap o => Sys2Proof.Machine.execTrap o s
  | .eret o => Sys2Proof.Machine.execEret o s
  | .halt o => Sys2Proof.Machine.execHalt o s
  | .csrr o => Sys2Proof.Machine.execCsrr o s
  | .csrw o => Sys2Proof.Machine.execCsrw o s
  | .csrwTdef o => Sys2Proof.Machine.execCsrwTdef o s
  | .csrwFflags o => Sys2Proof.Machine.execCsrwFflags o s
  | .csrwFrm o => Sys2Proof.Machine.execCsrwFrm o s
  | .csrwSrctr o => Sys2Proof.Machine.execCsrwSrctr o s
  | .csrwStrict o => Sys2Proof.Machine.execCsrwStrict o s
  | .csrwMflags o => Sys2Proof.Machine.execCsrwMflags o s
  | .csrwMsh o => Sys2Proof.Machine.execCsrwMsh o s
  | .csrwFevbase o => Sys2Proof.Machine.execCsrwFevbase o s
  | .csrwTrqbase o => Sys2Proof.Machine.execCsrwTrqbase o s
  | .csrwShockst o => Sys2Proof.Machine.execCsrwShockst o s
  | .tlbi o => Sys2Proof.Machine.execTlbi o s
  | .icinv o => Sys2Proof.Machine.execIcinv o s
  | .ctxsSnap o => Sys2Proof.Machine.execCtxsSnap o s
  | .ctxsOut o => Sys2Proof.Machine.execCtxsOut o s
  | .ctxlInto o => Sys2Proof.Machine.execCtxlInto o s
  | .ctxlResume o => Sys2Proof.Machine.execCtxlResume o s
  | .splog o => Sys2Proof.Machine.execSplog o s
  | .nldVector d a m n => Sys2Proof.Machine.execNldVector d a m n s
  | .nldScalar d a n => Sys2Proof.Machine.execNldScalar d a n s
  | .nstVector sc a m n => Sys2Proof.Machine.execNstVector sc a m n s
  | .nstScalar sc a n => Sys2Proof.Machine.execNstScalar sc a n s
  | .nldk d a b m h => Sys2Proof.Machine.execNldk d a b m h s
  | .npb a => Sys2Proof.Machine.execNpb a s
  | .npbWf a => Sys2Proof.Machine.execNpbWf a s
  | .npbSet a b => Sys2Proof.Machine.execNpbSet a b s
  | .nliScalar d ix => Sys2Proof.Machine.execNliScalar d ix s
  | .nliShift d ix => Sys2Proof.Machine.execNliShift d ix s
  | .nliVector d m ix => Sys2Proof.Machine.execNliVector d m ix s
  | .nliFromMx d b m => Sys2Proof.Machine.execNliFromMx d b m s
  | .naddi d a ix => Sys2Proof.Machine.execNaddi d a ix s
  | .nadd d a b m t c sc => Sys2Proof.Machine.execNadd d a b m t c sc s
  | .naddScalar d a b t => Sys2Proof.Machine.execNaddScalar d a b t s
  | .nsub d a b m t c sc => Sys2Proof.Machine.execNsub d a b m t c sc s
  | .nsubScalar d a b t => Sys2Proof.Machine.execNsubScalar d a b t s
  | .nmul d a b m t c sc => Sys2Proof.Machine.execNmul d a b m t c sc s
  | .nmulScalar d a b t => Sys2Proof.Machine.execNmulScalar d a b t s
  | .nfma d a b m c sc => Sys2Proof.Machine.execNfma d a b m c sc s
  | .nmax d a b m t c sc => Sys2Proof.Machine.execNmax d a b m t c sc s
  | .nmaxScalar d a b t => Sys2Proof.Machine.execNmaxScalar d a b t s
  | .nmin d a b m t c sc => Sys2Proof.Machine.execNmin d a b m t c sc s
  | .nminScalar d a b t => Sys2Proof.Machine.execNminScalar d a b t s
  | .nand d a b m t c sc => Sys2Proof.Machine.execNand d a b m t c sc s
  | .nandScalar d a b t => Sys2Proof.Machine.execNandScalar d a b t s
  | .nor d a b m t c sc => Sys2Proof.Machine.execNor d a b m t c sc s
  | .norScalar d a b t => Sys2Proof.Machine.execNorScalar d a b t s
  | .nxor d a b m t c sc => Sys2Proof.Machine.execNxor d a b m t c sc s
  | .nxorScalar d a b t => Sys2Proof.Machine.execNxorScalar d a b t s
  | .nshl d a b m t c sc => Sys2Proof.Machine.execNshl d a b m t c sc s
  | .nshlScalar d a b t => Sys2Proof.Machine.execNshlScalar d a b t s
  | .nshr d a b m t c sc => Sys2Proof.Machine.execNshr d a b m t c sc s
  | .nshrScalar d a b t => Sys2Proof.Machine.execNshrScalar d a b t s
  | .nperm d a b m => Sys2Proof.Machine.execNperm d a b m s
  | .ncvt d a m p y z => Sys2Proof.Machine.execNcvt d a m p y z s
  | .ncmp d a b m t c sc k => Sys2Proof.Machine.execNcmp d a b m t c sc k s
  | .nsel d a b m c sc => Sys2Proof.Machine.execNsel d a b m c sc s
  | .ndot d a b m u q => Sys2Proof.Machine.execNdot d a b m u q s
  | .ndotBf16 d a b m q => Sys2Proof.Machine.execNdotBf16 d a b m q s
  | .nred d a m t o => Sys2Proof.Machine.execNred d a m t o s
  | .nredScalar d a m t o => Sys2Proof.Machine.execNredScalar d a m t o s
  | .nexp2 d a m => Sys2Proof.Machine.execNexp2 d a m s
  | .nsmx d a b m => Sys2Proof.Machine.execNsmx d a b m s
  | .ntrip d a b n => Sys2Proof.Machine.execNtrip d a b n s
  | .nskip d a b => Sys2Proof.Machine.execNskip d a b s
  | .nidx d a m ix => Sys2Proof.Machine.execNidx d a m ix s
  | .nidxW d m t => Sys2Proof.Machine.execNidxW d m t s
  | .nloop a l => Sys2Proof.Machine.execNloop a l s
  | .nbr o => Sys2Proof.Machine.execNbr o s
  | .nbrc n a o => Sys2Proof.Machine.execNbrc n a o s
  | .nbrcMask n k o => Sys2Proof.Machine.execNbrcMask n k o s
  | .nsems a n => Sys2Proof.Machine.execNsems a n s
  | .nsemw a => Sys2Proof.Machine.execNsemw a s
  | .nflag d c => Sys2Proof.Machine.execNflag d c s
  | .nend => Sys2Proof.Machine.execNend s
  | .idleCount slot => Sys2Proof.Machine.execIdleCount slot s
  | .writePerformed slot seq => Sys2Proof.Machine.execWritePerformed slot seq s
  | .bqloadComplete core => Sys2Proof.Machine.execBqloadComplete core s
  | .winfenceComplete core => Sys2Proof.Machine.execWinfenceComplete core s
  | .wheelSlot mill => Sys2Proof.Machine.execWheelSlot mill s
  | .csrwTrqhead o => Sys2Proof.Machine.execCsrwTrqhead o s
  | .csrwFevhead o => Sys2Proof.Machine.execCsrwFevhead o s
  | .energyStoreDepleted => Sys2Proof.Machine.execEnergyStoreDepleted s
  | .reservedMajorWord w => Sys2Proof.Machine.execReservedMajorWord w s
  | .reservedMillWord w => Sys2Proof.Machine.execReservedMillWord w s
  | .routerErrorRecovery => Sys2Proof.Machine.execRouterErrorRecovery s

end Sys2Proof.Machine
end

