-- ==== Sys2Proof/Machine/Turns.lean ====
section
/-!
DEFINITION. The turns of the agenda (log 1). A crew's turn is one clk of its lockstep group (R108-R112): it issues every due word
and the counter advances, or it stalls, or it lets an idle count pass. A Mill's turn issues its kernel's next word (R297), the
port's turn starts the next command (R36), and an event strikes. Then the places where the first instruction of a step stands. -/
namespace Sys2Proof.Machine

/-! ### The words of a crew -/

/-- The word that a decoded CTXS or CTXL is, by its mode in xB<0> (R397, R399). -/
def resolve (s : State) (k : Nat) (i : Instr) : Instr :=
  let mode (o : FmtA) : Bool := match crewAt s k with | some c => (readX s c 1 o.rb).getLsbD 0 | none => false
  match i with
  | .ctxsSnap o => if mode o then .ctxsOut o else .ctxsSnap o
  | .ctxlInto o => if mode o then .ctxlResume o else .ctxlInto o
  | i => i

/-- The instruction that a fetched word is for the crew on a bench (R97). -/
def wordInstr (s : State) (k : Nat) (w : Word) : Instr :=
  match decodeWord w with
  | .ok i => resolve s k i
  | .error _ => .reservedMajorWord w

/-- Runs the due word of a stream, or fetches it. -/
def runDue (s : State) (k : Nat) (str : Stream) : Out :=
  match crewAt s k with
  | none => .next s
  | some c =>
    match (c.stream str).fetched with
    | some w => exec (wordInstr s k w) { s with cur := .crew k str }
    | none => execInstructionFetchReturn k str s

/-! ### A clk of a lockstep group -/

/-- What a due word did in its clk. -/
inductive Verdict where
  | done
  | stalled
  | trapped
deriving DecidableEq, Repr

/-- What happened to the due word of a stream between two states: a fetch that has returned its word is a stall clk. -/
def verdict (s t : State) (k : Nat) (str : Stream) : Verdict :=
  match crewAt s k, crewAt t k with
  | some c, some d =>
    if d.crewId ≠ c.crewId ∨ d.state ≠ .running then .trapped
    else if (c.stream str).fetched.isNone || ((d.stream str).fetched.isSome && (d.stream str).last == (c.stream str).last) then
      .stalled
    else .done
  | _, _ => .trapped

/-- Whether a word is due, or still to be fetched. -/
def stillDue (s : State) (k : Nat) (str : Stream) : Bool := crewIs s k fun c => fetchNeeded c str || isDue c str

/-- A due word that has been tried: its verdict, and the number of the next free value at its trial. -/
structure Tried where
  verdict : Verdict
  free : Nat
  slot : Nat
  str : Stream
deriving DecidableEq, Repr

/-- The verdicts on due words tried one after another, each on the state that the completing ones before it leave, with free
values of its own. A word that one before it has taken away, by cancelling its crew, is not among them. -/
def survey (s : State) : List (Nat × Stream) → Except Out (List Tried × State)
  | [] => .ok ([], s)
  | (k, str) :: rest =>
    if !stillDue s k str then survey s rest
    else
    match runDue s k str with
    | .next t =>
      let v := verdict s t k str
      match survey (if v = .done then t else { s with free := t.free }) rest with
      | .ok (l, u) => .ok ({ verdict := v, free := s.free, slot := k, str := str } :: l, u)
      | .error e => .error e
    | o => .error o

/-- Runs tried words one after another with the free values of their trials, keeping the effect of those whose verdict stays;
later words take numbers from the given one on. -/
def applyAll (free : Nat) (s : State) : List Tried → Out
  | [] => .next { s with free := max s.free free }
  | q :: rest =>
    match runDue { s with free := q.free } q.slot q.str with
    | .next t => applyAll free (if verdict s t q.slot q.str = q.verdict then t else s) rest
    | o => o

/-- The traps that are taken: that of the S-stream word where both words of a crew trap (R110). -/
def firstTraps (l : List Tried) : List Tried :=
  l.filter fun q => q.verdict = .trapped &&
    !(q.str = .v && l.any fun f => f.verdict = .trapped && f.slot == q.slot && f.str = .s)

/-- Whether the due word of a stream is CANCEL. -/
def cancels (s : State) (q : Nat × Stream) : Bool :=
  match crewAt s q.1 with
  | none => false
  | some c => match (c.stream q.2).fetched with
    | some w => match decodeWord w with
      | .ok (.cancel _) => true
      | _ => false
    | none => false

/-- The order in which the due words of a clk take effect: members ascending and the S-stream first, but a CANCEL that would
take another due word away goes last, for a crew that cancels its own level stops at its next issue slot (R135). -/
def issueOrder (s : State) (due : List (Nat × Stream)) : List (Nat × Stream) :=
  match survey s due with
  | .ok (l, _) => if l.length = due.length then due else due.filter (!cancels s ·) ++ due.filter (cancels s)
  | .error _ => due

/-- A clk of a group with several due words: all issue and the counter advances, or none issues (R109, R110, R112, R118). -/
def issueAll (s : State) (k : Nat) (due : List (Nat × Stream)) : Out :=
  match survey s (issueOrder s due) with
  | .error o => o
  | .ok (l, t) =>
    let stalls := l.filter (·.verdict = .stalled)
    if !stalls.isEmpty then applyAll t.free s stalls
    else if l.any (·.verdict = .trapped) then applyAll t.free s (firstTraps l)
    else .next (passCount t k)

/-- The end of the clk of a group's only due word: the counter advances if the word has issued (R108, R109). -/
def endClk (s t : State) (k m : Nat) (str : Stream) : State := if verdict s t m str = .done then passCount t k else t

/-- The turn of a crew and its group. -/
def crewTurn (s : State) (k : Nat) : Out :=
  if groupMay s k then
    match dueWords s k with
    | [] => execIdleCount k s
    | [(m, str)] =>
      match runDue s m str with
      | .next t => .next (endClk s t k m str)
      | o => o
    | due => issueAll s k due
  else .next s

/-! ### Defects and the end of a turn -/

/-- A cell error strikes an ECC sector: its stored bits change, or some of them read wrongly from now on (R282, R283). -/
def cellError (s : State) (k : Nat) (bits : BitVec 272) (persists : Bool) : State :=
  if persists then { s with eccStuck := mapSet s.eccStuck k (mapGetD s.eccStuck k 0 ||| bits) }
  else { s with eccErr := mapSet s.eccErr k (mapGetD s.eccErr k 0 ^^^ bits) }

/-- Scratchpad bits with some of them stuck at their values (R420, R451). -/
def stuckSpad (s : State) : Memory :=
  s.spadStuck.foldl (fun m q => memWrite m q.1 [(memGet m q.1 &&& ~~~q.2.1) ||| (q.2.2 &&& q.2.1)]) s.spad

/-- Bits of a scratchpad byte are stuck from now on (R420, R451). -/
def stuckAt (s : State) (key : Nat) (mask value : Byte) : State :=
  { s with spadStuck := mapSet s.spadStuck key (mask, value) }

/-- The state at the end of a turn that was taken: what its accesses used is used, and stuck scratchpad bits hold their values. -/
def settled (s : State) : State :=
  let s := { lentSettled s with host := s.host.settled }
  { s with spad := stuckSpad s }

/-! ### The other turns -/

/-- The turn of a Mill. -/
noncomputable def millTurn (s : State) (m : Nat) : Out :=
  if millRuns s m then
    let s := { s with cur := .mill m }
    match millWordAt s m (millAt s m).pc with
    | none => exec (.reservedMillWord 0) s
    | some w =>
      match decodeMill w with
      | .ok i => exec i s
      | .error _ => exec (.reservedMillWord w) s
  else .next s

/-- The turn of the command port: the command at CQHEAD, or BADCMD for a record that is none (R36, R37). -/
def portTurn (s : State) : Out :=
  if portReady s then
    let r := headRecord s
    match decodeCommand (BitVec.ofNat 512 r) with
    | .ok i => exec i s
    | .error _ => .next (refuseRecord s (BitVec.ofNat 32 r))
  else .next s

/-- The rows of the table that are events of the device or writes of the control node. -/
def isEvent : Instr → Bool
  | .gpatchRelease | .cqtailWrite _ | .cqbaseWrite _ | .cpbaseWrite _ | .cpheadWrite _ | .enWrite _ | .errClear
  | .attreqWrite _ | .attestationReport | .registerWrite _ _ | .docketCreationResume | .dispatch _ | .docketPromotion _
  | .gangReservation _ | .crewRetire _ | .instructionFetchReturn _ _ | .translationReturn _ _ | .loadDataArrive _ _
  | .lateFaultDelivery _ | .signalTakeEffect _ _ | .msemwaitReread _ | .waitcReread _ | .cbSlotFree _ _ | .copyCmdStart _
  | .copyCmdComplete _ | .gleanerFill _ | .mclaimGrant _ _ | .matrixCmdStart _ _ | .matrixCmdComplete _ _
  | .bankQueueCmdStart _ | .millGrant _ | .bqcmdComplete _ _ | .millWatchdog _ | .wheelRevolution _
  | .hostReservedService _ _ _ | .patrolScrub _ | .porterCmdStart _ | .porterCmdComplete _ _ | .fabricResponse _
  | .fabricTimeout _ | .fabricRead _ | .fabricWrite _ | .fabricFadd _ | .fabricSignal _ | .fabricMwrite _
  | .physicalLentAccess _ | .flitReceive _ _ | .slotTick | .frameStart | .combineWindowExpire _
  | .leaseGrantMessage _ _ _ _ | .leaseGrantAnswer _ _ _ | .leaseGrantTimeout _ | .leaseRecallMessage _ _ _
  | .leaseReleaseMessage _ _ | .leaseReleaseAnswer _ _ _ | .leaseRevokeMessage _ _ | .leaseDeadline _ | .tlbiComplete _
  | .icinvComplete _ | .preemptComplete _ | .haltWake _ | .hardwareError _ _ | .droopDetect _ | .droopRecover _
  | .holdEntry | .holdExit _ | .orderlyStop _ | .ngugrimRetrainStart | .ngugrimRetrainEnd | .ngugrimRetrainTimeout
  | .linkRetrainStart _ | .linkRetrainEnd _ | .linkDown _ | .shockEvent _ | .packageBoot _ | .wearUpdate _ _ _
  | .idleCount _ | .writePerformed _ _ | .bqloadComplete _ | .winfenceComplete _ | .wheelSlot _ | .energyStoreDepleted
  | .routerErrorRecovery => true
  | _ => false

/-- Whether the other due words of a group let the word that waits on memory issue in the clk in which its wait ends (R109). -/
def othersMay (s : State) (k : Nat) : Bool :=
  groupMay s k &&
    match survey s ((dueWords s k).filter (· != (k, .s))) with
    | .ok (l, _) => l.all (·.1 = .done)
    | .error _ => false

/-- Whether a crew waits on memory for a word that stands no more at its stream: its group stalls for it and is not frozen
(R390, R393). -/
def displacedWait (s : State) (k : Nat) : Bool :=
  !groupFrozen s k && !s.pkg.hold && crewIs s k fun c => c.log.any (displaced c)

/-- An event strikes; a wait on memory ends only where its group can issue. -/
def eventTurn (s : State) (i : Instr) : Out :=
  let s := { s with cur := .none }
  match i with
  | .msemwaitReread k => if othersMay s k || displacedWait s k then exec i s else .next s
  | .waitcReread k => if othersMay s k || displacedWait s k then exec i s else .next s
  | i => if isEvent i then exec i s else .next s

/-! ### Placing one instruction before the step -/

/-- Whether a stream word's form is of the V-stream alone (Table 04.8). -/
def vectorMajor (major : Nat) : Bool :=
  major == 0x09 || decide (0x30 ≤ major ∧ major ≤ 0x40) || decide (0x50 ≤ major ∧ major ≤ 0x59)

/-- Whether a stream word's form is privileged (Table 04.8). -/
def privilegedMajor (major : Nat) : Bool := [0x71, 0x77, 0x7A, 0x7B, 0x7C].contains major

/-- A state whose next turn issues one stream word: a crew, on a Reeve for a privileged form, whose stream has fetched it and
whose counter stands at its GAP; the crew's other stream has exited. -/
def placeWord (s : State) (w : Word) : State :=
  let k := if privilegedMajor (majorOf w).toNat then 1024 else 0
  let c := (crewAt s k).getD (.create s.nextCrew 0 0 0 0 0 [] false s.free)
  let on : StreamState := { StreamState.start 0 with fetched := some w }
  let off : StreamState := { StreamState.start 0 with exited := true }
  let v := vectorMajor (majorOf w).toNat
  let c := { c with state := .running, counter := (gapOf w).toNat, s := if v then off else on, v := if v then on else off }
  { putCrew s k c with agenda := [.crew k] }

/-- A state whose next turn issues one Mill word: Mill 0 runs a kernel at byte 0 of its code store, where the word stands. -/
def placeMillWord (s : State) (w : Nat) : State :=
  { putMill s 0 { millAt s 0 with owner := some (0, 0), ended := false, pc := 0 } with
    code := memWrite s.code 0 (valueBytes 4 w), agenda := [.mill 0] }

/-- A state whose next turn starts one command: its record stands at CQHEAD and the port is enabled. -/
def placeCommand (s : State) (w : Nat) : State :=
  let a := bits s.port.cqbase 47 12 * 4096 + 64 * (s.port.cqhead.toNat % cqRingSize s)
  { s with
    ctl := memWrite s.ctl a (valueBytes 64 w)
    port := { s.port with en := true, stopped := false, retrain := false, current := none, cqtail := s.port.cqhead + 1 }
    pkg := { s.pkg with inReset := false, powered := true }
    agenda := [.port] }

end Sys2Proof.Machine
end

