-- ==== Sys2Proof/Machine/Step.lean ====
section
/-!
DEFINITION. One step: the next turn of the agenda (log 1).
-/
namespace Sys2Proof.Machine

/-- What a turn does in a state. -/
noncomputable def takeTurn (s : State) : Turn → Out
  | .crew k => crewTurn s k
  | .mill m => millTurn s m
  | .port => portTurn s
  | .event i => eventTurn s i
  | .cellError k bits persists => .next (cellError s k bits persists)
  | .stuckAt key mask value => .next (stuckAt s key mask value)

/-- One step of the package: the next turn of the agenda. A turn in which an access of the device would have to wait is not
taken, but for the walks that it has made and for what its accesses wait for (R80, R276, R415, R417). -/
noncomputable def step (s : State) : Out :=
  match s.agenda with
  | [] => .next s
  | turn :: rest =>
    let s := { s with agenda := rest, balked := false }
    match takeTurn s turn with
    | .next t => .next (sendLents (if t.balked then keepWalks s t else settled t))
    | o => o

/-- The state in which the next step runs the instruction with the given bits (log 5). -/
def State.withFetchWord (s : State) (nbits w : Nat) : State :=
  if nbits ≤ 32 then placeMillWord s w else if nbits ≤ 64 then placeWord s (BitVec.ofNat 64 w) else placeCommand s w

end Sys2Proof.Machine
end

