-- ==== Sys2Proof/Safety.lean ====
section
/-!
DEFINITION. What counts as a well-formed state of the package and as a safe run: every memory in its canonical form, the
hard-wired registers at their values, and no step that stops.
-/
namespace Sys2Proof.Machine

/-- Every byte memory of the package is in its canonical form. -/
def State.memoriesWf (s : State) : Bool := s.hbm.wf && s.ctl.wf && s.spad.wf && s.code.wf

/-- x0 reads zero without poison and p0 all ones in a crew's register files (R91, R93). -/
def Crew.hardWired (c : Crew) : Bool := c.x[0] == 0 && !c.xPoison.getLsbD 0 && c.pr[0] == BitVec.allOnes 256

/-- Every crew's hard-wired registers hold their values. -/
def State.hardWired (s : State) : Bool := s.crews.all fun e => e.2.hardWired

/-- The word of one stream of the crew on a bench meets what every stream word must meet before its own effect: the stream may
execute the form (Table 04.8), a privileged form is on a Reeve (R97), its guard lets it run (R93), no source is freed under
STRICT (R119) and none waits for late data (R112). -/
def WordRuns (s : State) (k : Nat) (str : Stream) (c : Crew) (streams : Streams) (privileged : Bool)
    (guard : Option (Nat × Bool)) (reads : List (RegFile × Nat)) : Prop :=
  s.cur = .crew k str ∧ crewAt s k = some c ∧ streams.allows str = true ∧ (privileged = true → isReeve k = true) ∧
    deadSource c [(.p, (guard.getD (0, false)).1)] = none ∧
    (readP s c 9 (guard.getD (0, false)).1).getLsbD 0 ≠ (guard.getD (0, false)).2 ∧
    deadSource c reads = none ∧ lateSource c reads = false

/-- A vector word meets what every vector word must meet: its groups are aligned (R179), the resource that it needs is free
(R185), and none of its scalar sources is poisoned (R183). -/
def VectorRuns (s : State) (k : Nat) (c : Crew) (f : VFrame) : Prop :=
  WordRuns s k .v c .v false none ((.p, f.pred) :: f.reads) ∧ (f.groups.any fun g => g.1 % g.2 != 0) = false ∧
    useHeld c f.use = false ∧ poisonedX s c f.scalars = none

/-- The state after a word of a stream that issued and went on to the next word: s' and c' are the state and the crew as the
word's own effect leaves them (R92, R108, R128). -/
def issued (s' : State) (k : Nat) (str : Stream) (c' : Crew) (frees : List (RegFile × Nat × Bool)) : State :=
  spend (putCrew s' k (complete (applyFrees c' frees) str (wordAfter (c'.stream str)).1 (wordAfter (c'.stream str)).2)) 16

/-- The state after a word of a stream that issued and transferred control. -/
def transferred (s' : State) (k : Nat) (str : Stream) (c' : Crew) (frees : List (RegFile × Nat × Bool)) (pc : Word)
    (loops : List Loop) : State :=
  spend (putCrew s' k (complete (applyFrees c' frees) str pc loops)) 16

/-- A run of some steps neither faults nor is refused. -/
def safeFor (s : State) (n : Nat) : Prop :=
  match n with
  | 0 => True
  | n + 1 => match step s with
    | .next t => safeFor t n
    | _ => False

end Sys2Proof.Machine
end

