-- ==== Sys2Proof/Certificates/Slice0/Obligations.lean ====
section
/-!
DEFINITION. The obligations: what the manual's rules say of this machine, as statements for the provers. A statement about a
word says what it does when it runs (Sys2Proof.Machine.WordRuns) and gives the whole next state, so that what the equation
does not name is unchanged.
-/
open Sys2Proof Sys2Proof.Machine Sys2Proof.Config

namespace Sys2Proof.Claims

/-- A word completes, and the one thing that it starts is the write of a scalar value to xd with a bound (R114); a poisoned
result holds a free value (R136). -/
def givesX (i : Instr) (s : State) (k : Nat) (str : Stream) (c : Crew) (frees : List (RegFile × Nat × Bool)) (rd : BitVec 6)
    (v : Word) (poison : Bool) (bound : Nat) : Prop :=
  exec i s = .next (issued s k str (pendX c str rd (if poison then freeWord (s.free + 8) else v) poison bound) frees)

/-- The forms of MAJOR 0x10 that read two registers, with their results (Table 05.6). -/
def twoSourceForms (o : FmtA) (a b : Word) : List (Instr × Word) :=
  [(.add o, a + b), (.sub o, a - b), (.and o, a &&& b), (.or o, a ||| b), (.xor o, a ^^^ b), (.andn o, a &&& ~~~b),
   (.shl o, BitVec.ofNat 64 (a.toNat * 2 ^ (b.toNat % 64))), (.shr o, BitVec.ofNat 64 (a.toNat / 2 ^ (b.toNat % 64))),
   (.sra o, BitVec.ofInt 64 (a.toInt / 2 ^ (b.toNat % 64))),
   (.rot o, (a <<< (b.toNat % 64)) ||| (a >>> ((64 - b.toNat % 64) % 64))),
   (.min o, if a.toInt ≤ b.toInt then a else b), (.max o, if b.toInt ≤ a.toInt then a else b),
   (.minz o, if a.toNat ≤ b.toNat then a else b), (.maxz o, if b.toNat ≤ a.toNat then a else b)]

/-- The number of bits before the first one bit that a reading order meets, 64 where there is none. -/
def zerosBefore (bit : Nat → Bool) : Nat := ((List.range 64).find? bit).getD 64

/-- The forms of MAJOR 0x10 that read one register, with their results (Table 05.6). -/
def oneSourceForms (o : FmtA) (a : Word) : List (Instr × Word) :=
  [(.clz o, BitVec.ofNat 64 (zerosBefore fun j => a.getLsbD (63 - j))), (.ctz o, BitVec.ofNat 64 (zerosBefore fun j => a.getLsbD j)),
   (.popc o, BitVec.ofNat 64 ((List.range 64).filter fun j => a.getLsbD j).length),
   (.bswap o, a.extractLsb' 0 8 ++ a.extractLsb' 8 8 ++ a.extractLsb' 16 8 ++ a.extractLsb' 24 8 ++ a.extractLsb' 32 8 ++
      a.extractLsb' 40 8 ++ a.extractLsb' 48 8 ++ a.extractLsb' 56 8)]

/-- The forms of MAJOR 0x11 with their results and bounds (Table 05.7, Table 05.3). -/
def productForms (o : FmtA) (a b : Word) : List (Instr × Word × Nat) :=
  [(.mul o, BitVec.ofInt 64 (a.toInt * b.toInt), 4), (.mulh o, BitVec.ofInt 64 (a.toInt * b.toInt / 2 ^ 64), 4),
   (.mulhz o, BitVec.ofNat 64 (a.toNat * b.toNat / 2 ^ 64), 4),
   (.div o, if b = 0 then 0xFFFFFFFFFFFFFFFF else BitVec.ofInt 64 (a.toInt.tdiv b.toInt), 40),
   (.divz o, if b = 0 then 0xFFFFFFFFFFFFFFFF else BitVec.ofNat 64 (a.toNat / b.toNat), 40),
   (.rem o, if b = 0 then a else a - BitVec.ofInt 64 (a.toInt.tdiv b.toInt) * b, 40),
   (.remz o, if b = 0 then a else BitVec.ofNat 64 (a.toNat % b.toNat), 40)]

/-- The conditions of CMP by minor (R139). -/
def cmpCondition (a b : Word) : List (BitVec 5 × Bool) :=
  [(0, decide (a = b)), (1, decide (a ≠ b)), (2, decide (a.toInt < b.toInt)), (3, decide (b.toInt ≤ a.toInt)),
   (4, decide (a.toNat < b.toNat)), (5, decide (b.toNat ≤ a.toNat))]

/-- One step of the prefix hash as the manual writes it (R141). -/
def prefixStep (h t k : Word) : Word :=
  let a := (((h <<< 23) ||| (h >>> 41)) ^^^ t) + k
  let a := a * 0xC4A15E379B2D6F0B
  let a := a ^^^ (a >>> 31)
  let a := a * 0x8F3D26C9E1B47A55
  a ^^^ (a >>> 27)

end Sys2Proof.Claims
open Sys2Proof.Claims

/-! ### Scalar words -/

/-- Every form of Table 05.6 starts the write of the table's result to xd with bound 1, poisoned where a source that it reads
is (R136, R137). -/
def Sys2Proof.Claims.ScalarTableResults : Prop :=
  ∀ (o : FmtA) (s : State) (k : Nat) (c : Crew),
    (WordRuns s k .s c .s false (guardA o) (readsA o 2) →
      ∀ q ∈ twoSourceForms o (readX s c 0 o.ra) (readX s c 1 o.rb),
        givesX q.1 s k .s c (freesA o) o.rd q.2 (tagX s c 0 o.ra || tagX s c 1 o.rb) 1) ∧
    (WordRuns s k .s c .s false (guardA o) (readsA o 1) →
      ∀ q ∈ oneSourceForms o (readX s c 0 o.ra), givesX q.1 s k .s c (freesA o) o.rd q.2 (tagX s c 0 o.ra) 1) ∧
    (WordRuns s k .s c .s false (guardA o) [(.x, o.ra.toNat), (.x, o.rb.toNat), (.p, o.rc.toNat)] →
      givesX (.sel o) s k .s c [(.x, o.ra.toNat, o.la), (.x, o.rb.toNat, o.lb), (.p, o.rc.toNat, o.lc)] o.rd
        (if (readP s c 2 o.rc.toNat).getLsbD 0 then readX s c 0 o.ra else readX s c 1 o.rb)
        (if (readP s c 2 o.rc.toNat).getLsbD 0 then tagX s c 0 o.ra else tagX s c 1 o.rb) 1)

/-- Every form of Table 05.7 starts the write of the table's result, with the bound of Table 05.3 (R138, R114). -/
def Sys2Proof.Claims.MultiplyDivideResults : Prop :=
  ∀ (o : FmtA) (s : State) (k : Nat) (c : Crew), WordRuns s k .s c .s false (guardA o) (readsA o 2) →
    ∀ q ∈ productForms o (readX s c 0 o.ra) (readX s c 1 o.rb),
      givesX q.1 s k .s c (freesA o) o.rd q.2.1 (tagX s c 0 o.ra || tagX s c 1 o.rb) q.2.2

/-- MAJOR 0x13 holds BFX, BFI (R140) and PFXH (R141), which start the write of their result to xd: each bit of a field comes
from the place the rule names, and the hash takes its one step. -/
def Obligations.BitFieldAndHashResults : Prop :=
  ∀ (o : FmtA) (s : State) (k : Nat) (c : Crew),
    encodeWord (.bfx o) = some (packA 0x13 0x00 o) ∧ encodeWord (.bfi o) = some (packA 0x13 0x01 o) ∧
    encodeWord (.pfxh o) = some (packA 0x13 0x02 o) ∧
    (WordRuns s k .s c .s false (guardA o) (readsA o 2) →
      ∃ v : Word, givesX (.bfx o) s k .s c (freesA o) o.rd v (tagX s c 0 o.ra || tagX s c 1 o.rb) 1 ∧
        ∀ j < 64, v.getLsbD j =
          (decide (j < bits (readX s c 1 o.rb) 13 8 + 1) && (readX s c 0 o.ra).getLsbD (bits (readX s c 1 o.rb) 5 0 + j))) ∧
    (WordRuns s k .s c .s false (guardA o) (readsA o 3) →
      (∃ v : Word, givesX (.bfi o) s k .s c (freesA o) o.rd v (tagX s c 0 o.ra || tagX s c 1 o.rb || tagX s c 2 o.rc) 1 ∧
        ∀ j < 64, v.getLsbD j =
          if bits (readX s c 1 o.rb) 5 0 ≤ j ∧ j < bits (readX s c 1 o.rb) 5 0 + (bits (readX s c 1 o.rb) 13 8 + 1) then
            (readX s c 0 o.ra).getLsbD (j - bits (readX s c 1 o.rb) 5 0)
          else (readX s c 2 o.rc).getLsbD j) ∧
      givesX (.pfxh o) s k .s c (freesA o) o.rd (prefixStep (readX s c 0 o.ra) (readX s c 1 o.rb) (readX s c 2 o.rc))
        (tagX s c 0 o.ra || tagX s c 1 o.rb || tagX s c 2 o.rc) 6)

/-- The immediate forms start the write of their result with bound 1 (R142, R143). -/
def Sys2Proof.Claims.ImmediateResults : Prop :=
  (∀ (o : FmtI) (s : State) (k : Nat) (c : Crew),
    WordRuns s k .s c .s false (some (o.pred.toNat, false)) [(.x, o.ra.toNat)] →
      ∀ q ∈ ([(.addi o, readX s c 0 o.ra + o.imm.signExtend 64), (.andi o, readX s c 0 o.ra &&& o.imm.signExtend 64),
              (.ori o, readX s c 0 o.ra ||| o.imm.zeroExtend 64)] : List (Instr × Word)),
        givesX q.1 s k .s c [(.x, o.ra.toNat, o.la)] o.rd q.2 (tagX s c 0 o.ra) 1) ∧
  (∀ (o : FmtL) (s : State) (k : Nat) (c : Crew), WordRuns s k .s c .s false none [] →
      givesX (.li o) s k .s c [] o.rd (o.imm.signExtend 64) false 1) ∧
  (∀ (o : FmtL) (s : State) (k : Nat) (c : Crew), WordRuns s k .s c .s false none [(.x, o.rd.toNat)] →
      givesX (.lih o) s k .s c [] o.rd (o.imm.extractLsb' 0 24 ++ (readX s c 0 o.rd).extractLsb' 0 40) (tagX s c 0 o.rd) 1)

/-- CMP with clean sources starts the write of its condition to every bit of pd with bound 1; with a poisoned source it traps
with POISON (R139). -/
def Sys2Proof.Claims.CompareWritesPredicate : Prop :=
  ∀ (o : FmtA) (s : State) (k : Nat) (c : Crew), WordRuns s k .s c .s false (guardA o) (readsA o 2) →
    ∀ q ∈ cmpCondition (readX s c 0 o.ra) (readX s c 1 o.rb),
      (tagX s c 0 o.ra = false → tagX s c 1 o.rb = false →
        exec (.cmp q.1 o) s =
          .next (issued s k .s (pendP c .s o.rd.toNat (BitVec.allOnes 256) (if q.2 then BitVec.allOnes 256 else 0) 1) (freesA o))) ∧
      (tagX s c 0 o.ra = true → exec (.cmp q.1 o) s = .next (wordTrap s k .s c 0x04 (BitVec.ofNat 64 o.ra.toNat))) ∧
      (tagX s c 0 o.ra = false → tagX s c 1 o.rb = true →
        exec (.cmp q.1 o) s = .next (wordTrap s k .s c 0x04 (BitVec.ofNat 64 o.rb.toNat)))

/-- What a word reads from a scalar register: zero from x0 whatever is in flight; a register that is not freed and that no
earlier word is still to write holds its value (R91, R115). The write of a word lands at its bound, not before, and x0 takes
none (R91, R115). -/
def Sys2Proof.Claims.ScalarReadsAndLandings : Prop :=
  (∀ (s : State) (c : Crew) (n : Nat), readX s c n 0 = 0 ∧ tagX s c n 0 = false) ∧
  (∀ (s : State) (c : Crew) (n : Nat) (r : BitVec 6), r ≠ 0 → (∀ e ∈ c.freed, e.file = .x → e.reg ≠ r.toNat) →
    (∀ p ∈ c.pendX, p.reg ≠ r.toNat) → readX s c n r = c.x[r.toNat] ∧ tagX s c n r = c.xPoison.getLsbD r.toNat) ∧
  (∀ (c : Crew) (str : Stream) (r : BitVec 6) (v : Word) (poison : Bool) (bound n count : Nat), r ≠ 0 → c.pendX = [] →
    c.pendV = [] → c.pendP = [] →
      (landDue n { pendX c str r v poison bound with counter := count }).x[r.toNat] =
        (if c.counter + bound ≤ count then v else c.x[r.toNat]) ∧
      ((landDue n { pendX c str r v poison bound with counter := count }).xPoison.getLsbD r.toNat =
        if c.counter + bound ≤ count then poison else c.xPoison.getLsbD r.toNat)) ∧
  (∀ (c : Crew) (str : Stream) (v : Word) (poison : Bool) (bound : Nat), pendX c str 0 v poison bound = c)

/-- A scalar word of Tables 05.6 and 05.7, of R140 to R142, or CMP that completes leaves every register as it is until its one
write lands, and leaves every flag, accumulator, special and exception register of its crew, every other crew, and every byte
of memory unchanged. -/
def Obligations.ScalarWordFrame : Prop :=
  ∀ (i : Instr) (s t : State) (k : Nat) (c d : Crew),
    (∃ o : FmtA, i ∈ [Instr.add o, .sub o, .and o, .or o, .xor o, .andn o, .shl o, .shr o, .sra o, .rot o, .min o, .max o,
        .minz o, .maxz o, .sel o, .clz o, .ctz o, .popc o, .bswap o, .mul o, .mulh o, .mulhz o, .div o, .divz o, .rem o,
        .remz o, .bfx o, .bfi o, .pfxh o, .chk o, .nop o] ∨ ∃ m, i = .cmp m o) ∨
      (∃ o : FmtI, i ∈ [Instr.addi o, .andi o, .ori o]) ∨ (∃ o : FmtL, i ∈ [Instr.li o, .lih o]) →
    s.cur = .crew k .s → crewAt s k = some c → exec i s = .next t → crewAt t k = some d → d.state = .running →
    d.s.last = some c.counter →
      (d.x = c.x ∧ d.xPoison = c.xPoison ∧ d.vr = c.vr ∧ d.pr = c.pr ∧ d.pendV = c.pendV ∧ d.v = c.v ∧ d.counter = c.counter ∧
        d.dataQ = c.dataQ ∧ d.brQ = c.brQ ∧ d.fflags = c.fflags ∧ d.pendF = c.pendF ∧ d.frm = c.frm ∧ d.srseed = c.srseed ∧
        d.srstrm = c.srstrm ∧ d.srctr = c.srctr ∧ d.mflags = c.mflags ∧ d.strict = c.strict ∧ d.trapcause = c.trapcause ∧
        d.trappc = c.trappc ∧ d.trapaddr = c.trapaddr ∧ d.lvlsel = c.lvlsel ∧ d.tdef = c.tdef ∧ d.circ = c.circ ∧
        d.shadow = c.shadow ∧ d.log = c.log ∧ d.vstores = c.vstores) ∧
      (∀ j, j ≠ k → crewAt t j = crewAt s j) ∧
      (∀ a, memGet t.hbm a = memGet s.hbm a ∧ memGet t.ctl a = memGet s.ctl a ∧ memGet t.spad a = memGet s.spad a ∧
        memGet t.code a = memGet s.code a) ∧
      t.cores = s.cores ∧ t.mills = s.mills ∧ t.levels = s.levels ∧ t.units = s.units ∧ t.port = s.port ∧
      t.fabric = s.fabric ∧ t.pkg = s.pkg

/-! ### Flow and traps -/

namespace Sys2Proof.Claims

/-- The loops that stay active when control goes to an address: those whose body holds it are kept, with every loop outside
them; the innermost ones that do not are removed (R129). -/
def keptLoops (loops : List Loop) (a : Word) : List Loop :=
  loops.dropWhile fun l => !(decide (l.start.toNat ≤ a.toNat) && decide (a.toNat ≤ l.last.toNat))

/-- A taken branch to an address: control goes there, or MISALIGN where it is no multiple of 8 (R124). -/
def branchesTo (i : Instr) (s s' : State) (k : Nat) (str : Stream) (c c' : Crew) (frees : List (RegFile × Nat × Bool))
    (a : Word) (loops : List Loop) : Prop :=
  (a.toNat % 8 = 0 → exec i s = .next (transferred s' k str c' frees a loops)) ∧
  (a.toNat % 8 ≠ 0 → exec i s = .next (wordTrap s k str c 0x05 a))

end Sys2Proof.Claims

/-- The branch forms go where Table 05.4 says, in either stream; BRC and BRQ fall through to the next word where their bit is
0; the link register of a CALL is x62 in the S-stream and x63 in the V-stream (R124, R125, R129). BRQ traps where its queue
holds no entry of an earlier count (0x3) or a poisoned one (0xC0), and stalls while the oldest is not filled (R121, R122). -/
def Sys2Proof.Claims.BranchesGoToTheirTarget : Prop :=
  ∀ (o : FmtB) (s : State) (k : Nat) (str : Stream) (c : Crew),
    let pc := (c.stream str).pc
    let loops := (c.stream str).loops
    let target := pc + o.off.signExtend 64 * 8
    let link : BitVec 6 := if str = .s then 62 else 63
    (WordRuns s k str c .both false none [] → branchesTo (.br o) s s k str c c [] target (keptLoops loops target)) ∧
    (WordRuns s k str c .both false none [(.p, o.ra.toNat)] →
      ((readP s c 0 o.ra.toNat).getLsbD 0 = true →
        branchesTo (.brc o) s s k str c c [(.p, o.ra.toNat, o.la)] target (keptLoops loops target)) ∧
      ((readP s c 0 o.ra.toNat).getLsbD 0 = false →
        exec (.brc o) s = .next (issued s k str c [(.p, o.ra.toNat, o.la)]))) ∧
    (WordRuns s k str c .both false none [(.x, o.ra.toNat)] → tagX s c 0 o.ra = false →
      branchesTo (.jmp o) s s k str c c [(.x, o.ra.toNat, o.la)] (readX s c 0 o.ra + o.off.signExtend 64 * 8)
        (keptLoops loops (readX s c 0 o.ra + o.off.signExtend 64 * 8))) ∧
    (WordRuns s k str c .both false none [] →
      branchesTo (.call o) s s k str c (pendX c str link (pc + 8) false 1) [] target loops) ∧
    (WordRuns s k str c .both false none [] → deadSource c [(.x, link.toNat)] = none → lateRead c link.toNat = false →
      tagX s c 0 link = false → branchesTo (.ret o) s s k str c c [] (readX s c 0 link) loops) ∧
    (WordRuns s k .v c .v false none [] → str = .v →
      (∀ e rest, c.brQ = e :: rest → e.pushedAt < c.counter →
        (e.src = none → e.poison = false →
          (e.val.getLsbD 0 = true →
            branchesTo (.brq o) s s k .v c { c with brQ := rest } [] target (keptLoops loops target)) ∧
          (e.val.getLsbD 0 = false → exec (.brq o) s = .next (issued s k .v { c with brQ := rest } []))) ∧
        (e.src = none → e.poison = true → exec (.brq o) s = .next (wordTrap s k .v c 0x04 0xC0)) ∧
        (e.src.isSome = true → exec (.brq o) s = .next s)) ∧
      ((∀ e ∈ c.brQ.head?, c.counter ≤ e.pushedAt) → exec (.brq o) s = .next (wordTrap s k .v c 0x01 3)))

/-- LOOP and LOOPI that pass the checks of R127 set up a loop of the words from pc + 8 to last; a count of 0 sets up none and
goes on behind last, where the innermost loop ends there too as its end word would (R126, R127). -/
def Sys2Proof.Claims.LoopsAreSetUp : Prop :=
  ∀ (s s' : State) (k : Nat) (str : Stream) (c : Crew) (g : BitVec 10) (e : BitVec 24),
    let pc := (c.stream str).pc
    let loops := (c.stream str).loops
    let last := pc + e.zeroExtend 64 * 8
    let endWord := wordAfter { c.stream str with pc := last }
    let past := if (loops.head?.map Loop.last) = some last then endWord else (last + 8, loops)
    WordRuns s k str c .both false none [] → loopCheck s k c (c.stream str) last = (.ok (), s') → s'.balked = false →
      (∀ n : BitVec 23,
        exec (.loopi { gap := g, count := n, last := e }) s =
          .next (if n = 0 then transferred s' k str c [] past.1 past.2
            else transferred s' k str c [] (pc + 8) ({ start := pc + 8, last := last, remaining := n.zeroExtend 64 } :: loops))) ∧
      (∀ (ra : BitVec 6) (la : Bool), deadSource c [(.x, ra.toNat)] = none → lateRead c ra.toNat = false →
        tagX s' c 0 ra = false →
        exec (.loop { gap := g, ra := ra, la := la, last := e }) s =
          .next (if readX s' c 0 ra = 0 then transferred s' k str c [(.x, ra.toNat, la)] past.1 past.2
            else transferred s' k str c [(.x, ra.toNat, la)] (pc + 8)
              ({ start := pc + 8, last := last, remaining := readX s' c 0 ra } :: loops)))

/-- Where a stream goes after a word that completes: to the next word, or, where the word ends the innermost loop, as the steps
of R128 say, for that loop and for one that encloses it. -/
def Sys2Proof.Claims.LoopEndNamesTheNextWord : Prop :=
  ∀ (st : StreamState) (l : Loop) (outer : List Loop),
    (st.loops = [] → wordAfter st = (st.pc + 8, [])) ∧
    (st.loops = l :: outer → st.pc ≠ l.last → wordAfter st = (st.pc + 8, st.loops)) ∧
    (st.loops = l :: outer → st.pc = l.last → 1 < l.remaining.toNat →
      wordAfter st = (l.start, { l with remaining := l.remaining - 1 } :: outer)) ∧
    (st.loops = l :: outer → st.pc = l.last → l.remaining.toNat = 1 →
      (∀ o rest, outer = o :: rest → o.last = l.last → 1 < o.remaining.toNat →
        wordAfter st = (o.start, { o with remaining := o.remaining - 1 } :: rest)) ∧
      (∀ o rest, outer = o :: rest → o.last = l.last → o.remaining.toNat = 1 → wordAfter st = (l.last + 8, rest)) ∧
      ((∀ o ∈ outer.head?, o.last ≠ l.last) → wordAfter st = (l.last + 8, outer)))

/-- NOP does nothing but issue (R98). CHK of a clean register has no effect, and traps with POISON otherwise (R150). QPUSH adds
an entry to its queue where there is room, counting a pop of the same count: the value with its tag, or for a load in flight
an entry that the load fills; a full queue traps, and so does a poisoned source of QPUSH.b (R110, R120 to R123). RVZ waits,
joins a stream that waits, or traps where its partner has exited in an earlier count, which log 55 reads R113 to mean (R113).
EXIT ends its stream and removes its loops (R131). -/
def Obligations.StreamAndQueueWords : Prop :=
  ∀ (o : FmtA) (s : State) (k : Nat) (str : Stream) (c : Crew),
    let src := readX s c 0 o.ra
    let tag := tagX s c 0 o.ra
    let branch := o.mod.getLsbD 0
    let room : Prop := if branch then c.brQ.length < 32 + (if vPops s c true then 1 else 0)
      else c.dataQ.length < 16 + (if vPops s c false then 1 else 0)
    let pushes (e : QEntry) : Crew := if branch then { c with brQ := c.brQ ++ [e] } else { c with dataQ := c.dataQ ++ [e] }
    let full : Prop := exec (.qpush o) s = .next (wordTrap s k .s c 0x01 (if branch then 4 else 2))
    (WordRuns s k str c .both false none [] → exec (.nop o) s = .next (issued s k str c [])) ∧
    (WordRuns s k .s c .s false (guardA o) (readsA o 1) →
      (tag = false → exec (.chk o) s = .next (issued s k .s c (freesA o))) ∧
      (tag = true → exec (.chk o) s = .next (wordTrap s k .s c 0x04 (BitVec.ofNat 64 o.ra.toNat)))) ∧
    (WordRuns s k .s c .s false (guardA o) (readsA o 1) → fillingLoad c o.ra.toNat = none →
      (room → (branch = false ∨ tag = false) → exec (.qpush o) s = .next (issued s k .s (pushes
        { src := none, val := if branch then src &&& 1 else if tag then freeWord (s.free + 8) else src, poison := tag,
          pushedAt := c.counter }) (freesA o))) ∧
      (branch = true → tag = true → exec (.qpush o) s = .next (wordTrap s k .s c 0x04 (BitVec.ofNat 64 o.ra.toNat))) ∧
      (¬ room → (branch = false ∨ tag = false) → full)) ∧
    (∀ p, WordRuns s k .s c .s false (guardA o) (readsA o 1) → fillingLoad c o.ra.toNat = some p →
      (room → (p.ready = false → exec (.qpush o) s = .next (issued s k .s (pushes
          { src := some p.seq, val := 0, poison := false, pushedAt := c.counter }) (freesA o))) ∧
        (p.ready = true → exec (.qpush o) s = .next (issued s k .s (pushes
          { src := none, val := if branch then p.val &&& 1 else p.val, poison := p.poison, pushedAt := c.counter })
          (freesA o)))) ∧
      (¬ room → full)) ∧
    (WordRuns s k .s c .both false none [] → c.v.exited = false → c.v.rvz = none →
      exec (.rvz o) s = .next (issued s k .s { c with
        epochS := c.epochS + 1, s := { c.s with rvz := some (c.counter, c.s.pc, o.gap.toNat), rvzLoops := c.s.loops } } [])) ∧
    (WordRuns s k .v c .both false none [] → c.s.exited = false → c.s.rvz = none →
      exec (.rvz o) s = .next (issued s k .v { c with
        epochV := c.epochV + 1, v := { c.v with rvz := some (c.counter, c.v.pc, o.gap.toNat), rvzLoops := c.v.loops } } [])) ∧
    (WordRuns s k .s c .both false none [] → c.v.exited = false → c.v.rvz.isSome = true →
      exec (.rvz o) s = .next (issued s k .s
        { c with epochS := c.epochS + 1, v := { c.v with rvz := none, last := some c.counter } } [])) ∧
    (WordRuns s k .v c .both false none [] → c.s.exited = false → c.s.rvz.isSome = true →
      exec (.rvz o) s = .next (issued s k .v
        { c with epochV := c.epochV + 1, s := { c.s with rvz := none, last := some c.counter } } [])) ∧
    (WordRuns s k .s c .both false none [] → c.v.exited = true → c.v.last ≠ some c.counter →
      exec (.rvz o) s = .next (wordTrap s k .s c 0x01 5)) ∧
    (WordRuns s k .v c .both false none [] → c.s.exited = true → c.s.last ≠ some c.counter →
      exec (.rvz o) s = .next (wordTrap s k .v c 0x01 5)) ∧
    (WordRuns s k str c .both false none [] →
      exec (.exit o) s = .next (transferred s k str (c.setStream str { c.stream str with exited := true }) []
        ((c.stream str).pc + 8) []))

/-- LOOP and LOOPI whose last word cannot be read now stall at their issue slot, keeping what the walks of the read filled;
where the checks of R127 fail they trap with the cause and the address of the check (R127, R276). -/
def Sys2Proof.Claims.LoopChecksStallAndTrap : Prop :=
  ∀ (s s' : State) (r : Except (BitVec 8 × Word) Unit) (k : Nat) (str : Stream) (c : Crew) (g : BitVec 10) (e : BitVec 24),
    let last := (c.stream str).pc + e.zeroExtend 64 * 8
    let stalls (i : Instr) : Prop := exec i s = .next (keepWalks s s')
    let traps (i : Instr) : Prop := ∀ f a, r = .error (f, a) → exec i s = .next (wordTrap s k str c f a)
    loopCheck s k c (c.stream str) last = (r, s') →
      (∀ n : BitVec 23, WordRuns s k str c .both false none [] →
        (s'.balked = true → stalls (.loopi { gap := g, count := n, last := e })) ∧
        (s'.balked = false → traps (.loopi { gap := g, count := n, last := e }))) ∧
      (∀ o : FmtLoop, o.gap = g → o.last = e → WordRuns s k str c .both false none [(.x, o.ra.toNat)] →
        tagX s c 0 o.ra = false →
          (s'.balked = true → stalls (.loop o)) ∧ (s'.balked = false → traps (.loop o)))

/-- The words whose effect is a trap take it at their issue slot: BRK with BREAKPOINT (0x50) and a word that names no
instruction with ILLEGAL_OP in either stream, TRAP with cause 0x60 and its software code (R97, R400, R405). -/
def Sys2Proof.Claims.TrapWordsTakeTheirTrap : Prop :=
  ∀ (s : State) (k : Nat) (str : Stream) (c : Crew),
    (∀ (g : BitVec 10) (d : BitVec 47), WordRuns s k str c .both false none [] →
      exec (.brk g d) s = .next (wordTrap s k str c 0x50 0)) ∧
    (∀ w : Word, WordRuns s k str c .both false none [] → exec (.reservedMajorWord w) s = .next (wordTrap s k str c 0x01 0)) ∧
    (∀ o : FmtI, WordRuns s k .s c .s false (some (o.pred.toNat, false)) [] →
      exec (.trap o) s = .next (spend (takeTrap s k (some .s) 0x60 (o.imm.truncate 8) c.s.pc 0 0xFFFF) 16))

/-- A crew that takes a trap on a bench (R387): it is TRAPPED at its count, TRAPCAUSE, TRAPPC and TRAPADDR take the cause with
its software code, the address of the word and the address concerned, and nothing else of the crew changes: its registers,
its writes in flight, its streams and its flags stay. -/
def Sys2Proof.Claims.TakingATrapOnABench : Prop :=
  ∀ (s : State) (k : Nat) (c : Crew) (str : Option Stream) (code sw : BitVec 8) (pc addr : Word) (log : Nat),
    k < 1024 → crewAt s k = some c →
      crewAt (takeTrap s k str code sw pc addr log) k =
        some { c with state := .trapped, trapcause := (sw ++ code).zeroExtend 64, trappc := (pc.extractLsb' 0 48).zeroExtend 64,
                      trapaddr := addr } ∧
      (∀ j, j ≠ k → crewAt (takeTrap s k str code sw pc addr log) j = crewAt s j)

/-- The record of a trap (R388, Table 14.5): where the cluster's ring has room, no record waits and HBM serves the ring's next
place, its 64 bytes stand at TRQBASE + 64 × (TRQTAIL mod size) and TRQTAIL rises by one; where the ring is full the record
waits, and where the memory does not serve it the record waits before the controllers (R276); every byte of control-node memory
and of the scratchpads is unchanged. -/
def Sys2Proof.Claims.TrapRecordIsWritten : Prop :=
  ∀ (s : State) (cl : Nat) (rec : Record),
    let r := reeveAt s cl
    let a := bits r.trqbase 47 12 * 4096 + 64 * (r.trqtail.toNat % 2 ^ (bits r.trqbase 3 0 + 6))
    let waits := putReeve s cl { r with records := [rec] }
    r.records = [] →
      ((r.trqtail - r.trqhead).toNat < 2 ^ (bits r.trqbase 3 0 + 6) → hbmReady s a 64 = true →
        postRecord s cl rec =
          putReeve (hbmWrite (hostTakes waits a 64) a (rec.flatMap wordBytes)) cl
            { r with trqtail := r.trqtail + 1, records := [] }) ∧
      (2 ^ (bits r.trqbase 3 0 + 6) ≤ (r.trqtail - r.trqhead).toNat → postRecord s cl rec = waits) ∧
      ((r.trqtail - r.trqhead).toNat < 2 ^ (bits r.trqbase 3 0 + 6) → hbmReady s a 64 = false →
        postRecord s cl rec = hostWaits waits a 64) ∧
      (∀ a, memGet (postRecord s cl rec).ctl a = memGet s.ctl a ∧ memGet (postRecord s cl rec).spad a = memGet s.spad a)

/-! ### Scalar memory words -/

namespace Sys2Proof.Claims

/-- The state in which a crew's access has just joined its operand log (R391), and what its first translation says: on a bench
the first-level TLB answers at once or leaves the entry in translation (R75), on a Reeve the address is physical (R383). None
where a Reeve's address names no memory and the word is not an LDS. -/
def joined (s : State) (k : Nat) (c : Crew) (e : LogEntry) : Option State :=
  let c := { c with log := c.log ++ [e] }
  let s := { s with stamp := s.stamp + 1 }
  let bench := putCrew { s with free := s.free + 1 } k c
  if isReeve k then
    match physicalTarget e.opa, e.kind with
    | .ok t, _ => some (translated (putCrew s k c) k c e t)
    | .error f, .loadSpec => some (translationFault (putCrew s k c) k c e f)
    | .error _, _ => none
  else
    match tlbHit s (coreOf k) (jobOf s c) e.opa (entryAccess e) with
    | none => some bench
    | some (.ok t) => some (translated bench k c e t)
    | some (.error f) => some (translationFault bench k c e f)

/-- A memory word issues, its access having joined the log; a Reeve's word whose address names no memory traps with PAGE_ATTR
instead (R383). -/
def joinsLog (i : Instr) (s : State) (k : Nat) (c c' : Crew) (frees : List (RegFile × Nat × Bool)) (e : LogEntry) : Prop :=
  (∀ u, joined s k c' e = some u →
    exec i s = .next (issued u k .s ((crewAt u k).getD { c' with log := c'.log ++ [e] }) frees)) ∧
  (joined s k c' e = none → exec i s = .next (wordTrap s k .s c 0x12 e.opa))

/-- The loads with their sizes and whether they extend with zeros (R145). -/
def loadForms (o : FmtM) : List (Instr × Nat × Bool) :=
  [(.ldb o, 1, false), (.ldbz o, 1, true), (.ldh o, 2, false), (.ldhz o, 2, true), (.ldw o, 4, false), (.ldwz o, 4, true),
   (.ldd o, 8, false)]
/-- The stores with their sizes (R146). -/
def storeForms (o : FmtM) : List (Instr × Nat) := [(.stb o, 1), (.sth o, 2), (.stw o, 4), (.std o, 8)]
/-- The atomics with their operation codes (R349). -/
def atomicForms (o : FmtA) : List (Instr × BitVec 4) :=
  [(.aadd o, 0), (.amin o, 1), (.amax o, 2), (.aand o, 3), (.aor o, 4), (.axor o, 5), (.aswp o, 6), (.afadd o, 8)]

/-- The log entry of a memory word: what it is, its address and operands, its ordering and its destination. -/
def entryOf (s : State) (c : Crew) (kind : LogKind) (a b d : Word) (ord : BitVec 3) (rd : Nat) : LogEntry :=
  { seq := s.stamp, kind := kind, pc := c.s.pc, cnt := c.counter, word := c.s.fetched.getD 0, opa := a, opb := b, opc := d,
    ord := ord, faulted := false, code := 0, addr := a, ri := false, phase := .translating, target := none, rd := rd,
    cmdId := 0, epoch := c.epochS, data := [], tag := none, again := false }

/-- The crew with a result awaited in xd: bound 400, filled by the log entry that the word makes (R114); x0 awaits none. A
load's fills the queue entries that a push reserves (R121). -/
def awaits (s : State) (c : Crew) (rd : BitVec 6) (load : Bool) : Crew :=
  if rd = 0 then c
  else { c with pendX := c.pendX ++ [{ reg := rd.toNat, mask := BitVec.allOnes 64, val := 0, poison := false, issued := c.counter,
                                       land := .count (c.counter + 400), ready := false, seq := s.stamp, str := .s,
                                       again := false, load := load }] }

end Sys2Proof.Claims

/-- Every scalar load, store and LDS with clean operands and an aligned address issues, on a bench and on a Reeve: its entry,
with the address xA + sext(OFF), joins the operand log, and a load awaits its result (R144 to R146, R148, R391). -/
def Sys2Proof.Claims.LoadsAndStoresIssue : Prop :=
  ∀ (o : FmtM) (s : State) (k : Nat) (c : Crew),
    let a := readX s c 0 o.ra + o.off.signExtend 64
    (WordRuns s k .s c .s false (some (o.pred.toNat, o.pn)) [(.x, o.ra.toNat)] → tagX s c 0 o.ra = false →
      (∀ q ∈ loadForms o, a.toNat % q.2.1 = 0 →
        joinsLog q.1 s k c (awaits s c o.rd true) [(.x, o.ra.toNat, o.la)] (entryOf s c (.load q.2.1 q.2.2) a 0 0 o.ord o.rd.toNat)) ∧
      (a.toNat % 8 = 0 →
        joinsLog (.lds o) s k c (awaits s c o.rd true) [(.x, o.ra.toNat, o.la)] (entryOf s c .loadSpec a 0 0 0 o.rd.toNat))) ∧
    (WordRuns s k .s c .s false (some (o.pred.toNat, o.pn)) [(.x, o.ra.toNat), (.x, o.rd.toNat)] → tagX s c 0 o.ra = false →
      tagX s c 1 o.rd = false → ∀ q ∈ storeForms o, a.toNat % q.2 = 0 →
        joinsLog q.1 s k c c [(.x, o.ra.toNat, o.la), (.x, o.rd.toNat, o.ld)]
          (entryOf s c (.store q.2) a (readX s c 1 o.rd) 0 o.ord 0))

/-- A scalar load or store whose clean address is no multiple of its size traps with MISALIGN, and one whose address is poisoned
with POISON, as does a store whose stored register is (R144, R149); a misaligned or poisoned LDS instead poisons xd at bound 400
(R148). -/
def Sys2Proof.Claims.MisalignedAndPoisonedAddresses : Prop :=
  ∀ (o : FmtM) (s : State) (k : Nat) (c : Crew),
    let a := readX s c 0 o.ra + o.off.signExtend 64
    (WordRuns s k .s c .s false (some (o.pred.toNat, o.pn)) [(.x, o.ra.toNat)] →
      (∀ q ∈ loadForms o,
        (tagX s c 0 o.ra = false → a.toNat % q.2.1 ≠ 0 → exec q.1 s = .next (wordTrap s k .s c 0x05 a)) ∧
        (tagX s c 0 o.ra = true → exec q.1 s = .next (wordTrap s k .s c 0x04 (BitVec.ofNat 64 o.ra.toNat)))) ∧
      (tagX s c 0 o.ra = true ∨ a.toNat % 8 ≠ 0 →
        exec (.lds o) s =
          .next (issued s k .s (pendLoad c .s o.rd (freeWord (s.free + 8))) [(.x, o.ra.toNat, o.la)]))) ∧
    (WordRuns s k .s c .s false (some (o.pred.toNat, o.pn)) [(.x, o.ra.toNat), (.x, o.rd.toNat)] →
      ∀ q ∈ storeForms o,
        (tagX s c 0 o.ra = false → tagX s c 1 o.rd = false → a.toNat % q.2 ≠ 0 →
          exec q.1 s = .next (wordTrap s k .s c 0x05 a)) ∧
        (tagX s c 0 o.ra = true → exec q.1 s = .next (wordTrap s k .s c 0x04 (BitVec.ofNat 64 o.ra.toNat))) ∧
        (tagX s c 0 o.ra = false → tagX s c 1 o.rd = true →
          exec q.1 s = .next (wordTrap s k .s c 0x04 (BitVec.ofNat 64 o.rd.toNat))))

/-- The atomics, SPAWN, JOINDEC, MSEMSIG, FENCE and FENCE.ALL with clean operands and an aligned address issue: their entry
joins the operand log with its operation, its operands and its ordering (R132, R133, R344, R347, R349, R391). -/
def Sys2Proof.Claims.AtomicAndOrderingWordsIssue : Prop :=
  ∀ (o : FmtA) (s : State) (k : Nat) (c : Crew),
    let a := readX s c 0 o.ra
    let b := readX s c 1 o.rb
    let ord := o.mod.extractLsb' 3 3
    (WordRuns s k .s c .s false (guardA o) (readsA o 2) → tagX s c 0 o.ra = false → tagX s c 1 o.rb = false →
      a.toNat % (if o.ty = 0 then 8 else 4) = 0 →
      ∀ q ∈ atomicForms o,
        joinsLog q.1 s k c (if o.mod.getLsbD 0 then c else awaits s c o.rd false) (freesA o)
          (entryOf s c (.atomic q.2 o.ty (!o.mod.getLsbD 0)) a b 0 ord o.rd.toNat)) ∧
    (WordRuns s k .s c .s false (guardA o) (readsA o 3) → tagX s c 0 o.ra = false → tagX s c 1 o.rb = false →
      tagX s c 2 o.rc = false → a.toNat % (if o.ty = 0 then 8 else 4) = 0 →
        joinsLog (.acas o) s k c (if o.mod.getLsbD 0 then c else awaits s c o.rd false) (freesA o)
          (entryOf s c (.atomic 7 o.ty (!o.mod.getLsbD 0)) a b (readX s c 2 o.rc) ord o.rd.toNat)) ∧
    (WordRuns s k .s c .s false (guardA o) (readsA o 1) → tagX s c 0 o.ra = false →
      (a.toNat % 64 = 0 → joinsLog (.spawn o) s k c (awaits s c o.rd false) (freesA o) (entryOf s c .spawn a 0 0 3 o.rd.toNat)) ∧
      (a.toNat % 8 = 0 → joinsLog (.joindec o) s k c (awaits s c o.rd false) (freesA o) (entryOf s c .joindec a 0 0 3 o.rd.toNat)) ∧
      joinsLog (.fence o) s k c c (freesA o) (entryOf s c (.fence ord true) a 0 0 ord 0)) ∧
    (WordRuns s k .s c .s false (guardA o) (readsA o 2) → tagX s c 0 o.ra = false → tagX s c 1 o.rb = false → a.toNat % 8 = 0 →
      (if o.rb = 0 then 1 else b) ≠ 0 →
        joinsLog (.msemsig o) s k c c (freesA o) (entryOf s c .msemsig a (if o.rb = 0 then 1 else b) 0 3 0)) ∧
    (WordRuns s k .s c .s false (guardA o) [] →
      exec (.fenceAll o) s = .next (issued { s with stamp := s.stamp + 1 } k .s
        (settle { c with log := c.log ++ [{ entryOf s c (.fence ord false) 0 0 0 ord 0 with phase := .going }] }) []))

/-- WAITC and MSEMWAIT begin their wait with an access, on a bench and on a Reeve, and stall, stay stalled while it lasts, and
issue when a re-read has met their condition: WAITC then gives xd the value that it read (R134, R344, R346). -/
def Sys2Proof.Claims.MemoryWaitsStallAndIssue : Prop :=
  ∀ (o : FmtA) (s : State) (k : Nat) (c : Crew), tagX s c 0 o.ra = false → (readX s c 0 o.ra).toNat % 8 = 0 →
    let begins (i : Instr) (e : LogEntry) : Prop := c.waitValue = none → waitEntry c = none →
      (∀ u, joined s k c e = some u → exec i s = .next (putCrew u k ((crewAt u k).getD { c with log := c.log ++ [e] }))) ∧
      (joined s k c e = none → exec i s = .next (wordTrap s k .s c 0x12 e.opa))
    (WordRuns s k .s c .s false none (readsA o 2) → tagX s c 1 o.rb = false →
      (∀ v, c.waitValue = some v →
        exec (.waitc o) s = .next (issued s k .s { pendX c .s o.rd v false 1 with waitValue := none } (freesA o))) ∧
      (c.waitValue = none → (waitEntry c).isSome = true → exec (.waitc o) s = .next s) ∧
      begins (.waitc o) (entryOf s c .waitc (readX s c 0 o.ra) (readX s c 1 o.rb) 0 2 o.rd.toNat)) ∧
    (WordRuns s k .s c .s false (guardA o) (readsA o 1) →
      (∀ v, c.waitValue = some v → exec (.msemwait o) s = .next (issued s k .s { c with waitValue := none } (freesA o))) ∧
      (c.waitValue = none → (waitEntry c).isSome = true → exec (.msemwait o) s = .next s) ∧
      begins (.msemwait o) (entryOf s c .msemwait (readX s c 0 o.ra) 0 0 2 0))

/-! ### Core semaphores -/

/-- SEMINIT sets a count, behind the crew's pending signals where it has any; SEMSIG issues a signal that SIGNAL_TAKE_EFFECT
makes; both trap with ILLEGAL_OP (0xB) on a value that they do not take. SEMWAIT stalls behind a pending SEMINIT of its
semaphore, takes a count where the semaphore has one for it and stalls as a waiter otherwise. On a Reeve the three are illegal;
that TRAPADDR is then 0 is the model's choice (log 48) (R342 to R345). -/
def Sys2Proof.Claims.CoreSemaphoreWords : Prop :=
  ∀ (o : FmtA) (s : State) (k : Nat) (c : Crew),
    let v := readX s c 0 o.ra
    let one := if o.ra = 0 then 1 else v
    let n := o.rd.toNat
    let core := coreOf k
    let m := semAt s core n
    let frees : List (RegFile × Nat × Bool) := [(.x, o.ra.toNat, o.la)]
    let initAhead : Prop := ∃ e ∈ c.log, e.kind = .seminit n ∧ e.seq < s.stamp
    let entry (kind : LogKind) (x : Word) : LogEntry := { entryOf s c kind 0 x 0 0 0 with phase := .going }
    (WordRuns s k .s c .s false (guardA o) (readsA o 1) → isReeve k = false → tagX s c 0 o.ra = false →
      (bits v 63 32 = 0 → signalsPending c = false →
        exec (.seminit o) s = .next (issued (putSem s core n { m with count := v.truncate 32 }) k .s c frees)) ∧
      (bits v 63 32 = 0 → signalsPending c = true →
        exec (.seminit o) s = .next (issued { s with stamp := s.stamp + 1 } k .s
          { c with log := c.log ++ [entry (.seminit n) v] } frees)) ∧
      (bits v 63 32 ≠ 0 → exec (.seminit o) s = .next (wordTrap s k .s c 0x01 0xB)) ∧
      (one ≠ 0 → bits one 63 32 = 0 →
        exec (.semsig o) s = .next (issued { s with stamp := s.stamp + 1 } k .s
          { c with log := c.log ++ [entry (.semsig n) one] } frees)) ∧
      (one = 0 ∨ bits one 63 32 ≠ 0 → exec (.semsig o) s = .next (wordTrap s k .s c 0x01 0xB))) ∧
    (WordRuns s k .s c .s false (guardA o) [] → isReeve k = false →
      (initAhead → exec (.semwait o) s = .next s) ∧
      (¬ initAhead → semMay s core n (.crew k) = true →
        exec (.semwait o) s =
          .next (issued (advanceSem (putSem s core n { count := m.count - 1, waiters := m.waiters.filter (· != .crew k) }) core n)
            k .s c frees)) ∧
      (¬ initAhead → semMay s core n (.crew k) = false → exec (.semwait o) s = .next (semJoin s core n (.crew k)))) ∧
    (isReeve k = true →
      (WordRuns s k .s c .s false (guardA o) (readsA o 1) →
        exec (.seminit o) s = .next (wordTrap s k .s c 0x01 0) ∧ exec (.semsig o) s = .next (wordTrap s k .s c 0x01 0)) ∧
      (WordRuns s k .s c .s false (guardA o) [] → exec (.semwait o) s = .next (wordTrap s k .s c 0x01 0)))

/-- CANCEL with clean operands requests the cancellation of the level that xA and xB name and gives xd its status with bound
400: 3 where xB names no kind of level, 2 for another job on a bench, 1 for a level that is not ACTIVE, else 0 with the level
cancelled (R135); a Reeve names a level of any job (R385). Where several statuses fit, their order 3, 2, 1 is the model's
choice (log 58). -/
def Sys2Proof.Claims.CancelGivesItsStatus : Prop :=
  ∀ (o : FmtA) (s : State) (k : Nat) (c : Crew),
    let ids := readX s c 0 o.ra
    let kind := bits (readX s c 1 o.rb) 2 0
    let l := levelAt s kind (levelId kind ids)
    let ends (s' : State) (d : Crew) (status : Word) : Prop :=
      exec (.cancel o) s = .next (issued s' k .s (pendX d .s o.rd status false 400) (freesA o))
    let own : Prop := isReeve k = true ∨ jobOf s c = bits ids 43 40
    WordRuns s k .s c .s false (guardA o) (readsA o 2) → tagX s c 0 o.ra = false → tagX s c 1 o.rb = false →
      (kind = 0 ∨ 4 < kind → ends s c 3) ∧
      (1 ≤ kind ∧ kind ≤ 4 → ¬ own → ends s c 2) ∧
      (1 ≤ kind ∧ kind ≤ 4 → own → (l.state ≠ .active ∨ l.job ≠ bits ids 43 40) → ends s c 1) ∧
      (1 ≤ kind ∧ kind ≤ 4 → own → l.state = .active → l.job = bits ids 43 40 →
        ends (cancelLevel s kind (levelId kind ids)) ((crewAt (cancelLevel s kind (levelId kind ids)) k).getD c) 0)

/-! ### Vector words -/

namespace Sys2Proof.Claims

/-- The pending writes of a word's elements: one for each of kd registers from reg on. Result i, of width wd, lies in register
i mod kd at place i div kd (R179). Where the guard bits make element i active in the layout of width w, it takes its value;
elsewhere nothing is written, or zero with .z (R180, R181). -/
def holdsElements (c : Crew) (ps : List (Pend 4096)) (g : PredReg) (z : Bool) (w wd kd n reg bound : Nat)
    (value : Nat → Nat × FlagSet) : Prop :=
  ps.length = kd ∧
  (∀ r (h : r < ps.length), ps[r].reg = reg + r ∧ ps[r].issued = c.counter ∧ ps[r].land = .count (c.counter + bound) ∧
    ps[r].ready = true ∧ ps[r].poison = false) ∧
  (∀ i < n, ∀ h : i % kd < ps.length,
    (active g w i = true → elem wd ps[i % kd].mask (i / kd) = 2 ^ wd - 1 ∧ elem wd ps[i % kd].val (i / kd) = (value i).1 % 2 ^ wd) ∧
    (active g w i = false → elem wd ps[i % kd].mask (i / kd) = (if z then 2 ^ wd - 1 else 0) ∧ elem wd ps[i % kd].val (i / kd) = 0))

/-- The flags of a word: the OR of those of its active elements (R181). -/
def flagsOf (g : PredReg) (w n : Nat) (value : Nat → Nat × FlagSet) : FlagSet :=
  orFlags ((List.range n).map fun i => if active g w i then (value i).2 else 0)

/-- The crew after a vector word: its pending writes and its flags, in flight until they land; the pipe held for the word's
occupancy (R185); and SRCTR advanced where the word's effective mode is SR (R165). Nothing else changes. -/
def afterVector (c : Crew) (ps : List (Pend 4096)) (occupancy : Nat) (flags : FlagSet) (bound : Nat) (advance : Bool) : Crew :=
  { c with
    pendV := c.pendV ++ ps
    pipes := mapSet c.pipes 0 (c.counter + occupancy - 1)
    pendF := if flags = 0 then c.pendF else c.pendF ++ [(c.counter, c.counter + bound, flags)]
    srctr := if advance then c.srctr + 256 else c.srctr }

/-- A vector word completes with its elements. -/
def givesElements (i : Instr) (s : State) (k : Nat) (c : Crew) (o : FmtA) (f : VFrame) (w wd kd n bound : Nat)
    (value : Nat → Nat × FlagSet) (occupancy : Nat) (rounds : Bool) : Prop :=
  ∃ ps, holdsElements c ps (guardBits s c f.pred f.pn) (zeroing o) w wd kd n o.rd.toNat bound value ∧
    exec i s = .next (issued s k .v (afterVector c ps occupancy (flagsOf (guardBits s c f.pred f.pn) w n value) bound
      (rounds && modeCode c o.mod == 5)) f.frees)

/-- The integer forms of MAJOR 0x32: their sources, their bound and their exact value (Table 07.2, Table 07.3). -/
def integerForms (o : FmtA) (w : Nat) : List (Instr × Nat × Nat × (Int → Int → Int)) :=
  [(.vadd o, 2, 2, fun a b => a + b), (.vsub o, 2, 2, fun a b => a - b), (.vmul o, 2, 4, fun a b => a * b),
   (.vmulh o, 2, 4, fun a b => a * b / 2 ^ w), (.vmin o, 2, 2, fun a b => if a ≤ b then a else b),
   (.vmax o, 2, 2, fun a b => if b ≤ a then a else b), (.vabs o, 1, 2, fun a _ => if a < 0 then -a else a),
   (.vneg o, 1, 2, fun a _ => -a), (.vabd o, 2, 2, fun a b => if a ≤ b then b - a else a - b)]

/-- The logic and shift forms of MAJOR 0x34: their sources and what they do to each bit t of an element of width w (R189). -/
def bitForms (o : FmtA) (w : Nat) : List (Instr × Nat × (Nat → Nat → Nat → Bool)) :=
  [(.vand o, 2, fun a b t => a.testBit t && b.testBit t), (.vor o, 2, fun a b t => a.testBit t || b.testBit t),
   (.vxor o, 2, fun a b t => a.testBit t != b.testBit t), (.vandn o, 2, fun a b t => a.testBit t && !b.testBit t),
   (.vnot o, 1, fun a _ t => !a.testBit t), (.vshl o, 2, fun a b t => decide (b % w ≤ t) && a.testBit (t - b % w)),
   (.vshr o, 2, fun a b t => decide (t + b % w < w) && a.testBit (t + b % w)),
   (.vsra o, 2, fun a b t => if t + b % w < w then a.testBit (t + b % w) else a.testBit (w - 1)),
   (.vrot o, 2, fun a b t => a.testBit ((t + w - b % w) % w))]

/-- The floating-point forms that compute element by element: their sources, their bound, whether they have an effective mode,
and their value from the mode and the three operands (R171 to R174, R187, R188, Table 07.2). -/
def floatForms (o : FmtA) (F : Format) : List (Instr × Nat × Nat × Bool × (Mode → Nat → Nat → Nat → Nat × FlagSet)) :=
  let sat := saturating o
  let fma (p q : Bool) (m : Mode) (a b c : Nat) : Nat × FlagSet :=
    F.finish m sat (fmaNum m.isDown (if p then (F.decode a).negate else F.decode a) (F.decode b)
      (if q then (F.decode c).negate else F.decode c))
  [(.vadd o, 2, 4, true, fun m a b _ => F.finish m sat (addNum m.isDown (F.decode a) (F.decode b))),
   (.vsub o, 2, 4, true, fun m a b _ => F.finish m sat (addNum m.isDown (F.decode a) (F.decode b).negate)),
   (.vmul o, 2, 4, true, fun m a b _ => F.finish m sat (mulNum (F.decode a) (F.decode b))),
   (.vabd o, 2, 4, true, fun m a b _ => F.finish m sat
      ((addNum m.isDown (F.decode a) (F.decode b).negate).1.abs, (addNum m.isDown (F.decode a) (F.decode b).negate).2)),
   (.vfma o, 3, 5, true, fma false false), (.vfms o, 3, 5, true, fma false true), (.vfnma o, 3, 5, true, fma true false),
   (.vfnms o, 3, 5, true, fma true true),
   (.vrcpa o, 1, 6, false, fun _ a _ _ => rcpa F (F.decode a)), (.vrsqa o, 1, 6, false, fun _ a _ _ => rsqa F (F.decode a)),
   (.vsqrt o, 1, 20, true, fun m a _ _ => sqrtOf F m (F.decode a)),
   (.vexp2 o, 1, 12, true, fun m a _ _ => exp2Of F m sat (F.decode a)),
   (.vlog2 o, 1, 12, true, fun m a _ _ => log2Of F m (F.decode a)), (.vsint o, 1, 14, true, fun m a _ _ => sinTurn m a),
   (.vcost o, 1, 14, true, fun m a _ _ => cosTurn m a)]

end Sys2Proof.Claims

/-- Every integer form of MAJOR 0x32 gives each active element the exact value of Table 07.3, its low w bits or clamped with
.sat, raises no flag, and does nothing else (R181, R186). -/
def Sys2Proof.Claims.IntegerVectorElements : Prop :=
  ∀ (o : FmtA) (s : State) (k : Nat) (c : Crew), formatOf o.ty.toNat = none →
    let w := typeWidth o.ty.toNat
    let int (r j : Nat) (i : BitVec 6) : Int := intOf w (typeSigned o.ty.toNat) (elem w (readV s c r i.toNat) j)
    ∀ q ∈ integerForms o w, VectorRuns s k c (frameA o q.2.1 2) →
      givesElements q.1 s k c o (frameA o q.2.1 2) w w 1 (4096 / w) q.2.2.1
        (fun j => (intResult w (typeSigned o.ty.toNat) (saturating o) (q.2.2.2 (int 0 j o.ra) (int 1 j o.rb)), 0)) 2 false

/-- Every logic and shift form of MAJOR 0x34 gives each active element the bits that R189 names, whatever its type. -/
def Sys2Proof.Claims.LogicVectorElements : Prop :=
  ∀ (o : FmtA) (s : State) (k : Nat) (c : Crew),
    let w := typeWidth o.ty.toNat
    ∀ q ∈ bitForms o w, VectorRuns s k c (frameA o q.2.1 2) →
      ∃ value : Nat → Nat,
        givesElements q.1 s k c o (frameA o q.2.1 2) w w 1 (4096 / w) 2 (fun j => (value j, 0)) 2 false ∧
        ∀ j < 4096 / w, ∀ t < w, (value j).testBit t =
          q.2.2 (elem w (readV s c 0 o.ra.toNat) j) (elem w (readV s c 1 o.rb.toNat) j) t

/-- Every floating-point form that computes element by element gives each active element its value, rounded in the effective
mode of that element, with its flags in flight until the result lands (R162, R165, R181, R187, R188; R171 to R174). -/
def Sys2Proof.Claims.FloatVectorElements : Prop :=
  ∀ (o : FmtA) (F : Format) (s : State) (k : Nat) (c : Crew), formatOf o.ty.toNat = some F →
    let w := typeWidth o.ty.toNat
    ∀ q ∈ floatForms o F, VectorRuns s k c (frameA o q.2.1 2) →
      givesElements q.1 s k c o (frameA o q.2.1 2) w w 1 (4096 / w) q.2.2.1
        (fun j => q.2.2.2.2 (if q.2.2.2.1 then elementMode c o.mod j else .rne) (elem w (readV s c 0 o.ra.toNat) j)
          (elem w (readV s c 1 o.rb.toNat) j) (elem w (readV s c 2 o.rc.toNat) j)) 2 q.2.2.2.1

/-- VABS, VNEG, VMIN and VMAX on floating-point types: the sign is cleared or inverted and the selection is exact, with the
canonical NaN for a NaN operand and NV for a signalling one (R187). VSEL takes each element from vA where pC's governing bit
is 1 and from vB otherwise (R191). VMOVS to a vector gives every active element the low bits of xA (R208). -/
def Sys2Proof.Claims.SelectionVectorElements : Prop :=
  ∀ (o : FmtA) (s : State) (k : Nat) (c : Crew),
    let w := typeWidth o.ty.toNat
    let a (j : Nat) := elem w (readV s c 0 o.ra.toNat) j
    let b (j : Nat) := elem w (readV s c 1 o.rb.toNat) j
    (∀ F, formatOf o.ty.toNat = some F →
      (VectorRuns s k c (frameA o 1 2) →
        ∀ q ∈ ([(.vabs o, fun x => x % 2 ^ (w - 1)), (.vneg o, fun x => if x < 2 ^ (w - 1) then x + 2 ^ (w - 1) else x - 2 ^ (w - 1))]
            : List (Instr × (Nat → Nat))),
          givesElements q.1 s k c o (frameA o 1 2) w w 1 (4096 / w) 2
            (fun j => if (F.decode (a j)).isNaN then (F.nanCode, (F.decode (a j)).signal) else (q.2 (a j), 0)) 2 false) ∧
      (VectorRuns s k c (frameA o 2 2) →
        ∀ q ∈ ([(.vmin o, numBelow), (.vmax o, fun x y => numBelow y x)] : List (Instr × (Machine.Num → Machine.Num → Bool))),
          givesElements q.1 s k c o (frameA o 2 2) w w 1 (4096 / w) 2
            (fun j => if (F.decode (a j)).isNaN || (F.decode (b j)).isNaN then
                (F.nanCode, (F.decode (a j)).signal ||| (F.decode (b j)).signal)
              else (if q.2 (F.decode (a j)) (F.decode (b j)) then a j else b j, 0)) 2 false)) ∧
    (∀ f, f = { frameA o 2 2 with reads := (frameA o 2 2).reads ++ [(.p, o.rc.toNat)],
                                  frees := (frameA o 2 2).frees ++ [(.p, o.rc.toNat, o.lc)] } →
      VectorRuns s k c f →
        givesElements (.vsel o) s k c o f w w 1 (4096 / w) 2
          (fun j => (if (readP s c 2 o.rc.toNat).getLsbD (w * j / 16) then a j else b j, 0)) 2 false) ∧
    (VectorRuns s k c (laneFrame o [(0, o.ra, o.la)] []) →
      givesElements (.vmovsToVector o) s k c o (laneFrame o [(0, o.ra, o.la)] []) w w 1 (4096 / w) 2
        (fun _ => ((readX s c 0 o.ra).toNat % 2 ^ w, 0)) 2 false)

namespace Sys2Proof.Claims

/-- The frame of VCVT: the wide side is a group, aligned to its number of registers, and holds the pipe for 2 counts a register
(R179, R185, R192). -/
def convertFrame (o : FmtA) (src dst : Nat) : VFrame :=
  let kd := typeWidth dst / typeWidth src
  let ks := typeWidth src / typeWidth dst
  { frameA o 1 (2 * max 1 (max kd ks)) with
    groups := (if kd > 1 then [(o.rd.toNat, kd)] else []) ++ (if ks > 1 then [(o.ra.toNat, ks)] else [])
    reads := groupReads o.ra.toNat (max 1 ks), frees := groupFrees o.ra.toNat (max 1 ks) o.la }

/-- Element j of a source that is a group of ks registers, or one register (R179). -/
def sourceElement (s : State) (c : Crew) (first ws ks j : Nat) : Nat :=
  if ks > 1 then elem ws (readV s c (j % ks) (first + j % ks)) (j / ks) else elem ws (readV s c 0 first) j

/-- The frame of VQNT (R206). -/
def quantiseFrame (o : FmtA) (k : Nat) : VFrame :=
  { frameA o 2 (2 * k) with
    groups := [(o.ra.toNat, k)], reads := groupReads o.ra.toNat k ++ [(.v, o.rb.toNat)],
    frees := groupFrees o.ra.toNat k o.la ++ [(.v, o.rb.toNat, o.lb)] }

/-- The exact sum of the products of the elements in bytes 4j to 4j + 3, for integer types (R194). -/
def integerDot (t : Nat) (a b : VecReg) (j : Nat) : Int :=
  let w := typeWidth t
  ((List.range (32 / w)).map fun i =>
    intOf w (typeSigned t) (elem w a (j * (32 / w) + i)) * intOf w (typeSigned t) (elem w b (j * (32 / w) + i))).sum

end Sys2Proof.Claims

/-- The forms whose sides differ in width: VCVT (R192), VWMUL (R193), VDOT (R194), VQNT (R206) and VDEQ (R207) write the
register or the group that R179 names, each active element with its value and its flags. -/
def Sys2Proof.Claims.WideningVectorElements : Prop :=
  ∀ (o : FmtA) (s : State) (k : Nat) (c : Crew),
    let t := o.ty.toNat
    let w := typeWidth t
    let a (j : Nat) := elem w (readV s c 0 o.ra.toNat) j
    let b (j : Nat) := elem w (readV s c 1 o.rb.toNat) j
    (∀ m : BitVec 5, m.toNat < 16 → VectorRuns s k c (convertFrame o m.toNat t) →
      givesElements (.vcvt m o) s k c o (convertFrame o m.toNat t) (min (typeWidth m.toNat) w) w
        (max 1 (w / typeWidth m.toNat)) (4096 / min (typeWidth m.toNat) w) (if w / typeWidth m.toNat > 1 then 6 else 4)
        (fun j => convertElement m.toNat t (if isFloat m.toNat || isFloat t then elementMode c o.mod j else .rne) (saturating o)
          (sourceElement s c o.ra.toNat (typeWidth m.toNat) (typeWidth m.toNat / w) j))
        (2 * max 1 (max (w / typeWidth m.toNat) (typeWidth m.toNat / w))) (isFloat m.toNat || isFloat t)) ∧
    (∀ f, f = { frameA o 2 4 with groups := [(o.rd.toNat, 2)] } → VectorRuns s k c f →
      givesElements (.vwmul o) s k c o f w (2 * w) 2 (4096 / w) 5
        (fun j => match formatOf t with
          | some F =>
            let r := fp32.finish (elementMode c o.mod j) (saturating o) (mulNum (F.decode (a j)) (F.decode (b j)))
            (r.1, if F = fp16 then 0 else r.2)
          | none => (wrapInt (2 * w) (intOf w (typeSigned t) (a j) * intOf w (typeSigned t) (b j)), 0)) 4 (isFloat t)) ∧
    (VectorRuns s k c (frameA o 3 2) →
      (formatOf t = none →
        givesElements (.vdot o) s k c o (frameA o 3 2) 32 32 1 128 6
          (fun j => (intResult 32 (typeSigned t) (saturating o) (intOf 32 (typeSigned t) (elem 32 (readV s c 2 o.rc.toNat) j) +
            integerDot t (readV s c 0 o.ra.toNat) (readV s c 1 o.rb.toNat) j), 0)) 2 false) ∧
      (∀ F, formatOf t = some F →
        givesElements (.vdot o) s k c o (frameA o 3 2) 32 32 1 128 6
          (fun j => dotFloat F (elementMode c o.mod j) (saturating o) (readV s c 0 o.ra.toNat) (readV s c 1 o.rb.toNat)
            (readV s c 2 o.rc.toNat) j) 2 true)) ∧
    (VectorRuns s k c (quantiseFrame o (16 / w)) →
      givesElements (.vqnt o) s k c o (quantiseFrame o (16 / w)) w w 1 (4096 / w) 8
        (fun j =>
          let x := bf16.decode (elem 16 (readV s c (j % (16 / w)) (o.ra.toNat + j % (16 / w))) (j / (16 / w)))
          let scale := readV s c 4 o.rb.toNat
          match formatOf t with
          | some F => F.finish (elementMode c o.mod j) (saturating o)
              ((mulNum x (scaleFactor (elem 8 scale (j / 32)) true)).1,
               (mulNum x (scaleFactor (elem 8 scale (j / 32)) true)).2 ||| flagIf (elem 8 scale (j / 32) == 255) flagNV)
          | none => quotientToInt w (typeSigned t) (elementMode c o.mod j) x (bf16.decode (elem 16 scale (j / 128))))
        (2 * (16 / w)) true) ∧
    (∀ f, f = { frameA o 2 (2 * (16 / w)) with groups := [(o.rd.toNat, 16 / w)] } → VectorRuns s k c f →
      givesElements (.vdeq o) s k c o f w 16 (16 / w) (4096 / w) 6
        (fun j => bf16.finish (elementMode c o.mod j) (saturating o) (mulNum (elementNum t (a j))
          (if isFloat t then scaleFactor (elem 8 (readV s c 1 o.rb.toNat) (j / 32)) false
            else bf16.decode (elem 16 (readV s c 1 o.rb.toNat) (j / 128))))) (2 * (16 / w)) true)

namespace Sys2Proof.Claims

/-- A word that writes the low 64 bits of vd, and clears the rest with .z (R195). -/
def givesLow (i : Instr) (s : State) (k : Nat) (c : Crew) (o : FmtA) (v : Nat) (flags : FlagSet) (rounds : Bool) : Prop :=
  ∃ p : Pend 4096, p.reg = o.rd.toNat ∧ p.issued = c.counter ∧ p.land = .count (c.counter + 12) ∧ p.ready = true ∧
    p.poison = false ∧ p.mask = (if zeroing o then BitVec.allOnes 4096 else (BitVec.allOnes 64).zeroExtend 4096) ∧
    p.val = (BitVec.ofNat 64 v).zeroExtend 4096 ∧
    exec i s = .next (issued s k .v (afterVector c [p] 2 flags 12 (rounds && modeCode c o.mod == 5)) [(.v, o.ra.toNat, o.la)])

/-- The elements of a reduction: an inactive one gives the operation's identity (R195). -/
def reduced (s : State) (c : Crew) (o : FmtA) (op : Nat) : List Nat :=
  (List.range (4096 / typeWidth o.ty.toNat)).map fun i =>
    if active (guardBits s c o.pred.toNat o.pn) (typeWidth o.ty.toNat) i then
      elem (typeWidth o.ty.toNat) (readV s c 0 o.ra.toNat) i
    else reduceIdentity op o.ty.toNat

/-- What the scan holds before element j: the identity, then each active element taken in (R197). -/
def scanBefore (act : Nat → Bool) (f : Nat → Nat → Nat × FlagSet) (first : Nat) : Nat → Nat
  | 0 => first
  | j + 1 => if act j then (f j (scanBefore act f first j)).1 else scanBefore act f first j

end Sys2Proof.Claims

/-- VRED puts the tree's result (R168) into the low bits of vd (R195), with an effective mode for its sum alone, which is the
model's reading of R163 (log 44); VREDX puts there the value and the index of the active element that no active element
outranks, the lowest of those, with NV for a signalling NaN among them; the canonical NaN and index 0 with NV where every active
element is a NaN; and the identity with index 0xFFFFFFFF where none is active (R196). VSCAN gives each active element the scan
up to it (R197). -/
def Obligations.ReductionsAndScan : Prop :=
  ∀ (o : FmtA) (s : State) (k : Nat) (c : Crew) (m : BitVec 5), VectorRuns s k c (frameA o 1 2) →
    let t := o.ty.toNat
    let w := typeWidth t
    let g := guardBits s c o.pred.toNat o.pn
    let a (j : Nat) := elem w (readV s c 0 o.ra.toNat) j
    let signals (j : Nat) : FlagSet := match formatOf t with | some F => (F.decode (a j)).signal | none => 0
    let node (q x y : Nat) :=
      reduceOp m.toNat t (if isFloat t && decide (m = 0) then elementMode c o.mod q else .rne) (saturating o) x y
    givesLow (.vred m o) s k c o (reduceTree node (Nat.log2 (4096 / w)) 0 (reduced s c o m.toNat)).1
      (reduceTree node (Nat.log2 (4096 / w)) 0 (reduced s c o m.toNat)).2 (isFloat t && decide (m = 0)) ∧
    (∀ j < 4096 / w, active g w j = true →
      (∀ F, formatOf t = some F → (F.decode (a j)).isNaN = false) →
      (∀ i < 4096 / w, active g w i = true → outranks t (m = 0) (a i) (a j) = false) →
      (∀ i < j, active g w i = true → outranks t (m = 0) (a j) (a i) = true) →
        givesLow (.vredx m o) s k c o (j * 2 ^ 32 + a j) (flagsOf g w (4096 / w) fun i => (0, signals i)) false) ∧
    (∀ F, formatOf t = some F → (∃ j < 4096 / w, active g w j = true) →
      (∀ j < 4096 / w, active g w j = true → (F.decode (a j)).isNaN = true) →
        givesLow (.vredx m o) s k c o F.nanCode flagNV false) ∧
    ((∀ j < 4096 / w, active g w j = false) →
      givesLow (.vredx m o) s k c o (0xFFFFFFFF * 2 ^ 32 + reduceIdentity (if m = 0 then 2 else 1) t) 0 false) ∧
    givesElements (.vscan m o) s k c o (frameA o 1 2) w w 1 (4096 / w) 16
      (fun j => node j (scanBefore (active g w) (fun i acc => node i acc (a i)) (reduceIdentity m.toNat t) j) (a j)) 2
      (isFloat t && decide (m = 0))

namespace Sys2Proof.Claims

/-- What a cross-lane word reads for source j of n elements: the nearest active element at or below j; the identity operand
where there is none, or j lies outside (R182). -/
def laneValue (act : Nat → Bool) (n : Nat) (read : Nat → Nat) (identity : Nat) (j : Int) (v : Nat) : Prop :=
  (j < 0 ∨ n ≤ j → v = identity) ∧
  (0 ≤ j ∧ j < n →
    (∀ i : Nat, (i : Int) ≤ j → act i = true → (∀ i' : Nat, i < i' → (i' : Int) ≤ j → act i' = false) → v = read i) ∧
    ((∀ i : Nat, (i : Int) ≤ j → act i = false) → v = identity))

end Sys2Proof.Claims

/-- The cross-lane forms read under R182: VPERM bytes of the same half (R198), VSHUF, VBCAST and VXLANE the element that
Table 07.4 names (R199). -/
def Sys2Proof.Claims.CrossLaneElements : Prop :=
  ∀ (o : FmtA) (s : State) (k : Nat) (c : Crew),
    let w := typeWidth o.ty.toNat
    let n := 4096 / w
    let g := guardBits s c o.pred.toNat o.pn
    let a := readV s c 0 o.ra.toNat
    let b := readV s c 1 o.rb.toNat
    let identity := (readX s c 2 o.rc).toNat
    (∀ f, f = laneFrame o [(2, o.rc, o.lc)] [(o.ra.toNat, o.la), (o.rb.toNat, o.lb)] → VectorRuns s k c f →
      (∃ v : Nat → Nat, givesElements (.vperm o) s k c o f 8 8 1 512 4 (fun i => (v i, 0)) 2 false ∧
        ∀ i < 512, laneValue (fun j => active g 8 (i / 256 * 256 + j)) 256 (fun j => elem 8 a (i / 256 * 256 + j))
          (identity % 256) (elem 8 b i : Nat) (v i)) ∧
      (∃ v : Nat → Nat, givesElements (.vshuf o) s k c o f w w 1 n 4 (fun i => (v i, 0)) 2 false ∧
        ∀ i < n, laneValue (active g w) n (elem w a) (identity % 2 ^ w) (elem w b i % n : Nat) (v i))) ∧
    (∀ f, f = laneFrame o [(1, o.rb, o.lb), (2, o.rc, o.lc)] [(o.ra.toNat, o.la)] → VectorRuns s k c f →
      (∃ v : Nat → Nat, givesElements (.vbcast o) s k c o f w w 1 n 4 (fun i => (v i, 0)) 2 false ∧
        ∀ i < n, laneValue (active g w) n (elem w a) (identity % 2 ^ w) ((readX s c 1 o.rb).toNat % n : Nat) (v i)) ∧
      (∃ v : Nat → Nat, givesElements (.vxlane o) s k c o f w w 1 n 4 (fun i => (v i, 0)) 2 false ∧
        ∀ i < n, laneValue (active g w) n (elem w a) (identity % 2 ^ w) (i + (readX s c 1 o.rb).toInt) (v i)))

/-- VMOVS to a scalar register gives xd the element that xB names, extended by its type, with bound 4; VMOVS from dq pops the
oldest entry of the data queue with its tag (R208, R122). VRNG fills the active granules with the random words of its three
operands (R177). -/
def Sys2Proof.Claims.MovesAndRandomWords : Prop :=
  ∀ (o : FmtA) (s : State) (k : Nat) (c : Crew),
    let t := o.ty.toNat
    let w := typeWidth t
    (WordRuns s k .v c .v false (guardA o) [(.v, o.ra.toNat), (.x, o.rb.toNat)] → tagX s c 1 o.rb = false →
      exec (.vmovsToScalar o) s = .next (issued s k .v
        (pendX c .v o.rd (BitVec.ofInt 64 (intOf w (typeSigned t)
          (elem w (readV s c 0 o.ra.toNat) ((readX s c 1 o.rb).toNat % (4096 / w))))) false 4)
        [(.v, o.ra.toNat, o.la), (.x, o.rb.toNat, o.lb)])) ∧
    (∀ e rest, WordRuns s k .v c .v false (guardA o) [] → c.dataQ = e :: rest → e.pushedAt < c.counter → e.src = none →
      exec (.vmovsDq o) s = .next (issued s k .v (pendX { c with dataQ := rest } .v o.rd e.val e.poison 1) [])) ∧
    (∀ f, f = { pred := o.pred.toNat, pn := o.pn, groups := [], use := some (.pipe, 2), reads := readsA o 3, frees := freesA o,
                scalars := [(0, o.ra), (1, o.rb), (2, o.rc)] } → VectorRuns s k c f →
      givesElements (.vrng o) s k c o f 16 16 1 256 10
        (fun i => ((bcg128 (readX s c 0 o.ra) ((readX s c 1 o.rb).truncate 32)
          (readX s c 2 o.rc + BitVec.ofNat 64 (i / 8))).toNat / 2 ^ (16 * (i % 8)) % 2 ^ 16, 0)) 2 false)

/-- VCMP writes every granule bit of each active element with its condition (R190); PAND, POR, PXOR, PNOT and PMOV write the
bits that the guard lets them (R209); PSET the first m bits (R210); PCNT and PFIRST count (R211). -/
def Sys2Proof.Claims.PredicateWords : Prop :=
  ∀ (o : FmtA) (s : State) (k : Nat) (c : Crew),
    let t := o.ty.toNat
    let w := typeWidth t
    let g := guardBits s c o.pred.toNat o.pn
    let frame (n : Nat) : VFrame :=
      { pred := o.pred.toNat, pn := o.pn, groups := [], use := none
        reads := ([(.p, o.ra.toNat), (.p, o.rb.toNat)] : List (RegFile × Nat)).take n
        frees := ([(.p, o.ra.toNat, o.la), (.p, o.rb.toNat, o.lb)] : List (RegFile × Nat × Bool)).take n, scalars := [] }
    let counted (i : Nat) : Bool :=
      if t = 0 then (readP s c 0 o.ra.toNat).getLsbD i && g.getLsbD i
      else (readP s c 0 o.ra.toNat).getLsbD (2 * i) && g.getLsbD (2 * i)
    let lanes := if t = 0 then 256 else 128
    (∀ m : BitVec 5, 16 ≤ w → VectorRuns s k c (frameA o 2 2) →
      ∃ (p : Pend 256) (value : Nat → Bool × FlagSet),
        (∀ j, value j = match formatOf t with
          | some F => compareNum m.toNat (F.decode (elem w (readV s c 0 o.ra.toNat) j)) (F.decode (elem w (readV s c 1 o.rb.toNat) j))
          | none => (compareInt m.toNat (intOf w (typeSigned t) (elem w (readV s c 0 o.ra.toNat) j))
              (intOf w (typeSigned t) (elem w (readV s c 1 o.rb.toNat) j)), 0)) ∧
        p.reg = o.rd.toNat ∧ p.land = .count (c.counter + 3) ∧
        (∀ b < 256, p.mask.getLsbD b = (zeroing o || active g w (16 * b / w)) ∧
          p.val.getLsbD b = (active g w (16 * b / w) && (value (16 * b / w)).1)) ∧
        exec (.vcmp m o) s = .next (issued s k .v
          { (afterVector c [] 2 (flagsOf g w (4096 / w) fun j => (0, (value j).2)) 3 false) with pendP := c.pendP ++ [p] }
          [(.v, o.ra.toNat, o.la), (.v, o.rb.toNat, o.lb)])) ∧
    (VectorRuns s k c (frame 2) →
      ∀ q ∈ ([(.pand o, readP s c 0 o.ra.toNat &&& readP s c 1 o.rb.toNat), (.por o, readP s c 0 o.ra.toNat ||| readP s c 1 o.rb.toNat),
          (.pxor o, readP s c 0 o.ra.toNat ^^^ readP s c 1 o.rb.toNat)] : List (Instr × PredReg)),
        exec q.1 s = .next (issued s k .v
          (pendP c .v o.rd.toNat (if zeroing o then BitVec.allOnes 256 else g) (q.2 &&& g) 1) (frame 2).frees)) ∧
    (VectorRuns s k c (frame 1) →
      (∀ q ∈ ([(.pnot o, ~~~readP s c 0 o.ra.toNat), (.pmov o, readP s c 0 o.ra.toNat)] : List (Instr × PredReg)),
        exec q.1 s = .next (issued s k .v
          (pendP c .v o.rd.toNat (if zeroing o then BitVec.allOnes 256 else g) (q.2 &&& g) 1) (frame 1).frees)) ∧
      exec (.pcnt o) s = .next (issued s k .v
        (pendX c .v o.rd (BitVec.ofNat 64 ((List.range lanes).filter counted).length) false 2) (frame 1).frees) ∧
      exec (.pfirst o) s = .next (issued s k .v
        (pendX c .v o.rd (BitVec.ofNat 64 (((List.range lanes).find? counted).getD lanes)) false 2) (frame 1).frees)) ∧
    (∀ q : FmtI, WordRuns s k .v c .v false none (if q.imm.getLsbD 29 then [(.x, q.ra.toNat)] else []) →
      (q.imm.getLsbD 29 = true → tagX s c 0 q.ra = false) →
        let n := if q.imm.getLsbD 29 then min (readX s c 0 q.ra).toNat 256 else (q.imm.extractLsb' 0 9).toNat
        let m := if q.imm.getLsbD 9 then 2 * min n 128 else min n 256
        ∃ v : PredReg, (∀ b < 256, v.getLsbD b = decide (b < m)) ∧
          exec (.pset q) s = .next (issued s k .v (pendP c .v q.rd.toNat (BitVec.allOnes 256) v 1) [(.x, q.ra.toNat, q.la)]))

namespace Sys2Proof.Claims

/-- The frame of a vector memory word. -/
def memFrame (pred : BitVec 4) (pn : Bool) (occupancy : Nat) (vs : List (BitVec 6 × Bool)) : VFrame :=
  { pred := pred.toNat, pn := pn, groups := [], use := some (.memory, occupancy), reads := vs.map fun q => (.v, q.1.toNat),
    frees := vs.map fun q => (.v, q.1.toNat, q.2), scalars := [] }

/-- The crew with its vector memory path held (R185). -/
def holdsPath (c : Crew) (occupancy : Nat) : Crew := { c with pipes := mapSet c.pipes 1 (c.counter + occupancy - 1) }

/-- The store that a vector word makes, to be performed by a count (log 43). -/
def storeOf (s : State) (c : Crew) (writes : List Host.Cell) (adds : List VAdd) (ordered : Bool) (due : Nat) : VStore :=
  { seq := s.stamp, issued := c.counter, epoch := c.epochV, writes := writes, adds := adds, ordered := ordered, due := due }

/-- A vector word issues with a store that waits in its crew: its accesses take their turns (R216), and it is due when they
have. -/
def storeWaits (i : Instr) (s : State) (k : Nat) (c : Crew) (bound : Nat) (frees : List (RegFile × Nat × Bool))
    (writes : List Host.Cell) (adds : List VAdd) (ordered : Bool) : Prop :=
  let path := takePath c bound (storeOf s c writes adds ordered 0).keys
  exec i s = .next (issued { s with stamp := s.stamp + 1 } k .v
    { path.1 with vstores := path.1.vstores ++ [storeOf s c writes adds ordered path.2] } frees)

/-- The keys of the region bytes that a gather reads: those of the elements that its active indices name. -/
def gatheredKeys (k : Nat) (r : Region) (w : Nat) (g : PredReg) (index : Nat → Nat) : List Nat :=
  ((List.range (4096 / w)).filter (active g w)).flatMap fun i =>
    if (index i + 1) * (w / 8) ≤ r.size then (List.range (w / 8)).filterMap fun j => r.key k (index i * (w / 8) + j) else []

end Sys2Proof.Claims

/-- The vector memory words through a tile register that is free and names a region of their own cluster. A load or gather takes
the region's bytes, zero for an index outside, as the crew's earlier stores to the banks and shares that it touches leave them:
none of those waits any longer (R200, R202, R205, R216). A store, scatter or scatter-add queues its bytes or its additions, in
element order (R200, R203, R204); an offset that is negative or no multiple of 64 traps with MISALIGN, TRAPADDR holding it
(R200). That loads are read at their issue and stores wait in the crew is the model's choice (log 43). -/
def Sys2Proof.Claims.VectorMemoryWords : Prop :=
  (∀ (s : State) (c : Crew) (bound : Nat) (keys : List Nat),
    let after := loadPath s c bound keys
    (∀ v ∈ after.2.vstores, v ∈ c.vstores ∧ ∀ a ∈ v.keys, a ∉ keys) ∧
    ((∀ v ∈ c.vstores, ∀ a ∈ v.keys, servedAt a ∉ keys.map servedAt) → after.1 = s ∧ after.2.vstores = c.vstores)) ∧
  (∀ (s : State) (k : Nat) (c : Crew) (r : Region),
    (∀ (sz : BitVec 2) (o : FmtM),
      let len := 64 * 2 ^ sz.toNat
      let occ := if len = 512 then 2 else 1
      let g := guardBits s c o.pred.toNat o.pn
      let misaligned (i : Instr) : Prop := o.off.toInt < 0 ∨ o.off.toNat % 64 ≠ 0 →
        exec i s = .next (wordTrap s k .v c 0x05 (o.off.signExtend 64))
      (VectorRuns s k c (memFrame o.pred o.pn occ []) →
        (0 ≤ o.off.toInt → o.off.toNat % 64 = 0 → tileUse s k (holdsPath c occ) o.ra.toNat false = .region r →
          ∀ s1 c1, loadPath s (holdsPath c occ) (loadBound k r)
              ((List.range len).filterMap fun i => r.key k (o.off.toNat + i)) = (s1, c1) →
            ∃ p : Pend 4096, p.reg = o.rd.toNat ∧ p.land = .count (c.counter + loadBound k r) ∧
              (∀ i < 512, elem 8 p.mask i = (if i < len && active g 8 i then 255 else 0) ∧
                elem 8 p.val i = (if i < len && active g 8 i then (vectorByte s1 k r (o.off.toNat + i)).toNat else 0)) ∧
              exec (.vld sz o) s = .next (issued s1 k .v { c1 with pendV := c1.pendV ++ [p] } [])) ∧
        misaligned (.vld sz o)) ∧
      (VectorRuns s k c (memFrame o.pred o.pn occ [(o.rd, o.ld)]) →
        (0 ≤ o.off.toInt → o.off.toNat % 64 = 0 → tileUse s k (holdsPath c occ) o.ra.toNat true = .region r →
          ∀ cells, cells = ((List.range len).filterMap fun i =>
              if active g 8 i then (r.key k (o.off.toNat + i)).map fun a => (a, (readV s c 0 o.rd.toNat).extractLsb' (8 * i) 8)
              else none) →
            cells ≠ [] →
            storeWaits (.vst sz o) s k (holdsPath c occ) (loadBound k r) [(.v, o.rd.toNat, o.ld)] cells [] false) ∧
        misaligned (.vst sz o))) ∧
    (∀ o : FmtA,
      let w := typeWidth o.ty.toNat
      let n := w / 8
      let g := guardBits s c o.pred.toNat o.pn
      let read (s1 : State) (j : Nat) : Nat := if (j + 1) * n ≤ r.size then vectorBytes s1 k r (j * n) n else 0
      let gathers (i : Instr) (c : Crew) (frees : List (RegFile × Nat × Bool)) (index : Nat → Nat) : Prop :=
        ∀ s1 c1, loadPath s c (gatherBound k r) (gatheredKeys k r w g index) = (s1, c1) →
          ∃ ps, holdsElements c ps g (zeroing o) w w 1 (4096 / w) o.rd.toNat (gatherBound k r)
              (fun i => (read s1 (index i), 0)) ∧
            exec i s = .next (issued s1 k .v { c1 with pendV := c1.pendV ++ ps } frees)
      (VectorRuns s k c (memFrame o.pred o.pn 4 [(o.rb, o.lb)]) → tileUse s k (holdsPath c 4) o.ra.toNat false = .region r →
        gathers (.vgath o) (holdsPath c 4) [(.v, o.rb.toNat, o.lb)] (elem w (readV s c 1 o.rb.toNat))) ∧
      (∀ (indices : List (BitVec 32)) (rest : List (Option (BitVec 32))), VectorRuns s k c (memFrame o.pred o.pn 4 []) →
        tileUse s k (holdsPath c 4) o.ra.toNat false = .region r → c.gleaner.queue = indices.map some ++ rest →
        indices.length = ((List.range (4096 / w)).filter (active g w)).length →
        gathers (.vgathq o) { holdsPath c 4 with gleaner := { c.gleaner with queue := rest } } []
          (fun i => (indices.getD ((List.range i).filter (active g w)).length 0).toNat)) ∧
      (VectorRuns s k c (memFrame o.pred o.pn 4 [(o.rb, o.lb), (o.rc, o.lc)]) →
        tileUse s k (holdsPath c 4) o.ra.toNat true = .region r →
        ∀ targets, targets = scatterTargets o k g r (readV s c 1 o.rb.toNat) → targets ≠ [] → 8 ≤ w →
          storeWaits (.vscat o) s k (holdsPath c 4) (loadBound k r) [(.v, o.rb.toNat, o.lb), (.v, o.rc.toNat, o.lc)]
            (targets.flatMap fun q => (List.range n).map fun b =>
              (q.1 + b, (readV s c 2 o.rc.toNat).extractLsb' (w * q.2 + 8 * b) 8)) [] false ∧
          storeWaits (.vscatadd o) s k
            { holdsPath c 4 with
              srctr := if isFloat o.ty.toNat && modeCode c o.mod == 5 then c.srctr + 256 else c.srctr }
            (loadBound k r) [(.v, o.rb.toNat, o.lb), (.v, o.rc.toNat, o.lc)] []
            (targets.map fun q => { key := q.1, ty := o.ty.toNat, mode := modeCode c o.mod,
                                    value := elem w (readV s c 2 o.rc.toNat) q.2, random := wordRandom c q.2 })
            (o.mod.getLsbD 0))))

/-! ### Words that queue a command -/

namespace Sys2Proof.Claims

/-- What a format C word must meet before its own checks: as every word, then without a semaphore on a Reeve (R383) and with
clean sources (R227, R286, R364). -/
def CommandRuns (s : State) (k : Nat) (c : Crew) (o : FmtC) (privileged useA useB : Bool) : Prop :=
  WordRuns s k .s c .s privileged none
      ((if useA then [(.x, o.ra.toNat)] else []) ++ (if useB then [(.x, o.rb.toNat)] else [])) ∧
    (isReeve k = true → o.wv = false ∧ o.sv = false) ∧ (useA = true → tagX s c 0 o.ra = false) ∧
    (useB = true → tagX s c 1 o.rb = false)

/-- The command that a word makes: its operands, its wait and signal semaphores, and the tile registers that it marks R and W
with their definitions at issue (R220, R224). -/
def commandOf (s : State) (k : Nat) (c : Crew) (kind : EngKind) (o : FmtC) (a b : Word) (reads writes : List Nat) : EngCmd :=
  { id := s.stamp, kind := kind, slot := k, crewId := c.crewId, job := jobOf s c, seq := s.stamp, issued := c.counter, xa := a,
    xb := b, cimm := o.cimm, wv := o.wv, sw := o.sw.toNat, sv := o.sv, ss := o.ss.toNat, reads := reads, writes := writes,
    tiles := (reads ++ writes).map fun t => (t, tdefOf c t), cbSlots := [], consumed := false, started := false, progress := 0,
    worked := false, held := false, latch := [], readyAt := none, flags := 0 }

/-- The crew with the operand-log entry of a command (R391, Table 14.6). -/
def logsCommand (s : State) (c : Crew) (e : EngCmd) : Crew :=
  { c with log := c.log ++ [{ (entryOf s c .cmd e.xa e.xb 0 0 0) with phase := .going, cmdId := s.stamp }] }

/-- A word queues a command at the tail of its queue, and stalls while the queue is full (R223, R251, R285, R363); s1 and c1
are the core's claims and the crew as the word changes them beside. -/
def queues (i : Instr) (s : State) (k : Nat) (c : Crew) (o : FmtC) (e : EngCmd) : Prop :=
  let core := coreAt s (coreOf k)
  let q := e.kind.queue
  ((queued core q).length < (if q = .bank then 16 else 32) →
    exec i s = .next (issued
      { (putCore s (coreOf k) (setQueued core q (queued core q ++ [e]))) with stamp := s.stamp + 1 } k .s (logsCommand s c e)
      (freesC o))) ∧
  ((if q = .bank then 16 else 32) ≤ (queued core q).length → exec i s = .next s)

/-- Low tile register of a command's immediate. -/
def lowTile (o : FmtC) : Nat := (o.cimm.extractLsb' 0 4).toNat

/-- Every word that queues a command or takes part in the Gleaner's, with its privilege and the registers that it reads. -/
def commandWords (o : FmtC) : List (Instr × Bool × Bool × Bool) :=
  [(.tld o, false, true, true), (.tst o, false, true, true), (.tmov o, false, false, false), (.tcopy2d o, false, true, true),
   (.clist o, false, true, true), (.trope o, false, true, true), (.glcfg o, false, true, true), (.glgo o, false, true, false),
   (.mcfg o, false, true, false), (.mgo o, false, false, false), (.mclaim o, false, true, false), (.mrel o, false, false, false),
   (.mldo o, false, false, false), (.mret o, false, false, false), (.mcell o, false, true, false),
   (.bqcmd o, false, true, true), (.bqload o, false, true, true), (.winfence o, false, false, false),
   (.fld o, false, true, true), (.fst o, false, true, true), (.fget o, false, true, true), (.fput o, false, true, true),
   (.ffadd o, false, true, true), (.fmcast o, false, true, true), (.fsig o, false, true, true),
   (.leaseGrant o, true, true, false), (.leaseRecall o, true, true, false), (.leaseRelease o, true, true, false),
   (.slotswLoad o, true, true, false), (.slotswSwitch o, true, true, false)]

end Sys2Proof.Claims

/-- A command word with a semaphore on a Reeve is illegal (R383); otherwise a poisoned source traps with POISON and the
register's number (R227, R254, R286, R364); a privileged one on a bench is illegal (R97), and so are a Gleaner or a matrix
word on a Reeve (R384). -/
def Obligations.EngineCommandWordsTrap : Prop :=
  ∀ (o : FmtC) (s : State) (k : Nat) (c : Crew), ∀ q ∈ commandWords o,
    let srcs : List (RegFile × Nat) :=
      (if q.2.2.1 then [(.x, o.ra.toNat)] else []) ++ (if q.2.2.2 then [(.x, o.rb.toNat)] else [])
    (WordRuns s k .s c .s q.2.1 none srcs → isReeve k = true → (o.wv || o.sv) = true →
      exec q.1 s = .next (wordTrap s k .s c 0x01 0xB)) ∧
    (WordRuns s k .s c .s q.2.1 none srcs → (isReeve k && (o.wv || o.sv)) = false → q.2.2.1 = true → tagX s c 0 o.ra = true →
      exec q.1 s = .next (wordTrap s k .s c 0x04 (BitVec.ofNat 64 o.ra.toNat))) ∧
    (WordRuns s k .s c .s q.2.1 none srcs → (isReeve k && (o.wv || o.sv)) = false → tagX s c 0 o.ra = false →
      q.2.2.2 = true → tagX s c 1 o.rb = true → exec q.1 s = .next (wordTrap s k .s c 0x04 (BitVec.ofNat 64 o.rb.toNat))) ∧
    (q.2.1 = true → s.cur = .crew k .s → crewAt s k = some c → isReeve k = false →
      exec q.1 s = .next (wordTrap s k .s c 0x01 0)) ∧
    (q.1 ∈ [Instr.glcfg o, .glgo o, .mcfg o, .mgo o, .mclaim o, .mrel o, .mldo o, .mret o, .mcell o] →
      CommandRuns s k c o false q.2.2.1 q.2.2.2 → isReeve k = true → exec q.1 s = .next (wordTrap s k .s c 0x01 0xB))

/-- The Carter's words queue their commands where their operands and tile registers pass R227: TLD and TROPE mark their tile
register W, TST its R, TMOV one of each, TCOPY2D and CLIST both (Table 08.5). A misaligned xA traps with MISALIGN, an empty
region with ILLEGAL_OP and TRAPADDR 0xB, a buffer of the wrong direction with TRAPADDR 9 (R227, R240). -/
def Sys2Proof.Claims.CarterWordsQueue : Prop :=
  ∀ (o : FmtC) (s : State) (k : Nat) (c : Crew),
    let a := readX s c 0 o.ra
    let b := readX s c 1 o.rb
    let t := lowTile o
    let t2 := (o.cimm.extractLsb' 4 4).toNat
    let plain (u : Nat) (reads : Bool) : Prop := (tileRegion c u).empty = false ∧ wrongWay c u reads = false
    (CommandRuns s k c o false true true →
      (a.toNat % 64 = 0 → plain t false → queues (.tld o) s k c o (commandOf s k c .tld o a b [] [t])) ∧
      (a.toNat % 64 = 0 → plain t true → queues (.tst o) s k c o (commandOf s k c .tst o a b [t] [])) ∧
      (a.toNat % 32 = 0 → (tileRegion c t).empty = false → 1 ≤ b.toNat → b.toNat ≤ 4096 →
        queues (.tcopy2d o) s k c o (commandOf s k c .tcopy2d o a b [t] [t])) ∧
      (a.toNat % 16 = 0 → (tileRegion c t).empty = false → 1 ≤ b.toNat → b.toNat ≤ 65536 →
        queues (.clist o) s k c o (commandOf s k c .clist o a b [t] [t])) ∧
      (a.toNat % 32 = 0 → plain t false → bits b 63 32 = 0 →
        queues (.trope o) s k c o (commandOf s k c .trope o a b [] [t])) ∧
      (a.toNat % 32 ≠ 0 → ∀ i ∈ [Instr.tcopy2d o, .trope o], exec i s = .next (wordTrap s k .s c 0x05 a)) ∧
      (a.toNat % 16 ≠ 0 → exec (.clist o) s = .next (wordTrap s k .s c 0x05 a)) ∧
      (a.toNat % 64 ≠ 0 → ∀ i ∈ [Instr.tld o, .tst o], exec i s = .next (wordTrap s k .s c 0x05 (a &&& 0xFFFFFFFFFFFF))) ∧
      (a.toNat % 64 = 0 → (tileRegion c t).empty = true → ∀ i ∈ [Instr.tld o, .tst o, .tcopy2d o, .clist o, .trope o],
        exec i s = .next (wordTrap s k .s c 0x01 0xB)) ∧
      (a.toNat % 64 = 0 → (tileRegion c t).empty = false → wrongWay c t false = true →
        exec (.tld o) s = .next (wordTrap s k .s c 0x01 9)) ∧
      (a.toNat % 64 = 0 → (tileRegion c t).empty = false → wrongWay c t true = true →
        exec (.tst o) s = .next (wordTrap s k .s c 0x01 9))) ∧
    (CommandRuns s k c o false false false →
      (plain t2 true → plain t false → (tileRegion c t2).size ≤ (tileRegion c t).size →
        queues (.tmov o) s k c o (commandOf s k c .tmov o 0 0 [t2] [t])) ∧
      ((tileRegion c t).size < (tileRegion c t2).size → exec (.tmov o) s = .next (wordTrap s k .s c 0x01 0xB)))

/-- The Gleaner's words enter the crew's own order of commands: GLCFG with its metadata register, GLGO with as many entries of
the offset queue reserved as xA says, marking the metadata register of the last GLCFG R; GLGO stalls where the queue has no
room and is illegal before any GLCFG (R241 to R243). -/
def Sys2Proof.Claims.GleanerWordsEnter : Prop :=
  ∀ (o : FmtC) (s : State) (k : Nat) (c : Crew), isReeve k = false →
    let a := readX s c 0 o.ra
    let b := readX s c 1 o.rb
    let t := lowTile o
    (CommandRuns s k c o false true true → bits a 39 35 = 0 → bits a 63 41 = 0 → bits b 63 32 = 0 →
      (tileRegion c t).empty = false → (tileRegion c t).lvl = 0 →
        let e := commandOf s k c .glcfg o a b [] []
        exec (.glcfg o) s = .next (issued { s with stamp := s.stamp + 1 } k .s
          (logsCommand s { c with glCmds := c.glCmds ++ [e] } e) (freesC o))) ∧
    (CommandRuns s k c o false true false →
      (gleanerTile c = none → exec (.glgo o) s = .next (wordTrap s k .s c 0x01 8)) ∧
      (∀ u, gleanerTile c = some u →
        (1 ≤ a.toNat → a.toNat ≤ 512 → c.gleaner.queue.length + a.toNat ≤ 512 →
          let e := commandOf s k c .glgo o a 0 [u] []
          exec (.glgo o) s = .next (issued { s with stamp := s.stamp + 1 } k .s
            (logsCommand s { c with gleaner := { c.gleaner with queue := c.gleaner.queue ++ List.replicate a.toNat none },
                                    glCmds := c.glCmds ++ [e] } e) (freesC o))) ∧
        (a.toNat = 0 ∨ 512 < a.toNat → exec (.glgo o) s = .next (wordTrap s k .s c 0x01 0xB)) ∧
        (1 ≤ a.toNat → a.toNat ≤ 512 → 512 < c.gleaner.queue.length + a.toNat → exec (.glgo o) s = .next s)))

/-- CBINIT with a sound region and buffer gives the tile register its region and its buffer for words of later counts, which is
the model's choice (log 46), and stalls while the register carries a mark; CBWAIT gives xd the slots that the crew holds; CBDONE
hands one slot on (R235, R237, R238, R110). -/
def Sys2Proof.Claims.CircularBufferWords : Prop :=
  ∀ (o : FmtA) (s : State) (k : Nat) (c : Crew), isReeve k = false →
    (WordRuns s k .s c .s false (guardA o) (readsA o 2) → tagX s c 0 o.ra = false → tagX s c 1 o.rb = false →
      (circOk k (readX s c 0 o.ra) (readX s c 1 o.rb) = true →
        (marked s k c o.rd.toNat = false →
          exec (.cbinit o) s = .next (issued s k .s
            { c with csrPend := c.csrPend ++ [(0x40 + o.rd.toNat, tileDefinition (readX s c 0 o.ra), c.counter),
                                              (circCsr + o.rd.toNat, readX s c 1 o.rb, c.counter)] } (freesA o))) ∧
        (marked s k c o.rd.toNat = true → exec (.cbinit o) s = .next s)) ∧
      (circOk k (readX s c 0 o.ra) (readX s c 1 o.rb) = false → exec (.cbinit o) s = .next (wordTrap s k .s c 0x01 0xA))) ∧
    (WordRuns s k .s c .s false (guardA o) [] →
      (mapGet c.circ o.ra.toNat = none → ∀ i ∈ [Instr.cbwait o, .cbdone o], exec i s = .next (wordTrap s k .s c 0x01 9)) ∧
      (∀ b, mapGet c.circ o.ra.toNat = some b →
        let held := if b.out then b.free else b.fill
        (0 < held →
          exec (.cbwait o) s = .next (issued s k .s (pendX c .s o.rd (BitVec.ofNat 64 held) false 1) []) ∧
          exec (.cbdone o) s = .next (issued s k .s
            { c with circ := mapSet c.circ o.ra.toNat
                               { b with ci := (b.ci + 1) % b.nslot, releasing := b.releasing ++ [c.counter],
                                        free := if b.out then b.free - 1 else b.free,
                                        fill := if b.out then b.fill else b.fill - 1 } } [])) ∧
        (held = 0 → ∀ i ∈ [Instr.cbwait o, .cbdone o], exec i s = .next s)))

/-- The matrix engine's words queue their commands where they pass their checks; MCLAIM and MREL open and close the crew's set
at their issue; MGO, MLDO and MRET are illegal with TRAPADDR 0xC without a claim that holds what they name, MLDO and MRET with
0xB where their region does not fit (R249, R264 to R270). -/
def Sys2Proof.Claims.MatrixWordsQueue : Prop :=
  ∀ (o : FmtC) (s : State) (k : Nat) (c : Crew), isReeve k = false →
    let a := readX s c 0 o.ra
    let core := coreAt s (coreOf k)
    let room : Prop := core.matQ.length < 32
    (CommandRuns s k c o false true false →
      (rowOk (o.cimm.extractLsb' 0 3).toNat a = true → queues (.mcfg o) s k c o (commandOf s k c .mcfg o a 0 [] [])) ∧
      (rowOk (o.cimm.extractLsb' 0 3).toNat a = false → exec (.mcfg o) s = .next (wordTrap s k .s c 0x01 0xB)) ∧
      (a ≠ 0 → bits a 63 34 = 0 →
        (c.claim = none → room →
          exec (.mclaim o) s = .next (issued
            { (putCore s (coreOf k) { core with matQ := core.matQ ++ [commandOf s k c .mclaim o a 0 [] []],
                                                claims := core.claims ++ [{ crewId := c.crewId, set := a, granted := false }] })
                with stamp := s.stamp + 1 } k .s
            { (logsCommand s c (commandOf s k c .mclaim o a 0 [] [])) with claim := some a, claimGranted := false } (freesC o))) ∧
        (c.claim = none → ¬ room → exec (.mclaim o) s = .next s) ∧
        (c.claim ≠ none → exec (.mclaim o) s = .next (wordTrap s k .s c 0x01 0xC))) ∧
      (∀ n < 32, (o.cimm.extractLsb' 0 5).toNat = n →
        (a.toNat < 4 ^ (n + 1) → (∀ j < n + 1, bits a (2 * j + 1) (2 * j) ≠ 3) →
          queues (.mcell o) s k c o (commandOf s k c .mcell o a 0 [] [])) ∧
        (4 ^ (n + 1) ≤ a.toNat → exec (.mcell o) s = .next (wordTrap s k .s c 0x01 0xB)))) ∧
    (CommandRuns s k c o false false false →
      (c.claim = none → exec (.mgo o) s = .next (wordTrap s k .s c 0x01 0xC)) ∧
      (c.claim ≠ none → queues (.mgo o) s k c o (commandOf s k c .mgo o 0 0 [] [])) ∧
      (room → exec (.mrel o) s = .next (issued
        { (putCore s (coreOf k) { core with matQ := core.matQ ++ [commandOf s k c .mrel o 0 0 [] []] }) with stamp := s.stamp + 1 }
        k .s { (logsCommand s c (commandOf s k c .mrel o 0 0 [] [])) with claim := none, claimGranted := false } (freesC o))) ∧
      (¬ room → exec (.mrel o) s = .next s) ∧
      (let t := (o.cimm.extractLsb' 5 4).toNat
       let fits := rowsFor (tileRegion c t) (if o.cimm.getLsbD 9 then 0 else 256)
       let owns : Prop := ∃ set, c.claim = some set ∧ set.getLsbD (o.cimm.extractLsb' 0 5).toNat = true
       (fits = true → owns → queues (.mldo o) s k c o (commandOf s k c .mldo o 0 0 [t] [])) ∧
       (fits = true → ¬ owns → exec (.mldo o) s = .next (wordTrap s k .s c 0x01 0xC)) ∧
       (fits = false → exec (.mldo o) s = .next (wordTrap s k .s c 0x01 0xB))) ∧
      (let u := (o.cimm.extractLsb' 1 4).toNat
       let ty := (o.cimm.extractLsb' 5 4).toNat
       let fits : Prop := ty ∈ [4, 9, 10, 11] ∧ rowsFor (tileRegion c u) (16 * typeWidth ty) = true
       let owns : Prop := ∃ set, c.claim = some set ∧ set.getLsbD (32 + (o.cimm.extractLsb' 0 1).toNat) = true
       (fits → owns → queues (.mret o) s k c o (commandOf s k c .mret o 0 0 [] [u])) ∧
       (fits → ¬ owns → exec (.mret o) s = .next (wordTrap s k .s c 0x01 0xC)) ∧
       (¬ fits → exec (.mret o) s = .next (wordTrap s k .s c 0x01 0xB))))

/-- The words of the bank queue and of the Porter queue their commands where their operands pass R286, R364, R378 and R382;
a misaligned xA traps with MISALIGN and xA in TRAPADDR. -/
def Sys2Proof.Claims.BankAndPorterWordsQueue : Prop :=
  ∀ (o : FmtC) (s : State) (k : Nat) (c : Crew),
    let a := readX s c 0 o.ra
    let b := readX s c 1 o.rb
    let t := lowTile o
    let filled := (tileRegion c t).empty = false
    (CommandRuns s k c o false true true →
      (a.toNat % 64 = 0 →
        queues (.bqcmd o) s k c o (commandOf s k c .bqcmd o a b [] []) ∧
        (bits b 31 17 = 0 → bits b 63 48 = 0 → bits b 16 0 % 64 = 0 → bits b 47 32 % 64 = 0 → 64 ≤ bits b 16 0 →
          bits b 47 32 + bits b 16 0 ≤ 65536 → o.cimm.extractLsb' 0 8 ≠ 0 →
            queues (.bqload o) s k c o (commandOf s k c .bqload o a b [] [])) ∧
        (bits a 63 48 = 0 → b.toNat < 2 ^ 19 → filled →
          queues (.fld o) s k c o (commandOf s k c .fld o a b [] [t]) ∧
          queues (.fst o) s k c o (commandOf s k c .fst o a b [t] [])) ∧
        (bits b 47 0 % 4 = 0 → bits a 63 48 = 0 → bits b 63 58 = 0 → filled →
          queues (.fmcast o) s k c o (commandOf s k c .fmcast o a b [t] []))) ∧
      (a.toNat % 32 = 0 → 1 ≤ b.toNat →
        (b.toNat ≤ 4096 → queues (.fget o) s k c o (commandOf s k c .fget o a b [] []) ∧
          queues (.fput o) s k c o (commandOf s k c .fput o a b [] [])) ∧
        (b.toNat ≤ 256 → queues (.ffadd o) s k c o (commandOf s k c .ffadd o a b [] []))) ∧
      (a.toNat % 8 = 0 → bits a 63 48 = 0 → b.toNat < 2 ^ 19 →
        queues (.fsig o) s k c o (commandOf s k c .fsig o a b [] [])) ∧
      (a.toNat % 64 ≠ 0 → ∀ i ∈ [Instr.bqcmd o, .bqload o, .fld o, .fst o, .fmcast o],
        exec i s = .next (wordTrap s k .s c 0x05 a)) ∧
      (a.toNat % 32 ≠ 0 → ∀ i ∈ [Instr.fget o, .fput o, .ffadd o], exec i s = .next (wordTrap s k .s c 0x05 a)) ∧
      (a.toNat % 8 ≠ 0 → exec (.fsig o) s = .next (wordTrap s k .s c 0x05 a))) ∧
    (CommandRuns s k c o false false false → queues (.winfence o) s k c o (commandOf s k c .winfence o 0 0 [] [])) ∧
    (CommandRuns s k c o true true false →
      (a.toNat % 64 = 0 →
        queues (.leaseGrant o) s k c o (commandOf s k c .leaseGrant o a 0 [] []) ∧
        queues (.leaseRecall o) s k c o (commandOf s k c .leaseRecall o a 0 [] []) ∧
        queues (.leaseRelease o) s k c o (commandOf s k c .leaseRelease o a 0 [] []) ∧
        queues (.slotswLoad o) s k c o (commandOf s k c .slotswLoad o a 0 [] [])) ∧
      queues (.slotswSwitch o) s k c o (commandOf s k c .slotswSwitch o a 0 [] []) ∧
      (a.toNat % 64 ≠ 0 → ∀ i ∈ [Instr.leaseGrant o, .leaseRecall o, .leaseRelease o, .slotswLoad o],
        exec i s = .next (wordTrap s k .s c 0x05 a)))

/-! ### Control and status registers, and the words of a Reeve -/

namespace Sys2Proof.Claims

/-- What CSRR reads from the registers that hold a value of their own (Tables 05.8, 06.3, 10.4, 13.7, 14.3 and 15.1). -/
def csrTable (s : State) (k : Nat) (c : Crew) : List (Nat × Word) :=
  let r := reeveAt s (clusterOf k)
  let p := s.pkg
  [(0x001, readFlags s c), (0x002, c.frm), (0x003, c.srseed), (0x004, c.srstrm), (0x005, c.srctr), (0x006, c.mflags),
   (0x008, c.trapcause), (0x009, c.trappc), (0x00A, c.trapaddr), (0x010, BitVec.ofNat 64 c.counter), (0x011, c.strict),
   (0x020, p.node &&& 0x7FFFF), (0x021, BitVec.ofNat 64 (clusterOf k)),
   (0x022, BitVec.ofNat 64 (if isReeve k then coreOf k + 64 else coreOf k)),
   (0x023, BitVec.ofNat 64 (if isReeve k then 16 else benchOf k)), (0x024, BitVec.ofNat 64 (c.crewId % 2 ^ 32)), (0x060, p.msh),
   (0x061, p.eccce), (0x062, p.eccue), (0x063, p.eccaddr), (0x070, BitVec.ofNat 64 s.fabric.frame),
   (0x072, s.fabric.fevbase), (0x073, s.fabric.fevtail.zeroExtend 64), (0x074, s.fabric.fevhead.zeroExtend 64),
   (0x075, s.fabric.fevsem), (0x080, r.trqbase), (0x081, r.trqtail.zeroExtend 64), (0x082, r.trqhead.zeroExtend 64),
   (0x083, r.rqst), (0x090, c.lvlsel), (0x092, p.droopst), (0x093, p.linkst), (0x094, p.shockst), (0x095, p.repair),
   (0x096, p.coredis), (0x097, p.weareol)] ++ (List.finRange 16).map fun t => (0x40 + t.val, c.tdef[t])

/-- The registers that only a Reeve may access (R376, R388, Table 10.4). -/
def reeveRegisters : List Nat := [0x61, 0x62, 0x63, 0x72, 0x73, 0x74, 0x75, 0x80, 0x81, 0x82, 0x83]

/-- A CSRW issues and leaves the state and the crew given. -/
def writesCsr (i : Instr) (s s' : State) (k : Nat) (_c c' : Crew) (o : FmtI) : Prop :=
  exec i s = .next (issued s' k .s c' [(.x, o.ra.toNat, o.la)])

/-- The crew with a CSR value that takes effect at its next count. -/
def later (c : Crew) (n : Nat) (v : Word) : Crew := { c with csrPend := c.csrPend ++ [(n, v, c.counter)] }

/-- What a privileged word of two operands must meet: on a Reeve, with clean sources. -/
def ReeveRuns (s : State) (k : Nat) (c : Crew) (o : FmtA) : Prop :=
  WordRuns s k .s c .s true none (readsA o 2) ∧ tagX s c 0 o.ra = false ∧ tagX s c 1 o.rb = false

/-- A word of a Reeve issues with a status for xd that lands in the clk after it completes. -/
def givesStatus (i : Instr) (s s' : State) (k : Nat) (c : Crew) (o : FmtA) (v : Nat) : Prop :=
  exec i s = .next (issued s' k .s (pendX c .s o.rd (BitVec.ofNat 64 v) false 1) (freesA o))

/-- The crew with a status awaited in xd without a bound, filled by the completion of the word with this number (R397). -/
def awaitsStatus (c : Crew) (rd : BitVec 6) (seq : Nat) : Crew :=
  if rd = 0 then c
  else { c with pendX := c.pendX ++ [{ reg := rd.toNat, mask := BitVec.allOnes 64, val := 0, poison := false, issued := c.counter,
                                       land := .event, ready := false, seq := seq, str := .s, again := false }] }

/-- Table 14.1: the bits of a bench reference that must be zero are zero. -/
def plainReference (a : Word) : Prop := a &&& 0xFFFFFC00 = 0

end Sys2Proof.Claims

/-- CSRR starts the write of the register's value to xd with bound 2; a Reeve's register read on a bench, and a number without a
field map, are illegal with TRAPADDR 0xB (R406). FFLAGS holds every flag that has landed; with no flag in flight it holds no
other (R162). -/
def Sys2Proof.Claims.CsrrReadsTheRegister : Prop :=
  ∀ (o : FmtI) (s : State) (k : Nat) (c : Crew), WordRuns s k .s c .s false (some (o.pred.toNat, false)) [] →
    let n := (o.imm.extractLsb' 0 12).toNat
    c.fflags &&& readFlags s c = c.fflags ∧ (c.pendF = [] → readFlags s c = c.fflags) ∧
    (∀ q ∈ csrTable s k c, n = q.1 → (q.1 ∈ reeveRegisters → isReeve k = true) →
      exec (.csrr o) s = .next (issued s k .s (pendX c .s o.rd q.2 false 2) [])) ∧
    (n = 0x71 → exec (.csrr o) s = .next (issued s k .s (pendX c .s o.rd (slotStatus s) false 2) [])) ∧
    (n = 0x91 → exec (.csrr o) s = .next (issued s k .s (pendX c .s o.rd (levelStatus s k c) false 2) [])) ∧
    (n ∈ reeveRegisters → isReeve k = false → exec (.csrr o) s = .next (wordTrap s k .s c 0x01 0xB)) ∧
    ((∀ q ∈ csrTable s k c, n ≠ q.1) → n ≠ 0x71 → n ≠ 0x91 → exec (.csrr o) s = .next (wordTrap s k .s c 0x01 0xB))

/-- CSRW on the registers that every bench may write: FFLAGS, MFLAGS and LVLSEL take their fields at once, SRSEED, SRSTRM,
SRCTR, STRICT, FRM and the tile registers for words of later counts; a reserved rounding mode and a region that does not fit
are illegal, and a write of a marked tile register stalls (R111, R160, R162, R165, R218, R261, R406, R412). -/
def Sys2Proof.Claims.CsrwOfACrewsRegisters : Prop :=
  ∀ (o : FmtI) (s : State) (k : Nat) (c : Crew),
    let n := (o.imm.extractLsb' 0 12).toNat
    let v := readX s c 0 o.ra
    WordRuns s k .s c .s false (some (o.pred.toNat, false)) [(.x, o.ra.toNat)] → tagX s c 0 o.ra = false →
      writesCsr (.csrwFflags o) s s k c { c with fflags := v &&& 0x1F, pendF := unlandedFlags s c } o ∧
      (∀ p ∈ unlandedFlags s c, p ∈ c.pendF) ∧ (∀ p ∈ c.pendF, c.counter ≤ p.1 → p ∈ unlandedFlags s c) ∧
      writesCsr (.csrwMflags o) s s k c { c with mflags := v &&& 0x17 } o ∧
      (bits v 2 0 ∈ [1, 2, 3, 4, 5] → writesCsr (.csrwFrm o) s s k c (later c 0x002 (v &&& 7)) o) ∧
      (bits v 2 0 ∈ [0, 6, 7] → exec (.csrwFrm o) s = .next (wordTrap s k .s c 0x01 0xB)) ∧
      writesCsr (.csrwSrctr o) s s k c (later c 0x005 v) o ∧
      writesCsr (.csrwStrict o) s s k c (later c 0x011 (v &&& 1)) o ∧
      (n = 0x003 → writesCsr (.csrw o) s s k c (later c 0x003 v) o) ∧
      (n = 0x004 → writesCsr (.csrw o) s s k c (later c 0x004 (v &&& 0xFFFFFFFF)) o) ∧
      (n = 0x090 → writesCsr (.csrw o) s s k c { c with lvlsel := v &&& 0xFFF7 } o) ∧
      (0x40 ≤ n → n ≤ 0x4F →
        let w := tileDefinition v
        (marked s k c (n - 0x40) = true → exec (.csrwTdef o) s = .next s) ∧
        (marked s k c (n - 0x40) = false → (w = 0 ∨ (regionOf w).valid k = true) →
          writesCsr (.csrwTdef o) s s k c (later c n w) o) ∧
        (marked s k c (n - 0x40) = false → w ≠ 0 → (regionOf w).valid k = false →
          exec (.csrwTdef o) s = .next (wordTrap s k .s c 0x01 0xA)))

/-- CSRW on the registers of the package and of a Reeve: on a Reeve they take their RW fields, a ring's base sets both its
indices to 0 and its index or base lets what waits for room be written; on a bench every one is illegal, and a CSRW to a
register that has no RW field is illegal everywhere (R274, R376, R381, R388, R406, R418, R419). That these refusals come before
POISON (log 17) and that FEVSEM's low bits are zero (log 26) are the model's choices. -/
def Sys2Proof.Claims.CsrwOfTheMachinesRegisters : Prop :=
  ∀ (o : FmtI) (s : State) (k : Nat) (c : Crew),
    let n := (o.imm.extractLsb' 0 12).toNat
    let v := readX s c 0 o.ra
    let cl := clusterOf k
    let r := reeveAt s cl
    let p := s.pkg
    let f := s.fabric
    let base := bits v 47 12 * 4096
    WordRuns s k .s c .s false (some (o.pred.toNat, false)) [(.x, o.ra.toNat)] →
      (isReeve k = true → tagX s c 0 o.ra = false →
        (bits v 4 0 ≤ 16 → writesCsr (.csrwMsh o) s { s with pkg := { p with msh := v &&& 0x1F } } k c c o) ∧
        (16 < bits v 4 0 → exec (.csrwMsh o) s = .next (wordTrap s k .s c 0x01 0xB)) ∧
        (bits v 3 0 ≤ 10 → wholeInWindow base (32 * 2 ^ (bits v 3 0 + 6)) = true →
          writesCsr (.csrwFevbase o) s (drainEvents
            { s with fabric := { f with fevbase := v &&& 0xFFFFFFFFF00F, fevtail := 0, fevhead := 0 } } f.events.length) k c c o) ∧
        writesCsr (.csrwFevhead o) s
          (drainEvents { s with fabric := { f with fevhead := v.truncate 32 } } f.events.length) k c c o ∧
        (bits v 3 0 ≤ 6 → wholeInWindow base (64 * 2 ^ (bits v 3 0 + 6)) = true →
          writesCsr (.csrwTrqbase o) s (drainTrapRing
            (putReeve s cl { r with trqbase := v &&& 0xFFFFFFFFF00F, trqtail := 0, trqhead := 0 }) cl r.records.length) k c c o) ∧
        writesCsr (.csrwTrqhead o) s (drainTrapRing (putReeve s cl { r with trqhead := v.truncate 32 }) cl r.records.length) k
          c c o ∧
        writesCsr (.csrwShockst o) s { s with pkg := { p with shockst := (p.shockst &&& ~~~4) ||| (v &&& 4) } } k c c o ∧
        (n = 0x61 → writesCsr (.csrw o) s { s with pkg := { p with eccce := v &&& 0xFFFFFFFF } } k c c o) ∧
        (n = 0x62 → writesCsr (.csrw o) s { s with pkg := { p with eccue := v &&& 0xFFFFFFFF } } k c c o) ∧
        (n = 0x63 → writesCsr (.csrw o) s { s with pkg := { p with eccaddr := v &&& 0x8000FFFFFFFFFFE0 } } k c c o) ∧
        (n = 0x75 → (v &&& 0xFFFFFFFFFFF8 = 0 ∨ wholeInWindow (v &&& 0xFFFFFFFFFFF8).toNat 8 = true) →
          writesCsr (.csrw o) s { s with fabric := { f with fevsem := v &&& 0xFFFFFFFFFFF8 } } k c c o) ∧
        (n = 0x83 →
          writesCsr (.csrw o) s (putReeve s cl { r with rqst := (r.rqst &&& ~~~0xFFFF) ||| (v &&& 0xFFFF) }) k c c o) ∧
        (n = 0x92 → writesCsr (.csrw o) s
          { s with pkg := { p with droopst := (p.droopst &&& ~~~0xFFFFFFFFFF) ||| (v &&& 0xFFFFFFFFFF) } } k c c o) ∧
        (n = 0x93 → writesCsr (.csrw o) s
          { s with pkg := { p with linkst := (p.linkst &&& ~~~0xFFFFFFFF00000000) ||| (v &&& 0xFFFFFFFF00000000) } } k c c o)) ∧
      (isReeve k = false →
        (∀ i ∈ [Instr.csrwMsh o, .csrwFevbase o, .csrwFevhead o, .csrwTrqbase o, .csrwTrqhead o, .csrwShockst o],
          exec i s = .next (wordTrap s k .s c 0x01 0xB)) ∧
        (n ∈ [0x61, 0x62, 0x63, 0x75, 0x83, 0x92, 0x93] → exec (.csrw o) s = .next (wordTrap s k .s c 0x01 0xB))) ∧
      (n ∈ [0x008, 0x009, 0x00A, 0x010, 0x020, 0x021, 0x022, 0x023, 0x024, 0x070, 0x071, 0x073, 0x081, 0x091, 0x095, 0x096, 0x097] →
        exec (.csrw o) s = .next (wordTrap s k .s c 0x01 0xB))

/-- A value that CSRW wrote at count c stands from count c + 1 on: nextCount gives a crew with nothing else pending the value
in its register (R406). -/
def Sys2Proof.Claims.CsrwTakesEffectAtTheNextCount : Prop :=
  ∀ (c : Crew) (n : Nat) (v : Word), c.csrPend = [] → c.pendX = [] → c.pendV = [] → c.pendP = [] → c.pendF = [] →
    (nextCount n (later c 0x002 v)).frm = v &&& 7 ∧ (nextCount n (later c 0x003 v)).srseed = v ∧
    (nextCount n (later c 0x004 v)).srstrm = v &&& 0xFFFFFFFF ∧ (nextCount n (later c 0x005 v)).srctr = v ∧
    (nextCount n (later c 0x011 v)).strict = v &&& 1 ∧
    (∀ t (h : t < 16), (nextCount n (later c (0x40 + t) v)).tdef[t] = v ∧
      (∀ u (h' : u < 16), u ≠ t → (nextCount n (later c (0x40 + t) v)).tdef[u] = c.tdef[u])) ∧
    (nextCount n (later c 0x005 v)).counter = c.counter + 1 ∧ (nextCount n (later c 0x005 v)).csrPend = []

/-- A privileged word with a bit set that must be zero is illegal with TRAPADDR 0xB, for a reference by the model's choice (log
29); with a poisoned source it traps with POISON, and on a bench it is illegal (R97, R404). -/
def Sys2Proof.Claims.PrivilegedWordsTrap : Prop :=
  ∀ (o : FmtA) (s : State) (k : Nat) (c : Crew),
    let a := readX s c 0 o.ra
    let b := readX s c 1 o.rb
    let words : List (Instr × Word × Word) :=
      [(.eret o, 0xFFFFFC00, 0xFFFFFFFFFFFFFFFC), (.splog o, 0xFFFFFC00, 0xFFFFFFFFFFFFE000),
       (.tlbi o, 0xFFFF00000000FFFF, 0xFFFFFFF000000000), (.icinv o, 0, 0), (.ctxsSnap o, 0xFFFFFC00, 0xFFFF00000000003E),
       (.ctxsOut o, 0xFFFFFC00, 0xFFFF00000000003E), (.ctxlInto o, 0xFFFFFC00, 0xFFFFFFFFFFFFFFFE),
       (.ctxlResume o, 0, 0xFFFFFFFFFFFFFFFE)]
    ∀ q ∈ words,
      (ReeveRuns s k c o → (a &&& q.2.1 ≠ 0 ∨ b &&& q.2.2 ≠ 0) → exec q.1 s = .next (wordTrap s k .s c 0x01 0xB)) ∧
      (WordRuns s k .s c .s true none (readsA o 2) → tagX s c 0 o.ra = true →
        exec q.1 s = .next (wordTrap s k .s c 0x04 (BitVec.ofNat 64 o.ra.toNat))) ∧
      (s.cur = .crew k .s → crewAt s k = some c → isReeve k = false → exec q.1 s = .next (wordTrap s k .s c 0x01 0))

/-- ERET gives status 1 where its reference names no crew, 2 for a running crew or one that is being pre-empted, which is the
model's choice (log 33); on a TRAPPED
crew it resumes it with STEP as xB<0> says and gives 0; on a HELD crew it makes the oldest held fault a trap with DELIVER, and
lets its access go on without it (R385, R395). -/
def Sys2Proof.Claims.EretResumesItsTarget : Prop :=
  ∀ (o : FmtA) (s : State) (k : Nat) (c : Crew),
    let a := readX s c 0 o.ra
    let b := readX s c 1 o.rb
    ReeveRuns s k c o → plainReference a → b &&& 0xFFFFFFFFFFFFFFFC = 0 →
      (targetCrew s k a = none → givesStatus (.eret o) s s k c o 1) ∧
      (∀ slot t, targetCrew s k a = some (slot, t) →
        ((t.state = .running ∨ inTransfer s slot t.crewId .out = true) → givesStatus (.eret o) s s k c o 2) ∧
        (inTransfer s slot t.crewId .out = false → t.state = .trapped →
          givesStatus (.eret o) s
            (modCrew (resumeCrew s slot t) slot fun d => { d with step := b.getLsbD 0, stepAt := none }) k c o 0) ∧
        (∀ e, inTransfer s slot t.crewId .out = false → t.state = .held → t.log.find? heldEntry = some e →
          (b.getLsbD 1 = true → givesStatus (.eret o) s (deliverFault s slot t e) k c o 0) ∧
          (b.getLsbD 1 = false →
            givesStatus (.eret o) s
              (modCrew (releaseHeld s slot t e) slot fun d => { d with step := b.getLsbD 0, stepAt := none }) k c o 0)))

/-- A crew that stopped at TRAP and has nothing to issue again runs on behind the TRAP word; one that stopped at another precise
cause runs on with the same word due, an RVZ that can never be joined among them (R113, R395): the return from an exception.
LVLSEL is zero after it (R412). -/
def Sys2Proof.Claims.ReturnFromATrap : Prop :=
  ∀ (s : State) (k : Nat) (c : Crew), k < 1024 → c.log = [] →
    (let d := { c with state := .running, step := false, stepAt := none, lvlsel := 0 }
     bits c.trapcause 7 0 ≠ 0x60 →
      crewAt (resumeCrew s k c) k = some (match orphan c with | some str => dueAgain d str | none => d)) ∧
    (bits c.trapcause 7 0 = 0x60 → c.s.rvz = none → ∃ d, crewAt (resumeCrew s k c) k = some d ∧ d.state = .running ∧
      d.s.pc = (wordAfter c.s).1 ∧ d.s.last = some c.counter ∧ d.x = c.x ∧ d.vr = c.vr ∧ d.pr = c.pr ∧ d.fflags = c.fflags ∧
      d.trapcause = c.trapcause ∧ d.trappc = c.trappc ∧ d.trapaddr = c.trapaddr ∧ d.lvlsel = 0 ∧ d.counter = c.counter)

/-- HALT waits while TRQHEAD = TRQTAIL and then completes with no other effect (R407); SPLOG starts the write of a doubleword of
a stopped crew's log, of zero for an index that names no entry, of all ones for a crew that it may not read, with bound 24
(R409). -/
def Sys2Proof.Claims.HaltAndSplog : Prop :=
  ∀ (o : FmtA) (s : State) (k : Nat) (c : Crew),
    (WordRuns s k .s c .s true none [] →
      let r := reeveAt s (clusterOf k)
      (r.trqhead = r.trqtail → exec (.halt o) s = .next s) ∧
      (r.trqhead ≠ r.trqtail → exec (.halt o) s = .next (issued s k .s c []))) ∧
    (let a := readX s c 0 o.ra
     let b := readX s c 1 o.rb
     ReeveRuns s k c o → plainReference a → b &&& 0xFFFFFFFFFFFFE000 = 0 →
      let gives (v : Word) : Prop := exec (.splog o) s = .next (issued s k .s (pendX c .s o.rd v false 24) (freesA o))
      (targetCrew s k a = none → gives 0xFFFFFFFFFFFFFFFF) ∧
      (∀ slot t, targetCrew s k a = some (slot, t) →
        (t.state = .running → gives 0xFFFFFFFFFFFFFFFF) ∧
        (t.state ≠ .running → t.log.length ≤ bits b 9 0 → gives 0) ∧
        (∀ e, t.state ≠ .running → t.log[bits b 9 0]? = some e → gives ((entryWords e).getD (bits b 12 10) 0))))

/-- TLBI and ICINV issue their sweep of a job's addresses and await its status (R401, R408, R397). That ICINV checks no bit of
its operands is the model's choice (log 29). -/
def Sys2Proof.Claims.SweepsAreIssued : Prop :=
  ∀ (o : FmtA) (s : State) (k : Nat) (c : Crew),
    let a := readX s c 0 o.ra
    let b := readX s c 1 o.rb
    let cl := clusterOf k
    let r := reeveAt s cl
    let job : Option Nat := if (rootOf s (bits b 35 32)).isSome then some (bits b 35 32) else none
    ReeveRuns s k c o →
      (a &&& 0xFFFF00000000FFFF = 0 → b &&& 0xFFFFFFF000000000 = 0 →
        exec (.tlbi o) s = .next (issued
          { (putReeve s cl { r with tlbi := r.tlbi ++
              [{ seq := s.stamp, job := job, first := a.toNat, extent := bits b 31 0 * 65536 }] }) with stamp := s.stamp + 1 }
          k .s (awaitsStatus c o.rd s.stamp) (freesA o))) ∧
      exec (.icinv o) s = .next (issued
        { (putReeve s cl { r with icinv := r.icinv ++
            [{ seq := s.stamp, job := job, first := a.toNat, extent := bits b 31 0 }] }) with stamp := s.stamp + 1 }
        k .s (awaitsStatus c o.rd s.stamp) (freesA o))

namespace Sys2Proof.Claims

/-- A context word with its target settled: it completes at once with the status of its work, where that can be done, and
awaits its status otherwise (R397); s1 is the state that it begins from. -/
def carries (i : Instr) (s s1 : State) (k : Nat) (c : Crew) (o : FmtA) (t : Transfer) : Prop :=
  let cl := clusterOf k
  match finishTransfer s1 t with
  | .ok (st, s2) => givesStatus i s s2 k c o st
  | .error s2 => exec i s = .next (issued
      { (putReeve s2 cl { reeveAt s2 cl with transfers := (reeveAt s2 cl).transfers ++ [t] }) with stamp := s2.stamp + 1 } k .s
      (awaitsStatus c o.rd t.seq) (freesA o))

/-- The state with the members of a group TRAPPED, where their issue stops for their saving. -/
def stopsGroup (s : State) (members : List Nat) : State :=
  members.foldl (fun s m => modCrew s m fun d => { d with state := .trapped }) s

end Sys2Proof.Claims

/-- CTXS and CTXL.INTO give status 1 for an unknown crew and 2 for one that the mode refuses; CTXS gives 3 without a save area
and 4 for an image without MIG or with a claim set open; else they complete at once with the status of their work, or await it,
CTXS.OUT with the group stopped. CTXL.RESUME gives 1 where no unit was saved at its address, 2 where STATE is not 2 or the unit
is not switched out, 5 where the area cannot be read, and 0 with the unit back in the Dispatcher's queues, or waits for room in
a full store (R50, R397, R399). RESUME's status 1, and that a word whose work is not settled awaits it, are the model's choices
(log 33). -/
def Obligations.ContextWordsIssue : Prop :=
  ∀ (o : FmtA) (s : State) (k : Nat) (c : Crew),
    let a := readX s c 0 o.ra
    let b := readX s c 1 o.rb
    let image := bits b 47 6 * 64
    ReeveRuns s k c o →
      (plainReference a → b &&& 0xFFFF00000000003E = 0 →
        (targetCrew s k a = none → givesStatus (.ctxsSnap o) s s k c o 1 ∧ givesStatus (.ctxsOut o) s s k c o 1) ∧
        (∀ slot t, targetCrew s k a = some (slot, t) →
          let out := inTransfer s slot t.crewId .out
          let ms := membersOf s slot
          (t.state ≠ .trapped ∨ out = true → givesStatus (.ctxsSnap o) s s k c o 2) ∧
          (ms.any (outBarred s) = true → givesStatus (.ctxsOut o) s s k c o 2) ∧
          (∀ u, unitOf s t = some u →
            (t.state = .trapped → out = false →
              (Docket.save u.docket = 0 → givesStatus (.ctxsSnap o) s s k c o 3) ∧
              (Docket.save u.docket ≠ 0 → image ≠ 0 → (Docket.mig u.docket = false ∨ t.claim.isSome = true) →
                givesStatus (.ctxsSnap o) s s k c o 4) ∧
              (Docket.save u.docket ≠ 0 → (image = 0 ∨ (Docket.mig u.docket = true ∧ t.claim = none)) →
                carries (.ctxsSnap o) s s k c o
                  { op := .snap, slot := slot, crewId := t.crewId, seq := s.stamp, image := image })) ∧
            (ms.any (outBarred s) = false → Docket.save u.docket ≠ 0 → image = 0 →
              carries (.ctxsOut o) s (stopsGroup s ms) k c o
                { op := .out, slot := slot, crewId := t.crewId, seq := s.stamp, image := image })))) ∧
      (b &&& 0xFFFFFFFFFFFFFFFE = 0 →
        (plainReference a →
          (targetCrew s k a = none → givesStatus (.ctxlInto o) s s k c o 1) ∧
          (∀ slot t, targetCrew s k a = some (slot, t) →
            (t.state ≠ .trapped → givesStatus (.ctxlInto o) s s k c o 2) ∧
            (t.state = .trapped → inTransfer s slot t.crewId .out = false →
              carries (.ctxlInto o) s s k c o
                { op := .into, slot := slot, crewId := t.crewId, seq := s.stamp, image := 0 }))) ∧
        (savedUnit s a = none → givesStatus (.ctxlResume o) s s k c o 1) ∧
        (∀ u, savedUnit s a = some u →
          (∀ f s1, readVirtual s (coreOf k) (Docket.job u.docket) (a.toNat + 0x48) 8 .load false = (.error f, s1) →
            givesStatus (.ctxlResume o) s s1 k c o 5) ∧
          (∀ bs s1, readVirtual s (coreOf k) (Docket.job u.docket) (a.toNat + 0x48) 8 .load false = (.ok bs, s1) →
            (bytesValue bs ≠ 2 ∨ switchedOut s1 u = false → givesStatus (.ctxlResume o) s s1 k c o 2) ∧
            (∀ s2, bytesValue bs = 2 → switchedOut s1 u = true → movable s1 (coreOf k) u (remainingMembers u) = (none, s2) →
              givesStatus (.ctxlResume o) s s2 k c o 5) ∧
            (∀ free s2, bytesValue bs = 2 → switchedOut s1 u = true → movable s1 (coreOf k) u (remainingMembers u) = (some free, s2) →
              let s3 := { s2 with units := mapSet s2.units u.uid (resuming u free) }
              let d := s3.dispatcher
              (storeRoom s3 = true → givesStatus (.ctxlResume o) s (intoStore s3 u.uid) k c o 0) ∧
              (storeRoom s3 = false →
                exec (.ctxlResume o) s = .next (issued
                  { s3 with stamp := s3.stamp + 1,
                            dispatcher := { d with waiting := d.waiting ++ [.enqueue u.uid (some (clusterOf k, s3.stamp))] } }
                  k .s (awaitsStatus c o.rd s3.stamp) (freesA o)))))))

/-! ### Commands of the control node and the work that they make -/

namespace Sys2Proof.Claims

/-- The next state of a command is that of its end with a status (R36, R48). -/
def ends (i : Instr) (s s' : State) (c : Cmd) (status : Nat) : Prop := exec i s = .next (endCommand s' c status 0 0)

/-- A level that is not in use, opened ACTIVE with its counter zero. -/
def opened (s : State) (kind id job : Nat) (phase : Option Nat) (root : Nat) : State :=
  putLevel s kind id { state := .active, closed := false, count := 0, job := job, phase := phase, inUse := true, root := root,
                       partner := none }

/-- The device keeps nothing of an earlier job with a number: no translation, pointer entry, instruction line, race record,
interval or guard entry, and no request of the device that is under way to another package (R74, R338, R341; the instruction
lines are the model's choice, log 77). -/
def forgotten (s : State) (job : Nat) : State :=
  { s with
    tlb := s.tlb.filter fun e => e.job != job
    pointers := s.pointers.filter fun q => q.1 / 2 ^ 50 != job
    cores := s.cores.map fun q => (q.1, { q.2 with tlb := q.2.tlb.filter fun e => e.job != job
                                                   icache := q.2.icache.filter fun e => e.job != job
                                                   races := q.2.races.filter fun e => e.job != job })
    intervals := s.intervals.filter fun e => e.1 / 512 != job
    guards := s.guards.filter fun e => e.1 / 512 != job
    lent := s.lent.filter fun a => a.cmd.isSome || a.job != job }

/-- The units of a LAUNCH are created from a share of the package: the launch is opened, and where ADDR2 is not 0 the rank block
is written first (R40, R42). -/
def launchStarts (s t : State) (c : Cmd) (h : Share) : Prop :=
  let s1 := opened t 1 (bits c.ids 11 0) (bits c.ids 43 40) (if c.ids.getLsbD 38 then some (bits c.ids 37 32) else none) 0
  (c.addr2 = 0 → exec (.launch c) s = .next (launchUnits s1 c h.first 0 0 h.num)) ∧
  (∀ s2, c.addr2 ≠ 0 → writeVirtual s1 0 (bits c.ids 43 40) c.addr2.toNat (rankBlock h) false = (.ok (), s2) →
    exec (.launch c) s = .next (launchUnits s2 c h.first 0 0 h.num)) ∧
  (∀ x f s2, c.addr2 ≠ 0 → writeVirtual s1 0 (bits c.ids 43 40) c.addr2.toNat (rankBlock h) false = (.error (x, f), s2) →
    exec (.launch c) s = .next (endCommand (closeLevel s2 1 (bits c.ids 11 0)) c 6 f.toNat 0))

/-- The rank that entry j of a process-group table gives a node. -/
def rankNode (entries : List Byte) (j : Nat) : Nat := bytesValue ((entries.drop (4 * j)).take 4) % 2 ^ 19

/-- A level closed: DONE at once with its level-ended record where its counter is zero (R411). -/
def closedLevel (s : State) (kind id : Nat) : State :=
  settleLevel (putLevel s kind id { levelAt s kind id with closed := true }) (kind, id)

/-- The state after the control node wrote a register of the command port: without a ring error, or with ERR set and the port
stopped (R35). -/
def portWritten (s : State) : State :=
  if 10 < bits s.port.cqbase 3 0 ∨ 10 < bits s.port.cpbase 3 0 ∨
      2 ^ (bits s.port.cqbase 3 0 + 6) < (s.port.cqtail - s.port.cqhead).toNat then
    { s with port := { s.port with err := true, stopped := true } }
  else s

end Sys2Proof.Claims

/-- A command ends with one status record of 16 bytes at CPBASE + 16 × (CPTAIL mod size) in control-node memory; CPTAIL and
CQHEAD rise by one, and every other byte of that memory and every byte of the others is unchanged. Where the ring is full or
Ngugrim retrains, the record waits, and nothing else changes but that the command is over (R36, R48, R49, Table 02.7). -/
def Sys2Proof.Claims.StatusRecordIsWritten : Prop :=
  ∀ (s : State) (c : Cmd) (status addr count : Nat), status < 256 → addr < 2 ^ 48 → count < 2 ^ 32 →
    let at_ := bits s.port.cpbase 47 12 * 4096 + 16 * (s.port.cptail.toNat % 2 ^ (bits s.port.cpbase 3 0 + 8))
    let t := endCommand s c status addr count
    let waits := { s with port := { s.port with current := none, held := false, ended :=
      [(BitVec.ofNat 64 (2 ^ 56 + status * 2 ^ 48 + addr), BitVec.ofNat 64 (count * 2 ^ 32 + c.tag.toNat), statusKey)] } }
    s.port.ended = [] → ((cpRoom s = false ∨ s.port.retrain = true) → t = waits) ∧ (at_ + 16 ≤ 2 ^ 48 →
      cpRoom s = true → s.port.retrain = false →
      bytesWord (memRead t.ctl at_ 8) = BitVec.ofNat 64 (2 ^ 56 + status * 2 ^ 48 + addr) ∧
      bytesWord (memRead t.ctl (at_ + 8) 8) = BitVec.ofNat 64 (count * 2 ^ 32 + c.tag.toNat) ∧
      (∀ x, ¬ (at_ ≤ x ∧ x < at_ + 16) → memGet t.ctl x = memGet s.ctl x) ∧
      t.hbm = s.hbm ∧ t.spad = s.spad ∧ t.code = s.code ∧
      t.port.cptail = s.port.cptail + 1 ∧ t.port.cqhead = s.port.cqhead + 1 ∧ t.port.current = none ∧ t.port.held = false ∧
      t.levels = s.levels ∧ t.units = s.units ∧ t.crews = s.crews)

/-- The level commands and CANCEL, each with its checks in order: BADCMD (1), IDUNKNOWN (3), IDBUSY (2), or OK with its effect
(R37, R39, Table 02.3). That a phase command with PV 0 is BADCMD is the model's choice (log 12). -/
def Obligations.LevelCommands : Prop :=
  ∀ (c : Cmd) (s : State),
    let job := bits c.ids 43 40
    let phase := bits c.ids 37 32
    let pv := c.ids.getLsbD 38
    (∀ i ∈ [Instr.jobopen c, .jobend c, .phaseopen c, .phaseclose c, .launch c, .replay c, .gpatch c, .cancelCommand c],
      i.illFormed.isSome = true → ends i s s c 1) ∧
    ((Instr.jobopen c).illFormed = none →
      (c.addr0.toNat % 4096 ≠ 0 → ends (.jobopen c) s s c 1) ∧
      (c.addr0.toNat % 4096 = 0 → (levelAt s 4 job).inUse = true → ends (.jobopen c) s s c 2) ∧
      (c.addr0.toNat % 4096 = 0 → (levelAt s 4 job).inUse = false →
        ends (.jobopen c) s (forgotten (opened s 4 job job none c.addr0.toNat) job) c 0)) ∧
    ((Instr.jobend c).illFormed = none →
      (openFor s 4 job job = true → ends (.jobend c) s (closedLevel s 4 job) c 0) ∧
      (openFor s 4 job job = false → ends (.jobend c) s s c 3)) ∧
    ((Instr.phaseopen c).illFormed = none → pv = false → ends (.phaseopen c) s s c 1) ∧
    ((Instr.phaseclose c).illFormed = none → pv = false → ends (.phaseclose c) s s c 1) ∧
    ((Instr.phaseopen c).illFormed = none → pv = true →
      (openFor s 4 job job = false → ends (.phaseopen c) s s c 3) ∧
      (openFor s 4 job job = true → (levelAt s 3 phase).inUse = true → ends (.phaseopen c) s s c 2) ∧
      (openFor s 4 job job = true → (levelAt s 3 phase).inUse = false →
        ends (.phaseopen c) s (opened s 3 phase job none 0) c 0)) ∧
    ((Instr.phaseclose c).illFormed = none → pv = true →
      (openFor s 4 job job = true → openFor s 3 phase job = true → ends (.phaseclose c) s (closedLevel s 3 phase) c 0) ∧
      ((openFor s 4 job job = false ∨ openFor s 3 phase job = false) → ends (.phaseclose c) s s c 3)) ∧
    ((Instr.cancelCommand c).illFormed = none →
      let kind := c.lvl.toNat
      let id := levelId kind c.ids
      ((levelAt s kind id).state = .active → (levelAt s kind id).job = job →
        ends (.cancelCommand c) s (cancelLevel s kind id) c 0) ∧
      (((levelAt s kind id).state ≠ .active ∨ (levelAt s kind id).job ≠ job) → ends (.cancelCommand c) s s c 0))

/-- LAUNCH and REPLAY with their identifiers: malformed, unknown, busy, or opened and started; a LAUNCH takes the units that its
process group gives the package, or the units 0 to COUNT - 1 without one, and writes the rank block; an unusable table, a
malformed template, a fault and a counter without room end it with their statuses. A REPLAY sets the counters of its levels to
the number of its nodes before it clears their PEND and creates the first ones; GPATCH copies its granules in ascending order,
and is held while a replay may still read it (R39 to R43, R45). -/
def Sys2Proof.Claims.LaunchReplayAndPatch : Prop :=
  ∀ (c : Cmd) (s : State),
    let job := bits c.ids 43 40
    let launch := bits c.ids 11 0
    let graph := bits c.ids 24 16
    let phase : Option Nat := if c.ids.getLsbD 38 then some (bits c.ids 37 32) else none
    ((Instr.launch c).illFormed = none →
      (c.ids.getLsbD 25 = true ∨ c.cnt = 0 ∨ c.addr2.toNat % 64 ≠ 0 ∨ c.addr0.toNat % 64 ≠ 0 ∨
        (c.pg = true ∧ c.addr1.toNat % 64 ≠ 0) → ends (.launch c) s s c 1) ∧
      (c.ids.getLsbD 25 = false → c.cnt ≠ 0 → c.addr2.toNat % 64 = 0 → c.addr0.toNat % 64 = 0 →
        (c.pg = true → c.addr1.toNat % 64 = 0) →
        (namesOpen s c = false → ends (.launch c) s s c 3) ∧
        (namesOpen s c = true → (levelAt s 1 launch).inUse = true → ends (.launch c) s s c 2) ∧
        (namesOpen s c = true → (levelAt s 1 launch).inUse = false →
          (∀ f s1, readShare s c = (.error (some f), s1) → exec (.launch c) s = .next (endCommand s1 c 6 f.toNat 0)) ∧
          (c.am = true →
            (∀ s1, readShare s c = (.error none, s1) → ends (.launch c) s s1 c 8) ∧
            (∀ h s1, readShare s c = (.ok h, s1) →
              (countersFit s1 (outerLevels c) h.num = false → ends (.launch c) s s1 c 9) ∧
              (countersFit s1 (outerLevels c) h.num = true → launchStarts s s1 c h))) ∧
          (c.am = false →
            (∀ r s1 f s2, (readShare s c = (.ok r, s1) ∨ readShare s c = (.error none, s1)) →
              launchDocket s1 c 0 = (.error f, s2) → exec (.launch c) s = .next (endCommand s2 c 6 f.toNat 0)) ∧
            (∀ s1 d s2, readShare s c = (.error none, s1) → launchDocket s1 c 0 = (.ok d, s2) → ends (.launch c) s s2 c 8) ∧
            (∀ h s1 d s2, readShare s c = (.ok h, s1) → launchDocket s1 c 0 = (.ok d, s2) →
              (countersFit s2 (outerLevels c) h.num = false → ends (.launch c) s s2 c 9) ∧
              (countersFit s2 (outerLevels c) h.num = true → launchMalformed s2 d = true → ends (.launch c) s s2 c 4) ∧
              (countersFit s2 (outerLevels c) h.num = true → launchMalformed s2 d = false → launchStarts s s2 c h)))))) ∧
    (c.pg = false → readShare s c =
      (.ok { rank := 0, size := 1, d0 := 1, d1 := 1, d2 := 1, first := 0, num := c.cnt.toNat }, s)) ∧
    (∀ head s1, c.pg = true → readVirtual s 0 job c.addr1.toNat 0x40 .dispatcher false = (.ok head, s1) →
      let size := bytesValue (head.take 4)
      let d0 := bytesValue ((head.drop 8).take 4)
      let d1 := bytesValue ((head.drop 12).take 4)
      let d2 := bytesValue ((head.drop 16).take 4)
      (size = 0 ∨ 524288 < size → readShare s c = (.error none, s1)) ∧
      (∀ entries s2, 1 ≤ size → size ≤ 524288 →
        readVirtual s1 0 job (c.addr1.toNat + 0x40) (4 * size) .dispatcher false = (.ok entries, s2) →
        (d0 * d1 * d2 ≠ size → readShare s c = (.error none, s2)) ∧
        ((∀ j, j < size → rankNode entries j ≠ bits s2.pkg.node 18 0) → readShare s c = (.error none, s2)) ∧
        (∀ j k, j < k → k < size → rankNode entries j = bits s2.pkg.node 18 0 → rankNode entries k = bits s2.pkg.node 18 0 →
          readShare s c = (.error none, s2)) ∧
        (∀ k, k < size → d0 * d1 * d2 = size → rankNode entries k = bits s2.pkg.node 18 0 →
          (∀ j, j < size → j ≠ k → rankNode entries j ≠ bits s2.pkg.node 18 0) →
            readShare s c = (.ok { rank := k, size := size, d0 := d0, d1 := d1, d2 := d2, first := k * c.cnt.toNat / size,
                                   num := (k + 1) * c.cnt.toNat / size - k * c.cnt.toNat / size }, s2)))) ∧
    ((Instr.replay c).illFormed = none → c.ids.getLsbD 25 = true → 1 ≤ c.cnt.toNat → c.cnt.toNat ≤ 65536 →
      c.addr0.toNat % 128 = 0 → namesOpen s c = true → (levelAt s 1 launch).inUse = false → (levelAt s 2 graph).inUse = false →
      (nodesBusy s job c.addr0.toNat = true → ends (.replay c) s s c 7) ∧
      (nodesBusy s job c.addr0.toNat = false → countersFit s (outerLevels c) c.cnt.toNat = true →
        let r : Replay := { launch := launch, job := job, phase := phase, phaseField := bits c.ids 38 32,
                            nodes := c.addr0.toNat, ncnt := c.cnt.toNat, created := [] }
        let s1 := opened (opened s 2 graph job phase c.addr0.toNat) 1 launch job phase 0
        let s2 := putLevel s1 2 graph { levelAt s1 2 graph with partner := some launch }
        let s3 := putLevel s2 1 launch { levelAt s2 1 launch with partner := some graph }
        let s4 := closedLevel (addCounters { s3 with replays := mapSet s3.replays graph r } (replayLevels graph r) c.cnt.toNat) 2 graph
        ∀ s5, replayPends s4 c job c.addr0.toNat 0 c.cnt.toNat = (.ok (), s5) →
          exec (.replay c) s = .next (replayRoots s5 c 0 c.cnt.toNat))) ∧
    ((Instr.gpatch c).illFormed = none → c.cnt.toNat % 8 = 0 → 8 ≤ c.cnt.toNat → c.cnt.toNat ≤ 4096 → c.addr1.toNat % 8 = 0 →
      c.addr2.toNat % 8 = 0 →
      (openFor s 4 job job = false → ends (.gpatch c) s s c 3) ∧
      (openFor s 4 job job = true → replayHolds s job c.addr0.toNat = true →
        exec (.gpatch c) s = .next { s with port := { s.port with current := some c, held := true } }) ∧
      (openFor s 4 job job = true → replayHolds s job c.addr0.toNat = false →
        exec (.gpatch c) s = .next (patchCopy s c 0 (c.cnt.toNat / 8)))) ∧
    (∀ i n,
      (∀ x f s1, readVirtual s 0 job (c.addr1.toNat + 8 * i) 8 .dispatcher false = (.error (x, f), s1) →
        patchCopy s c i (n + 1) = endCommand s1 c 6 f.toNat 0) ∧
      (∀ bs s1, readVirtual s 0 job (c.addr1.toNat + 8 * i) 8 .dispatcher false = (.ok bs, s1) →
        (∀ x f s2, writeVirtual s1 0 job (c.addr2.toNat + 8 * i) bs false = (.error (x, f), s2) →
          patchCopy s c i (n + 1) = endCommand s2 c 6 f.toNat 0) ∧
        (∀ s2, writeVirtual s1 0 job (c.addr2.toNat + 8 * i) bs false = (.ok (), s2) →
          patchCopy s c i (n + 1) = patchCopy s2 c (i + 1) n)) ∧
      patchCopy s c i 0 = endCommand s c 0 0 0) ∧
    (s.port.current = some c → s.port.held = true → replayHolds s job c.addr0.toNat = false → s.port.en = true →
      s.port.stopped = false → cpRoom s = true → s.port.retrain = false → memoryAwake s = true → openFor s 4 job job = false →
        ends .gpatchRelease s s c 3) ∧
    (s.port.current = some c → s.port.held = true → replayHolds s job c.addr0.toNat = false → s.port.en = true →
      s.port.stopped = false → cpRoom s = true → s.port.retrain = false → memoryAwake s = true → openFor s 4 job job = true →
        exec .gpatchRelease s = .next (patchCopy { s with port := { s.port with held := false } } c 0 (c.cnt.toNat / 8)))

/-- The units of a LAUNCH: each index in turn reads its docket and creates its unit where the launch is ACTIVE, the docket is
sound and the counters have room; it skips and counts a malformed one, and a launch that is no more ACTIVE creates none (R17,
R18, R40). A unit created adds one to the counter of each level that it names and stands at the tail of the docket store (R16,
R50). -/
def Sys2Proof.Claims.UnitsAreCreated : Prop :=
  (∀ (c : Cmd) (s s1 : State) (i skipped first fuel : Nat) (d : List Word), storeRoom s = true →
    (levelAt s 1 (bits c.ids 11 0)).state = .active → launchDocket s c i = (.ok d, s1) →
      (launchMalformed s1 d = false → countersFit s1 (docketLevels d) 1 = true →
        launchUnits s c i skipped first (fuel + 1) =
          launchUnits (createUnit s1 d [d.getD 7 0, 0, 0, 0, 0, 0, 0, 0] 0 0) c (i + 1) skipped first fuel) ∧
      (launchMalformed s1 d = true →
        launchUnits s c i skipped first (fuel + 1) =
          launchUnits s1 c (i + 1) (skipped + 1)
            (if skipped = 0 then (if c.am then c.addr0.toNat + 64 * i else c.addr0.toNat) else first) fuel)) ∧
  (∀ (c : Cmd) (s : State) (i skipped first fuel : Nat), (levelAt s 1 (bits c.ids 11 0)).state ≠ .active →
    launchUnits s c i skipped first (fuel + 1) = launchUnits s c (i + 1) skipped first fuel) ∧
  (∀ (s : State) (d p : List Word) (n a kind id : Nat), id < 65536 →
    let t := createUnit s d p n a
    t.dispatcher.store = s.dispatcher.store ++ [s.stamp] ∧
    (levelAt t kind id).count = (levelAt s kind id).count + (if (kind, id) ∈ docketLevels d then 1 else 0) ∧
    (levelAt t kind id).state = (levelAt s kind id).state ∧
    (mapGet t.units s.stamp).map (·.docket) = some d ∧ t.hbm = s.hbm ∧ t.crews = s.crews)

/-- The control node's writes of the command port's registers (R35, R36, R424, Table 02.1). When the ring is checked and what a
write of EN does at once are the model's choice (log 27); so is that CQHEAD starts at 0 behind a ring that is written anew while
a command is held (log 77). -/
def Sys2Proof.Claims.PortRegisterWrites : Prop :=
  ∀ (s : State) (v : Word) (n : Nat),
    exec (.cqtailWrite v) s = .next (portWritten { s with port := { s.port with cqtail := v.truncate 32 } }) ∧
    (s.port.en = false →
      (s.port.held = false → exec (.cqbaseWrite v) s =
        .next (portWritten { s with port := { s.port with cqbase := v &&& 0xFFFFFFFFF00F, cqtail := 0, cqhead := 0 } })) ∧
      (s.port.held = true → exec (.cqbaseWrite v) s =
        .next (portWritten { s with port := { s.port with cqbase := v &&& 0xFFFFFFFFF00F, cqtail := 0, cqhead := 0,
                                                           current := none, held := false } })) ∧
      (s.port.ended = [] → exec (.cpbaseWrite v) s =
        .next (portWritten { s with port := { s.port with cpbase := v &&& 0xFFFFFFFFF00F, cptail := 0, cphead := 0 } }))) ∧
    (s.port.en = true → exec (.cqbaseWrite v) s = .next s ∧ exec (.cpbaseWrite v) s = .next s) ∧
    (s.port.ended = [] → exec (.cpheadWrite v) s = .next { s with port := { s.port with cphead := v.truncate 32 } }) ∧
    (s.pkg.enBlocked = false → s.pkg.inReset = false →
      exec (.enWrite true) s = .next (portWritten { s with port := { s.port with en := true } }) ∧
      exec (.enWrite false) s = .next { s with port := { s.port with en := false, stopped := false } }) ∧
    (s.pkg.enBlocked = true → exec (.enWrite true) s = .next s) ∧
    exec .errClear s = .next { s with port := { s.port with err := false } } ∧
    exec (.registerWrite n v) s = .next s ∧
    (bits v 47 6 ≠ 0 → s.port.attesting = false →
      exec (.attreqWrite v) s =
        .next { s with port := { s.port with attreq := (v &&& 0xFFFFFFFFFFC0) ||| 2, attesting := true } }) ∧
    (bits v 47 6 = 0 → exec (.attreqWrite v) s = .next s)

/-- A completion record that waited is written once the control node moves CPHEAD on: a level-ended record, whose identifier is
then free, or a command's status record, which CQHEAD then passes (R36, R48). -/
def Sys2Proof.Claims.WaitingRecordIsWrittenOnRoom : Prop :=
  ∀ (s : State) (v d0 d1 : Word) (key : Nat), s.port.ended = [(d0, d1, key)] → s.port.retrain = false →
    (s.port.cptail - v.truncate 32).toNat < 2 ^ (bits s.port.cpbase 3 0 + 8) →
      (key = statusKey ∨ recordWaits s key = false) →
      ∃ t, exec (.cpheadWrite v) s = .next t ∧ t.port.ended = [] ∧ t.port.cptail = s.port.cptail + 1 ∧
        t.port.cphead = v.truncate 32 ∧
        (key ≠ statusKey → (mapGetD t.levels key .never).inUse = false ∧ t.port.cqhead = s.port.cqhead) ∧
        (key = statusKey → t.levels = s.levels ∧ t.port.cqhead = s.port.cqhead + 1)

/-- The attestation report (R424): 128 bytes of state and 64 bytes of signature at A + 0x40; BUSY clears and DONE is set. -/
def Sys2Proof.Claims.AttestationReportIsWritten : Prop :=
  ∀ (s : State), s.port.attesting = true → s.port.retrain = false → s.pkg.inReset = false →
    let a := bits s.port.attreq 47 6 * 64
    let body := reportBody s (memRead s.ctl a 32)
    exec .attestationReport s = .next
      { (ctlWrite s (a + 0x40) (body ++ valueBytes 64 (sm2Sign (sm3 body)).toNat)) with
        port := { s.port with attreq := (s.port.attreq &&& 0xFFFFFFFFFFC0) ||| 1, attesting := false } } ∧
    body.length = 128

/-! ### The Dispatcher -/

/-- DISPATCH gives the docket that R51 to R53 choose to a free bench, the lowest that has one to take, and nothing while HOLD
lasts or where the bench is taken; the crew of a fresh unit of one member starts with the state of Table 01.3 and with a number
whose 32 bits no crew in use shows (R22, R51, R60, R415). A crew number that a counter gives (log 10), registers that are not
poisoned at creation (log 21), that a gang goes to its reserved cluster alone (log 77) and the bench that waits while an
access of its core has passed another (log 80) are the model's choices. -/
def Sys2Proof.Claims.DispatchCreatesItsCrew : Prop :=
  (∀ (s : State) (slot : Nat), s.pkg.hold = false → s.pkg.inReset = false → benchFree s slot = true →
    (∀ u bs, choose s slot = some (u, bs) →
      (earlierBench s slot = false → bs.any (fun b => passedOn s (coreOf b)) = false →
        exec (.dispatch slot) s = .next (dispatchUnit s u bs)) ∧
      (bs.any (fun b => passedOn s (coreOf b)) = true → exec (.dispatch slot) s = .next s) ∧
      (earlierBench s slot = true → exec (.dispatch slot) s = .next s)) ∧
    (choose s slot = none → exec (.dispatch slot) s = .next s)) ∧
  (∀ (s : State) (slot : Nat), (s.pkg.hold = true ∨ benchFree s slot = false) → exec (.dispatch slot) s = .next s) ∧
  (∀ (s : State) (u : WorkUnit) (slot : Nat), u.kind = .fresh → Docket.rst u.docket = false → Docket.lsz u.docket = 0 →
    u.left = [] →
      ∃ c, crewAt (dispatchUnit s u [slot]) slot = some c ∧ c.crewId = (freshIds s 1).getD 0 0 ∧
        ((∀ j ∈ usedIds s, j % 2 ^ 32 ≠ s.nextCrew % 2 ^ 32) → c.crewId = s.nextCrew) ∧
        ((usedIds s).length < 2 ^ 32 → ∀ j ∈ usedIds s, j % 2 ^ 32 ≠ c.crewId % 2 ^ 32) ∧ c.uid = u.uid ∧ c.state = .running ∧
        c.s.pc = BitVec.ofNat 64 (bits (u.docket.getD 0 0) 47 0) ∧ c.v.pc = BitVec.ofNat 64 (bits (u.docket.getD 1 0) 47 0) ∧
        c.s.last = none ∧ c.s.loops = [] ∧ c.counter = 0 ∧ c.x[0] = 0 ∧ c.x[1] = 0 ∧
        (∀ i (h : i < 8), c.x[i + 2] = u.params.getD i 0) ∧ c.x[61] = u.docket.getD 2 0 ∧
        (∀ i (h : i < 64), 10 ≤ i → i ≠ 61 → c.x[i] = 0) ∧ c.xPoison = 0 ∧ c.pr[0] = BitVec.allOnes 256 ∧
        (∀ i (h : i < 12), 1 ≤ i → c.pr[i] = 0) ∧ (∀ i (h : i < 16), c.tdef[i] = 0) ∧ c.dataQ = [] ∧ c.brQ = [] ∧ c.freed = [] ∧
        c.fflags = 0 ∧ c.frm = 1 ∧ c.strict = (if Docket.strict u.docket then 1 else 0) ∧ c.log = [] ∧ c.claim = none)

/-- A promotion moves a waiting docket one priority up, to the tail of the store, up to 7 (R52); a gang's reservation falls on
its best cluster, where that is free and the gang is the first to want it (R53). -/
def Sys2Proof.Claims.PromotionAndReservation : Prop :=
  ∀ (s : State) (uid : Nat), s.pkg.hold = false →
    (∀ u, mapGet s.units uid = some u → s.dispatcher.store.contains uid = true →
      (u.prio < 7 → exec (.docketPromotion uid) s = .next
        { s with units := mapSet s.units uid { u with prio := u.prio + 1 }
                 dispatcher := { s.dispatcher with store := s.dispatcher.store.filter (· != uid) ++ [uid] } }) ∧
      (7 ≤ u.prio → exec (.docketPromotion uid) s = .next s)) ∧
    (∀ u cl, (unreserved s).find? (·.uid == uid) = some u → bestCluster s u = some cl → reservation s cl = none →
      (∀ v ∈ unreserved s, v.seq < u.seq → bestCluster s v ≠ some cl) →
        exec (.gangReservation uid) s = .next
          { s with dispatcher := { s.dispatcher with reserved := mapSet s.dispatcher.reserved cl uid } })

/-- What waits goes on, the oldest that may: a creation where it stopped once the docket store has room, a command of the
control node not while Ngugrim retrains, a retirement or a unit that a hardware error struck once its accesses can be made (R49,
R50, R132, R276, R415). -/
def Sys2Proof.Claims.WaitingCreationGoesOn : Prop :=
  ∀ (s : State) (w : Creator) (pre rest : List Creator), s.dispatcher.waiting = pre ++ w :: rest →
    (∀ v ∈ pre, creatorMay s v = false) →
    ((∀ v ∈ w :: rest, creatorMay s v = false) → exec .docketCreationResume s = .next s) ∧
    (storeRoom s = false → (∀ uid, w ≠ .retire uid) → (∀ a b e f, w ≠ .struck a b e f) → creatorMay s w = false) ∧
    (s.port.retrain = true → (∃ a b e f, w = .launch a b e f) ∨ (∃ a, w = .replay a) → creatorMay s w = false) ∧
    let s1 := { s with dispatcher := { s.dispatcher with waiting := pre ++ rest } }
    (storeRoom s = true →
      (∀ next last skipped first c, w = .launch next last skipped first → s.port.retrain = false → s.port.current = some c →
        exec .docketCreationResume s = .next (launchUnits s1 c next skipped first (last - next))) ∧
      (∀ next c, w = .replay next → s.port.retrain = false → s.port.current = some c →
        exec .docketCreationResume s = .next (replayRoots s1 c next (c.cnt.toNat - next))) ∧
      (∀ uid node u, w = .join uid node → mapGet s.units uid = some u →
        exec .docketCreationResume s =
          .next (walkSuccessors (createSuccessor s1 u node) { u with walk := none } (u.walk.getD 0)
            (u.nsucc - u.walk.getD 0))) ∧
      (∀ uid cl seq, w = .enqueue uid (some (cl, seq)) → (mapGet s.units uid).isSome = true →
        exec .docketCreationResume s = .next (deliverStatus (intoStore s1 uid) cl seq 0)) ∧
      (∀ uid, w = .enqueue uid none → (mapGet s.units uid).isSome = true →
        exec .docketCreationResume s = .next (intoStore s1 uid)) ∧
      (∀ k seq c e, w = .spawn k seq → crewAt s k = some c → logEntry c seq = some e →
        exec .docketCreationResume s = .next (spawnDocket s1 k seq e.data))) ∧
    (∀ uid u, w = .retire uid → mapGet s.units uid = some u → exec .docketCreationResume s = .next (retireUnit s1 u)) ∧
    (∀ uid core rerun lost u, w = .struck uid core rerun lost → mapGet s.units uid = some u →
      exec .docketCreationResume s = .next (settleStruck s1 u core rerun lost))

/-- A crew retires once its work is done: its claims and its bench are free (R410 step 1), every other crew stays; with the last
member of a unit that was not cancelled and joins nothing, the unit leaves the counters of its levels (R410 step 3). -/
def Sys2Proof.Claims.CrewRetires : Prop :=
  ∀ (s : State) (slot : Nat) (c : Crew), crewAt s slot = some c → slot < 1024 → s.balked = false →
    (mayRetire s slot c = false → exec (.crewRetire slot) s = .next s) ∧
    (mayRetire s slot c = true → mapGet s.units c.uid = none →
      exec (.crewRetire slot) s = .next (releaseCore { s with crews := mapErase s.crews slot } slot c.crewId)) ∧
    (∀ u, mayRetire s slot c = true → mapGet s.units c.uid = some u → u.uid = c.uid → u.left = [] → u.members.length = 1 →
      Docket.jn u.docket = false → Docket.join u.docket = 0 →
        ∃ t, exec (.crewRetire slot) s = .next t ∧ crewAt t slot = none ∧ (∀ j, j ≠ slot → crewAt t j = crewAt s j) ∧
          mapGet t.units c.uid = none ∧ t.hbm = s.hbm)

/-! ### How accesses come to be performed -/

namespace Sys2Proof.Claims

/-- An entry of a crew's log whose translation has returned may be performed now: it is not faulted, the order of the log lets
it be (past an ordering that nobody in its scope could see, log 80), the crew's earlier commands too, and its target is this
package's, awake and served (R147, R226, R276, R348). -/
def mayPerform (s : State) (slot : Nat) (c : Crew) (e : LogEntry) (t : Target) : Prop :=
  crewAt s slot = some c ∧ logEntry c e.seq = some e ∧ e.target = some t ∧ e.phase = .going ∧ e.faulted = false ∧
    orderLets s slot c e = true ∧ behindCommands s slot c e = false ∧ t.tier ≠ 1 ∧ targetMay s t (entryBytes e) = true

/-- The crew with the entries marked that the access of e passes. -/
def passing (s : State) (slot : Nat) (c : Crew) (e : LogEntry) : State := putCrew s slot (markPassed c e)

/-- A value, or poison with a free value, is delivered to what waits for an entry, which leaves the log (R117). -/
def given (s : State) (slot : Nat) (c : Crew) (e : LogEntry) (v : Word) (poison : Bool) : State :=
  { (putCrew s slot (deliver s.free c e.seq (if poison then freeWord s.free else v) poison)) with free := s.free + 1 }

/-- An entry's access is made: the writes that its word makes while readers of the other window may still see the old bytes bear
its number (R279). -/
def makes (i : Instr) (s s' : State) (slot : Nat) (c : Crew) (e : LogEntry) : Prop :=
  exec i s = .next (signCrossings (slot, c.crewId, e.seq) s s')

/-- What the fault of an access's translation does: LDS is poisoned, the causes that a handler repairs are held, any other is
late (R148, R386, R389). -/
def refused (s : State) (slot : Nat) (c : Crew) (e : LogEntry) (f : BitVec 8) : State :=
  if e.kind = .loadSpec then given s slot c e 0 true
  else if 0x10 ≤ f.toNat ∧ f.toNat ≤ 0x14 then holdFault s slot e.seq f e.opa
  else lateFault s slot e.seq f e.opa

/-- The bytes of every memory but one local HBM run of n bytes from a cell are as before. -/
def onlyCells (s t : State) (cell n : Nat) : Prop :=
  (∀ x, ¬ (cell ≤ x ∧ x < cell + n) → memGet t.hbm x = memGet s.hbm x) ∧
    (∀ x, memGet t.ctl x = memGet s.ctl x ∧ memGet t.spad x = memGet s.spad x ∧ memGet t.code x = memGet s.code x)

end Sys2Proof.Claims

/-- TRANSLATION_RETURN on an entry in translation, the memory being awake (R415): with a target the entry goes on, with a
fault the entry is held, late, or for LDS poisoned; one walk answers every access of the job that waits for the page (R66,
R75, R76, R148, R389). -/
def Sys2Proof.Claims.TranslationReturnSettlesTheEntry : Prop :=
  ∀ (s : State) (slot seq : Nat) (c : Crew) (e : LogEntry), crewAt s slot = some c → logEntry c seq = some e →
    e.phase = .translating → e.faulted = false → memoryAwake s = true →
      (∀ t, isReeve slot = true → physicalTarget e.opa = .ok t →
        exec (.translationReturn slot seq) s = .next (translated s slot c e t)) ∧
      (∀ f, isReeve slot = true → physicalTarget e.opa = .error f →
        exec (.translationReturn slot seq) s = .next (Claims.refused s slot c e f)) ∧
      (∀ p s1, isReeve slot = false → findPage s (jobOf s c) e.opa = (p, s1) →
        exec (.translationReturn slot seq) s = .next ((sharers s1 (jobOf s1 c) e.opa p).foldl (takePage p) s1) ∧
        (∀ size k q, size = (match p with | .ok f => if f.large then 2 ^ 23 else 65536 | .error _ => 65536) →
          ((k, q) ∈ sharers s1 (jobOf s1 c) e.opa p ↔ ∃ d g, (k, d) ∈ s1.crews ∧ g ∈ d.log ∧ g.seq = q ∧ isReeve k = false ∧
            jobOf s1 d = jobOf s1 c ∧ g.phase = .translating ∧ g.faulted = false ∧
            g.opa.toNat / size = e.opa.toNat / size)) ∧
        (∀ u k d g, crewAt u k = some d → logEntry d g.seq = some g →
          (∀ f, p = .error f → takePage p u (k, g.seq) = Claims.refused u k d g f) ∧
          (∀ q t u1, p = .ok q → pageTarget u (some (coreOf k)) (jobOf u d) g.opa.toNat (entryAccess g) q = (.ok t, u1) →
            takePage p u (k, g.seq) = translated u1 k d g t) ∧
          (∀ q f u1, p = .ok q → pageTarget u (some (coreOf k)) (jobOf u d) g.opa.toNat (entryAccess g) q = (.error f, u1) →
            takePage p u (k, g.seq) = Claims.refused u1 k d g f)))

/-- LOAD_DATA_ARRIVE performs a load that may be: it delivers the bytes of its target with the crew's own earlier stores over
them, extended as the form says (R145, R147); a plain load that races is a late RACE (R340), and poisoned bytes deliver a
poisoned free value (Table 10.5). -/
def Sys2Proof.Claims.LoadsDeliverTheirBytes : Prop :=
  ∀ (s : State) (slot : Nat) (c : Crew) (e : LogEntry) (t : Target) (n : Nat) (z : Bool), mayPerform s slot c e t →
    e.kind = .load n z →
      let races := racesAt s (jobOf s c) c.crewId t n
      let d := markPassed c e
      let s0 := Claims.passing s slot c e
      let bs := forwarded d e t (targetBytes s t n)
      (e.ord = 0 → isReeve slot = false → races = true →
        makes (.loadDataArrive slot e.seq) s (lateFault s0 slot e.seq 0x20 e.opa) slot c e) ∧
      ((e.ord ≠ 0 ∨ isReeve slot = true ∨ races = false) →
        (targetPoison s t n = none → makes (.loadDataArrive slot e.seq) s
          (given (afterTarget s0 t n) slot d e (extendLoad n z (bytesValue bs)) false) slot c e) ∧
        ((targetPoison s t n).isSome = true → makes (.loadDataArrive slot e.seq) s
          (given (afterTarget s0 t n) slot d e 0 true) slot c e))

/-- The extension of a loaded value (R145): its low 8n bits are the value's, the others zero or the value's top bit. -/
def Sys2Proof.Claims.LoadedValuesAreExtended : Prop :=
  ∀ (n v j : Nat) (z : Bool), 1 ≤ n → n ≤ 8 → v < 2 ^ (8 * n) → j < 64 →
    (extendLoad n z v).getLsbD j = if j < 8 * n then v.testBit j else !z && v.testBit (8 * n - 1)

/-- WRITE_PERFORMED performs a scalar store that may be: the stored bytes take the low bytes of the stored register, every other
byte of every memory is unchanged, and its entry leaves the log (R146, R337); a plain store that races is a late RACE and
stores nothing (R340). -/
def Sys2Proof.Claims.ScalarStoresWriteTheirBytes : Prop :=
  ∀ (s : State) (slot : Nat) (c : Crew) (e : LogEntry) (t : Target) (n : Nat), mayPerform s slot c e t → e.kind = .store n →
    c.vstores = [] → n ∈ [1, 2, 4, 8] → t.addr % n = 0 →
      let races := racesAt s (jobOf s c) c.crewId t n
      let d := markPassed c e
      let f := lateFault (Claims.passing s slot c e) slot e.seq 0x20 e.opa
      (e.ord = 0 → isReeve slot = false → races = true →
        makes (.writePerformed slot e.seq) s f slot c e ∧ f.hbm = s.hbm ∧ f.ctl = s.ctl) ∧
      ((e.ord ≠ 0 ∨ isReeve slot = true ∨ races = false) → ∃ u, exec (.writePerformed slot e.seq) s = .next u ∧
        crewAt u slot = some (performed d e.seq) ∧ (∀ j, j ≠ slot → crewAt u j = crewAt s j) ∧
        (t.tier = 0 → s.crossings = [] →
          memRead u.hbm (cellOf t.addr) n = valueBytes n e.opb.toNat ∧ onlyCells s u (cellOf t.addr) n) ∧
        (t.tier = 2 →
          memRead u.ctl t.addr n = valueBytes n e.opb.toNat ∧
          (∀ x, ¬ (t.addr ≤ x ∧ x < t.addr + n) → memGet u.ctl x = memGet s.ctl x) ∧
          (∀ x, memGet u.hbm x = memGet s.hbm x ∧ memGet u.spad x = memGet s.spad x ∧ memGet u.code x = memGet s.code x)))

/-- WRITE_PERFORMED performs a vector store that the order of its crew allows: every byte of the scratchpads that it does not
name is unchanged, and so is every other memory; one without additions leaves the bytes that it writes, the last one given
for each (R204, R205, R337). -/
def Sys2Proof.Claims.VectorStoresWriteTheirBytes : Prop :=
  ∀ (s : State) (slot seq : Nat) (c : Crew) (v : VStore), crewAt s slot = some c → c.vstores.find? (·.seq == seq) = some v →
    (vstoreAllows c v = false → exec (.writePerformed slot seq) s = .next s) ∧
    (vstoreAllows c v = true → ∃ u, exec (.writePerformed slot seq) s = .next u ∧
      crewAt u slot = some (settle { c with vstores := c.vstores.filter (·.seq != seq) }) ∧
      (∀ j, j ≠ slot → crewAt u j = crewAt s j) ∧
      (∀ x, x ∉ v.keys → memGet u.spad x = memGet s.spad x) ∧ u.hbm = s.hbm ∧ u.ctl = s.ctl ∧ u.code = s.code ∧
      (v.adds = [] → ∀ x b rest before, v.writes = before ++ (x, b) :: rest → (∀ q ∈ rest, q.1 ≠ x) →
        memGet u.spad x = b))

/-- The atomics perform as one indivisible step: the new value of Table 12.6 is written, and the old one is returned by the
forms with a result (R349, R351). -/
def Sys2Proof.Claims.AtomicsAreIndivisible : Prop :=
  ∀ (s : State) (slot : Nat) (c : Crew) (e : LogEntry) (t : Target) (op ty : BitVec 4), mayPerform s slot c e t →
    c.vstores.find? (·.seq == e.seq) = none → targetPoison s t (entryBytes e) = none →
    let w := if ty = 0 then 64 else 32
    let n := w / 8
    let old := bytesValue (targetBytes s t n)
    let d := markPassed c e
    let s1 := afterTarget (Claims.passing s slot c e) t n
    let s2 := match atomicNew op ty old (e.opb.toNat % 2 ^ w) (e.opc.toNat % 2 ^ w) with
      | some v => targetWrite s1 t (valueBytes n v)
      | none => s1
    (e.kind = .atomic op ty false →
      makes (.writePerformed slot e.seq) s (putCrew s2 slot (performed d e.seq)) slot c e) ∧
    (e.kind = .atomic op ty true → makes (.loadDataArrive slot e.seq) s (given s2 slot d e
      (if ty = 4 then (BitVec.ofNat 32 old).signExtend 64 else BitVec.ofNat 64 old) false) slot c e)

/-- The integer operations of Table 12.6 on 64-bit operands. -/
def Sys2Proof.Claims.AtomicOperations : Prop :=
  ∀ (old b c : Word),
    let new (op : BitVec 4) : Option Nat := atomicNew op 0 old.toNat b.toNat c.toNat
    new 0 = some (old + b).toNat ∧ new 1 = some (if old.toInt < b.toInt then old else b).toNat ∧
    new 2 = some (if old.toInt < b.toInt then b else old).toNat ∧ new 3 = some (old &&& b).toNat ∧
    new 4 = some (old ||| b).toNat ∧ new 5 = some (old ^^^ b).toNat ∧ new 6 = some b.toNat ∧
    new 7 = (if old = b then some c.toNat else none)

/-- JOINDEC returns the old value and takes one from the counter; SPAWN reads its docket and gets its status, 0 with the unit
created where the docket is sound and its counters have room; with JN its successors are latched from its node record (R44,
R132, R133). SPAWN's read is plain: a race makes it a late RACE (R328, R340). That a malformed docket is found before its job is
asked for (log 58) and that the record is read at creation (log 76) are the model's choices. -/
def Sys2Proof.Claims.JoindecAndSpawnArePerformed : Prop :=
  ∀ (s : State) (slot : Nat) (c : Crew) (e : LogEntry) (t : Target), mayPerform s slot c e t →
    let d := markPassed c e
    let s0 := Claims.passing s slot c e
    (e.kind = .joindec → targetPoison s t 8 = none →
      let old := bytesValue (targetBytes s t 8)
      makes (.loadDataArrive slot e.seq) s
        (given (targetWrite (afterTarget s0 t 8) t (valueBytes 8 ((old + 2 ^ 64 - 1) % 2 ^ 64))) slot d e (BitVec.ofNat 64 old)
          false) slot c e) ∧
    (e.kind = .joindec → (targetPoison s t 8).isSome = true →
      makes (.loadDataArrive slot e.seq) s (lateFault (afterTarget s0 t 8) slot e.seq 0x40 e.opa) slot c e) ∧
    (e.kind = .spawn → e.data = [] → isReeve slot = false → racesAt s (jobOf s c) c.crewId t 64 = true →
      makes (.loadDataArrive slot e.seq) s (lateFault s0 slot e.seq 0x20 e.opa) slot c e) ∧
    (e.kind = .spawn → e.data = [] → (isReeve slot = true ∨ racesAt s (jobOf s c) c.crewId t 64 = false) →
      targetPoison s t 64 = none →
      let dk := bytesWords 8 (targetBytes s t 64)
      let s1 := afterTarget s0 t 64
      crewAt s1 slot = some d →
        (docketMalformed s1 dk = true → makes (.loadDataArrive slot e.seq) s
          (putCrew s1 slot (deliver s1.free d e.seq 1 false)) slot c e) ∧
        (docketMalformed s1 dk = false → isReeve slot = false → Docket.job dk ≠ jobOf s1 d →
          makes (.loadDataArrive slot e.seq) s (putCrew s1 slot (deliver s1.free d e.seq 2 false)) slot c e) ∧
        (docketMalformed s1 dk = false → (isReeve slot = true ∨ Docket.job dk = jobOf s1 d) →
          (countersFit s1 (docketLevels dk) 1 = false → makes (.loadDataArrive slot e.seq) s
            (putCrew s1 slot (deliver s1.free d e.seq 3 false)) slot c e) ∧
          (countersFit s1 (docketLevels dk) 1 = true → storeRoom s1 = true →
            (Docket.jn dk = false →
              ∃ u, exec (.loadDataArrive slot e.seq) s = .next u ∧ u.dispatcher.store = s1.dispatcher.store ++ [s1.stamp] ∧
                (mapGet u.units s1.stamp).map (·.docket) = some dk ∧ crewAt u slot = some (deliver s1.free d e.seq 0 false)) ∧
            (∀ bs s2, Docket.jn dk = true →
              readVirtual s1 0 (Docket.job dk) (Docket.join dk + 0x48) 16 .dispatcher false = (.ok bs, s2) →
              crewAt s2 slot = some d → makes (.loadDataArrive slot e.seq) s (putCrew
                (createUnit s2 dk [dk.getD 7 0, 0, 0, 0, 0, 0, 0, 0] (bits ((bytesWords 2 bs).getD 0 0) 31 16)
                  (bits ((bytesWords 2 bs).getD 1 0) 47 0)) slot (deliver s2.free d e.seq 0 false)) slot c e))))

/-- SIGNAL_TAKE_EFFECT adds a SEMSIG's amount to its core semaphore, or is a late SEM_OVERFLOW with the count unchanged; a
SEMINIT behind signals sets the count; an MSEMSIG adds to its memory semaphore (R345, R346). -/
def Sys2Proof.Claims.SignalsTakeEffect : Prop :=
  ∀ (s : State) (slot : Nat) (c : Crew) (e : LogEntry), crewAt s slot = some c → logEntry c e.seq = some e →
    e.faulted = false → orderAllows c e = true →
      (∀ n, e.kind = .semsig n →
        let m := semAt s (coreOf slot) n
        (m.count.toNat + e.opb.toNat < 2 ^ 32 → exec (.signalTakeEffect slot e.seq) s =
          .next (modCrew (putSem s (coreOf slot) n { m with count := m.count + BitVec.ofNat 32 e.opb.toNat }) slot
            fun c => performed c e.seq)) ∧
        (2 ^ 32 ≤ m.count.toNat + e.opb.toNat →
          exec (.signalTakeEffect slot e.seq) s = .next (lateFault s slot e.seq 0x21 (BitVec.ofNat 64 n)))) ∧
      (∀ n, e.kind = .seminit n → exec (.signalTakeEffect slot e.seq) s =
        .next (modCrew (putSem s (coreOf slot) n { semAt s (coreOf slot) n with count := e.opb.truncate 32 }) slot
          fun c => performed c e.seq)) ∧
      (∀ t, e.kind = .msemsig → mayPerform s slot c e t → targetPoison s t 8 = none →
        let old := bytesValue (targetBytes s t 8)
        let s1 := afterTarget (Claims.passing s slot c e) t 8
        (old + e.opb.toNat < 2 ^ 64 → makes (.signalTakeEffect slot e.seq) s (putCrew
          (targetWrite s1 t (valueBytes 8 (old + e.opb.toNat))) slot (performed (markPassed c e) e.seq)) slot c e) ∧
        (2 ^ 64 ≤ old + e.opb.toNat →
          makes (.signalTakeEffect slot e.seq) s (lateFault s1 slot e.seq 0x21 e.opa) slot c e))

/-- A signal adds to its core semaphore up to 2^32 - 1; past it the count stays (R343, R345). -/
def Sys2Proof.Claims.CoreSemaphoreAdds : Prop :=
  ∀ (s : State) (core n amount : Nat),
    let count := (semAt s core n).count.toNat
    (count + amount < 2 ^ 32 → ∃ t, semAdd s core n amount = (true, t) ∧ (semAt t core n).count.toNat = count + amount ∧
      t.crews = s.crews ∧ t.hbm = s.hbm) ∧
    (2 ^ 32 ≤ count + amount → ∃ t, semAdd s core n amount = (false, t) ∧ (semAt t core n).count.toNat = count)

/-- MSEMWAIT_REREAD finds the count of a memory semaphore in HBM above zero, takes one in the same step, advances the intervals
and lets the word issue; WAITC_REREAD lets it issue once the counter, in HBM or in control-node memory, is at or below its
bound; else the wait goes on, and so it does while the memory does not serve the read. A race is a late RACE, poison a late
ECC_UE, and a fault of the translation is held or late. A wait displaced from its stream lands its value instead of waking it;
one on lent memory ends by the lender's answer, or asks again (R67, R80, R134, R276, R338, R340, R346, R389, R393). -/
def Sys2Proof.Claims.WaitsEndOnTheirCondition : Prop :=
  ∀ (s : State) (slot : Nat) (c : Crew) (e : LogEntry) (t : Target), crewAt s slot = some c → waitingEntry c = some e →
    e.target = some t →
    let wakes (s2 : State) (v : Word) : State :=
      if displaced c e then
        { (putCrew s2 slot (landDue s2.free (pendX (performed c e.seq) .s (BitVec.ofNat 6 e.rd) v false 0))) with
          free := s2.free + 1 }
      else { (putCrew s2 slot { performed c e.seq with waitValue := some v }) with agenda := .crew slot :: s2.agenda }
    let both (s2 : State) : Prop :=
      (e.kind = .msemwait → exec (.msemwaitReread slot) s = .next s2) ∧
        (e.kind = .waitc → exec (.waitcReread slot) s = .next s2)
    (∀ u s1, t.tier ≠ 1 → memoryAwake s = true → targetFor s slot (jobOf s c) e.opa (entryAccess e) = (.ok u, s1) →
      u.tier ≠ 1 → orderAllows c e = true →
        (targetMay s1 u 8 = false → both (targetWaits s1 u 8)) ∧
        (targetMay s1 u 8 = true →
          let v := bytesWord (targetBytes s1 u 8)
          let s2 := afterTarget s1 u 8
          (e.kind = .waitc → isReeve slot = false → racesAt s1 (jobOf s1 c) c.crewId u 8 = true →
            exec (.waitcReread slot) s = .next (lateFault s1 slot e.seq 0x20 e.opa)) ∧
          ((e.kind = .waitc → isReeve slot = true ∨ racesAt s1 (jobOf s1 c) c.crewId u 8 = false) →
            ((targetPoison s1 u 8).isSome = true → both (lateFault s2 slot e.seq 0x40 e.opa)) ∧
            (targetPoison s1 u 8 = none →
              (e.kind = .msemwait →
                (v ≠ 0 → exec (.msemwaitReread slot) s = .next (wakes (advanceCell
                  (signCrossings (slot, c.crewId, e.seq) s2 (targetWrite s2 u (wordBytes (v - 1)))) u) v)) ∧
                (v = 0 → exec (.msemwaitReread slot) s = .next s2)) ∧
              (e.kind = .waitc →
                (v.toNat ≤ e.opb.toNat → exec (.waitcReread slot) s = .next (wakes s2 v)) ∧
                (e.opb.toNat < v.toNat → exec (.waitcReread slot) s = .next s2)))))) ∧
    (∀ f s1, t.tier ≠ 1 → memoryAwake s = true → targetFor s slot (jobOf s c) e.opa (entryAccess e) = (.error f, s1) →
      both (Claims.refused s1 slot c e f)) ∧
    (∀ v rest, t.tier = 1 → e.data = v :: rest →
      (e.kind = .msemwait →
        (v ≠ 0 → exec (.msemwaitReread slot) s = .next (wakes (advanceCell s t) v)) ∧
        (v = 0 → exec (.msemwaitReread slot) s = .next (putCrew s slot (modLog c e.seq fun e => { e with data := [] })))) ∧
      (e.kind = .waitc →
        (v.toNat ≤ e.opb.toNat → exec (.waitcReread slot) s = .next (wakes s v)) ∧
        (e.opb.toNat < v.toNat →
          exec (.waitcReread slot) s = .next (putCrew s slot (modLog c e.seq fun e => { e with data := [] }))))) ∧
    (t.tier = 1 → e.data = [] → e.tag = none → orderAllows c e = true → both (performLent s slot c e t))

/-- LATE_FAULT_DELIVERY makes the oldest late cause of a running crew its trap at the count that stands, with the pc and the
address of its entry (R386, R394). -/
def Sys2Proof.Claims.LateFaultsAreTaken : Prop :=
  ∀ (s : State) (slot : Nat) (c : Crew) (e : LogEntry), crewAt s slot = some c → slot < 1024 → c.state = .running →
    c.log.find? (fun f => c.late.contains f.seq) = some e →
      ∃ u d, exec (.lateFaultDelivery slot) s = .next u ∧ crewAt u slot = some d ∧ d.state = .trapped ∧
        d.trapcause = (e.code.zeroExtend 64) ∧ d.trappc = (e.pc.extractLsb' 0 48).zeroExtend 64 ∧ d.trapaddr = e.addr ∧
        d.counter = c.counter ∧ d.x = c.x ∧ d.vr = c.vr ∧ d.pr = c.pr ∧ d.log = c.log ∧ d.s = c.s ∧ d.v = c.v ∧ e.seq ∉ d.late

/-- INSTRUCTION_FETCH_RETURN gives the stream its word, or its fault at the count that stands; while the memory does not serve
the fetch it waits, keeping what its walk filled (R84, R276). -/
def Sys2Proof.Claims.FetchesReturn : Prop :=
  ∀ (s : State) (slot : Nat) (str : Stream) (c : Crew), crewAt s slot = some c → fetchNeeded c str = true →
    groupFrozen s slot = false → s.pkg.hold = false →
      (∀ r s1, fetchWord s slot c (c.stream str).pc = (r, s1) → s1.balked = true →
        exec (.instructionFetchReturn slot str) s = .next (keepWalks s s1)) ∧
      (∀ w s1, fetchWord s slot c (c.stream str).pc = (.ok w, s1) → s1.balked = false →
        exec (.instructionFetchReturn slot str) s =
          .next (putCrew s1 slot (c.setStream str { c.stream str with fetched := some w }))) ∧
      (∀ f s1, fetchWord s slot c (c.stream str).pc = (.error f, s1) → s1.balked = false →
        exec (.instructionFetchReturn slot str) s = .next (wordTrap s1 slot str c f (c.stream str).pc))

/-- IDLE_COUNT of a lone crew with nothing due lets one count pass: its writes land, its CSR values and flags take effect, and a
vector store whose count has come is performed (R109, R115, R162, R216). -/
def Sys2Proof.Claims.IdleCountPasses : Prop :=
  ∀ (s : State) (k : Nat) (c : Crew), crewAt s k = some c → membersOf s k = [k] → groupMay s k = true →
    let d := nextCount s.free c
    let t := { (putCrew s k d) with free := s.free + 1 }
    (dueWords s k = [] → d.stepAt = none → orphan d = none →
      ((∀ v ∈ d.vstores, d.counter < v.due) → exec (.idleCount k) s = .next t) ∧
      (∀ v, d.vstores = [v] → v.due ≤ d.counter → vstoreAllows d v = true →
        exec (.idleCount k) s = .next (performStored t k d v))) ∧
    (dueWords s k ≠ [] → exec (.idleCount k) s = .next s) ∧ d.counter = c.counter + 1

/-! ### The engines -/

/-- CB_SLOT_FREE hands on the oldest slot that CBDONE released, once the vector stores issued up to it are performed: an IN
buffer's is free again, an OUT buffer's is filled (R238). -/
def Sys2Proof.Claims.ReleasedSlotsPass : Prop :=
  ∀ (s : State) (slot tile n : Nat) (rest : List Nat) (c : Crew) (b : CircBuf), crewAt s slot = some c →
    mapGet c.circ tile = some b → b.releasing = n :: rest →
      ((c.vstores.any fun v => decide (v.issued ≤ n)) = true → exec (.cbSlotFree slot tile) s = .next s) ∧
      ((c.vstores.any fun v => decide (v.issued ≤ n)) = false →
        exec (.cbSlotFree slot tile) s = .next (putCrew s slot
          { c with circ := mapSet c.circ tile { b with releasing := rest, free := if b.out then b.free else b.free + 1,
                                                       fill := if b.out then b.fill + 1 else b.fill } }))

/-- COPY_CMD_START starts the command at the head of the copy queue, and lets it come to its first access now or later (log 75);
a command in progress works unless it is held, is done, or must follow one before it; COPY_CMD_COMPLETE completes the oldest
command that has done its work, and else lets those in progress work (R223 to R225, R228). -/
def Sys2Proof.Claims.CopyCommandsStartAndComplete : Prop :=
  ∀ (s : State) (core : Nat) (e : EngCmd) (rest : List EngCmd),
    let k := coreAt s core
    (k.copyQ = e :: rest → k.copyRun.length < 4 → cmdFrozen s e = false → cmdBuffers s e = [] → e.wv = false →
      let e' := { e with consumed := true, started := true, cbSlots := e.cbSlots }
      let s1 := spend (putCore s core { k with copyQ := rest, copyRun := k.copyRun ++ [e'] }) 1
      exec (.copyCmdStart core) s = .next (if Config.freeBit s.free then s1 else resumeCopy core s1 e.id)) ∧
    (k.copyQ = e :: rest → 4 ≤ k.copyRun.length → exec (.copyCmdStart core) s = .next s) ∧
    (∀ before : List EngCmd, k.copyRun = before ++ e :: rest → (∀ f ∈ before, f.id ≠ e.id) →
      resumeCopy core s e.id =
        if e.held = true ∨ e.worked = true ∨ before.any (mustFollow s · e) = true then s else workCmd core carterWork s e) ∧
    (k.copyRun = e :: rest →
      (e.worked = true → e.held = false → e.cbSlots = [] → exec (.copyCmdComplete core) s = .next (finishCmd s core e)) ∧
      (e.worked = false ∨ e.held = true →
        exec (.copyCmdComplete core) s = .next ((e :: rest).foldl (fun t f => resumeCopy core t f.id) s)))

/-- What a command's work leaves: finished it is marked worked, waiting it stands where it is, and a fault holds it or stops it
(R228). -/
def Sys2Proof.Claims.CommandWorkEnds : Prop :=
  ∀ (s t : State) (core : Nat) (f : State → EngCmd → Worked) (e d : EngCmd) (code : BitVec 8) (a : Word),
    (f s e = .finished t d → workCmd core f s e = putCmd t core { d with worked := true }) ∧
    (f s e = .wait t d → workCmd core f s e = putCmd t core d) ∧
    (f s e = .fault t d code a → 0x10 ≤ code.toNat → code.toNat ≤ 0x14 → workCmd core f s e = holdCmd (putCmd t core d) core d code a) ∧
    (f s e = .fault t d code a → ¬ (0x10 ≤ code.toNat ∧ code.toNat ≤ 0x14) →
      workCmd core f s e = stopCmd (putCmd t core d) core d code a true)

/-- The end of a crew's command without SV: it has left its queue and its log entry is freed; with SV its signal adds one to SS
(R224, R391). -/
def Sys2Proof.Claims.CommandsComplete : Prop :=
  ∀ (s : State) (core : Nat) (e : EngCmd) (c : Crew), isReeve e.slot = false → crewAt s e.slot = some c → c.crewId = e.crewId →
    (e.sv = false → ∃ d, crewAt (finishCmd s core e) e.slot = some d ∧ (∀ l ∈ d.log, l.seq ≠ e.seq) ∧
      (∀ l ∈ c.log, l.seq ≠ e.seq → l ∈ d.log) ∧ d.x = c.x ∧ d.vr = c.vr ∧ d.pr = c.pr ∧ d.state = c.state) ∧
    (∀ f ∈ coreCmds (coreAt (finishCmd s core e) core), f.id ≠ e.id) ∧
    (finishCmd s core e).hbm = s.hbm ∧ (finishCmd s core e).spad = s.spad ∧
    (e.sv = true → (semAt s core e.ss).count.toNat + 1 < 2 ^ 32 →
      (semAt (finishCmd s core e) core e.ss).count.toNat = (semAt s core e.ss).count.toNat + 1)

/-- The Carter's element moves: a load puts memory's bytes at their place in the region and clears bytes outside the tensor, a
store puts the region's bytes in memory, and TMOV's bytes reach the destination where the two regions are apart (R230, R231). -/
def Sys2Proof.Claims.MovesMoveTheirBytes : Prop :=
  ∀ (s s1 : State) (e : EngCmd) (r : Region) (va : Int) (n pos : Nat) (bs : List Byte),
    (engineRead s e va n = .ok bs s1 → makeMove s e r (.load va n (some pos)) = .ok () (r.write s1 e.slot pos bs)) ∧
    (makeMove s e r (.clear n pos) = .ok () (r.write s e.slot pos (List.replicate n 0))) ∧
    (makeMove s e r (.store va n (some pos)) = engineWrite s e va (r.read s e.slot pos n)) ∧
    (makeMove s e r .skip = .ok () s)

/-- GLEANER_FILL of a GLCFG configures the context and completes it; of a GLGO it fills the next entry of the offset queue, and
completes it with its last one (R241 to R243). That a GLCFG latches its metadata register's definition as it takes effect is the
model's choice (log 81). -/
def Sys2Proof.Claims.GleanerFills : Prop :=
  ∀ (s : State) (slot : Nat) (c : Crew) (e : EngCmd) (rest : List EngCmd), crewAt s slot = some c → c.glCmds = e :: rest →
    cmdFrozen s e = false → behindVectors s e = false → e.wv = false →
      let d := { e with consumed := true, started := true }
      (e.kind = .glcfg → exec (.gleanerFill slot) s =
        .next (finishCmd (modCrew s slot fun c => { c with gleaner := configure c d }) (coreOf slot) d)) ∧
      (e.kind = .glgo →
        let v := (nextOffset s slot c.gleaner).1
        let queue := fillFirst v c.gleaner.queue
        let c' := { c with gleaner := { (nextOffset s slot c.gleaner).2 with queue := queue }, glCmds := d :: rest }
        ((queue.filter Option.isNone).length ≤ laterReserved (d :: rest) →
          exec (.gleanerFill slot) s = .next (finishCmd (putCrew s slot c') (coreOf slot) d)) ∧
        (laterReserved (d :: rest) < (queue.filter Option.isNone).length →
          exec (.gleanerFill slot) s = .next (putCrew s slot c')))

/-- MCLAIM_GRANT starts the crew's MCLAIM once its set is free and no older command of the unit can start: the crew's oldest
waiting set, and no other, is granted; the slots, scale areas and banks that it names have undefined contents, each bank its
own, of kind FP32, and a bank keeps its flags; every other slot and bank keeps what it holds (R10, R247, R249, R251, R261). -/
def Sys2Proof.Claims.ClaimsAreGranted : Prop :=
  ∀ (s : State) (core slot : Nat) (c : Crew) (e : EngCmd), crewAt s slot = some c →
    ((coreAt s core).matQ.find? fun f => f.slot == slot && f.crewId == c.crewId) = some e → e.kind = .mclaim → e.wv = false →
    mayStart s (coreAt s core) e = true → grantable (coreAt s core) c.crewId = true → olderStarts s core e.id = false →
    ∀ before q after, (coreAt s core).claims = before ++ q :: after →
      (∀ p ∈ before, ¬ (p.crewId = c.crewId ∧ p.granted = false)) → q.crewId = c.crewId → q.granted = false →
      ∃ t d, exec (.mclaimGrant core slot) s = .next t ∧
        (coreAt t core).matRun = (coreAt s core).matRun ++ [{ e with consumed := true, started := true }] ∧
        (coreAt t core).claims = before ++ { q with granted := true } :: after ∧
        crewAt t slot = some d ∧
        d.claimGranted = (c.claim.isSome && !(after.any fun p => p.crewId == c.crewId && !p.granted)) ∧ d.claim = c.claim ∧
        t.hbm = s.hbm ∧ t.spad = s.spad ∧
        (∀ n l, n < 32 → l < 128 →
          mapGet (coreAt t core).slotLines (n * 128 + l) =
            (if e.xa.getLsbD n then none else mapGet (coreAt s core).slotLines (n * 128 + l)) ∧
          mapGet (coreAt t core).scaleLines (n * 128 + l) =
            (if e.xa.getLsbD n then none else mapGet (coreAt s core).scaleLines (n * 128 + l)) ∧
          mapGet (coreAt t core).slotEpoch n =
            (if e.xa.getLsbD n then some s.stamp else mapGet (coreAt s core).slotEpoch n)) ∧
        (∀ b < 2, let old := bankAt (coreAt s core) b
          let new := bankAt (coreAt t core) b
          (e.xa.getLsbD (32 + b) = false → new = old) ∧
          (e.xa.getLsbD (32 + b) = true → new.flags = old.flags ∧ new.integer = false ∧
            ∀ i, new.cell i = (Config.freeCell (2 * s.stamp + b) i).toNat))

/-- MATRIX_CMD_START starts the only command that its unit waits for, where the crew's other commands let it and it passes its
checks; an MGO latches its crew's shadow table and pattern first, and one that fails its checks stops with its cause;
MATRIX_CMD_COMPLETE makes a command's effect and completes it (R251 to R253). -/
def Sys2Proof.Claims.MatrixCommandsStartAndComplete : Prop :=
  ∀ (s : State) (core : Nat) (unit : MatrixUnit) (e : EngCmd),
    let k := coreAt s core
    (k.matQ = [e] → e.kind.unit = unit → e.kind ≠ .mclaim → e.kind ≠ .mgo → e.wv = false → mayStart s k e = true →
      startOk k e = true →
        exec (.matrixCmdStart core unit) s =
          .next (putCore s core { k with matQ := [], matRun := k.matRun ++ [{ e with consumed := true, started := true }] })) ∧
    (∀ c, k.matQ = [e] → unit = .array → e.kind = .mgo → e.wv = false → mayStart s k e = true → issuer s e = some c →
      let e' := { e with latch := c.shadow.toList ++ [c.pattern, BitVec.ofNat 64 c.plen] }
      (startOk k e' = true → exec (.matrixCmdStart core unit) s =
        .next (putCore s core { k with matQ := [], matRun := k.matRun ++ [{ e' with consumed := true, started := true }] })) ∧
      (startOk k e' = false → exec (.matrixCmdStart core unit) s = .next (stopCmd s core e' 0x01 0xD true))) ∧
    ((k.matQ.filter fun f => f.kind.unit == unit && f.kind != .mclaim) = [] → exec (.matrixCmdStart core unit) s = .next s) ∧
    (k.matRun.find? (fun f => f.kind.unit == unit) = some e → behindVectors s e = false →
      exec (.matrixCmdComplete core unit) s = .next (finishCmd (matrixEffect s core e) core e))

/-- What the matrix commands do as they complete: MCFG gives the shadow table its row and MCELL the pattern, MREL frees the
oldest of the crew's granted claims, on its core or, for one withdrawn and issued again elsewhere, on the core that holds it;
MLDO loads the rows of its region into a slot or a scale area, MGO runs its nest on each bank that it targets, and MRET puts the
bank's converted cells into its region and its flags into MFLAGS (R257 to R261, R264 to R269). -/
def Sys2Proof.Claims.MatrixCommandEffects : Prop :=
  ∀ (s : State) (core : Nat) (e : EngCmd) (c : Crew), crewAt s e.slot = some c → c.crewId = e.crewId →
    let k := coreAt s core
    let u := matrixEffect s core e
    let held (l : List Claim) : Prop := ∃ p ∈ l, p.crewId = e.crewId ∧ p.granted = true
    (e.kind = .mcfg → u = putCrew s e.slot { c with shadow := c.shadow.setIfInBounds (e.cimm.extractLsb' 0 3).toNat e.xa }) ∧
    (e.kind = .mcell → u = putCrew s e.slot { c with pattern := e.xa, plen := (e.cimm.extractLsb' 0 5).toNat + 1 }) ∧
    (e.kind = .mrel →
      (∀ from_, (from_ = core ∨ (¬ held k.claims ∧ ∀ q ∈ s.cores, held q.2.claims → q.1 = from_)) →
        (∀ before q after, (coreAt s from_).claims = before ++ q :: after →
          (∀ p ∈ before, ¬ (p.crewId = e.crewId ∧ p.granted = true)) → q.crewId = e.crewId → q.granted = true →
            (coreAt u from_).claims = before ++ after ∧ ∀ j, j ≠ from_ → coreAt u j = coreAt s j)) ∧
      (¬ held k.claims → (∀ q ∈ s.cores, ¬ held q.2.claims) → ∀ j, coreAt u j = coreAt s j)) ∧
    (e.kind = .mldo → ∀ l < 128,
      let r := cmdRegion e (e.reads.headD 0)
      let n := (e.cimm.extractLsb' 0 5).toNat
      (e.cimm.getLsbD 9 = false → mapGet (coreAt u core).slotLines (n * 128 + l) =
        some (BitVec.ofNat 2048 (bytesValue (r.read s e.slot (l * r.rowBytes) 256)))) ∧
      (e.cimm.getLsbD 9 = true → mapGet (coreAt u core).scaleLines (n * 128 + l) =
        some (BitVec.ofNat 128 (bytesValue (r.read s e.slot (l * r.rowBytes) 16))))) ∧
    (e.kind = .mgo → ∀ n < 2,
      let ctl := latchedControl e
      let steps := (nestSteps e).filter (·.bank == n)
      let old := bankAt k n
      let new := bankAt (coreAt u core) n
      (n ∉ nestBanks (latchedRows e) ctl ∨ steps = [] → new = old) ∧
      (n ∈ nestBanks (latchedRows e) ctl → steps ≠ [] →
        let b := if e.cimm.getLsbD n then { old with fill := some (initValue ctl), cells := [], flags := 0 } else old
        let result (i : Nat) : Nat × FlagSet := cellResult k (nestType ctl) steps (i / 128) (i % 128) (b.cell i)
        new.integer = !(formatOf (nestType ctl)).isSome ∧ new.flags = b.flags ||| orFlags ((List.range 16384).map fun i => (result i).2) ∧
        ∀ i < 16384, new.cell i = (result i).1 % 2 ^ 32)) ∧
    (e.kind = .mret →
      let r := cmdRegion e (e.writes.headD 0)
      let w := typeWidth (retType e.cimm) / 8
      let b := bankAt k (e.cimm.extractLsb' 0 1).toNat
      let cell (i : Nat) : Nat × FlagSet := retireCell (retType e.cimm) (e.cimm.getLsbD 9) (b.cell i)
      let row (m : Nat) : List Byte := (List.range 128).flatMap fun n => valueBytes w (cell (m * 128 + n)).1
      u.spad = ((List.range 128).foldl (fun s m => r.write s e.slot (m * r.rowBytes) (row m)) s).spad ∧
      (∀ f : BitVec 5, (b.flags ||| orFlags ((List.range 16384).map fun i => (cell i).2)) = f →
        crewAt u e.slot = some { c with mflags := c.mflags ||| f.zeroExtend 64 }) ∧
      u.hbm = s.hbm ∧ u.cores = s.cores)

/-- A cell of an integer type after the steps of its nest: MA adds the product, AD the distance, and CS keeps the larger sum,
each wrapped to 32 bits (R259). -/
def Sys2Proof.Claims.IntegerCells : Prop :=
  ∀ (k : CoreState) (t m n acc : Nat) (steps : List NestStep), (formatOf t).isSome = false →
    let w := typeWidth t
    let per := 2048 / w
    let x (a : Nat) : Int := intOf w (typeSigned t) (operandAt w (slotLine k (a / per) m) (a % per))
    let y (a : Nat) : Int := intOf w (typeSigned t) (operandAt w (slotLine k (16 + a / per) n) (a % per))
    (cellResult k t [] m n acc).1 = acc ∧
    ∀ q, let v := (cellResult k t steps m n acc).1
      let v' := (cellResult k t (steps ++ [q]) m n acc).1
      (q.op = 0 → v' = wrapInt 32 (v + x q.a * y q.b)) ∧
      (q.op = 1 → v' = wrapInt 32 (v + (x q.a - y q.b).natAbs)) ∧
      (2 ≤ q.op → v' = if intOf 32 true v < x q.a + y q.b then wrapInt 32 (x q.a + y q.b) else v)

/-- The Mills' kernels and the bank queue's commands: WINFENCE and BQLOAD at the head of an idle queue are ready or in progress
at once, a BQLOAD or a BQCMD whose Mills are free is granted them, and BQCMD's kernels start with the registers of Table 11.1
(R285, R287, R290, R291, R292). The moment at which a command is ready, now or with the latest one, is the model's choice (log
61). -/
def Sys2Proof.Claims.BankQueueCommandsStart : Prop :=
  ∀ (s : State) (core : Nat) (e : EngCmd) (rest : List EngCmd),
    let k := coreAt s core
    k.bankQ = e :: rest → k.bankRun = [] → e.held = false → cmdFrozen s e = false →
      (e.readyAt = none → e.wv = false →
        (e.kind = .winfence → exec (.bankQueueCmdStart core) s =
          .next (putCore s core { k with bankQ := rest, bankRun := [{ e with consumed := true, started := true }] })) ∧
        (e.kind = .bqload → exec (.bankQueueCmdStart core) s =
          .next (spend (bump (putCmd s core
            { e with consumed := true, started := true
                     readyAt := some (if Config.freeBit s.free then (latestReady s).getD s.stamp else s.stamp) })) 1))) ∧
      (e.readyAt.isSome = true → s.pkg.hold = false → mayGrant s core e = true →
        exec (.millGrant core) s = .next (grantMills (putCore s core { k with bankQ := rest, bankRun := [e] }) core e)) ∧
      (e.readyAt = none → exec (.millGrant core) s = .next s)

/-- The registers that a kernel starts with (R292, Table 11.1). -/
def Sys2Proof.Claims.KernelsStartWithTheirRegisters : Prop :=
  ∀ (v : MillState) (core i : Nat) (e : EngCmd), i < 512 →
    let t := kernelStart v core e i
    t.pc = recKoff e.latch ∧ t.ended = false ∧ t.chan = 0 ∧ t.holder = some (core, e.id) ∧ t.ownedBanks = recBanks e.latch ∧
      t.mx[0] = 0 ∧ t.mx[1] = e.latch.getD 1 0 ∧ t.mx[2] = e.latch.getD 2 0 ∧ t.mx[3] = e.xb ∧ t.mx[4] = BitVec.ofNat 64 i ∧
      (∀ r (h : r < 16), 5 ≤ r → t.mx[r] = 0) ∧ t.revolution = v.revolution ∧ t.wheelSlot = v.wheelSlot

/-- The bank queue's completions: a BQCMD whose kernels have ended returns its banks and goes on to its status write, a BQLOAD
that has copied its image completes, a WINFENCE behind performed accesses makes every write that happens before it seen through
both windows; a crossing stays only where another crew, which has released nothing since, wrote it (R275, R279, R280, R288 to
R291). -/
def Sys2Proof.Claims.BankQueueCommandsComplete : Prop :=
  ∀ (s : State) (core id : Nat) (e : EngCmd),
    ((coreAt s core).bankRun.find? (·.id == id) = some e → e.kind = .bqcmd → e.held = false →
      ((heldMills s core id).all (·.ended) = false → exec (.bqcmdComplete core id) s = .next s) ∧
      ((heldMills s core id).all (·.ended) = true →
        (e.progress ≠ 0 → exec (.bqcmdComplete core id) s = .next (signalRecord s core e)) ∧
        (e.progress = 0 → recStat e.latch = 0 → exec (.bqcmdComplete core id) s =
          .next (afterStatus (drainRings (returnBanks s core id)) core e)) ∧
        (e.progress = 0 → recStat e.latch ≠ 0 →
          let s1 := drainRings (returnBanks s core id)
          let bs := wordBytes (bankStatus (heldMills s1 core e.id))
          (∀ t, engineWrite s1 e (recStat e.latch) bs = .ok () t →
            exec (.bqcmdComplete core id) s = .next (afterStatus t core e)) ∧
          (∀ t, engineWrite s1 e (recStat e.latch) bs = .wait t → exec (.bqcmdComplete core id) s = .next (putCmd t core e)) ∧
          (∀ t code a, engineWrite s1 e (recStat e.latch) bs = .fault code a t →
            exec (.bqcmdComplete core id) s = .next (bankFault t core e code a))))) ∧
    ((coreAt s core).bankRun.find? (·.kind == .bqload) = some e → e.held = false →
      (∀ t d, workOn loadCode (2 ^ 20) s e = .finished t d → exec (.bqloadComplete core) s = .next (finishCmd t core d)) ∧
      (∀ t d, workOn loadCode (2 ^ 20) s e = .wait t d → exec (.bqloadComplete core) s = .next (putCmd t core d))) ∧
    ((coreAt s core).bankRun.find? (·.kind == .winfence) = some e →
      (fenceWaits s e = true → exec (.winfenceComplete core) s = .next s) ∧
      (fenceWaits s e = false → exec (.winfenceComplete core) s =
        .next (finishCmd { s with crossings := s.crossings.filter fun x => x.unordered s e.crewId } core e))) ∧
    (∀ (x : Crossing) (me : Nat), x.unordered s me = true ↔ ∃ slot who seq d, x.writer = some (slot, who, seq) ∧ who ≠ me ∧
      crewAt s slot = some d ∧ d.crewId = who ∧ d.released < seq)

/-- The status word of a kernel's end (R289, Table 10.8): bits 63 to 32 count the Mills that ended well, the low bits gather the
channel flags. -/
def Sys2Proof.Claims.KernelStatusWord : Prop :=
  ∀ (l : List MillState), l.length ≤ 512 →
    bits (bankStatus l) 63 32 = (l.filter endedWell).length ∧
      (∀ j < 12, (bankStatus l).getLsbD j =
        (l.any (fun v => v.chan.getLsbD j) && (decide (j < 5) || decide (8 ≤ j ∧ j < 12)))) ∧ bits (bankStatus l) 31 12 = 0

/-- The wheel and the Mills' controllers: the watchdog stops a running kernel with WD, a slot and a revolution begin with the
share that MSH holds, a host-reserved slot serves the oldest host access that waits for a MILL-owned bank and, up to sixteen
sectors, those that wait for its row, and patrol scrub writes corrected sectors afresh, leaves the others as they are, and
nothing in self-refresh (R273, R274, R276, R283, R284, R415). -/
def Obligations.WheelWatchdogAndScrub : Prop :=
  ∀ (s : State) (m bank row stack : Nat),
    let v := millAt s m
    (millRuns s m = true → exec (.millWatchdog m) s = .next (putMill s m (endKernel v chanWD))) ∧
    (millRuns s m = false → exec (.millWatchdog m) s = .next s) ∧
    (m < 512 → v.wheelSlot < 15 → ∃ t, exec (.wheelSlot m) s = .next t ∧ (millAt t m).wheelSlot = v.wheelSlot + 1 ∧
      (millAt t m).slotUse = 0 ∧ (millAt t m).slotRow = none ∧ (millAt t m).share = v.share ∧
      (millAt t m).revolution = v.revolution ∧ (millAt t m).mx = v.mx ∧ (millAt t m).pc = v.pc) ∧
    (m < 512 → ∃ t, exec (.wheelRevolution m) s = .next t ∧ (millAt t m).wheelSlot = 0 ∧
      (millAt t m).revolution = v.revolution + 1 ∧ (millAt t m).share = bits s.pkg.msh 4 0 ∧ (millAt t m).mx = v.mx ∧
      (millAt t m).pc = v.pc) ∧
    (oldestRun s m = none → exec (.hostReservedService m bank row) s = .next s) ∧
    (∀ r, oldestRun s m = some r →
      (r ∈ s.host.queue ∧ millOf r.1 = m) ∧
      (v.wheelSlot = 0 → v.revolution % 8 = 0 → v.service = none → memoryAwake s = true → bankOf r.1 = bank → rowOf r.1 = row →
        exec (.hostReservedService m bank row) s =
          .next (drainRings (putMill (serveRuns s (serviceRuns s r)) m { v with service := some bank }))) ∧
      (v.wheelSlot ≠ 0 ∨ v.revolution % 8 ≠ 0 ∨ v.service.isSome = true ∨ bankOf r.1 ≠ bank ∨ rowOf r.1 ≠ row →
        exec (.hostReservedService m bank row) s = .next s) ∧
      r ∈ serviceRuns s r ∧
      (∀ q ∈ serviceRuns s r, q = r ∨
        (q ∈ s.host.queue ∧ millOf q.1 = millOf r.1 ∧ bankOf q.1 = bankOf r.1 ∧ rowOf q.1 = rowOf r.1)) ∧
      (sectorCount r.1 r.2 ≤ 16 → ((serviceRuns s r).map fun q => sectorCount q.1 q.2).sum ≤ 16)) ∧
    (memoryAwake s = false → exec (.patrolScrub stack) s = .next s) ∧
    (memoryAwake s = true → ∃ t, exec (.patrolScrub stack) s = .next t ∧
      (∀ k, k / 0x60000000 = stack → corrects s k = true → mapGet t.eccErr k = none) ∧
      (∀ k, k / 0x60000000 ≠ stack ∨ corrects s k = false → mapGet t.eccErr k = mapGet s.eccErr k) ∧
      t.eccStuck = s.eccStuck ∧ t.pkg = s.pkg ∧
      (∀ k, sectorPoisoned s k = true → sectorPoisoned t k = true))

/-! ### The Porter and the fabric -/

/-- PORTER_CMD_START starts the command at the head of the queue where R363 lets it, and lets it work now or, for a crew's on a
bench, also later (log 75);
PORTER_CMD_COMPLETE works on one that has not sent its last request, and completes one whose requests are all answered (R363,
R372). -/
def Sys2Proof.Claims.PorterCommandsStartAndComplete : Prop :=
  ∀ (s : State) (core id : Nat) (e : EngCmd) (rest : List EngCmd),
    let k := coreAt s core
    (k.portQ = e :: rest → k.portRun.length < 8 → cmdFrozen s e = false → porterMay s k e = true → e.wv = false →
      let d := { e with consumed := true, started := true }
      let s1 := spend (putCore s core { k with portQ := rest, portRun := k.portRun ++ [d] }) 1
      exec (.porterCmdStart core) s =
        .next (if (isReeve e.slot = false ∧ Config.freeBit s.free = true) ∨ porterWaits s1 d = true then s1
          else workCmd core (porterWork core) s1 d)) ∧
    (k.portQ = e :: rest → 8 ≤ k.portRun.length → exec (.porterCmdStart core) s = .next s) ∧
    (k.portRun.find? (·.id == id) = some e → e.held = false →
      (e.worked = false → porterWaits s e = false →
        exec (.porterCmdComplete core id) s = .next (workCmd core (porterWork core) s e)) ∧
      (e.worked = true → e.kind ∈ [EngKind.fld, .fst, .fget, .fput, .ffadd, .fmcast, .fsig] →
        (unanswered s core id = true → exec (.porterCmdComplete core id) s = .next s) ∧
        (unanswered s core id = false → exec (.porterCmdComplete core id) s = .next (finishCmd s core e))))

/-- A response to an unanswered request of an FLD puts its data at their place in the region, one to a store is dropped with its
request; a status other than OK, or no response within a second, stops the command with its cause; a response to an access that
the device or an engine made to lent memory is kept for it, and a response to nothing is discarded (R80, R371, R372). -/
def Sys2Proof.Claims.ResponsesAnswerRequests : Prop :=
  ∀ (s : State) (n tag : Nat) (m : Msg) (o : Outstanding) (e : EngCmd), s.pkg.hold = false →
    (s.fabric.responses[n]? = some m → answered s m = none → exec (.fabricResponse n) s =
      .next { s with fabric := { s.fabric with responses := s.fabric.responses.eraseIdx n } }) ∧
    (s.fabric.responses[n]? = some m → answered s m = some o → o.access = none → o.cmd = some e.id → e.held = false →
      (coreAt s o.core).portRun.find? (·.id == e.id) = some e → e.kind = .fst → m.stat = 0 →
      (dropRequest s o).fabric.outstanding.contains o = false →
        exec (.fabricResponse n) s = .next (takeResponse (dropRequest s o) n)) ∧
    (s.fabric.responses[n]? = some m → answered s m = some o → o.access = none → o.cmd = some e.id → e.held = false →
      (coreAt s o.core).portRun.find? (·.id == e.id) = some e → e.kind = .fld → m.stat = 0 →
      ∀ t, t = dropRequest (regionPut s e (porterRegion e) (some o.place) (m.data.take o.len)) o →
        t.fabric.outstanding.contains o = false → exec (.fabricResponse n) s = .next (takeResponse t n)) ∧
    (s.fabric.responses[n]? = some m → answered s m = some o → o.access = none → o.cmd = some e.id → e.held = false →
      (coreAt s o.core).portRun.find? (·.id == e.id) = some e → m.stat ≠ 0 →
      let t := match m.stat with
        | 1 => remoteStop s o.core e 0x31 o.raddr
        | 2 => remoteStop s o.core e 0x13 o.raddr
        | 3 => remoteStop (poisonedAnswer s e o m) o.core e 0x40 o.raddr
        | _ => remoteStop s o.core e 0x21 o.raddr
      exec (.fabricResponse n) s = .next (if t.fabric.outstanding.contains o then t else takeResponse t n)) ∧
    (s.fabric.responses[n]? = some m → answered s m = some o → o.access = none → o.cmd = none →
      exec (.fabricResponse n) s =
        .next (takeResponse (dropRequest (answerLent s o.tag m.stat m.data m.opnd) o) n)) ∧
    (s.fabric.outstanding.find? (·.tag == tag) = some o → o.access = none → o.cmd = none →
      exec (.fabricTimeout tag) s = .next (dropRequest (answerLent s tag 5 [] 0) o)) ∧
    (s.fabric.outstanding.find? (·.tag == tag) = some o → o.access = none → o.cmd = some e.id →
      (coreAt s o.core).portRun.find? (·.id == e.id) = some e →
        exec (.fabricTimeout tag) s = .next (remoteStop s o.core e 0x30 o.raddr))

/-- The requests of other packages (R368 to R370): one whose job, translation or memory R370 does not allow is answered NACK;
else a read answers with its bytes, a write or a multicast write stores its bytes, an addition and a signal make their one
indivisible step and answer with the old value, a signal at the maximum with OVERFLOW; a request that its memory does not serve
yet waits before its controllers (R276). -/
def Sys2Proof.Claims.RemoteRequestsAreServed : Prop :=
  ∀ (s s1 : State) (n : Nat) (m : Msg) (t : Target), s.fabric.inbox[n]? = some m → m.phy = false → s.pkg.hold = false →
    let size : Nat := if m.opc = 3 then (if m.ty = 0 then 8 else 4) else if m.opc = 4 then 8 else m.len
    let kind : AccessKind := if m.opc = 1 then .load else if m.opc = 2 ∨ m.opc = 5 then .store else .atomic
    let event : Option Instr := match m.opc with
      | 1 => some (.fabricRead n) | 2 => some (.fabricWrite n) | 3 => some (.fabricFadd n) | 4 => some (.fabricSignal n)
      | 5 => some (.fabricMwrite n) | _ => none
    let bs := targetBytes s1 t size
    let taken : State := { s1 with fabric := { s1.fabric with inbox := s1.fabric.inbox.eraseIdx n } }
    ∀ i, event = some i →
      (servedTarget s m kind = (none, s1) → exec i s = .next (respond taken m 1 [] 0)) ∧
      (servedTarget s m kind = (some t, s1) → s1.pkg.hold = false → targetMay s1 t size = false →
        exec i s = .next (targetWaits s1 t size)) ∧
      (servedTarget s m kind = (some t, s1) → s1.pkg.hold = false → targetMay s1 t size = true → t.tier = 0 →
        targetPoison s1 t size = none →
        (m.opc = 1 → exec i s = .next (respond (afterTarget taken t size) m 0 bs 0)) ∧
        (m.opc = 2 ∨ m.opc = 5 → exec i s = .next (respond (targetWrite taken t (m.data.take m.len)) m 0 [] 0)) ∧
        (m.opc = 3 → exec i s = .next (respond (targetWrite (afterTarget taken t size) t
          (valueBytes size (fabricSum m.ty (bytesValue bs) m.opnd.toNat))) m 0 [] (BitVec.ofNat 64 (bytesValue bs)))) ∧
        (m.opc = 4 →
          (bytesWord bs ≠ BitVec.allOnes 64 → exec i s = .next (respond
            (targetWrite (afterTarget taken t 8) t (wordBytes (bytesWord bs + 1))) m 0 [] (bytesWord bs))) ∧
          (bytesWord bs = BitVec.allOnes 64 → exec i s = .next (respond (afterTarget taken t 8) m 4 [] (bytesWord bs)))))

/-- A physical request that reaches a lender's memory port: it is performed under a lease that serves it, accepted and kept
while the memory sleeps or does not serve it, and answered REVOKED without one (R80, R276, R380). An operation for which Table
13.2 has no code makes its one indivisible step by its number in CNT (log 18). -/
def Sys2Proof.Claims.LentMemoryIsServed : Prop :=
  ∀ (s : State) (n : Nat) (m : Msg), s.fabric.inbox[n]? = some m → m.phy = true →
    (∀ f, physicalTarget (BitVec.ofNat 64 m.addr) = .error f →
      exec (.physicalLentAccess n) s = .next (respond (takeRequest s n) m 2 [] 0)) ∧
    (∀ t, physicalTarget (BitVec.ofNat 64 m.addr) = .ok t →
      (m.accepted = false → lentTo s m = false →
        exec (.physicalLentAccess n) s = .next (respond (takeRequest s n) m 2 [] 0)) ∧
      ((m.accepted || lentTo s m) = true →
        (s.pkg.hold = false → targetMay s t (requestBytes m) = true →
          exec (.physicalLentAccess n) s = .next (performRequest (takeRequest s n) m t)) ∧
        (s.pkg.hold = true → exec (.physicalLentAccess n) s =
          .next { s with fabric := { s.fabric with inbox := s.fabric.inbox.set n { m with accepted := true } } }) ∧
        (s.pkg.hold = false → targetMay s t (requestBytes m) = false →
          let w := targetWaits s t (requestBytes m)
          exec (.physicalLentAccess n) s =
            .next { w with fabric := { w.fabric with inbox := w.fabric.inbox.set n { m with accepted := true } } })) ∧
      (m.opc = lentOpc → targetPoison s t m.len = none →
        let old := bytesValue (targetBytes s t m.len)
        let s1 := afterTarget s t m.len
        let puts (v : Nat) : Prop :=
          performRequest s m t = respond (targetWrite s1 t (valueBytes m.len v)) m 0 [] (BitVec.ofNat 64 old)
        let keeps (stat : Nat) : Prop := performRequest s m t = respond s1 m stat [] (BitVec.ofNat 64 old)
        (m.cnt = 9 → (old ≠ 0 → puts (old - 1)) ∧ (old = 0 → keeps 0)) ∧
        (m.cnt = 10 → (old + m.opnd.toNat < 2 ^ 64 → puts (old + m.opnd.toNat)) ∧
          (2 ^ 64 ≤ old + m.opnd.toNat → keeps 4)) ∧
        (m.cnt < 9 → match atomicNew (BitVec.ofNat 4 m.cnt) (BitVec.ofNat 4 m.ty) old (m.opnd.toNat % 2 ^ (8 * m.len))
            (bytesValue (m.data.take m.len)) with
          | some v => puts v
          | none => keeps 0)))

/-- FLIT_RECEIVE: a flit with a wrong CRC or out of sequence asks for a replay, the next one in sequence is acknowledged and
accepted, a second copy is discarded, and a port that is down takes none (R353, R354). SLOT_TICK moves on to the next slot of
the frame, up to its 256 slots, and FRAME_START begins the next frame with slot 0, exchanging the slot-table banks for a
pending switch whose frame has come (R357, R358, R382). -/
def Sys2Proof.Claims.FlitsSlotsAndFrames : Prop :=
  ∀ (s : State) (p : Nat) (f : Flit),
    let l := portAt s p
    let next := (l.acked + 1) % 4096
    (p < 12 → l.retraining = false → l.down = false →
      (flitCrc f ≠ crcOf f → exec (.flitReceive p f) s = .next (putPort s p { l with nakDue := true })) ∧
      (flitCrc f = crcOf f → flitKind f ≠ 0 → flitSeq f = next →
        exec (.flitReceive p f) s = .next (acceptFlit (putPort s p { (takeHeader l f) with acked := next }) p f)) ∧
      (flitCrc f = crcOf f → flitKind f ≠ 0 → flitSeq f ≠ next → (l.acked + 4096 - flitSeq f) % 4096 < 2048 →
        exec (.flitReceive p f) s = .next s) ∧
      (flitCrc f = crcOf f → flitKind f ≠ 0 → flitSeq f ≠ next → 2048 ≤ (l.acked + 4096 - flitSeq f) % 4096 →
        exec (.flitReceive p f) s = .next (putPort s p { l with nakDue := true }))) ∧
    (l.retraining = true ∨ l.down = true ∨ 12 ≤ p → exec (.flitReceive p f) s = .next s) ∧
    (s.fabric.slot < 256 → ∃ t, exec .slotTick s = .next t ∧ t.fabric.slot = s.fabric.slot + 1 ∧
      t.fabric.frame = s.fabric.frame ∧ t.fabric.act = s.fabric.act ∧ t.crews = s.crews ∧ t.hbm = s.hbm) ∧
    (256 ≤ s.fabric.slot → exec .slotTick s = .next s) ∧
    (s.fabric.slot < 256 → exec .frameStart s = .next s) ∧
    (256 ≤ s.fabric.slot → s.fabric.switchAt = none → exec .frameStart s =
      .next { s with fabric := { s.fabric with frame := (s.fabric.frame + 1) % 2 ^ 64, slot := 0 } }) ∧
    (∀ n, 256 ≤ s.fabric.slot → s.fabric.switchAt = some n → s.fabric.pend = true → n ≤ (s.fabric.frame + 1) % 2 ^ 64 →
      switchCmd s = none → exec .frameStart s = .next { s with fabric := { s.fabric with
        frame := (s.fabric.frame + 1) % 2 ^ 64, slot := 0, act := !s.fabric.act, pend := false, switchAt := none } })

/-- An open entry of the combining table is forwarded when its window expires, a lone request as it is, two or more as one
request that carries their sum and their manifest, whose entry then waits for its answer; the table's recovery sends the
requests that it still holds on uncombined, which is the model's choice (R373, R374, log 64). -/
def Sys2Proof.Claims.CombiningWindows : Prop :=
  ∀ (s : State) (n : Nat) (e : Combine) (m : Msg), s.fabric.combining[n]? = some e →
    let f := s.fabric
    (e.waiting = false → exec (.combineWindowExpire n) s = .next s) ∧
    (e.waiting = true → e.msgs = [m] → exec (.combineWindowExpire n) s = .next (injectPlain
      { s with fabric := { f with combining := f.combining.eraseIdx n, nextTag := f.nextTag + 1 } } m)) ∧
    (e.waiting = true → 2 ≤ e.msgs.length →
      let w := if e.ty = 1 then 32 else 64
      let data := e.manifest.flatMap fun q => valueBytes 8 q.1 ++ wordBytes q.2
      let sum := (e.manifest.map fun q => q.2.toNat).sum % 2 ^ w
      let one : Msg :=
        { response := false, input := 12, data := data ++ List.replicate (128 - data.length) 0
          seg := segment
            [headWord e.dst 0 (e.msgs.length - 1) e.ty 2 3 false true,
             BitVec.ofNat 64 (2 ^ 63 + e.job % 16 * 2 ^ 37 + f.nextTag % 4096 * 2 ^ 25 + ownNode s), BitVec.ofNat 64 e.addr,
             BitVec.ofNat 64 (w / 8), BitVec.ofNat 64 sum, 0, 0, 0] }
      exec (.combineWindowExpire n) s = .next (injectPlain
        { s with fabric := { f with combining := f.combining.set n { e with waiting := false, tag := f.nextTag, msgs := [] }
                                    nextTag := f.nextTag + 1 } } one)) ∧
    exec .routerErrorRecovery s = .next (((f.combining.filter (·.waiting)).flatMap (·.msgs)).foldl injectPlain
      { s with fabric := { f with combining := [] } })

/-- Leases on both sides (R378, R379): an answer OK makes a granted lease HELD and any other leaves none; the grant's timeout
leaves none; a release or a revocation closes the lease, a recall starts its demotion, the deadline closes a recalled one;
and each writes its event. -/
def Sys2Proof.Claims.LeasesMove : Prop :=
  ∀ (s : State) (l : Lease) (peer lid reg0 nreg : Nat) (status : BitVec 8) (deadline : Word),
    (lentLease s peer lid = some l →
      (l.state = .granting →
        (status = 0 → exec (.leaseGrantAnswer peer lid status) s =
          .next (leaseAnswered (setLease s l { l with state := .held, cmd := none }) l.cmd 0)) ∧
        (status ≠ 0 → exec (.leaseGrantAnswer peer lid status) s = .next (leaseAnswered (dropLease s l) l.cmd 3))) ∧
      (l.state = .held → leaseBusy s l = false →
        exec (.leaseReleaseMessage peer lid) s = .next (leaseEvent (dropLease s l) 5 l 0)) ∧
      (l.state = .recalling → leaseBusy s l = false →
        exec (.leaseReleaseMessage peer lid) s = .next (leaseAnswered (leaseEvent (dropLease s l) 4 l 0) l.cmd 0)) ∧
      (leaseBusy s l = true → exec (.leaseReleaseMessage peer lid) s = .next s)) ∧
    ((s.fabric.leases.find? fun l => l.lender && l.lid == lid && l.state == .granting) = some l →
      exec (.leaseGrantTimeout lid) s = .next (leaseAnswered (dropLease s l) l.cmd 5)) ∧
    ((s.fabric.leases.find? fun l => l.lender && l.lid == lid && l.state == .recalling) = some l →
      (l.deadline.toNat ≤ s.fabric.frame → leaseBusy s l = false →
        exec (.leaseDeadline lid) s = .next (leaseAnswered (leaseEvent (dropLease s l) 4 l 0) l.cmd 0)) ∧
      (s.fabric.frame < l.deadline.toNat → exec (.leaseDeadline lid) s = .next s)) ∧
    (leaseFull s = false →
      let b : Lease := { lender := false, peer := peer, lid := lid, reg0 := reg0, nreg := nreg, grace := 0, state := .held,
                         deadline := 0, cmd := none }
      exec (.leaseGrantMessage peer lid reg0 nreg) s = .next (leaseEvent (putLeases s (s.fabric.leases ++ [b])) 1 b 0)) ∧
    (leaseFull s = true → exec (.leaseGrantMessage peer lid reg0 nreg) s = .next s) ∧
    (borrowedLease s peer lid = some l →
      (l.state = .held → exec (.leaseRecallMessage peer lid deadline) s =
        .next (leaseEvent (setLease s l { l with state := .demoting, deadline := deadline }) 2 l deadline)) ∧
      (l.cmd.isSome = true → exec (.leaseReleaseAnswer peer lid status) s =
        .next (leaseAnswered (dropLease s l) l.cmd (if status = 0 then 0 else 4))) ∧
      (l.cmd = none → (l.state = .held ∨ l.state = .demoting) →
        exec (.leaseRevokeMessage peer lid) s = .next (leaseEvent (dropLease s l) 3 l 0)))

/-- An event of a lease whose ring has room, in memory that serves it, is one record of 32 bytes at FEVBASE + 32 × (FEVTAIL mod
size); FEVTAIL rises by one, and without FEVSEM nothing else changes; else the record waits (R276, R381, Table 13.10). -/
def Sys2Proof.Claims.EventRecordIsWritten : Prop :=
  ∀ (s : State) (kind : Nat) (l : Lease) (deadline : Word), s.fabric.events = [] → s.fabric.fevsem = 0 →
    let a := bits s.fabric.fevbase 47 12 * 4096 + 32 * (s.fabric.fevtail.toNat % 2 ^ (bits s.fabric.fevbase 3 0 + 6))
    let waits := { s with fabric := { s.fabric with events := [leaseRecord kind l deadline] } }
    ((s.fabric.fevtail - s.fabric.fevhead).toNat < 2 ^ (bits s.fabric.fevbase 3 0 + 6) → hbmReady s a 32 = true →
      leaseEvent s kind l deadline =
        let t := hbmWrite (hostTakes waits a 32) a ((leaseRecord kind l deadline).flatMap wordBytes)
        { t with fabric := { t.fabric with events := [], fevtail := s.fabric.fevtail + 1 } }) ∧
    (2 ^ (bits s.fabric.fevbase 3 0 + 6) ≤ (s.fabric.fevtail - s.fabric.fevhead).toNat → leaseEvent s kind l deadline = waits) ∧
    ((s.fabric.fevtail - s.fabric.fevhead).toNat < 2 ^ (bits s.fabric.fevbase 3 0 + 6) → hbmReady s a 32 = false →
      leaseEvent s kind l deadline = hostWaits waits a 32)

/-! ### The Reeve's completions and the package's condition -/

/-- The oldest TLBI and ICINV of a Reeve complete with status 1 for a job that is not open; an ICINV of an open job drops the
lines and the words of it, a TLBI the entries of it, with status 0; a context word under way completes with the status of
its work (R78, R79, R397, R401). -/
def Sys2Proof.Claims.ReeveWordsComplete : Prop :=
  ∀ (s : State) (cl slot : Nat) (w : Sweep) (rest : List Sweep),
    let r := reeveAt s cl
    (r.tlbi = w :: rest →
      (w.job = none → exec (.tlbiComplete cl) s = .next (deliverStatus (putReeve s cl { r with tlbi := rest }) cl w.seq 1)) ∧
      (∀ job, w.job = some job →
        (sweptAll s w job = false → exec (.tlbiComplete cl) s = .next s) ∧
        (sweptAll s w job = true → exec (.tlbiComplete cl) s = .next (deliverStatus
          (dropEntries (retranslate (putReeve s cl { r with tlbi := rest }) w job) w job) cl w.seq 0)))) ∧
    (r.icinv = w :: rest → storesDone s cl w.seq = true →
      (w.job = none → exec (.icinvComplete cl) s = .next (deliverStatus (putReeve s cl { r with icinv := rest }) cl w.seq 1)) ∧
      (∀ job, w.job = some job → exec (.icinvComplete cl) s =
        .next (deliverStatus (dropLines (putReeve s cl { r with icinv := rest }) w job) cl w.seq 0))) ∧
    (∀ t st s1, (reeveAt s (clusterOf slot)).transfers.find? (·.slot == slot) = some t → finishTransfer s t = .ok (st, s1) →
      let r1 := reeveAt s1 (clusterOf slot)
      exec (.preemptComplete slot) s = .next (deliverStatus
        (putReeve s1 (clusterOf slot) { r1 with transfers := r1.transfers.filter (· != t) }) (clusterOf slot) t.seq st)) ∧
    (∀ c w o, crewAt s (1024 + cl) = some c → groupMay s (1024 + cl) = true → isDue c .s = true → r.trqhead ≠ r.trqtail →
      c.s.fetched = some w → decodeWord w = .ok (.halt o) →
        exec (.haltWake cl) s = exec (.halt o) { s with cur := .crew (1024 + cl) .s })

/-- What a TLBI leaves (R78, R338): no entry of the job in the range in the package's TLB, a core's or the pointer cache, no
guard entry of the job, and every other entry. That the entries are taken away at its completion is the model's choice (log 41). -/
def Sys2Proof.Claims.SweptEntriesAreGone : Prop :=
  ∀ (s : State) (w : Sweep) (job : Nat) (e : TlbEntry),
    let n := if e.large then 2 ^ 23 else 65536
    let hit : Prop := e.job = job ∧ (w.extent = 0 ∨ (e.page * n < w.first + w.extent ∧ w.first < e.page * n + n))
    (e ∈ (dropEntries s w job).tlb ↔ e ∈ s.tlb ∧ ¬ hit) ∧
      (∀ k, e ∈ (coreAt (dropEntries s w job) k).tlb ↔ e ∈ (coreAt s k).tlb ∧ ¬ hit) ∧
      (∀ q, let m := match q.1 / 2 ^ 48 % 4 with | 1 => 2 ^ 39 | 2 => 2 ^ 30 | _ => 2 ^ 23
        let at_ := q.1 % 2 ^ 48 * m
        q ∈ (dropEntries s w job).pointers ↔ q ∈ s.pointers ∧
          ¬ (q.1 / 2 ^ 50 = job ∧ (w.extent = 0 ∨ (at_ < w.first + w.extent ∧ w.first < at_ + m)))) ∧
      (∀ q, q ∈ (dropEntries s w job).guards ↔ q ∈ s.guards ∧ q.1 / 512 ≠ job) ∧
      (dropEntries s w job).hbm = s.hbm ∧ (dropEntries s w job).crews = s.crews

/-- A hardware error ends its crew at once: a Reeve restarts; a unit that may run again and has another core is created anew
from its snapshot, with a RERUN record; any other leaves a LOST record and is lost, one record for its group (log 35); what must
wait for an access is gone on with later; every other crew stays (R276, R383, R402, R403, R415). -/
def Sys2Proof.Claims.HardwareErrorsEndTheirCrew : Prop :=
  ∀ (s : State) (slot : Nat) (code : BitVec 8) (c : Crew), crewAt s slot = some c →
    (1024 ≤ slot → slot < 1032 → exec (.hardwareError slot code) s =
      .next (restartReeve { s with crews := mapErase s.crews slot } (slot - 1024))) ∧
    (slot < 1024 → unitOf s c = none → exec (.hardwareError slot code) s = .next (loseCrew s slot)) ∧
    (∀ u, slot < 1024 → unitOf s c = some u →
      let gone := (groupOf s slot c).foldl loseCrew s
      let record (kind : Nat) : Record := trapRecord kind 0x41 0 false (jobOf s c) (benchRef slot c) c.s.pc (code.zeroExtend 64)
        c.counter 0xFFFF
      let end_ := settleStruck gone u (coreOf slot) (record 4) (record 3)
      (u.cancelled = true → exec (.hardwareError slot code) s = .next (loseUnit gone u)) ∧
      (u.cancelled = false → end_.balked = false → exec (.hardwareError slot code) s = .next end_) ∧
      (u.cancelled = false → end_.balked = true → exec (.hardwareError slot code) s = .next (keepWalks
        { gone with dispatcher := { gone.dispatcher with
            waiting := gone.dispatcher.waiting ++ [.struck u.uid (coreOf slot) (record 4) (record 3)] } } end_))) ∧
    (∀ u core rerun lost,
      (Docket.rst u.docket = false → settleStruck s u core rerun lost = loseUnit (postRecord s (core / 8) lost) u) ∧
      (∀ s1, Docket.rst u.docket = true → runsOfUnit s core u.docket = (none, s1) →
        settleStruck s u core rerun lost = loseUnit (postRecord s1 (core / 8) lost) u) ∧
      (∀ n s1, Docket.rst u.docket = true → runsOfUnit s core u.docket = (some n, s1) → n < 2 →
        anotherCore s1 u.docket core = true →
        (∀ s2, rerunUnit s1 u core n = (true, s2) → settleStruck s u core rerun lost = postRecord s2 (core / 8) rerun) ∧
        (∀ s2, rerunUnit s1 u core n = (false, s2) →
          settleStruck s u core rerun lost = loseUnit (postRecord s2 (core / 8) lost) u)) ∧
      (∀ n s1, Docket.rst u.docket = true → runsOfUnit s core u.docket = (some n, s1) →
        (2 ≤ n ∨ anotherCore s1 u.docket core = false) →
          settleStruck s u core rerun lost = loseUnit (postRecord s1 (core / 8) lost) u)) ∧
    (slot < 1024 → crewAt (loseCrew s slot) slot = none ∧ ∀ j, j ≠ slot → (crewAt s j).isSome = true →
      (crewAt (loseCrew s slot) j).isSome = true)

/-- Droop and HOLD (R415), the retraining of Ngugrim and of the links (R49, R355, R417), shocks, the energy store and wear
(R357, R419, R422): the bits and counters of their registers; a link that goes down loses what was routed through it, and gives
its input entries back. The shock log and its saturation (log 30), the drop at the link's end (log 34) and the end of all
waiting accesses at once (log 37) are the model's choices. -/
def Sys2Proof.Claims.ConditionRegisters : Prop :=
  ∀ (s : State) (cl p : Nat) (len : BitVec 12) (peak days : BitVec 16) (limit : BitVec 3) (hours : BitVec 32),
    let k := s.pkg
    (cl < 8 → k.stretched.getLsbD cl = false → exec (.droopDetect cl) s = .next { s with pkg := { k with
      stretched := k.stretched ||| (1#8 <<< cl),
      droopst := withBits k.droopst 19 0 (min (bits k.droopst 19 0 + 1) (2 ^ 20 - 1)) } }) ∧
    exec (.droopRecover cl) s = .next { s with pkg := { k with stretched := k.stretched &&& ~~~(1#8 <<< cl) } } ∧
    (k.hold = false → exec .holdEntry s = .next { s with pkg := { k with
      hold := true, droopst := withBits k.droopst 39 20 (min (bits k.droopst 39 20 + 1) (2 ^ 20 - 1)) } }) ∧
    (k.hold = true → exec (.holdExit len) s = .next (drainRings { s with pkg := { k with
      hold := false, stretched := 0, droopst := withBits k.droopst 51 40 len.toNat } })) ∧
    (s.port.retrain = false → exec .ngugrimRetrainStart s = .next { s with
      port := { s.port with retrain := true },
      pkg := { k with linkst := withBits (k.linkst ||| 0x1000) 63 48 ((bits (k.linkst ||| 0x1000) 63 48 + 1) % 2 ^ 16) } }) ∧
    (s.port.retrain = true → s.port.ended = [] → exec .ngugrimRetrainEnd s = .next { s with
      port := { s.port with retrain := false }, pkg := { k with linkst := k.linkst &&& ~~~0x1000 } }) ∧
    (s.port.retrain = true → s.crews = [] → s.cores = [] → exec .ngugrimRetrainTimeout s =
      .next { s with port := { s.port with lost := false }
                     lent := s.lent.map fun a => if a.opc = 0 ∧ a.used = false then { a with answer := some (5, [], 0) } else a }) ∧
    (p < 12 → (portAt s p).retraining = false → (portAt s p).down = false → exec (.linkRetrainStart p) s =
      .next { (putPort s p { portAt s p with retraining := true, wire := none }) with
        pkg := { k with linkst := withBits k.linkst 47 32 ((bits k.linkst 47 32 + 1) % 2 ^ 16) ||| (1#64 <<< p) } }) ∧
    ((portAt s p).retraining = true → (portAt s p).replay = [] → exec (.linkRetrainEnd p) s =
      .next { (putPort s p { portAt s p with retraining := false, resend := none }) with
        pkg := { k with linkst := k.linkst &&& ~~~(1#64 <<< p) } }) ∧
    (p < 12 → (portAt s p).retraining = true → ∃ t, exec (.linkDown p) s = .next t ∧ (portAt t p).down = true ∧
      (portAt t p).retraining = false ∧ (portAt t p).replay = [] ∧ t.pkg.linkst.getLsbD (14 + p) = true ∧
      t.crews = s.crews ∧ t.hbm = s.hbm ∧ (portAt t p).replicas = [] ∧
      ∀ q, let old := portAt s q
        let new := portAt t q
        new.inQ = dropBranches p old.inQ ∧ new.inS = dropBranches p old.inS ∧
          new.freedQ = old.freedQ + entriesLeft old.inQ new.inQ ∧ new.freedS = old.freedS + entriesLeft old.inS new.inS) ∧
    (peak.toNat < 40 → exec (.shockEvent peak) s = .next s) ∧
    (40 ≤ peak.toNat → ∃ t, exec (.shockEvent peak) s = .next t ∧ t.pkg.shocks = (peak :: k.shocks).take 64 ∧
      bits t.pkg.shockst 31 16 = min (bits k.shockst 31 16 + 1) 65535 ∧
      (∀ q ∈ t.pkg.shocks, q.toNat ≤ bits t.pkg.shockst 47 32) ∧ bits t.pkg.shockst 15 0 = bits k.shockst 15 0) ∧
    exec .energyStoreDepleted s = .next { s with pkg := { k with shockst := k.shockst ||| 8 } } ∧
    (limit.toNat ≤ 5 → exec (.wearUpdate days limit hours) s = .next { s with pkg := { k with
      weareol := BitVec.ofNat 64 (days.toNat * 2 ^ 48 + limit.toNat * 2 ^ 32 + hours.toNat) } })

/-- NGUGRIM_RETRAIN_TIMEOUT ends a load that waits on control-node memory with a late FABRIC_TIMEOUT (R417). That
all waiting accesses end at once is the model's choice (log 37). -/
def Sys2Proof.Claims.LostNgugrimEndsItsAccesses : Prop :=
  ∀ (s : State) (k : Nat) (c : Crew) (e : LogEntry) (t : Target), s.port.retrain = true → s.crews = [(k, c)] → s.cores = [] →
    c.log = [e] → waitsNgugrim e = true → e.target = some t → e.kind ≠ .loadSpec → e.tag = none →
    crewCancelled s c = false → k < 1032 →
      ∃ u d, exec .ngugrimRetrainTimeout s = .next u ∧ crewAt u k = some d ∧ d.late = c.late ++ [e.seq] ∧
        (∀ f ∈ d.log, f.code = 0x30 ∧ f.faulted = true)

/-- PACKAGE_BOOT: a bad signature leaves the package in reset; a boot that passes its test takes it out of reset with the
self-test's registers and starts the Reeve of every cluster; ORDERLY_STOP leaves no crew, keeps its cause and powers the package
down (R383, R416, R419 to R423). That a boot keeps what it does not set (log 31), that the stop leaves the package as reset does
(log 36) and where a failed signature is seen (log 81) are the model's choices. -/
def Sys2Proof.Claims.BootAndStop : Prop :=
  ∀ (s : State) (b : BootOutcome) (cause : BitVec 8),
    (b.signatureOk = false → exec (.packageBoot b) s = .next
      { packageReset s with pkg := { (packageReset s).pkg with signatureFailed := true } }) ∧
    (b.signatureOk = true → bootAllowed s b = true → ∃ t, exec (.packageBoot b) s = .next t ∧ t.pkg.inReset = false ∧
      t.pkg.coredis = b.coredis ∧ t.pkg.enBlocked = !(b.failStep == 0) ∧ t.pkg.node = b.node.zeroExtend 64 ∧
      t.fabric.frame = b.frame.toNat ∧ t.hbm = s.hbm ∧ t.ctl = s.ctl ∧ t.port.en = false ∧ t.pkg.signatureFailed = false ∧
      t.spadStuck = (if b.failStep = 0 ∧ b.full = true then [] else s.spadStuck) ∧
      (∀ cl < 8, (crewAt t (1024 + cl)).isSome = true) ∧ (∀ k < 1024, crewAt t k = none)) ∧
    (b.signatureOk = true → bootAllowed s b = false → exec (.packageBoot b) s = .next s) ∧
    ((cause = 2 ∨ (cause = 1 ∧ s.pkg.hold = true)) → ∃ t, exec (.orderlyStop cause) s = .next t ∧ t.crews = [] ∧
      t.pkg.powered = false ∧ bits t.pkg.droopst 63 56 = cause.toNat ∧ t.pkg.inReset = true ∧ t.units = []) ∧
    (cause ≠ 1 → cause ≠ 2 → exec (.orderlyStop cause) s = .next s)

/-! ### Mill words -/

namespace Sys2Proof.Claims

/-- A Mill's word runs: it is the Mill's turn. -/
def MillRuns (s : State) (m : Nat) (v : MillState) : Prop := s.cur = .mill m ∧ mapGet s.mills m = some v

/-- The state after a Mill word that goes on to the next word (R297, R312): s' and v' are as its own effect leaves them. -/
def millIssued (s' : State) (m : Nat) (v' : MillState) : State :=
  spend (putMill s' m { v' with pc := (nextWord 4 (millPc v') v'.loops).1.toNat, loops := (nextWord 4 (millPc v') v'.loops).2 }) 32

/-- The state after a Mill word that transfers control. -/
def millJumped (s : State) (m : Nat) (v : MillState) (pc : Word) (loops : List Loop) : State :=
  spend (putMill s m { v with pc := pc.toNat, loops := loops }) 32

/-- The state after a word that ends the kernel with channel flags (R293, R296). -/
def millEnded (s : State) (m : Nat) (v : MillState) (f : BitVec 12) : State := putMill s m (endKernel v f)

/-- Register d of v' holds what a word gives its lanes, and every other lane, register and field is as in v (R298). -/
def lanesWritten (v v' : MillState) (d : BitVec 4) (out : Nat → Option LaneResult) : Prop :=
  v' = { v with mv := v'.mv, mvPoison := v'.mvPoison, laneFlags := v'.laneFlags } ∧
  (∀ r, r ≠ d → v'.mv[r.toNat] = v.mv[r.toNat] ∧ v'.mvPoison[r.toNat] = v.mvPoison[r.toNat]) ∧
  (∀ l < 32, match out l with
    | some x => lane v' d l = x.value % 2 ^ 32 ∧ laneTag v' d l = x.tag ∧ laneFlag v' l = laneFlag v l ||| x.flags
    | none => lane v' d l = lane v d l ∧ laneTag v' d l = laneTag v d l ∧ laneFlag v' l = laneFlag v l)

/-- A Mill word completes with results for its lanes. -/
def givesLanes (i : Instr) (s : State) (m : Nat) (v : MillState) (d : BitVec 4) (out : Nat → Option LaneResult) : Prop :=
  ∃ v', exec i s = .next (millIssued s m v') ∧ lanesWritten v v' d out

/-- A Mill word completes with a value for an mx register. -/
def givesMx (i : Instr) (s : State) (m : Nat) (v : MillState) (d : BitVec 4) (x : Word) (tag : Bool) : Prop :=
  exec i s = .next (millIssued s m (mxPut v d x tag))

/-- The two-source forms on mx registers (Table 11.7), with TY 0 signed or TY 2 unsigned. -/
def millScalarForms (d a b : BitVec 4) (signed : Bool) (x y : Word) : List (Instr × Word) :=
  let t : BitVec 2 := if signed then 0 else 2
  let le : Bool := if signed then decide (x.toInt ≤ y.toInt) else decide (x.toNat ≤ y.toNat)
  let n := y.toNat % 64
  [(.naddScalar d a b t, x + y), (.nsubScalar d a b t, x - y), (.nmulScalar d a b t, x * y),
   (.nmaxScalar d a b t, if le then y else x), (.nminScalar d a b t, if le then x else y), (.nandScalar d a b t, x &&& y),
   (.norScalar d a b t, x ||| y), (.nxorScalar d a b t, x ^^^ y), (.nshlScalar d a b t, x <<< n),
   (.nshrScalar d a b t, if signed then x.sshiftRight n else x >>> n)]

/-- The integer lane forms (Table 11.7), with what they give a lane. -/
def millLaneForms (d a b : BitVec 4) (k : BitVec 2) (c : BitVec 1) (sel : BitVec 5) (signed : Bool) :
    List (Instr × (BitVec 32 → BitVec 32 → BitVec 32)) :=
  let t : BitVec 2 := if signed then 0 else 2
  let le (x y : BitVec 32) : Bool := if signed then decide (x.toInt ≤ y.toInt) else decide (x.toNat ≤ y.toNat)
  [(.nadd d a b k t c sel, fun x y => x + y), (.nsub d a b k t c sel, fun x y => x - y),
   (.nmul d a b k t c sel, fun x y => x * y), (.nmax d a b k t c sel, fun x y => if le x y then y else x),
   (.nmin d a b k t c sel, fun x y => if le x y then x else y), (.nand d a b k t c sel, fun x y => x &&& y),
   (.nor d a b k t c sel, fun x y => x ||| y), (.nxor d a b k t c sel, fun x y => x ^^^ y),
   (.nshl d a b k t c sel, fun x y => x <<< (y.toNat % 32)),
   (.nshr d a b k t c sel, fun x y => if signed then x.sshiftRight (y.toNat % 32) else x >>> (y.toNat % 32))]

/-- The forms of type FP32 (TY 1), with what they give a lane from a, b and mvd: one rounding with RNE, the exact product in a
fused form, and the maximum and minimum of R187 (R300, R304). -/
def millFloatForms (d a b : BitVec 4) (k : BitVec 2) (c : BitVec 1) (sel : BitVec 5) :
    List (Instr × Bool × (Nat → Nat → Nat → Nat × FlagSet)) :=
  let num (x : Nat) := fp32.decode x
  let round (r : Machine.Num × FlagSet) := fp32.finish .rne false r
  [(.nadd d a b k 1 c sel, false, fun x y _ => round (addNum false (num x) (num y))),
   (.nsub d a b k 1 c sel, false, fun x y _ => round (addNum false (num x) (num y).negate)),
   (.nmul d a b k 1 c sel, false, fun x y _ => round (mulNum (num x) (num y))),
   (.nfma d a b k c sel, true, fun x y z => round (fmaNum false (num x) (num y) (num z))),
   (.nmax d a b k 1 c sel, false, fun x y _ => selectNum fp32 (fun p q => numBelow q p) x y),
   (.nmin d a b k 1 c sel, false, fun x y _ => selectNum fp32 numBelow x y),
   (.nand d a b k 1 c sel, false, fun x y _ => (x &&& y, 0)), (.nor d a b k 1 c sel, false, fun x y _ => (x ||| y, 0)),
   (.nxor d a b k 1 c sel, false, fun x y _ => (x ^^^ y, 0))]

/-- The conditions of NCMP on integers by CC (R190, R305). -/
def millCondition (signed : Bool) (x y : BitVec 32) : List (BitVec 3 × Bool) :=
  let lt (x y : BitVec 32) : Bool := if signed then decide (x.toInt < y.toInt) else decide (x.toNat < y.toNat)
  [(0, x == y), (1, x != y), (2, lt x y), (3, !lt y x), (4, lt y x), (5, !lt x y)]

end Sys2Proof.Claims

/-- The forms of the Mill on mx registers (R304, R306, R313, R314): results wrap, a register is poisoned when a source is, and
mx0 is not written. -/
def Obligations.MillScalarWords : Prop :=
  ∀ (s : State) (m : Nat) (v : MillState) (d a b : BitVec 4) (signed : Bool) (i : BitVec 12) (c : BitVec 1), Claims.MillRuns s m v →
    let x := mxGet v a
    let y := mxGet v b
    (∀ p ∈ Claims.millScalarForms d a b signed x y, Claims.givesMx p.1 s m v d p.2 (mxTag v a || mxTag v b)) ∧
    Claims.givesMx (.nliScalar d i) s m v d (i.signExtend 64) false ∧
    Claims.givesMx (.nliShift d i) s m v d ((mxGet v d <<< 12) ||| i.zeroExtend 64) (mxTag v d) ∧
    Claims.givesMx (.naddi d a i) s m v d (x + i.signExtend 64) (mxTag v a) ∧
    (∃ j : Nat, Claims.givesMx (.nskip d a b) s m v d (BitVec.ofNat 64 j) (mxTag v a || mxTag v b) ∧
      (∀ k < j, y.toNat ≤ k → x.getLsbD k = false) ∧
      ((j < 64 ∧ y.toNat ≤ j ∧ x.getLsbD j = true) ∨ j = 64)) ∧
    encodeMill (.nflag d c) = some (0x22#6 ++ d ++ 0#4 ++ 0#4 ++ 0#2 ++ 0#11 ++ c) ∧
    (∃ r : Word, exec (.nflag d c) s =
        .next (Claims.millIssued s m (mxPut (if c = 1 then { v with laneFlags := 0 } else v) d r false)) ∧
      ∀ j < 64, r.getLsbD j = ((decide (j < 5) && (List.range 32).any fun l => (laneFlag v l).getLsbD j) ||
        (j == 8 && v.chan.getLsbD 8)))

/-- The lane forms of the Mill (R298 to R300, R303, R304): each active lane takes its result, its poison from every source it
reads and its flags; no other lane changes. -/
def Obligations.MillLaneWords : Prop :=
  ∀ (s : State) (m : Nat) (v : MillState) (d a b : BitVec 4) (k : BitVec 2) (c : BitVec 1) (sel : BitVec 5) (signed : Bool)
    (i : BitVec 12), Claims.MillRuns s m v → (c = 1 ∨ sel = 0) →
      let other (l : Nat) := if c = 1 then sel.toNat else l
      (∀ p ∈ Claims.millLaneForms d a b k c sel signed, Claims.givesLanes p.1 s m v d fun l =>
        if (mkGet v k).getLsbD l then
          some { value := (p.2 (BitVec.ofNat 32 (lane v a l)) (BitVec.ofNat 32 (lane v b (other l)))).toNat,
                 tag := laneTag v a l || laneTag v b (other l), flags := 0 }
        else none) ∧
      (∀ p ∈ Claims.millFloatForms d a b k c sel, Claims.givesLanes p.1 s m v d fun l =>
        if (mkGet v k).getLsbD l then
          some { value := (p.2.2 (lane v a l) (lane v b (other l)) (lane v d l)).1,
                 tag := laneTag v a l || laneTag v b (other l) || (p.2.1 && laneTag v d l),
                 flags := (p.2.2 (lane v a l) (lane v b (other l)) (lane v d l)).2 }
        else none) ∧
      (Claims.givesLanes (.nliVector d k i) s m v d fun l =>
        if (mkGet v k).getLsbD l then some { value := (i.signExtend 32).toNat, tag := false, flags := 0 } else none) ∧
      (Claims.givesLanes (.nliFromMx d b k) s m v d fun l =>
        if (mkGet v k).getLsbD l then some { value := (mxGet v b).toNat % 2 ^ 32, tag := mxTag v b, flags := 0 } else none)

/-- NCMP, NSEL, NIDX, NIDX.w, NPERM and NCVT (R299, R305 to R307, R317). -/
def Sys2Proof.Claims.MillSelectionWords : Prop :=
  ∀ (s : State) (m : Nat) (v : MillState) (d a b : BitVec 4) (k e : BitVec 2) (c : BitVec 1) (sel : BitVec 5) (signed : Bool)
    (i : BitVec 11) (t0 : BitVec 7) (p : BitVec 3) (y z : BitVec 4), Claims.MillRuns s m v → (c = 1 ∨ sel = 0) →
      let act (l : Nat) := (mkGet v k).getLsbD l
      let other (l : Nat) := if c = 1 then sel.toNat else l
      (∀ cc : BitVec 3, e ≠ 0 → cc.toNat < 6 → ∃ v',
        exec (.ncmp e a b k (if signed then 0 else 2) c sel cc) s = .next (Claims.millIssued s m v') ∧
        v' = { v with mask := v'.mask } ∧ (∀ q, q ≠ e → mkGet v' q = mkGet v q) ∧
        ∀ l < 32, (mkGet v' e).getLsbD l = (if act l then !(laneTag v a l || laneTag v b (other l)) &&
          (Claims.millCondition signed (BitVec.ofNat 32 (lane v a l)) (BitVec.ofNat 32 (lane v b (other l)))).any
            (fun q => q.1 == cc && q.2) else (mkGet v e).getLsbD l)) ∧
      (∀ cc : BitVec 3, e ≠ 0 → cc.toNat < 7 → ∃ v', exec (.ncmp e a b k 1 c sel cc) s = .next (Claims.millIssued s m v') ∧
        v' = { v with mask := v'.mask, laneFlags := v'.laneFlags } ∧ (∀ q, q ≠ e → mkGet v' q = mkGet v q) ∧
        ∀ l < 32,
          let r := compareNum cc.toNat (fp32.decode (lane v a l)) (fp32.decode (lane v b (other l)))
          let clean := !(laneTag v a l || laneTag v b (other l))
          (mkGet v' e).getLsbD l = (if act l then clean && r.1 else (mkGet v e).getLsbD l) ∧
          laneFlag v' l = (if act l then laneFlag v l ||| r.2 else laneFlag v l)) ∧
      (Claims.givesLanes (.nsel d a b k c sel) s m v d fun l =>
        some (if act l then { value := lane v a l, tag := laneTag v a l, flags := 0 }
          else { value := lane v b (other l), tag := laneTag v b (other l), flags := 0 })) ∧
      (Claims.givesLanes (.nidx d a k i) s m v d fun l =>
        if act l then some { value := (BitVec.ofInt 32 ((mxGet v a).toNat + l + i.toInt)).toNat, tag := mxTag v a, flags := 0 }
        else none) ∧
      (e ≠ 0 → ∃ v', exec (.nidxW e k t0) s = .next (Claims.millIssued s m v') ∧ v' = { v with mask := v'.mask } ∧
        (∀ q, q ≠ e → mkGet v' q = mkGet v q) ∧
        ∀ l < 32, (mkGet v' e).getLsbD l = (if act l then decide (t0.toNat + l < v.vc.toNat) &&
          decide (v.wf.toNat ≤ (v.pb.toNat + t0.toNat + l) % 2 ^ 32) else (mkGet v e).getLsbD l)) ∧
      (∃ v', exec (.nperm d a b k) s = .next (Claims.millIssued s m v') ∧
        (Claims.lanesWritten v v' d fun l =>
          if act l then some { value := lane v' d l, flags := 0, tag := laneTag v b l || ((List.range 4).any fun j =>
            decide (millByte v b (4 * l + j) < 128) && laneTag v a (millByte v b (4 * l + j) / 4)) }
          else none) ∧
        ∀ l < 32, ∀ j < 4, act l = true → millByte v' d (4 * l + j) =
          (if millByte v b (4 * l + j) < 128 then millByte v a (millByte v b (4 * l + j)) else 0)) ∧
      (WellFormed.ncvtPair z y p = true → Claims.givesLanes (.ncvt d a k p y z) s m v d fun l =>
        if act l then some { value := (convertLane z.toNat y.toNat p.toNat (lane v a l) (lane v d l)).1,
                             tag := laneTag v a l || (decide (z = 9 ∧ y ≠ 4) && laneTag v d l),
                             flags := (convertLane z.toNat y.toNat p.toNat (lane v a l) (lane v d l)).2 }
        else none)

namespace Sys2Proof.Claims

/-- A nibble of a lane as NDOT reads it: I4 or UI4 (R310). -/
def nibbleInt (u : BitVec 1) (x e : Nat) : Int :=
  let n := x / 16 ^ e % 16
  if u = 0 ∧ 8 ≤ n then (n : Int) - 16 else n

/-- The BF16 elements of an mv register, numbered from byte 0 (R310). -/
def bf16Element (v : MillState) (b : BitVec 4) (e : Nat) : Machine.Num := bf16.decode (lane v b (e / 2) / 65536 ^ (e % 2) % 65536)

/-- mvd lane + the exact sum of products, rounded once to FP32 (R310), with the flags of the products and of their sum. -/
def dotResult (old : Nat) (ps : List (Machine.Num × Machine.Num)) : Nat × FlagSet :=
  let s := sumNum false (ps.map fun q => (mulNum q.1 q.2).1)
  let r := addNum false (fp32.decode old) s.1
  fp32.finish .rne false (r.1, s.2 ||| r.2 ||| orFlags (ps.map fun q => (mulNum q.1 q.2).2))

end Sys2Proof.Claims

/-- NRED, NEXP2, NDOT and NSMX (R308 to R310, R321): integer sums, minima and maxima over the active lanes, the dot products
and the online-softmax step. -/
def Sys2Proof.Claims.MillReductionWords : Prop :=
  ∀ (s : State) (m : Nat) (v : MillState) (d a b : BitVec 4) (k t : BitVec 2) (o : BitVec 3) (u : BitVec 1) (q : BitVec 5),
    Claims.MillRuns s m v →
      let act (l : Nat) := (mkGet v k).getLsbD l
      let anyTag := (List.range 32).any fun l => act l && laneTag v a l
      let ty := if t = 0 then 0x4 else if t = 1 then 0x9 else 0x8
      let inputs := (List.range 32).map fun l => if act l then lane v a l else reduceIdentity o.toNat ty
      let r := reduceTree (fun _ x y => reduceOp o.toNat ty .rne false x y) 5 0 inputs
      (t ≠ 3 → (o.toNat < 3 ∨ (o.toNat < 6 ∧ t ≠ 1)) →
        (∃ v', exec (.nred d a k t o) s = .next (Claims.millIssued s m v') ∧
          Claims.lanesWritten v v' d fun l => some { value := r.1, tag := anyTag, flags := if l = 0 then r.2 else 0 }) ∧
        (exec (.nredScalar d a k t o) s = .next (Claims.millIssued s m (raiseLane
          (mxPut v d (if t = 0 then (BitVec.ofNat 32 r.1).signExtend 64 else BitVec.ofNat 64 r.1) anyTag) 0 r.2)))) ∧
      (t = 0 ∨ t = 2 → o = 0 →
        r.1 = ((List.range 32).map fun l => if act l then lane v a l else 0).sum % 2 ^ 32 ∧ r.2 = 0) ∧
      (Claims.givesLanes (.nexp2 d a k) s m v d fun l =>
        if act l then some { value := (exp2Of fp32 .rne false (fp32.decode (lane v a l))).1, tag := laneTag v a l,
                             flags := (exp2Of fp32 .rne false (fp32.decode (lane v a l))).2 }
        else none) ∧
      (q.toNat < 8 → Claims.givesLanes (.ndot d a b k u q) s m v d fun l =>
        let ps := (List.range 8).map fun e => (numOfInt (Claims.nibbleInt u (lane v a l) e), Claims.bf16Element v b (8 * q.toNat + e))
        if act l then some { value := (Claims.dotResult (lane v d l) ps).1,
                             tag := laneTag v a l || laneTag v d l || ((List.range 4).any fun j => laneTag v b (4 * q.toNat + j)),
                             flags := (Claims.dotResult (lane v d l) ps).2 }
        else none) ∧
      (Claims.givesLanes (.ndotBf16 d a b k q) s m v d fun l =>
        let ps := (List.range 2).map fun h => (Claims.bf16Element v a (2 * l + h), Claims.bf16Element v b (2 * q.toNat + h))
        if act l then some { value := (Claims.dotResult (lane v d l) ps).1,
                             tag := laneTag v a l || laneTag v d l || laneTag v b q.toNat,
                             flags := (Claims.dotResult (lane v d l) ps).2 }
        else none) ∧
      (let x := softmaxStep (lane v b 0) (lane v b 1) ((List.range 32).map fun l => if act l then lane v a l else 0xFF800000)
       let tag := laneTag v b 0 || anyTag
       ∃ u v', exec (.nsmx d a b k) s = .next (Claims.millIssued s m v') ∧
        (Claims.lanesWritten v u d fun l => some { value := (x.p.getD l (0, 0)).1, tag := tag, flags := (x.p.getD l (0, 0)).2 }) ∧
        (Claims.lanesWritten u v' b fun l =>
          if l = 0 then some { value := x.m, tag := tag, flags := x.flags }
          else if l = 1 then some { value := x.sum, tag := laneTag v b 1 || tag, flags := 0 }
          else if l = 2 then some { value := x.c, tag := tag, flags := 0 } else none))

namespace Sys2Proof.Claims

/-- An access of n bytes at offset w passes the checks of R301. -/
def millReaches (v : MillState) (w n align : Nat) : Prop :=
  w + n ≤ 0x30000000 ∧ w % align = 0 ∧ v.ownedBanks.getLsbD (w / 0x3000000) = true ∧
    v.ownedBanks.getLsbD ((w + n - 1) / 0x3000000) = true

/-- The Mill may make an access of n bytes at offset w now (R301, R273, R297). -/
def millGrants (v : MillState) (w n align : Nat) : Prop := millReaches v w n align ∧ slotTakes v w = true

/-- The memory words of the Mill with the mx registers they take control values from, the offset they access, its length and
its alignment, and where in it their next access lies (R302, R316, R319, R320, R323). -/
noncomputable def millAccesses (v : MillState) (d a b : BitVec 4) (k : BitVec 2) (n : BitVec 11) (h : BitVec 1) (f : BitVec 12) (r : BitVec 3) :
    List (Instr × List (BitVec 4) × Nat × Nat × Nat × Nat) :=
  let x := (mxGet v a).toNat
  let far (unit : Nat) : Nat := x + n.toNat * unit
  [(.nldVector d a k n, [a], far 128, 128, 128, 0), (.nstVector d a k n, [a], far 128, 128, 128, 0),
   (.nldScalar d a n, [a], far 8, 8, 8, 0), (.nstScalar d a n, [a], far 8, 8, 8, 0),
   (.nldk d a b k h, [a, b], x, 128, 128, 0), (.npb a, [a], x, 16, 64, 0), (.nsems a f, [a], x, 8, 8, 0),
   (.nsemw a, [a], x, 8, 8, 0), (.ntrip d a b r, [a], x, 64 + 128 * (r.toNat + 1), 64, v.trip)]

/-- 4-byte field j of a triple record of n registers from d, with m and s of register b (Table 11.11). -/
def tripleField (v : MillState) (d b : BitVec 4) (n j : Nat) : Nat :=
  let empty : Bool := lane v b 0 == 0xFF800000
  let reg (i : Nat) : BitVec 4 := d + BitVec.ofNat 4 i
  let poisoned := laneTag v b 0 || laneTag v b 1 ||
    (List.range n).any fun i => (List.range 32).any fun l => laneTag v (reg i) l
  if j = 0 then lane v b 0
  else if j = 1 then (if empty then 0 else lane v b 1)
  else if j = 2 then 32 * n
  else if j = 3 then (if empty then 2 else 0) + (if poisoned then 1 else 0)
  else if j < 16 then 0
  else if empty then 0 else lane v (reg ((j - 16) / 32)) ((j - 16) % 32)

/-- No unfenced write of the host lies in the other window, no ECC sector has an error of three or more symbols that reads
wrongly (R282), and the bytes of HBM are in their canonical form. -/
def millSees (s : State) : Prop :=
  (∀ c ∈ s.crossings, c.linear = true) ∧ (∀ k, miscorrected s k = 0) ∧ s.hbm.wf = true

end Sys2Proof.Claims

/-- A memory word of the Mill checks its access before it makes it, and the first failing check decides: a poisoned control
value or a bad offset ends the kernel with ILL, a bank outside the command's set with OWN, then an end past the channel with
ILL and the bank of its last byte with OWN; then it waits for a slot, and nothing else has happened (R296, R297, R299,
R301). -/
def Sys2Proof.Claims.MillAccessChecks : Prop :=
  ∀ (s : State) (m : Nat) (v : MillState) (d a b : BitVec 4) (k : BitVec 2) (n : BitVec 11) (h : BitVec 1) (f : BitVec 12)
    (r : BitVec 3), Claims.MillRuns s m v → f ≠ 0 → d.toNat + r.toNat + 1 ≤ 16 →
      ∀ p ∈ Claims.millAccesses v d a b k n h f r,
        let w := p.2.2.1
        let len := p.2.2.2.1
        let align := p.2.2.2.2.1
        let owned (x : Nat) : Bool := v.ownedBanks.getLsbD (x / 0x3000000)
        (p.2.1.any (mxTag v) = true → exec p.1 s = .next (Claims.millEnded s m v 0x200)) ∧
        (p.2.1.any (mxTag v) = false →
          ((0x30000000 ≤ w ∨ w % align ≠ 0) → exec p.1 s = .next (Claims.millEnded s m v 0x200)) ∧
          (w < 0x30000000 → w % align = 0 →
            (owned w = false → exec p.1 s = .next (Claims.millEnded s m v 0x400)) ∧
            (owned w = true → 0x30000000 < w + len → exec p.1 s = .next (Claims.millEnded s m v 0x200)) ∧
            (owned w = true → w + len ≤ 0x30000000 → owned (w + len - 1) = false →
              exec p.1 s = .next (Claims.millEnded s m v 0x400))) ∧
          (Claims.millReaches v w len align → slotTakes v (w + p.2.2.2.2.2) = false → exec p.1 s = .next (putMill s m v)))

/-- The loads of the Mill (R284, R299, R302, R320): NLD, scalar NLD and NLDK take the bytes of the Mill's own pseudo-channel; a
poisoned sector poisons what is taken from it and sets UE. Memory is unchanged. -/
def Sys2Proof.Claims.MillLoads : Prop :=
  ∀ (s : State) (m : Nat) (v : MillState) (d a b : BitVec 4) (k : BitVec 2) (n : BitVec 11) (h : BitVec 1),
    Claims.MillRuns s m v → m < 512 → Claims.millSees s → mxTag v a = false →
      let act (l : Nat) := (mkGet v k).getLsbD l
      let far (unit : Nat) : Nat := (mxGet v a).toNat + n.toNat * unit
      let cell (w : Nat) := m * 0x30000000 + w
      let lanes (i : Instr) (w : Nat) (f : Nat → Nat → Nat) : Prop :=
        ∃ t v', exec i s = .next (Claims.millIssued t m v') ∧ t.hbm = s.hbm ∧ t.mills = s.mills ∧ t.crews = s.crews ∧
          Claims.lanesWritten
            (noteUE (takeSlot v w) ((List.range 32).any fun l => act l && cellPoisoned s (cell w + 4 * l))) v' d fun l =>
              if act l then some { value := if cellPoisoned s (cell w + 4 * l) then lane v' d l
                                     else f l (bytesValue (memRead s.hbm (cell w + 4 * l) 4)),
                                   tag := cellPoisoned s (cell w + 4 * l), flags := 0 }
              else none
      (Claims.millGrants v (far 128) 128 128 → lanes (.nldVector d a k n) (far 128) fun _ x => x) ∧
      (mxTag v b = false → Claims.millGrants v (mxGet v a).toNat 128 128 → lanes (.nldk d a b k h) (mxGet v a).toNat fun l x =>
        rotateKey ((v.pb.toNat + 32 * h.toNat + l) % 2 ^ 32) (bits (mxGet v b) 31 0) x) ∧
      (Claims.millGrants v (far 8) 8 8 → ∃ t x,
        let bad := cellPoisoned s (cell (far 8))
        exec (.nldScalar d a n) s =
          .next (Claims.millIssued t m (noteUE (mxPut (takeSlot v (far 8)) d x bad) bad)) ∧
        (bad = false → x = bytesWord (memRead s.hbm (cell (far 8)) 8)) ∧ t.hbm = s.hbm ∧ t.mills = s.mills ∧ t.crews = s.crews)

/-- The stores of the Mill (R284, R302): NST writes the active lanes' bytes, scalar NST a doubleword, and no other byte of HBM;
an ECC sector that takes a poisoned lane is poisoned, and without a persistent defect (R283) one that is wholly written loses
its poison. -/
def Sys2Proof.Claims.MillStores : Prop :=
  ∀ (s : State) (m : Nat) (v : MillState) (r a : BitVec 4) (k : BitVec 2) (n : BitVec 11),
    Claims.MillRuns s m v → m < 512 → Claims.millSees s → mxTag v a = false →
      let act (l : Nat) := (mkGet v k).getLsbD l
      let far (unit : Nat) : Nat := (mxGet v a).toNat + n.toNat * unit
      let cell (w : Nat) := m * 0x30000000 + w
      (Claims.millGrants v (far 128) 128 128 → ∃ t,
        exec (.nstVector r a k n) s = .next (Claims.millIssued t m (takeSlot v (far 128))) ∧
        t.mills = s.mills ∧ t.crews = s.crews ∧ t.hbm.wf = true ∧
        (∀ l < 32, act l = true → memRead t.hbm (cell (far 128) + 4 * l) 4 = valueBytes 4 (lane v r l)) ∧
        (∀ x, (∀ l < 32, act l = true → x < cell (far 128) + 4 * l ∨ cell (far 128) + 4 * l + 4 ≤ x) →
          memRead t.hbm x 1 = memRead s.hbm x 1) ∧
        (s.eccStuck = [] → ∀ g < 4, cellPoisoned t (cell (far 128) + 32 * g) =
          (((List.range 8).any fun j => act (8 * g + j) && laneTag v r (8 * g + j)) ||
            (cellPoisoned s (cell (far 128) + 32 * g) && !((List.range 8).all fun j => act (8 * g + j)))))) ∧
      (Claims.millGrants v (far 8) 8 8 → ∃ t,
        exec (.nstScalar r a n) s = .next (Claims.millIssued t m (takeSlot v (far 8))) ∧
        t.mills = s.mills ∧ t.crews = s.crews ∧ t.hbm.wf = true ∧
        memRead t.hbm (cell (far 8)) 8 = wordBytes (mxGet v r) ∧
        (∀ x, x < cell (far 8) ∨ cell (far 8) + 8 ≤ x → memRead t.hbm x 1 = memRead s.hbm x 1) ∧
        (s.eccStuck = [] → cellPoisoned t (cell (far 8)) = (mxTag v r || cellPoisoned s (cell (far 8)))))

/-- NPB and its modes (R319) take a header that is right and end the kernel on one that is not; NTRIP writes its record (Table
11.11), as much of it in a slot as the row and the slot take (R273, R297); NSEMS adds to a count and NSEMW takes one, or waits
while there is none (R316). That NTRIP checks its whole record first and keeps its progress over slots (log 60), and that NPB.wf
of a poisoned register and NPB.set of a count above 64 are ILL (log 81), are the model's choices. -/
def Obligations.MillPagesAndSemaphores : Prop :=
  ∀ (s : State) (m : Nat) (v : MillState) (d a b : BitVec 4) (r : BitVec 3) (f : BitVec 12),
    Claims.MillRuns s m v → m < 512 → Claims.millSees s → mxTag v a = false →
      let w := mxGet v a
      let cell := m * 0x30000000 + w.toNat
      let d0 := bytesWord (memRead s.hbm cell 8)
      let d1 := bytesWord (memRead s.hbm (cell + 8) 8)
      let good := bits d0 63 39 = 0 ∧ bits d0 38 32 ≤ 64 ∧
        bits d1 31 0 = (bits d0 31 0 * 0x9E3779B1 + bits d0 38 32 * 0x85EBCA77 + bits d1 63 32) % 2 ^ 32
      (Claims.millGrants v w.toNat 16 64 → ∃ t, t.hbm = s.hbm ∧ t.mills = s.mills ∧ t.crews = s.crews ∧
        (cellPoisoned s cell = true → exec (.npb a) s = .next (Claims.millEnded t m (takeSlot v w.toNat) 0x300)) ∧
        (cellPoisoned s cell = false → ¬good → exec (.npb a) s = .next (Claims.millEnded t m (takeSlot v w.toNat) 0x200)) ∧
        (cellPoisoned s cell = false → good → exec (.npb a) s = .next (Claims.millIssued t m
          { takeSlot v w.toNat with pb := BitVec.ofNat 32 (bits d0 31 0), vc := BitVec.ofNat 7 (bits d0 38 32) }))) ∧
      exec (.npbWf a) s = .next (Claims.millIssued s m { v with wf := w.truncate 32 }) ∧
      (mxTag v b = true → exec (.npbWf b) s = .next (Claims.millEnded s m v 0x200)) ∧
      (mxTag v b = false → bits (mxGet v b) 6 0 ≤ 64 → exec (.npbSet a b) s =
        .next (Claims.millIssued s m { v with pb := w.truncate 32, vc := (mxGet v b).truncate 7 })) ∧
      ((mxTag v b = true ∨ 64 < bits (mxGet v b) 6 0) → exec (.npbSet a b) s = .next (Claims.millEnded s m v 0x200)) ∧
      (let size := 64 + 128 * (r.toNat + 1)
       let next := w.toNat + v.trip
       let k := min (size - v.trip) (min (1024 - next % 1024) ((8 - v.slotUse) * 128 - next % 128))
       let u := { v with slotRow := some (next / 1024), slotUse := v.slotUse + (next % 128 + k + 127) / 128 }
       d.toNat + r.toNat + 1 ≤ 16 → Claims.millReaches v w.toNat size 64 → v.trip % 64 = 0 → slotTakes v next = true →
        ∃ t, t.mills = s.mills ∧ t.crews = s.crews ∧
          (size ≤ v.trip + k → exec (.ntrip d a b r) s = .next (Claims.millIssued t m { u with trip := 0 })) ∧
          (v.trip + k < size → exec (.ntrip d a b r) s = .next (putMill t m { u with trip := v.trip + k })) ∧
          (∀ j, v.trip ≤ 4 * j → 4 * j < v.trip + k →
            memRead t.hbm (cell + 4 * j) 4 = valueBytes 4 (Claims.tripleField v d b (r.toNat + 1) j)) ∧
          (∀ x, x < cell + v.trip ∨ cell + v.trip + k ≤ x → memRead t.hbm x 1 = memRead s.hbm x 1)) ∧
      (f ≠ 0 → Claims.millGrants v w.toNat 8 8 → ∃ t0, t0.hbm = s.hbm ∧ t0.crews = s.crews ∧ t0.mills = s.mills ∧
        (cellPoisoned s cell = true → exec (.nsems a f) s = .next (Claims.millEnded t0 m (takeSlot v w.toNat) 0x300) ∧
          exec (.nsemw a) s = .next (Claims.millEnded t0 m (takeSlot v w.toNat) 0x300)) ∧
        (cellPoisoned s cell = false → 2 ^ 64 ≤ d0.toNat + f.toNat →
          exec (.nsems a f) s = .next (Claims.millEnded t0 m (takeSlot v w.toNat) 0x200)) ∧
        (cellPoisoned s cell = false → d0 = 0 →
          exec (.nsemw a) s = .next (putMill t0 m { takeSlot v w.toNat with slotUse := 8 }))) ∧
      (f ≠ 0 → Claims.millGrants v w.toNat 8 8 → cellPoisoned s cell = false → d0.toNat + f.toNat < 2 ^ 64 →
        ∃ t, exec (.nsems a f) s = .next (Claims.millIssued t m (takeSlot v w.toNat)) ∧ t.crews = s.crews ∧ t.mills = s.mills ∧
          memRead t.hbm cell 8 = wordBytes (d0 + f.zeroExtend 64) ∧
          ∀ x, x < cell ∨ cell + 8 ≤ x → memRead t.hbm x 1 = memRead s.hbm x 1) ∧
      (Claims.millGrants v w.toNat 8 8 → cellPoisoned s cell = false → d0 ≠ 0 →
        ∃ t, exec (.nsemw a) s = .next (Claims.millIssued t m (takeSlot v w.toNat)) ∧ t.crews = s.crews ∧ t.mills = s.mills ∧
          memRead t.hbm cell 8 = wordBytes (d0 - 1) ∧
          ∀ x, x < cell ∨ cell + 8 ≤ x → memRead t.hbm x 1 = memRead s.hbm x 1)

/-- NBR, NBRC, NLOOP, NEND and the reserved words of the Mill (R295, R299, R311, R312, R315). -/
def Obligations.MillFlowWords : Prop :=
  ∀ (s : State) (m : Nat) (v : MillState) (a : BitVec 4) (k : BitVec 2) (neg : BitVec 1) (o f : BitVec 12) (w : BitVec 32),
    Claims.MillRuns s m v →
      let pc := millPc v
      let target := pc + o.signExtend 64 * 4
      let last := pc + f.zeroExtend 64 * 4
      let taken (i : Instr) : Prop :=
        (target.toNat ≤ 0xFFFC → exec i s = .next (Claims.millJumped s m v target (v.loops.dropWhile fun l => !inBody l target))) ∧
        (0xFFFC < target.toNat → exec i s = .next (Claims.millEnded s m v 0x200))
      taken (.nbr o) ∧
      (mxTag v a = true → exec (.nbrc neg a o) s = .next (Claims.millEnded s m v 0x200)) ∧
      (mxTag v a = false → (mxGet v a ≠ 0 ↔ neg = 0) → taken (.nbrc neg a o)) ∧
      (mxTag v a = false → ¬(mxGet v a ≠ 0 ↔ neg = 0) → exec (.nbrc neg a o) s = .next (Claims.millIssued s m v)) ∧
      ((mkGet v k ≠ 0 ↔ neg = 0) → taken (.nbrcMask neg k o)) ∧
      (¬(mkGet v k ≠ 0 ↔ neg = 0) → exec (.nbrcMask neg k o) s = .next (Claims.millIssued s m v)) ∧
      (f ≠ 0 → mxTag v a = false → v.loops.length < 2 → (∀ l ∈ v.loops, last.toNat ≤ l.last.toNat) → last.toNat ≤ 0xFFFC →
        (∀ x, millWordAt s m last.toNat = some x → x.toNat / 2 ^ 26 ∉ [0x1D, 0x1E, 0x1F, 0x23]) →
          (mxGet v a ≠ 0 → exec (.nloop a f) s = .next (Claims.millJumped s m v (pc + 4)
            ({ start := pc + 4, last := last, remaining := mxGet v a } :: v.loops))) ∧
          (mxGet v a = 0 → (∀ l ∈ v.loops, l.last ≠ last) →
            exec (.nloop a f) s = .next (Claims.millJumped s m v (last + 4) v.loops)) ∧
          (∀ l, mxGet v a = 0 → v.loops = [l] → l.last = last → exec (.nloop a f) s =
            .next (Claims.millJumped s m v (nextWord 4 last v.loops).1 (nextWord 4 last v.loops).2))) ∧
      ((f = 0 ∨ mxTag v a = true ∨ 2 ≤ v.loops.length ∨ (∃ l, v.loops = [l] ∧ l.last.toNat < last.toNat) ∨
        0xFFFC < last.toNat ∨ ∃ x, millWordAt s m last.toNat = some x ∧ x.toNat / 2 ^ 26 ∈ [0x1D, 0x1E, 0x1F, 0x23]) →
          exec (.nloop a f) s = .next (Claims.millEnded s m v 0x200)) ∧
      exec .nend s = .next (Claims.millEnded s m v 0) ∧
      exec (.reservedMillWord w) s = .next (Claims.millEnded s m v 0x200)

/-- A Mill word with a field value outside its range ends the kernel with ILL, and has no other effect (R295, R296, R304). -/
def Sys2Proof.Claims.IllFormedMillWordsEndTheKernel : Prop :=
  ∀ (s : State) (m : Nat) (v : MillState) (i : Instr), Claims.MillRuns s m v → (encodeMill i).isSome = true →
    i.wellFormed = false → exec i s = .next (Claims.millEnded s m v 0x200)

/-- A Mill's word changes no crew, no scratchpad, no control-node memory, no code store and no other Mill, and no byte of HBM
outside the banks of its own pseudo-channel that its command has been granted (R272, R277, R301). -/
def Obligations.MillsKeepToTheirBanks : Prop :=
  ∀ (s t : State) (m : Nat) (v : MillState) (i : Instr), Claims.MillRuns s m v → m < 512 → (encodeMill i).isSome = true →
    exec i s = .next t →
      t.crews = s.crews ∧ t.spad = s.spad ∧ t.ctl = s.ctl ∧ t.code = s.code ∧ (∀ n, n ≠ m → mapGet t.mills n = mapGet s.mills n) ∧
      ∀ x, memRead t.hbm x 1 ≠ memRead s.hbm x 1 →
        millOf x = m ∧ v.ownedBanks.getLsbD (bankOf x) = true

/-! ### Encodings -/

/-- Decoding the word of a well-formed stream instruction gives it back (R86 to R90, R97). CTXS_OUT and CTXL_RESUME have the
words of CTXS_SNAP and CTXL_INTO: xB tells them apart when the word issues (R397, R399). -/
def Obligations.EncodedWordsDecode : Prop :=
  ∀ (i : Instr) (w : Word), encodeWord i = some w → i.wellFormed = true →
    ((∀ o, i ≠ .ctxsOut o) → (∀ o, i ≠ .ctxlResume o) → decodeWord w = .ok i) ∧
    (∀ o, i = .ctxsOut o → decodeWord w = .ok (.ctxsSnap o)) ∧ (∀ o, i = .ctxlResume o → decodeWord w = .ok (.ctxlInto o))

/-- Every word that decodes is the word of the instruction that it decodes to, which is well-formed: no bit of it is dropped
(R97). -/
def Obligations.DecodedWordsEncode : Prop :=
  ∀ (i : Instr) (w : Word), decodeWord w = .ok i → encodeWord i = some w ∧ i.wellFormed = true

/-- The Mill words and their instructions stand for each other, with every operand at every value that its field holds (R294,
R295). -/
def Obligations.MillWordsDecode : Prop :=
  ∀ (i : Instr) (w : BitVec 32), decodeMill w = .ok i ↔ encodeMill i = some w

/-- The command records and the well-formed commands stand for each other (R36, Table 02.2). -/
def Obligations.CommandRecordsDecode : Prop :=
  ∀ (i : Instr) (r : BitVec 512), decodeCommand r = .ok i ↔ (encodeCommand i = some r ∧ i.wellFormed = true)

/-- Some words of the manual and the instructions they stand for. -/
def Obligations.WrittenWordsDecode : Prop :=
  decodeWord 0x00880A3470000000 =
    .ok (.add { gap := 2, rd := 5, ra := 6, la := true, rb := 7, lb := false, rc := 0, lc := false, pred := 0, pn := false,
                ty := 0, mod := 0 }) ∧
  decodeWord 0x005489F5FFFF8604 =
    .ok (.std { gap := 1, rd := 4, ld := true, ra := 61, la := false, off := 0x3FFFF0, ord := 0, pred := 2, pn := false }) ∧
  decodeWord 0x000100FFFFFFFFF8 = .ok (.br { gap := 0, ra := 0, la := false, off := 0xFFFFFFFFF8 }) ∧
  decodeWord 0 = .error .reservedMajor ∧
  decodeMill 0x8C000000 = .ok .nend ∧ decodeMill 0 = .error .reservedField

/-! ### Steps -/

namespace Sys2Proof.Claims

/-- How a turn that began in s0 ends with what its instruction answered: a turn in which an access of the device had to wait is
not taken, but for the walks that it has made and for what its accesses wait for (R276, R415, R417; the turn not taken is the
model's choice, log 1); stuck scratchpad bits hold their values (R420, R451), and the requests to other packages leave (R80). -/
def turnEnds (s0 : State) (r : Host.Outcome State Fault Refusal) : Host.Outcome State Fault Refusal :=
  match r with
  | .next t => .next (sendLents (if t.balked then keepWalks s0 t else settled t))
  | o => o

end Sys2Proof.Claims

/-- A crew's turn is one clk of its group. It runs the instruction that its due word decodes to, fetches the word first where it
has not come, lets the count pass where no word is due, and takes the word that is no instruction as an ILLEGAL_OP (R97, R104,
R109). The clk in which a word issues ends with the next count; one in which it stalls or traps does not (R108, R109). Two words
that are due and complete issue in one clk, the S-stream's first, a CANCEL that stops its own crew last (R110, R135). A turn in
which an access of the device must wait is not taken, but for the walks that it has made (log 1). The last effect of a CANCEL
(log 55) and the fetch in a clk of its own (log 56) are the model's choices. -/
def Obligations.CrewTurnsRunTheDueWord : Prop :=
  ∀ (s : State) (rest : List Turn) (k m : Nat) (str : Stream) (c : Crew), s.agenda = .crew k :: rest →
    let s0 := { s with agenda := rest, balked := false }
    let clk (r : Host.Outcome State Fault Refusal) : Host.Outcome State Fault Refusal :=
      Claims.turnEnds s0 (match r with
        | .next t => .next (if verdict s0 t m str = .done then passCount t k else t)
        | o => o)
    (groupMay s0 k = false → step s = Claims.turnEnds s0 (.next s0)) ∧
    (groupMay s0 k = true → dueWords s0 k = [] → step s = Claims.turnEnds s0 (exec (.idleCount k) s0)) ∧
    (groupMay s0 k = true → dueWords s0 k = [(m, str)] → crewAt s0 m = some c →
      ((c.stream str).fetched = none → step s = Claims.turnEnds s0 (exec (.instructionFetchReturn m str) s0)) ∧
      (∀ w i, (c.stream str).fetched = some w → decodeWord w = .ok i →
        ((∀ o, i ≠ .ctxsSnap o) → (∀ o, i ≠ .ctxlInto o) → step s = clk (exec i { s0 with cur := .crew m str })) ∧
        (∀ o, i = .ctxsSnap o → step s =
          clk (exec (if (readX s0 c 1 o.rb).getLsbD 0 then .ctxsOut o else .ctxsSnap o) { s0 with cur := .crew m str })) ∧
        (∀ o, i = .ctxlInto o → step s =
          clk (exec (if (readX s0 c 1 o.rb).getLsbD 0 then .ctxlResume o else .ctxlInto o) { s0 with cur := .crew m str }))) ∧
      (∀ w e, (c.stream str).fetched = some w → decodeWord w = .error e →
        step s = clk (exec (.reservedMajorWord w) { s0 with cur := .crew m str }))) ∧
    (∀ p q t u, groupMay s0 k = true → dueWords s0 k = [p, q] → runDue s0 p.1 p.2 = .next t → verdict s0 t p.1 p.2 = .done →
      stillDue t q.1 q.2 = true → runDue t q.1 q.2 = .next u → verdict t u q.1 q.2 = .done →
        step s = Claims.turnEnds s0 (.next (passCount u k))) ∧
    (∀ p q t t' u, groupMay s0 k = true → dueWords s0 k = [p, q] → cancels s0 p = true → cancels s0 q = false →
      runDue s0 p.1 p.2 = .next t → verdict s0 t p.1 p.2 = .done → stillDue t q.1 q.2 = false →
      runDue s0 q.1 q.2 = .next t' → verdict s0 t' q.1 q.2 = .done → stillDue t' p.1 p.2 = true →
      runDue t' p.1 p.2 = .next u → verdict t' u p.1 p.2 = .done → step s = Claims.turnEnds s0 (.next (passCount u k)))

/-- A Mill's turn runs the word at its pc (R294, R297); the port's turn starts the command at CQHEAD, or refuses a record that
is none with BADCMD (R36, R37); an event strikes. A cell error changes stored bits of an ECC sector, or makes some read wrongly
from now on (R282, R283); stuck bits of a scratchpad byte keep their values whatever is written (R420, R451). With no turn to
come, nothing happens. -/
def Obligations.OtherTurnsRunTheirInstruction : Prop :=
  ∀ (s : State) (rest : List Turn) (m : Nat) (v : MillState) (w : BitVec 32) (i : Instr),
    let s0 := { s with agenda := rest, balked := false }
    let runs (i : Instr) (t : State) : Prop := step s = Claims.turnEnds s0 (exec i t)
    let waits (k : Nat) : Prop :=
      othersMay { s0 with cur := .none } k = true ∨ displacedWait { s0 with cur := .none } k = true
    (s.agenda = [] → step s = .next s) ∧
    (s.agenda = .mill m :: rest → millRuns s0 m = false → step s = Claims.turnEnds s0 (.next s0)) ∧
    (s.agenda = .mill m :: rest → millRuns s0 m = true → mapGet s.mills m = some v → v.pc ≤ 0xFFFC →
      bytesValue (memRead s.code (m / 64 * 65536 + v.pc) 4) = w.toNat →
        (decodeMill w = .ok i → runs i { s0 with cur := .mill m }) ∧
        (∀ e, decodeMill w = .error e → runs (.reservedMillWord w) { s0 with cur := .mill m })) ∧
    (s.agenda = .mill m :: rest → millRuns s0 m = true → mapGet s.mills m = some v → 0xFFFC < v.pc →
      runs (.reservedMillWord 0) { s0 with cur := .mill m }) ∧
    (s.agenda = .port :: rest → portReady s0 = false → step s = Claims.turnEnds s0 (.next s0)) ∧
    (s.agenda = .port :: rest → portReady s0 = true →
      (decodeCommand (BitVec.ofNat 512 (headRecord s0)) = .ok i → runs i s0) ∧
      (∀ e, decodeCommand (BitVec.ofNat 512 (headRecord s0)) = .error e →
        step s = Claims.turnEnds s0 (.next (refuseRecord s0 (BitVec.ofNat 32 (headRecord s0)))))) ∧
    (s.agenda = .event i :: rest → isEvent i = true → (∀ k, i ≠ .msemwaitReread k) → (∀ k, i ≠ .waitcReread k) →
      runs i { s0 with cur := .none }) ∧
    (∀ k, s.agenda = .event (.msemwaitReread k) :: rest →
      (waits k → runs (.msemwaitReread k) { s0 with cur := .none }) ∧
        (¬ waits k → step s = Claims.turnEnds s0 (.next { s0 with cur := .none }))) ∧
    (∀ k, s.agenda = .event (.waitcReread k) :: rest →
      (waits k → runs (.waitcReread k) { s0 with cur := .none }) ∧
        (¬ waits k → step s = Claims.turnEnds s0 (.next { s0 with cur := .none }))) ∧
    (∀ k e persists, s.agenda = .cellError k e persists :: rest → step s = Claims.turnEnds s0 (.next
      (if persists then { s0 with eccStuck := mapSet s0.eccStuck k (mapGetD s0.eccStuck k 0 ||| e) }
        else { s0 with eccErr := mapSet s0.eccErr k (mapGetD s0.eccErr k 0 ^^^ e) }))) ∧
    (∀ key mask value, s.agenda = .stuckAt key mask value :: rest →
      step s = Claims.turnEnds s0 (.next { s0 with spadStuck := mapSet s0.spadStuck key (mask, value) })) ∧
    (∀ (t : State) key mask value, t.spadStuck = [(key, (mask, value))] →
      memGet (settled t).spad key = (memGet t.spad key &&& ~~~mask) ||| (value &&& mask) ∧
      ∀ x, x ≠ key → memGet (settled t).spad x = memGet t.spad x)

/-- The package right after reset holds no work and waits for its boot (R423); the command port is off with empty rings at
zero (Table 02.1), and the Mills' share is 8 of 16 slots (Table 10.2). Every memory is in its canonical form. -/
def Obligations.ResetValues : Prop :=
  let s := State.reset
  s.pkg.inReset = true ∧ s.crews = [] ∧ s.units = [] ∧ s.levels = [] ∧ s.dispatcher.store = [] ∧
    s.port.cqbase = 0 ∧ s.port.cqtail = 0 ∧ s.port.cqhead = 0 ∧ s.port.cpbase = 0 ∧ s.port.cptail = 0 ∧ s.port.cphead = 0 ∧
    s.port.en = false ∧ s.port.err = false ∧ s.port.held = false ∧ s.port.retrain = false ∧ s.port.attreq = 0 ∧
    s.pkg.msh = 8 ∧ s.pkg.eccce = 0 ∧ s.pkg.eccue = 0 ∧ s.pkg.eccaddr = 0 ∧ s.fabric.fevbase = 0 ∧ s.fabric.leases = [] ∧
    bits s.pkg.weareol 63 48 = 0xFFFF ∧ s.memoriesWf = true ∧ s.hardWired = true

/-- Every step keeps every byte memory in its canonical form (the model's own form, log 3). -/
def Obligations.StepsKeepMemoriesCanonical : Prop :=
  ∀ s t : State, s.memoriesWf = true → step s = .next t → t.memoriesWf = true

/-- x0 reads zero without poison and discards writes, p0 reads all ones, whatever the register files hold (R91, R93); a read
of another settled register is its value. -/
def Sys2Proof.Claims.HardWiredRegisters : Prop :=
  ∀ (s : State) (c : Crew) (i r : Nat) (x : BitVec 6) (str : Stream) (v : Word) (p : Bool) (b : Nat) (m : MillState),
    readX s c i 0 = 0 ∧ tagX s c i 0 = false ∧ pendX c str 0 v p b = c ∧ readP s c i 0 = BitVec.allOnes 256 ∧
    (x ≠ 0 → isFreed c .x x.toNat = false → (∀ q ∈ c.pendX, q.reg ≠ x.toNat) → readX s c i x = c.x[x.toNat]) ∧
    (r ≠ 0 → isFreed c .p r = false → (∀ q ∈ c.pendP, q.reg ≠ r) → readP s c i r = (c.pr[r]?).getD 0) ∧
    mxGet m 0 = 0 ∧ mxTag m 0 = false ∧ mxPut m 0 v p = m ∧ mkPut m 0 (v.truncate 32) = m

/-! ### Every event and every engine or Mill word completes -/

namespace Sys2Proof.Claims

/-- An instruction completes: it answers a next state, of which this holds. -/
def completes (i : Instr) (s : State) (p : State → Prop) : Prop := ∃ t, exec i s = .next t ∧ p t

/-- A crew stands on a bench, and this holds of it. -/
def crewHas (t : State) (slot : Nat) (p : Crew → Prop) : Prop := ∃ d, crewAt t slot = some d ∧ p d

end Sys2Proof.Claims

/-- Each event of the Dispatcher and the engines completes where its rule lets it happen, and has this effect: DISPATCH (R51),
DOCKET_PROMOTION (R52), GANG_RESERVATION (R53), CREW_RETIRE (R410), CB_SLOT_FREE (R238), COPY_CMD_START, COPY_CMD_COMPLETE
(R223, R224), GLEANER_FILL (R241, R243), MCLAIM_GRANT (R249), MATRIX_CMD_START, MATRIX_CMD_COMPLETE (R251),
BANK_QUEUE_CMD_START, MILL_GRANT, BQCMD_COMPLETE, BQLOAD_COMPLETE, WINFENCE_COMPLETE (R280, R285, R287, R288, R290),
PORTER_CMD_START, PORTER_CMD_COMPLETE (R363, R372). That a COPY or PORTER command makes its accesses as it starts or later (log
75) and when a bank-queue command is ready (makeReady, log 61) are the model's choices. -/
def Sys2Proof.Claims.DispatcherAndEngineEventsComplete : Prop :=
  ∀ (s : State) (slot uid tile n core : Nat) (c : Crew) (u : WorkUnit) (b : CircBuf) (e : EngCmd) (rest : List EngCmd)
    (ns : List Nat) (unit : MatrixUnit),
    let k := coreAt s core
    let started (e : EngCmd) : EngCmd := { e with consumed := true, started := true }
    let gone (t : State) : Prop := ∀ f ∈ coreCmds (coreAt t core), f.id ≠ e.id
    (s.pkg.hold = false →
      (s.pkg.inReset = false → benchFree s slot = true → earlierBench s slot = false → passedOn s (coreOf slot) = false → choose s slot = some (u, [slot]) →
        u.kind = .fresh → Docket.rst u.docket = false → Docket.lsz u.docket = 0 → u.left = [] →
          completes (.dispatch slot) s fun t => crewHas t slot fun d => d.uid = u.uid ∧ d.state = .running ∧ d.counter = 0) ∧
      (mapGet s.units uid = some u → s.dispatcher.store.contains uid = true → u.prio < 7 →
        completes (.docketPromotion uid) s fun t =>
          (mapGet t.units uid).map (·.prio) = some (u.prio + 1) ∧ t.dispatcher.store.getLast? = some uid) ∧
      ((unreserved s).find? (·.uid == uid) = some u → bestCluster s u = some n → reservation s n = none →
        (∀ v ∈ unreserved s, v.seq < u.seq → bestCluster s v ≠ some n) →
          completes (.gangReservation uid) s fun t => mapGet t.dispatcher.reserved n = some uid) ∧
      (crewAt s slot = some c → slot < 1024 → mayRetire s slot c = true → mapGet s.units c.uid = some u → u.uid = c.uid →
        (u.left.length + 1 < u.members.length → completes (.crewRetire slot) s fun t =>
          crewAt t slot = none ∧ (mapGet t.units c.uid).map (·.left) = some (u.left ++ [c.member])) ∧
        (s.balked = false → u.left = [] → u.members.length = 1 → Docket.jn u.docket = false → Docket.join u.docket = 0 →
          completes (.crewRetire slot) s fun t => crewAt t slot = none ∧ mapGet t.units c.uid = none))) ∧
    (crewAt s slot = some c → mapGet c.circ tile = some b → b.releasing = n :: ns →
      (c.vstores.any fun v => decide (v.issued ≤ n)) = false →
        completes (.cbSlotFree slot tile) s fun t => crewHas t slot fun d =>
          (mapGet d.circ tile).map (fun x => (x.releasing, x.free, x.fill)) =
            some (ns, if b.out then b.free else b.free + 1, if b.out then b.fill + 1 else b.fill)) ∧
    (∀ s1 s2 e', k.copyQ = e :: rest → k.copyRun.length < 4 → cmdFrozen s e = false →
      ((cmdBuffers s e).all fun q => q.2.ready) = true → consumeWait s core e = (true, s1) →
      takeSlots s1 core (started e) = (e', s2) →
        let s3 := putCore s2 core { coreAt s2 core with
          copyQ := (coreAt s2 core).copyQ.tail, copyRun := (coreAt s2 core).copyRun ++ [e'] }
        completes (.copyCmdStart core) s fun t => t = spend s3 1 ∨ t = resumeCopy core (spend s3 1) e'.id) ∧
    (k.copyRun = e :: rest → e.worked = true → e.held = false →
      completes (.copyCmdComplete core) s fun t => t = finishCmd (giveSlots s e) core e ∧ gone t) ∧
    (crewAt s slot = some c → c.glCmds = e :: rest → cmdFrozen s e = false → behindVectors s e = false → e.wv = false →
      isReeve slot = false → e.slot = slot → e.crewId = c.crewId → e.sv = false →
        (e.kind = .glcfg → completes (.gleanerFill slot) s fun t => crewHas t slot fun d =>
          d.gleaner = configure c (started e)) ∧
        (e.kind = .glgo → completes (.gleanerFill slot) s fun t => crewHas t slot fun d =>
          d.gleaner.queue = fillFirst (nextOffset s slot c.gleaner).1 c.gleaner.queue)) ∧
    (∀ before q after, crewAt s slot = some c → (k.matQ.find? fun f => f.slot == slot && f.crewId == c.crewId) = some e →
      e.kind = .mclaim → e.wv = false → mayStart s k e = true → grantable k c.crewId = true → olderStarts s core e.id = false →
      k.claims = before ++ q :: after → (∀ p ∈ before, ¬ (p.crewId = c.crewId ∧ p.granted = false)) → q.crewId = c.crewId →
      q.granted = false → completes (.mclaimGrant core slot) s fun t =>
        (coreAt t core).claims = before ++ { q with granted := true } :: after ∧ (coreAt t core).matRun = k.matRun ++ [started e]) ∧
    (k.matQ = [e] → e.kind.unit = unit → e.kind ≠ .mclaim → e.wv = false → mayStart s k e = true →
      ∀ l, l = (if e.kind = .mgo then match issuer s e with | some d => latchNest e d | none => e else e) →
        (startOk k l = true → completes (.matrixCmdStart core unit) s fun t =>
          (coreAt t core).matQ = [] ∧ (coreAt t core).matRun = k.matRun ++ [started l]) ∧
        (startOk k l = false → completes (.matrixCmdStart core unit) s fun t => t = stopCmd s core l 0x01 0xD true)) ∧
    (k.matRun.find? (fun f => f.kind.unit == unit) = some e → behindVectors s e = false →
      completes (.matrixCmdComplete core unit) s fun t => t = finishCmd (matrixEffect s core e) core e ∧ gone t) ∧
    (∀ s1, k.bankQ = e :: rest → headMay k e = true → e.held = false →
      (e.readyAt = none → (e.started = true ∨ cmdFrozen s e = false) → consumeWait s core e = (true, s1) →
        let q := { e with consumed := true, started := e.wv }
        (e.kind = .winfence → e.wv = false → completes (.bankQueueCmdStart core) s fun t =>
          (coreAt t core).bankQ = rest ∧ (coreAt t core).bankRun = k.bankRun ++ [started e]) ∧
        (e.kind = .bqload → completes (.bankQueueCmdStart core) s fun t => t = makeReady s1 core q) ∧
        (∀ bs s2, e.kind = .bqcmd → e.latch = [] → engineRead s1 q q.xa.toNat 64 = .ok bs s2 →
          recBad (bytesWords 8 bs) = false → recMisaligned (bytesWords 8 bs) = none → recMW (bytesWords 8 bs) = false →
            completes (.bankQueueCmdStart core) s fun t => t = makeReady s2 core { q with latch := bytesWords 8 bs })) ∧
      (e.readyAt.isSome = true → k.bankRun.length < 4 → mayGrant s core e = true → (s.pkg.hold = false ∨ e.kind = .bqload) →
        completes (.millGrant core) s fun t => (coreAt t core).bankQ = rest ∧ (coreAt t core).bankRun = k.bankRun ++ [e] ∧
          ∀ m < 512, millsNamed e m = true → (millAt t m).holder = some (core, e.id))) ∧
    (k.bankRun.find? (·.id == n) = some e → e.kind = .bqcmd → e.held = false → (heldMills s core n).all (·.ended) = true →
      (e.progress ≠ 0 → recMS e.latch = false → completes (.bqcmdComplete core n) s fun t => t = finishCmd s core e ∧ gone t) ∧
      (e.progress = 0 → recStat e.latch = 0 → completes (.bqcmdComplete core n) s fun t =>
        t = afterStatus (drainRings (returnBanks s core n)) core e)) ∧
    (∀ s1 d, k.bankRun.find? (·.kind == .bqload) = some e → e.held = false → workOn loadCode (2 ^ 20) s e = .finished s1 d →
      completes (.bqloadComplete core) s fun t => t = finishCmd s1 core d) ∧
    (k.bankRun.find? (·.kind == .winfence) = some e → fenceWaits s e = false →
      completes (.winfenceComplete core) s fun t => gone t ∧
        t = finishCmd { s with crossings := s.crossings.filter (·.unordered s e.crewId) } core e) ∧
    (∀ s1, k.portQ = e :: rest → k.portRun.length < 8 → cmdFrozen s e = false → porterMay s k e = true →
      consumeWait s core e = (true, s1) →
        let s2 := spend (putCore s1 core { coreAt s1 core with
          portQ := (coreAt s1 core).portQ.tail, portRun := (coreAt s1 core).portRun ++ [started e] }) 1
        completes (.porterCmdStart core) s fun t => t = s2 ∨ t = workCmd core (porterWork core) s2 (started e)) ∧
    (k.portRun.find? (·.id == n) = some e → e.held = false → e.worked = true → unanswered s core n = false →
      e.kind ∈ [EngKind.fld, .fst, .fget, .fput, .ffadd, .fmcast, .fsig] →
        completes (.porterCmdComplete core n) s fun t => t = finishCmd s core e ∧ gone t)

/-- Each event of the Mills, the fabric, the leases, the Reeves and the package completes where its rule lets it happen, and
has this effect: MILL_WATCHDOG, WHEEL_SLOT, WHEEL_REVOLUTION, HOST_RESERVED_SERVICE, PATROL_SCRUB (R273, R276, R283),
FABRIC_RESPONSE, FABRIC_TIMEOUT (R371), FABRIC_READ, FABRIC_WRITE, FABRIC_FADD, FABRIC_SIGNAL, FABRIC_MWRITE (R368 to R370),
PHYSICAL_LENT_ACCESS (R380), FLIT_RECEIVE, SLOT_TICK, FRAME_START (R353, R358, R382), COMBINE_WINDOW_EXPIRE,
ROUTER_ERROR_RECOVERY (R373, R374), the LEASE_ events (R378, R379), TLBI_COMPLETE, ICINV_COMPLETE, PREEMPT_COMPLETE,
HALT_WAKE, HARDWARE_ERROR (R397 to R408), DROOP_DETECT, DROOP_RECOVER, HOLD_ENTRY, HOLD_EXIT, ORDERLY_STOP, the
NGUGRIM_RETRAIN_ events, LINK_RETRAIN_START, LINK_RETRAIN_END, LINK_DOWN, SHOCK_EVENT, ENERGY_STORE_DEPLETED, PACKAGE_BOOT,
WEAR_UPDATE (R415 to R423). That ROUTER_ERROR_RECOVERY sends what the table held uncombined (log 64), what ORDERLY_STOP leaves
(log 36) and that all accesses which wait on Ngugrim end at once (log 37) are the model's choices. -/
def Sys2Proof.Claims.FabricAndPackageEventsComplete : Prop :=
  ∀ (s s1 : State) (n m bank row slot cl p peer lid reg0 nreg : Nat) (q : Msg) (tgt : Target) (o : Outstanding) (e : EngCmd)
    (f : Flit) (g : Combine) (l : Lease) (w : Sweep) (rest : List Sweep) (c : Crew) (u : WorkUnit) (h : FmtA) (x : BootOutcome)
    (peak days : BitVec 16) (limit : BitVec 3) (hours : BitVec 32) (status : BitVec 8) (len : BitVec 12) (deadline : Word),
    let v := millAt s m
    let r := reeveAt s cl
    let answers (i : Instr) (t' : State) : Prop := completes i s fun t => t = t'
    (millRuns s m = true → completes (.millWatchdog m) s fun t => (millAt t m).ended = true ∧ (millAt t m).chan.getLsbD 11 = true) ∧
    (m < 512 → v.wheelSlot < 15 → completes (.wheelSlot m) s fun t => (millAt t m).wheelSlot = v.wheelSlot + 1) ∧
    (m < 512 → completes (.wheelRevolution m) s fun t =>
      (millAt t m).wheelSlot = 0 ∧ (millAt t m).revolution = v.revolution + 1 ∧ (millAt t m).share = bits s.pkg.msh 4 0) ∧
    (∀ z, oldestRun s m = some z → v.wheelSlot = 0 → v.revolution % 8 = 0 → v.service = none → memoryAwake s = true →
      bankOf z.1 = bank → rowOf z.1 = row → answers (.hostReservedService m bank row)
        (drainRings (putMill (serveRuns s (serviceRuns s z)) m { v with service := some bank }))) ∧
    (memoryAwake s = true → completes (.patrolScrub n) s fun t => t.eccStuck = s.eccStuck ∧
      (∀ a, a / 0x60000000 = n → corrects s a = true → mapGet t.eccErr a = none) ∧
      ∀ a, a / 0x60000000 ≠ n ∨ corrects s a = false → mapGet t.eccErr a = mapGet s.eccErr a) ∧
    -- The fabric.
    (s.pkg.hold = false → s.fabric.responses[n]? = some q →
      (answered s q = none → answers (.fabricResponse n) (takeResponse s n)) ∧
      (answered s q = some o → o.access = none → o.cmd = some e.id → e.held = false → e.kind = .fst → q.stat = 0 →
        (coreAt s o.core).portRun.find? (·.id == e.id) = some e → (dropRequest s o).fabric.outstanding.contains o = false →
          answers (.fabricResponse n) (takeResponse (dropRequest s o) n))) ∧
    (s.fabric.outstanding.find? (·.tag == n) = some o →
      (o.access = none → o.cmd = some e.id → (coreAt s o.core).portRun.find? (·.id == e.id) = some e →
        answers (.fabricTimeout n) (remoteStop s o.core e 0x30 o.raddr)) ∧
      (∀ y, o.access = some (slot, y.seq) → crewAt s slot = some c → logEntry c y.seq = some y → y.tag = some o.tag →
        answers (.fabricTimeout n) (remoteTimeout (dropRequest s o) slot c y))) ∧
    (s.fabric.inbox[n]? = some q → q.phy = false →
      (∀ z ∈ ([(1, .fabricRead n, .load, q.len), (2, .fabricWrite n, .store, q.len), (3, .fabricFadd n, .atomic, addBytes q),
          (4, .fabricSignal n, .atomic, 8), (5, .fabricMwrite n, .store, q.len)] : List (Nat × Instr × AccessKind × Nat)),
        q.opc = z.1 →
          (servedTarget s q z.2.2.1 = (none, s1) → answers z.2.1 (respond (takeRequest s1 n) q 1 [] 0)) ∧
          (servedTarget s q z.2.2.1 = (some tgt, s1) → s1.pkg.hold = false → targetMay s1 tgt z.2.2.2 = true →
            answers z.2.1 (performRequest (takeRequest s1 n) q tgt)))) ∧
    (s.fabric.inbox[n]? = some q → q.phy = true → physicalTarget (BitVec.ofNat 64 q.addr) = .ok tgt →
      (q.accepted || lentTo s q) = true → s.pkg.hold = false → targetMay s tgt (requestBytes q) = true →
        answers (.physicalLentAccess n) (performRequest (takeRequest s n) q tgt)) ∧
    (p < 12 → (portAt s p).retraining = false → (portAt s p).down = false → flitCrc f = crcOf f → flitKind f ≠ 0 →
      flitSeq f = ((portAt s p).acked + 1) % 4096 → answers (.flitReceive p f)
        (acceptFlit (putPort s p { (takeHeader (portAt s p) f) with acked := ((portAt s p).acked + 1) % 4096 }) p f)) ∧
    (s.fabric.slot < 256 → completes .slotTick s fun t => t.fabric.slot = s.fabric.slot + 1) ∧
    (256 ≤ s.fabric.slot → s.fabric.switchAt = none →
      completes .frameStart s fun t => t.fabric.frame = (s.fabric.frame + 1) % 2 ^ 64 ∧ t.fabric.slot = 0) ∧
    (s.fabric.combining[n]? = some g → g.waiting = true → g.msgs = [q] → answers (.combineWindowExpire n) (injectPlain
      { s with fabric := { s.fabric with combining := s.fabric.combining.eraseIdx n, nextTag := s.fabric.nextTag + 1 } } q)) ∧
    (answers .routerErrorRecovery (((s.fabric.combining.filter (·.waiting)).flatMap (·.msgs)).foldl injectPlain
      { s with fabric := { s.fabric with combining := [] } })) ∧
    -- Leases.
    (leaseFull s = false → completes (.leaseGrantMessage peer lid reg0 nreg) s fun t => ∃ b ∈ t.fabric.leases,
      b.lender = false ∧ b.peer = peer ∧ b.lid = lid ∧ b.reg0 = reg0 ∧ b.nreg = nreg ∧ b.state = .held) ∧
    (lentLease s peer lid = some l →
      (l.state = .granting → answers (.leaseGrantAnswer peer lid status) (if status = 0
        then leaseAnswered (setLease s l { l with state := .held, cmd := none }) l.cmd 0
        else leaseAnswered (dropLease s l) l.cmd 3)) ∧
      (l.state = .held → leaseBusy s l = false →
        answers (.leaseReleaseMessage peer lid) (leaseEvent (dropLease s l) 5 l 0))) ∧
    ((s.fabric.leases.find? fun l => l.lender && l.lid == lid && l.state == .granting) = some l →
      answers (.leaseGrantTimeout lid) (leaseAnswered (dropLease s l) l.cmd 5)) ∧
    ((s.fabric.leases.find? fun l => l.lender && l.lid == lid && l.state == .recalling) = some l →
      l.deadline.toNat ≤ s.fabric.frame → leaseBusy s l = false →
        answers (.leaseDeadline lid) (leaseAnswered (leaseEvent (dropLease s l) 4 l 0) l.cmd 0)) ∧
    (borrowedLease s peer lid = some l →
      (l.state = .held → answers (.leaseRecallMessage peer lid deadline)
        (leaseEvent (setLease s l { l with state := .demoting, deadline := deadline }) 2 l deadline)) ∧
      (l.cmd.isSome = true → answers (.leaseReleaseAnswer peer lid status)
        (leaseAnswered (dropLease s l) l.cmd (if status = 0 then 0 else 4))) ∧
      (l.cmd = none → (l.state = .held ∨ l.state = .demoting) →
        answers (.leaseRevokeMessage peer lid) (leaseEvent (dropLease s l) 3 l 0))) ∧
    -- The Reeves.
    (r.tlbi = w :: rest → w.job = some n → sweptAll s w n = true → answers (.tlbiComplete cl)
      (deliverStatus (dropEntries (retranslate (putReeve s cl { r with tlbi := rest }) w n) w n) cl w.seq 0)) ∧
    (r.icinv = w :: rest → storesDone s cl w.seq = true → w.job = some n → answers (.icinvComplete cl)
      (deliverStatus (dropLines (putReeve s cl { r with icinv := rest }) w n) cl w.seq 0)) ∧
    (∀ y, (reeveAt s (clusterOf slot)).transfers.find? (·.slot == slot) = some y → finishTransfer s y = .ok (n, s1) →
      let r1 := reeveAt s1 (clusterOf slot)
      answers (.preemptComplete slot) (deliverStatus
        (putReeve s1 (clusterOf slot) { r1 with transfers := r1.transfers.filter (· != y) }) (clusterOf slot) y.seq n)) ∧
    (∀ y, WordRuns { s with cur := .crew (1024 + cl) .s } (1024 + cl) .s c .s true none [] → groupMay s (1024 + cl) = true →
      isDue c .s = true → clusterOf (1024 + cl) = cl → r.trqhead ≠ r.trqtail → c.s.fetched = some y → decodeWord y = .ok (.halt h) →
        answers (.haltWake cl) (issued { s with cur := .crew (1024 + cl) .s } (1024 + cl) .s c [])) ∧
    (crewAt s slot = some c → slot < 1024 → unitOf s c = some u → Docket.rst u.docket = false → u.cancelled = false →
      let lost := trapRecord 3 0x41 0 false (jobOf s c) (benchRef slot c) c.s.pc (status.zeroExtend 64) c.counter 0xFFFF
      let end_ := loseUnit (postRecord ((groupOf s slot c).foldl loseCrew s) (coreOf slot / 8) lost) u
      end_.balked = false → answers (.hardwareError slot status) end_) ∧
    -- The package.
    (cl < 8 → s.pkg.stretched.getLsbD cl = false → completes (.droopDetect cl) s fun t =>
      t.pkg.stretched.getLsbD cl = true ∧ bits t.pkg.droopst 19 0 = min (bits s.pkg.droopst 19 0 + 1) (2 ^ 20 - 1)) ∧
    (completes (.droopRecover cl) s fun t => t.pkg.stretched.getLsbD cl = false) ∧
    (s.pkg.hold = false → completes .holdEntry s fun t =>
      t.pkg.hold = true ∧ bits t.pkg.droopst 39 20 = min (bits s.pkg.droopst 39 20 + 1) (2 ^ 20 - 1)) ∧
    (s.pkg.hold = true → completes (.holdExit len) s fun t =>
      t.pkg.hold = false ∧ t.pkg.stretched = 0 ∧ bits t.pkg.droopst 51 40 = len.toNat) ∧
    ((status = 2 ∨ (status = 1 ∧ s.pkg.hold = true)) → completes (.orderlyStop status) s fun t =>
      t.pkg.powered = false ∧ t.crews = [] ∧ bits t.pkg.droopst 63 56 = status.toNat) ∧
    (s.port.retrain = false → completes .ngugrimRetrainStart s fun t => t.port.retrain = true ∧ t.pkg.linkst.getLsbD 12 = true) ∧
    (s.port.retrain = true → completes .ngugrimRetrainEnd s fun t => t.port.retrain = false ∧ t.pkg.linkst.getLsbD 12 = false) ∧
    (s.port.retrain = true → completes .ngugrimRetrainTimeout s fun t => t.port.lost = false ∧ t.port.retrain = true) ∧
    (p < 12 → (portAt s p).retraining = false → (portAt s p).down = false → completes (.linkRetrainStart p) s fun t =>
      (portAt t p).retraining = true ∧ t.pkg.linkst.getLsbD p = true) ∧
    (p < 12 → (portAt s p).retraining = true →
      (completes (.linkRetrainEnd p) s fun t => (portAt t p).retraining = false ∧ t.pkg.linkst.getLsbD p = false) ∧
      (completes (.linkDown p) s fun t => (portAt t p).down = true ∧ t.pkg.linkst.getLsbD (14 + p) = true)) ∧
    (40 ≤ peak.toNat → completes (.shockEvent peak) s fun t => t.pkg.shocks = (peak :: s.pkg.shocks).take 64) ∧
    (completes .energyStoreDepleted s fun t => t.pkg.shockst.getLsbD 3 = true) ∧
    (x.signatureOk = true → bootAllowed s x = true → completes (.packageBoot x) s fun t =>
      t.pkg.inReset = false ∧ ∀ k < 8, (crewAt t (1024 + k)).isSome = true) ∧
    (limit.toNat ≤ 5 → completes (.wearUpdate days limit hours) s fun t => bits t.pkg.weareol 63 48 = days.toNat ∧
      bits t.pkg.weareol 34 32 = limit.toNat ∧ bits t.pkg.weareol 31 0 = hours.toNat)

namespace Sys2Proof.Claims

/-- The words that give an engine a command: the command's kind, the word's privilege, the registers that it reads, and what its
operands, tile registers and claim must be (R227, R242, R243, R254, R264 to R270, R286, R364, R378, R382). -/
def engineWords (c : Crew) (o : FmtC) (reeve : Bool) (a b : Word) : List (Instr × Bool × Bool × Bool × Prop) :=
  let t := lowTile o
  let t2 := (o.cimm.extractLsb' 4 4).toNat
  let plain (u : Nat) (reads : Bool) : Prop := (tileRegion c u).empty = false ∧ wrongWay c u reads = false
  let filled := (tileRegion c t).empty = false
  let by64 := a.toNat % 64 = 0
  let short := bits a 63 48 = 0 ∧ b.toNat < 2 ^ 19
  let pairs (most : Nat) : Prop := a.toNat % 32 = 0 ∧ 1 ≤ b.toNat ∧ b.toNat ≤ most
  let bench := reeve = false
  [(.tld o, false, true, true, by64 ∧ plain t false), (.tst o, false, true, true, by64 ∧ plain t true),
   (.tmov o, false, false, false, plain t2 true ∧ plain t false ∧ (tileRegion c t2).size ≤ (tileRegion c t).size),
   (.tcopy2d o, false, true, true, pairs 4096 ∧ filled),
   (.clist o, false, true, true, a.toNat % 16 = 0 ∧ filled ∧ 1 ≤ b.toNat ∧ b.toNat ≤ 65536),
   (.trope o, false, true, true, a.toNat % 32 = 0 ∧ plain t false ∧ bits b 63 32 = 0),
   (.glcfg o, false, true, true, bench ∧ bits a 39 35 = 0 ∧ bits a 63 41 = 0 ∧ bits b 63 32 = 0 ∧ filled ∧
     (tileRegion c t).lvl = 0),
   (.glgo o, false, true, false, bench ∧ (gleanerTile c).isSome = true ∧ 1 ≤ a.toNat ∧
     c.gleaner.queue.length + a.toNat ≤ 512),
   (.mcfg o, false, true, false, bench ∧ rowOk (o.cimm.extractLsb' 0 3).toNat a = true),
   (.mgo o, false, false, false, bench ∧ c.claim ≠ none),
   (.mclaim o, false, true, false, bench ∧ a ≠ 0 ∧ bits a 63 34 = 0 ∧ c.claim = none), (.mrel o, false, false, false, bench),
   (.mldo o, false, false, false, bench ∧ rowsFor (tileRegion c (o.cimm.extractLsb' 5 4).toNat)
     (if o.cimm.getLsbD 9 then 0 else 256) = true ∧ ∃ x, c.claim = some x ∧ x.getLsbD (o.cimm.extractLsb' 0 5).toNat = true),
   (.mret o, false, false, false, bench ∧ (o.cimm.extractLsb' 5 4).toNat ∈ [4, 9, 10, 11] ∧
     rowsFor (tileRegion c (o.cimm.extractLsb' 1 4).toNat) (16 * typeWidth (o.cimm.extractLsb' 5 4).toNat) = true ∧
     ∃ x, c.claim = some x ∧ x.getLsbD (32 + (o.cimm.extractLsb' 0 1).toNat) = true),
   (.mcell o, false, true, false, bench ∧ a.toNat < 4 ^ ((o.cimm.extractLsb' 0 5).toNat + 1) ∧
     ∀ j < (o.cimm.extractLsb' 0 5).toNat + 1, bits a (2 * j + 1) (2 * j) ≠ 3),
   (.bqcmd o, false, true, true, by64),
   (.bqload o, false, true, true, by64 ∧ bits b 31 17 = 0 ∧ bits b 63 48 = 0 ∧ bits b 16 0 % 64 = 0 ∧ bits b 47 32 % 64 = 0 ∧
     64 ≤ bits b 16 0 ∧ bits b 47 32 + bits b 16 0 ≤ 65536 ∧ o.cimm.extractLsb' 0 8 ≠ 0),
   (.winfence o, false, false, false, True), (.fld o, false, true, true, by64 ∧ short ∧ filled),
   (.fst o, false, true, true, by64 ∧ short ∧ filled), (.fget o, false, true, true, pairs 4096),
   (.fput o, false, true, true, pairs 4096), (.ffadd o, false, true, true, pairs 256),
   (.fmcast o, false, true, true, by64 ∧ bits b 47 0 % 4 = 0 ∧ bits a 63 48 = 0 ∧ bits b 63 58 = 0 ∧ filled),
   (.fsig o, false, true, true, a.toNat % 8 = 0 ∧ short), (.leaseGrant o, true, true, false, by64),
   (.leaseRecall o, true, true, false, by64), (.leaseRelease o, true, true, false, by64),
   (.slotswLoad o, true, true, false, by64), (.slotswSwitch o, true, true, false, True)]

/-- The words of the Mill that take no control value and make no access, or take clean ones: they go on to the next word. -/
noncomputable def millPlainWords (d a b y z : BitVec 4) (k e t : BitVec 2) (c u : BitVec 1) (sel q : BitVec 5) (p : BitVec 3)
    (i : BitVec 12) (j : BitVec 11) (t0 : BitVec 7) : List Instr :=
  [.npbWf a, .npbSet a b, .nliScalar d i, .nliShift d i, .nliVector d k i, .nliFromMx d b k, .naddi d a i, .nadd d a b k t c sel,
   .naddScalar d a b t, .nsub d a b k t c sel, .nsubScalar d a b t, .nmul d a b k t c sel, .nmulScalar d a b t,
   .nfma d a b k c sel, .nmax d a b k t c sel, .nmaxScalar d a b t, .nmin d a b k t c sel, .nminScalar d a b t,
   .nand d a b k t c sel, .nandScalar d a b t, .nor d a b k t c sel, .norScalar d a b t, .nxor d a b k t c sel,
   .nxorScalar d a b t, .nshl d a b k t c sel, .nshlScalar d a b t, .nshr d a b k t c sel, .nshrScalar d a b t, .nperm d a b k,
   .ncvt d a k p y z, .ncmp e a b k t c sel p, .nsel d a b k c sel, .ndot d a b k u q, .ndotBf16 d a b k q, .nred d a k t p,
   .nredScalar d a k t p, .nexp2 d a k, .nsmx d a b k, .nskip d a b, .nidx d a k j, .nidxW e k t0, .nflag d c]

end Sys2Proof.Claims

/-- Each word that queues a command completes, and its stream has issued at this count with the command in the operand log,
where its operands pass its checks and its queue has room: TLD, TST, TMOV, TCOPY2D, CLIST, TROPE (R223, R227), GLCFG, GLGO
(R242, R243), MCFG, MGO, MCLAIM, MREL, MLDO, MRET, MCELL (R251, R264 to R270), BQCMD, BQLOAD, WINFENCE (R285, R286), FLD, FST,
FGET, FPUT, FFADD, FMCAST, FSIG, LEASE.grant, LEASE.recall, LEASE.release, SLOTSW.load, SLOTSW.switch (R363, R364, R378,
R382); so do CBINIT, CBWAIT and CBDONE (R235 to R238). -/
def Sys2Proof.Claims.EngineWordsComplete : Prop :=
  ∀ (s : State) (k : Nat) (c : Crew),
    let issuedAt (t : State) (more : Nat) : Prop :=
      crewHas t k fun d => d.s.last = some c.counter ∧ d.log.length = c.log.length + more
    (∀ o : FmtC, (∀ q, (queued (coreAt s (coreOf k)) q).length < (if q = .bank then 16 else 32)) →
      ∀ w ∈ engineWords c o (isReeve k) (readX s c 0 o.ra) (readX s c 1 o.rb),
        CommandRuns s k c o w.2.1 w.2.2.1 w.2.2.2.1 → w.2.2.2.2 → completes w.1 s fun t => issuedAt t 1) ∧
    (∀ (o : FmtA) (b : CircBuf), isReeve k = false →
      (WordRuns s k .s c .s false (guardA o) (readsA o 2) → tagX s c 0 o.ra = false → tagX s c 1 o.rb = false →
        circOk k (readX s c 0 o.ra) (readX s c 1 o.rb) = true → marked s k c o.rd.toNat = false →
          completes (.cbinit o) s fun t => issuedAt t 0) ∧
      (WordRuns s k .s c .s false (guardA o) [] → mapGet c.circ o.ra.toNat = some b → 0 < (if b.out then b.free else b.fill) →
        completes (.cbwait o) s (fun t => issuedAt t 0) ∧ completes (.cbdone o) s fun t => issuedAt t 0))

/-- Each word of the Mill completes where its fields are in range, its control values are clean and its access is granted, and
the Mill goes on to the next word: NLD, NST, NLDK, NPB, NSEMS, NSEMW, NTRIP with their vector and scalar forms (R302, R316,
R319, R320, R323), and NPB.wf, NPB.set, NLI, NADDI, NADD, NSUB, NMUL, NFMA, NMAX, NMIN, NAND, NOR, NXOR, NSHL, NSHR, NPERM,
NCVT, NCMP, NSEL, NDOT, NRED, NEXP2, NSMX, NSKIP, NIDX, NIDX.w and NFLAG in all their forms (R303 to R310, R313, R314, R317,
R319, R321); NBR, NBRC on a register or a mask and NLOOP go to their next word, and NEND and a reserved word end the kernel
(R295, R311, R312, R315). -/
def Sys2Proof.Claims.MillWordsComplete : Prop :=
  ∀ (s : State) (m : Nat) (v : MillState) (d a b y z : BitVec 4) (k e t : BitVec 2) (c u h : BitVec 1) (sel q : BitVec 5)
    (p : BitVec 3) (i : BitVec 12) (j n : BitVec 11) (t0 : BitVec 7) (w : BitVec 32), MillRuns s m v → m < 512 →
      let goesOn (x : Instr) : Prop := completes x s fun r => ∃ r' v', r = millIssued r' m v'
      let jumps (x : Instr) (pc : Word) : Prop := completes x s fun r => ∃ l, r = millJumped s m v pc l
      let target := millPc v + i.signExtend 64 * 4
      let last := millPc v + i.zeroExtend 64 * 4
      let cell := m * 0x30000000 + (mxGet v a).toNat
      let d0 := bytesWord (memRead s.hbm cell 8)
      let d1 := bytesWord (memRead s.hbm (cell + 8) 8)
      (∀ x ∈ millPlainWords d a b y z k e t c u sel q p i j t0, x.wellFormed = true → mxTag v a = false →
        mxTag v b = false → bits (mxGet v b) 6 0 ≤ 64 → goesOn x) ∧
      (millSees s → i ≠ 0 → d.toNat + p.toNat + 1 ≤ 16 → ∀ x ∈ millAccesses v d a b k n h i p, x.2.1.any (mxTag v) = false →
        millGrants v (x.2.2.1 + x.2.2.2.2.2) x.2.2.2.1 x.2.2.2.2.1 → v.trip = 0 →
          (x.1 ∈ [Instr.nldVector d a k n, .nstVector d a k n, .nldScalar d a n, .nstScalar d a n, .nldk d a b k h] → goesOn x.1) ∧
          (cellPoisoned s cell = false →
            (d0.toNat + i.toNat < 2 ^ 64 → x.1 = .nsems a i → goesOn x.1) ∧ (d0 ≠ 0 → x.1 = .nsemw a → goesOn x.1) ∧
            (bits d0 63 39 = 0 → bits d0 38 32 ≤ 64 →
              bits d1 31 0 = (bits d0 31 0 * 0x9E3779B1 + bits d0 38 32 * 0x85EBCA77 + bits d1 63 32) % 2 ^ 32 →
                x.1 = .npb a → goesOn x.1)) ∧
          (v.slotUse = 0 → (mxGet v a).toNat % 1024 + 64 + 128 * (p.toNat + 1) ≤ 1024 → p.toNat < 7 → x.1 = .ntrip d a b p →
            goesOn x.1)) ∧
      (target.toNat ≤ 0xFFFC → mxTag v a = false → jumps (.nbr i) target ∧
        ((mxGet v a ≠ 0 ↔ c = 0) → jumps (.nbrc c a i) target) ∧ ((mkGet v k ≠ 0 ↔ c = 0) → jumps (.nbrcMask c k i) target)) ∧
      (i ≠ 0 → mxTag v a = false → mxGet v a ≠ 0 → v.loops = [] → last.toNat ≤ 0xFFFC →
        (∀ x, millWordAt s m last.toNat = some x → x.toNat / 2 ^ 26 ∉ [0x1D, 0x1E, 0x1F, 0x23]) → jumps (.nloop a i) (millPc v + 4)) ∧
      (completes .nend s fun r => (millAt r m).ended = true) ∧
      (completes (.reservedMillWord w) s fun r => (millAt r m).ended = true ∧ (millAt r m).chan.getLsbD 9 = true)

/-! ### The statements that gather several of these -/

/-- What a word reads from a register, and when its writes land: the statements named, together. -/
def Obligations.RegisterReadsAndLandings : Prop :=
  Claims.ScalarReadsAndLandings ∧ Claims.HardWiredRegisters

/-- Scalar arithmetic, logic, multiply, divide, immediate and compare words give their results: the statements named,
together. -/
def Obligations.ScalarArithmetic : Prop :=
  Claims.ScalarTableResults ∧ Claims.MultiplyDivideResults ∧ Claims.ImmediateResults ∧ Claims.CompareWritesPredicate

/-- Branches, calls, returns and hardware loops: the statements named, together. -/
def Obligations.BranchesAndLoops : Prop :=
  Claims.BranchesGoToTheirTarget ∧ Claims.LoopsAreSetUp ∧ Claims.LoopChecksStallAndTrap ∧ Claims.LoopEndNamesTheNextWord

/-- Words that trap, what taking a trap saves, and its record: the statements named, together. -/
def Obligations.TrapsAreTaken : Prop :=
  Claims.TrapWordsTakeTheirTrap ∧ Claims.TakingATrapOnABench ∧ Claims.TrapRecordIsWritten

/-- Scalar loads, stores and LDS issue or trap on their address: the statements named, together. -/
def Obligations.ScalarMemoryWordsIssue : Prop :=
  Claims.LoadsAndStoresIssue ∧ Claims.MisalignedAndPoisonedAddresses

/-- Atomics, fences, SPAWN, JOINDEC and memory waits issue: the statements named, together. -/
def Obligations.AtomicOrderingAndWaitWordsIssue : Prop :=
  Claims.AtomicAndOrderingWordsIssue ∧ Claims.MemoryWaitsStallAndIssue

/-- Core-semaphore words and CANCEL: the statements named, together. -/
def Obligations.CoreSemaphoreAndCancelWords : Prop :=
  Claims.CoreSemaphoreWords ∧ Claims.CancelGivesItsStatus

/-- Integer, logic and shift vector words, element by element: the statements named, together. -/
def Obligations.IntegerAndLogicVectorElements : Prop :=
  Claims.IntegerVectorElements ∧ Claims.LogicVectorElements

/-- Floating-point and width-changing vector words, element by element: the statements named, together. -/
def Obligations.FloatAndWideningVectorElements : Prop :=
  Claims.FloatVectorElements ∧ Claims.WideningVectorElements

/-- Selection, cross-lane, move and random vector words: the statements named, together. -/
def Obligations.SelectionVectorElements : Prop :=
  Claims.SelectionVectorElements ∧ Claims.CrossLaneElements ∧ Claims.MovesAndRandomWords

/-- Predicate words and vector memory words: the statements named, together. -/
def Obligations.PredicateAndVectorMemoryWords : Prop :=
  Claims.PredicateWords ∧ Claims.VectorMemoryWords

/-- Carter, Gleaner and circular-buffer words: the statements named, together. -/
def Obligations.EngineWordsQueueTheirCommands : Prop :=
  Claims.CarterWordsQueue ∧ Claims.GleanerWordsEnter ∧ Claims.CircularBufferWords

/-- Matrix, bank-queue and Porter words: the statements named, together. -/
def Obligations.MatrixBankAndPorterWordsQueue : Prop :=
  Claims.MatrixWordsQueue ∧ Claims.BankAndPorterWordsQueue

/-- CSRR and CSRW of every register: the statements named, together. -/
def Obligations.ControlRegisterWords : Prop :=
  Claims.CsrrReadsTheRegister ∧ Claims.CsrwOfACrewsRegisters ∧ Claims.CsrwOfTheMachinesRegisters ∧
    Claims.CsrwTakesEffectAtTheNextCount

/-- Privileged words: their traps, HALT, SPLOG, TLBI and ICINV: the statements named, together. -/
def Obligations.PrivilegedWords : Prop :=
  Claims.PrivilegedWordsTrap ∧ Claims.HaltAndSplog ∧ Claims.SweepsAreIssued

/-- ERET, and the return from an exception: the statements named, together. -/
def Obligations.ReturnFromTraps : Prop :=
  Claims.EretResumesItsTarget ∧ Claims.ReturnFromATrap

/-- Status records, level-ended records, the attestation report and the port registers: the statements named, together. -/
def Obligations.RecordsReachTheControlNode : Prop :=
  Claims.StatusRecordIsWritten ∧ Claims.WaitingRecordIsWrittenOnRoom ∧ Claims.AttestationReportIsWritten ∧
    Claims.PortRegisterWrites

/-- LAUNCH, REPLAY and GPATCH, and the units they create: the statements named, together. -/
def Obligations.LaunchesCreateTheirUnits : Prop :=
  Claims.LaunchReplayAndPatch ∧ Claims.UnitsAreCreated ∧ Claims.WaitingCreationGoesOn

/-- Dispatch, promotion, reservation and the end of a crew: the statements named, together. -/
def Obligations.CrewsAreDispatchedAndRetire : Prop :=
  Claims.DispatchCreatesItsCrew ∧ Claims.PromotionAndReservation ∧ Claims.CrewRetires

/-- Loads deliver their bytes, extended: the statements named, together. -/
def Obligations.LoadsArePerformed : Prop :=
  Claims.LoadsDeliverTheirBytes ∧ Claims.LoadedValuesAreExtended

/-- Scalar and vector stores write their bytes and no others: the statements named, together. -/
def Obligations.StoresArePerformed : Prop :=
  Claims.ScalarStoresWriteTheirBytes ∧ Claims.VectorStoresWriteTheirBytes

/-- Atomics, JOINDEC and SPAWN are performed: the statements named, together. -/
def Obligations.AtomicsArePerformed : Prop :=
  Claims.AtomicsAreIndivisible ∧ Claims.AtomicOperations ∧ Claims.JoindecAndSpawnArePerformed

/-- Signals take effect and waits on memory end: the statements named, together. -/
def Obligations.SignalsAndWaitsArePerformed : Prop :=
  Claims.SignalsTakeEffect ∧ Claims.CoreSemaphoreAdds ∧ Claims.WaitsEndOnTheirCondition

/-- Translation returns, late faults, instruction fetches and idle counts: the statements named, together. -/
def Obligations.AccessesTranslateFaultAndFetch : Prop :=
  Claims.TranslationReturnSettlesTheEntry ∧ Claims.LateFaultsAreTaken ∧ Claims.FetchesReturn ∧ Claims.IdleCountPasses

/-- Carter and Gleaner commands start, move their bytes and complete: the statements named, together. -/
def Obligations.CarterAndGleanerCommands : Prop :=
  Claims.ReleasedSlotsPass ∧ Claims.CopyCommandsStartAndComplete ∧ Claims.CommandWorkEnds ∧ Claims.CommandsComplete ∧
    Claims.MovesMoveTheirBytes ∧ Claims.GleanerFills

/-- Claims are granted, and matrix commands start and complete: the statements named, together. -/
def Obligations.MatrixCommands : Prop :=
  Claims.ClaimsAreGranted ∧ Claims.MatrixCommandsStartAndComplete ∧ Claims.MatrixCommandEffects ∧ Claims.IntegerCells

/-- Bank-queue commands and the kernels they start: the statements named, together. -/
def Obligations.BankQueueCommands : Prop :=
  Claims.BankQueueCommandsStart ∧ Claims.KernelsStartWithTheirRegisters ∧ Claims.BankQueueCommandsComplete ∧
    Claims.KernelStatusWord

/-- Porter commands and the responses to them: the statements named, together. -/
def Obligations.PorterCommandsAndResponses : Prop :=
  Claims.PorterCommandsStartAndComplete ∧ Claims.ResponsesAnswerRequests

/-- Requests of other packages and of borrowers are served: the statements named, together. -/
def Obligations.RemoteAndLentRequestsAreServed : Prop :=
  Claims.RemoteRequestsAreServed ∧ Claims.LentMemoryIsServed

/-- Flits, slots, frames and the combining table: the statements named, together. -/
def Obligations.FabricMessagesMove : Prop :=
  Claims.FlitsSlotsAndFrames ∧ Claims.CombiningWindows

/-- Leases and the fabric event ring: the statements named, together. -/
def Obligations.LeasesAndTheirEvents : Prop :=
  Claims.LeasesMove ∧ Claims.EventRecordIsWritten

/-- TLBI, ICINV and pre-emption complete; a hardware error ends its crew: the statements named, together. -/
def Obligations.ReeveEventsAndHardwareErrors : Prop :=
  Claims.ReeveWordsComplete ∧ Claims.SweptEntriesAreGone ∧ Claims.HardwareErrorsEndTheirCrew

/-- Droop, retraining, shocks, wear, boot and orderly stop: the statements named, together. -/
def Obligations.PackageConditionsBootAndStop : Prop :=
  Claims.ConditionRegisters ∧ Claims.LostNgugrimEndsItsAccesses ∧ Claims.BootAndStop

/-- Mill compares, selects, permutes, conversions, reductions, dot products and NSMX: the statements named, together. -/
def Obligations.MillSelectionAndReductionWords : Prop :=
  Claims.MillSelectionWords ∧ Claims.MillReductionWords

/-- A Mill word with a bad field or a bad access ends its kernel, or waits for its slot: the statements named, together. -/
def Obligations.MillChecksComeFirst : Prop :=
  Claims.MillAccessChecks ∧ Claims.IllFormedMillWordsEndTheKernel

/-- Mill loads and stores: the statements named, together. -/
def Obligations.MillLoadsAndStores : Prop :=
  Claims.MillLoads ∧ Claims.MillStores

/-- Every word of an engine and of the Mill completes where its operands allow it: the statements named, together. -/
def Obligations.EngineAndMillWordsComplete : Prop :=
  Claims.EngineWordsComplete ∧ Claims.MillWordsComplete

/-- Every event of the device completes where its rule lets it happen: the statements named, together. -/
def Obligations.EventsComplete : Prop :=
  Claims.DispatcherAndEngineEventsComplete ∧ Claims.FabricAndPackageEventsComplete
end

