-- ==== Sys2Proof/Laws/Map.lean ====
section
/-!
SUPPORT. Finite maps and byte memories: what a read gives after a write, and that every memory operation keeps the canonical
form.
-/
namespace Sys2Proof.Machine

/-! ### Finite maps -/

/-- A key just set reads as it was set. -/
@[simp] theorem mapGet_mapSet_same {α : Type} (m : FMap α) (a : Nat) (v : α) : mapGet (mapSet m a v) a = some v := by
  induction m with
  | nil => simp [mapSet, mapGet]
  | cons e m ih =>
    obtain ⟨k, w⟩ := e
    simp only [mapSet]
    split
    · simp [mapGet]
    · split
      · simp [mapGet]
      · simp only [mapGet]; rw [if_neg (by assumption)]; exact ih

/-- Setting a key leaves every other key. -/
theorem mapGet_mapSet_other {α : Type} (m : FMap α) {a b : Nat} (v : α) (h : b ≠ a) :
    mapGet (mapSet m a v) b = mapGet m b := by
  induction m with
  | nil => simp [mapSet, mapGet, h]
  | cons e m ih =>
    obtain ⟨k, w⟩ := e
    simp only [mapSet]
    split
    · simp [mapGet, h]
    · split
      · subst a; simp [mapGet, h]
      · simp only [mapGet]; split
        · rfl
        · exact ih

/-- Of two values set at one key the later one stands. -/
@[simp] theorem mapSet_mapSet_same {α : Type} (m : FMap α) (a : Nat) (v w : α) : mapSet (mapSet m a v) a w = mapSet m a w := by
  induction m with
  | nil => simp [mapSet]
  | cons e m ih =>
    obtain ⟨k, x⟩ := e
    simp only [mapSet]
    split
    · simp [mapSet]
    · split
      · simp [mapSet]
      · simp only [mapSet]; rw [if_neg (by assumption), if_neg (by assumption), ih]

/-- The crew that was put on a bench stands there. -/
@[simp] theorem mapGetD_mapSet_same {α : Type} (m : FMap α) (a : Nat) (v d : α) : mapGetD (mapSet m a v) a d = v := by
  simp [mapGetD]

/-! ### The canonical form of a memory -/

/-- A canonical memory above a bound is canonical above any lower bound. -/
theorem memSortedFrom_weaken {lo hi : Nat} {m : Memory} (h : memSortedFrom (some hi) m = true) (le : lo ≤ hi) :
    memSortedFrom (some lo) m = true := by
  cases m with
  | nil => rfl
  | cons e m =>
    obtain ⟨a, b⟩ := e
    simp only [memSortedFrom, Bool.and_eq_true, decide_eq_true_eq] at h ⊢
    exact ⟨⟨by omega, h.1.2⟩, h.2⟩

/-- A canonical memory above a bound is canonical. -/
theorem memSortedFrom_none {lo : Option Nat} {m : Memory} (h : memSortedFrom lo m = true) : memSortedFrom none m = true := by
  cases m with
  | nil => rfl
  | cons e m => obtain ⟨a, b⟩ := e; simp_all [memSortedFrom]

/-- Removing an entry keeps the canonical form. -/
theorem mapErase_sorted {lo : Nat} {m : Memory} (a : Nat) (h : memSortedFrom (some lo) m = true) :
    memSortedFrom (some lo) (mapErase m a) = true := by
  induction m generalizing lo with
  | nil => rfl
  | cons e m ih =>
    obtain ⟨k, w⟩ := e
    simp only [mapErase]
    simp only [memSortedFrom, Bool.and_eq_true, decide_eq_true_eq] at h
    split
    · exact memSortedFrom_weaken (ih h.2) (by omega)
    · simp only [memSortedFrom, Bool.and_eq_true, decide_eq_true_eq]; exact ⟨h.1, ih h.2⟩

/-- Setting a non-zero byte above a bound keeps the canonical form above it. -/
theorem mapSet_sorted {lo : Nat} {m : Memory} {a : Nat} {b : Byte} (hb : b ≠ 0) (ha : lo < a)
    (h : memSortedFrom (some lo) m = true) : memSortedFrom (some lo) (mapSet m a b) = true := by
  induction m generalizing lo with
  | nil => simp only [mapSet, memSortedFrom, Bool.and_eq_true, decide_eq_true_eq]; exact ⟨⟨ha, hb⟩, trivial⟩
  | cons e m ih =>
    obtain ⟨k, w⟩ := e
    simp only [memSortedFrom, Bool.and_eq_true, decide_eq_true_eq] at h
    simp only [mapSet]
    split
    · simp only [memSortedFrom, Bool.and_eq_true, decide_eq_true_eq]; exact ⟨⟨ha, hb⟩, ⟨by omega, h.1.2⟩, h.2⟩
    · split
      · subst a; simp only [memSortedFrom, Bool.and_eq_true, decide_eq_true_eq]; exact ⟨⟨ha, hb⟩, h.2⟩
      · simp only [memSortedFrom, Bool.and_eq_true, decide_eq_true_eq]; exact ⟨h.1, ih (by omega) h.2⟩

/-- Writing a byte keeps the canonical form. -/
theorem memSet_wf {m : Memory} (a : Nat) (b : Byte) (h : Memory.wf m = true) : Memory.wf (memSet m a b) = true := by
  unfold Memory.wf memSet at *
  cases m with
  | nil => split <;> simp_all [mapErase, mapSet, memSortedFrom]
  | cons e m =>
    obtain ⟨k, w⟩ := e
    have hk : memSortedFrom (some k) m = true ∧ w ≠ 0 := by simp_all [memSortedFrom]
    split
    · simp only [mapErase]
      split
      · exact memSortedFrom_none (mapErase_sorted a hk.1)
      · simp only [memSortedFrom, Bool.and_eq_true, decide_eq_true_eq]; exact ⟨⟨trivial, hk.2⟩, mapErase_sorted a hk.1⟩
    · simp only [mapSet]
      split
      · simp only [memSortedFrom, Bool.and_eq_true, decide_eq_true_eq]; exact ⟨⟨trivial, by assumption⟩, ⟨by assumption, hk.2⟩, hk.1⟩
      · split
        · subst a; simp only [memSortedFrom, Bool.and_eq_true, decide_eq_true_eq]; exact ⟨⟨trivial, by assumption⟩, hk.1⟩
        · simp only [memSortedFrom, Bool.and_eq_true, decide_eq_true_eq]
          exact ⟨⟨trivial, hk.2⟩, mapSet_sorted (by assumption) (by omega) hk.1⟩

/-- Writing bytes keeps the canonical form. -/
theorem memWrite_wf {m : Memory} (a : Nat) (bs : List Byte) (h : Memory.wf m = true) : Memory.wf (memWrite m a bs) = true := by
  induction bs generalizing m a with
  | nil => exact h
  | cons b bs ih => exact ih _ (memSet_wf a b h)

/-- Writing cells keeps the canonical form. -/
theorem memWriteCells_wf {m : Memory} (cs : List Host.Cell) (h : Memory.wf m = true) :
    Memory.wf (memWriteCells m cs) = true := by
  induction cs generalizing m with
  | nil => exact h
  | cons c cs ih => obtain ⟨a, b⟩ := c; exact ih (memSet_wf a b h)

/-! ### What a read gives after a write -/

/-- A removed key is absent. -/
@[simp] theorem mapGet_mapErase_same {α : Type} (m : FMap α) (a : Nat) : mapGet (mapErase m a) a = none := by
  induction m with
  | nil => rfl
  | cons e m ih =>
    obtain ⟨k, w⟩ := e
    simp only [mapErase]
    split
    · exact ih
    · simp only [mapGet]; rw [if_neg (by assumption)]; exact ih

/-- Removing a key leaves every other key. -/
theorem mapGet_mapErase_other {α : Type} (m : FMap α) {a b : Nat} (h : b ≠ a) : mapGet (mapErase m a) b = mapGet m b := by
  induction m with
  | nil => rfl
  | cons e m ih =>
    obtain ⟨k, w⟩ := e
    simp only [mapErase]
    split
    · subst a; simp [mapGet, h, ih]
    · simp only [mapGet]; split
      · rfl
      · exact ih

/-- A byte just written reads back. -/
theorem memGet_memSet_same (m : Memory) (a : Nat) (b : Byte) : memGet (memSet m a b) a = b := by
  unfold memGet memSet mapGetD
  split <;> simp_all

/-- A write leaves every other byte. -/
theorem memGet_memSet_other (m : Memory) {a x : Nat} (b : Byte) (h : x ≠ a) : memGet (memSet m a b) x = memGet m x := by
  unfold memGet memSet mapGetD
  split
  · rw [mapGet_mapErase_other m h]
  · rw [mapGet_mapSet_other m b h]

/-- A write of bytes leaves every byte outside it. -/
theorem memGet_memWrite_other (m : Memory) (a : Nat) (bs : List Byte) {x : Nat} (h : x < a ∨ a + bs.length ≤ x) :
    memGet (memWrite m a bs) x = memGet m x := by
  induction bs generalizing m a with
  | nil => rfl
  | cons b bs ih =>
    simp only [List.length_cons] at h
    show memGet (memWrite (memSet m a b) (a + 1) bs) x = _
    rw [ih _ _ (by omega), memGet_memSet_other m b (by omega)]

/-- Bytes just written read back. -/
theorem memRead_memWrite_same (m : Memory) (a : Nat) (bs : List Byte) :
    memRead (memWrite m a bs) a bs.length = bs := by
  induction bs generalizing m a with
  | nil => rfl
  | cons b bs ih =>
    show memGet (memWrite (memSet m a b) (a + 1) bs) a :: memRead (memWrite (memSet m a b) (a + 1) bs) (a + 1) bs.length = _
    rw [ih, memGet_memWrite_other _ _ _ (by omega), memGet_memSet_same]

/-- A write of bytes leaves every run of bytes outside it. -/
theorem memRead_memWrite_other (m : Memory) (a : Nat) (bs : List Byte) (x n : Nat) (h : x + n ≤ a ∨ a + bs.length ≤ x) :
    memRead (memWrite m a bs) x n = memRead m x n := by
  induction n generalizing x with
  | zero => rfl
  | succ n ih => simp only [memRead]; rw [memGet_memWrite_other m a bs (by omega), ih _ (by omega)]

/-! ### Bytes of values -/

@[simp] theorem valueBytes_length (n v : Nat) : (valueBytes n v).length = n := by
  induction n generalizing v with
  | zero => rfl
  | succ n ih => simp [valueBytes, ih]

/-- The bytes of a value name it, up to their width (R6). -/
theorem bytesValue_valueBytes (n v : Nat) : bytesValue (valueBytes n v) = v % 256 ^ n := by
  induction n generalizing v with
  | zero => simp [valueBytes, bytesValue, Nat.mod_one]
  | succ n ih =>
    simp only [valueBytes, bytesValue, ih, BitVec.toNat_ofNat]
    rw [show 256 ^ (n + 1) = 256 * 256 ^ n from Nat.pow_succ', Nat.mod_mul]

/-- A doubleword's bytes give it back (R6). -/
@[simp] theorem bytesWord_wordBytes (w : Word) : bytesWord (wordBytes w) = w := by
  unfold bytesWord wordBytes
  have h : w.toNat % 256 ^ 8 = w.toNat := by have := w.isLt; omega
  rw [bytesValue_valueBytes, h, BitVec.ofNat_toNat, BitVec.setWidth_eq]

end Sys2Proof.Machine
end

