-- ==== Sys2Proof/Laws/State.lean ====
section
/-!
SUPPORT. The fields of the state and of a crew under the shared updates: one equation for each field and each update, so
that no later proof opens a record.
-/
namespace Sys2Proof.Machine

/-! ### A crew replaced -/

@[simp] theorem putCrew_agenda (s : State) (k : Nat) (c : Crew) : (putCrew s k c).agenda = s.agenda := rfl
@[simp] theorem putCrew_cur (s : State) (k : Nat) (c : Crew) : (putCrew s k c).cur = s.cur := rfl
@[simp] theorem putCrew_free (s : State) (k : Nat) (c : Crew) : (putCrew s k c).free = s.free := rfl
@[simp] theorem putCrew_stamp (s : State) (k : Nat) (c : Crew) : (putCrew s k c).stamp = s.stamp := rfl
@[simp] theorem putCrew_balked (s : State) (k : Nat) (c : Crew) : (putCrew s k c).balked = s.balked := rfl
@[simp] theorem putCrew_cores (s : State) (k : Nat) (c : Crew) : (putCrew s k c).cores = s.cores := rfl
@[simp] theorem putCrew_mills (s : State) (k : Nat) (c : Crew) : (putCrew s k c).mills = s.mills := rfl
@[simp] theorem putCrew_code (s : State) (k : Nat) (c : Crew) : (putCrew s k c).code = s.code := rfl
@[simp] theorem putCrew_levels (s : State) (k : Nat) (c : Crew) : (putCrew s k c).levels = s.levels := rfl
@[simp] theorem putCrew_replays (s : State) (k : Nat) (c : Crew) : (putCrew s k c).replays = s.replays := rfl
@[simp] theorem putCrew_intervals (s : State) (k : Nat) (c : Crew) : (putCrew s k c).intervals = s.intervals := rfl
@[simp] theorem putCrew_guards (s : State) (k : Nat) (c : Crew) : (putCrew s k c).guards = s.guards := rfl
@[simp] theorem putCrew_units (s : State) (k : Nat) (c : Crew) : (putCrew s k c).units = s.units := rfl
@[simp] theorem putCrew_nextCrew (s : State) (k : Nat) (c : Crew) : (putCrew s k c).nextCrew = s.nextCrew := rfl
@[simp] theorem putCrew_dispatcher (s : State) (k : Nat) (c : Crew) : (putCrew s k c).dispatcher = s.dispatcher := rfl
@[simp] theorem putCrew_port (s : State) (k : Nat) (c : Crew) : (putCrew s k c).port = s.port := rfl
@[simp] theorem putCrew_fabric (s : State) (k : Nat) (c : Crew) : (putCrew s k c).fabric = s.fabric := rfl
@[simp] theorem putCrew_reeves (s : State) (k : Nat) (c : Crew) : (putCrew s k c).reeves = s.reeves := rfl
@[simp] theorem putCrew_pkg (s : State) (k : Nat) (c : Crew) : (putCrew s k c).pkg = s.pkg := rfl
@[simp] theorem putCrew_tlb (s : State) (k : Nat) (c : Crew) : (putCrew s k c).tlb = s.tlb := rfl
@[simp] theorem putCrew_pointers (s : State) (k : Nat) (c : Crew) : (putCrew s k c).pointers = s.pointers := rfl
@[simp] theorem putCrew_hbm (s : State) (k : Nat) (c : Crew) : (putCrew s k c).hbm = s.hbm := rfl
@[simp] theorem putCrew_crossings (s : State) (k : Nat) (c : Crew) : (putCrew s k c).crossings = s.crossings := rfl
@[simp] theorem putCrew_host (s : State) (k : Nat) (c : Crew) : (putCrew s k c).host = s.host := rfl
@[simp] theorem putCrew_lent (s : State) (k : Nat) (c : Crew) : (putCrew s k c).lent = s.lent := rfl
@[simp] theorem putCrew_eccPoison (s : State) (k : Nat) (c : Crew) : (putCrew s k c).eccPoison = s.eccPoison := rfl
@[simp] theorem putCrew_eccErr (s : State) (k : Nat) (c : Crew) : (putCrew s k c).eccErr = s.eccErr := rfl
@[simp] theorem putCrew_eccStuck (s : State) (k : Nat) (c : Crew) : (putCrew s k c).eccStuck = s.eccStuck := rfl
@[simp] theorem putCrew_ctl (s : State) (k : Nat) (c : Crew) : (putCrew s k c).ctl = s.ctl := rfl
@[simp] theorem putCrew_spad (s : State) (k : Nat) (c : Crew) : (putCrew s k c).spad = s.spad := rfl
@[simp] theorem putCrew_spadStuck (s : State) (k : Nat) (c : Crew) : (putCrew s k c).spadStuck = s.spadStuck := rfl

theorem putCrew_crews (s : State) (k : Nat) (c : Crew) : (putCrew s k c).crews = mapSet s.crews k c := rfl

/-- Of two crews put on one bench the later one stands there. -/
@[simp] theorem putCrew_putCrew (s : State) (k : Nat) (c d : Crew) : putCrew (putCrew s k c) k d = putCrew s k d := by
  simp [putCrew]

/-! ### A core replaced -/

@[simp] theorem putCore_agenda (s : State) (k : Nat) (c : CoreState) : (putCore s k c).agenda = s.agenda := rfl
@[simp] theorem putCore_cur (s : State) (k : Nat) (c : CoreState) : (putCore s k c).cur = s.cur := rfl
@[simp] theorem putCore_free (s : State) (k : Nat) (c : CoreState) : (putCore s k c).free = s.free := rfl
@[simp] theorem putCore_stamp (s : State) (k : Nat) (c : CoreState) : (putCore s k c).stamp = s.stamp := rfl
@[simp] theorem putCore_balked (s : State) (k : Nat) (c : CoreState) : (putCore s k c).balked = s.balked := rfl
@[simp] theorem putCore_crews (s : State) (k : Nat) (c : CoreState) : (putCore s k c).crews = s.crews := rfl
@[simp] theorem putCore_mills (s : State) (k : Nat) (c : CoreState) : (putCore s k c).mills = s.mills := rfl
@[simp] theorem putCore_code (s : State) (k : Nat) (c : CoreState) : (putCore s k c).code = s.code := rfl
@[simp] theorem putCore_levels (s : State) (k : Nat) (c : CoreState) : (putCore s k c).levels = s.levels := rfl
@[simp] theorem putCore_replays (s : State) (k : Nat) (c : CoreState) : (putCore s k c).replays = s.replays := rfl
@[simp] theorem putCore_intervals (s : State) (k : Nat) (c : CoreState) : (putCore s k c).intervals = s.intervals := rfl
@[simp] theorem putCore_guards (s : State) (k : Nat) (c : CoreState) : (putCore s k c).guards = s.guards := rfl
@[simp] theorem putCore_units (s : State) (k : Nat) (c : CoreState) : (putCore s k c).units = s.units := rfl
@[simp] theorem putCore_nextCrew (s : State) (k : Nat) (c : CoreState) : (putCore s k c).nextCrew = s.nextCrew := rfl
@[simp] theorem putCore_dispatcher (s : State) (k : Nat) (c : CoreState) : (putCore s k c).dispatcher = s.dispatcher := rfl
@[simp] theorem putCore_port (s : State) (k : Nat) (c : CoreState) : (putCore s k c).port = s.port := rfl
@[simp] theorem putCore_fabric (s : State) (k : Nat) (c : CoreState) : (putCore s k c).fabric = s.fabric := rfl
@[simp] theorem putCore_reeves (s : State) (k : Nat) (c : CoreState) : (putCore s k c).reeves = s.reeves := rfl
@[simp] theorem putCore_pkg (s : State) (k : Nat) (c : CoreState) : (putCore s k c).pkg = s.pkg := rfl
@[simp] theorem putCore_tlb (s : State) (k : Nat) (c : CoreState) : (putCore s k c).tlb = s.tlb := rfl
@[simp] theorem putCore_pointers (s : State) (k : Nat) (c : CoreState) : (putCore s k c).pointers = s.pointers := rfl
@[simp] theorem putCore_hbm (s : State) (k : Nat) (c : CoreState) : (putCore s k c).hbm = s.hbm := rfl
@[simp] theorem putCore_crossings (s : State) (k : Nat) (c : CoreState) : (putCore s k c).crossings = s.crossings := rfl
@[simp] theorem putCore_host (s : State) (k : Nat) (c : CoreState) : (putCore s k c).host = s.host := rfl
@[simp] theorem putCore_lent (s : State) (k : Nat) (c : CoreState) : (putCore s k c).lent = s.lent := rfl
@[simp] theorem putCore_eccPoison (s : State) (k : Nat) (c : CoreState) : (putCore s k c).eccPoison = s.eccPoison := rfl
@[simp] theorem putCore_eccErr (s : State) (k : Nat) (c : CoreState) : (putCore s k c).eccErr = s.eccErr := rfl
@[simp] theorem putCore_eccStuck (s : State) (k : Nat) (c : CoreState) : (putCore s k c).eccStuck = s.eccStuck := rfl
@[simp] theorem putCore_ctl (s : State) (k : Nat) (c : CoreState) : (putCore s k c).ctl = s.ctl := rfl
@[simp] theorem putCore_spad (s : State) (k : Nat) (c : CoreState) : (putCore s k c).spad = s.spad := rfl
@[simp] theorem putCore_spadStuck (s : State) (k : Nat) (c : CoreState) : (putCore s k c).spadStuck = s.spadStuck := rfl

theorem putCore_cores (s : State) (k : Nat) (c : CoreState) : (putCore s k c).cores = mapSet s.cores k c := rfl

/-! ### A Reeve's registers replaced -/

@[simp] theorem putReeve_agenda (s : State) (cl : Nat) (r : ReeveState) : (putReeve s cl r).agenda = s.agenda := rfl
@[simp] theorem putReeve_cur (s : State) (cl : Nat) (r : ReeveState) : (putReeve s cl r).cur = s.cur := rfl
@[simp] theorem putReeve_free (s : State) (cl : Nat) (r : ReeveState) : (putReeve s cl r).free = s.free := rfl
@[simp] theorem putReeve_stamp (s : State) (cl : Nat) (r : ReeveState) : (putReeve s cl r).stamp = s.stamp := rfl
@[simp] theorem putReeve_balked (s : State) (cl : Nat) (r : ReeveState) : (putReeve s cl r).balked = s.balked := rfl
@[simp] theorem putReeve_crews (s : State) (cl : Nat) (r : ReeveState) : (putReeve s cl r).crews = s.crews := rfl
@[simp] theorem putReeve_cores (s : State) (cl : Nat) (r : ReeveState) : (putReeve s cl r).cores = s.cores := rfl
@[simp] theorem putReeve_mills (s : State) (cl : Nat) (r : ReeveState) : (putReeve s cl r).mills = s.mills := rfl
@[simp] theorem putReeve_code (s : State) (cl : Nat) (r : ReeveState) : (putReeve s cl r).code = s.code := rfl
@[simp] theorem putReeve_levels (s : State) (cl : Nat) (r : ReeveState) : (putReeve s cl r).levels = s.levels := rfl
@[simp] theorem putReeve_replays (s : State) (cl : Nat) (r : ReeveState) : (putReeve s cl r).replays = s.replays := rfl
@[simp] theorem putReeve_intervals (s : State) (cl : Nat) (r : ReeveState) : (putReeve s cl r).intervals = s.intervals := rfl
@[simp] theorem putReeve_guards (s : State) (cl : Nat) (r : ReeveState) : (putReeve s cl r).guards = s.guards := rfl
@[simp] theorem putReeve_units (s : State) (cl : Nat) (r : ReeveState) : (putReeve s cl r).units = s.units := rfl
@[simp] theorem putReeve_nextCrew (s : State) (cl : Nat) (r : ReeveState) : (putReeve s cl r).nextCrew = s.nextCrew := rfl
@[simp] theorem putReeve_dispatcher (s : State) (cl : Nat) (r : ReeveState) : (putReeve s cl r).dispatcher = s.dispatcher := rfl
@[simp] theorem putReeve_port (s : State) (cl : Nat) (r : ReeveState) : (putReeve s cl r).port = s.port := rfl
@[simp] theorem putReeve_fabric (s : State) (cl : Nat) (r : ReeveState) : (putReeve s cl r).fabric = s.fabric := rfl
@[simp] theorem putReeve_pkg (s : State) (cl : Nat) (r : ReeveState) : (putReeve s cl r).pkg = s.pkg := rfl
@[simp] theorem putReeve_tlb (s : State) (cl : Nat) (r : ReeveState) : (putReeve s cl r).tlb = s.tlb := rfl
@[simp] theorem putReeve_pointers (s : State) (cl : Nat) (r : ReeveState) : (putReeve s cl r).pointers = s.pointers := rfl
@[simp] theorem putReeve_hbm (s : State) (cl : Nat) (r : ReeveState) : (putReeve s cl r).hbm = s.hbm := rfl
@[simp] theorem putReeve_crossings (s : State) (cl : Nat) (r : ReeveState) : (putReeve s cl r).crossings = s.crossings := rfl
@[simp] theorem putReeve_host (s : State) (cl : Nat) (r : ReeveState) : (putReeve s cl r).host = s.host := rfl
@[simp] theorem putReeve_lent (s : State) (cl : Nat) (r : ReeveState) : (putReeve s cl r).lent = s.lent := rfl
@[simp] theorem putReeve_eccPoison (s : State) (cl : Nat) (r : ReeveState) : (putReeve s cl r).eccPoison = s.eccPoison := rfl
@[simp] theorem putReeve_eccErr (s : State) (cl : Nat) (r : ReeveState) : (putReeve s cl r).eccErr = s.eccErr := rfl
@[simp] theorem putReeve_eccStuck (s : State) (cl : Nat) (r : ReeveState) : (putReeve s cl r).eccStuck = s.eccStuck := rfl
@[simp] theorem putReeve_ctl (s : State) (cl : Nat) (r : ReeveState) : (putReeve s cl r).ctl = s.ctl := rfl
@[simp] theorem putReeve_spad (s : State) (cl : Nat) (r : ReeveState) : (putReeve s cl r).spad = s.spad := rfl
@[simp] theorem putReeve_spadStuck (s : State) (cl : Nat) (r : ReeveState) : (putReeve s cl r).spadStuck = s.spadStuck := rfl

theorem putReeve_reeves (s : State) (cl : Nat) (r : ReeveState) : (putReeve s cl r).reeves = mapSet s.reeves cl r := rfl

/-! ### A Mill replaced -/

@[simp] theorem putMill_agenda (s : State) (m : Nat) (t : MillState) : (putMill s m t).agenda = s.agenda := rfl
@[simp] theorem putMill_cur (s : State) (m : Nat) (t : MillState) : (putMill s m t).cur = s.cur := rfl
@[simp] theorem putMill_free (s : State) (m : Nat) (t : MillState) : (putMill s m t).free = s.free := rfl
@[simp] theorem putMill_stamp (s : State) (m : Nat) (t : MillState) : (putMill s m t).stamp = s.stamp := rfl
@[simp] theorem putMill_balked (s : State) (m : Nat) (t : MillState) : (putMill s m t).balked = s.balked := rfl
@[simp] theorem putMill_crews (s : State) (m : Nat) (t : MillState) : (putMill s m t).crews = s.crews := rfl
@[simp] theorem putMill_cores (s : State) (m : Nat) (t : MillState) : (putMill s m t).cores = s.cores := rfl
@[simp] theorem putMill_code (s : State) (m : Nat) (t : MillState) : (putMill s m t).code = s.code := rfl
@[simp] theorem putMill_levels (s : State) (m : Nat) (t : MillState) : (putMill s m t).levels = s.levels := rfl
@[simp] theorem putMill_replays (s : State) (m : Nat) (t : MillState) : (putMill s m t).replays = s.replays := rfl
@[simp] theorem putMill_intervals (s : State) (m : Nat) (t : MillState) : (putMill s m t).intervals = s.intervals := rfl
@[simp] theorem putMill_guards (s : State) (m : Nat) (t : MillState) : (putMill s m t).guards = s.guards := rfl
@[simp] theorem putMill_units (s : State) (m : Nat) (t : MillState) : (putMill s m t).units = s.units := rfl
@[simp] theorem putMill_nextCrew (s : State) (m : Nat) (t : MillState) : (putMill s m t).nextCrew = s.nextCrew := rfl
@[simp] theorem putMill_dispatcher (s : State) (m : Nat) (t : MillState) : (putMill s m t).dispatcher = s.dispatcher := rfl
@[simp] theorem putMill_port (s : State) (m : Nat) (t : MillState) : (putMill s m t).port = s.port := rfl
@[simp] theorem putMill_fabric (s : State) (m : Nat) (t : MillState) : (putMill s m t).fabric = s.fabric := rfl
@[simp] theorem putMill_reeves (s : State) (m : Nat) (t : MillState) : (putMill s m t).reeves = s.reeves := rfl
@[simp] theorem putMill_pkg (s : State) (m : Nat) (t : MillState) : (putMill s m t).pkg = s.pkg := rfl
@[simp] theorem putMill_tlb (s : State) (m : Nat) (t : MillState) : (putMill s m t).tlb = s.tlb := rfl
@[simp] theorem putMill_pointers (s : State) (m : Nat) (t : MillState) : (putMill s m t).pointers = s.pointers := rfl
@[simp] theorem putMill_hbm (s : State) (m : Nat) (t : MillState) : (putMill s m t).hbm = s.hbm := rfl
@[simp] theorem putMill_crossings (s : State) (m : Nat) (t : MillState) : (putMill s m t).crossings = s.crossings := rfl
@[simp] theorem putMill_host (s : State) (m : Nat) (t : MillState) : (putMill s m t).host = s.host := rfl
@[simp] theorem putMill_lent (s : State) (m : Nat) (t : MillState) : (putMill s m t).lent = s.lent := rfl
@[simp] theorem putMill_eccPoison (s : State) (m : Nat) (t : MillState) : (putMill s m t).eccPoison = s.eccPoison := rfl
@[simp] theorem putMill_eccErr (s : State) (m : Nat) (t : MillState) : (putMill s m t).eccErr = s.eccErr := rfl
@[simp] theorem putMill_eccStuck (s : State) (m : Nat) (t : MillState) : (putMill s m t).eccStuck = s.eccStuck := rfl
@[simp] theorem putMill_ctl (s : State) (m : Nat) (t : MillState) : (putMill s m t).ctl = s.ctl := rfl
@[simp] theorem putMill_spad (s : State) (m : Nat) (t : MillState) : (putMill s m t).spad = s.spad := rfl
@[simp] theorem putMill_spadStuck (s : State) (m : Nat) (t : MillState) : (putMill s m t).spadStuck = s.spadStuck := rfl

theorem putMill_mills (s : State) (m : Nat) (t : MillState) : (putMill s m t).mills = mapSet s.mills m t := rfl

/-! ### Free values spent -/

@[simp] theorem spend_agenda (s : State) (n : Nat) : (spend s n).agenda = s.agenda := rfl
@[simp] theorem spend_cur (s : State) (n : Nat) : (spend s n).cur = s.cur := rfl
@[simp] theorem spend_stamp (s : State) (n : Nat) : (spend s n).stamp = s.stamp := rfl
@[simp] theorem spend_balked (s : State) (n : Nat) : (spend s n).balked = s.balked := rfl
@[simp] theorem spend_crews (s : State) (n : Nat) : (spend s n).crews = s.crews := rfl
@[simp] theorem spend_cores (s : State) (n : Nat) : (spend s n).cores = s.cores := rfl
@[simp] theorem spend_mills (s : State) (n : Nat) : (spend s n).mills = s.mills := rfl
@[simp] theorem spend_code (s : State) (n : Nat) : (spend s n).code = s.code := rfl
@[simp] theorem spend_levels (s : State) (n : Nat) : (spend s n).levels = s.levels := rfl
@[simp] theorem spend_replays (s : State) (n : Nat) : (spend s n).replays = s.replays := rfl
@[simp] theorem spend_intervals (s : State) (n : Nat) : (spend s n).intervals = s.intervals := rfl
@[simp] theorem spend_guards (s : State) (n : Nat) : (spend s n).guards = s.guards := rfl
@[simp] theorem spend_units (s : State) (n : Nat) : (spend s n).units = s.units := rfl
@[simp] theorem spend_nextCrew (s : State) (n : Nat) : (spend s n).nextCrew = s.nextCrew := rfl
@[simp] theorem spend_dispatcher (s : State) (n : Nat) : (spend s n).dispatcher = s.dispatcher := rfl
@[simp] theorem spend_port (s : State) (n : Nat) : (spend s n).port = s.port := rfl
@[simp] theorem spend_fabric (s : State) (n : Nat) : (spend s n).fabric = s.fabric := rfl
@[simp] theorem spend_reeves (s : State) (n : Nat) : (spend s n).reeves = s.reeves := rfl
@[simp] theorem spend_pkg (s : State) (n : Nat) : (spend s n).pkg = s.pkg := rfl
@[simp] theorem spend_tlb (s : State) (n : Nat) : (spend s n).tlb = s.tlb := rfl
@[simp] theorem spend_pointers (s : State) (n : Nat) : (spend s n).pointers = s.pointers := rfl
@[simp] theorem spend_hbm (s : State) (n : Nat) : (spend s n).hbm = s.hbm := rfl
@[simp] theorem spend_crossings (s : State) (n : Nat) : (spend s n).crossings = s.crossings := rfl
@[simp] theorem spend_host (s : State) (n : Nat) : (spend s n).host = s.host := rfl
@[simp] theorem spend_lent (s : State) (n : Nat) : (spend s n).lent = s.lent := rfl
@[simp] theorem spend_eccPoison (s : State) (n : Nat) : (spend s n).eccPoison = s.eccPoison := rfl
@[simp] theorem spend_eccErr (s : State) (n : Nat) : (spend s n).eccErr = s.eccErr := rfl
@[simp] theorem spend_eccStuck (s : State) (n : Nat) : (spend s n).eccStuck = s.eccStuck := rfl
@[simp] theorem spend_ctl (s : State) (n : Nat) : (spend s n).ctl = s.ctl := rfl
@[simp] theorem spend_spad (s : State) (n : Nat) : (spend s n).spad = s.spad := rfl
@[simp] theorem spend_spadStuck (s : State) (n : Nat) : (spend s n).spadStuck = s.spadStuck := rfl

@[simp] theorem spend_free (s : State) (n : Nat) : (spend s n).free = s.free + n := rfl

/-! ### A fresh number taken -/

@[simp] theorem bump_agenda (s : State) : (bump s).agenda = s.agenda := rfl
@[simp] theorem bump_cur (s : State) : (bump s).cur = s.cur := rfl
@[simp] theorem bump_free (s : State) : (bump s).free = s.free := rfl
@[simp] theorem bump_balked (s : State) : (bump s).balked = s.balked := rfl
@[simp] theorem bump_crews (s : State) : (bump s).crews = s.crews := rfl
@[simp] theorem bump_cores (s : State) : (bump s).cores = s.cores := rfl
@[simp] theorem bump_mills (s : State) : (bump s).mills = s.mills := rfl
@[simp] theorem bump_code (s : State) : (bump s).code = s.code := rfl
@[simp] theorem bump_levels (s : State) : (bump s).levels = s.levels := rfl
@[simp] theorem bump_replays (s : State) : (bump s).replays = s.replays := rfl
@[simp] theorem bump_intervals (s : State) : (bump s).intervals = s.intervals := rfl
@[simp] theorem bump_guards (s : State) : (bump s).guards = s.guards := rfl
@[simp] theorem bump_units (s : State) : (bump s).units = s.units := rfl
@[simp] theorem bump_nextCrew (s : State) : (bump s).nextCrew = s.nextCrew := rfl
@[simp] theorem bump_dispatcher (s : State) : (bump s).dispatcher = s.dispatcher := rfl
@[simp] theorem bump_port (s : State) : (bump s).port = s.port := rfl
@[simp] theorem bump_fabric (s : State) : (bump s).fabric = s.fabric := rfl
@[simp] theorem bump_reeves (s : State) : (bump s).reeves = s.reeves := rfl
@[simp] theorem bump_pkg (s : State) : (bump s).pkg = s.pkg := rfl
@[simp] theorem bump_tlb (s : State) : (bump s).tlb = s.tlb := rfl
@[simp] theorem bump_pointers (s : State) : (bump s).pointers = s.pointers := rfl
@[simp] theorem bump_hbm (s : State) : (bump s).hbm = s.hbm := rfl
@[simp] theorem bump_crossings (s : State) : (bump s).crossings = s.crossings := rfl
@[simp] theorem bump_host (s : State) : (bump s).host = s.host := rfl
@[simp] theorem bump_lent (s : State) : (bump s).lent = s.lent := rfl
@[simp] theorem bump_eccPoison (s : State) : (bump s).eccPoison = s.eccPoison := rfl
@[simp] theorem bump_eccErr (s : State) : (bump s).eccErr = s.eccErr := rfl
@[simp] theorem bump_eccStuck (s : State) : (bump s).eccStuck = s.eccStuck := rfl
@[simp] theorem bump_ctl (s : State) : (bump s).ctl = s.ctl := rfl
@[simp] theorem bump_spad (s : State) : (bump s).spad = s.spad := rfl
@[simp] theorem bump_spadStuck (s : State) : (bump s).spadStuck = s.spadStuck := rfl

@[simp] theorem bump_stamp (s : State) : (bump s).stamp = s.stamp + 1 := rfl

/-! ### Last use applied -/

@[simp] theorem applyFrees_crewId (c : Crew) (l : List (RegFile × Nat × Bool)) : (applyFrees c l).crewId = c.crewId := rfl
@[simp] theorem applyFrees_uid (c : Crew) (l : List (RegFile × Nat × Bool)) : (applyFrees c l).uid = c.uid := rfl
@[simp] theorem applyFrees_member (c : Crew) (l : List (RegFile × Nat × Bool)) : (applyFrees c l).member = c.member := rfl
@[simp] theorem applyFrees_state (c : Crew) (l : List (RegFile × Nat × Bool)) : (applyFrees c l).state = c.state := rfl
@[simp] theorem applyFrees_s (c : Crew) (l : List (RegFile × Nat × Bool)) : (applyFrees c l).s = c.s := rfl
@[simp] theorem applyFrees_v (c : Crew) (l : List (RegFile × Nat × Bool)) : (applyFrees c l).v = c.v := rfl
@[simp] theorem applyFrees_counter (c : Crew) (l : List (RegFile × Nat × Bool)) : (applyFrees c l).counter = c.counter := rfl
@[simp] theorem applyFrees_x (c : Crew) (l : List (RegFile × Nat × Bool)) : (applyFrees c l).x = c.x := rfl
@[simp] theorem applyFrees_xPoison (c : Crew) (l : List (RegFile × Nat × Bool)) : (applyFrees c l).xPoison = c.xPoison := rfl
@[simp] theorem applyFrees_vr (c : Crew) (l : List (RegFile × Nat × Bool)) : (applyFrees c l).vr = c.vr := rfl
@[simp] theorem applyFrees_pr (c : Crew) (l : List (RegFile × Nat × Bool)) : (applyFrees c l).pr = c.pr := rfl
@[simp] theorem applyFrees_pendX (c : Crew) (l : List (RegFile × Nat × Bool)) : (applyFrees c l).pendX = c.pendX := rfl
@[simp] theorem applyFrees_pendV (c : Crew) (l : List (RegFile × Nat × Bool)) : (applyFrees c l).pendV = c.pendV := rfl
@[simp] theorem applyFrees_pendP (c : Crew) (l : List (RegFile × Nat × Bool)) : (applyFrees c l).pendP = c.pendP := rfl
@[simp] theorem applyFrees_dataQ (c : Crew) (l : List (RegFile × Nat × Bool)) : (applyFrees c l).dataQ = c.dataQ := rfl
@[simp] theorem applyFrees_brQ (c : Crew) (l : List (RegFile × Nat × Bool)) : (applyFrees c l).brQ = c.brQ := rfl
@[simp] theorem applyFrees_fflags (c : Crew) (l : List (RegFile × Nat × Bool)) : (applyFrees c l).fflags = c.fflags := rfl
@[simp] theorem applyFrees_frm (c : Crew) (l : List (RegFile × Nat × Bool)) : (applyFrees c l).frm = c.frm := rfl
@[simp] theorem applyFrees_srseed (c : Crew) (l : List (RegFile × Nat × Bool)) : (applyFrees c l).srseed = c.srseed := rfl
@[simp] theorem applyFrees_srstrm (c : Crew) (l : List (RegFile × Nat × Bool)) : (applyFrees c l).srstrm = c.srstrm := rfl
@[simp] theorem applyFrees_srctr (c : Crew) (l : List (RegFile × Nat × Bool)) : (applyFrees c l).srctr = c.srctr := rfl
@[simp] theorem applyFrees_mflags (c : Crew) (l : List (RegFile × Nat × Bool)) : (applyFrees c l).mflags = c.mflags := rfl
@[simp] theorem applyFrees_strict (c : Crew) (l : List (RegFile × Nat × Bool)) : (applyFrees c l).strict = c.strict := rfl
@[simp] theorem applyFrees_trapcause (c : Crew) (l : List (RegFile × Nat × Bool)) : (applyFrees c l).trapcause = c.trapcause := rfl
@[simp] theorem applyFrees_trappc (c : Crew) (l : List (RegFile × Nat × Bool)) : (applyFrees c l).trappc = c.trappc := rfl
@[simp] theorem applyFrees_trapaddr (c : Crew) (l : List (RegFile × Nat × Bool)) : (applyFrees c l).trapaddr = c.trapaddr := rfl
@[simp] theorem applyFrees_lvlsel (c : Crew) (l : List (RegFile × Nat × Bool)) : (applyFrees c l).lvlsel = c.lvlsel := rfl
@[simp] theorem applyFrees_step (c : Crew) (l : List (RegFile × Nat × Bool)) : (applyFrees c l).step = c.step := rfl
@[simp] theorem applyFrees_stepAt (c : Crew) (l : List (RegFile × Nat × Bool)) : (applyFrees c l).stepAt = c.stepAt := rfl
@[simp] theorem applyFrees_csrPend (c : Crew) (l : List (RegFile × Nat × Bool)) : (applyFrees c l).csrPend = c.csrPend := rfl
@[simp] theorem applyFrees_pendF (c : Crew) (l : List (RegFile × Nat × Bool)) : (applyFrees c l).pendF = c.pendF := rfl
@[simp] theorem applyFrees_tdef (c : Crew) (l : List (RegFile × Nat × Bool)) : (applyFrees c l).tdef = c.tdef := rfl
@[simp] theorem applyFrees_circ (c : Crew) (l : List (RegFile × Nat × Bool)) : (applyFrees c l).circ = c.circ := rfl
@[simp] theorem applyFrees_shadow (c : Crew) (l : List (RegFile × Nat × Bool)) : (applyFrees c l).shadow = c.shadow := rfl
@[simp] theorem applyFrees_pattern (c : Crew) (l : List (RegFile × Nat × Bool)) : (applyFrees c l).pattern = c.pattern := rfl
@[simp] theorem applyFrees_plen (c : Crew) (l : List (RegFile × Nat × Bool)) : (applyFrees c l).plen = c.plen := rfl
@[simp] theorem applyFrees_claim (c : Crew) (l : List (RegFile × Nat × Bool)) : (applyFrees c l).claim = c.claim := rfl
@[simp] theorem applyFrees_claimGranted (c : Crew) (l : List (RegFile × Nat × Bool)) : (applyFrees c l).claimGranted = c.claimGranted := rfl
@[simp] theorem applyFrees_gleaner (c : Crew) (l : List (RegFile × Nat × Bool)) : (applyFrees c l).gleaner = c.gleaner := rfl
@[simp] theorem applyFrees_glCmds (c : Crew) (l : List (RegFile × Nat × Bool)) : (applyFrees c l).glCmds = c.glCmds := rfl
@[simp] theorem applyFrees_pipes (c : Crew) (l : List (RegFile × Nat × Bool)) : (applyFrees c l).pipes = c.pipes := rfl
@[simp] theorem applyFrees_log (c : Crew) (l : List (RegFile × Nat × Bool)) : (applyFrees c l).log = c.log := rfl
@[simp] theorem applyFrees_vstores (c : Crew) (l : List (RegFile × Nat × Bool)) : (applyFrees c l).vstores = c.vstores := rfl
@[simp] theorem applyFrees_served (c : Crew) (l : List (RegFile × Nat × Bool)) : (applyFrees c l).served = c.served := rfl
@[simp] theorem applyFrees_released (c : Crew) (l : List (RegFile × Nat × Bool)) : (applyFrees c l).released = c.released := rfl
@[simp] theorem applyFrees_epochS (c : Crew) (l : List (RegFile × Nat × Bool)) : (applyFrees c l).epochS = c.epochS := rfl
@[simp] theorem applyFrees_epochV (c : Crew) (l : List (RegFile × Nat × Bool)) : (applyFrees c l).epochV = c.epochV := rfl
@[simp] theorem applyFrees_late (c : Crew) (l : List (RegFile × Nat × Bool)) : (applyFrees c l).late = c.late := rfl
@[simp] theorem applyFrees_waitValue (c : Crew) (l : List (RegFile × Nat × Bool)) : (applyFrees c l).waitValue = c.waitValue := rfl

/-! ### A stream replaced -/

@[simp] theorem setStream_crewId (c : Crew) (str : Stream) (t : StreamState) : (c.setStream str t).crewId = c.crewId := by cases str <;> rfl
@[simp] theorem setStream_uid (c : Crew) (str : Stream) (t : StreamState) : (c.setStream str t).uid = c.uid := by cases str <;> rfl
@[simp] theorem setStream_member (c : Crew) (str : Stream) (t : StreamState) : (c.setStream str t).member = c.member := by cases str <;> rfl
@[simp] theorem setStream_state (c : Crew) (str : Stream) (t : StreamState) : (c.setStream str t).state = c.state := by cases str <;> rfl
@[simp] theorem setStream_counter (c : Crew) (str : Stream) (t : StreamState) : (c.setStream str t).counter = c.counter := by cases str <;> rfl
@[simp] theorem setStream_x (c : Crew) (str : Stream) (t : StreamState) : (c.setStream str t).x = c.x := by cases str <;> rfl
@[simp] theorem setStream_xPoison (c : Crew) (str : Stream) (t : StreamState) : (c.setStream str t).xPoison = c.xPoison := by cases str <;> rfl
@[simp] theorem setStream_vr (c : Crew) (str : Stream) (t : StreamState) : (c.setStream str t).vr = c.vr := by cases str <;> rfl
@[simp] theorem setStream_pr (c : Crew) (str : Stream) (t : StreamState) : (c.setStream str t).pr = c.pr := by cases str <;> rfl
@[simp] theorem setStream_freed (c : Crew) (str : Stream) (t : StreamState) : (c.setStream str t).freed = c.freed := by cases str <;> rfl
@[simp] theorem setStream_pendX (c : Crew) (str : Stream) (t : StreamState) : (c.setStream str t).pendX = c.pendX := by cases str <;> rfl
@[simp] theorem setStream_pendV (c : Crew) (str : Stream) (t : StreamState) : (c.setStream str t).pendV = c.pendV := by cases str <;> rfl
@[simp] theorem setStream_pendP (c : Crew) (str : Stream) (t : StreamState) : (c.setStream str t).pendP = c.pendP := by cases str <;> rfl
@[simp] theorem setStream_dataQ (c : Crew) (str : Stream) (t : StreamState) : (c.setStream str t).dataQ = c.dataQ := by cases str <;> rfl
@[simp] theorem setStream_brQ (c : Crew) (str : Stream) (t : StreamState) : (c.setStream str t).brQ = c.brQ := by cases str <;> rfl
@[simp] theorem setStream_fflags (c : Crew) (str : Stream) (t : StreamState) : (c.setStream str t).fflags = c.fflags := by cases str <;> rfl
@[simp] theorem setStream_frm (c : Crew) (str : Stream) (t : StreamState) : (c.setStream str t).frm = c.frm := by cases str <;> rfl
@[simp] theorem setStream_srseed (c : Crew) (str : Stream) (t : StreamState) : (c.setStream str t).srseed = c.srseed := by cases str <;> rfl
@[simp] theorem setStream_srstrm (c : Crew) (str : Stream) (t : StreamState) : (c.setStream str t).srstrm = c.srstrm := by cases str <;> rfl
@[simp] theorem setStream_srctr (c : Crew) (str : Stream) (t : StreamState) : (c.setStream str t).srctr = c.srctr := by cases str <;> rfl
@[simp] theorem setStream_mflags (c : Crew) (str : Stream) (t : StreamState) : (c.setStream str t).mflags = c.mflags := by cases str <;> rfl
@[simp] theorem setStream_strict (c : Crew) (str : Stream) (t : StreamState) : (c.setStream str t).strict = c.strict := by cases str <;> rfl
@[simp] theorem setStream_trapcause (c : Crew) (str : Stream) (t : StreamState) : (c.setStream str t).trapcause = c.trapcause := by cases str <;> rfl
@[simp] theorem setStream_trappc (c : Crew) (str : Stream) (t : StreamState) : (c.setStream str t).trappc = c.trappc := by cases str <;> rfl
@[simp] theorem setStream_trapaddr (c : Crew) (str : Stream) (t : StreamState) : (c.setStream str t).trapaddr = c.trapaddr := by cases str <;> rfl
@[simp] theorem setStream_lvlsel (c : Crew) (str : Stream) (t : StreamState) : (c.setStream str t).lvlsel = c.lvlsel := by cases str <;> rfl
@[simp] theorem setStream_step (c : Crew) (str : Stream) (t : StreamState) : (c.setStream str t).step = c.step := by cases str <;> rfl
@[simp] theorem setStream_stepAt (c : Crew) (str : Stream) (t : StreamState) : (c.setStream str t).stepAt = c.stepAt := by cases str <;> rfl
@[simp] theorem setStream_csrPend (c : Crew) (str : Stream) (t : StreamState) : (c.setStream str t).csrPend = c.csrPend := by cases str <;> rfl
@[simp] theorem setStream_pendF (c : Crew) (str : Stream) (t : StreamState) : (c.setStream str t).pendF = c.pendF := by cases str <;> rfl
@[simp] theorem setStream_tdef (c : Crew) (str : Stream) (t : StreamState) : (c.setStream str t).tdef = c.tdef := by cases str <;> rfl
@[simp] theorem setStream_circ (c : Crew) (str : Stream) (t : StreamState) : (c.setStream str t).circ = c.circ := by cases str <;> rfl
@[simp] theorem setStream_shadow (c : Crew) (str : Stream) (t : StreamState) : (c.setStream str t).shadow = c.shadow := by cases str <;> rfl
@[simp] theorem setStream_pattern (c : Crew) (str : Stream) (t : StreamState) : (c.setStream str t).pattern = c.pattern := by cases str <;> rfl
@[simp] theorem setStream_plen (c : Crew) (str : Stream) (t : StreamState) : (c.setStream str t).plen = c.plen := by cases str <;> rfl
@[simp] theorem setStream_claim (c : Crew) (str : Stream) (t : StreamState) : (c.setStream str t).claim = c.claim := by cases str <;> rfl
@[simp] theorem setStream_claimGranted (c : Crew) (str : Stream) (t : StreamState) : (c.setStream str t).claimGranted = c.claimGranted := by cases str <;> rfl
@[simp] theorem setStream_gleaner (c : Crew) (str : Stream) (t : StreamState) : (c.setStream str t).gleaner = c.gleaner := by cases str <;> rfl
@[simp] theorem setStream_glCmds (c : Crew) (str : Stream) (t : StreamState) : (c.setStream str t).glCmds = c.glCmds := by cases str <;> rfl
@[simp] theorem setStream_pipes (c : Crew) (str : Stream) (t : StreamState) : (c.setStream str t).pipes = c.pipes := by cases str <;> rfl
@[simp] theorem setStream_log (c : Crew) (str : Stream) (t : StreamState) : (c.setStream str t).log = c.log := by cases str <;> rfl
@[simp] theorem setStream_vstores (c : Crew) (str : Stream) (t : StreamState) : (c.setStream str t).vstores = c.vstores := by cases str <;> rfl
@[simp] theorem setStream_served (c : Crew) (str : Stream) (t : StreamState) : (c.setStream str t).served = c.served := by cases str <;> rfl
@[simp] theorem setStream_released (c : Crew) (str : Stream) (t : StreamState) : (c.setStream str t).released = c.released := by cases str <;> rfl
@[simp] theorem setStream_epochS (c : Crew) (str : Stream) (t : StreamState) : (c.setStream str t).epochS = c.epochS := by cases str <;> rfl
@[simp] theorem setStream_epochV (c : Crew) (str : Stream) (t : StreamState) : (c.setStream str t).epochV = c.epochV := by cases str <;> rfl
@[simp] theorem setStream_late (c : Crew) (str : Stream) (t : StreamState) : (c.setStream str t).late = c.late := by cases str <;> rfl
@[simp] theorem setStream_waitValue (c : Crew) (str : Stream) (t : StreamState) : (c.setStream str t).waitValue = c.waitValue := by cases str <;> rfl

@[simp] theorem setStream_stream (c : Crew) (str : Stream) (t : StreamState) : (c.setStream str t).stream str = t := by
  cases str <;> rfl
/-- The other stream stays as it was. -/
theorem setStream_other (c : Crew) {a b : Stream} (t : StreamState) (h : b ≠ a) : (c.setStream a t).stream b = c.stream b := by
  cases a <;> cases b <;> first | rfl | exact absurd rfl h

/-! ### A word completed -/

@[simp] theorem complete_crewId (c : Crew) (str : Stream) (pc : Word) (l : List Loop) : (complete c str pc l).crewId = c.crewId := by unfold complete; dsimp only; split <;> cases str <;> rfl
@[simp] theorem complete_uid (c : Crew) (str : Stream) (pc : Word) (l : List Loop) : (complete c str pc l).uid = c.uid := by unfold complete; dsimp only; split <;> cases str <;> rfl
@[simp] theorem complete_member (c : Crew) (str : Stream) (pc : Word) (l : List Loop) : (complete c str pc l).member = c.member := by unfold complete; dsimp only; split <;> cases str <;> rfl
@[simp] theorem complete_state (c : Crew) (str : Stream) (pc : Word) (l : List Loop) : (complete c str pc l).state = c.state := by unfold complete; dsimp only; split <;> cases str <;> rfl
@[simp] theorem complete_counter (c : Crew) (str : Stream) (pc : Word) (l : List Loop) : (complete c str pc l).counter = c.counter := by unfold complete; dsimp only; split <;> cases str <;> rfl
@[simp] theorem complete_x (c : Crew) (str : Stream) (pc : Word) (l : List Loop) : (complete c str pc l).x = c.x := by unfold complete; dsimp only; split <;> cases str <;> rfl
@[simp] theorem complete_xPoison (c : Crew) (str : Stream) (pc : Word) (l : List Loop) : (complete c str pc l).xPoison = c.xPoison := by unfold complete; dsimp only; split <;> cases str <;> rfl
@[simp] theorem complete_vr (c : Crew) (str : Stream) (pc : Word) (l : List Loop) : (complete c str pc l).vr = c.vr := by unfold complete; dsimp only; split <;> cases str <;> rfl
@[simp] theorem complete_pr (c : Crew) (str : Stream) (pc : Word) (l : List Loop) : (complete c str pc l).pr = c.pr := by unfold complete; dsimp only; split <;> cases str <;> rfl
@[simp] theorem complete_freed (c : Crew) (str : Stream) (pc : Word) (l : List Loop) : (complete c str pc l).freed = c.freed := by unfold complete; dsimp only; split <;> cases str <;> rfl
@[simp] theorem complete_pendX (c : Crew) (str : Stream) (pc : Word) (l : List Loop) : (complete c str pc l).pendX = c.pendX := by unfold complete; dsimp only; split <;> cases str <;> rfl
@[simp] theorem complete_pendV (c : Crew) (str : Stream) (pc : Word) (l : List Loop) : (complete c str pc l).pendV = c.pendV := by unfold complete; dsimp only; split <;> cases str <;> rfl
@[simp] theorem complete_pendP (c : Crew) (str : Stream) (pc : Word) (l : List Loop) : (complete c str pc l).pendP = c.pendP := by unfold complete; dsimp only; split <;> cases str <;> rfl
@[simp] theorem complete_dataQ (c : Crew) (str : Stream) (pc : Word) (l : List Loop) : (complete c str pc l).dataQ = c.dataQ := by unfold complete; dsimp only; split <;> cases str <;> rfl
@[simp] theorem complete_brQ (c : Crew) (str : Stream) (pc : Word) (l : List Loop) : (complete c str pc l).brQ = c.brQ := by unfold complete; dsimp only; split <;> cases str <;> rfl
@[simp] theorem complete_fflags (c : Crew) (str : Stream) (pc : Word) (l : List Loop) : (complete c str pc l).fflags = c.fflags := by unfold complete; dsimp only; split <;> cases str <;> rfl
@[simp] theorem complete_frm (c : Crew) (str : Stream) (pc : Word) (l : List Loop) : (complete c str pc l).frm = c.frm := by unfold complete; dsimp only; split <;> cases str <;> rfl
@[simp] theorem complete_srseed (c : Crew) (str : Stream) (pc : Word) (l : List Loop) : (complete c str pc l).srseed = c.srseed := by unfold complete; dsimp only; split <;> cases str <;> rfl
@[simp] theorem complete_srstrm (c : Crew) (str : Stream) (pc : Word) (l : List Loop) : (complete c str pc l).srstrm = c.srstrm := by unfold complete; dsimp only; split <;> cases str <;> rfl
@[simp] theorem complete_srctr (c : Crew) (str : Stream) (pc : Word) (l : List Loop) : (complete c str pc l).srctr = c.srctr := by unfold complete; dsimp only; split <;> cases str <;> rfl
@[simp] theorem complete_mflags (c : Crew) (str : Stream) (pc : Word) (l : List Loop) : (complete c str pc l).mflags = c.mflags := by unfold complete; dsimp only; split <;> cases str <;> rfl
@[simp] theorem complete_strict (c : Crew) (str : Stream) (pc : Word) (l : List Loop) : (complete c str pc l).strict = c.strict := by unfold complete; dsimp only; split <;> cases str <;> rfl
@[simp] theorem complete_trapcause (c : Crew) (str : Stream) (pc : Word) (l : List Loop) : (complete c str pc l).trapcause = c.trapcause := by unfold complete; dsimp only; split <;> cases str <;> rfl
@[simp] theorem complete_trappc (c : Crew) (str : Stream) (pc : Word) (l : List Loop) : (complete c str pc l).trappc = c.trappc := by unfold complete; dsimp only; split <;> cases str <;> rfl
@[simp] theorem complete_trapaddr (c : Crew) (str : Stream) (pc : Word) (l : List Loop) : (complete c str pc l).trapaddr = c.trapaddr := by unfold complete; dsimp only; split <;> cases str <;> rfl
@[simp] theorem complete_lvlsel (c : Crew) (str : Stream) (pc : Word) (l : List Loop) : (complete c str pc l).lvlsel = c.lvlsel := by unfold complete; dsimp only; split <;> cases str <;> rfl
@[simp] theorem complete_step (c : Crew) (str : Stream) (pc : Word) (l : List Loop) : (complete c str pc l).step = c.step := by unfold complete; dsimp only; split <;> cases str <;> rfl
@[simp] theorem complete_csrPend (c : Crew) (str : Stream) (pc : Word) (l : List Loop) : (complete c str pc l).csrPend = c.csrPend := by unfold complete; dsimp only; split <;> cases str <;> rfl
@[simp] theorem complete_pendF (c : Crew) (str : Stream) (pc : Word) (l : List Loop) : (complete c str pc l).pendF = c.pendF := by unfold complete; dsimp only; split <;> cases str <;> rfl
@[simp] theorem complete_tdef (c : Crew) (str : Stream) (pc : Word) (l : List Loop) : (complete c str pc l).tdef = c.tdef := by unfold complete; dsimp only; split <;> cases str <;> rfl
@[simp] theorem complete_circ (c : Crew) (str : Stream) (pc : Word) (l : List Loop) : (complete c str pc l).circ = c.circ := by unfold complete; dsimp only; split <;> cases str <;> rfl
@[simp] theorem complete_shadow (c : Crew) (str : Stream) (pc : Word) (l : List Loop) : (complete c str pc l).shadow = c.shadow := by unfold complete; dsimp only; split <;> cases str <;> rfl
@[simp] theorem complete_pattern (c : Crew) (str : Stream) (pc : Word) (l : List Loop) : (complete c str pc l).pattern = c.pattern := by unfold complete; dsimp only; split <;> cases str <;> rfl
@[simp] theorem complete_plen (c : Crew) (str : Stream) (pc : Word) (l : List Loop) : (complete c str pc l).plen = c.plen := by unfold complete; dsimp only; split <;> cases str <;> rfl
@[simp] theorem complete_claim (c : Crew) (str : Stream) (pc : Word) (l : List Loop) : (complete c str pc l).claim = c.claim := by unfold complete; dsimp only; split <;> cases str <;> rfl
@[simp] theorem complete_claimGranted (c : Crew) (str : Stream) (pc : Word) (l : List Loop) : (complete c str pc l).claimGranted = c.claimGranted := by unfold complete; dsimp only; split <;> cases str <;> rfl
@[simp] theorem complete_gleaner (c : Crew) (str : Stream) (pc : Word) (l : List Loop) : (complete c str pc l).gleaner = c.gleaner := by unfold complete; dsimp only; split <;> cases str <;> rfl
@[simp] theorem complete_glCmds (c : Crew) (str : Stream) (pc : Word) (l : List Loop) : (complete c str pc l).glCmds = c.glCmds := by unfold complete; dsimp only; split <;> cases str <;> rfl
@[simp] theorem complete_pipes (c : Crew) (str : Stream) (pc : Word) (l : List Loop) : (complete c str pc l).pipes = c.pipes := by unfold complete; dsimp only; split <;> cases str <;> rfl
@[simp] theorem complete_log (c : Crew) (str : Stream) (pc : Word) (l : List Loop) : (complete c str pc l).log = c.log := by unfold complete; dsimp only; split <;> cases str <;> rfl
@[simp] theorem complete_vstores (c : Crew) (str : Stream) (pc : Word) (l : List Loop) : (complete c str pc l).vstores = c.vstores := by unfold complete; dsimp only; split <;> cases str <;> rfl
@[simp] theorem complete_served (c : Crew) (str : Stream) (pc : Word) (l : List Loop) : (complete c str pc l).served = c.served := by unfold complete; dsimp only; split <;> cases str <;> rfl
@[simp] theorem complete_released (c : Crew) (str : Stream) (pc : Word) (l : List Loop) : (complete c str pc l).released = c.released := by unfold complete; dsimp only; split <;> cases str <;> rfl
@[simp] theorem complete_epochS (c : Crew) (str : Stream) (pc : Word) (l : List Loop) : (complete c str pc l).epochS = c.epochS := by unfold complete; dsimp only; split <;> cases str <;> rfl
@[simp] theorem complete_epochV (c : Crew) (str : Stream) (pc : Word) (l : List Loop) : (complete c str pc l).epochV = c.epochV := by unfold complete; dsimp only; split <;> cases str <;> rfl
@[simp] theorem complete_late (c : Crew) (str : Stream) (pc : Word) (l : List Loop) : (complete c str pc l).late = c.late := by unfold complete; dsimp only; split <;> cases str <;> rfl
@[simp] theorem complete_waitValue (c : Crew) (str : Stream) (pc : Word) (l : List Loop) : (complete c str pc l).waitValue = c.waitValue := by unfold complete; dsimp only; split <;> cases str <;> rfl

@[simp] theorem complete_stream (c : Crew) (str : Stream) (pc : Word) (l : List Loop) :
    (complete c str pc l).stream str =
      { c.stream str with pc := pc, last := some c.counter, fetched := none, loops := l } := by
  unfold complete; dsimp only; split <;> cases str <;> rfl

/-! ### A scalar write issued -/

@[simp] theorem pendX_crewId (c : Crew) (str : Stream) (r : BitVec 6) (v : Word) (p : Bool) (b : Nat) : (pendX c str r v p b).crewId = c.crewId := by unfold pendX; split <;> rfl
@[simp] theorem pendX_uid (c : Crew) (str : Stream) (r : BitVec 6) (v : Word) (p : Bool) (b : Nat) : (pendX c str r v p b).uid = c.uid := by unfold pendX; split <;> rfl
@[simp] theorem pendX_member (c : Crew) (str : Stream) (r : BitVec 6) (v : Word) (p : Bool) (b : Nat) : (pendX c str r v p b).member = c.member := by unfold pendX; split <;> rfl
@[simp] theorem pendX_state (c : Crew) (str : Stream) (r : BitVec 6) (v : Word) (p : Bool) (b : Nat) : (pendX c str r v p b).state = c.state := by unfold pendX; split <;> rfl
@[simp] theorem pendX_s (c : Crew) (str : Stream) (r : BitVec 6) (v : Word) (p : Bool) (b : Nat) : (pendX c str r v p b).s = c.s := by unfold pendX; split <;> rfl
@[simp] theorem pendX_v (c : Crew) (str : Stream) (r : BitVec 6) (v : Word) (p : Bool) (b : Nat) : (pendX c str r v p b).v = c.v := by unfold pendX; split <;> rfl
@[simp] theorem pendX_counter (c : Crew) (str : Stream) (r : BitVec 6) (v : Word) (p : Bool) (b : Nat) : (pendX c str r v p b).counter = c.counter := by unfold pendX; split <;> rfl
@[simp] theorem pendX_x (c : Crew) (str : Stream) (r : BitVec 6) (v : Word) (p : Bool) (b : Nat) : (pendX c str r v p b).x = c.x := by unfold pendX; split <;> rfl
@[simp] theorem pendX_xPoison (c : Crew) (str : Stream) (r : BitVec 6) (v : Word) (p : Bool) (b : Nat) : (pendX c str r v p b).xPoison = c.xPoison := by unfold pendX; split <;> rfl
@[simp] theorem pendX_vr (c : Crew) (str : Stream) (r : BitVec 6) (v : Word) (p : Bool) (b : Nat) : (pendX c str r v p b).vr = c.vr := by unfold pendX; split <;> rfl
@[simp] theorem pendX_pr (c : Crew) (str : Stream) (r : BitVec 6) (v : Word) (p : Bool) (b : Nat) : (pendX c str r v p b).pr = c.pr := by unfold pendX; split <;> rfl
@[simp] theorem pendX_freed (c : Crew) (str : Stream) (r : BitVec 6) (v : Word) (p : Bool) (b : Nat) : (pendX c str r v p b).freed = c.freed := by unfold pendX; split <;> rfl
@[simp] theorem pendX_pendV (c : Crew) (str : Stream) (r : BitVec 6) (v : Word) (p : Bool) (b : Nat) : (pendX c str r v p b).pendV = c.pendV := by unfold pendX; split <;> rfl
@[simp] theorem pendX_pendP (c : Crew) (str : Stream) (r : BitVec 6) (v : Word) (p : Bool) (b : Nat) : (pendX c str r v p b).pendP = c.pendP := by unfold pendX; split <;> rfl
@[simp] theorem pendX_dataQ (c : Crew) (str : Stream) (r : BitVec 6) (v : Word) (p : Bool) (b : Nat) : (pendX c str r v p b).dataQ = c.dataQ := by unfold pendX; split <;> rfl
@[simp] theorem pendX_brQ (c : Crew) (str : Stream) (r : BitVec 6) (v : Word) (p : Bool) (b : Nat) : (pendX c str r v p b).brQ = c.brQ := by unfold pendX; split <;> rfl
@[simp] theorem pendX_fflags (c : Crew) (str : Stream) (r : BitVec 6) (v : Word) (p : Bool) (b : Nat) : (pendX c str r v p b).fflags = c.fflags := by unfold pendX; split <;> rfl
@[simp] theorem pendX_frm (c : Crew) (str : Stream) (r : BitVec 6) (v : Word) (p : Bool) (b : Nat) : (pendX c str r v p b).frm = c.frm := by unfold pendX; split <;> rfl
@[simp] theorem pendX_srseed (c : Crew) (str : Stream) (r : BitVec 6) (v : Word) (p : Bool) (b : Nat) : (pendX c str r v p b).srseed = c.srseed := by unfold pendX; split <;> rfl
@[simp] theorem pendX_srstrm (c : Crew) (str : Stream) (r : BitVec 6) (v : Word) (p : Bool) (b : Nat) : (pendX c str r v p b).srstrm = c.srstrm := by unfold pendX; split <;> rfl
@[simp] theorem pendX_srctr (c : Crew) (str : Stream) (r : BitVec 6) (v : Word) (p : Bool) (b : Nat) : (pendX c str r v p b).srctr = c.srctr := by unfold pendX; split <;> rfl
@[simp] theorem pendX_mflags (c : Crew) (str : Stream) (r : BitVec 6) (v : Word) (p : Bool) (b : Nat) : (pendX c str r v p b).mflags = c.mflags := by unfold pendX; split <;> rfl
@[simp] theorem pendX_strict (c : Crew) (str : Stream) (r : BitVec 6) (v : Word) (p : Bool) (b : Nat) : (pendX c str r v p b).strict = c.strict := by unfold pendX; split <;> rfl
@[simp] theorem pendX_trapcause (c : Crew) (str : Stream) (r : BitVec 6) (v : Word) (p : Bool) (b : Nat) : (pendX c str r v p b).trapcause = c.trapcause := by unfold pendX; split <;> rfl
@[simp] theorem pendX_trappc (c : Crew) (str : Stream) (r : BitVec 6) (v : Word) (p : Bool) (b : Nat) : (pendX c str r v p b).trappc = c.trappc := by unfold pendX; split <;> rfl
@[simp] theorem pendX_trapaddr (c : Crew) (str : Stream) (r : BitVec 6) (v : Word) (p : Bool) (b : Nat) : (pendX c str r v p b).trapaddr = c.trapaddr := by unfold pendX; split <;> rfl
@[simp] theorem pendX_lvlsel (c : Crew) (str : Stream) (r : BitVec 6) (v : Word) (p : Bool) (b : Nat) : (pendX c str r v p b).lvlsel = c.lvlsel := by unfold pendX; split <;> rfl
@[simp] theorem pendX_step (c : Crew) (str : Stream) (r : BitVec 6) (v : Word) (p : Bool) (b : Nat) : (pendX c str r v p b).step = c.step := by unfold pendX; split <;> rfl
@[simp] theorem pendX_stepAt (c : Crew) (str : Stream) (r : BitVec 6) (v : Word) (p : Bool) (b : Nat) : (pendX c str r v p b).stepAt = c.stepAt := by unfold pendX; split <;> rfl
@[simp] theorem pendX_csrPend (c : Crew) (str : Stream) (r : BitVec 6) (v : Word) (p : Bool) (b : Nat) : (pendX c str r v p b).csrPend = c.csrPend := by unfold pendX; split <;> rfl
@[simp] theorem pendX_pendF (c : Crew) (str : Stream) (r : BitVec 6) (v : Word) (p : Bool) (b : Nat) : (pendX c str r v p b).pendF = c.pendF := by unfold pendX; split <;> rfl
@[simp] theorem pendX_tdef (c : Crew) (str : Stream) (r : BitVec 6) (v : Word) (p : Bool) (b : Nat) : (pendX c str r v p b).tdef = c.tdef := by unfold pendX; split <;> rfl
@[simp] theorem pendX_circ (c : Crew) (str : Stream) (r : BitVec 6) (v : Word) (p : Bool) (b : Nat) : (pendX c str r v p b).circ = c.circ := by unfold pendX; split <;> rfl
@[simp] theorem pendX_shadow (c : Crew) (str : Stream) (r : BitVec 6) (v : Word) (p : Bool) (b : Nat) : (pendX c str r v p b).shadow = c.shadow := by unfold pendX; split <;> rfl
@[simp] theorem pendX_pattern (c : Crew) (str : Stream) (r : BitVec 6) (v : Word) (p : Bool) (b : Nat) : (pendX c str r v p b).pattern = c.pattern := by unfold pendX; split <;> rfl
@[simp] theorem pendX_plen (c : Crew) (str : Stream) (r : BitVec 6) (v : Word) (p : Bool) (b : Nat) : (pendX c str r v p b).plen = c.plen := by unfold pendX; split <;> rfl
@[simp] theorem pendX_claim (c : Crew) (str : Stream) (r : BitVec 6) (v : Word) (p : Bool) (b : Nat) : (pendX c str r v p b).claim = c.claim := by unfold pendX; split <;> rfl
@[simp] theorem pendX_claimGranted (c : Crew) (str : Stream) (r : BitVec 6) (v : Word) (p : Bool) (b : Nat) : (pendX c str r v p b).claimGranted = c.claimGranted := by unfold pendX; split <;> rfl
@[simp] theorem pendX_gleaner (c : Crew) (str : Stream) (r : BitVec 6) (v : Word) (p : Bool) (b : Nat) : (pendX c str r v p b).gleaner = c.gleaner := by unfold pendX; split <;> rfl
@[simp] theorem pendX_glCmds (c : Crew) (str : Stream) (r : BitVec 6) (v : Word) (p : Bool) (b : Nat) : (pendX c str r v p b).glCmds = c.glCmds := by unfold pendX; split <;> rfl
@[simp] theorem pendX_pipes (c : Crew) (str : Stream) (r : BitVec 6) (v : Word) (p : Bool) (b : Nat) : (pendX c str r v p b).pipes = c.pipes := by unfold pendX; split <;> rfl
@[simp] theorem pendX_log (c : Crew) (str : Stream) (r : BitVec 6) (v : Word) (p : Bool) (b : Nat) : (pendX c str r v p b).log = c.log := by unfold pendX; split <;> rfl
@[simp] theorem pendX_vstores (c : Crew) (str : Stream) (r : BitVec 6) (v : Word) (p : Bool) (b : Nat) : (pendX c str r v p b).vstores = c.vstores := by unfold pendX; split <;> rfl
@[simp] theorem pendX_served (c : Crew) (str : Stream) (r : BitVec 6) (v : Word) (p : Bool) (b : Nat) : (pendX c str r v p b).served = c.served := by unfold pendX; split <;> rfl
@[simp] theorem pendX_released (c : Crew) (str : Stream) (r : BitVec 6) (v : Word) (p : Bool) (b : Nat) : (pendX c str r v p b).released = c.released := by unfold pendX; split <;> rfl
@[simp] theorem pendX_epochS (c : Crew) (str : Stream) (r : BitVec 6) (v : Word) (p : Bool) (b : Nat) : (pendX c str r v p b).epochS = c.epochS := by unfold pendX; split <;> rfl
@[simp] theorem pendX_epochV (c : Crew) (str : Stream) (r : BitVec 6) (v : Word) (p : Bool) (b : Nat) : (pendX c str r v p b).epochV = c.epochV := by unfold pendX; split <;> rfl
@[simp] theorem pendX_late (c : Crew) (str : Stream) (r : BitVec 6) (v : Word) (p : Bool) (b : Nat) : (pendX c str r v p b).late = c.late := by unfold pendX; split <;> rfl
@[simp] theorem pendX_waitValue (c : Crew) (str : Stream) (r : BitVec 6) (v : Word) (p : Bool) (b : Nat) : (pendX c str r v p b).waitValue = c.waitValue := by unfold pendX; split <;> rfl

@[simp] theorem pendX_stream (c : Crew) (a : Stream) (r : BitVec 6) (v : Word) (p : Bool) (b : Nat) (t : Stream) :
    (pendX c a r v p b).stream t = c.stream t := by cases t <;> simp [Crew.stream]
/-- A write to x0 is discarded (R91). -/
@[simp] theorem pendX_zero (c : Crew) (a : Stream) (v : Word) (p : Bool) (b : Nat) : pendX c a 0 v p b = c := rfl

/-! ### A vector write issued -/

@[simp] theorem pendV_crewId (c : Crew) (r : Nat) (m v : VecReg) (b : Nat) : (pendV c r m v b).crewId = c.crewId := rfl
@[simp] theorem pendV_uid (c : Crew) (r : Nat) (m v : VecReg) (b : Nat) : (pendV c r m v b).uid = c.uid := rfl
@[simp] theorem pendV_member (c : Crew) (r : Nat) (m v : VecReg) (b : Nat) : (pendV c r m v b).member = c.member := rfl
@[simp] theorem pendV_state (c : Crew) (r : Nat) (m v : VecReg) (b : Nat) : (pendV c r m v b).state = c.state := rfl
@[simp] theorem pendV_s (c : Crew) (r : Nat) (m v : VecReg) (b : Nat) : (pendV c r m v b).s = c.s := rfl
@[simp] theorem pendV_v (c : Crew) (r : Nat) (m v : VecReg) (b : Nat) : (pendV c r m v b).v = c.v := rfl
@[simp] theorem pendV_counter (c : Crew) (r : Nat) (m v : VecReg) (b : Nat) : (pendV c r m v b).counter = c.counter := rfl
@[simp] theorem pendV_x (c : Crew) (r : Nat) (m v : VecReg) (b : Nat) : (pendV c r m v b).x = c.x := rfl
@[simp] theorem pendV_xPoison (c : Crew) (r : Nat) (m v : VecReg) (b : Nat) : (pendV c r m v b).xPoison = c.xPoison := rfl
@[simp] theorem pendV_vr (c : Crew) (r : Nat) (m v : VecReg) (b : Nat) : (pendV c r m v b).vr = c.vr := rfl
@[simp] theorem pendV_pr (c : Crew) (r : Nat) (m v : VecReg) (b : Nat) : (pendV c r m v b).pr = c.pr := rfl
@[simp] theorem pendV_freed (c : Crew) (r : Nat) (m v : VecReg) (b : Nat) : (pendV c r m v b).freed = c.freed := rfl
@[simp] theorem pendV_pendX (c : Crew) (r : Nat) (m v : VecReg) (b : Nat) : (pendV c r m v b).pendX = c.pendX := rfl
@[simp] theorem pendV_pendP (c : Crew) (r : Nat) (m v : VecReg) (b : Nat) : (pendV c r m v b).pendP = c.pendP := rfl
@[simp] theorem pendV_dataQ (c : Crew) (r : Nat) (m v : VecReg) (b : Nat) : (pendV c r m v b).dataQ = c.dataQ := rfl
@[simp] theorem pendV_brQ (c : Crew) (r : Nat) (m v : VecReg) (b : Nat) : (pendV c r m v b).brQ = c.brQ := rfl
@[simp] theorem pendV_fflags (c : Crew) (r : Nat) (m v : VecReg) (b : Nat) : (pendV c r m v b).fflags = c.fflags := rfl
@[simp] theorem pendV_frm (c : Crew) (r : Nat) (m v : VecReg) (b : Nat) : (pendV c r m v b).frm = c.frm := rfl
@[simp] theorem pendV_srseed (c : Crew) (r : Nat) (m v : VecReg) (b : Nat) : (pendV c r m v b).srseed = c.srseed := rfl
@[simp] theorem pendV_srstrm (c : Crew) (r : Nat) (m v : VecReg) (b : Nat) : (pendV c r m v b).srstrm = c.srstrm := rfl
@[simp] theorem pendV_srctr (c : Crew) (r : Nat) (m v : VecReg) (b : Nat) : (pendV c r m v b).srctr = c.srctr := rfl
@[simp] theorem pendV_mflags (c : Crew) (r : Nat) (m v : VecReg) (b : Nat) : (pendV c r m v b).mflags = c.mflags := rfl
@[simp] theorem pendV_strict (c : Crew) (r : Nat) (m v : VecReg) (b : Nat) : (pendV c r m v b).strict = c.strict := rfl
@[simp] theorem pendV_trapcause (c : Crew) (r : Nat) (m v : VecReg) (b : Nat) : (pendV c r m v b).trapcause = c.trapcause := rfl
@[simp] theorem pendV_trappc (c : Crew) (r : Nat) (m v : VecReg) (b : Nat) : (pendV c r m v b).trappc = c.trappc := rfl
@[simp] theorem pendV_trapaddr (c : Crew) (r : Nat) (m v : VecReg) (b : Nat) : (pendV c r m v b).trapaddr = c.trapaddr := rfl
@[simp] theorem pendV_lvlsel (c : Crew) (r : Nat) (m v : VecReg) (b : Nat) : (pendV c r m v b).lvlsel = c.lvlsel := rfl
@[simp] theorem pendV_step (c : Crew) (r : Nat) (m v : VecReg) (b : Nat) : (pendV c r m v b).step = c.step := rfl
@[simp] theorem pendV_stepAt (c : Crew) (r : Nat) (m v : VecReg) (b : Nat) : (pendV c r m v b).stepAt = c.stepAt := rfl
@[simp] theorem pendV_csrPend (c : Crew) (r : Nat) (m v : VecReg) (b : Nat) : (pendV c r m v b).csrPend = c.csrPend := rfl
@[simp] theorem pendV_pendF (c : Crew) (r : Nat) (m v : VecReg) (b : Nat) : (pendV c r m v b).pendF = c.pendF := rfl
@[simp] theorem pendV_tdef (c : Crew) (r : Nat) (m v : VecReg) (b : Nat) : (pendV c r m v b).tdef = c.tdef := rfl
@[simp] theorem pendV_circ (c : Crew) (r : Nat) (m v : VecReg) (b : Nat) : (pendV c r m v b).circ = c.circ := rfl
@[simp] theorem pendV_shadow (c : Crew) (r : Nat) (m v : VecReg) (b : Nat) : (pendV c r m v b).shadow = c.shadow := rfl
@[simp] theorem pendV_pattern (c : Crew) (r : Nat) (m v : VecReg) (b : Nat) : (pendV c r m v b).pattern = c.pattern := rfl
@[simp] theorem pendV_plen (c : Crew) (r : Nat) (m v : VecReg) (b : Nat) : (pendV c r m v b).plen = c.plen := rfl
@[simp] theorem pendV_claim (c : Crew) (r : Nat) (m v : VecReg) (b : Nat) : (pendV c r m v b).claim = c.claim := rfl
@[simp] theorem pendV_claimGranted (c : Crew) (r : Nat) (m v : VecReg) (b : Nat) : (pendV c r m v b).claimGranted = c.claimGranted := rfl
@[simp] theorem pendV_gleaner (c : Crew) (r : Nat) (m v : VecReg) (b : Nat) : (pendV c r m v b).gleaner = c.gleaner := rfl
@[simp] theorem pendV_glCmds (c : Crew) (r : Nat) (m v : VecReg) (b : Nat) : (pendV c r m v b).glCmds = c.glCmds := rfl
@[simp] theorem pendV_pipes (c : Crew) (r : Nat) (m v : VecReg) (b : Nat) : (pendV c r m v b).pipes = c.pipes := rfl
@[simp] theorem pendV_log (c : Crew) (r : Nat) (m v : VecReg) (b : Nat) : (pendV c r m v b).log = c.log := rfl
@[simp] theorem pendV_vstores (c : Crew) (r : Nat) (m v : VecReg) (b : Nat) : (pendV c r m v b).vstores = c.vstores := rfl
@[simp] theorem pendV_served (c : Crew) (r : Nat) (m v : VecReg) (b : Nat) : (pendV c r m v b).served = c.served := rfl
@[simp] theorem pendV_released (c : Crew) (r : Nat) (m v : VecReg) (b : Nat) : (pendV c r m v b).released = c.released := rfl
@[simp] theorem pendV_epochS (c : Crew) (r : Nat) (m v : VecReg) (b : Nat) : (pendV c r m v b).epochS = c.epochS := rfl
@[simp] theorem pendV_epochV (c : Crew) (r : Nat) (m v : VecReg) (b : Nat) : (pendV c r m v b).epochV = c.epochV := rfl
@[simp] theorem pendV_late (c : Crew) (r : Nat) (m v : VecReg) (b : Nat) : (pendV c r m v b).late = c.late := rfl
@[simp] theorem pendV_waitValue (c : Crew) (r : Nat) (m v : VecReg) (b : Nat) : (pendV c r m v b).waitValue = c.waitValue := rfl

/-! ### A predicate write issued -/

@[simp] theorem pendP_crewId (c : Crew) (str : Stream) (r : Nat) (m v : PredReg) (b : Nat) : (pendP c str r m v b).crewId = c.crewId := rfl
@[simp] theorem pendP_uid (c : Crew) (str : Stream) (r : Nat) (m v : PredReg) (b : Nat) : (pendP c str r m v b).uid = c.uid := rfl
@[simp] theorem pendP_member (c : Crew) (str : Stream) (r : Nat) (m v : PredReg) (b : Nat) : (pendP c str r m v b).member = c.member := rfl
@[simp] theorem pendP_state (c : Crew) (str : Stream) (r : Nat) (m v : PredReg) (b : Nat) : (pendP c str r m v b).state = c.state := rfl
@[simp] theorem pendP_s (c : Crew) (str : Stream) (r : Nat) (m v : PredReg) (b : Nat) : (pendP c str r m v b).s = c.s := rfl
@[simp] theorem pendP_v (c : Crew) (str : Stream) (r : Nat) (m v : PredReg) (b : Nat) : (pendP c str r m v b).v = c.v := rfl
@[simp] theorem pendP_counter (c : Crew) (str : Stream) (r : Nat) (m v : PredReg) (b : Nat) : (pendP c str r m v b).counter = c.counter := rfl
@[simp] theorem pendP_x (c : Crew) (str : Stream) (r : Nat) (m v : PredReg) (b : Nat) : (pendP c str r m v b).x = c.x := rfl
@[simp] theorem pendP_xPoison (c : Crew) (str : Stream) (r : Nat) (m v : PredReg) (b : Nat) : (pendP c str r m v b).xPoison = c.xPoison := rfl
@[simp] theorem pendP_vr (c : Crew) (str : Stream) (r : Nat) (m v : PredReg) (b : Nat) : (pendP c str r m v b).vr = c.vr := rfl
@[simp] theorem pendP_pr (c : Crew) (str : Stream) (r : Nat) (m v : PredReg) (b : Nat) : (pendP c str r m v b).pr = c.pr := rfl
@[simp] theorem pendP_freed (c : Crew) (str : Stream) (r : Nat) (m v : PredReg) (b : Nat) : (pendP c str r m v b).freed = c.freed := rfl
@[simp] theorem pendP_pendX (c : Crew) (str : Stream) (r : Nat) (m v : PredReg) (b : Nat) : (pendP c str r m v b).pendX = c.pendX := rfl
@[simp] theorem pendP_pendV (c : Crew) (str : Stream) (r : Nat) (m v : PredReg) (b : Nat) : (pendP c str r m v b).pendV = c.pendV := rfl
@[simp] theorem pendP_dataQ (c : Crew) (str : Stream) (r : Nat) (m v : PredReg) (b : Nat) : (pendP c str r m v b).dataQ = c.dataQ := rfl
@[simp] theorem pendP_brQ (c : Crew) (str : Stream) (r : Nat) (m v : PredReg) (b : Nat) : (pendP c str r m v b).brQ = c.brQ := rfl
@[simp] theorem pendP_fflags (c : Crew) (str : Stream) (r : Nat) (m v : PredReg) (b : Nat) : (pendP c str r m v b).fflags = c.fflags := rfl
@[simp] theorem pendP_frm (c : Crew) (str : Stream) (r : Nat) (m v : PredReg) (b : Nat) : (pendP c str r m v b).frm = c.frm := rfl
@[simp] theorem pendP_srseed (c : Crew) (str : Stream) (r : Nat) (m v : PredReg) (b : Nat) : (pendP c str r m v b).srseed = c.srseed := rfl
@[simp] theorem pendP_srstrm (c : Crew) (str : Stream) (r : Nat) (m v : PredReg) (b : Nat) : (pendP c str r m v b).srstrm = c.srstrm := rfl
@[simp] theorem pendP_srctr (c : Crew) (str : Stream) (r : Nat) (m v : PredReg) (b : Nat) : (pendP c str r m v b).srctr = c.srctr := rfl
@[simp] theorem pendP_mflags (c : Crew) (str : Stream) (r : Nat) (m v : PredReg) (b : Nat) : (pendP c str r m v b).mflags = c.mflags := rfl
@[simp] theorem pendP_strict (c : Crew) (str : Stream) (r : Nat) (m v : PredReg) (b : Nat) : (pendP c str r m v b).strict = c.strict := rfl
@[simp] theorem pendP_trapcause (c : Crew) (str : Stream) (r : Nat) (m v : PredReg) (b : Nat) : (pendP c str r m v b).trapcause = c.trapcause := rfl
@[simp] theorem pendP_trappc (c : Crew) (str : Stream) (r : Nat) (m v : PredReg) (b : Nat) : (pendP c str r m v b).trappc = c.trappc := rfl
@[simp] theorem pendP_trapaddr (c : Crew) (str : Stream) (r : Nat) (m v : PredReg) (b : Nat) : (pendP c str r m v b).trapaddr = c.trapaddr := rfl
@[simp] theorem pendP_lvlsel (c : Crew) (str : Stream) (r : Nat) (m v : PredReg) (b : Nat) : (pendP c str r m v b).lvlsel = c.lvlsel := rfl
@[simp] theorem pendP_step (c : Crew) (str : Stream) (r : Nat) (m v : PredReg) (b : Nat) : (pendP c str r m v b).step = c.step := rfl
@[simp] theorem pendP_stepAt (c : Crew) (str : Stream) (r : Nat) (m v : PredReg) (b : Nat) : (pendP c str r m v b).stepAt = c.stepAt := rfl
@[simp] theorem pendP_csrPend (c : Crew) (str : Stream) (r : Nat) (m v : PredReg) (b : Nat) : (pendP c str r m v b).csrPend = c.csrPend := rfl
@[simp] theorem pendP_pendF (c : Crew) (str : Stream) (r : Nat) (m v : PredReg) (b : Nat) : (pendP c str r m v b).pendF = c.pendF := rfl
@[simp] theorem pendP_tdef (c : Crew) (str : Stream) (r : Nat) (m v : PredReg) (b : Nat) : (pendP c str r m v b).tdef = c.tdef := rfl
@[simp] theorem pendP_circ (c : Crew) (str : Stream) (r : Nat) (m v : PredReg) (b : Nat) : (pendP c str r m v b).circ = c.circ := rfl
@[simp] theorem pendP_shadow (c : Crew) (str : Stream) (r : Nat) (m v : PredReg) (b : Nat) : (pendP c str r m v b).shadow = c.shadow := rfl
@[simp] theorem pendP_pattern (c : Crew) (str : Stream) (r : Nat) (m v : PredReg) (b : Nat) : (pendP c str r m v b).pattern = c.pattern := rfl
@[simp] theorem pendP_plen (c : Crew) (str : Stream) (r : Nat) (m v : PredReg) (b : Nat) : (pendP c str r m v b).plen = c.plen := rfl
@[simp] theorem pendP_claim (c : Crew) (str : Stream) (r : Nat) (m v : PredReg) (b : Nat) : (pendP c str r m v b).claim = c.claim := rfl
@[simp] theorem pendP_claimGranted (c : Crew) (str : Stream) (r : Nat) (m v : PredReg) (b : Nat) : (pendP c str r m v b).claimGranted = c.claimGranted := rfl
@[simp] theorem pendP_gleaner (c : Crew) (str : Stream) (r : Nat) (m v : PredReg) (b : Nat) : (pendP c str r m v b).gleaner = c.gleaner := rfl
@[simp] theorem pendP_glCmds (c : Crew) (str : Stream) (r : Nat) (m v : PredReg) (b : Nat) : (pendP c str r m v b).glCmds = c.glCmds := rfl
@[simp] theorem pendP_pipes (c : Crew) (str : Stream) (r : Nat) (m v : PredReg) (b : Nat) : (pendP c str r m v b).pipes = c.pipes := rfl
@[simp] theorem pendP_log (c : Crew) (str : Stream) (r : Nat) (m v : PredReg) (b : Nat) : (pendP c str r m v b).log = c.log := rfl
@[simp] theorem pendP_vstores (c : Crew) (str : Stream) (r : Nat) (m v : PredReg) (b : Nat) : (pendP c str r m v b).vstores = c.vstores := rfl
@[simp] theorem pendP_served (c : Crew) (str : Stream) (r : Nat) (m v : PredReg) (b : Nat) : (pendP c str r m v b).served = c.served := rfl
@[simp] theorem pendP_released (c : Crew) (str : Stream) (r : Nat) (m v : PredReg) (b : Nat) : (pendP c str r m v b).released = c.released := rfl
@[simp] theorem pendP_epochS (c : Crew) (str : Stream) (r : Nat) (m v : PredReg) (b : Nat) : (pendP c str r m v b).epochS = c.epochS := rfl
@[simp] theorem pendP_epochV (c : Crew) (str : Stream) (r : Nat) (m v : PredReg) (b : Nat) : (pendP c str r m v b).epochV = c.epochV := rfl
@[simp] theorem pendP_late (c : Crew) (str : Stream) (r : Nat) (m v : PredReg) (b : Nat) : (pendP c str r m v b).late = c.late := rfl
@[simp] theorem pendP_waitValue (c : Crew) (str : Stream) (r : Nat) (m v : PredReg) (b : Nat) : (pendP c str r m v b).waitValue = c.waitValue := rfl

/-! ### A freed register revived -/

@[simp] theorem revive_crewId (c : Crew) (f : RegFile) (r : Nat) : (revive c f r).crewId = c.crewId := rfl
@[simp] theorem revive_uid (c : Crew) (f : RegFile) (r : Nat) : (revive c f r).uid = c.uid := rfl
@[simp] theorem revive_member (c : Crew) (f : RegFile) (r : Nat) : (revive c f r).member = c.member := rfl
@[simp] theorem revive_state (c : Crew) (f : RegFile) (r : Nat) : (revive c f r).state = c.state := rfl
@[simp] theorem revive_s (c : Crew) (f : RegFile) (r : Nat) : (revive c f r).s = c.s := rfl
@[simp] theorem revive_v (c : Crew) (f : RegFile) (r : Nat) : (revive c f r).v = c.v := rfl
@[simp] theorem revive_counter (c : Crew) (f : RegFile) (r : Nat) : (revive c f r).counter = c.counter := rfl
@[simp] theorem revive_x (c : Crew) (f : RegFile) (r : Nat) : (revive c f r).x = c.x := rfl
@[simp] theorem revive_xPoison (c : Crew) (f : RegFile) (r : Nat) : (revive c f r).xPoison = c.xPoison := rfl
@[simp] theorem revive_vr (c : Crew) (f : RegFile) (r : Nat) : (revive c f r).vr = c.vr := rfl
@[simp] theorem revive_pr (c : Crew) (f : RegFile) (r : Nat) : (revive c f r).pr = c.pr := rfl
@[simp] theorem revive_pendX (c : Crew) (f : RegFile) (r : Nat) : (revive c f r).pendX = c.pendX := rfl
@[simp] theorem revive_pendV (c : Crew) (f : RegFile) (r : Nat) : (revive c f r).pendV = c.pendV := rfl
@[simp] theorem revive_pendP (c : Crew) (f : RegFile) (r : Nat) : (revive c f r).pendP = c.pendP := rfl
@[simp] theorem revive_dataQ (c : Crew) (f : RegFile) (r : Nat) : (revive c f r).dataQ = c.dataQ := rfl
@[simp] theorem revive_brQ (c : Crew) (f : RegFile) (r : Nat) : (revive c f r).brQ = c.brQ := rfl
@[simp] theorem revive_fflags (c : Crew) (f : RegFile) (r : Nat) : (revive c f r).fflags = c.fflags := rfl
@[simp] theorem revive_frm (c : Crew) (f : RegFile) (r : Nat) : (revive c f r).frm = c.frm := rfl
@[simp] theorem revive_srseed (c : Crew) (f : RegFile) (r : Nat) : (revive c f r).srseed = c.srseed := rfl
@[simp] theorem revive_srstrm (c : Crew) (f : RegFile) (r : Nat) : (revive c f r).srstrm = c.srstrm := rfl
@[simp] theorem revive_srctr (c : Crew) (f : RegFile) (r : Nat) : (revive c f r).srctr = c.srctr := rfl
@[simp] theorem revive_mflags (c : Crew) (f : RegFile) (r : Nat) : (revive c f r).mflags = c.mflags := rfl
@[simp] theorem revive_strict (c : Crew) (f : RegFile) (r : Nat) : (revive c f r).strict = c.strict := rfl
@[simp] theorem revive_trapcause (c : Crew) (f : RegFile) (r : Nat) : (revive c f r).trapcause = c.trapcause := rfl
@[simp] theorem revive_trappc (c : Crew) (f : RegFile) (r : Nat) : (revive c f r).trappc = c.trappc := rfl
@[simp] theorem revive_trapaddr (c : Crew) (f : RegFile) (r : Nat) : (revive c f r).trapaddr = c.trapaddr := rfl
@[simp] theorem revive_lvlsel (c : Crew) (f : RegFile) (r : Nat) : (revive c f r).lvlsel = c.lvlsel := rfl
@[simp] theorem revive_step (c : Crew) (f : RegFile) (r : Nat) : (revive c f r).step = c.step := rfl
@[simp] theorem revive_stepAt (c : Crew) (f : RegFile) (r : Nat) : (revive c f r).stepAt = c.stepAt := rfl
@[simp] theorem revive_csrPend (c : Crew) (f : RegFile) (r : Nat) : (revive c f r).csrPend = c.csrPend := rfl
@[simp] theorem revive_pendF (c : Crew) (f : RegFile) (r : Nat) : (revive c f r).pendF = c.pendF := rfl
@[simp] theorem revive_tdef (c : Crew) (f : RegFile) (r : Nat) : (revive c f r).tdef = c.tdef := rfl
@[simp] theorem revive_circ (c : Crew) (f : RegFile) (r : Nat) : (revive c f r).circ = c.circ := rfl
@[simp] theorem revive_shadow (c : Crew) (f : RegFile) (r : Nat) : (revive c f r).shadow = c.shadow := rfl
@[simp] theorem revive_pattern (c : Crew) (f : RegFile) (r : Nat) : (revive c f r).pattern = c.pattern := rfl
@[simp] theorem revive_plen (c : Crew) (f : RegFile) (r : Nat) : (revive c f r).plen = c.plen := rfl
@[simp] theorem revive_claim (c : Crew) (f : RegFile) (r : Nat) : (revive c f r).claim = c.claim := rfl
@[simp] theorem revive_claimGranted (c : Crew) (f : RegFile) (r : Nat) : (revive c f r).claimGranted = c.claimGranted := rfl
@[simp] theorem revive_gleaner (c : Crew) (f : RegFile) (r : Nat) : (revive c f r).gleaner = c.gleaner := rfl
@[simp] theorem revive_glCmds (c : Crew) (f : RegFile) (r : Nat) : (revive c f r).glCmds = c.glCmds := rfl
@[simp] theorem revive_pipes (c : Crew) (f : RegFile) (r : Nat) : (revive c f r).pipes = c.pipes := rfl
@[simp] theorem revive_log (c : Crew) (f : RegFile) (r : Nat) : (revive c f r).log = c.log := rfl
@[simp] theorem revive_vstores (c : Crew) (f : RegFile) (r : Nat) : (revive c f r).vstores = c.vstores := rfl
@[simp] theorem revive_served (c : Crew) (f : RegFile) (r : Nat) : (revive c f r).served = c.served := rfl
@[simp] theorem revive_released (c : Crew) (f : RegFile) (r : Nat) : (revive c f r).released = c.released := rfl
@[simp] theorem revive_epochS (c : Crew) (f : RegFile) (r : Nat) : (revive c f r).epochS = c.epochS := rfl
@[simp] theorem revive_epochV (c : Crew) (f : RegFile) (r : Nat) : (revive c f r).epochV = c.epochV := rfl
@[simp] theorem revive_late (c : Crew) (f : RegFile) (r : Nat) : (revive c f r).late = c.late := rfl
@[simp] theorem revive_waitValue (c : Crew) (f : RegFile) (r : Nat) : (revive c f r).waitValue = c.waitValue := rfl

end Sys2Proof.Machine
end

