-- ==== Sys2Proof/Laws/Words.lean ====
section
/-!
SUPPORT. What the shared frame of every stream word can do: the one lemma on runWord that the lemmas about words cite, and
the ends of a word.
-/
namespace Sys2Proof.Machine

/-- A word that runs ends as its body ends. -/
theorem runWord_runs {s : State} {k : Nat} {str : Stream} {c : Crew} {streams : Streams} {priv : Bool}
    {guard : Option (Nat × Bool)} {reads : List (RegFile × Nat)} (h : WordRuns s k str c streams priv guard reads)
    (frees : List (RegFile × Nat × Bool)) (body : State → Nat → Stream → Crew → Effect) :
    runWord s streams priv guard frees reads body = finish s k str c frees (body s k str c) := by
  obtain ⟨hcur, hc, hst, hp, hd, hg, hr, hl⟩ := h
  have hbad : (!streams.allows str || (priv && !isReeve k)) = false := by
    cases priv <;> simp_all
  unfold runWord
  rw [hcur]
  simp only [hc, hbad, hd, hr, hl]
  split
  · simp_all
  · simp_all

/-- The four things that the frame of a word can do before its own effect: stop for want of an issuer, trap, skip the word
because of its guard, or run its body. -/
theorem runWord_cases (s : State) (streams : Streams) (priv : Bool) (guard : Option (Nat × Bool))
    (frees : List (RegFile × Nat × Bool)) (reads : List (RegFile × Nat)) (body : State → Nat → Stream → Crew → Effect) :
    runWord s streams priv guard frees reads body = .fault .noIssuer ∨
      ∃ k str c, s.cur = .crew k str ∧ crewAt s k = some c ∧
        ((∃ code a, runWord s streams priv guard frees reads body = .next (wordTrap s k str c code a)) ∨
          runWord s streams priv guard frees reads body = .next (issued s k str c frees) ∨
          runWord s streams priv guard frees reads body = .next s ∨
          runWord s streams priv guard frees reads body = finish s k str c frees (body s k str c)) := by
  unfold runWord
  split
  · rename_i k str hcur
    cases hc : crewAt s k with
    | none => exact .inl rfl
    | some c =>
      refine .inr ⟨k, str, c, hcur, hc, ?_⟩
      dsimp only
      split
      · exact .inl ⟨_, _, rfl⟩
      · split
        · exact .inl ⟨_, _, rfl⟩
        · split
          · exact .inr (.inl rfl)
          · split
            · exact .inl ⟨_, _, rfl⟩
            · split
              · exact .inr (.inr (.inl rfl))
              · exact .inr (.inr (.inr rfl))
  · exact .inl rfl

/-- A crew's word never refuses. -/
theorem finish_next (s : State) (k : Nat) (str : Stream) (c : Crew) (frees : List (RegFile × Nat × Bool)) (e : Effect) :
    ∃ t, finish s k str c frees e = .next t := by
  cases e <;> exact ⟨_, rfl⟩

/-- A word always answers a next state where a crew is there to issue it. -/
theorem runWord_next {s : State} {k : Nat} {str : Stream} {c : Crew} (hcur : s.cur = .crew k str) (hc : crewAt s k = some c)
    (streams : Streams) (priv : Bool) (guard : Option (Nat × Bool)) (frees : List (RegFile × Nat × Bool))
    (reads : List (RegFile × Nat)) (body : State → Nat → Stream → Crew → Effect) :
    ∃ t, runWord s streams priv guard frees reads body = .next t := by
  unfold runWord
  rw [hcur]
  simp only [hc]
  split
  · exact ⟨_, rfl⟩
  · split
    · exact ⟨_, rfl⟩
    · split
      · exact finish_next ..
      · split
        · exact ⟨_, rfl⟩
        · exact finish_next ..

@[simp] theorem finish_done (s s' : State) (k : Nat) (str : Stream) (c c' : Crew) (frees : List (RegFile × Nat × Bool)) :
    finish s k str c frees (.done s' c') = .next (issued s' k str c' frees) := rfl
@[simp] theorem finish_jump (s s' : State) (k : Nat) (str : Stream) (c c' : Crew) (frees : List (RegFile × Nat × Bool))
    (pc : Word) (loops : List Loop) :
    finish s k str c frees (.jump s' c' pc loops) = .next (transferred s' k str c' frees pc loops) := rfl
@[simp] theorem finish_trap (s : State) (k : Nat) (str : Stream) (c : Crew) (frees : List (RegFile × Nat × Bool))
    (code : BitVec 8) (a : Word) : finish s k str c frees (.trap code a) = .next (wordTrap s k str c code a) := rfl
@[simp] theorem finish_stall (s s' : State) (k : Nat) (str : Stream) (c : Crew) (frees : List (RegFile × Nat × Bool)) :
    finish s k str c frees (.stall s') = .next s' := rfl

/-- What the word's own effect has put on its bench is replaced by the crew that has issued it. -/
@[simp] theorem issued_putCrew (s : State) (k : Nat) (str : Stream) (c c' : Crew) (frees : List (RegFile × Nat × Bool)) :
    issued (putCrew s k c) k str c' frees = issued s k str c' frees := by simp [issued]

/-- The crew that a word leaves on its bench. -/
@[simp] theorem issued_crew (s' : State) (k : Nat) (str : Stream) (c' : Crew) (frees : List (RegFile × Nat × Bool)) :
    crewAt (issued s' k str c' frees) k =
      some (complete (applyFrees c' frees) str (wordAfter (c'.stream str)).1 (wordAfter (c'.stream str)).2) := by
  simp [issued, crewAt, spend, putCrew]

/-- Every other bench is as the word's own effect left it. -/
theorem issued_otherCrew (s' : State) {k j : Nat} (h : j ≠ k) (str : Stream) (c' : Crew)
    (frees : List (RegFile × Nat × Bool)) : crewAt (issued s' k str c' frees) j = crewAt s' j := by
  simp [issued, crewAt, spend, putCrew, mapGet_mapSet_other _ _ h]

end Sys2Proof.Machine
end

