-- ==== Sys2Proof/Laws/Access.lean ====
section
/-!
SUPPORT. What the shared operations over memory words and vector words do: the issue of an access, and the frames of vector
words, with one lemma for each.
-/
namespace Sys2Proof.Machine

/-- An access that the first-level TLB does not answer at once issues: its entry joins the log, one fresh number and one free
value are taken, and nothing else of the state changes. -/
theorem issueAccess_miss {s : State} {k : Nat} {c : Crew} {e : LogEntry} (hr : isReeve k = false)
    (ht : tlbHit s (coreOf k) (jobOf s c) e.opa (entryAccess e) = none) :
    issueAccess s k c e =
      .done { s with stamp := s.stamp + 1, free := s.free + 1 } { c with log := c.log ++ [e] } := by
  have h : tlbHit (bump s) (coreOf k) (jobOf (bump s) { c with log := c.log ++ [e] }) e.opa (entryAccess e) = none := ht
  unfold issueAccess
  simp only [hr, h]
  rfl

/-- A vector word that meets what every vector word must meet runs its body, with its resource held and its guard bits. -/
theorem vectorWord_runs {f : VFrame} {s : State} {k : Nat} {c : Crew} (h : VectorRuns s k c f)
    (body : State → Nat → Crew → PredReg → Effect) :
    vectorWord f s body = finish s k .v c f.frees (body s k (holdUse c f.use) (guardBits s c f.pred f.pn)) := by
  unfold vectorWord
  rw [runWord_runs h.1]
  simp only [h.2.1, h.2.2.1, h.2.2.2, Bool.false_eq_true, if_false]

end Sys2Proof.Machine
end

