-- ==== Sys2Proof/Laws/Commands.lean ====
section
/-!
SUPPORT. What the shared frame of the format C words can do, and how a command enters its queue.
-/
namespace Sys2Proof.Machine

/-- The clean sources of a format C word are not poisoned. -/
theorem poisonedX_commandSources {s : State} {c : Crew} {o : FmtC} {useA useB : Bool}
    (ha : useA = true → tagX s c 0 o.ra = false) (hb : useB = true → tagX s c 1 o.rb = false) :
    poisonedX s c ((if useA then [(0, o.ra)] else []) ++ (if useB then [(1, o.rb)] else [])) = none := by
  cases useA <;> cases useB <;> simp_all [poisonedX]

/-- A format C word that runs, with no semaphore on a Reeve and clean sources, ends as its body ends. -/
theorem commandWord_runs {s : State} {k : Nat} {c : Crew} {o : FmtC} {priv useA useB : Bool}
    (h : WordRuns s k .s c .s priv none
      ((if useA then [(.x, o.ra.toNat)] else []) ++ (if useB then [(.x, o.rb.toNat)] else [])))
    (hr : isReeve k = true → o.wv = false ∧ o.sv = false) (ha : useA = true → tagX s c 0 o.ra = false)
    (hb : useB = true → tagX s c 1 o.rb = false) (body : State → Nat → Crew → Word → Word → Effect) :
    commandWord o priv useA useB s body =
      finish s k .s c (freesC o)
        (body s k c (if useA then readX s c 0 o.ra else 0) (if useB then readX s c 1 o.rb else 0)) := by
  have hs : (isReeve k && (o.wv || o.sv)) = false := by cases hk : isReeve k <;> simp_all
  unfold commandWord
  rw [runWord_runs h]
  simp only [hs, poisonedX_commandSources ha hb]
  simp

/-- A command enters a queue that has room. -/
theorem queueCmd_room (s : State) (k : Nat) (c : Crew) (kind : EngKind) (o : FmtC) (a b : Word)
    (h : (queued (coreAt s (coreOf k)) kind.queue).length < kind.queue.size) :
    queueCmd s k c kind o a b =
      .done (bump (putCore s (coreOf k) (setQueued (coreAt s (coreOf k)) kind.queue
          (queued (coreAt s (coreOf k)) kind.queue ++ [makeCmd s k c kind o a b c.counter]))))
        { c with log := c.log ++ [cmdEntry s c (makeCmd s k c kind o a b c.counter)] } := by
  unfold queueCmd
  exact if_neg (Nat.not_le.mpr h)

/-- A full queue stalls the word. -/
theorem queueCmd_full (s : State) (k : Nat) (c : Crew) (kind : EngKind) (o : FmtC) (a b : Word)
    (h : kind.queue.size ≤ (queued (coreAt s (coreOf k)) kind.queue).length) : queueCmd s k c kind o a b = .stall s := by
  unfold queueCmd
  exact if_pos h

/-- A privileged word of two clean operands ends as its body ends where the bits that must be zero are, and traps otherwise. -/
theorem privilegedWord_runs {s : State} {k : Nat} {c : Crew} {o : FmtA} (h : WordRuns s k .s c .s true none (readsA o 2))
    (ha : tagX s c 0 o.ra = false) (hb : tagX s c 1 o.rb = false) (zeroA zeroB : Word)
    (body : State → Nat → Crew → Word → Word → Effect) :
    privilegedWord o zeroA zeroB s body =
      finish s k .s c (freesA o)
        (if readX s c 0 o.ra &&& zeroA ≠ 0 ∨ readX s c 1 o.rb &&& zeroB ≠ 0 then .trap 0x01 0xB
         else body s k c (readX s c 0 o.ra) (readX s c 1 o.rb)) := by
  have hp : poisonedX s c (numberedA o 2) = none := by simp [poisonedX, numberedA, ha, hb]
  unfold privilegedWord
  rw [runWord_runs h]
  simp only [hp, Bool.or_eq_true, decide_eq_true_eq]

end Sys2Proof.Machine
end

