-- ==== Sys2Proof/Laws/Vector.lean ====
section
/-!
SUPPORT. The elements of vector registers: what a packed list of elements reads back as, and the pending write that putRegister
makes, element by element.
-/
namespace Sys2Proof.Machine

/-- A packed list reads back element by element. -/
theorem packElems_elem (w : Nat) (l : List Nat) (i : Nat) (h : i < l.length) :
    packElems w l / 2 ^ (w * i) % 2 ^ w = l[i] % 2 ^ w := by
  induction l generalizing i with
  | nil => simp at h
  | cons x l ih =>
    have hp : packElems w (x :: l) = packElems w l * 2 ^ w + x % 2 ^ w := rfl
    cases i with
    | zero => rw [hp]; simp [Nat.add_mod]
    | succ i =>
      rw [hp, show w * (i + 1) = w + w * i by rw [Nat.mul_add, Nat.mul_one, Nat.add_comm], Nat.pow_add, ← Nat.div_div_eq_div_mul,
        Nat.mul_comm, Nat.mul_add_div (Nat.two_pow_pos w), Nat.div_eq_of_lt (Nat.mod_lt _ (Nat.two_pow_pos w)), Nat.add_zero]
      simpa using ih i (by simpa using h)

/-- A packed list fits into the bits of its elements. -/
theorem packElems_lt (w : Nat) (l : List Nat) : packElems w l < 2 ^ (w * l.length) := by
  induction l with
  | nil => simp [packElems]
  | cons x l ih =>
    have hp : packElems w (x :: l) = packElems w l * 2 ^ w + x % 2 ^ w := rfl
    rw [hp, List.length_cons, Nat.mul_add, Nat.mul_one, Nat.pow_add]
    have hx : x % 2 ^ w < 2 ^ w := Nat.mod_lt _ (Nat.two_pow_pos w)
    calc packElems w l * 2 ^ w + x % 2 ^ w < packElems w l * 2 ^ w + 2 ^ w := by omega
      _ = (packElems w l + 1) * 2 ^ w := by rw [Nat.add_mul, Nat.one_mul]
      _ ≤ 2 ^ (w * l.length) * 2 ^ w := Nat.mul_le_mul_right _ ih

/-- An element of a register that holds a packed list. -/
theorem elem_packed (w : Nat) (l : List Nat) (i : Nat) (h : i < l.length) (fit : w * l.length ≤ 4096) :
    elem w (BitVec.ofNat 4096 (packElems w l)) i = l[i] % 2 ^ w := by
  unfold elem
  rw [BitVec.toNat_ofNat, Nat.mod_eq_of_lt (Nat.lt_of_lt_of_le (packElems_lt w l) (Nat.pow_le_pow_right (by decide) fit))]
  exact packElems_elem w l i h

/-- Every element of the all-ones register is all ones. -/
theorem elem_allOnes (w i : Nat) (fit : w * (i + 1) ≤ 4096) : elem w (BitVec.allOnes 4096) i = 2 ^ w - 1 := by
  unfold elem
  apply Nat.eq_of_testBit_eq
  intro j
  rw [Nat.testBit_mod_two_pow, Nat.testBit_two_pow_sub_one, ← Nat.shiftRight_eq_div_pow, Nat.testBit_shiftRight,
    BitVec.toNat_allOnes, Nat.testBit_two_pow_sub_one]
  have : w * (i + 1) = w * i + w := by rw [Nat.mul_add, Nat.mul_one]
  by_cases hj : j < w <;> simp [hj]; omega

/-- The value of an element as the results of a word give it. -/
def elementValue (e : Option (Nat × FlagSet)) : Nat := match e with | some q => q.1 | none => 0

/-- The pending write that putRegister adds: each element that the list gives is written with its value, each other one is left
or, with .z, zeroed (R181). -/
theorem putRegister_spec (c : Crew) (r w : Nat) (z : Bool) (l : List (Option (Nat × FlagSet))) (bound : Nat)
    (fit : w * l.length ≤ 4096) :
    ∃ p : Pend 4096, putRegister c r w z l bound = { c with pendV := c.pendV ++ [p] } ∧ p.reg = r ∧ p.issued = c.counter ∧
      p.land = .count (c.counter + bound) ∧ p.ready = true ∧ p.poison = false ∧
      ∀ i (h : i < l.length),
        elem w p.val i = elementValue l[i] % 2 ^ w ∧
        elem w p.mask i = if (l[i]).isSome || z then 2 ^ w - 1 else 0 := by
  refine ⟨_, rfl, rfl, rfl, rfl, rfl, rfl, ?_⟩
  intro i h
  have hm : ∀ (f : Option (Nat × FlagSet) → Nat), w * (l.map f).length ≤ 4096 := by simpa using fit
  refine ⟨?_, ?_⟩
  · rw [elem_packed w _ i (by simpa using h) (hm _)]
    simp only [List.getElem_map]
    unfold elementValue
    rfl
  · dsimp only
    cases z with
    | true =>
      simp only [Bool.or_true, if_true]
      exact elem_allOnes w i (Nat.le_trans (Nat.mul_le_mul_left w h) fit)
    | false =>
      simp only [Bool.or_false, Bool.false_eq_true, if_false]
      rw [elem_packed w _ i (by simpa using h) (hm _)]
      simp only [List.getElem_map]
      have hlt : 2 ^ w - 1 < 2 ^ w := by have := Nat.two_pow_pos w; omega
      cases l[i] <;> simp [Nat.mod_eq_of_lt hlt]

end Sys2Proof.Machine
end

