-- ==== Sys2Proof/Tests/Slice0.lean ====
section
/-!
SUPPORT. The model's own tests: words, records and Mill words written out from the encodings of the manual; an ill-formed term
for each check of WellFormed; for each obligation a state and operands that meet its hypotheses; and values that the manual
states.
-/
open Sys2Proof Sys2Proof.Machine Sys2Proof.Config

/-! ### Stream words written out from Tables 04.2 to 04.8 -/

theorem test_decode_major_01 :
    decodeWord 0x5540800000000000 = .ok (.nop ⟨0x155, 0, 0, false, 0, false, 0, false, 0, false, 0, 0⟩) := rfl

theorem test_decode_major_02 :
    decodeWord 0x554100AAAAAAAAAA = .ok (.br ⟨0x155, 0, false, 0xAAAAAAAAAA⟩) := rfl

theorem test_decode_major_03 :
    decodeWord 0x55418BAAAAAAAAAA = .ok (.brc ⟨0x155, 5, true, 0xAAAAAAAAAA⟩) := rfl

theorem test_decode_major_04 :
    decodeWord 0x554255AAAAAAAAAA = .ok (.jmp ⟨0x155, 42, true, 0xAAAAAAAAAA⟩) := rfl

theorem test_decode_major_05 :
    decodeWord 0x554280AAAAAAAAAA = .ok (.call ⟨0x155, 0, false, 0xAAAAAAAAAA⟩) := rfl

theorem test_decode_major_06 :
    decodeWord 0x5543000000000000 = .ok (.ret ⟨0x155, 0, false, 0x0⟩) := rfl

theorem test_decode_major_07 :
    decodeWord 0x5543D50000ABCDEF = .ok (.loop ⟨0x155, 42, true, 0xABCDEF⟩) := rfl

theorem test_decode_major_08 :
    decodeWord 0x5544555555ABCDEF = .ok (.loopi ⟨0x155, 0x555555, 0xABCDEF⟩) := rfl

theorem test_decode_major_09 :
    decodeWord 0x554480AAAAAAAAAA = .ok (.brq ⟨0x155, 0, false, 0xAAAAAAAAAA⟩) := rfl

theorem test_decode_major_0A :
    decodeWord 0x5545015400028001 = .ok (.qpush ⟨0x155, 0, 42, true, 0, false, 0, false, 2, true, 0, 1⟩) ∧
    decodeWord 0x5545000000000400 = .ok (.rvz ⟨0x155, 0, 0, false, 0, false, 0, false, 0, false, 0, 0⟩) ∧
    decodeWord 0x5545000000000800 = .ok (.exit ⟨0x155, 0, 0, false, 0, false, 0, false, 0, false, 0, 0⟩) ∧
    decodeWord 0x55454B5400028C00 = .ok (.spawn ⟨0x155, 37, 42, true, 0, false, 0, false, 2, true, 0, 0⟩) ∧
    decodeWord 0x55454B5400029000 = .ok (.joindec ⟨0x155, 37, 42, true, 0, false, 0, false, 2, true, 0, 0⟩) ∧
    decodeWord 0x55454B5730001400 = .ok (.waitc ⟨0x155, 37, 42, true, 51, false, 0, false, 0, false, 0, 0⟩) ∧
    decodeWord 0x55454B5730029800 = .ok (.cancel ⟨0x155, 37, 42, true, 51, false, 0, false, 2, true, 0, 0⟩) := ⟨rfl, rfl, rfl, rfl, rfl, rfl, rfl⟩

theorem test_decode_major_10_0 :
    decodeWord 0x55484B5730028000 = .ok (.add ⟨0x155, 37, 42, true, 51, false, 0, false, 2, true, 0, 0⟩) ∧
    decodeWord 0x55484B5730028400 = .ok (.sub ⟨0x155, 37, 42, true, 51, false, 0, false, 2, true, 0, 0⟩) ∧
    decodeWord 0x55484B5730028800 = .ok (.and ⟨0x155, 37, 42, true, 51, false, 0, false, 2, true, 0, 0⟩) ∧
    decodeWord 0x55484B5730028C00 = .ok (.or ⟨0x155, 37, 42, true, 51, false, 0, false, 2, true, 0, 0⟩) ∧
    decodeWord 0x55484B5730029000 = .ok (.xor ⟨0x155, 37, 42, true, 51, false, 0, false, 2, true, 0, 0⟩) ∧
    decodeWord 0x55484B5730029400 = .ok (.andn ⟨0x155, 37, 42, true, 51, false, 0, false, 2, true, 0, 0⟩) ∧
    decodeWord 0x55484B5730029800 = .ok (.shl ⟨0x155, 37, 42, true, 51, false, 0, false, 2, true, 0, 0⟩) ∧
    decodeWord 0x55484B5730029C00 = .ok (.shr ⟨0x155, 37, 42, true, 51, false, 0, false, 2, true, 0, 0⟩) ∧
    decodeWord 0x55484B573002A000 = .ok (.sra ⟨0x155, 37, 42, true, 51, false, 0, false, 2, true, 0, 0⟩) ∧
    decodeWord 0x55484B573002A400 = .ok (.rot ⟨0x155, 37, 42, true, 51, false, 0, false, 2, true, 0, 0⟩) := ⟨rfl, rfl, rfl, rfl, rfl, rfl, rfl, rfl, rfl, rfl⟩

theorem test_decode_major_10_1 :
    decodeWord 0x55484B573002A800 = .ok (.min ⟨0x155, 37, 42, true, 51, false, 0, false, 2, true, 0, 0⟩) ∧
    decodeWord 0x55484B573002AC00 = .ok (.max ⟨0x155, 37, 42, true, 51, false, 0, false, 2, true, 0, 0⟩) ∧
    decodeWord 0x55484B573002B000 = .ok (.minz ⟨0x155, 37, 42, true, 51, false, 0, false, 2, true, 0, 0⟩) ∧
    decodeWord 0x55484B573002B400 = .ok (.maxz ⟨0x155, 37, 42, true, 51, false, 0, false, 2, true, 0, 0⟩) ∧
    decodeWord 0x55484B573072B800 = .ok (.sel ⟨0x155, 37, 42, true, 51, false, 3, true, 2, true, 0, 0⟩) ∧
    decodeWord 0x55484B540002BC00 = .ok (.clz ⟨0x155, 37, 42, true, 0, false, 0, false, 2, true, 0, 0⟩) ∧
    decodeWord 0x55484B540002C000 = .ok (.ctz ⟨0x155, 37, 42, true, 0, false, 0, false, 2, true, 0, 0⟩) ∧
    decodeWord 0x55484B540002C400 = .ok (.popc ⟨0x155, 37, 42, true, 0, false, 0, false, 2, true, 0, 0⟩) ∧
    decodeWord 0x55484B540002C800 = .ok (.bswap ⟨0x155, 37, 42, true, 0, false, 0, false, 2, true, 0, 0⟩) := ⟨rfl, rfl, rfl, rfl, rfl, rfl, rfl, rfl, rfl⟩

theorem test_decode_major_11 :
    decodeWord 0x5548CB5730028000 = .ok (.mul ⟨0x155, 37, 42, true, 51, false, 0, false, 2, true, 0, 0⟩) ∧
    decodeWord 0x5548CB5730028400 = .ok (.mulh ⟨0x155, 37, 42, true, 51, false, 0, false, 2, true, 0, 0⟩) ∧
    decodeWord 0x5548CB5730028800 = .ok (.mulhz ⟨0x155, 37, 42, true, 51, false, 0, false, 2, true, 0, 0⟩) ∧
    decodeWord 0x5548CB5730028C00 = .ok (.div ⟨0x155, 37, 42, true, 51, false, 0, false, 2, true, 0, 0⟩) ∧
    decodeWord 0x5548CB5730029000 = .ok (.divz ⟨0x155, 37, 42, true, 51, false, 0, false, 2, true, 0, 0⟩) ∧
    decodeWord 0x5548CB5730029400 = .ok (.rem ⟨0x155, 37, 42, true, 51, false, 0, false, 2, true, 0, 0⟩) ∧
    decodeWord 0x5548CB5730029800 = .ok (.remz ⟨0x155, 37, 42, true, 51, false, 0, false, 2, true, 0, 0⟩) := ⟨rfl, rfl, rfl, rfl, rfl, rfl, rfl⟩

theorem test_decode_major_12 :
    decodeWord 0x55490B5730028800 = .ok (.cmp 2 ⟨0x155, 5, 42, true, 51, false, 0, false, 2, true, 0, 0⟩) := rfl

theorem test_decode_major_13 :
    decodeWord 0x5549CB5730028000 = .ok (.bfx ⟨0x155, 37, 42, true, 51, false, 0, false, 2, true, 0, 0⟩) ∧
    decodeWord 0x5549CB5732728400 = .ok (.bfi ⟨0x155, 37, 42, true, 51, false, 19, true, 2, true, 0, 0⟩) ∧
    decodeWord 0x5549CB5732728800 = .ok (.pfxh ⟨0x155, 37, 42, true, 51, false, 19, true, 2, true, 0, 0⟩) := ⟨rfl, rfl, rfl⟩

theorem test_decode_major_14 :
    decodeWord 0x554A4B54AAAAAAAA = .ok (.addi ⟨0x155, 37, 42, true, 2, 0x2AAAAAAA⟩) := rfl

theorem test_decode_major_15 :
    decodeWord 0x554ACB54AAAAAAAA = .ok (.andi ⟨0x155, 37, 42, true, 2, 0x2AAAAAAA⟩) := rfl

theorem test_decode_major_16 :
    decodeWord 0x554B4B54AAAAAAAA = .ok (.ori ⟨0x155, 37, 42, true, 2, 0x2AAAAAAA⟩) := rfl

theorem test_decode_major_17 :
    decodeWord 0x554BCAAAAAAAAAAA = .ok (.li ⟨0x155, 37, 0xAAAAAAAAAA⟩) := rfl

theorem test_decode_major_18 :
    decodeWord 0x554C4A0000ABCDEF = .ok (.lih ⟨0x155, 37, 0xABCDEF⟩) := rfl

theorem test_decode_major_28 :
    decodeWord 0x55544AAB5555504B = .ok (.ldb ⟨0x155, 37, false, 42, true, 0x2AAAAA, 2, 5, true⟩) ∧
    decodeWord 0x55544AAB5555514B = .ok (.ldbz ⟨0x155, 37, false, 42, true, 0x2AAAAA, 2, 5, true⟩) ∧
    decodeWord 0x55544AAB5555524B = .ok (.ldh ⟨0x155, 37, false, 42, true, 0x2AAAAA, 2, 5, true⟩) ∧
    decodeWord 0x55544AAB5555534B = .ok (.ldhz ⟨0x155, 37, false, 42, true, 0x2AAAAA, 2, 5, true⟩) ∧
    decodeWord 0x55544AAB5555544B = .ok (.ldw ⟨0x155, 37, false, 42, true, 0x2AAAAA, 2, 5, true⟩) ∧
    decodeWord 0x55544AAB5555554B = .ok (.ldwz ⟨0x155, 37, false, 42, true, 0x2AAAAA, 2, 5, true⟩) ∧
    decodeWord 0x55544AAB5555564B = .ok (.ldd ⟨0x155, 37, false, 42, true, 0x2AAAAA, 2, 5, true⟩) := ⟨rfl, rfl, rfl, rfl, rfl, rfl, rfl⟩

theorem test_decode_major_29 :
    decodeWord 0x5554CBA8AAAAA86B = .ok (.stb ⟨0x155, 37, true, 42, false, 0x155555, 3, 5, true⟩) ∧
    decodeWord 0x5554CBA8AAAAAA6B = .ok (.sth ⟨0x155, 37, true, 42, false, 0x155555, 3, 5, true⟩) ∧
    decodeWord 0x5554CBA8AAAAAC6B = .ok (.stw ⟨0x155, 37, true, 42, false, 0x155555, 3, 5, true⟩) ∧
    decodeWord 0x5554CBA8AAAAAE6B = .ok (.std ⟨0x155, 37, true, 42, false, 0x155555, 3, 5, true⟩) := ⟨rfl, rfl, rfl, rfl⟩

theorem test_decode_major_2A :
    decodeWord 0x55554AAB5555460B = .ok (.lds ⟨0x155, 37, false, 42, true, 0x2AAAA8, 0, 5, true⟩) := rfl

theorem test_decode_major_2B :
    decodeWord 0x5555815400028000 = .ok (.chk ⟨0x155, 0, 42, true, 0, false, 0, false, 2, true, 0, 0⟩) := rfl

theorem test_decode_major_30 :
    decodeWord 0x55582A24AAAA040B = .ok (.vld 2 ⟨0x155, 21, false, 9, false, 0x155540, 0, 5, true⟩) := rfl

theorem test_decode_major_31 :
    decodeWord 0x5558AB24AAAA060B = .ok (.vst 3 ⟨0x155, 21, true, 9, false, 0x155540, 0, 5, true⟩) := rfl

theorem test_decode_major_32 :
    decodeWord 0x55592A5DC00282C2 = .ok (.vadd ⟨0x155, 21, 11, true, 28, false, 0, false, 2, true, 11, 2⟩) ∧
    decodeWord 0x55592A5DC00286C2 = .ok (.vsub ⟨0x155, 21, 11, true, 28, false, 0, false, 2, true, 11, 2⟩) ∧
    decodeWord 0x55592A5DC0028AC2 = .ok (.vmul ⟨0x155, 21, 11, true, 28, false, 0, false, 2, true, 11, 2⟩) ∧
    decodeWord 0x55592A5DC0028EC2 = .ok (.vmin ⟨0x155, 21, 11, true, 28, false, 0, false, 2, true, 11, 2⟩) ∧
    decodeWord 0x55592A5DC00292C2 = .ok (.vmax ⟨0x155, 21, 11, true, 28, false, 0, false, 2, true, 11, 2⟩) ∧
    decodeWord 0x55592A5C000296C2 = .ok (.vabs ⟨0x155, 21, 11, true, 0, false, 0, false, 2, true, 11, 2⟩) ∧
    decodeWord 0x55592A5C00029AC2 = .ok (.vneg ⟨0x155, 21, 11, true, 0, false, 0, false, 2, true, 11, 2⟩) ∧
    decodeWord 0x55592A5DC0029EC2 = .ok (.vabd ⟨0x155, 21, 11, true, 28, false, 0, false, 2, true, 11, 2⟩) ∧
    decodeWord 0x55592A5DC002A202 = .ok (.vmulh ⟨0x155, 21, 11, true, 28, false, 0, false, 2, true, 8, 2⟩) := ⟨rfl, rfl, rfl, rfl, rfl, rfl, rfl, rfl, rfl⟩

theorem test_decode_major_33 :
    decodeWord 0x5559AA5DC3D282DA = .ok (.vfma ⟨0x155, 21, 11, true, 28, false, 30, true, 2, true, 11, 26⟩) ∧
    decodeWord 0x5559AA5DC3D286DA = .ok (.vfms ⟨0x155, 21, 11, true, 28, false, 30, true, 2, true, 11, 26⟩) ∧
    decodeWord 0x5559AA5DC3D28ADA = .ok (.vfnma ⟨0x155, 21, 11, true, 28, false, 30, true, 2, true, 11, 26⟩) ∧
    decodeWord 0x5559AA5DC3D28EDA = .ok (.vfnms ⟨0x155, 21, 11, true, 28, false, 30, true, 2, true, 11, 26⟩) := ⟨rfl, rfl, rfl, rfl⟩

theorem test_decode_major_34 :
    decodeWord 0x555A2A5DC00283C2 = .ok (.vand ⟨0x155, 21, 11, true, 28, false, 0, false, 2, true, 15, 2⟩) ∧
    decodeWord 0x555A2A5DC00287C2 = .ok (.vor ⟨0x155, 21, 11, true, 28, false, 0, false, 2, true, 15, 2⟩) ∧
    decodeWord 0x555A2A5DC0028BC2 = .ok (.vxor ⟨0x155, 21, 11, true, 28, false, 0, false, 2, true, 15, 2⟩) ∧
    decodeWord 0x555A2A5DC0028FC2 = .ok (.vandn ⟨0x155, 21, 11, true, 28, false, 0, false, 2, true, 15, 2⟩) ∧
    decodeWord 0x555A2A5C000293C2 = .ok (.vnot ⟨0x155, 21, 11, true, 0, false, 0, false, 2, true, 15, 2⟩) ∧
    decodeWord 0x555A2A5DC0029602 = .ok (.vshl ⟨0x155, 21, 11, true, 28, false, 0, false, 2, true, 8, 2⟩) ∧
    decodeWord 0x555A2A5DC0029A02 = .ok (.vshr ⟨0x155, 21, 11, true, 28, false, 0, false, 2, true, 8, 2⟩) ∧
    decodeWord 0x555A2A5DC0029E02 = .ok (.vsra ⟨0x155, 21, 11, true, 28, false, 0, false, 2, true, 8, 2⟩) ∧
    decodeWord 0x555A2A5DC002A202 = .ok (.vrot ⟨0x155, 21, 11, true, 28, false, 0, false, 2, true, 8, 2⟩) := ⟨rfl, rfl, rfl, rfl, rfl, rfl, rfl, rfl, rfl⟩

theorem test_decode_major_35 :
    decodeWord 0x555A8A5DC00292C2 = .ok (.vcmp 4 ⟨0x155, 5, 11, true, 28, false, 0, false, 2, true, 11, 2⟩) := rfl

theorem test_decode_major_36 :
    decodeWord 0x555B2A5DC07283C2 = .ok (.vsel ⟨0x155, 21, 11, true, 28, false, 3, true, 2, true, 15, 2⟩) := rfl

theorem test_decode_major_37 :
    decodeWord 0x555BAA5C0002AE5A = .ok (.vcvt 11 ⟨0x155, 21, 11, true, 0, false, 0, false, 2, true, 9, 26⟩) := rfl

theorem test_decode_major_38 :
    decodeWord 0x555C2A5DC00282DA = .ok (.vwmul ⟨0x155, 21, 11, true, 28, false, 0, false, 2, true, 11, 26⟩) := rfl

theorem test_decode_major_39 :
    decodeWord 0x555CAA5DC3D2835A = .ok (.vdot ⟨0x155, 21, 11, true, 28, false, 30, true, 2, true, 13, 26⟩) := rfl

theorem test_decode_major_3A :
    decodeWord 0x555D2A5C000286C2 = .ok (.vred 1 ⟨0x155, 21, 11, true, 0, false, 0, false, 2, true, 11, 2⟩) := rfl

theorem test_decode_major_3B :
    decodeWord 0x555DAA5C000286C2 = .ok (.vredx 1 ⟨0x155, 21, 11, true, 0, false, 0, false, 2, true, 11, 2⟩) := rfl

theorem test_decode_major_3C :
    decodeWord 0x555E2A5C000282C2 = .ok (.vscan 0 ⟨0x155, 21, 11, true, 0, false, 0, false, 2, true, 11, 2⟩) := rfl

theorem test_decode_major_3D :
    decodeWord 0x555EAA5DC2728002 = .ok (.vperm ⟨0x155, 21, 11, true, 28, false, 19, true, 2, true, 0, 2⟩) ∧
    decodeWord 0x555EAA5DC27286C2 = .ok (.vshuf ⟨0x155, 21, 11, true, 28, false, 19, true, 2, true, 11, 2⟩) ∧
    decodeWord 0x555EAA5F32728BC2 = .ok (.vbcast ⟨0x155, 21, 11, true, 51, false, 19, true, 2, true, 15, 2⟩) ∧
    decodeWord 0x555EAA5F32728FC2 = .ok (.vxlane ⟨0x155, 21, 11, true, 51, false, 19, true, 2, true, 15, 2⟩) := ⟨rfl, rfl, rfl, rfl⟩

theorem test_decode_major_3E :
    decodeWord 0x555F2A39C00282C2 = .ok (.vgath ⟨0x155, 21, 7, false, 28, false, 0, false, 2, true, 11, 2⟩) ∧
    decodeWord 0x555F0039C3D286C0 = .ok (.vscat ⟨0x155, 0, 7, false, 28, false, 30, true, 2, true, 11, 0⟩) ∧
    decodeWord 0x555F0039C3D28AD8 = .ok (.vscatadd ⟨0x155, 0, 7, false, 28, false, 30, true, 2, true, 11, 24⟩) ∧
    decodeWord 0x555F2A3800028EC2 = .ok (.vgathq ⟨0x155, 21, 7, false, 0, false, 0, false, 2, true, 11, 2⟩) := ⟨rfl, rfl, rfl, rfl⟩

theorem test_decode_major_3F :
    decodeWord 0x555FAA5DC002839A = .ok (.vqnt ⟨0x155, 21, 11, true, 28, false, 0, false, 2, true, 14, 26⟩) ∧
    decodeWord 0x555FAA5DC002879A = .ok (.vdeq ⟨0x155, 21, 11, true, 28, false, 0, false, 2, true, 14, 26⟩) := ⟨rfl, rfl⟩

theorem test_decode_major_40 :
    decodeWord 0x55602B54000283C2 = .ok (.vmovsToVector ⟨0x155, 21, 42, true, 0, false, 0, false, 2, true, 15, 2⟩) ∧
    decodeWord 0x55604A5F300287C0 = .ok (.vmovsToScalar ⟨0x155, 37, 11, true, 51, false, 0, false, 2, true, 15, 0⟩) ∧
    decodeWord 0x55604A0000028800 = .ok (.vmovsDq ⟨0x155, 37, 0, false, 0, false, 0, false, 2, true, 0, 0⟩) := ⟨rfl, rfl, rfl⟩

theorem test_decode_major_50 :
    decodeWord 0x55680A3490028002 = .ok (.pand ⟨0x155, 5, 6, true, 9, false, 0, false, 2, true, 0, 2⟩) ∧
    decodeWord 0x55680A3490028402 = .ok (.por ⟨0x155, 5, 6, true, 9, false, 0, false, 2, true, 0, 2⟩) ∧
    decodeWord 0x55680A3490028802 = .ok (.pxor ⟨0x155, 5, 6, true, 9, false, 0, false, 2, true, 0, 2⟩) ∧
    decodeWord 0x55680A3400028C02 = .ok (.pnot ⟨0x155, 5, 6, true, 0, false, 0, false, 2, true, 0, 2⟩) ∧
    decodeWord 0x55680A3400029002 = .ok (.pmov ⟨0x155, 5, 6, true, 0, false, 0, false, 2, true, 0, 2⟩) := ⟨rfl, rfl, rfl, rfl, rfl⟩

theorem test_decode_major_51 :
    decodeWord 0x5568860000000240 = .ok (.pset ⟨0x155, 3, 0, false, 0, 0x240⟩) := rfl

theorem test_decode_major_52 :
    decodeWord 0x55694A3400028240 = .ok (.pcnt ⟨0x155, 37, 6, true, 0, false, 0, false, 2, true, 9, 0⟩) ∧
    decodeWord 0x55694A3400028640 = .ok (.pfirst ⟨0x155, 37, 6, true, 0, false, 0, false, 2, true, 9, 0⟩) := ⟨rfl, rfl⟩

theorem test_decode_major_58 :
    decodeWord 0x556C2A5C000282C2 = .ok (.vrcpa ⟨0x155, 21, 11, true, 0, false, 0, false, 2, true, 11, 2⟩) ∧
    decodeWord 0x556C2A5C000286C2 = .ok (.vrsqa ⟨0x155, 21, 11, true, 0, false, 0, false, 2, true, 11, 2⟩) ∧
    decodeWord 0x556C2A5C00028ADA = .ok (.vsqrt ⟨0x155, 21, 11, true, 0, false, 0, false, 2, true, 11, 26⟩) ∧
    decodeWord 0x556C2A5C00028EDA = .ok (.vexp2 ⟨0x155, 21, 11, true, 0, false, 0, false, 2, true, 11, 26⟩) ∧
    decodeWord 0x556C2A5C000292DA = .ok (.vlog2 ⟨0x155, 21, 11, true, 0, false, 0, false, 2, true, 11, 26⟩) ∧
    decodeWord 0x556C2A5C0002965A = .ok (.vsint ⟨0x155, 21, 11, true, 0, false, 0, false, 2, true, 9, 26⟩) ∧
    decodeWord 0x556C2A5C00029A5A = .ok (.vcost ⟨0x155, 21, 11, true, 0, false, 0, false, 2, true, 9, 26⟩) := ⟨rfl, rfl, rfl, rfl, rfl, rfl, rfl⟩

theorem test_decode_major_59 :
    decodeWord 0x556CAB5732728002 = .ok (.vrng ⟨0x155, 21, 42, true, 51, false, 19, true, 2, true, 0, 2⟩) := rfl

theorem test_decode_major_5C :
    decodeWord 0x556E55CD5D58000A = .ok (.tld ⟨0x155, 42, true, 51, false, 0x2B, true, 0x15, true, 0xA⟩) ∧
    decodeWord 0x556E55CD5D58400A = .ok (.tst ⟨0x155, 42, true, 51, false, 0x2B, true, 0x15, true, 0xA⟩) ∧
    decodeWord 0x556E00015D5880AA = .ok (.tmov ⟨0x155, 0, false, 0, false, 0x2B, true, 0x15, true, 0xAA⟩) ∧
    decodeWord 0x556E55CD5D58C00A = .ok (.tcopy2d ⟨0x155, 42, true, 51, false, 0x2B, true, 0x15, true, 0xA⟩) ∧
    decodeWord 0x556E55CD5D59000A = .ok (.clist ⟨0x155, 42, true, 51, false, 0x2B, true, 0x15, true, 0xA⟩) ∧
    decodeWord 0x556E55CD5D59400A = .ok (.trope ⟨0x155, 42, true, 51, false, 0x2B, true, 0x15, true, 0xA⟩) := ⟨rfl, rfl, rfl, rfl, rfl, rfl⟩

theorem test_decode_major_5D :
    decodeWord 0x556E935730028000 = .ok (.cbinit ⟨0x155, 9, 42, true, 51, false, 0, false, 2, true, 0, 0⟩) ∧
    decodeWord 0x556ECA3800028400 = .ok (.cbwait ⟨0x155, 37, 7, false, 0, false, 0, false, 2, true, 0, 0⟩) ∧
    decodeWord 0x556E803800028800 = .ok (.cbdone ⟨0x155, 0, 7, false, 0, false, 0, false, 2, true, 0, 0⟩) := ⟨rfl, rfl, rfl⟩

theorem test_decode_major_5E :
    decodeWord 0x556F55CD5D58000A = .ok (.glcfg ⟨0x155, 42, true, 51, false, 0x2B, true, 0x15, true, 0xA⟩) ∧
    decodeWord 0x556F55015D584000 = .ok (.glgo ⟨0x155, 42, true, 0, false, 0x2B, true, 0x15, true, 0x0⟩) := ⟨rfl, rfl⟩

theorem test_decode_major_64 :
    decodeWord 0x557255015D580002 = .ok (.mcfg ⟨0x155, 42, true, 0, false, 0x2B, true, 0x15, true, 0x2⟩) ∧
    decodeWord 0x557200015D584002 = .ok (.mgo ⟨0x155, 0, false, 0, false, 0x2B, true, 0x15, true, 0x2⟩) ∧
    decodeWord 0x557255015D588000 = .ok (.mclaim ⟨0x155, 42, true, 0, false, 0x2B, true, 0x15, true, 0x0⟩) ∧
    decodeWord 0x557200015D58C000 = .ok (.mrel ⟨0x155, 0, false, 0, false, 0x2B, true, 0x15, true, 0x0⟩) ∧
    decodeWord 0x557200015D5902AA = .ok (.mldo ⟨0x155, 0, false, 0, false, 0x2B, true, 0x15, true, 0x2AA⟩) ∧
    decodeWord 0x557200015D5942AA = .ok (.mret ⟨0x155, 0, false, 0, false, 0x2B, true, 0x15, true, 0x2AA⟩) ∧
    decodeWord 0x557255015D59800A = .ok (.mcell ⟨0x155, 42, true, 0, false, 0x2B, true, 0x15, true, 0xA⟩) := ⟨rfl, rfl, rfl, rfl, rfl, rfl, rfl⟩

theorem test_decode_major_68 :
    decodeWord 0x557455CD5D580000 = .ok (.bqcmd ⟨0x155, 42, true, 51, false, 0x2B, true, 0x15, true, 0x0⟩) ∧
    decodeWord 0x557455CD5D5840AA = .ok (.bqload ⟨0x155, 42, true, 51, false, 0x2B, true, 0x15, true, 0xAA⟩) ∧
    decodeWord 0x557400015D588000 = .ok (.winfence ⟨0x155, 0, false, 0, false, 0x2B, true, 0x15, true, 0x0⟩) := ⟨rfl, rfl, rfl⟩

theorem test_decode_major_6A :
    decodeWord 0x55751B5400028000 = .ok (.seminit ⟨0x155, 13, 42, true, 0, false, 0, false, 2, true, 0, 0⟩) ∧
    decodeWord 0x55751B5400028400 = .ok (.semsig ⟨0x155, 13, 42, true, 0, false, 0, false, 2, true, 0, 0⟩) ∧
    decodeWord 0x55751A0000028800 = .ok (.semwait ⟨0x155, 13, 0, false, 0, false, 0, false, 2, true, 0, 0⟩) ∧
    decodeWord 0x5575015730028C00 = .ok (.msemsig ⟨0x155, 0, 42, true, 51, false, 0, false, 2, true, 0, 0⟩) ∧
    decodeWord 0x5575015400029000 = .ok (.msemwait ⟨0x155, 0, 42, true, 0, false, 0, false, 2, true, 0, 0⟩) ∧
    decodeWord 0x5575015400029420 = .ok (.fence ⟨0x155, 0, 42, true, 0, false, 0, false, 2, true, 0, 32⟩) ∧
    decodeWord 0x5575000000029820 = .ok (.fenceAll ⟨0x155, 0, 0, false, 0, false, 0, false, 2, true, 0, 32⟩) := ⟨rfl, rfl, rfl, rfl, rfl, rfl, rfl⟩

theorem test_decode_major_6B :
    decodeWord 0x5575CB5730028210 = .ok (.aadd ⟨0x155, 37, 42, true, 51, false, 0, false, 2, true, 8, 16⟩) ∧
    decodeWord 0x5575CB5730028610 = .ok (.amin ⟨0x155, 37, 42, true, 51, false, 0, false, 2, true, 8, 16⟩) ∧
    decodeWord 0x5575CB5730028A10 = .ok (.amax ⟨0x155, 37, 42, true, 51, false, 0, false, 2, true, 8, 16⟩) ∧
    decodeWord 0x5575CB5730028E10 = .ok (.aand ⟨0x155, 37, 42, true, 51, false, 0, false, 2, true, 8, 16⟩) ∧
    decodeWord 0x5575CB5730029210 = .ok (.aor ⟨0x155, 37, 42, true, 51, false, 0, false, 2, true, 8, 16⟩) ∧
    decodeWord 0x5575CB5730029610 = .ok (.axor ⟨0x155, 37, 42, true, 51, false, 0, false, 2, true, 8, 16⟩) ∧
    decodeWord 0x5575CB5730029A28 = .ok (.aswp ⟨0x155, 37, 42, true, 51, false, 0, false, 2, true, 8, 40⟩) ∧
    decodeWord 0x5575CB5732729E28 = .ok (.acas ⟨0x155, 37, 42, true, 51, false, 19, true, 2, true, 8, 40⟩) ∧
    decodeWord 0x5575CB573002A250 = .ok (.afadd ⟨0x155, 37, 42, true, 51, false, 0, false, 2, true, 9, 16⟩) := ⟨rfl, rfl, rfl, rfl, rfl, rfl, rfl, rfl, rfl⟩

theorem test_decode_major_70 :
    decodeWord 0x557855CD5D582A0A = .ok (.fld ⟨0x155, 42, true, 51, false, 0x2B, true, 0x15, true, 0x2A0A⟩) ∧
    decodeWord 0x557855CD5D586A0A = .ok (.fst ⟨0x155, 42, true, 51, false, 0x2B, true, 0x15, true, 0x2A0A⟩) ∧
    decodeWord 0x557855CD5D58AA00 = .ok (.fget ⟨0x155, 42, true, 51, false, 0x2B, true, 0x15, true, 0x2A00⟩) ∧
    decodeWord 0x557855CD5D58EA00 = .ok (.fput ⟨0x155, 42, true, 51, false, 0x2B, true, 0x15, true, 0x2A00⟩) ∧
    decodeWord 0x557855CD5D592A00 = .ok (.ffadd ⟨0x155, 42, true, 51, false, 0x2B, true, 0x15, true, 0x2A00⟩) ∧
    decodeWord 0x557855CD5D596A0A = .ok (.fmcast ⟨0x155, 42, true, 51, false, 0x2B, true, 0x15, true, 0x2A0A⟩) ∧
    decodeWord 0x557855CD5D59AA00 = .ok (.fsig ⟨0x155, 42, true, 51, false, 0x2B, true, 0x15, true, 0x2A00⟩) := ⟨rfl, rfl, rfl, rfl, rfl, rfl, rfl⟩

theorem test_decode_major_71 :
    decodeWord 0x5578D5015D580000 = .ok (.leaseGrant ⟨0x155, 42, true, 0, false, 0x2B, true, 0x15, true, 0x0⟩) ∧
    decodeWord 0x5578D5015D580001 = .ok (.leaseRecall ⟨0x155, 42, true, 0, false, 0x2B, true, 0x15, true, 0x1⟩) ∧
    decodeWord 0x5578D5015D580002 = .ok (.leaseRelease ⟨0x155, 42, true, 0, false, 0x2B, true, 0x15, true, 0x2⟩) ∧
    decodeWord 0x5578D5015D584000 = .ok (.slotswLoad ⟨0x155, 42, true, 0, false, 0x2B, true, 0x15, true, 0x0⟩) ∧
    decodeWord 0x5578D5015D584001 = .ok (.slotswSwitch ⟨0x155, 42, true, 0, false, 0x2B, true, 0x15, true, 0x1⟩) := ⟨rfl, rfl, rfl, rfl, rfl⟩

theorem test_decode_major_76 :
    decodeWord 0x557B00008000002A = .ok (.trap ⟨0x155, 0, 0, false, 2, 0x2A⟩) := rfl

theorem test_decode_major_77 :
    decodeWord 0x557BCB5730000000 = .ok (.eret ⟨0x155, 37, 42, true, 51, false, 0, false, 0, false, 0, 0⟩) ∧
    decodeWord 0x557B800000000400 = .ok (.halt ⟨0x155, 0, 0, false, 0, false, 0, false, 0, false, 0, 0⟩) := ⟨rfl, rfl⟩

theorem test_decode_major_78 :
    decodeWord 0x557C4A0080000060 = .ok (.csrr ⟨0x155, 37, 0, false, 2, 0x60⟩) := rfl

theorem test_decode_major_79_0 :
    decodeWord 0x557C815400000043 = .ok (.csrwTdef ⟨0x155, 0, 42, true, 0, 0x43⟩) ∧
    decodeWord 0x557C815400000001 = .ok (.csrwFflags ⟨0x155, 0, 42, true, 0, 0x1⟩) ∧
    decodeWord 0x557C815400000002 = .ok (.csrwFrm ⟨0x155, 0, 42, true, 0, 0x2⟩) ∧
    decodeWord 0x557C815400000005 = .ok (.csrwSrctr ⟨0x155, 0, 42, true, 0, 0x5⟩) ∧
    decodeWord 0x557C815400000011 = .ok (.csrwStrict ⟨0x155, 0, 42, true, 0, 0x11⟩) ∧
    decodeWord 0x557C815400000006 = .ok (.csrwMflags ⟨0x155, 0, 42, true, 0, 0x6⟩) ∧
    decodeWord 0x557C815400000060 = .ok (.csrwMsh ⟨0x155, 0, 42, true, 0, 0x60⟩) ∧
    decodeWord 0x557C815400000072 = .ok (.csrwFevbase ⟨0x155, 0, 42, true, 0, 0x72⟩) ∧
    decodeWord 0x557C815400000080 = .ok (.csrwTrqbase ⟨0x155, 0, 42, true, 0, 0x80⟩) ∧
    decodeWord 0x557C815400000094 = .ok (.csrwShockst ⟨0x155, 0, 42, true, 0, 0x94⟩) := ⟨rfl, rfl, rfl, rfl, rfl, rfl, rfl, rfl, rfl, rfl⟩

theorem test_decode_major_79_1 :
    decodeWord 0x557C815400000082 = .ok (.csrwTrqhead ⟨0x155, 0, 42, true, 0, 0x82⟩) ∧
    decodeWord 0x557C815400000074 = .ok (.csrwFevhead ⟨0x155, 0, 42, true, 0, 0x74⟩) ∧
    decodeWord 0x557C815400000003 = .ok (.csrw ⟨0x155, 0, 42, true, 0, 0x3⟩) := ⟨rfl, rfl, rfl⟩

theorem test_decode_major_7A :
    decodeWord 0x557D4B5730000000 = .ok (.tlbi ⟨0x155, 37, 42, true, 51, false, 0, false, 0, false, 0, 0⟩) ∧
    decodeWord 0x557D4B5730000400 = .ok (.icinv ⟨0x155, 37, 42, true, 51, false, 0, false, 0, false, 0, 0⟩) := ⟨rfl, rfl⟩

theorem test_decode_major_7B :
    decodeWord 0x557DCB5730000000 = .ok (.ctxsSnap ⟨0x155, 37, 42, true, 51, false, 0, false, 0, false, 0, 0⟩) ∧
    decodeWord 0x557DCB5730000400 = .ok (.ctxlInto ⟨0x155, 37, 42, true, 51, false, 0, false, 0, false, 0, 0⟩) := ⟨rfl, rfl⟩

theorem test_decode_major_7C :
    decodeWord 0x557E4B5730000000 = .ok (.splog ⟨0x155, 37, 42, true, 51, false, 0, false, 0, false, 0, 0⟩) := rfl

theorem test_decode_major_7F :
    decodeWord 0x557FAAAAAAAAAAAA = .ok (.brk 0x155 0x2AAAAAAAAAAA) := rfl

/-! ### Mill words written out from Tables 11.2 to 11.9 -/

theorem test_decode_mill_0 :
    decodeMill 0x065822AA = .ok (.nldVector 9 6 2 682) ∧
    decodeMill 0x06580AAA = .ok (.nldScalar 9 6 682) ∧
    decodeMill 0x0A5822AA = .ok (.nstVector 9 6 2 682) ∧
    decodeMill 0x0A580AAA = .ok (.nstScalar 9 6 682) ∧
    decodeMill 0x0E5B6001 = .ok (.nldk 9 6 13 2 1) ∧
    decodeMill 0x10240000 = .ok (.npb 9) ∧
    decodeMill 0x10240001 = .ok (.npbWf 9) ∧
    decodeMill 0x10258002 = .ok (.npbSet 9 6) ∧
    decodeMill 0x16400AAA = .ok (.nliScalar 9 2730) ∧
    decodeMill 0x16440AAA = .ok (.nliShift 9 2730) :=
  ⟨rfl, rfl, rfl, rfl, rfl, rfl, rfl, rfl, rfl, rfl⟩

theorem test_decode_mill_1 :
    decodeMill 0x16482AAA = .ok (.nliVector 9 2 2730) ∧
    decodeMill 0x164DA000 = .ok (.nliFromMx 9 6 2) ∧
    decodeMill 0x1A580AAA = .ok (.naddi 9 6 2730) ∧
    decodeMill 0x1E5B63A8 = .ok (.nadd 9 6 13 2 1 1 21) ∧
    decodeMill 0x1E5B4C00 = .ok (.naddScalar 9 6 13 2) ∧
    decodeMill 0x225B63A8 = .ok (.nsub 9 6 13 2 1 1 21) ∧
    decodeMill 0x225B4C00 = .ok (.nsubScalar 9 6 13 2) ∧
    decodeMill 0x265B63A8 = .ok (.nmul 9 6 13 2 1 1 21) ∧
    decodeMill 0x265B4C00 = .ok (.nmulScalar 9 6 13 2) ∧
    decodeMill 0x2A5B63A8 = .ok (.nfma 9 6 13 2 1 21) :=
  ⟨rfl, rfl, rfl, rfl, rfl, rfl, rfl, rfl, rfl, rfl⟩

theorem test_decode_mill_2 :
    decodeMill 0x2E5B63A8 = .ok (.nmax 9 6 13 2 1 1 21) ∧
    decodeMill 0x2E5B4C00 = .ok (.nmaxScalar 9 6 13 2) ∧
    decodeMill 0x325B63A8 = .ok (.nmin 9 6 13 2 1 1 21) ∧
    decodeMill 0x325B4C00 = .ok (.nminScalar 9 6 13 2) ∧
    decodeMill 0x365B63A8 = .ok (.nand 9 6 13 2 1 1 21) ∧
    decodeMill 0x365B4C00 = .ok (.nandScalar 9 6 13 2) ∧
    decodeMill 0x3A5B63A8 = .ok (.nor 9 6 13 2 1 1 21) ∧
    decodeMill 0x3A5B4C00 = .ok (.norScalar 9 6 13 2) ∧
    decodeMill 0x3E5B63A8 = .ok (.nxor 9 6 13 2 1 1 21) ∧
    decodeMill 0x3E5B4C00 = .ok (.nxorScalar 9 6 13 2) :=
  ⟨rfl, rfl, rfl, rfl, rfl, rfl, rfl, rfl, rfl, rfl⟩

theorem test_decode_mill_3 :
    decodeMill 0x425B63A8 = .ok (.nshl 9 6 13 2 1 1 21) ∧
    decodeMill 0x425B4C00 = .ok (.nshlScalar 9 6 13 2) ∧
    decodeMill 0x465B63A8 = .ok (.nshr 9 6 13 2 1 1 21) ∧
    decodeMill 0x465B4C00 = .ok (.nshrScalar 9 6 13 2) ∧
    decodeMill 0x4A5B6000 = .ok (.nperm 9 6 13 2) ∧
    decodeMill 0x4E5825D9 = .ok (.ncvt 9 6 2 5 13 9) ∧
    decodeMill 0x50A595AD = .ok (.ncmp 2 9 6 1 2 1 21 5) ∧
    decodeMill 0x565B61A8 = .ok (.nsel 9 6 13 2 1 21) ∧
    decodeMill 0x5A5B6035 = .ok (.ndot 9 6 13 2 1 21) ∧
    decodeMill 0x5A5B6415 = .ok (.ndotBf16 9 6 13 2 21) :=
  ⟨rfl, rfl, rfl, rfl, rfl, rfl, rfl, rfl, rfl, rfl⟩

theorem test_decode_mill_4 :
    decodeMill 0x5E582205 = .ok (.nred 9 6 2 1 5) ∧
    decodeMill 0x5E582A05 = .ok (.nredScalar 9 6 2 1 5) ∧
    decodeMill 0x62582200 = .ok (.nexp2 9 6 2) ∧
    decodeMill 0x665B6000 = .ok (.nsmx 9 6 13 2) ∧
    decodeMill 0x6A5B4005 = .ok (.ntrip 9 6 13 5) ∧
    decodeMill 0x6E5B4000 = .ok (.nskip 9 6 13) ∧
    decodeMill 0x725822AA = .ok (.nidx 9 6 2 682) ∧
    decodeMill 0x7080185A = .ok (.nidxW 2 1 90) ∧
    decodeMill 0x74240AAA = .ok (.nloop 9 2730) ∧
    decodeMill 0x78000AAA = .ok (.nbr 2730) :=
  ⟨rfl, rfl, rfl, rfl, rfl, rfl, rfl, rfl, rfl, rfl⟩

theorem test_decode_mill_5 :
    decodeMill 0x7C640AAA = .ok (.nbrc 1 9 2730) ∧
    decodeMill 0x7CC08AAA = .ok (.nbrcMask 1 2 2730) ∧
    decodeMill 0x80240AAA = .ok (.nsems 9 2730) ∧
    decodeMill 0x84240000 = .ok (.nsemw 9) ∧
    decodeMill 0x8A400001 = .ok (.nflag 9 1) ∧
    decodeMill 0x8C000000 = .ok (.nend) :=
  ⟨rfl, rfl, rfl, rfl, rfl, rfl⟩

/-! ### Command records written out from Table 02.2, the last doubleword first -/

/-- A record from its doublewords at 0x00 to 0x38. -/
def recordOf (d0 d1 d2 d3 d4 d5 d6 d7 : Word) : BitVec 512 := d7 ++ d6 ++ d5 ++ d4 ++ d3 ++ d2 ++ d1 ++ d0

theorem test_decode_levels :
    decodeCommand (recordOf 0x01000000AABBCCDD 0x00000F0000000000 0x0000123456780000 0 0 0 0 0) =
      .ok (.jobopen ⟨0xAABBCCDD, 0, false, false, 0x00000F0000000000, 0x123456780000, 0, 0, 0, 0⟩) ∧
    decodeCommand (recordOf 0x0200000000000001 0x0000030000000000 0 0 0 0 0 0) =
      .ok (.jobend ⟨1, 0, false, false, 0x0000030000000000, 0, 0, 0, 0, 0⟩) ∧
    decodeCommand (recordOf 0x0300000000000002 0x0000037F00000000 0 0 0 0 0 0) =
      .ok (.phaseopen ⟨2, 0, false, false, 0x0000037F00000000, 0, 0, 0, 0, 0⟩) ∧
    decodeCommand (recordOf 0x0400000000000003 0x0000037F00000000 0 0 0 0 0 0) =
      .ok (.phaseclose ⟨3, 0, false, false, 0x0000037F00000000, 0, 0, 0, 0, 0⟩) ∧
    decodeCommand (recordOf 0x080C000000000004 0x0000037F00000000 0 0 0 0 0 0) =
      .ok (.cancelCommand ⟨4, 3, false, false, 0x0000037F00000000, 0, 0, 0, 0, 0⟩) := ⟨rfl, rfl, rfl, rfl, rfl⟩

theorem test_decode_launches :
    decodeCommand (recordOf 0x0503000000000005 0x0000030000000ABC 0x0000000000001240 64 128 0x5640 0x9A80 0) =
      .ok (.launch ⟨5, 0, true, true, 0x0000030000000ABC, 0x1240, 64, 128, 0x5640, 0x9A80⟩) ∧
    decodeCommand (recordOf 0x0600000000000006 0x0000030003FF0001 0x0000000000001280 3 0 0 0 0) =
      .ok (.replay ⟨6, 0, false, false, 0x0000030003FF0001, 0x1280, 3, 0, 0, 0⟩) ∧
    decodeCommand (recordOf 0x0700000000000007 0x0000030000000000 0x0000000000001280 16 0 0x40 0x80 0) =
      .ok (.gpatch ⟨7, 0, false, false, 0x0000030000000000, 0x1280, 16, 0, 0x40, 0x80⟩) := ⟨rfl, rfl, rfl⟩

/-- OPC 0x00 and 0x09, and a reserved bit, are rejected (R37). -/
theorem test_decode_bad_records :
    decodeCommand (recordOf 0 0 0 0 0 0 0 0) = .error .badOpcode ∧ decodeCommand (recordOf 0x0900000000000000 0 0 0 0 0 0 0) = .error .badOpcode ∧
    decodeCommand (recordOf 0x0220000000000001 0x0000030000000000 0 0 0 0 0 0) = .error .reservedField ∧
    decodeCommand (recordOf 0x0800000000000001 0x0000030000000000 0 0 0 0 0 0) = .error .badLevel := ⟨rfl, rfl, rfl, rfl⟩

/-! ### Reserved words and bytes -/

/-- A zero word, MAJOR 0x0B and MAJOR 0x7D are reserved, and so is minor 0x13 of MAJOR 0x10 (R96, R97). -/
theorem test_decode_reserved :
    decodeWord 0 = .error .reservedMajor ∧ decodeWord 0x0005800000000000 = .error .reservedMajor ∧
    decodeWord 0x003E800000000000 = .error .reservedMajor ∧ decodeWord 0x0008000000004C00 = .error .reservedMinor ∧
    decodeMill 0 = .error .reservedField ∧ decodeMill 0x90000000 = .error .reservedField ∧
    decodeMill 0x8C000001 = .error .reservedField := ⟨rfl, rfl, rfl, rfl, rfl, rfl, rfl⟩

theorem test_decode_short_bytes :
    decodeWordBytes [0, 0, 0] = .error .tooShort ∧ decodeMillBytes [0] = .error .tooShort ∧
    decodeCommandBytes [1] = .error .tooShort := ⟨rfl, rfl, rfl⟩

/-! ### Each check of WellFormed refuses a term -/

/-- A format A operand of zeros. -/
def zeroA : FmtA := ⟨0, 0, 0, false, 0, false, 0, false, 0, false, 0, 0⟩
/-- A format C operand of zeros. -/
def zeroC : FmtC := ⟨0, 0, false, 0, false, 0, false, 0, false, 0⟩
/-- A format M operand of zeros. -/
def zeroM : FmtM := ⟨0, 0, false, 0, false, 0, 0, 0, false⟩
/-- A format I operand of zeros. -/
def zeroI : FmtI := ⟨0, 0, 0, false, 0, 0⟩

theorem test_wellformed_registers :
    (Instr.vadd { zeroA with rd := 32, ty := 9 }).illFormed = some .badRegister ∧
    (Instr.cmp 0 zeroA).illFormed = some .badRegister ∧ (Instr.cmp 0 { zeroA with rd := 12 }).illFormed = some .badRegister ∧
    (Instr.cbinit { zeroA with rd := 16 }).illFormed = some .badRegister ∧
    (Instr.vld 0 { zeroM with ra := 16 }).illFormed = some .badRegister ∧
    (Instr.brc ⟨0, 12, false, 0⟩).illFormed = some .badRegister := by decide

theorem test_wellformed_unused_fields :
    (Instr.nop { zeroA with ra := 1 }).illFormed = some .reservedField ∧
    (Instr.add { zeroA with rc := 1 }).illFormed = some .reservedField ∧
    (Instr.ret ⟨0, 0, false, 8⟩).illFormed = some .reservedField ∧
    (Instr.trap { zeroI with imm := 0x100 }).illFormed = some .reservedField ∧
    (Instr.lih ⟨0, 1, 0x1000000⟩).illFormed = some .reservedField ∧
    (Instr.loopi ⟨0, 1, 0⟩).illFormed = some .reservedField ∧
    (Instr.tld { zeroC with cimm := 0x10 }).illFormed = some .reservedField ∧
    (Instr.tld { zeroC with sw := 1 }).illFormed = some .reservedField ∧
    (Instr.leaseRecall zeroC).illFormed = some .reservedField ∧
    (Instr.csrw { zeroI with imm := 1 }).illFormed = some .reservedField ∧
    (Instr.pset { zeroI with rd := 1, imm := 0x400 }).illFormed = some .reservedField := by decide

theorem test_wellformed_last_use :
    (Instr.add { zeroA with lc := true }).illFormed = some .badLastUse ∧
    (Instr.ldd { zeroM with ld := true }).illFormed = some .badLastUse ∧
    (Instr.call ⟨0, 0, true, 0⟩).illFormed = some .badLastUse := by decide

theorem test_wellformed_guards :
    (Instr.add { zeroA with pred := 12 }).illFormed = some .badGuard ∧
    (Instr.add { zeroA with pn := true }).illFormed = some .badGuard ∧
    (Instr.nop { zeroA with pred := 1 }).illFormed = some .badGuard ∧
    (Instr.addi { zeroI with pred := 15 }).illFormed = some .badGuard := by decide

theorem test_wellformed_types :
    (Instr.add { zeroA with ty := 4 }).illFormed = some .badType ∧
    (Instr.vadd { zeroA with ty := 1 }).illFormed = some .badType ∧
    (Instr.vsint { zeroA with ty := 10 }).illFormed = some .badType ∧
    (Instr.vcmp 6 { zeroA with rd := 1, ty := 4 }).illFormed = some .badType ∧
    (Instr.vcvt 0 { zeroA with ty := 9 }).illFormed = some .badType := by decide

theorem test_wellformed_modifiers :
    (Instr.add { zeroA with mod := 1 }).illFormed = some .badModifier ∧
    (Instr.vadd { zeroA with ty := 9, mod := 4 }).illFormed = some .badModifier ∧
    (Instr.vadd { zeroA with ty := 4, mod := 8 }).illFormed = some .badModifier ∧
    (Instr.fence zeroA).illFormed = some .badModifier ∧ (Instr.aadd { zeroA with rd := 5, mod := 9 }).illFormed = some .badModifier ∧
    (Instr.aswp { zeroA with mod := 9 }).illFormed = some .badModifier := by decide

theorem test_wellformed_orders :
    (Instr.ldd { zeroM with ord := 3 }).illFormed = some .badOrder ∧ (Instr.std { zeroM with ord := 2 }).illFormed = some .badOrder ∧
    (Instr.lds { zeroM with ord := 1 }).illFormed = some .badOrder := by decide

theorem test_wellformed_minors :
    (Instr.cmp 6 { zeroA with rd := 1 }).illFormed = some .reservedMinor ∧
    (Instr.vred 6 { zeroA with ty := 4 }).illFormed = some .reservedMinor := by decide

theorem test_wellformed_commands :
    (Instr.jobend ⟨0, 0, false, false, 0, 1, 0, 0, 0, 0⟩).illFormed = some .reservedField ∧
    (Instr.jobopen ⟨0, 0, false, false, 1, 0, 0, 0, 0, 0⟩).illFormed = some .reservedField ∧
    (Instr.cancelCommand ⟨0, 5, false, false, 0, 0, 0, 0, 0, 0⟩).illFormed = some .badLevel := by decide

theorem test_wellformed_mill :
    (Instr.nadd 1 2 3 0 3 0 0).illFormed = some .millValue ∧ (Instr.nadd 1 2 3 0 0 0 1).illFormed = some .millValue ∧
    (Instr.naddScalar 1 2 3 1).illFormed = some .millValue ∧ (Instr.ncmp 0 1 2 0 0 0 0 0).illFormed = some .millValue ∧
    (Instr.ncmp 1 1 2 0 0 0 0 6).illFormed = some .millValue ∧ (Instr.ncvt 1 2 0 2 10 9).illFormed = some .millValue ∧
    (Instr.ndot 1 2 3 0 0 8).illFormed = some .millValue ∧ (Instr.nred 1 2 0 1 3).illFormed = some .millValue ∧
    (Instr.ntrip 15 1 2 1).illFormed = some .millValue ∧ (Instr.nloop 1 0).illFormed = some .millValue ∧
    (Instr.nsems 1 0).illFormed = some .millValue ∧ (Instr.nidxW 0 0 0).illFormed = some .millValue := by decide

/-! ### States that meet the hypotheses of the statements -/

namespace Sys2Proof.Tests
open Sys2Proof.Claims

/-- A crew at count 5 with x10 = 64 and x11 = 3, and tile register t1 the region of the manual's example of Table 08.4. -/
def crewA : Crew :=
  { Crew.create 7 1 0 0x1000 0x1000 0 [] false 0 with
    counter := 5, x := ((Vector.replicate 64 0).set 10 64).set 11 3, tdef := (Vector.replicate 16 0).set 1 0x0040800400010000 }
/-- A crew on bench 0 of core 0 whose stream's word runs. -/
def bench (c : Crew) (str : Stream) : State := { State.reset with cur := .crew 0 str, crews := [(0, c)] }
/-- A crew on the Reeve of cluster 0 whose word runs. -/
def onReeve (c : Crew) : State := { State.reset with cur := .crew 1024 .s, crews := [(1024, c)] }
/-- xD = x13, xA = x10, xB = x11. -/
def opA : FmtA := { zeroA with rd := 13, ra := 10, rb := 11 }
/-- xA = x10, xB = x11 in a command word, tile register t1. -/
def opC : FmtC := { zeroC with ra := 10, rb := 11, cimm := 1 }

/-- A word without a guard runs on a crew with nothing in flight. -/
theorem runs (s : State) (k : Nat) (str : Stream) (c : Crew) (streams : Streams) (privileged : Bool)
    (guard : Option (Nat × Bool)) (reads : List (RegFile × Nat)) (h1 : s.cur = .crew k str) (h2 : crewAt s k = some c)
    (h3 : streams.allows str = true) (h4 : privileged = true → isReeve k = true) (h5 : guard.getD (0, false) = (0, false))
    (h6 : c.strict = 0) (h7 : c.pendX = []) : WordRuns s k str c streams privileged guard reads := by
  refine ⟨h1, h2, h3, h4, ?_, ?_, ?_, ?_⟩
  · simp [deadSource, h6]
  · simp [h5, readP]
  · simp [deadSource, h6]
  · simp [lateSource, lateRead, h7]

/-- The same of a crew on a bench. -/
theorem benchRuns (c : Crew) (str : Stream) (streams : Streams) (guard : Option (Nat × Bool)) (reads : List (RegFile × Nat))
    (h3 : streams.allows str = true) (h5 : guard.getD (0, false) = (0, false)) (h6 : c.strict = 0) (h7 : c.pendX = []) :
    WordRuns (bench c str) 0 str c streams false guard reads :=
  runs _ _ _ _ _ _ _ _ rfl rfl h3 (by simp) h5 h6 h7

/-- The same of a crew on a Reeve. -/
theorem reeveRuns (c : Crew) (privileged : Bool) (guard : Option (Nat × Bool)) (reads : List (RegFile × Nat))
    (h5 : guard.getD (0, false) = (0, false)) (h6 : c.strict = 0) (h7 : c.pendX = []) :
    WordRuns (onReeve c) 1024 .s c .s privileged guard reads :=
  runs _ _ _ _ _ _ _ _ rfl rfl rfl (fun _ => by decide) h5 h6 h7

/-- A vector word runs on a crew with nothing in flight and no pipe held. -/
theorem vectorRuns (c : Crew) (f : VFrame) (h6 : c.strict = 0) (h7 : c.pendX = []) (h8 : c.pipes = [])
    (h9 : f.groups.all (fun g => g.1 % g.2 == 0) = true) (h10 : f.scalars = []) : VectorRuns (bench c .v) 0 c f := by
  refine ⟨benchRuns c .v .v none _ rfl rfl h6 h7, ?_, ?_, ?_⟩
  · simpa [List.any_eq_false] using h9
  · cases h : f.use <;> simp [useHeld, resourceHeld, h8, mapGet]
  · simp [poisonedX, h10]

end Sys2Proof.Tests
open Sys2Proof.Tests Sys2Proof.Claims

theorem test_witness_ScalarArithmetic :
    WordRuns (bench crewA .s) 0 .s crewA .s false (guardA opA) (readsA opA 2) ∧
    WordRuns (bench crewA .s) 0 .s crewA .s false none [] ∧
    tagX (bench crewA .s) crewA 0 opA.ra = false ∧ tagX (bench crewA .s) crewA 1 opA.rb = false ∧
    tagX (bench { crewA with xPoison := 0x400 } .s) { crewA with xPoison := 0x400 } 0 opA.ra = true ∧
    tagX (bench { crewA with xPoison := 0x800 } .s) { crewA with xPoison := 0x800 } 1 opA.rb = true :=
  ⟨benchRuns _ _ _ _ _ rfl rfl rfl rfl, benchRuns _ _ _ _ _ rfl rfl rfl rfl, rfl, rfl, rfl, rfl⟩

theorem test_witness_BitFieldAndHashResults :
    WordRuns (bench crewA .s) 0 .s crewA .s false (guardA opA) (readsA opA 3) := benchRuns _ _ _ _ _ rfl rfl rfl rfl

theorem test_witness_ScalarWordFrame :
    ∃ t d, (bench crewA .s).cur = .crew 0 .s ∧ crewAt (bench crewA .s) 0 = some crewA ∧
      exec (.add opA) (bench crewA .s) = .next t ∧ crewAt t 0 = some d ∧ d.state = .running ∧ d.s.last = some crewA.counter :=
  ⟨_, _, rfl, rfl, rfl, rfl, rfl, rfl⟩

/-- A landing crew: a write to x13 with bound 1, with the count before and at its bound. -/
theorem test_witness_RegisterReadsAndLandings :
    (13 : BitVec 6) ≠ 0 ∧ crewA.freed = [] ∧ crewA.pendX = [] ∧ crewA.pendV = [] ∧ crewA.pendP = [] ∧
    (landDue 0 { pendX crewA .s 13 77 false 1 with counter := 5 }).x[13] = 0 ∧
    (landDue 0 { pendX crewA .s 13 77 false 1 with counter := 6 }).x[13] = 77 :=
  ⟨by decide, rfl, rfl, rfl, rfl, rfl, rfl⟩

theorem test_witness_BranchesAndLoops :
    WordRuns (bench crewA .v) 0 .v crewA .both false none [(.p, 1)] ∧
    (readP (bench crewA .v) crewA 0 0).getLsbD 0 = true ∧ (readP (bench crewA .v) crewA 0 1).getLsbD 0 = false ∧
    tagX (bench crewA .s) crewA 0 10 = false ∧ (0x1000 + (8 : Word) * 8).toNat % 8 = 0 ∧
    (readX (bench crewA .s) crewA 0 11 + 0).toNat % 8 ≠ 0 ∧
    deadSource crewA [(.x, 62)] = none ∧ lateRead crewA 62 = false ∧
    WordRuns (bench { crewA with brQ := [⟨none, 1, false, 4⟩] } .v) 0 .v { crewA with brQ := [⟨none, 1, false, 4⟩] } .v false none [] ∧
    (1 : Word).getLsbD 0 = true ∧ (0 : Word).getLsbD 0 = false :=
  ⟨benchRuns _ _ _ _ _ rfl rfl rfl rfl, rfl, rfl, rfl, rfl, by decide, rfl, rfl, benchRuns _ _ _ _ _ rfl rfl rfl rfl, rfl, rfl⟩

/-- Streams at the last word of a loop with two turns left, with one, and with an enclosing loop that ends on the same word. -/
theorem test_loop_ends :
    let l (start n : Word) : Loop := { start := start, last := 0x1010, remaining := n }
    let st (ls : List Loop) : StreamState := { StreamState.start 0x1010 with loops := ls }
    wordAfter (st [l 0x1008 2]) = (0x1008, [l 0x1008 1]) ∧ wordAfter (st [l 0x1008 1]) = (0x1018, []) ∧
    wordAfter (st [l 0x1008 1, l 0x1000 3]) = (0x1000, [l 0x1000 2]) ∧ wordAfter (st [l 0x1008 1, l 0x1000 1]) = (0x1018, []) :=
  ⟨rfl, rfl, rfl, rfl⟩

theorem test_witness_StreamAndQueueWords :
    WordRuns (bench crewA .s) 0 .s crewA .both false none [] ∧ WordRuns (bench crewA .v) 0 .v crewA .both false none [] ∧
    WordRuns (bench crewA .s) 0 .s crewA .s false (guardA opA) (readsA opA 1) ∧ fillingLoad crewA 10 = none ∧
    crewA.brQ.length < 32 ∧ crewA.dataQ.length < 16 ∧ crewA.v.exited = false ∧ crewA.v.rvz = none ∧
    ({ crewA with v := { crewA.v with rvz := some (3, 0x1000, 0) } } : Crew).v.rvz.isSome = true :=
  ⟨benchRuns _ _ _ _ _ rfl rfl rfl rfl, benchRuns _ _ _ _ _ rfl rfl rfl rfl, benchRuns _ _ _ _ _ rfl rfl rfl rfl, rfl,
   by decide, by decide, rfl, rfl, rfl⟩

theorem test_witness_TrapsAreTaken :
    WordRuns (bench crewA .s) 0 .s crewA .both false none [] ∧ WordRuns (bench crewA .s) 0 .s crewA .s false (some (0, false)) [] ∧
    crewAt (bench crewA .s) 0 = some crewA ∧ (reeveAt (bench crewA .s) 0).records = [] ∧
    ((reeveAt (bench crewA .s) 0).trqtail - (reeveAt (bench crewA .s) 0).trqhead).toNat <
      2 ^ (bits (reeveAt (bench crewA .s) 0).trqbase 3 0 + 6) :=
  ⟨benchRuns _ _ _ _ _ rfl rfl rfl rfl, benchRuns _ _ _ _ _ rfl rfl rfl rfl, rfl, rfl, by decide⟩

/-- x10 = 64 is aligned to every size, x11 = 3 to no size but one byte. -/
theorem test_witness_ScalarMemoryWordsIssue :
    WordRuns (bench crewA .s) 0 .s crewA .s false (some (0, false)) [(.x, 10), (.x, 11)] ∧
    tagX (bench crewA .s) crewA 0 10 = false ∧ tagX (bench crewA .s) crewA 1 11 = false ∧
    (readX (bench crewA .s) crewA 0 10 + 0).toNat % 8 = 0 ∧ (readX (bench crewA .s) crewA 0 11 + 0).toNat % 2 ≠ 0 ∧
    isReeve 0 = false ∧ tlbHit (bench crewA .s) 0 0 64 .load = none :=
  ⟨benchRuns _ _ _ _ _ rfl rfl rfl rfl, rfl, rfl, rfl, by decide, rfl, rfl⟩

theorem test_witness_AtomicOrderingAndWaitWordsIssue :
    WordRuns (bench crewA .s) 0 .s crewA .s false (guardA opA) (readsA opA 3) ∧
    (readX (bench crewA .s) crewA 0 10).toNat % 64 = 0 ∧ (readX (bench crewA .s) crewA 1 11) ≠ 0 ∧
    crewA.waitValue = none ∧ waitEntry crewA = none ∧ tlbHit (bench crewA .s) 0 0 64 .load = none ∧
    ({ crewA with waitValue := some 9 } : Crew).waitValue = some 9 ∧
    (waitEntry { crewA with log := [entryOf (bench crewA .s) crewA .waitc 64 3 0 2 13] }).isSome = true ∧
    (waitEntry { crewA with log := [entryOf (bench crewA .s) crewA .msemwait 64 0 0 2 0] }).isSome = true :=
  ⟨benchRuns _ _ _ _ _ rfl rfl rfl rfl, rfl, by decide, rfl, rfl, rfl, rfl, rfl, rfl⟩

/-- A state with launch 3 of job 0 active. -/
def withLevel (s : State) : State :=
  { s with levels := mapSet s.levels (1 * 65536 + 3) { levelAt s 1 3 with state := .active, job := 0 } }

theorem test_witness_CoreSemaphoreAndCancelWords :
    WordRuns (bench crewA .s) 0 .s crewA .s false (guardA opA) (readsA opA 2) ∧
    WordRuns (onReeve crewA) 1024 .s crewA .s false (guardA opA) [] ∧
    bits (readX (bench crewA .s) crewA 0 10) 63 32 = 0 ∧ signalsPending crewA = false ∧ readX (bench crewA .s) crewA 0 10 ≠ 0 ∧
    semMay (bench crewA .s) 0 3 (.crew 0) = false ∧
    semMay (putSem (bench crewA .s) 0 3 { semAt (bench crewA .s) 0 3 with count := 1 }) 0 3 (.crew 0) = true ∧
    bits (3 : Word) 2 0 = 3 ∧ jobOf (bench crewA .s) crewA = bits (3 : Word) 43 40 ∧
    (levelAt (bench crewA .s) 1 3).state ≠ .active ∧ (levelAt (withLevel (bench crewA .s)) 1 3).state = .active ∧
    (levelAt (withLevel (bench crewA .s)) 1 3).job = bits (3 : Word) 43 40 ∧
    jobOf (bench crewA .s) crewA ≠ bits (0x10000000000 : Word) 43 40 :=
  ⟨benchRuns _ _ _ _ _ rfl rfl rfl rfl, reeveRuns _ _ _ _ rfl rfl rfl, rfl, rfl, by decide, rfl, rfl, rfl, rfl, by decide, rfl,
   rfl, by decide⟩

/-- vD = v3, vA = v1, vB = v2, of type I32, UI8, FP32. -/
def opV (ty : BitVec 4) : FmtA := { zeroA with rd := 3, ra := 1, rb := 2, rc := 4, ty := ty }

theorem test_witness_IntegerAndLogicVectorElements :
    formatOf 4 = none ∧ VectorRuns (bench crewA .v) 0 crewA (frameA (opV 4) 2 2) ∧
    VectorRuns (bench crewA .v) 0 crewA (frameA (opV 6) 1 2) :=
  ⟨rfl, vectorRuns _ _ rfl rfl rfl rfl rfl, vectorRuns _ _ rfl rfl rfl rfl rfl⟩

theorem test_witness_FloatAndWideningVectorElements :
    (formatOf 9).isSome = true ∧ VectorRuns (bench crewA .v) 0 crewA (frameA (opV 9) 3 2) ∧
    VectorRuns (bench crewA .v) 0 crewA (convertFrame { opV 9 with rd := 4 } 0xB 9) ∧
    VectorRuns (bench crewA .v) 0 crewA { frameA { opV 0xB with rd := 4 } 2 4 with groups := [(4, 2)] } ∧
    VectorRuns (bench crewA .v) 0 crewA (quantiseFrame { opV 0xC with ra := 2 } 2) ∧
    VectorRuns (bench crewA .v) 0 crewA { frameA { opV 1 with rd := 4 } 2 8 with groups := [(4, 4)] } :=
  ⟨rfl, vectorRuns _ _ rfl rfl rfl rfl rfl, vectorRuns _ _ rfl rfl rfl rfl rfl, vectorRuns _ _ rfl rfl rfl rfl rfl,
   vectorRuns _ _ rfl rfl rfl rfl rfl, vectorRuns _ _ rfl rfl rfl rfl rfl⟩

theorem test_witness_SelectionVectorElements :
    VectorRuns (bench crewA .v) 0 crewA { frameA (opV 9) 2 2 with reads := [(.v, 1), (.v, 2), (.p, 4)] } ∧
    VectorRuns (bench crewA .v) 0 crewA (laneFrame (opV 9) [(0, 10, false)] []) ∧
    VectorRuns (bench crewA .v) 0 crewA (laneFrame (opV 9) [(1, 11, false), (2, 12, false)] [(1, false)]) ∧
    WordRuns (bench crewA .v) 0 .v crewA .v false (guardA (opV 9)) [(.v, 1), (.x, 2)] ∧
    WordRuns (bench { crewA with dataQ := [⟨none, 8, false, 4⟩] } .v) 0 .v { crewA with dataQ := [⟨none, 8, false, 4⟩] } .v false
      (guardA (opV 0)) [] :=
  ⟨vectorRuns _ _ rfl rfl rfl rfl rfl, ⟨benchRuns _ _ _ _ _ rfl rfl rfl rfl, rfl, rfl, rfl⟩,
   ⟨benchRuns _ _ _ _ _ rfl rfl rfl rfl, rfl, rfl, rfl⟩, benchRuns _ _ _ _ _ rfl rfl rfl rfl, benchRuns _ _ _ _ _ rfl rfl rfl rfl⟩

/-- An element that no active one outranks, and a guard under which no element is active. -/
theorem test_witness_ReductionsAndScan :
    VectorRuns (bench crewA .v) 0 crewA (frameA (opV 4) 1 2) ∧ outranks 4 true 3 5 = false ∧ outranks 4 true 5 3 = true ∧
    active (0 : PredReg) 32 7 = false ∧ active (0xFFFF : PredReg) 32 7 = true :=
  ⟨vectorRuns _ _ rfl rfl rfl rfl rfl, rfl, rfl, rfl, rfl⟩

theorem test_witness_PredicateAndVectorMemoryWords :
    VectorRuns (bench crewA .v) 0 crewA (frameA (opV 4) 2 2) ∧
    VectorRuns (bench crewA .v) 0 crewA { pred := 0, pn := false, groups := [], use := none, reads := [(.p, 1), (.p, 2)],
                                          frees := [(.p, 1, false), (.p, 2, false)], scalars := [] } ∧
    WordRuns (bench crewA .v) 0 .v crewA .v false none [(.x, 10)] ∧ crewA.vstores = [] ∧
    VectorRuns (bench crewA .v) 0 crewA (memFrame 0 false 2 [(3, false)]) ∧
    tileUse (bench crewA .v) 0 (holdsPath crewA 2) 1 false = .region (regionOf 0x0040800400010000) ∧
    tileUse (bench crewA .v) 0 (holdsPath crewA 4) 1 true = .region (regionOf 0x0040800400010000) ∧
    (0x200 : BitVec 22).toNat % 64 = 0 ∧ (0x200 : BitVec 22).toInt ≥ 0 ∧ (0x3FFFC0 : BitVec 22).toInt < 0 ∧
    (0x1FFFC0 : BitVec 22).toInt ≥ 0 :=
  ⟨vectorRuns _ _ rfl rfl rfl rfl rfl, vectorRuns _ _ rfl rfl rfl rfl rfl, benchRuns _ _ _ _ _ rfl rfl rfl rfl, rfl,
   vectorRuns _ _ rfl rfl rfl rfl rfl, rfl, rfl, rfl, by decide, by decide, by decide⟩

theorem test_witness_EngineCommandWordsTrap :
    WordRuns (onReeve crewA) 1024 .s crewA .s true none [(.x, 10), (.x, 11)] ∧
    WordRuns (bench crewA .s) 0 .s crewA .s false none [(.x, 10), (.x, 11)] ∧
    tagX (bench { crewA with xPoison := 0x400 } .s) { crewA with xPoison := 0x400 } 0 10 = true ∧
    tagX (bench { crewA with xPoison := 0x800 } .s) { crewA with xPoison := 0x800 } 1 11 = true ∧
    CommandRuns (onReeve crewA) 1024 crewA opC false true true :=
  ⟨reeveRuns _ _ _ _ rfl rfl rfl, benchRuns _ _ _ _ _ rfl rfl rfl rfl, rfl, rfl, reeveRuns _ _ _ _ rfl rfl rfl, fun _ => ⟨rfl, rfl⟩,
   fun _ => rfl, fun _ => rfl⟩

/-- A command word that reads two registers runs. -/
theorem benchCommand (c : Crew) (o : FmtC) (useA useB : Bool) (h6 : c.strict = 0) (h7 : c.pendX = []) (h8 : c.xPoison = 0)
    (h9 : c.freed = []) : CommandRuns (bench c .s) 0 c o false useA useB := by
  have tag : ∀ n r, tagX (bench c .s) c n r = false := by
    intro n r; simp [tagX, isFreed, unlanded, h7, h8, h9]
  exact ⟨benchRuns _ _ _ _ _ rfl rfl h6 h7, fun h => by simp [isReeve] at h, fun _ => tag _ _, fun _ => tag _ _⟩

theorem test_witness_EngineWordsQueueTheirCommands :
    CommandRuns (bench crewA .s) 0 crewA opC false true true ∧ (readX (bench crewA .s) crewA 0 10).toNat % 64 = 0 ∧
    (readX (bench crewA .s) crewA 1 11).toNat % 16 ≠ 0 ∧ (tileRegion crewA 1).empty = false ∧ (tileRegion crewA 2).empty = true ∧
    wrongWay crewA 1 false = false ∧ 1 ≤ (readX (bench crewA .s) crewA 1 11).toNat ∧ (tileRegion crewA 1).lvl = 0 ∧
    bits (64 : Word) 39 35 = 0 ∧ bits (64 : Word) 63 41 = 0 ∧ gleanerTile crewA = none ∧
    gleanerTile { crewA with gleaner := { crewA.gleaner with configured := true, tile := 1 } } = some 1 ∧
    circOk 0 0x0040800400010000 0x0000800000000001 = true ∧ circOk 0 0x0040800400010000 0x0000800000000000 = false ∧
    marked (bench crewA .s) 0 crewA 1 = false :=
  ⟨benchCommand _ _ _ _ rfl rfl rfl rfl, rfl, by decide, rfl, rfl, rfl, by decide, rfl, rfl, rfl, rfl, rfl, rfl, rfl, rfl⟩

theorem test_witness_MatrixBankAndPorterWordsQueue :
    CommandRuns (bench crewA .s) 0 crewA opC false true true ∧ CommandRuns (onReeve crewA) 1024 crewA opC true true false ∧
    rowOk 0 64 = true ∧ rowOk 0 0x20000 = false ∧ (64 : Word) ≠ 0 ∧ bits (64 : Word) 63 34 = 0 ∧ crewA.claim = none ∧
    ({ crewA with claim := some 3 } : Crew).claim = some 3 ∧ (3 : Word).getLsbD 1 = true ∧ (0x300000000 : Word).getLsbD 32 = true ∧
    rowsFor (tileRegion crewA 1) 256 = true ∧ (3 : Word).toNat < 4 ^ 1 ∧ bits (2 : Word) 1 0 ≠ 3 ∧
    bits (0x40 : Word) 16 0 % 64 = 0 ∧ 64 ≤ bits (0x40 : Word) 16 0 ∧ (64 : Word).toNat % 32 = 0 :=
  ⟨benchCommand _ _ _ _ rfl rfl rfl rfl, ⟨reeveRuns _ _ _ _ rfl rfl rfl, fun _ => ⟨rfl, rfl⟩, fun _ => rfl, fun h => by cases h⟩,
   rfl, rfl, by decide, rfl, rfl, rfl, rfl, rfl, rfl, by decide, by decide, rfl, by decide, rfl⟩

/-- A format I word of register x10 with this immediate. -/
def opI (imm : BitVec 30) : FmtI := { zeroI with rd := 13, ra := 10, imm := imm }

/-- CSRR of a Reeve's register and of none on a bench, CSRW of a rounding mode that is one and of one that is none, of a tile
register that is free and of one that a queued command marks, and of rings that are whole in their window and one that is not. -/
theorem test_witness_ControlRegisterWords :
    WordRuns (bench crewA .s) 0 .s crewA .s false (some ((opI 2).pred.toNat, false)) [(.x, 10)] ∧
    WordRuns (onReeve crewA) 1024 .s crewA .s false (some ((opI 2).pred.toNat, false)) [(.x, 10)] ∧
    tagX (bench crewA .s) crewA 0 10 = false ∧ isReeve 0 = false ∧ isReeve 1024 = true ∧
    bits (5 : Word) 2 0 ∈ [1, 2, 3, 4, 5] ∧ bits (6 : Word) 2 0 ∈ [0, 6, 7] ∧
    ((opI 0x04F).imm.extractLsb' 0 12).toNat = 0x4F ∧ marked (bench crewA .s) 0 crewA 0xF = false ∧
    (regionOf (tileDefinition 0x0040800400010000)).valid 0 = true ∧ (regionOf (tileDefinition 0x0040800400010003)).valid 0 = false ∧
    bits (16 : Word) 4 0 ≤ 16 ∧ 16 < bits (17 : Word) 4 0 ∧ wholeInWindow 0x1000 (32 * 2 ^ 16) = true ∧
    wholeInWindow 0x2FFFFFFFF000 (64 * 2 ^ 6) = false ∧ crewA.csrPend = [] ∧ crewA.pendX = [] ∧ crewA.pendF = [] :=
  ⟨benchRuns _ _ _ _ _ rfl rfl rfl rfl, reeveRuns _ _ _ _ rfl rfl rfl, rfl, rfl, rfl, by decide, by decide, rfl, rfl, rfl, rfl,
   by decide, by decide, rfl, rfl, rfl, rfl, rfl⟩

/-- A privileged word of two operands meets its premises on a Reeve. -/
theorem reevePair (c : Crew) (o : FmtA) (h6 : c.strict = 0) (h7 : c.pendX = []) (h8 : c.xPoison = 0) (h9 : c.freed = []) :
    ReeveRuns (onReeve c) 1024 c o := by
  have tag : ∀ n r, tagX (onReeve c) c n r = false := by
    intro n r; simp [tagX, isFreed, unlanded, h7, h8, h9]
  exact ⟨reeveRuns _ _ _ _ rfl h6 h7, tag _ _, tag _ _⟩

/-- A reference to core 1, bench 2 of its cluster, one with a bit that must be zero, a poisoned source, a bench. -/
theorem test_witness_PrivilegedWords :
    ReeveRuns (onReeve crewA) 1024 crewA opA ∧ plainReference 0x1200000003 ∧ ¬ plainReference 0x400 ∧
    WordRuns (onReeve { crewA with xPoison := 0x400 }) 1024 .s { crewA with xPoison := 0x400 } .s true none (readsA opA 2) ∧
    tagX (onReeve { crewA with xPoison := 0x400 }) { crewA with xPoison := 0x400 } 0 10 = true ∧
    (bench crewA .s).cur = .crew 0 .s ∧ crewAt (bench crewA .s) 0 = some crewA ∧ isReeve 0 = false ∧
    (0x10000 : Word) &&& 0xFFFF00000000FFFF = 0 ∧ (0xF00000001 : Word) &&& 0xFFFFFFF000000000 = 0 ∧
    (reeveAt (onReeve crewA) 0).trqhead = (reeveAt (onReeve crewA) 0).trqtail ∧ (1 : BitVec 32) ≠ 0 :=
  ⟨reevePair _ _ rfl rfl rfl rfl, by unfold plainReference; decide, by unfold plainReference; decide,
   reeveRuns _ _ _ _ rfl rfl rfl, rfl, rfl, rfl, rfl, by decide, by decide, rfl, by decide⟩

/-- The Reeve's crew with x10 = 0x700000000, a reference to crew 7 on bench 0 of core 0, and x11 as given, and another crew on that bench. -/
def reeveAbove (b : Word) (c : Crew) : State :=
  { State.reset with cur := .crew 1024 .s, crews := [(0, c), (1024, above b)] }
where
  /-- The Reeve's crew. -/
  above (b : Word) : Crew := { crewA with x := ((Vector.replicate 64 0).set 11 b).set 10 0x700000000 }

/-- A running crew, a TRAPPED one and one HELD by a faulted access below the Reeve, with every mode of ERET. -/
theorem test_witness_ReturnFromTraps :
    let held := { entryOf (bench crewA .s) crewA (.load 8 false) 64 0 0 0 13 with faulted := true, code := 0x12 }
    targetCrew (reeveAbove 0 crewA) 1024 (0x700000000) = some (0, crewA) ∧ targetCrew (onReeve crewA) 1024 0x700000000 = none ∧
    inTransfer (reeveAbove 0 crewA) 0 crewA.crewId .out = false ∧ crewA.state = .running ∧
    ({ crewA with state := .trapped } : Crew).state = .trapped ∧
    List.find? heldEntry ({ crewA with state := .held, log := [held] } : Crew).log = some held ∧
    ((3 : Word) &&& 0xFFFFFFFFFFFFFFFC = 0) ∧ crewA.log = [] ∧ bits ({ crewA with trapcause := 0x60 } : Crew).trapcause 7 0 = 0x60 ∧
    bits crewA.trapcause 7 0 ≠ 0x60 :=
  ⟨rfl, rfl, rfl, rfl, rfl, rfl, by decide, rfl, rfl, by decide⟩

/-- A state with job 3 open, its root block at 0x100000, and one large page that maps virtual addresses from 0, and from 2^39, to
physical ones from 0 with every permission. -/
def mapped (s : State) : State :=
  let put (s : State) (a : Nat) (v : Word) : State := hbmWrite s a (wordBytes v)
  let s := put (put (put s 0x100000 0x200001) 0x200000 0x300001) 0x300000 0x1F
  let s := put (put (put s 0x100008 0x210001) 0x210000 0x310001) 0x310000 0x1F
  { s with levels := mapSet s.levels (levelKey 4 3) { Level.never with state := .active, inUse := true, job := 3, root := 0x100000 } }
/-- A command with tag 9 that names job 3, and what else the caller gives. -/
def cmdOf (ids : Word) (addr0 : BitVec 48) (cnt : BitVec 32) (addr1 addr2 : BitVec 48) (am : Bool) : Cmd :=
  ⟨9, 0, am, false, 0x30000000000 ||| ids, addr0, cnt, 0, addr1, addr2⟩

/-- An outcome that is a value is that value, with the state it leaves. -/
theorem okPair {ε α : Type} (r : Except ε α × State) (d : α) (h : r.1.toBool = true) :
    r = (.ok (r.1.toOption.getD d), r.2) := by
  obtain ⟨x, s⟩ := r
  cases x with
  | error e => simp [Except.toBool] at h
  | ok a => rfl

theorem test_witness_RecordsReachTheControlNode :
    (255 : Nat) < 256 ∧ 0xFFFFFFFFFFFF < 2 ^ 48 ∧
    bits State.reset.port.cpbase 47 12 * 4096 + 16 * (State.reset.port.cptail.toNat % 2 ^ 8) + 16 ≤ 2 ^ 48 ∧
    ({ State.reset.port with ended := [(1, 2, 65539)] } : Port).ended = [(1, 2, 65539)] ∧ State.reset.port.retrain = false ∧
    (State.reset.port.cptail - (0xFFFFFFFF : Word).truncate 32).toNat < 2 ^ 8 ∧
    ({ State.reset.port with attesting := true } : Port).attesting = true ∧ State.reset.port.en = false ∧
    State.reset.port.attesting = false ∧ bits (0x1000 : Word) 47 6 ≠ 0 ∧ bits (2 : Word) 47 6 = 0 := by decide

/-- A job that is open and one that is not, a phase, a level that is ACTIVE, a misaligned root, a malformed record. -/
theorem test_witness_LevelCommands :
    (Instr.jobopen (cmdOf 0 0x1000 0 0 0 false)).illFormed = none ∧ (Instr.jobopen (cmdOf 0 0x1001 0 0 0 false)).illFormed = none ∧
    (Instr.jobend (cmdOf 0 0x1000 0 0 0 false)).illFormed.isSome = true ∧ (Instr.jobend (cmdOf 0 0 0 0 0 false)).illFormed = none ∧
    (Instr.phaseopen (cmdOf 0x4000000000 0 0 0 0 false)).illFormed = none ∧
    (Instr.phaseclose (cmdOf 0x4000000000 0 0 0 0 false)).illFormed = none ∧
    (Instr.cancelCommand { cmdOf 0 0 0 0 0 false with lvl := 4 }).illFormed = none ∧
    (levelAt State.reset 4 3).inUse = false ∧ openFor State.reset 4 3 3 = false ∧ (levelAt State.reset 3 0).inUse = false ∧
    openFor { State.reset with levels := [(levelKey 4 3, { Level.never with state := .active, inUse := true, job := 3 })] } 4 3 3 =
      true ∧ bits (0x30000000000 : Word) 43 40 = 3 := by decide

theorem test_witness_LaunchesCreateTheirUnits :
    let l := cmdOf 7 0x40000 2 0 0 true
    let t := cmdOf 7 0x40000 2 0 0 false
    let r := cmdOf 0x2050007 0x40000 1 0 0 false
    let p := cmdOf 0 0x40000 8 0x50000 0x8000060000 false
    let s := mapped State.reset
    let read := readVirtual s 0 3 0x50000 8 .dispatcher false
    ((Instr.launch l).illFormed = none ∧ (Instr.launch t).illFormed = none ∧ l.ids.getLsbD 25 = false ∧ l.cnt ≠ 0 ∧
      namesOpen s l = true ∧ namesOpen State.reset l = false ∧ (levelAt s 1 7).inUse = false ∧ countersFit s (outerLevels l) 2 = true) ∧
    ((Instr.replay r).illFormed = none ∧ r.ids.getLsbD 25 = true ∧ namesOpen s r = true ∧ (levelAt s 2 5).inUse = false ∧
      nodesBusy s 3 0x40000 = false ∧ countersFit s (outerLevels r) 1 = true) ∧
    ((Instr.gpatch p).illFormed = none ∧ openFor s 4 3 3 = true ∧ replayHolds s 3 0x40000 = false ∧ cpRoom s = true) ∧
    read = (.ok (read.1.toOption.getD []), read.2) ∧
    (let write := writeVirtual read.2 0 3 0x8000060000 [1, 2, 3, 4, 5, 6, 7, 8] false
     write = (.ok (write.1.toOption.getD ()), write.2)) ∧ storeRoom s = true :=
  ⟨by decide, by decide, by decide, okPair _ _ (by decide), okPair _ _ (by decide), by decide⟩

/-- The local target of an address of HBM. -/
def at0 (a : Nat) : Target := { tier := 0, addr := a, node := 0, chk := false, shr := 1, guardIx := 0 }
/-- The control node's target of an address. -/
def at2 (a : Nat) : Target := { tier := 2, addr := a, node := 0, chk := false, shr := 1, guardIx := 0 }
/-- A plain access of crew A at address 64 with operand 3, translated there, and before its translation. -/
def entryA (kind : LogKind) : LogEntry :=
  { Claims.entryOf (bench crewA .s) crewA kind 64 3 0 0 13 with phase := .going, target := some (at0 64) }
/-- Crew A with the one entry in its log. -/
def withEntry (e : LogEntry) : Crew := { crewA with log := [e] }

/-- An access that nothing holds back may be performed. -/
theorem performs (e : LogEntry) (h1 : e.target = some (at0 64)) (h2 : e.phase = .going) (h3 : e.faulted = false)
    (h4 : orderLets (bench (withEntry e) .s) 0 (withEntry e) e = true) (h5 : behindCommands (bench (withEntry e) .s) 0 (withEntry e) e = false)
    (h6 : targetMay (bench (withEntry e) .s) (at0 64) (entryBytes e) = true) :
    mayPerform (bench (withEntry e) .s) 0 (withEntry e) e (at0 64) := by
  refine ⟨rfl, ?_, h1, h2, h3, h4, h5, by decide, h6⟩
  simp [logEntry, withEntry]

/-- A plain load that no other crew races, one that a poisoned sector meets, and one behind another crew's write. -/
theorem test_witness_LoadsArePerformed :
    mayPerform (bench (withEntry (entryA (.load 4 true))) .s) 0 (withEntry (entryA (.load 4 true))) (entryA (.load 4 true)) (at0 64) ∧
    (entryA (.load 4 true)).ord = 0 ∧ isReeve 0 = false ∧
    racesAt (bench (withEntry (entryA (.load 4 true))) .s) 0 7 (at0 64) 4 = false ∧
    targetPoison (bench (withEntry (entryA (.load 4 true))) .s) (at0 64) 4 = none ∧
    (let s := bench (withEntry (entryA (.load 4 true))) .s
     (targetPoison { s with eccPoison := [cellOf 64 / 32] } (at0 64) 4).isSome = true) ∧ (0xFF : Nat) < 2 ^ (8 * 1) :=
  ⟨performs _ rfl rfl rfl rfl rfl rfl, rfl, rfl, rfl, rfl, rfl, by decide⟩

/-- A vector store of two bytes that its crew may make. -/
def vstoreA : VStore := { seq := 4, issued := 3, writes := [(128, 1), (129, 2)], adds := [], ordered := false, epoch := 0, due := 8 }

theorem test_witness_StoresArePerformed :
    mayPerform (bench (withEntry (entryA (.store 2))) .s) 0 (withEntry (entryA (.store 2))) (entryA (.store 2)) (at0 64) ∧
    (withEntry (entryA (.store 2))).vstores = [] ∧ (at0 64).addr % 8 = 0 ∧
    racesAt (bench (withEntry (entryA (.store 2))) .s) 0 7 (at0 64) 2 = false ∧
    (bench (withEntry (entryA (.store 2))) .s).crossings = [] ∧
    ({ crewA with vstores := [vstoreA] } : Crew).vstores.find? (·.seq == 4) = some vstoreA ∧
    vstoreAllows { crewA with vstores := [vstoreA] } vstoreA = true ∧ vstoreA.writes = [(128, 1)] ++ (129, 2) :: [] :=
  ⟨performs _ rfl rfl rfl rfl rfl rfl, rfl, by decide, rfl, rfl, rfl, rfl, rfl⟩

theorem test_witness_AtomicsArePerformed :
    mayPerform (bench (withEntry (entryA (.atomic 0 0 true))) .s) 0 (withEntry (entryA (.atomic 0 0 true)))
      (entryA (.atomic 0 0 true)) (at0 64) ∧
    (withEntry (entryA (.atomic 0 0 true))).vstores.find? (·.seq == (entryA (.atomic 0 0 true)).seq) = none ∧
    mayPerform (bench (withEntry (entryA (.atomic 7 4 false))) .s) 0 (withEntry (entryA (.atomic 7 4 false)))
      (entryA (.atomic 7 4 false)) (at0 64) ∧
    mayPerform (bench (withEntry (entryA .joindec)) .s) 0 (withEntry (entryA .joindec)) (entryA .joindec) (at0 64) ∧
    mayPerform (bench (withEntry (entryA .spawn)) .s) 0 (withEntry (entryA .spawn)) (entryA .spawn) (at0 64) ∧
    (entryA .spawn).data = [] ∧ targetPoison (bench (withEntry (entryA .spawn)) .s) (at0 64) 64 = none ∧
    storeRoom (bench (withEntry (entryA .spawn)) .s) = true :=
  ⟨performs _ rfl rfl rfl rfl rfl rfl, rfl, performs _ rfl rfl rfl rfl rfl rfl, performs _ rfl rfl rfl rfl rfl rfl,
   performs _ rfl rfl rfl rfl rfl rfl, rfl, rfl, by decide⟩

/-- A Reeve's crew whose SPAWN is to read a docket of job 3, graph 5 and launch 7 at address 64, with or without JN. -/
def spawning (jn : Bool) : State :=
  let d : List Word := [0x20000000, 0x20000080, 0, 0x40000, 0x30002050007, if jn then 0x0100010400000001 else 0x0100000400000001, 0, 5]
  let s := hbmWrite (mapped State.reset) (cellOf 64) (d.flatMap wordBytes)
  let active : Level := { Level.never with state := .active, inUse := true, job := 3 }
  { s with crews := [(1024, withEntry (entryA .spawn))]
           levels := mapSet (mapSet s.levels (levelKey 1 7) active) (levelKey 2 5) active }

set_option maxRecDepth 100000 in
/-- Both dockets are sound, the levels have room, and the node record that the one with JN names is there to be read. -/
theorem test_witness_SpawnsOfBothKinds :
    let docket (s : State) := bytesWords 8 (targetBytes s (at0 64) 64)
    let t (jn : Bool) := afterTarget (spawning jn) (at0 64) 64
    let read := readVirtual (t true) 0 3 (Docket.join (docket (spawning true)) + 0x48) 16 .dispatcher false
    (∀ jn, Docket.jn (docket (spawning jn)) = jn ∧ docketMalformed (t jn) (docket (spawning jn)) = false ∧
      Docket.job (docket (spawning jn)) = 3 ∧ countersFit (t jn) (docketLevels (docket (spawning jn))) 1 = true ∧
      storeRoom (t jn) = true ∧ targetPoison (spawning jn) (at0 64) 64 = none ∧ (crewAt (t jn) 1024).isSome = true ∧
      orderAllows (withEntry (entryA .spawn)) (entryA .spawn) = true ∧ targetMay (spawning jn) (at0 64) 64 = true) ∧
    isReeve 1024 = true ∧ read = (.ok (read.1.toOption.getD []), read.2) ∧ crewAt read.2 1024 = some (withEntry (entryA .spawn)) :=
  ⟨fun jn => by cases jn <;> exact ⟨rfl, rfl, rfl, rfl, rfl, rfl, rfl, rfl, rfl⟩, rfl, okPair _ _ rfl, rfl⟩

/-- A memory semaphore's signal, a core semaphore's at and past its largest count, and both waits on a counter of the control
node, one of them still to end. -/
theorem test_witness_SignalsAndWaitsArePerformed :
    let wait (kind : LogKind) : LogEntry := { entryA kind with target := some (at2 64) }
    mayPerform (bench (withEntry (entryA .msemsig)) .s) 0 (withEntry (entryA .msemsig)) (entryA .msemsig) (at0 64) ∧
    logEntry (withEntry (entryA (.semsig 5))) (entryA (.semsig 5)).seq = some (entryA (.semsig 5)) ∧
    orderAllows (withEntry (entryA (.seminit 5))) (entryA (.seminit 5)) = true ∧
    (semAdd State.reset 0 5 0xFFFFFFFF).1 = true ∧ (semAdd State.reset 0 5 0x100000000).1 = false ∧
    waitingEntry (withEntry (wait .msemwait)) = some (wait .msemwait) ∧ waitingEntry (withEntry (wait .waitc)) = some (wait .waitc) ∧
    (wait .waitc).target = some (at2 64) ∧ (at2 64).tier = 2 ∧ orderAllows (withEntry (wait .waitc)) (wait .waitc) = true ∧
    targetMay (bench (withEntry (wait .waitc)) .s) (at2 64) 8 = true ∧ (3 : Word).toNat ≤ (wait .waitc).opb.toNat ∧
    (wait .waitc).opb.toNat < (4 : Word).toNat :=
  ⟨performs _ rfl rfl rfl rfl rfl rfl, rfl, rfl, rfl, rfl, rfl, rfl, rfl, rfl, rfl, rfl, by decide, by decide⟩

/-- The leaf of a page of the control node: every translation of job 3's first page ends there. -/
theorem test_control_page :
    let s := hbmWrite (mapped State.reset) 0x300000 (wordBytes 0x817)
    (walkTranslate s none 3 64 .load).1 = .ok { tier := 2, addr := 64, node := 0, chk := false, shr := 0, guardIx := 0 } := rfl

/-- A load in translation on a bench of job 3, whose page is there or is not; a load with a late cause; a stream to be fetched;
a crew with nothing due. -/
theorem test_witness_AccessesTranslateFaultAndFetch :
    let e := { entryA (.load 8 false) with phase := .translating }
    let idle := { crewA with s := { crewA.s with exited := true }, v := { crewA.v with exited := true } }
    logEntry (withEntry e) e.seq = some e ∧ e.faulted = false ∧
    (targetFor (mapped State.reset) 0 3 64 .load).1 = .ok { tier := 0, addr := 64, node := 0, chk := false, shr := 0, guardIx := 0 } ∧
    (targetFor (mapped State.reset) 0 3 0x1000000000000 .load).1 = .error 0x10 ∧
    (let f := { e with faulted := true, code := 0x20 }
     List.find? (fun g => ({ withEntry f with late := [f.seq] } : Crew).late.contains g.seq) (withEntry f).log = some f) ∧
    fetchNeeded crewA .s = true ∧ groupFrozen (bench crewA .s) 0 = false ∧ State.reset.pkg.hold = false ∧
    membersOf (bench idle .s) 0 = [0] ∧ groupMay (bench idle .s) 0 = true ∧ dueWords (bench idle .s) 0 = [] ∧
    (nextCount State.reset.free idle).stepAt = none ∧ orphan (nextCount State.reset.free idle) = none :=
  ⟨by decide, rfl, rfl, rfl, by decide, rfl, rfl, rfl, rfl, rfl, rfl, rfl, rfl⟩

/-- A command of crew A with plain operands. -/
def cmdA (kind : EngKind) : EngCmd := makeCmd (bench crewA .s) 0 crewA kind opC 64 64 3
/-- Crew A on its bench, with core 0 changed. -/
def core0 (f : CoreState → CoreState) : State := putCore (bench crewA .s) 0 (f (coreAt (bench crewA .s) 0))
/-- An IN buffer of four slots, of which CBDONE released one at count 2. -/
def buffer : CircBuf := { out := false, nslot := 4, stride := 64, free := 0, fill := 3, ci := 1, ki := 3, releasing := [2] }

/-- A copy queue of one command that may start, one in progress that has done its work and one that has not. -/
theorem test_witness_CarterAndGleanerCommands :
    (let s := core0 fun k => { k with copyQ := [cmdA .tld] }
     let e := cmdA .tld
     (coreAt s 0).copyQ = e :: [] ∧ (coreAt s 0).copyRun.length < 4 ∧ cmdFrozen s e = false ∧ cmdBuffers s e = [] ∧ e.wv = false) ∧
    (let s := core0 fun k => { k with copyRun := [{ cmdA .tld with worked := true }] }
     (coreAt s 0).copyRun = { cmdA .tld with worked := true } :: [] ∧ (cmdA .tld).held = false ∧ (cmdA .tld).cbSlots = [] ∧
     (cmdA .tld).worked = false) ∧
    (let s := core0 fun k => { k with copyQ := [cmdA .tld], copyRun := [cmdA .tst, cmdA .tst, cmdA .tst, cmdA .tst] }
     4 ≤ (coreAt s 0).copyRun.length) ∧
    (mapGet ({ crewA with circ := [(3, buffer)] } : Crew).circ 3 = some buffer ∧ buffer.releasing = 2 :: [] ∧
      crewA.vstores.any (fun v => decide (v.issued ≤ 2)) = false ∧
      ({ crewA with vstores := [vstoreA] } : Crew).vstores.any (fun v => decide (v.issued ≤ 3)) = true) ∧
    (let c := { crewA with glCmds := [cmdA .glgo] }
     c.glCmds = cmdA .glgo :: [] ∧ cmdFrozen (bench c .s) (cmdA .glgo) = false ∧ behindVectors (bench c .s) (cmdA .glgo) = false ∧
      (cmdA .glgo).wv = false) ∧
    (crewAt (bench crewA .s) (cmdA .tld).slot = some crewA ∧ crewA.crewId = (cmdA .tld).crewId ∧ (cmdA .tld).sv = false ∧
      (semAt (bench crewA .s) 0 3).count.toNat + 1 < 2 ^ 32) ∧
    (let e := { cmdA .tld with slot := 1024 }
     ∃ bs s1, engineRead (bench crewA .s) e 64 8 = .ok bs s1) :=
  ⟨⟨rfl, by decide, rfl, rfl, rfl⟩, ⟨rfl, rfl, rfl, rfl⟩, by decide, ⟨rfl, rfl, rfl, rfl⟩, ⟨rfl, rfl, rfl, rfl⟩,
   ⟨rfl, rfl, rfl, by decide⟩, ⟨_, _, rfl⟩⟩

/-- What a command's work may end in: a Reeve's command whose work is finished, and a crew's read of an unmapped address. -/
theorem test_command_work_ends :
    (0x10 : BitVec 8).toNat ≤ 0x14 ∧ ¬ (0x10 ≤ (0x20 : BitVec 8).toNat ∧ (0x20 : BitVec 8).toNat ≤ 0x14) ∧
    (∀ s : State, ∃ t d, (fun s e => Worked.finished s e) s (cmdA .tmov) = Worked.finished t d) := ⟨by decide, by decide, fun _ => ⟨_, _, rfl⟩⟩

/-- A claim in the queue and its set; a loader's command alone in the queue, one in its unit; the effects of each kind. -/
theorem test_witness_MatrixCommands :
    (let s := core0 fun k => { k with matQ := [cmdA .mclaim], claims := [{ crewId := 7, set := 3, granted := false }] }
     ((coreAt s 0).matQ.find? fun f => f.slot == 0 && f.crewId == crewA.crewId) = some (cmdA .mclaim) ∧
      mayStart s (coreAt s 0) (cmdA .mclaim) = true ∧ grantable (coreAt s 0) crewA.crewId = true) ∧
    (let s := core0 fun k => { k with matQ := [cmdA .mldo] }
     (coreAt s 0).matQ = [cmdA .mldo] ∧ (cmdA .mldo).kind.unit = .loader ∧ mayStart s (coreAt s 0) (cmdA .mldo) = true ∧
      startOk (coreAt s 0) (cmdA .mldo) = true) ∧
    (let s := core0 fun k => { k with matRun := [cmdA .mret] }
     (coreAt s 0).matRun.find? (fun f => f.kind.unit == .retirer) = some (cmdA .mret) ∧ behindVectors s (cmdA .mret) = false) ∧
    crewAt (bench crewA .s) (cmdA .mcfg).slot = some crewA ∧ crewA.crewId = (cmdA .mcfg).crewId ∧
    (cmdA .mldo).cimm.getLsbD 9 = false :=
  ⟨⟨rfl, rfl, rfl⟩, ⟨rfl, rfl, rfl, rfl⟩, ⟨rfl, rfl⟩, rfl, rfl, rfl⟩

/-- A BQLOAD that is ready on core 0, where it is the only command. -/
def readyLoad : EngCmd := { cmdA .bqload with readyAt := some 4 }
/-- It is granted its Mills, since none is held and no request stands before it. -/
theorem test_mills_are_granted : mayGrant (core0 fun k => { k with bankQ := [readyLoad] }) 0 readyLoad = true := by
  have h1 : requests (core0 fun k => { k with bankQ := [readyLoad] }) = [(0, readyLoad)] := rfl
  have h2 : ∀ m, (millAt (core0 fun k => { k with bankQ := [readyLoad] }) m).holder = none := fun _ => rfl
  have h3 : earlierRequest 0 0 readyLoad readyLoad = false := rfl
  simp [mayGrant, h1, h2, h3]

/-- Heads of the bank queue, a BQCMD whose set of Mills is free, kernels that have ended, a BQLOAD and a WINFENCE in progress. -/
theorem test_witness_BankQueueCommands :
    (let s := core0 fun k => { k with bankQ := [cmdA .winfence] }
     (coreAt s 0).bankQ = cmdA .winfence :: [] ∧ (coreAt s 0).bankRun = [] ∧ (cmdA .winfence).held = false ∧
      cmdFrozen s (cmdA .winfence) = false ∧ (cmdA .winfence).readyAt = none ∧ (cmdA .winfence).wv = false) ∧
    (let s := core0 fun k => { k with bankQ := [readyLoad] }
     readyLoad.readyAt.isSome = true ∧ s.pkg.hold = false ∧ mayGrant s 0 readyLoad = true) ∧
    (let s := core0 fun k => { k with bankRun := [cmdA .bqcmd] }
     (coreAt s 0).bankRun.find? (·.id == (cmdA .bqcmd).id) = some (cmdA .bqcmd) ∧
      (heldMills s 0 (cmdA .bqcmd).id).all (·.ended) = true ∧ (cmdA .bqcmd).progress = 0 ∧ recStat (cmdA .bqcmd).latch = 0) ∧
    (let s := core0 fun k => { k with bankRun := [cmdA .bqload] }
     (coreAt s 0).bankRun.find? (·.kind == .bqload) = some (cmdA .bqload)) ∧
    (let s := core0 fun k => { k with bankRun := [cmdA .winfence] }
     (coreAt s 0).bankRun.find? (·.kind == .winfence) = some (cmdA .winfence) ∧ fenceWaits s (cmdA .winfence) = false) ∧
    (511 : Nat) < 512 ∧ [millAt State.reset 0].length ≤ 512 :=
  ⟨⟨rfl, rfl, rfl, rfl, rfl, rfl⟩, ⟨rfl, rfl, test_mills_are_granted⟩, ⟨rfl, rfl, rfl, rfl⟩, rfl, ⟨rfl, rfl⟩, by decide, by decide⟩

/-- A Mill that runs and one that does not, a slot before the last one, a bank that is MILL-owned. -/
theorem test_witness_WheelWatchdogAndScrub :
    let v := { millAt State.reset 0 with owner := some (0, 1), ownedBanks := 4 }
    millRuns { State.reset with mills := [(0, v)] } 0 = true ∧ millRuns State.reset 0 = false ∧ v.wheelSlot < 15 ∧
    v.revolution % 8 = 0 ∧ v.ownedBanks.getLsbD 2 = true ∧ v.ownedBanks.getLsbD 1 = false ∧ v.service = none :=
  ⟨rfl, rfl, by decide, by decide, rfl, rfl, rfl⟩

/-- Crew A on its bench, with the fabric as given. -/
def withFabric (f : Fabric → Fabric) : State := let s := bench crewA .s; { s with fabric := f s.fabric }
/-- A request or response with these first doublewords and four bytes of data. -/
def msgOf (response : Bool) (w0 w1 w2 w3 : Word) : Msg :=
  { response := response, seg := recordOf w0 w1 w2 w3 0 0 0 0, data := [1, 2, 3, 4], input := 12 }
/-- The unanswered request of command A on core 0, with tag 0. -/
def requestA (e : EngCmd) : Outstanding :=
  { tag := 0, core := 0, cmd := some e.id, access := none, opc := 2, node := 1, raddr := 0x40, place := 0, len := 4, ty := 0 }

/-- A command that may start, one whose requests are answered and one that has one left, an answer that is awaited. -/
theorem test_witness_PorterCommandsAndResponses :
    (let s := core0 fun k => { k with portQ := [cmdA .fst] }
     let d := { cmdA .fst with consumed := true, started := true }
     (coreAt s 0).portQ = cmdA .fst :: [] ∧ cmdFrozen s (cmdA .fst) = false ∧ porterMay s (coreAt s 0) (cmdA .fst) = true ∧
      porterWaits (putCore s 0 { coreAt s 0 with portQ := [], portRun := [d] }) d = false) ∧
    (let s := core0 fun k => { k with portRun := [{ cmdA .fst with worked := true }] }
     (coreAt s 0).portRun.find? (·.id == (cmdA .fst).id) = some { cmdA .fst with worked := true } ∧ unanswered s 0 (cmdA .fst).id = false ∧
      porterWaits s (cmdA .fst) = false) ∧
    (let s := { (core0 fun k => { k with portRun := [cmdA .fst] }) with
        fabric := { State.reset.fabric with responses := [msgOf true 0 0 0 0], outstanding := [requestA (cmdA .fst)] } }
     unanswered s 0 (cmdA .fst).id = true ∧ s.fabric.responses[0]? = some (msgOf true 0 0 0 0) ∧
      answered s (msgOf true 0 0 0 0) = some (requestA (cmdA .fst)) ∧ (msgOf true 0 0 0 0).stat = 0 ∧
      (dropRequest s (requestA (cmdA .fst))).fabric.outstanding.contains (requestA (cmdA .fst)) = false ∧
      s.fabric.outstanding.find? (·.tag == 0) = some (requestA (cmdA .fst))) ∧
    answered (withFabric fun f => { f with responses := [msgOf true 0 0 0 0] }) (msgOf true 0 0 0 0) = none :=
  ⟨⟨rfl, rfl, rfl, rfl⟩, ⟨rfl, rfl, rfl⟩, ⟨rfl, rfl, rfl, rfl, rfl, rfl⟩, rfl⟩

/-- The unit of crew A: a fresh docket of one member for job 0. -/
def unitA : WorkUnit := WorkUnit.make 1 [0x1000, 0x1000, 0, 0, 0, 0x0100000000000000, 0, 0] [5, 0, 0, 0, 0, 0, 0, 0] .fresh 0 0
/-- Crew A at its end. -/
def retiring : Crew := { crewA with s := { crewA.s with exited := true }, v := { crewA.v with exited := true } }
/-- A gang of two in the store. -/
def gangA : WorkUnit := { unitA with uid := 2, seq := 2, docket := [0x1000, 0x1000, 0, 0, 0, 0x0101000000000000, 0, 0] }
/-- A package out of reset whose store holds unit A's docket alone. -/
def stored (u : WorkUnit) : State :=
  { State.reset with units := [(u.uid, u)], dispatcher := { State.reset.dispatcher with store := [u.uid] },
                     pkg := { State.reset.pkg with inReset := false } }

/-- A free bench with a docket and one without, a taken one, a docket below and at the highest priority, a gang, creations of each
kind that wait, a crew that has ended with its unit, without it, and one that has not ended. -/
theorem test_witness_CrewsAreDispatchedAndRetire :
    (benchFree State.reset 1023 = true ∧ benchFree (bench crewA .s) 0 = false ∧ State.reset.pkg.hold = false ∧
      State.reset.pkg.inReset = true ∧ choose State.reset 0 = none ∧ (stored unitA).pkg.inReset = false ∧
      choose (stored unitA) 127 = some (unitA, [127])) ∧
    ((unreserved (stored gangA)).find? (·.uid == 2) = some gangA ∧ bestCluster (stored gangA) gangA = some 0 ∧
      reservation (stored gangA) 0 = none) ∧
    (unitA.kind = .fresh ∧ Docket.rst unitA.docket = false ∧ Docket.lsz unitA.docket = 0 ∧ unitA.left = []) ∧
    (mapGet [(1, unitA)] 1 = some unitA ∧ [1].contains 1 = true ∧ unitA.prio < 7 ∧ 7 ≤ ({ unitA with prio := 7 } : WorkUnit).prio) ∧
    storeRoom State.reset = true ∧ memoryAwake State.reset = true ∧
    mayRetire (bench retiring .s) 0 retiring = true ∧ mayRetire (bench crewA .s) 0 crewA = false ∧
    mapGet (bench retiring .s).units retiring.uid = none ∧
    (let s := { bench retiring .s with units := [(1, { unitA with members := [0] })] }
     mayRetire s 0 retiring = true ∧ mapGet s.units retiring.uid = some { unitA with members := [0] } ∧ unitA.uid = retiring.uid ∧
      ({ unitA with members := [0] } : WorkUnit).members.length = 1 ∧ Docket.jn unitA.docket = false ∧ Docket.join unitA.docket = 0) := by
  refine ⟨⟨rfl, rfl, rfl, rfl, rfl, rfl, rfl⟩, ⟨rfl, rfl, rfl⟩, ⟨rfl, rfl, rfl, rfl⟩, ⟨rfl, rfl, by decide, by decide⟩, by decide, rfl, rfl, rfl, rfl,
    ⟨rfl, rfl, rfl, rfl, rfl, rfl⟩⟩

/-- A request of another package for an active job and one for a job that is not; requests of a borrower with and without its lease. -/
theorem test_witness_RemoteAndLentRequestsAreServed :
    let read := msgOf false 0x101 0x6000000000 0x40 4
    let far := msgOf false 0x200101 0 0x1000040 4
    let l : Lease := { lender := true, peer := 0, lid := 1, reg0 := 2, nreg := 1, grace := 0, state := .held, deadline := 0, cmd := none }
    let s := { mapped State.reset with fabric := { State.reset.fabric with inbox := [read] } }
    let leafShared := hbmWrite s 0x300000 (wordBytes 0x9F)
    (s.fabric.inbox[0]? = some read ∧ read.phy = false ∧ read.opc = 1 ∧ read.len = 4 ∧ s.pkg.hold = false) ∧
    (servedTarget s read .load).1 = none ∧
    ((servedTarget leafShared read .load).1.map fun t => (t.tier, t.addr, t.shr)) = some (0, 0x40, 4) ∧
    targetMay s (at0 0x40) 4 = true ∧ targetPoison s (at0 0x40) 4 = none ∧
    (far.phy = true ∧ physicalTarget (BitVec.ofNat 64 far.addr) = .ok { at0 0x1000040 with shr := 3 } ∧
      physicalTarget (BitVec.ofNat 64 0x6000000000) = .error 0x12 ∧ far.accepted = false ∧ lentTo s far = false ∧
      lentTo { s with fabric := { s.fabric with leases := [l] } } far = true ∧ targetMay s (at0 0x1000040) (requestBytes far) = true) :=
  ⟨⟨rfl, rfl, rfl, rfl, rfl⟩, rfl, rfl, rfl, rfl, ⟨rfl, rfl, rfl, rfl, rfl, rfl, rfl⟩⟩

/-- Flits of port 0, the last slot and the one past it, a pending switch whose frame has come, a lone request in the combining
table. -/
theorem test_witness_FabricMessagesMove :
    let e : Combine := { waiting := true, dst := 0, job := 0, addr := 0, ty := 0, tag := 0, manifest := [], msgs := [msgOf false 3 0 0 8] }
    let s := withFabric fun f => { f with combining := [e], slot := 256, switchAt := some 1, pend := true }
    (portAt s 0).retraining = false ∧ (portAt s 0).down = false ∧ (portAt { s with fabric := { s.fabric with ports :=
      [(3, { portAt s 3 with retraining := true })] } } 3).retraining = true ∧ State.reset.fabric.slot < 256 ∧ 256 ≤ s.fabric.slot ∧
    State.reset.fabric.switchAt = none ∧ s.fabric.switchAt = some 1 ∧ s.fabric.pend = true ∧ 1 ≤ (s.fabric.frame + 1) % 2 ^ 64 ∧
    s.fabric.combining[0]? = some e ∧ e.waiting = true ∧ s.fabric.combining = [e] :=
  ⟨rfl, rfl, rfl, by decide, by decide, rfl, rfl, rfl, by decide, rfl, rfl, rfl⟩

/-- The pending switch's command has left its queue, so the frame completes the exchange by itself. -/
theorem test_no_switch_command : switchCmd State.reset = none := by decide

/-- Leases of a lender in each of its states and of a borrower, with no accepted request left and with one. -/
theorem test_witness_LeasesAndTheirEvents :
    let l (lender : Bool) (st : LeaseState) (cmd : Option (Nat × Nat)) : Lease :=
      { lender := lender, peer := 4, lid := 9, reg0 := 2, nreg := 1, grace := 0, state := st, deadline := 0, cmd := cmd }
    let s (x : Lease) := withFabric fun f => { f with leases := [x] }
    lentLease (s (l true .granting none)) 4 9 = some (l true .granting none) ∧
    lentLease (s (l true .held none)) 4 9 = some (l true .held none) ∧ leaseBusy (s (l true .held none)) (l true .held none) = false ∧
    lentLease (s (l true .recalling none)) 4 9 = some (l true .recalling none) ∧
    (let busy := { s (l true .held none) with fabric := { (s (l true .held none)).fabric with
        inbox := [{ msgOf false 0x200101 4 0x1000040 4 with accepted := true }] } }
     leaseBusy busy (l true .held none) = true ∧ lentLease busy 4 9 = some (l true .held none)) ∧
    ((s (l true .granting none)).fabric.leases.find? fun l => l.lender && l.lid == 9 && l.state == .granting) = some (l true .granting none) ∧
    ((s (l true .recalling none)).fabric.leases.find? fun l => l.lender && l.lid == 9 && l.state == .recalling) =
      some (l true .recalling none) ∧
    (l true .recalling none).deadline.toNat ≤ State.reset.fabric.frame ∧ leaseFull State.reset = false ∧
    borrowedLease (s (l false .held (some (0, 1)))) 4 9 = some (l false .held (some (0, 1))) ∧
    borrowedLease (s (l false .demoting none)) 4 9 = some (l false .demoting none) ∧
    State.reset.fabric.events = [] ∧ State.reset.fabric.fevsem = 0 ∧
    (State.reset.fabric.fevtail - State.reset.fabric.fevhead).toNat < 2 ^ (bits State.reset.fabric.fevbase 3 0 + 6) :=
  ⟨rfl, rfl, rfl, rfl, ⟨rfl, rfl⟩, rfl, rfl, by decide, by decide, rfl, rfl, rfl, rfl, by decide⟩

/-- A sweep of an open job and one of none, a Reeve at a HALT that wakes, a crew with a unit that is lost, and one that joins none. -/
theorem test_witness_ReeveEventsAndHardwareErrors :
    let w (job : Option Nat) : Sweep := { seq := 3, job := job, first := 0, extent := 65536 }
    let s (x : Sweep) := putReeve (onReeve crewA) 0 { reeveAt (onReeve crewA) 0 with tlbi := [x], icinv := [x] }
    (reeveAt (s (w none)) 0).tlbi = w none :: [] ∧ (reeveAt (s (w (some 0))) 0).icinv = w (some 0) :: [] ∧
    storesDone (s (w (some 0))) 0 3 = true ∧ sweptAll (s (w (some 0))) (w (some 0)) 0 = true ∧
    (let halted := { crewA with s := { crewA.s with fetched := some 0x003B800000000400 } }
     crewAt (onReeve halted) 1024 = some halted ∧ halted.s.fetched = some 0x003B800000000400) ∧
    crewAt (bench crewA .s) 0 = some crewA ∧ unitOf (bench crewA .s) crewA = none ∧
    (let s := { bench crewA .s with units := [(1, unitA)] }
     unitOf s crewA = some unitA ∧ Docket.rst unitA.docket = false ∧ unitA.cancelled = false) :=
  ⟨rfl, rfl, rfl, rfl, ⟨rfl, rfl⟩, rfl, rfl, ⟨rfl, rfl, rfl⟩⟩

/-- The conditions of the package on both sides, a shock at the threshold, the outcomes of a boot, a crew that waits on Ngugrim. -/
theorem test_witness_PackageConditionsBootAndStop :
    let b : BootOutcome := { signatureOk := true, node := 5, frame := 7, full := true, forced := false, failStep := 0, coredis := 0,
                             spfree := 0, hbmfree := 0, used := 0, routes := [] }
    let e := { entryA (.load 8 false) with target := some (at2 64) }
    State.reset.pkg.stretched.getLsbD 7 = false ∧ State.reset.pkg.hold = false ∧
    ({ State.reset.pkg with hold := true } : Package).hold = true ∧ State.reset.port.retrain = false ∧ State.reset.crews = [] ∧
    State.reset.cores = [] ∧ (portAt State.reset 11).retraining = false ∧ (portAt State.reset 11).down = false ∧
    (39 : BitVec 16).toNat < 40 ∧ 40 ≤ (40 : BitVec 16).toNat ∧ (5 : BitVec 3).toNat ≤ 5 ∧ bootAllowed State.reset b = true ∧
    bootAllowed State.reset { b with failStep := 1, full := false } = false ∧
    (withEntry e).log = [e] ∧ waitsNgugrim e = true ∧ e.target = some (at2 64) ∧ e.tag = none ∧
    crewCancelled (bench (withEntry e) .s) (withEntry e) = false ∧ (bench (withEntry e) .s).cores = [] :=
  ⟨rfl, rfl, rfl, rfl, rfl, rfl, rfl, rfl, by decide, by decide, by decide, rfl, rfl, rfl, rfl, rfl, rfl, rfl, rfl⟩

/-- A Mill whose kernel runs at address 8 with bank 0 granted: mx1 = 128, mx2 = 3, mx4 poisoned, one loop that ends at 16. -/
def millA : MillState :=
  { MillState.reset with
    owner := some (0, 1), holder := some (0, 1), pc := 8, ownedBanks := 1, share := 16, revolution := 1
    mx := ((Vector.replicate 16 0).set 1 128).set 2 3, mxPoison := 0x10
    loops := [{ start := 4, last := 16, remaining := 2 }] }
/-- Mill 3 with its word to run. -/
def onMill (v : MillState) : State := { State.reset with cur := .mill 3, mills := [(3, v)] }

/-- A Mill's word runs. -/
theorem millTurn (v : MillState) : MillRuns (onMill v) 3 v := ⟨rfl, rfl⟩

/-- A sector with no wrong bit is sound. -/
theorem soundSector (s : State) (k : Nat) (h1 : s.eccErr = []) (h2 : s.eccStuck = []) : eccVerdict (sectorError s k) = .clean := by
  have h : symbolErrors 0 = 0 := by unfold symbolErrors; decide
  have z : sectorError s k = 0 := by simp [sectorError, h1, h2, mapGetD, mapGet]
  rw [z, eccVerdict, h]; rfl

/-- A Mill sees memory as it is where nothing is written on the other side and no ECC sector is in error. -/
theorem millSight (v : MillState) : millSees (onMill v) :=
  ⟨fun _ h => absurd h List.not_mem_nil, fun k => by simp [miscorrected, soundSector (onMill v) k rfl rfl], rfl⟩

theorem test_witness_MillScalarWords : MillRuns (onMill millA) 3 millA := millTurn _

theorem test_witness_MillLaneWords :
    MillRuns (onMill millA) 3 millA ∧ ((0 : BitVec 1) = 1 ∨ (0 : BitVec 5) = 0) ∧ ((1 : BitVec 1) = 1 ∨ (31 : BitVec 5) = 0) :=
  ⟨millTurn _, by decide, by decide⟩

theorem test_witness_MillSelectionAndReductionWords :
    MillRuns (onMill millA) 3 millA ∧ (1 : BitVec 2) ≠ 0 ∧ (5 : BitVec 3).toNat < 6 ∧ (6 : BitVec 3).toNat < 7 ∧
    WellFormed.ncvtPair 9 4 0 = true ∧ (2 : BitVec 2) ≠ 3 ∧ (7 : BitVec 5).toNat < 8 := ⟨millTurn _, by decide⟩

/-- Offset 128 is granted, offset 0x3000000 lies in bank 1 and is not, 0x30000000 does not exist; mx4 is poisoned. -/
theorem test_witness_MillChecksComeFirst :
    MillRuns (onMill millA) 3 millA ∧ (1 : BitVec 12) ≠ 0 ∧ (12 : BitVec 4).toNat + (3 : BitVec 3).toNat + 1 ≤ 16 ∧
    mxTag millA 4 = true ∧ mxTag millA 1 = false ∧ mxGet millA 1 = 128 ∧ millA.ownedBanks.getLsbD (128 / 0x3000000) = true ∧
    millA.ownedBanks.getLsbD (0x3000000 / 0x3000000) = false ∧ slotTakes millA 128 = true ∧
    slotTakes { millA with slotUse := 8, slotRow := some 0 } 128 = false ∧
    (encodeMill (.nadd 1 2 3 0 3 0 0)).isSome = true ∧ (Instr.nadd 1 2 3 0 3 0 0).wellFormed = false :=
  ⟨millTurn _, by decide, by decide, rfl, rfl, rfl, rfl, rfl, rfl, rfl, rfl, rfl⟩

theorem test_witness_MillLoadsAndStores :
    MillRuns (onMill millA) 3 millA ∧ millSees (onMill millA) ∧ mxTag millA 1 = false ∧ millGrants millA (mxGet millA 1).toNat 128 128 ∧
    millGrants millA ((mxGet millA 1).toNat + 8) 8 8 := by
  refine ⟨millTurn _, millSight _, rfl, ?_, ?_⟩ <;> unfold millGrants millReaches <;> decide

theorem test_witness_MillPagesAndSemaphores :
    MillRuns (onMill millA) 3 millA ∧ millSees (onMill millA) ∧ millGrants millA (mxGet millA 1).toNat 16 64 ∧
    millReaches millA (mxGet millA 1).toNat (64 + 128 * 8) 64 ∧ millA.trip % 64 = 0 ∧ slotTakes millA (128 + millA.trip) = true ∧
    ({ millA with trip := 896 } : MillState).trip % 64 = 0 ∧ slotTakes { millA with trip := 896 } (128 + 896) = true ∧ bits (mxGet millA 2) 6 0 ≤ 64 ∧ 64 < bits (65 : Word) 6 0 ∧
    cellPoisoned (onMill millA) (3 * 0x30000000 + 128) = false ∧
    cellPoisoned { onMill millA with eccPoison := [(3 * 0x30000000 + 128) / 32] } (3 * 0x30000000 + 128) = true := by
  refine ⟨millTurn _, millSight _, ?_, ?_, rfl, rfl, rfl, rfl, by decide, by decide, ?_, rfl⟩
  · unfold millGrants millReaches; decide
  · unfold millReaches; decide
  · rw [cellPoisoned, sectorPoisoned, soundSector _ _ rfl rfl]; rfl

/-- The page header of the manual's example: PBASE 256, VALID 64, GEN 1 has CSUM 0xB26C4EC1. -/
theorem test_page_checksum : (256 * 0x9E3779B1 + 64 * 0x85EBCA77 + 1) % 2 ^ 32 = 0xB26C4EC1 := by decide

/-- A jump that stays in the image and one past its end; loops that may start, one on the last word of the loop around it. -/
theorem test_witness_MillFlowWords :
    MillRuns (onMill millA) 3 millA ∧ (millPc millA + (1 : BitVec 12).signExtend 64 * 4).toNat ≤ 0xFFFC ∧
    0xFFFC < (millPc millA + (0x800 : BitVec 12).signExtend 64 * 4).toNat ∧ mxGet millA 1 ≠ 0 ∧ mxGet millA 3 = 0 ∧
    millA.loops.length < 2 ∧ (∀ l ∈ millA.loops, (millPc millA + (2 : BitVec 12).zeroExtend 64 * 4).toNat ≤ l.last.toNat) ∧
    (∃ x, millWordAt (onMill millA) 3 16 = some x ∧ x.toNat / 2 ^ 26 ∉ [0x1D, 0x1E, 0x1F, 0x23]) ∧
    millA.loops = [{ start := 4, last := 16, remaining := 2 }] ∧ millPc millA + (2 : BitVec 12).zeroExtend 64 * 4 = 16 ∧
    (16 : Word).toNat < (millPc millA + (3 : BitVec 12).zeroExtend 64 * 4).toNat :=
  ⟨millTurn _, by decide, by decide, by decide, rfl, by decide, by decide, ⟨_, rfl, by decide⟩, rfl, rfl, by decide⟩

theorem test_witness_MillsKeepToTheirBanks :
    ∃ t, MillRuns (onMill millA) 3 millA ∧ (encodeMill (.nstScalar 2 1 0)).isSome = true ∧ exec .nend (onMill millA) = .next t ∧
      exec (.nstScalar 2 1 0) (onMill millA) ≠ .next t := by
  refine ⟨_, millTurn _, rfl, rfl, ?_⟩
  intro h
  have h2 := congrArg (fun (o : Host.Outcome State Fault Refusal) => match o with | .next s => (millAt s 3).ended | _ => true) h
  revert h2
  decide

/-- The manual's example: with SHARE 5 the Mill slots are 3, 6, 9, 12 and 15 (R274). -/
theorem test_mill_slots_of_share_5 :
    (List.range 16).filter (fun i => millSlot { millA with wheelSlot := i, share := 5 }) = [3, 6, 9, 12, 15] := by decide

/-! ### Encodings and steps -/

theorem test_witness_EncodedWordsDecode :
    encodeWord (.add opA) = some (packA 0x10 0 opA) ∧ (Instr.add opA).wellFormed = true ∧
    (encodeWord (.ctxsOut opA)).isSome = true ∧ (Instr.ctxsOut opA).wellFormed = true ∧ (encodeWord (.ctxlResume opA)).isSome = true ∧
    (Instr.ctxlResume opA).wellFormed = true := ⟨rfl, by decide, rfl, by decide, rfl, by decide⟩

theorem test_witness_DecodedWordsEncode : decodeWord (packA 0x10 0 opA) = .ok (.add opA) := rfl

theorem test_witness_MillWordsDecode : decodeMill 0x8C000000 = .ok .nend ∧ encodeMill .nend = some 0x8C000000 := ⟨rfl, rfl⟩

theorem test_witness_CommandRecordsDecode :
    decodeCommand (recordOf 0x0200000000000001 0x0000030000000000 0 0 0 0 0 0) =
      .ok (.jobend ⟨1, 0, false, false, 0x0000030000000000, 0, 0, 0, 0, 0⟩) ∧
    (Instr.jobend ⟨1, 0, false, false, 0x0000030000000000, 0, 0, 0, 0, 0⟩).wellFormed = true := ⟨rfl, by decide⟩

/-- Crew A with a fetched word of each stream that is due at count 5. -/
def due (w u : Option Word) (exited : Bool) : Crew :=
  { crewA with s := { crewA.s with fetched := w, last := some 4 }, v := { crewA.v with fetched := u, last := some 4, exited := exited } }
/-- A NOP of the S-stream with GAP 0, and its turn. -/
def turn (c : Crew) : State := { bench c .s with agenda := [.crew 0] }

/-- A crew that may not run, one with no word due, one with a word due that is fetched or not, that is no instruction, that is a
CTXS; one with a word due in each stream. -/
theorem test_witness_CrewTurnsRunTheDueWord :
    groupMay (turn { crewA with state := .trapped }) 0 = false ∧ groupMay (turn crewA) 0 = true ∧
    dueWords (turn { due none none true with counter := 4 }) 0 = [] ∧ dueWords (turn (due none none true)) 0 = [(0, .s)] ∧
    (due none none true).s.fetched = none ∧ (due (some 0x0000800000000000) none true).s.fetched = some 0x0000800000000000 ∧
    decodeWord 0x0000800000000000 = .ok (.nop zeroA) ∧ decodeWord 0 = .error .reservedMajor ∧
    dueWords (turn (due none none false)) 0 = [(0, .s), (0, .v)] ∧
    (let s := turn (due (some 0x0000800000000000) (some 0x0000800000000000) false)
     ∃ t u, runDue s 0 .s = .next t ∧ verdict s t 0 .s = .done ∧ runDue t 0 .v = .next u ∧ verdict t u 0 .v = .done) :=
  ⟨rfl, rfl, rfl, rfl, rfl, rfl, rfl, rfl, rfl, ⟨_, _, rfl, rfl, rfl, rfl⟩⟩

/-- A Mill that runs with a word in its code store, one past its image, a port with a command and without one. -/
theorem test_witness_OtherTurnsRunTheirInstruction :
    let v := { millA with pc := 8 }
    let s := { onMill v with code := [(8, 0), (11, 0x8C)], agenda := [.mill 3] }
    millRuns s 3 = true ∧ mapGet s.mills 3 = some v ∧ v.pc ≤ 0xFFFC ∧
    bytesValue (memRead s.code (3 / 64 * 65536 + v.pc) 4) = (0x8C000000 : BitVec 32).toNat ∧
    0xFFFC < ({ millA with pc := 0x10000 } : MillState).pc ∧ portReady State.reset = false ∧
    portReady (placeCommand State.reset 0x200000000000001) = true ∧ isEvent .slotTick = true ∧
    othersMay { State.reset with crews := [(0, { withEntry { entryA .waitc with target := some (at2 64) } with
      v := { crewA.v with exited := true } })] } 0 = true :=
  ⟨rfl, rfl, by decide, rfl, by decide, rfl, rfl, rfl, rfl⟩

theorem test_witness_StepsKeepMemoriesCanonical :
    (mapped State.reset).memoriesWf = true ∧ step (mapped State.reset) = .next (mapped State.reset) := ⟨by decide +kernel, rfl⟩

/-- The first instruction after a placed word, a placed Mill word and a placed command is theirs. -/
theorem test_placed_instructions_run :
    let after (s : State) (f : State → Bool) : Bool := match step s with | .next t => f t | _ => false
    (after (State.reset.withFetchWord 64 (packA 0x10 0 opA).toNat) fun t => (crewAt t 0).any (·.s.last == some 0)) = true ∧
    (after (State.reset.withFetchWord 32 0x8C000000) fun t => (millAt t 0).ended) = true ∧
    (after (State.reset.withFetchWord 512 0x0100000000000007) fun t => (levelAt t 4 0).state == .active && t.port.cqhead == 1) = true := by
  decide +kernel

/-! ### Values of the manual -/

/-- Crew A with these two values in x10 and x11. -/
def pair (a b : Word) : State := bench { crewA with x := ((Vector.replicate 64 0).set 10 a).set 11 b } .s
/-- The values that the words of bench 0 are to write, with their registers. -/
def writes (o : Host.Outcome State Fault Refusal) : List (Nat × Word) :=
  match o with
  | .next s => ((mapGet s.crews 0).map fun c => c.pendX.map fun p => (p.reg, p.val)).getD []
  | _ => []

theorem test_add_wraps : writes (exec (.add opA) (pair 0xFFFFFFFFFFFFFFFF 2)) = [(13, 1)] := rfl
theorem test_sub_wraps : writes (exec (.sub opA) (pair 0 1)) = [(13, 0xFFFFFFFFFFFFFFFF)] := rfl
theorem test_shift_amount_wraps : writes (exec (.shl opA) (pair 3 65)) = [(13, 6)] := rfl
theorem test_sra_keeps_the_sign : writes (exec (.sra opA) (pair 0x8000000000000000 63)) = [(13, 0xFFFFFFFFFFFFFFFF)] := rfl
theorem test_minz_is_unsigned : writes (exec (.minz opA) (pair 0xFFFFFFFFFFFFFFFF 1)) = [(13, 1)] := rfl
theorem test_min_is_signed : writes (exec (.min opA) (pair 0xFFFFFFFFFFFFFFFF 1)) = [(13, 0xFFFFFFFFFFFFFFFF)] := rfl
theorem test_clz_of_zero : writes (exec (.clz opA) (pair 0 0)) = [(13, 64)] := rfl
theorem test_div_by_zero : writes (exec (.div opA) (pair 5 0)) = [(13, 0xFFFFFFFFFFFFFFFF)] := rfl
theorem test_div_overflow :
    writes (exec (.div opA) (pair 0x8000000000000000 0xFFFFFFFFFFFFFFFF)) = [(13, 0x8000000000000000)] := rfl
theorem test_div_rounds_toward_zero : writes (exec (.div opA) (pair 0xFFFFFFFFFFFFFFF9 2)) = [(13, 0xFFFFFFFFFFFFFFFD)] := rfl
theorem test_rem_takes_the_dividends_sign : writes (exec (.rem opA) (pair 0xFFFFFFFFFFFFFFF9 2)) = [(13, 0xFFFFFFFFFFFFFFFF)] := rfl
theorem test_mulh_is_signed : writes (exec (.mulh opA) (pair 0xFFFFFFFFFFFFFFFF 0xFFFFFFFFFFFFFFFF)) = [(13, 0)] := rfl
theorem test_bfx_takes_its_field : writes (exec (.bfx opA) (pair 0xABCD 0x0704)) = [(13, 0xBC)] := rfl
theorem test_li_extends : writes (exec (.li ⟨0, 13, 0x8000000000⟩) (pair 0 0)) = [(13, 0xFFFFFF8000000000)] := rfl

/-- `VRCPA.f32` of 3.0, and of 2^127, which underflows (R171). -/
theorem test_vrcpa : rcpa fp32 (fp32.decode 0x40400000) = (0x3EAAA000, 0) ∧ (rcpa fp32 (fp32.decode 0x7F000000)).1 = 0 := by decide
/-- `VRSQA.f32` of 4.0 (R172), and the exact square root (R173). -/
theorem test_vrsqa : rsqa fp32 (fp32.decode 0x40800000) = (0x3F000000, 0) ∧
    sqrtOf fp32 .rne (fp32.decode 0x40800000) = (0x40000000, 0) := by decide
/-- The sine of an eighth of a turn (R174). -/
theorem test_vsint : (sinTurn .rne 0x20000000).1 = 0x3F3504F3 ∧ sinTurn .rne 0x40000000 = (0x3F800000, 0) := by decide +kernel
/-- The rotation of the key pair (1.0, +0) at position 3 with θ = 0x20000000, rounded to BF16 (R175, R320). -/
theorem test_rotated_key : rotateKey 3 0x20000000 0x00003F80 = 0x3F35BF35 ∧ rotateKey 11 0x20000000 0x00003F80 = 0x3F35BF35 := by decide +kernel
/-- 1 + 2^-9 to BF16 with two random words (R165; the manual prints the same number as 0x3F801000, which is 1 + 2^-11). -/
theorem test_stochastic_rounding :
    bf16.round (modeOf 5 0x3FFFFFFF) false (fp32.decode 0x3F804000) = (0x3F81, 1) ∧
    bf16.round (modeOf 5 0x40000000) false (fp32.decode 0x3F804000) = (0x3F80, 1) := by decide
/-- The codes of Table 06.3's examples. -/
theorem test_integer_codes :
    intOf 4 true 0xD = -3 ∧ intOf 4 false 0xD = 13 ∧ intOf 8 true 0xFB = -5 ∧ intOf 16 true 0xFED4 = -300 ∧
    intOf 32 false 0xB2D05E00 = 3000000000 := by decide
/-- The manual's worked address: its leaf entry, its cell, the pseudo-channel 46 of stack 1, and bank 3 (R71, R72). -/
theorem test_worked_address :
    (leafCheck 0x0000048D15800047 false true 0x8128D2917890 .load).toOption.map (fun t => (t.tier, t.addr, t.shr, t.chk)) =
      some (0, 0x1234567890, 2, false) ∧
    cellOf 0x1234567890 = 0x14A91A2A90 ∧ cellOf 0x1014A91A2A90 = 0x14A91A2A90 ∧ millOf 0x14A91A2A90 = 64 + 46 ∧
    bankOf 0x14A91A2A90 = 3 := by decide
/-- The fields of the manual's docket of launch 0x123 (Table 01.2). -/
theorem test_docket_fields :
    let d : List Word := [0, 0, 0, 0, 0x0000014200000123, 0x0C03002500000001, 0, 0]
    Docket.launch d = 0x123 ∧ Docket.pv d = true ∧ Docket.phase d = 2 ∧ Docket.job d = 1 ∧ Docket.gv d = false ∧
    Docket.prio d = 5 ∧ Docket.rst d = true ∧ Docket.lsz d = 3 ∧ Docket.aff d = 0x0C := by decide

/-- Unit A in job 3 with its save area at 0x40000 and MIG. -/
def unitSaved : WorkUnit :=
  { unitA with docket := [0x1000, 0x1000, 0, 0, 0x30000000000, 0x0100004000000000, 0x40000, 0], members := [], left := [0],
               home := [some 0], dispatched := true }
/-- Crew A in that unit below the Reeve. -/
def below (c : Crew) : State := { reeveAbove 0 c with units := [(1, { unitSaved with members := [0], left := [] })] }
/-- Job 3 mapped, and the unit saved with STATE 2 at byte 0x48 of its area. -/
def saved : State := let s := hbmWrite (mapped State.reset) 0x40048 (wordBytes 2); { s with units := [(1, unitSaved)] }

/-- A reference to no crew and to one in each state, a unit with a save area and MIG and without, an image; a saved unit whose area
can be read, one whose area is not mapped, none. -/
theorem test_witness_ContextWordsIssue :
    let b : Word := 0x700000000
    let bad := { unitSaved with docket := unitSaved.docket.set 6 0x10000040000 }
    let read := readVirtual saved 0 3 (0x40000 + 0x48) 8 .load false
    ReeveRuns (onReeve crewA) 1024 crewA opA ∧ plainReference b ∧ (0x1000 : Word) &&& 0xFFFF00000000003E = 0 ∧
    (1 : Word) &&& 0xFFFFFFFFFFFFFFFE = 0 ∧ targetCrew (onReeve crewA) 1024 b = none ∧
    targetCrew (below crewA) 1024 b = some (0, crewA) ∧ crewA.state ≠ .trapped ∧ inTransfer (below crewA) 0 7 .out = false ∧
    (membersOf (below crewA) 0).any (outBarred (below crewA)) = false ∧
    (membersOf (below { crewA with state := .held }) 0).any (outBarred (below { crewA with state := .held })) = true ∧
    unitOf (below crewA) crewA = some { unitSaved with members := [0], left := [] } ∧ Docket.save unitSaved.docket ≠ 0 ∧
    Docket.save unitA.docket = 0 ∧ Docket.mig unitSaved.docket = true ∧ Docket.mig unitA.docket = false ∧
    bits (0x1000 : Word) 47 6 * 64 ≠ 0 ∧ savedUnit State.reset 0x40000 = none ∧ savedUnit saved 0x40000 = some unitSaved ∧
    savedUnit { saved with units := [(1, bad)] } 0x10000040000 = some bad ∧
    (readVirtual saved 0 3 (0x10000040000 + 0x48) 8 .load false).1.toBool = false ∧
    read = (.ok [2, 0, 0, 0, 0, 0, 0, 0], read.2) ∧ movable read.2 0 unitSaved (remainingMembers unitSaved) = (some true, read.2) :=
  ⟨reevePair _ _ rfl rfl rfl rfl, by unfold plainReference; decide, by decide, by decide, rfl, rfl, by decide, rfl, rfl, rfl, rfl,
   by decide, by decide, by decide, by decide, by decide, rfl, rfl, rfl, rfl, rfl, rfl⟩

/-! ### Further clauses of the statements -/

/-- The Mills of pseudo-channel 8 own every bank, and a Mill has the slot: a fetch from address 0x1010 has to wait. -/
def millOwned (s : State) : State := { s with mills := [(8, { millAt State.reset 8 with ownedBanks := BitVec.allOnes 16 })] }

/-- Crew A on a Reeve with a loop around the word that LOOP names, and the word in a bank that the Mills own. -/
theorem test_witness_LoopChecks :
    let inner := { crewA with s := { crewA.s with loops := [{ start := 0x1000, last := 0x1008, remaining := 2 }] } }
    (loopCheck (onReeve crewA) 1024 crewA (crewA.stream .s) 0x1010).1.toBool = true ∧
    (loopCheck (onReeve crewA) 1024 crewA (crewA.stream .s) 0x1010).2.balked = false ∧
    (loopCheck (onReeve inner) 1024 inner (inner.stream .s) 0x1010).1 = .error (0x02, 0x1010) ∧
    (loopCheck (onReeve inner) 1024 inner (inner.stream .s) 0x1010).2.balked = false ∧
    (loopCheck (millOwned (onReeve crewA)) 1024 crewA (crewA.stream .s) 0x1010).2.balked = true := ⟨rfl, rfl, rfl, rfl, rfl⟩

/-- Crew A of launch 3, which cancels that launch in the S-stream (xA = x11 = 3 names it, xB = x12 = 1 its level), with a NOP in the V-stream. -/
def canceller : Crew :=
  let c := due (some (packA 0x0A 6 { zeroA with rd := 13, ra := 11, rb := 12 })) (some 0x0000800000000000) false
  { c with x := c.x.set 12 1 }
/-- Its clk, with its unit and its launch. -/
def cancelling : State :=
  let u := { WorkUnit.make 1 [0x1000, 0x1000, 0, 0, 3, 0x0100000000000000, 0, 0] [5, 0, 0, 0, 0, 0, 0, 0] .fresh 0 0 with
    members := [0], dispatched := true, crewIds := [7] }
  let l : Level := { Level.never with state := .active, inUse := true, count := 1, job := 0 }
  { turn canceller with units := [(1, u)], levels := [(levelKey 1 3, l), (levelKey 4 0, l)] }

set_option maxRecDepth 20000 in
/-- A CANCEL of the crew's own launch takes the due NOP away, and goes last. -/
theorem test_witness_cancel_goes_last :
    dueWords cancelling 0 = [(0, .s), (0, .v)] ∧ cancels cancelling (0, .s) = true ∧ cancels cancelling (0, .v) = false ∧
    ∃ t t' u, runDue cancelling 0 .s = .next t ∧ verdict cancelling t 0 .s = .done ∧ stillDue t 0 .v = false ∧
      runDue cancelling 0 .v = .next t' ∧ verdict cancelling t' 0 .v = .done ∧ stillDue t' 0 .s = true ∧
      runDue t' 0 .s = .next u ∧ verdict t' u 0 .s = .done :=
  ⟨rfl, rfl, rfl, _, _, _, rfl, rfl, rfl, rfl, rfl, rfl, rfl, rfl⟩

/-- A place of HBM that serves the device and one that does not; a full ring of records. -/
theorem test_witness_records_wait :
    hbmReady State.reset 0x1010 64 = true ∧ hbmReady (millOwned State.reset) 0x1010 64 = false ∧
    ¬ ((64 : BitVec 32) - 0).toNat < 2 ^ (bits (0 : Word) 3 0 + 6) ∧ ((63 : BitVec 32) - 0).toNat < 2 ^ (bits (0 : Word) 3 0 + 6) ∧
    cpRoom State.reset = true ∧ cpRoom { State.reset with port := { State.reset.port with cptail := 256 } } = false ∧
    ({ State.reset.port with retrain := true } : Port).retrain = true ∧ State.reset.port.held = false ∧
    ({ State.reset.port with held := true } : Port).held = true ∧ State.reset.port.ended = [] ∧
    recordWaits State.reset (levelKey 4 3) = false ∧ (levelKey 1 0 : Nat) ≠ statusKey ∧ State.reset.port.stopped = false :=
  ⟨rfl, rfl, by decide, by decide, by decide, by decide, rfl, rfl, rfl, rfl, rfl, by decide, rfl⟩

/-- Flags in flight before and after their bound; a store of dockets that is full; a save area that the Mills keep. -/
theorem test_witness_flags_and_store :
    (∀ p ∈ ({ crewA with pendF := [(9, 3, 1)] } : Crew).pendF, crewA.counter ≤ p.1) ∧ crewA.pendF = [] ∧
    storeRoom { State.reset with dispatcher := { State.reset.dispatcher with store := List.replicate storeCapacity 0 } } = false ∧
    (movable { State.reset with units := [(1, unitA)] } 0 unitA [0]).1 = none ∧ (movable State.reset 0 unitA []).1 = some true := by
  refine ⟨by decide, rfl, by simp [storeRoom], rfl, rfl⟩

/-- The bench that R51 serves and one after it; crew numbers that are in use and that are not; every creation that may go on. -/
theorem test_witness_dispatch_and_creation :
    choose (stored unitA) 0 = some (unitA, [0]) ∧ earlierBench (stored unitA) 0 = false ∧ earlierBench (stored unitA) 127 = true ∧
    benchFree (stored unitA) 0 = true ∧ usedIds (stored unitA) = [] ∧ freshIds (stored unitA) 1 = [(stored unitA).nextCrew] ∧
    usedIds (bench crewA .s) = [7] ∧ freshIds { bench crewA .s with nextCrew := 7 } 1 = [8] ∧
    creatorMay State.reset (.launch 1 2 0 0) = true ∧ creatorMay State.reset (.replay 1) = true ∧
    creatorMay State.reset (.join 1 0) = true ∧ creatorMay State.reset (.enqueue 1 (some (0, 5))) = true ∧
    (mapGet (stored unitA).units 1).isSome = true ∧ creatorMay State.reset (.spawn 0 3) = true ∧
    logEntry (withEntry (entryA .spawn)) (entryA .spawn).seq = some (entryA .spawn) ∧
    creatorMay { State.reset with port := { State.reset.port with retrain := true } } (.replay 1) = false :=
  ⟨rfl, rfl, rfl, rfl, rfl, rfl, rfl, rfl, rfl, rfl, rfl, rfl, rfl, rfl, rfl, rfl⟩

/-- A SPAWN that another crew's recorded write races; a wait that its stream has left; a fetch that waits, one that returns a word
and one of an unmapped page. -/
theorem test_witness_races_waits_and_fetches :
    let t : Target := { at0 64 with chk := true }
    let raced := putCore (bench crewA .s) 1 { coreAt (bench crewA .s) 1 with races := [{ sector := 1, job := 0, guardIx := 0, crewId := 8, interval := 0 }] }
    let gone := { entryA .waitc with again := true, pc := 0x2000 }
    racesAt raced 0 7 t 64 = true ∧ racesAt State.reset 0 7 t 64 = false ∧ displaced (withEntry gone) gone = true ∧
    displaced (withEntry (entryA .waitc)) (entryA .waitc) = false ∧ displacedWait (bench (withEntry gone) .s) 0 = true ∧
    (fetchWord (onReeve crewA) 1024 crewA 0x1000).2.balked = false ∧ (fetchWord (onReeve crewA) 1024 crewA 0x1000).1.toBool = true ∧
    (fetchWord (millOwned (onReeve crewA)) 1024 crewA 0x1010).2.balked = true ∧
    (fetchWord (bench crewA .s) 0 crewA 0x1000).1.toBool = false ∧ (fetchWord (bench crewA .s) 0 crewA 0x1000).2.balked = false :=
  ⟨rfl, rfl, rfl, rfl, rfl, rfl, rfl, rfl, rfl, rfl⟩

/-- A set that waits first for its crew, and one granted; an MGO alone in the queue, which its nest does not let start; a command
of a Reeve; a unit that is cancelled. -/
theorem test_witness_claims_and_nests :
    let s := core0 fun k => { k with matQ := [cmdA .mclaim], claims := [{ crewId := 7, set := 3, granted := false }] }
    let m := core0 fun k => { k with matQ := [cmdA .mgo] }
    olderStarts s 0 (cmdA .mclaim).id = false ∧ (coreAt s 0).claims = [] ++ { crewId := 7, set := 3, granted := false } :: [] ∧
    (coreAt m 0).matQ = [cmdA .mgo] ∧ issuer m (cmdA .mgo) = some crewA ∧ mayStart m (coreAt m 0) (cmdA .mgo) = true ∧
    startOk (coreAt m 0) (latchNest (cmdA .mgo) crewA) = false ∧ isReeve ({ cmdA .fst with slot := 1024 } : EngCmd).slot = true ∧
    isReeve (cmdA .fst).slot = false ∧ ({ unitA with cancelled := true } : WorkUnit).cancelled = true :=
  ⟨rfl, rfl, rfl, rfl, rfl, by decide, rfl, rfl, rfl⟩

/-- A word under way on a bench with no crew ends with status 1, and one whose crew is there waits in HOLD. -/
theorem test_witness_transfers_end :
    let t : Transfer := { op := .snap, slot := 3, crewId := 7, seq := 1, image := 0 }
    finishTransfer State.reset t = .ok (1, State.reset) := rfl

/-- Words of an engine and of the Mill, and events, whose conditions hold together. -/
theorem test_witness_EngineAndMillWordsComplete :
    (∀ q, (queued (coreAt (bench crewA .s) (coreOf 0)) q).length < (if q = .bank then 16 else 32)) ∧
    CommandRuns (bench crewA .s) 0 crewA opC false true true ∧ CommandRuns (bench crewA .s) 0 crewA opC false true false ∧
    CommandRuns (bench crewA .s) 0 crewA opC false false false ∧
    (Instr.tld opC, false, true, true, (64 : Word).toNat % 64 = 0 ∧ (tileRegion crewA 1).empty = false ∧
      wrongWay crewA 1 false = false) ∈ engineWords crewA opC false 64 3 ∧
    (tileRegion crewA (lowTile opC)).empty = false ∧ circOk 0 0x0040800400010000 0x0000800000000001 = true ∧
    (mapGet ({ crewA with circ := [(3, buffer)] } : Crew).circ 3 = some buffer ∧ 0 < buffer.fill) ∧
    MillRuns (onMill millA) 3 millA ∧ (Instr.ncmp 1 2 3 0 0 0 0 5).wellFormed = true ∧ mxTag millA 1 = false ∧
    bits (mxGet millA 2) 6 0 ≤ 64 ∧ millSees (onMill millA) ∧ millGrants millA 128 128 128 ∧ millA.trip = 0 ∧ millA.slotUse = 0 ∧
    128 % 1024 + 64 + 128 * (5 + 1) ≤ 1024 ∧ ({ millA with loops := [] } : MillState).loops = [] := by
  refine ⟨fun q => by cases q <;> decide, benchCommand _ _ _ _ rfl rfl rfl rfl, benchCommand _ _ _ _ rfl rfl rfl rfl,
    benchCommand _ _ _ _ rfl rfl rfl rfl, List.mem_cons_self .., rfl, rfl, ⟨rfl, by decide⟩, millTurn _, by decide, rfl, by decide,
    millSight _, ?_, rfl, rfl, by decide, rfl⟩
  unfold millGrants millReaches; decide

theorem test_witness_EventsComplete :
    ((stored unitA).pkg.hold = false ∧ choose (stored unitA) 0 = some (unitA, [0]) ∧ unitA.kind = .fresh ∧ unitA.prio < 7 ∧
      (unreserved (stored gangA)).find? (·.uid == 2) = some gangA) ∧
    (mayRetire (bench retiring .s) 0 retiring = true ∧ (0 : Nat) + 1 < ({ gangA with members := [0, 1] } : WorkUnit).members.length) ∧
    (let s := core0 fun k => { k with copyQ := [cmdA .tld] }
     ∃ e' s2, consumeWait s 0 (cmdA .tld) = (true, s) ∧
       takeSlots s 0 { cmdA .tld with consumed := true, started := true } = (e', s2)) ∧
    (let s := core0 fun k => { k with bankQ := [cmdA .bqload] }
     headMay (coreAt s 0) (cmdA .bqload) = true ∧ (cmdA .bqload).readyAt = none ∧ cmdFrozen s (cmdA .bqload) = false) ∧
    millRuns (onMill millA) 3 = true ∧ (3 : Nat) < 512 ∧ millA.wheelSlot < 15 ∧
    (withFabric fun f => { f with responses := [msgOf true 0 0 0 0] }).fabric.responses[0]? = some (msgOf true 0 0 0 0) ∧
    (let e := { entryA (.load 8 false) with tag := some 0 }
     let o : Outstanding := { requestA (cmdA .fst) with cmd := none, access := some (0, e.seq) }
     logEntry (withEntry e) e.seq = some e ∧ e.tag = some o.tag) ∧
    flitSeq 0x10 = flitSeq 0x10 ∧ (State.reset.fabric.combining = []) ∧ leaseFull State.reset = false ∧
    (let halted := { crewA with s := { crewA.s with fetched := some 0x003B800000000400, last := some 4 }, v := { crewA.v with exited := true } }
     groupMay (onReeve halted) 1024 = true ∧ isDue halted .s = true ∧ clusterOf (1024 + 0) = 0 ∧
      decodeWord 0x003B800000000400 = .ok (.halt zeroA)) ∧
    (40 : Nat) ≤ (40 : BitVec 16).toNat ∧ (5 : BitVec 3).toNat ≤ 5 :=
  ⟨⟨rfl, rfl, rfl, by decide, rfl⟩, ⟨rfl, by decide⟩, ⟨_, _, rfl, rfl⟩, ⟨rfl, rfl, rfl⟩, rfl, by decide, by decide, rfl, ⟨rfl, rfl⟩, rfl,
   rfl, by decide, ⟨rfl, rfl, rfl, rfl⟩, by decide, by decide⟩

/-! ### Clauses about what waits, what fails and what lies in error -/

/-- The Mill whose channel holds an address owns every bank there. -/
def keptByMill (s : State) (a : Nat) : State :=
  let m := millOf (cellOf a)
  { s with mills := [(m, { millAt State.reset m with ownedBanks := BitVec.allOnes 16 })] }

/-- A queue entry of an earlier count, a poisoned one, one that a load fills; a full queue, with and without a pop at this count; a
push whose source a load is to fill; streams at RVZ. -/
theorem test_witness_flow_and_queues :
    let q (src : Option Nat) (p : Bool) : QEntry := ⟨src, 1, p, 4⟩
    let l : Loop := { start := 0x1000, last := 0x1008, remaining := 2 }
    let load (ready : Bool) : Pend 64 :=
      { reg := 10, mask := 0xFFFFFFFFFFFFFFFF, val := 9, poison := false, issued := 3, land := .count 403
        ready := ready, seq := 2, str := .s, again := false, load := true }
    let full := { crewA with brQ := List.replicate 32 (q none false) }
    let popping := { full with v := { crewA.v with last := some 4, fetched := encodeWord (.brq ⟨0, 0, false, 0⟩) } }
    let gone := { crewA with v := { crewA.v with exited := true, last := some 2 } }
    ([l].head?.map Loop.last = some 0x1008) ∧ (q none true).poison = true ∧ (q (some 3) false).src.isSome = true ∧ (4 : Nat) < crewA.counter ∧
    ([] : List QEntry).head? = none ∧ ({ opA with mod := 1 } : FmtA).mod.getLsbD 0 = true ∧
    vPops (bench full .s) full true = false ∧ vPops (bench popping .s) popping true = true ∧ 32 < 32 + 1 ∧
    fillingLoad { crewA with pendX := [load false] } 10 = some (load false) ∧ fillingLoad { crewA with pendX := [load true] } 10 = some (load true) ∧
    crewA.s.exited = false ∧ crewA.s.rvz = none ∧ gone.v.exited = true ∧ gone.v.last ≠ some gone.counter :=
  ⟨rfl, rfl, rfl, by decide, rfl, rfl, rfl, rfl, by decide, rfl, rfl, rfl, rfl, rfl, by decide⟩

/-- An access that joins the log of a Reeve's crew, one whose address names no memory; a store whose operand is poisoned; a wait
that is to begin; a signal ahead of a SEMINIT and a SEMINIT ahead of a SEMWAIT. -/
theorem test_witness_words_of_reeves :
    let e (kind : LogKind) (a : Word) := Claims.entryOf (onReeve crewA) crewA kind a 0 0 0 13
    let signalled := { crewA with log := [e (.semsig 3) 64] }
    let set := { crewA with log := [{ e (.seminit 3) 0 with seq := 0 }] }
    (joined (onReeve crewA) 1024 crewA (e (.load 8 true) 64)).isSome = true ∧
    joined (onReeve crewA) 1024 crewA (e (.load 8 true) 0x6000000000) = none ∧
    (joined (onReeve crewA) 1024 crewA (e .loadSpec 0x6000000000)).isSome = true ∧
    (joined (bench crewA .s) 0 crewA (e (.store 8) 64)).isSome = true ∧
    tagX (bench { crewA with xPoison := 0x800 } .s) { crewA with xPoison := 0x800 } 0 10 = false ∧
    (joined (onReeve crewA) 1024 crewA (e .msemwait 64)).isSome = true ∧ crewA.waitValue = none ∧ waitEntry crewA = none ∧
    signalsPending signalled = true ∧ (∃ f ∈ set.log, f.kind = .seminit 3 ∧ f.seq < (bench set .s).stamp) ∧
    bits (0x100000000 : Word) 63 32 ≠ 0 :=
  ⟨rfl, rfl, rfl, rfl, rfl, rfl, rfl, rfl, rfl, ⟨_, List.mem_singleton.mpr rfl, rfl, by decide⟩, by decide⟩

/-- A crew's vector store waits ahead of a load from another share of the scratchpad and from its own; every element a NaN. -/
theorem test_witness_vector_stores_wait :
    let c := { crewA with vstores := [vstoreA] }
    (∀ v ∈ c.vstores, ∀ a ∈ v.keys, servedAt a ∉ [servedAt 0]) ∧ (128 : Nat) ∈ vstoreA.keys ∧
    (fp32.decode 0x7FC00000).isNaN = true := ⟨by decide, by decide, by decide⟩

/-- Creations that wait: one that may not go on ahead of one that may, a retirement and a struck unit whose units are there; a
launch that is no more ACTIVE; a core with an access that another has passed. -/
theorem test_witness_creations_wait :
    let s := { stored unitA with port := { State.reset.port with retrain := true } }
    let passed := withEntry { entryA (.load 4 true) with passed := true }
    (∀ v ∈ [Creator.replay 1], creatorMay s v = false) ∧ creatorMay s (.retire 1) = true ∧
    (mapGet s.units 1).isSome = true ∧ (levelAt s 1 7).state ≠ .active ∧ passedOn (bench passed .s) 0 = true ∧
    passedOn (bench crewA .s) 0 = false :=
  ⟨by decide, rfl, rfl, by decide, rfl, rfl⟩

/-- What the lender of a process-group table at 0x50000, of one node, this one, has answered to the device. -/
def grouped : State :=
  let far (a : Nat) (bs : List Byte) : LentAccess :=
    { deviceAccess 0 3 a { at0 a with tier := 1, node := 1 } with opc := 1, len := bs.length, tag := some 0, answer := some (0, bs, 0) }
  { mapped State.reset with
    lent := [far 0x50000 (wordBytes 1 ++ wordBytes 0x100000001 ++ wordBytes 1 ++ List.replicate 40 0), far 0x50040 (List.replicate 4 0)] }
/-- A launch of two units by its array at 0x40000, with a process group and a rank block. -/
def groupLaunch (am : Bool) : Cmd := { cmdOf 7 0x40000 2 0x50000 0x60000 am with pg := true }

set_option maxRecDepth 100000 in
/-- The table gives this node the whole launch; a table that is not there, one of no node; a template that is not there; a rank
block that is written, one whose page is not there; a level without room. -/
theorem test_witness_launch_shares :
    let share := readShare grouped (groupLaunch true)
    let docket := launchDocket grouped (groupLaunch false) 0
    (share.1.toOption.map (fun h => (h.first, h.num, h.rank)) = some (0, 2, 0) ∧ namesOpen grouped (groupLaunch true) = true ∧
      (levelAt grouped 1 7).inUse = false ∧ countersFit share.2 (outerLevels (groupLaunch true)) 2 = true) ∧
    (readShare grouped { groupLaunch true with addr1 := 0x900000000000 }).1.toBool = false ∧
    (readShare (mapped State.reset) (groupLaunch true)).1.toBool = false ∧
    docket.1.toBool = true ∧ (launchDocket grouped { groupLaunch false with addr0 := 0x900000000000 } 0).1.toBool = false ∧
    launchMalformed docket.2 (docket.1.toOption.getD []) = true ∧
    (writeVirtual grouped 0 3 0x60000 (wordBytes 0) false).1.toBool = true ∧
    (writeVirtual grouped 0 3 0x900000000000 (wordBytes 0) false).1.toBool = false ∧
    countersFit { grouped with levels := mapSet grouped.levels (levelKey 4 3) { levelAt grouped 4 3 with count := 0xFFFFFFFF } }
      (outerLevels (groupLaunch true)) 2 = false :=
  ⟨⟨rfl, rfl, rfl, rfl⟩, rfl, rfl, rfl, rfl, rfl, rfl, rfl, rfl⟩

/-- Crew A with a wait at 0x1010, whose access has been translated, on the Reeve, where the counter holds v. -/
def waits (kind : LogKind) : Crew := withEntry { entryA kind with opa := 0x1010, target := some (at0 0x1010) }
/-- Its machine. -/
def waiting (kind : LogKind) (v : Word) : State := hbmWrite (onReeve (waits kind)) 0x1010 (wordBytes v)

/-- The waits of a Reeve on memory of HBM: a count of none and of one, a counter at its bound and above, poison, memory that does
not serve the read; a wait of a bench whose page is gone, one whose counter another crew writes, and two on lent memory. -/
theorem test_witness_waits_in_HBM :
    let e (kind : LogKind) := { entryA kind with opa := 0x1010, target := some (at0 0x1010) }
    let target (s : State) (kind : LogKind) := targetFor s 1024 (jobOf s (waits kind)) 0x1010 (entryAccess (e kind))
    let u : Target := { at0 0x1010 with shr := 3 }
    (∀ kind ∈ [LogKind.msemwait, .waitc], ∀ v ∈ [(0 : Word), 1, 3, 4],
      let s := waiting kind v
      crewAt s 1024 = some (waits kind) ∧ waitingEntry (waits kind) = some (e kind) ∧ (e kind).target = some (at0 0x1010) ∧
      memoryAwake s = true ∧ target s kind = (.ok u, s) ∧ orderAllows (waits kind) (e kind) = true ∧ targetMay s u 8 = true ∧
      targetPoison s u 8 = none ∧ bytesWord (targetBytes s u 8) = v) ∧
    (e .waitc).opb = 3 ∧ isReeve 1024 = true ∧
    (targetPoison { waiting .waitc 1 with eccPoison := [cellOf 0x1010 / 32] } u 8).isSome = true ∧
    targetMay (millOwned (waiting .waitc 1)) u 8 = false ∧
    (let s := bench (waits .waitc) .s
     (targetFor s 0 (jobOf s (waits .waitc)) 0x1010 .load).1 = .error 0x10) ∧
    (let t : Target := { at0 64 with chk := true }
     racesAt (putCore (bench (waits .waitc) .s) 1 { coreAt (bench (waits .waitc) .s) 1 with
       races := [{ sector := 1, job := 0, guardIx := 0, crewId := 8, interval := 0 }] }) 0 7 t 8 = true) ∧
    (let lent := { e .waitc with target := some { at0 0x1010 with tier := 1 }, data := [2] }
     waitingEntry (withEntry lent) = some lent ∧ ({ lent with data := [] } : LogEntry).tag = none) := by
  refine ⟨?_, rfl, rfl, rfl, rfl, rfl, rfl, rfl, rfl⟩
  intro kind hk v hv
  simp only [List.mem_cons, List.not_mem_nil, or_false] at hk hv
  rcases hk with rfl | rfl <;> rcases hv with rfl | rfl | rfl | rfl <;> exact ⟨rfl, rfl, rfl, rfl, rfl, rfl, rfl, rfl, rfl⟩

/-- Accesses that may be performed and that another crew's write races, or that meet a poisoned sector; a docket of zeros is
malformed; a signal past the largest count; a translation that returns on a Reeve, with and without memory. -/
theorem test_witness_accesses_fail :
    let t : Target := { at0 64 with chk := true }
    let e (kind : LogKind) : LogEntry := { entryA kind with target := some t }
    let raced (kind : LogKind) := let s := bench (withEntry (e kind)) .s
      putCore s 1 { coreAt s 1 with races := [{ sector := 1, job := 0, guardIx := 0, crewId := 8, interval := 0 }] }
    let poisoned (kind : LogKind) : State := { bench (withEntry (entryA kind)) .s with eccPoison := [cellOf 64 / 32] }
    (∀ kind ∈ [LogKind.load 4 true, .store 4, .spawn],
      mayPerform (raced kind) 0 (withEntry (e kind)) (e kind) t ∧ (e kind).ord = 0 ∧ isReeve 0 = false ∧
        racesAt (raced kind) (jobOf (raced kind) (withEntry (e kind))) crewA.crewId t 4 = true) ∧
    (∀ kind ∈ [LogKind.load 4 true, .joindec],
      mayPerform (poisoned kind) 0 (withEntry (entryA kind)) (entryA kind) (at0 64) ∧
        (targetPoison (poisoned kind) (at0 64) 4).isSome = true) ∧
    docketMalformed State.reset (List.replicate 8 0) = true ∧
    (2 ^ 32 ≤ (semAt State.reset 0 5).count.toNat + (0x100000000 : Word).toNat) ∧
    (physicalTarget 64).toOption.isSome = true ∧ (physicalTarget 0x6000000000).toOption = none ∧
    (let due := { vstoreA with due := 6 }
     (∀ v ∈ [vstoreA], (6 : Nat) < v.due) ∧ due.due ≤ 6 ∧ vstoreAllows { crewA with vstores := [due] } due = true) := by
  refine ⟨?_, ?_, rfl, by decide, rfl, rfl, by decide, by decide, rfl⟩
  all_goals
    intro kind hk
    simp only [List.mem_cons, List.not_mem_nil, or_false] at hk
  · rcases hk with rfl | rfl | rfl <;> exact ⟨⟨rfl, rfl, rfl, rfl, rfl, rfl, rfl, by decide, rfl⟩, rfl, rfl, rfl⟩
  · rcases hk with rfl | rfl <;> exact ⟨⟨rfl, rfl, rfl, rfl, rfl, rfl, rfl, by decide, rfl⟩, rfl⟩

/-- The state after the events that fill the queue of pseudo-channel 8: a host access of 64 bytes waits for its bank 0, which the
Mills own, in the first slot of an eighth revolution. -/
def hostWaiting : State :=
  let v := { millAt State.reset 8 with ownedBanks := BitVec.allOnes 16 }
  { State.reset with mills := [(8, v)], host := { State.reset.host with queue := [(8 * 0x30000000, 64)] } }

/-- A status word that its page takes, that it does not, and that its memory keeps waiting; writes of both windows on each side of a
release; a host access that waits; a command wheel and a memory asleep; a claim that another core holds; a nest with steps. -/
theorem test_witness_engines_and_controllers :
    let e (slot : Nat) : EngCmd := { cmdA .bqcmd with slot := slot }
    let s := onReeve crewA
    let far : Crossing := { sector := 1, linear := true, old := 0, writer := some (0, 7, 9) }
    let mine : Crossing := { far with writer := some (0, 8, 9) }
    let other := putCore (core0 fun k => k) 1 { coreAt (bench crewA .s) 1 with claims := [{ crewId := 7, set := 3, granted := true }] }
    (∃ t, engineWrite s (e 1024) 0x1010 (wordBytes 3) = .ok () t) ∧ (∃ t, engineWrite (millOwned s) (e 1024) 0x1010 (wordBytes 3) = .wait t) ∧
    (∃ t, engineWrite (bench crewA .s) (e 0) 0x1010 (wordBytes 3) = .fault 0x10 0x1010 t) ∧
    (recStat [0, 0, 0, 0, 0, 0, 0, 0] = 0) ∧
    far.unordered (bench crewA .s) 8 = true ∧ far.unordered (bench { crewA with released := 9 } .s) 8 = false ∧
    mine.unordered (bench crewA .s) 8 = false ∧
    oldestRun hostWaiting 8 = some (8 * 0x30000000, 64) ∧ (millAt hostWaiting 8).wheelSlot = 0 ∧ (millAt hostWaiting 8).revolution % 8 = 0 ∧
    (millAt hostWaiting 8).service = none ∧ bankOf (8 * 0x30000000) = 0 ∧ rowOf (8 * 0x30000000) = 0 ∧
    sectorCount (8 * 0x30000000) 64 ≤ 16 ∧ oldestRun State.reset 8 = none ∧ memoryAwake State.reset = true ∧
    memoryAwake { State.reset with pkg := { State.reset.pkg with hold := true } } = false ∧
    (∃ p ∈ (coreAt other 1).claims, p.crewId = (cmdA .mrel).crewId ∧ p.granted = true) ∧ (coreAt other 0).claims = [] ∧
    ({ cmdA .mldo with cimm := 0x200 } : EngCmd).cimm.getLsbD 9 = true ∧ (formatOf 4).isSome = false ∧
    (let m := { cmdA .mgo with latch := [0, 0, 0, 0, 0, 0, 0, 0, 1] }
     0 ∈ nestBanks (latchedRows m) (latchedControl m) ∧ (nestSteps m).filter (·.bank == 0) ≠ [] ∧
       1 ∉ nestBanks (latchedRows m) (latchedControl m)) :=
  ⟨⟨_, rfl⟩, ⟨_, rfl⟩, ⟨_, rfl⟩, rfl, rfl, rfl, rfl, rfl, rfl, rfl, rfl, rfl, rfl, by decide, rfl, rfl, rfl,
   ⟨_, List.mem_singleton.mpr rfl, rfl, rfl⟩, rfl, rfl, rfl, by decide, by decide, by decide⟩

/-- The code of the lent operations is the code of a message that names it (log 18). -/
theorem test_lent_code : (msgOf false (BitVec.ofNat 64 lentOpc) 0 0x1010 8).opc = lentOpc := by
  have h : ∀ n < 128, (msgOf false (BitVec.ofNat 64 n) 0 0x1010 8).opc = n := by decide +kernel
  exact h _ (by unfold lentOpc; omega)

/-- Answers with each status to a command's request and to the device's own; a request whose memory keeps it waiting; one of an
operation of Table 12.3 that Table 13.2 has no code for; a port that is down; a combined entry of two requests. -/
theorem test_witness_messages :
    let m (w0 : Word) := msgOf true w0 0 0 0
    let o (cmd : Option Nat) : Outstanding := { requestA (cmdA .fst) with cmd := cmd }
    let s (o : Outstanding) (m : Msg) := { (core0 fun k => { k with portRun := [cmdA .fst] }) with
      fabric := { State.reset.fabric with responses := [m], outstanding := [o] } }
    let read := msgOf false 0x101 0x6000000000 0x40 4
    let held := keptByMill (hbmWrite (mapped State.reset) 0x300000 (wordBytes 0x9F)) 0x40
    let down := { State.reset with fabric := { State.reset.fabric with ports := [(2, { portAt State.reset 2 with down := true })] } }
    let two : Combine := { waiting := true, dst := 0, job := 0, addr := 0, ty := 0, tag := 0, manifest := [(1, 2), (3, 4)],
                           msgs := [msgOf false 3 0 0 8, msgOf false 3 0 0 8] }
    (m 0x1000000).stat = 1 ∧
    answered (s (o (some (cmdA .fst).id)) (m 0x1000000)) (m 0x1000000) = some (o (some (cmdA .fst).id)) ∧
    (cmdA .fst).held = false ∧ answered (s (o none) (m 0)) (m 0) = some (o none) ∧ (o none).access = none ∧ (o none).cmd = none ∧
    (servedTarget held read .load).1.isSome = true ∧ targetMay held (at0 0x40) 4 = false ∧ held.pkg.hold = false ∧
    (msgOf false (BitVec.ofNat 64 lentOpc) 0 0x1010 8).opc = lentOpc ∧ targetPoison State.reset (at0 0x1010) 8 = none ∧ (portAt down 2).down = true ∧ 12 ≤ 12 ∧
    two.waiting = true ∧ 2 ≤ two.msgs.length :=
  ⟨rfl, rfl, rfl, rfl, rfl, rfl, rfl, rfl, rfl, test_lent_code, rfl, rfl, by decide, rfl, by decide⟩

/-- Unit A in job 3 with RST and its save area at 0x40000: its snapshot block stands at 0x50000, with no re-run made. -/
def unitAgain : WorkUnit := { unitSaved with docket := unitSaved.docket.set 5 0x0100002000000000, members := [0], left := [] }
/-- Crew A on its bench in that unit, with job 3 mapped. -/
def struck : State := { mapped State.reset with crews := [(0, crewA)], units := [(1, unitAgain)] }

/-- A unit that may run again and whose snapshot can be read, one that has run three times, one whose area is not mapped, one whose
memory the Mills keep; a unit that is lost at once; a Reeve. -/
theorem test_witness_hardware_errors :
    let two := hbmWrite struck 0x50090 (wordBytes 2)
    let runs := runsOfUnit struck 0 unitAgain.docket
    let unmapped := { unitAgain with docket := unitAgain.docket.set 6 0x10000040000 }
    let gone := (groupOf struck 0 crewA).foldl loseCrew (keptByMill struck 0x50090)
    unitOf struck crewA = some unitAgain ∧ unitAgain.cancelled = false ∧ Docket.rst unitAgain.docket = true ∧
    snapshotBlock unitAgain.docket = 0x50000 ∧ runs = (some 0, runs.2) ∧ anotherCore runs.2 unitAgain.docket 0 = true ∧
    (runsOfUnit two 0 unitAgain.docket).1 = some 2 ∧ (runsOfUnit struck 0 unmapped.docket).1 = none ∧
    (runsOfUnit gone 0 unitAgain.docket).2.balked = true ∧ (crewAt (onReeve crewA) 1024).isSome = true ∧ (1024 : Nat) < 1032 ∧
    (loseUnit { bench crewA .s with units := [(1, unitA)] } unitA).balked = false :=
  ⟨rfl, rfl, rfl, rfl, rfl, rfl, rfl, rfl, rfl, rfl, by decide, rfl⟩

/-- Turns of an access event, of a cell error that persists and of one that does not, and of stuck bits of a scratchpad; a condition of
the package; a boot whose signature fails. -/
theorem test_witness_errors_in_cells :
    let s (t : Turn) : State := { State.reset with agenda := [t] }
    (s (.cellError 5 0xFF false)).agenda = .cellError 5 0xFF false :: [] ∧ (s (.cellError 5 0xFF true)).agenda = .cellError 5 0xFF true :: [] ∧
    (s (.stuckAt 7 0x8 0x8)).agenda = .stuckAt 7 0x8 0x8 :: [] ∧
    ({ State.reset with spadStuck := [(7, (0x8, 0x8))] } : State).spadStuck = [(7, (0x8, 0x8))] ∧ State.reset.port.ended = [] ∧
    State.reset.eccStuck = [] ∧ State.reset.lent = [] ∧ mxTag millA 4 = true := ⟨rfl, rfl, rfl, rfl, rfl, rfl, rfl, rfl⟩
end

/-! ### The bit-field forms and the prefix hash (R140, R141) -/

section
namespace Sys2Proof.Machine
open Sys2Proof.Claims

theorem anyTag_numberedA_two (s : State) (c : Crew) (o : FmtA) :
    anyTag s c (numberedA o 2) = (tagX s c 0 o.ra || tagX s c 1 o.rb) := by
  simp [anyTag, numberedA]

theorem anyTag_numberedA_three (s : State) (c : Crew) (o : FmtA) :
    anyTag s c (numberedA o 3) = (tagX s c 0 o.ra || tagX s c 1 o.rb || tagX s c 2 o.rc) := by
  simp [anyTag, numberedA, Bool.or_assoc]

/-- An instruction that is a scalar form of format A with n sources completes where it runs, and its one effect is the write of
the form's result to xd, poisoned where a source that it reads is (R136). -/
theorem givesX_of_scalarWord {i : Instr} {o : FmtA} {n bound : Nat} {f : Word → Word → Word → Word} {s : State} {k : Nat}
    {c : Crew} (hi : exec i s = scalarWord o n bound f s) (h : WordRuns s k .s c .s false (guardA o) (readsA o n)) :
    givesX i s k .s c (freesA o) o.rd (f (readX s c 0 o.ra) (readX s c 1 o.rb) (readX s c 2 o.rc))
      (anyTag s c (numberedA o n)) bound := by
  rw [givesX, hi, scalarWord, runWord_runs h, finish_done, resultX]

theorem exec_bfx (o : FmtA) (s : State) : exec (.bfx o) s = scalarWord o 2 1 (fun a b _ => fieldExtract a b) s := rfl

theorem exec_bfi (o : FmtA) (s : State) : exec (.bfi o) s = scalarWord o 3 1 fieldInsert s := rfl

theorem exec_pfxh (o : FmtA) (s : State) : exec (.pfxh o) s = scalarWord o 3 6 prefixHash s := rfl

/-- The first bit of a field, b of R140, as arithmetic. -/
theorem bits_5_0 (w : Word) : bits w 5 0 = w.toNat % 64 := rfl

/-- The width of a field less one, w - 1 of R140, as arithmetic. -/
theorem bits_13_8 (w : Word) : bits w 13 8 = w.toNat / 256 % 64 := by
  simp [bits, Nat.shiftRight_eq_div_pow]

/-- Each bit of a field taken out comes from its place in the source, and the bits past the field are zero (R140). -/
theorem getLsbD_fieldExtract (a b : Word) {j : Nat} (hj : j < 64) :
    (fieldExtract a b).getLsbD j = (decide (j < bits b 13 8 + 1) && a.getLsbD (bits b 5 0 + j)) := by
  rw [fieldExtract, BitVec.getLsbD_ofNat, Nat.testBit_mod_two_pow, Nat.testBit_div_two_pow, BitVec.testBit_toNat,
    bits_5_0, bits_13_8, Nat.add_comm j, decide_eq_true hj, Bool.true_and]

/-- The mask of w ones from bit lo holds exactly the bits of the field. -/
theorem testBit_fieldMask (w lo j : Nat) : ((2 ^ w - 1) * 2 ^ lo).testBit j = decide (lo ≤ j ∧ j < lo + w) := by
  rw [Nat.testBit_mul_two_pow, Nat.testBit_two_pow_sub_one, ← Bool.decide_and, decide_eq_decide]
  omega

/-- Each bit of the field put in comes from its place in the source, and every other bit is the old one (R140). -/
theorem getLsbD_fieldInsert (a b old : Word) {j : Nat} (hj : j < 64) :
    (fieldInsert a b old).getLsbD j =
      if bits b 5 0 ≤ j ∧ j < bits b 5 0 + (bits b 13 8 + 1) then a.getLsbD (j - bits b 5 0) else old.getLsbD j := by
  rw [bits_5_0, bits_13_8]
  simp only [fieldInsert, BitVec.getLsbD_or, BitVec.getLsbD_and, BitVec.getLsbD_not, BitVec.getLsbD_ofNat,
    testBit_fieldMask, hj, decide_true, Bool.true_and]
  split
  case isTrue hin =>
    have hw : j - b.toNat % 64 < b.toNat / 256 % 64 + 1 := by omega
    simp [hin, hw, Nat.testBit_mul_two_pow, Nat.testBit_mod_two_pow, BitVec.testBit_toNat]
  case isFalse hout => simp [hout]

/-- The model's step of the prefix hash is the manual's: the rotation by 23 is the two shifts of R141. -/
theorem prefixHash_eq_prefixStep (h t k : Word) : prefixHash h t k = prefixStep h t k := by
  have hrot : h.rotateLeft 23 = (h <<< 23) ||| (h >>> 41) := rfl
  rw [prefixHash, hrot, prefixStep]

/-- Settles O12: each word is a scalar form of format A, so it gives the result of its function (R136), and that function is the
rule's, bit by bit for the fields (R140) and step for step for the hash (R141). -/
theorem bitFieldAndHashResults : Obligations.BitFieldAndHashResults := by
  intro o s k c
  refine ⟨rfl, rfl, rfl, fun h => ?_, fun h => ⟨?_, ?_⟩⟩
  · rw [← anyTag_numberedA_two]
    exact ⟨_, givesX_of_scalarWord (exec_bfx o s) h, fun _ => getLsbD_fieldExtract _ _⟩
  · rw [← anyTag_numberedA_three]
    exact ⟨_, givesX_of_scalarWord (exec_bfi o s) h, fun _ => getLsbD_fieldInsert _ _ _⟩
  · rw [← anyTag_numberedA_three, ← prefixHash_eq_prefixStep]
    exact givesX_of_scalarWord (exec_pfxh o s) h

end Sys2Proof.Machine
end

/-! ### The frame of a Mill word -/

section
namespace Sys2Proof.Machine
open Sys2Proof.Claims

/-- Signing the writes of a word that wrote nothing changes nothing: no crossing is new. -/
@[simp] theorem signCrossings_self (writer : Nat × Nat × Nat) (s : State) : signCrossings writer s s = s := by
  simp [signCrossings]

@[simp] theorem signKernel_self (s : State) (v : MillState) : signKernel s s v = s := by
  unfold signKernel
  split
  · exact signCrossings_self _ s
  · rfl

/-- A Mill word in range whose body completes goes on to the next word, its writes signed by the kernel's command (R297). -/
theorem millWord_done {bad : Bool} {body : State → MillState → MillEnd} {s s' : State} {m : Nat} {v v' : MillState}
    (h : MillRuns s m v) (hbad : bad = false) (hbody : body s v = .done s' v') :
    millWord bad s body = .next (millIssued (signKernel s s' v) m v') := by
  obtain ⟨hcur, hmill⟩ := h
  simp [millWord, hcur, hmill, hbad, hbody, millIssued]

/-- An instruction that is a Mill word in range, and whose body changes nothing but its Mill, goes on to the next word with the
Mill as the body leaves it. -/
theorem exec_of_millWord {i : Instr} {bad : Bool} {body : State → MillState → MillEnd} {s : State} {m : Nat}
    {v v' : MillState} (h : MillRuns s m v) (hi : exec i s = millWord bad s body) (hbad : bad = false)
    (hbody : body s v = .done s v') : exec i s = .next (millIssued s m v') := by
  rw [hi, millWord_done h hbad hbody, signKernel_self]

end Sys2Proof.Machine
end

/-! ### The integers of the Mill's arithmetic forms (R186, R304) -/

section
namespace Sys2Proof.Machine

theorem wrapInt_eq_toNat_ofInt (w : Nat) (z : Int) : wrapInt w z = (BitVec.ofInt w z).toNat :=
  (BitVec.toNat_ofInt z).symm

theorem ofNat_wrapInt (w : Nat) (z : Int) : BitVec.ofNat w (wrapInt w z) = BitVec.ofInt w z := by
  rw [wrapInt_eq_toNat_ofInt, BitVec.ofNat_toNat, BitVec.setWidth_eq]

section
variable {w : Nat} (signed : Bool) (x y : BitVec w)

theorem intOf_unsigned : intOf w false x.toNat = x.toNat := rfl

theorem intOf_signed : intOf w true x.toNat = x.toInt := by
  simp [intOf, BitVec.toInt_eq_msb_cond, BitVec.msb_eq_getLsbD_last, BitVec.testBit_toNat]

/-- The integer that a register stands for, in either type, has the register's bits. -/
theorem ofInt_intOf : BitVec.ofInt w (intOf w signed x.toNat) = x := by
  cases signed
  case false => rw [intOf_unsigned, BitVec.ofInt_natCast, BitVec.ofNat_toNat, BitVec.setWidth_eq]
  case true => rw [intOf_signed, BitVec.ofInt_toInt]

theorem wrapInt_intOf : wrapInt w (intOf w signed x.toNat) = x.toNat := by
  rw [wrapInt_eq_toNat_ofInt, ofInt_intOf]

/-- The order of a type's integers is the signed or the unsigned order of the registers. -/
theorem intOf_le_intOf : intOf w signed x.toNat ≤ intOf w signed y.toNat ↔
    (if signed then decide (x.toInt ≤ y.toInt) else decide (x.toNat ≤ y.toNat)) = true := by
  cases signed
  case false => simp [intOf_unsigned]
  case true => simp [intOf_signed]

theorem ofInt_intOf_add : BitVec.ofInt w (intOf w signed x.toNat + intOf w signed y.toNat) = x + y := by
  rw [BitVec.ofInt_add, ofInt_intOf, ofInt_intOf]

theorem ofInt_intOf_sub : BitVec.ofInt w (intOf w signed x.toNat - intOf w signed y.toNat) = x - y := by
  rw [Int.sub_eq_add_neg, BitVec.ofInt_add, BitVec.ofInt_neg, ofInt_intOf, ofInt_intOf, BitVec.sub_eq_add_neg]

theorem ofInt_intOf_mul : BitVec.ofInt w (intOf w signed x.toNat * intOf w signed y.toNat) = x * y := by
  rw [BitVec.ofInt_mul, ofInt_intOf, ofInt_intOf]

theorem ofInt_intOf_max : BitVec.ofInt w (max (intOf w signed x.toNat) (intOf w signed y.toNat)) =
    if (if signed then decide (x.toInt ≤ y.toInt) else decide (x.toNat ≤ y.toNat)) = true then y else x := by
  simp only [Int.max_def, intOf_le_intOf, apply_ite (BitVec.ofInt w), ofInt_intOf]

theorem ofInt_intOf_min : BitVec.ofInt w (min (intOf w signed x.toNat) (intOf w signed y.toNat)) =
    if (if signed then decide (x.toInt ≤ y.toInt) else decide (x.toNat ≤ y.toNat)) = true then x else y := by
  simp only [Int.min_def, intOf_le_intOf, apply_ite (BitVec.ofInt w), ofInt_intOf]

/-- A bitwise form works on the registers' bits, whatever numbers they stand for. -/
theorem ofInt_onBits_intOf (f : Nat → Nat → Nat) :
    BitVec.ofInt w (onBits w f (intOf w signed x.toNat) (intOf w signed y.toNat)) = BitVec.ofNat w (f x.toNat y.toNat) := by
  rw [onBits, wrapInt_intOf, wrapInt_intOf, BitVec.ofInt_natCast]

theorem ofInt_intOf_and :
    BitVec.ofInt w (onBits w (· &&& ·) (intOf w signed x.toNat) (intOf w signed y.toNat)) = x &&& y := by
  simp [ofInt_onBits_intOf, BitVec.ofNat_and]

theorem ofInt_intOf_or :
    BitVec.ofInt w (onBits w (· ||| ·) (intOf w signed x.toNat) (intOf w signed y.toNat)) = x ||| y := by
  simp [ofInt_onBits_intOf, BitVec.ofNat_or]

theorem ofInt_intOf_xor :
    BitVec.ofInt w (onBits w (· ^^^ ·) (intOf w signed x.toNat) (intOf w signed y.toNat)) = x ^^^ y := by
  simp [ofInt_onBits_intOf, BitVec.ofNat_xor]

theorem ofInt_shiftLeft_intOf :
    BitVec.ofInt w (shiftLeft w (intOf w signed x.toNat) (intOf w signed y.toNat)) = x <<< (y.toNat % w) := by
  have hpow : BitVec.ofInt w (2 ^ (y.toNat % w)) = BitVec.twoPow w (y.toNat % w) := by
    have hcast : (2 ^ (y.toNat % w) : Int) = ((2 ^ (y.toNat % w) : Nat) : Int) := (Int.natCast_pow 2 _).symm
    apply BitVec.eq_of_toNat_eq
    rw [hcast, BitVec.ofInt_natCast, BitVec.toNat_ofNat, BitVec.toNat_twoPow]
  rw [shiftLeft, wrapInt_intOf, BitVec.ofInt_mul, ofInt_intOf, hpow, ← BitVec.shiftLeft_eq_mul_twoPow]

/-- The division by a power of two that rounds down is the arithmetic shift of a signed number and the logical shift of an
unsigned one. -/
theorem intOf_div_two_pow (n : Nat) : intOf w signed x.toNat / 2 ^ n =
    intOf w signed (if signed then x.sshiftRight n else x >>> n).toNat := by
  cases signed
  case false =>
    rw [intOf_unsigned, intOf_unsigned]
    simp [Nat.shiftRight_eq_div_pow]
  case true => simp [intOf_signed, BitVec.toInt_sshiftRight, Int.shiftRight_eq_div_pow]

theorem ofInt_shiftRight_intOf :
    BitVec.ofInt w (shiftRight w (intOf w signed x.toNat) (intOf w signed y.toNat)) =
      if signed then x.sshiftRight (y.toNat % w) else x >>> (y.toNat % w) := by
  rw [shiftRight, wrapInt_intOf, intOf_div_two_pow, ofInt_intOf]

end

end Sys2Proof.Machine
end

/-! ### The Mill's forms on mx registers (R304, R306, R313, R314) -/

section
namespace Sys2Proof.Machine
open Sys2Proof.Claims

/-- An instruction that is a scalar form, signed or unsigned, writes the low 64 bits of its exact result, poisoned where a
source is (R299, R304). -/
theorem givesMx_of_scalarForm {i : Instr} {d a b : BitVec 4} {signed : Bool} {f : Int → Int → Int} {s : State} {m : Nat}
    {v : MillState} {x : Word} (h : MillRuns s m v) (hi : exec i s = scalarForm d a b (if signed then 0 else 2) f s)
    (hx : BitVec.ofInt 64 (f (intOf 64 signed (mxGet v a).toNat) (intOf 64 signed (mxGet v b).toNat)) = x) :
    givesMx i s m v d x (mxTag v a || mxTag v b) := by
  have hgood : badScalar (if signed then 0 else 2) = false := by cases signed <;> rfl
  have hsign : ((if signed then 0 else 2 : BitVec 2) == 0) = signed := by cases signed <;> rfl
  refine exec_of_millWord h hi hgood ?_
  simp only [hsign, ofNat_wrapInt, hx]

theorem givesMx_millScalarForms {s : State} {m : Nat} {v : MillState} (d a b : BitVec 4) (signed : Bool)
    (h : MillRuns s m v) : ∀ p ∈ millScalarForms d a b signed (mxGet v a) (mxGet v b),
      givesMx p.1 s m v d p.2 (mxTag v a || mxTag v b) := by
  simp only [millScalarForms, List.forall_mem_cons, List.not_mem_nil, false_imp_iff, implies_true, and_true]
  exact ⟨givesMx_of_scalarForm h rfl (ofInt_intOf_add ..), givesMx_of_scalarForm h rfl (ofInt_intOf_sub ..),
    givesMx_of_scalarForm h rfl (ofInt_intOf_mul ..), givesMx_of_scalarForm h rfl (ofInt_intOf_max ..),
    givesMx_of_scalarForm h rfl (ofInt_intOf_min ..), givesMx_of_scalarForm h rfl (ofInt_intOf_and ..),
    givesMx_of_scalarForm h rfl (ofInt_intOf_or ..), givesMx_of_scalarForm h rfl (ofInt_intOf_xor ..),
    givesMx_of_scalarForm h rfl (ofInt_shiftLeft_intOf ..), givesMx_of_scalarForm h rfl (ofInt_shiftRight_intOf ..)⟩

/-- What NSKIP gives: the place of the first one of a word at or above a place, 64 where there is none (R313). -/
def firstOneFrom (x : Word) (lo : Nat) : Nat :=
  ((List.range 64).find? fun j => decide (lo ≤ j) && x.getLsbD j).getD 64

theorem exec_nliScalar (d : BitVec 4) (i : BitVec 12) (s : State) : exec (.nliScalar d i) s = millWord false s fun s v =>
    .done s (mxPut v d (i.signExtend 64) false) := rfl

theorem exec_nliShift (d : BitVec 4) (i : BitVec 12) (s : State) : exec (.nliShift d i) s = millWord false s fun s v =>
    .done s (mxPut v d ((mxGet v d <<< 12) ||| i.zeroExtend 64) (mxTag v d)) := rfl

theorem exec_naddi (d a : BitVec 4) (i : BitVec 12) (s : State) : exec (.naddi d a i) s = millWord false s fun s v =>
    .done s (mxPut v d (mxGet v a + i.signExtend 64) (mxTag v a)) := rfl

theorem exec_nskip (d a b : BitVec 4) (s : State) : exec (.nskip d a b) s = millWord false s fun s v =>
    .done s (mxPut v d (BitVec.ofNat 64 (firstOneFrom (mxGet v a) (mxGet v b).toNat)) (mxTag v a || mxTag v b)) := rfl

/-- The place found is the least at or above lo that holds a one. -/
theorem firstOneFrom_spec (x : Word) (lo : Nat) :
    (∀ k < firstOneFrom x lo, lo ≤ k → x.getLsbD k = false) ∧
      ((firstOneFrom x lo < 64 ∧ lo ≤ firstOneFrom x lo ∧ x.getLsbD (firstOneFrom x lo) = true) ∨
        firstOneFrom x lo = 64) := by
  rw [firstOneFrom]
  cases hfind : (List.range 64).find? fun j => decide (lo ≤ j) && x.getLsbD j with
  | none =>
    have hnone := List.find?_range_eq_none.1 hfind
    exact ⟨fun k hk hlo => by simpa [hlo] using hnone k hk, .inr rfl⟩
  | some j =>
    obtain ⟨hj, hlt, hbelow⟩ := List.find?_range_eq_some.1 hfind
    rw [Bool.and_eq_true, decide_eq_true_eq] at hj
    exact ⟨fun k hk hlo => by simpa [hlo] using hbelow k hk, .inl ⟨List.mem_range.1 hlt, hj⟩⟩

theorem getLsbD_foldl_or {w : Nat} (l : List (BitVec w)) (acc : BitVec w) (j : Nat) :
    (l.foldl (· ||| ·) acc).getLsbD j = (acc.getLsbD j || l.any (·.getLsbD j)) := by
  induction l generalizing acc with
  | nil => simp
  | cons f l ih => simp [ih, Bool.or_assoc]

theorem getLsbD_allLaneFlags (v : MillState) (j : Nat) :
    (allLaneFlags v).getLsbD j = (List.range 32).any fun l => (laneFlag v l).getLsbD j := by
  simp [allLaneFlags, orFlags, getLsbD_foldl_or, List.any_map, Function.comp_def]

/-- UE is bit 8 of a channel's flags (Table 10.8). -/
theorem and_chanUE_ne_zero (f : BitVec 12) : (f &&& chanUE != 0) = f.getLsbD 8 := by
  have hbit : chanUE = BitVec.twoPow 12 8 := rfl
  rw [hbit, BitVec.and_twoPow]
  cases f.getLsbD 8 <;> rfl

/-- What NFLAG gives: the flags of all lanes, and UE in bit 8 (R314). -/
def flagWord (v : MillState) : Word :=
  (allLaneFlags v).zeroExtend 64 ||| (if v.chan &&& chanUE != 0 then 0x100 else 0)

theorem exec_nflag (d : BitVec 4) (c : BitVec 1) (s : State) : exec (.nflag d c) s = millWord false s fun s v =>
    .done s (mxPut (if c = 1 then { v with laneFlags := 0 } else v) d (flagWord v) false) := rfl

theorem getLsbD_flagWord (v : MillState) {j : Nat} (hj : j < 64) : (flagWord v).getLsbD j =
    ((decide (j < 5) && (List.range 32).any fun l => (laneFlag v l).getLsbD j) || (j == 8 && v.chan.getLsbD 8)) := by
  have hlanes : ((allLaneFlags v).zeroExtend 64).getLsbD j =
      (decide (j < 5) && (List.range 32).any fun l => (laneFlag v l).getLsbD j) := by
    rw [← getLsbD_allLaneFlags, BitVec.getLsbD_setWidth, decide_eq_true hj, Bool.true_and]
    by_cases h5 : j < 5
    · simp [h5]
    · simp [h5, BitVec.getLsbD_of_ge _ j (Nat.le_of_not_lt h5)]
  have hue : (if v.chan.getLsbD 8 then (0x100 : Word) else 0).getLsbD j = (j == 8 && v.chan.getLsbD 8) := by
    have hbit : (0x100 : Word) = BitVec.twoPow 64 8 := rfl
    cases v.chan.getLsbD 8
    case false => simp
    case true =>
      rw [if_pos rfl, hbit, BitVec.getLsbD_twoPow, decide_eq_true (by decide : 8 < 64), Bool.true_and, Bool.and_true,
        Bool.eq_iff_iff, decide_eq_true_eq, beq_iff_eq]
      exact eq_comm
  rw [flagWord, and_chanUE_ne_zero, BitVec.getLsbD_or, hlanes, hue]

/-- The word of NFLAG field by field: OP 0x22, mxd, and the clear bit lowest (R314, Table 11.2). -/
theorem encodeMill_nflag (d : BitVec 4) (c : BitVec 1) :
    encodeMill (.nflag d c) = some (0x22#6 ++ d ++ 0#4 ++ 0#4 ++ 0#2 ++ 0#11 ++ c) := by
  revert d c
  decide

/-- Settles O51: each form is a Mill word in range whose body writes one mx register and reads nothing but the Mill, so it goes
on to the next word with that write. -/
theorem millScalarWords : Obligations.MillScalarWords := by
  intro s m v d a b signed i c h
  refine ⟨givesMx_millScalarForms d a b signed h, ?nli, ?nliShift, ?naddi, ?nskip, encodeMill_nflag d c, ?nflag⟩
  case nli => exact exec_of_millWord h (exec_nliScalar d i s) rfl rfl
  case nliShift => exact exec_of_millWord h (exec_nliShift d i s) rfl rfl
  case naddi => exact exec_of_millWord h (exec_naddi d a i s) rfl rfl
  case nskip => exact ⟨_, exec_of_millWord h (exec_nskip d a b s) rfl rfl, firstOneFrom_spec _ _⟩
  case nflag => exact ⟨_, exec_of_millWord h (exec_nflag d c s) rfl rfl, fun _ => getLsbD_flagWord v⟩

end Sys2Proof.Machine
end

/-! ### The formats of stream words: packing and unpacking (Tables 04.1 to 04.6a) -/

section
namespace Sys2Proof

theorem ite_of_iff {α : Type} {b c : Prop} [Decidable b] [Decidable c] {x y u v : α} (h : b ↔ c) (hx : x = u) (hy : y = v) :
    (if b then x else y) = if c then u else v :=
  ite_congr (propext h) (fun _ => hx) fun _ => hy

theorem congr_two {α β γ : Sort _} (f : α → β → γ) {a a' : α} {b b' : β} (ha : a = a') (hb : b = b') : f a b = f a' b' :=
  congr (congrArg f ha) hb

theorem bit1_getLsbD {n : Nat} (w : BitVec n) (k : Nat) : bit1 (w.getLsbD k) = w.extractLsb' k 1 := by
  ext i hi
  obtain rfl : i = 0 := by omega
  simp [bit1]

/-! A field of a word: what stands below it is passed over, and the field is then the last. -/

theorem getLsbD_append_high {v w i : Nat} {x : BitVec v} {y : BitVec w} (h : w ≤ i) :
    (x ++ y).getLsbD i = x.getLsbD (i - w) := by
  rw [BitVec.getLsbD_append, if_neg (by omega)]

theorem extractLsb'_append_last {v w : Nat} {x : BitVec v} {y : BitVec w} : (x ++ y).extractLsb' 0 w = y := by
  rw [BitVec.extractLsb'_append_eq_of_add_le (by omega), BitVec.extractLsb'_eq_self]

theorem getLsbD_append_bit1 {v : Nat} {x : BitVec v} {b : Bool} : (x ++ bit1 b).getLsbD 0 = b := by
  rw [BitVec.getLsbD_append, if_pos (by decide)]
  simp [bit1]

section
variable (major : BitVec 7) (minor : BitVec 5)

@[simp] theorem majorOf_packA (o : FmtA) : majorOf (packA major minor o) = major := by
  unfold majorOf packA
  repeat rw [BitVec.extractLsb'_append_eq_of_le (by decide)]
  exact extractLsb'_append_last

@[simp] theorem minorOfA_packA (o : FmtA) : minorOfA (packA major minor o) = minor := by
  unfold minorOfA packA
  repeat rw [BitVec.extractLsb'_append_eq_of_le (by decide)]
  exact extractLsb'_append_last

@[simp] theorem unpackA_packA (o : FmtA) : unpackA (packA major minor o) = o := by
  obtain ⟨⟩ := o
  simp only [unpackA, gapOf, packA, FmtA.mk.injEq]
  and_intros
  all_goals repeat rw [BitVec.extractLsb'_append_eq_of_le (by decide)]
  all_goals repeat rw [getLsbD_append_high (by decide)]
  · exact BitVec.extractLsb'_eq_self
  all_goals repeat rw [extractLsb'_append_last]
  all_goals exact getLsbD_append_bit1

@[simp] theorem majorOf_packI (o : FmtI) : majorOf (packI major o) = major := by
  unfold majorOf packI
  repeat rw [BitVec.extractLsb'_append_eq_of_le (by decide)]
  exact extractLsb'_append_last

@[simp] theorem unpackI_packI (o : FmtI) : unpackI (packI major o) = o := by
  obtain ⟨⟩ := o
  simp only [unpackI, gapOf, packI, FmtI.mk.injEq]
  and_intros
  all_goals repeat rw [BitVec.extractLsb'_append_eq_of_le (by decide)]
  all_goals repeat rw [getLsbD_append_high (by decide)]
  · exact BitVec.extractLsb'_eq_self
  all_goals repeat rw [extractLsb'_append_last]
  all_goals exact getLsbD_append_bit1

@[simp] theorem majorOf_packB (o : FmtB) : majorOf (packB major o) = major := by
  unfold majorOf packB
  repeat rw [BitVec.extractLsb'_append_eq_of_le (by decide)]
  exact extractLsb'_append_last

@[simp] theorem unpackB_packB (o : FmtB) : unpackB (packB major o) = o := by
  obtain ⟨⟩ := o
  simp only [unpackB, gapOf, packB, FmtB.mk.injEq]
  and_intros
  all_goals repeat rw [BitVec.extractLsb'_append_eq_of_le (by decide)]
  all_goals repeat rw [getLsbD_append_high (by decide)]
  · exact BitVec.extractLsb'_eq_self
  all_goals repeat rw [extractLsb'_append_last]
  all_goals exact getLsbD_append_bit1

@[simp] theorem majorOf_packLoop (o : FmtLoop) : majorOf (packLoop o) = 0x07#7 := by
  unfold majorOf packLoop
  repeat rw [BitVec.extractLsb'_append_eq_of_le (by decide)]
  exact extractLsb'_append_last

@[simp] theorem unpackLoop_packLoop (o : FmtLoop) : unpackLoop (packLoop o) = o := by
  obtain ⟨⟩ := o
  simp only [unpackLoop, gapOf, packLoop, FmtLoop.mk.injEq]
  and_intros
  all_goals repeat rw [BitVec.extractLsb'_append_eq_of_le (by decide)]
  all_goals repeat rw [getLsbD_append_high (by decide)]
  · exact BitVec.extractLsb'_eq_self
  all_goals repeat rw [extractLsb'_append_last]
  all_goals exact getLsbD_append_bit1

/-- Bits 39-24 of a LOOP word are unused and zero. -/
@[simp] theorem unused_packLoop (o : FmtLoop) : (packLoop o).extractLsb' 24 16 = 0#16 := by
  unfold packLoop
  repeat rw [BitVec.extractLsb'_append_eq_of_le (by decide)]
  exact extractLsb'_append_last

@[simp] theorem majorOf_packLoopI (o : FmtLoopI) : majorOf (packLoopI o) = 0x08#7 := by
  unfold majorOf packLoopI
  repeat rw [BitVec.extractLsb'_append_eq_of_le (by decide)]
  exact extractLsb'_append_last

@[simp] theorem unpackLoopI_packLoopI (o : FmtLoopI) : unpackLoopI (packLoopI o) = o := by
  obtain ⟨⟩ := o
  simp only [unpackLoopI, gapOf, packLoopI, FmtLoopI.mk.injEq]
  and_intros
  all_goals repeat rw [BitVec.extractLsb'_append_eq_of_le (by decide)]
  all_goals repeat rw [getLsbD_append_high (by decide)]
  · exact BitVec.extractLsb'_eq_self
  all_goals repeat rw [extractLsb'_append_last]
  all_goals exact getLsbD_append_bit1

@[simp] theorem majorOf_packL (o : FmtL) : majorOf (packL major o) = major := by
  unfold majorOf packL
  repeat rw [BitVec.extractLsb'_append_eq_of_le (by decide)]
  exact extractLsb'_append_last

@[simp] theorem unpackL_packL (o : FmtL) : unpackL (packL major o) = o := by
  obtain ⟨⟩ := o
  simp only [unpackL, gapOf, packL, FmtL.mk.injEq]
  and_intros
  all_goals repeat rw [BitVec.extractLsb'_append_eq_of_le (by decide)]
  all_goals repeat rw [getLsbD_append_high (by decide)]
  · exact BitVec.extractLsb'_eq_self
  all_goals repeat rw [extractLsb'_append_last]
  all_goals exact getLsbD_append_bit1

/-- Bit 40 of a format L word is unused and zero. -/
@[simp] theorem unused_packL (o : FmtL) : (packL major o).getLsbD 40 = false := by
  unfold packL
  rw [getLsbD_append_high (by decide)]
  exact getLsbD_append_bit1 (b := false)

section
variable (sz : BitVec 2) (zx : Bool)

@[simp] theorem majorOf_packM (o : FmtM) : majorOf (packM major sz zx o) = major := by
  unfold majorOf packM
  repeat rw [BitVec.extractLsb'_append_eq_of_le (by decide)]
  exact extractLsb'_append_last

@[simp] theorem sz_packM (o : FmtM) : (packM major sz zx o).extractLsb' 9 2 = sz := by
  unfold packM
  repeat rw [BitVec.extractLsb'_append_eq_of_le (by decide)]
  exact extractLsb'_append_last

@[simp] theorem zx_packM (o : FmtM) : (packM major sz zx o).getLsbD 8 = zx := by
  unfold packM
  repeat rw [getLsbD_append_high (by decide)]
  exact getLsbD_append_bit1

@[simp] theorem unpackM_packM (o : FmtM) : unpackM (packM major sz zx o) = o := by
  obtain ⟨⟩ := o
  simp only [unpackM, gapOf, packM, FmtM.mk.injEq]
  and_intros
  all_goals repeat rw [BitVec.extractLsb'_append_eq_of_le (by decide)]
  all_goals repeat rw [getLsbD_append_high (by decide)]
  · exact BitVec.extractLsb'_eq_self
  all_goals repeat rw [extractLsb'_append_last]
  all_goals exact getLsbD_append_bit1

end

@[simp] theorem majorOf_packC (o : FmtC) : majorOf (packC major minor o) = major := by
  unfold majorOf packC
  repeat rw [BitVec.extractLsb'_append_eq_of_le (by decide)]
  exact extractLsb'_append_last

@[simp] theorem minorOfC_packC (o : FmtC) : minorOfC (packC major minor o) = minor := by
  unfold minorOfC packC
  repeat rw [BitVec.extractLsb'_append_eq_of_le (by decide)]
  exact extractLsb'_append_last

@[simp] theorem unpackC_packC (o : FmtC) : unpackC (packC major minor o) = o := by
  obtain ⟨⟩ := o
  simp only [unpackC, gapOf, packC, FmtC.mk.injEq]
  and_intros
  all_goals repeat rw [BitVec.extractLsb'_append_eq_of_le (by decide)]
  all_goals repeat rw [getLsbD_append_high (by decide)]
  · exact BitVec.extractLsb'_eq_self
  all_goals repeat rw [extractLsb'_append_last]
  all_goals exact getLsbD_append_bit1

end

section
variable {w : Word} {major : BitVec 7} {minor : BitVec 5}

/-- Adjacent fields make up the word, format by format: no bit lies outside them. -/
theorem packA_unpackA (hmajor : majorOf w = major) (hminor : minorOfA w = minor) :
    packA major minor (unpackA w) = w := by
  subst hmajor hminor
  simp only [packA, unpackA, majorOf, minorOfA, gapOf, bit1_getLsbD,
    BitVec.extractLsb'_append_extractLsb'_eq_extractLsb']
  exact BitVec.extractLsb'_eq_self

theorem packI_unpackI (hmajor : majorOf w = major) : packI major (unpackI w) = w := by
  subst hmajor
  simp only [packI, unpackI, majorOf, gapOf, bit1_getLsbD, BitVec.extractLsb'_append_extractLsb'_eq_extractLsb']
  exact BitVec.extractLsb'_eq_self

theorem packB_unpackB (hmajor : majorOf w = major) : packB major (unpackB w) = w := by
  subst hmajor
  simp only [packB, unpackB, majorOf, gapOf, bit1_getLsbD, BitVec.extractLsb'_append_extractLsb'_eq_extractLsb']
  exact BitVec.extractLsb'_eq_self

theorem packLoop_unpackLoop (hmajor : majorOf w = 0x07#7) (hunused : w.extractLsb' 24 16 = 0#16) :
    packLoop (unpackLoop w) = w := by
  simp only [packLoop, unpackLoop, ← hmajor, ← hunused, majorOf, gapOf, bit1_getLsbD,
    BitVec.extractLsb'_append_extractLsb'_eq_extractLsb']
  exact BitVec.extractLsb'_eq_self

theorem packLoopI_unpackLoopI (hmajor : majorOf w = 0x08#7) : packLoopI (unpackLoopI w) = w := by
  simp only [packLoopI, unpackLoopI, ← hmajor, majorOf, gapOf,
    BitVec.extractLsb'_append_extractLsb'_eq_extractLsb']
  exact BitVec.extractLsb'_eq_self

theorem packL_unpackL (hmajor : majorOf w = major) (hunused : w.getLsbD 40 = false) : packL major (unpackL w) = w := by
  have hbit : 0#1 = w.extractLsb' 40 1 := by rw [← bit1_getLsbD, hunused]; rfl
  subst hmajor
  simp only [packL, unpackL, hbit, majorOf, gapOf, BitVec.extractLsb'_append_extractLsb'_eq_extractLsb']
  exact BitVec.extractLsb'_eq_self

theorem packM_unpackM {sz : BitVec 2} {zx : Bool} (hmajor : majorOf w = major) (hsz : w.extractLsb' 9 2 = sz)
    (hzx : w.getLsbD 8 = zx) : packM major sz zx (unpackM w) = w := by
  subst hmajor hsz hzx
  simp only [packM, unpackM, majorOf, gapOf, bit1_getLsbD, BitVec.extractLsb'_append_extractLsb'_eq_extractLsb']
  exact BitVec.extractLsb'_eq_self

theorem packC_unpackC (hmajor : majorOf w = major) (hminor : minorOfC w = minor) :
    packC major minor (unpackC w) = w := by
  subst hmajor hminor
  simp only [packC, unpackC, majorOf, minorOfC, gapOf, bit1_getLsbD,
    BitVec.extractLsb'_append_extractLsb'_eq_extractLsb']
  exact BitVec.extractLsb'_eq_self

end

end Sys2Proof
end

/-! ### Decoding and encoding a stream word (R86 to R90, R97) -/

section
namespace Sys2Proof
open WellFormed

/-- The row that a stream word decodes to: CTXS_OUT and CTXL_RESUME have the words of CTXS_SNAP and CTXL_INTO. -/
def decodedRow : Instr → Instr
  | .ctxsOut o => .ctxsSnap o
  | .ctxlResume o => .ctxlInto o
  | i => i

/-- A check that stands first holds where no check fails. -/
theorem of_firstCheck {p : Prop} [Decidable p] {r : Reject} {rest : Option Reject}
    (h : ((if p then none else some r) <|> rest) = none) : p := by
  refine Decidable.byContradiction fun hp => ?_
  simp [hp] at h

/-- MAJOR 0x79 decodes by the CSR that the word names (R406). -/
theorem rawWord_packI_csrw (o : FmtI) : rawWord (packI 0x79 o) = .ok (csrwOf o) := by
  rw [rawWord, majorOf_packI, unpackI_packI]
  rfl

/-- MAJOR 0x71 decodes by its minor and CIMM (Table 13.4). -/
theorem rawWord_packC_control (minor : BitVec 5) (o : FmtC) :
    rawWord (packC 0x71 minor o) = controlOf o minor.toNat := by
  rw [rawWord, majorOf_packC, minorOfC_packC, unpackC_packC]
  rfl

/-- The opcode map gives back the row that a word was encoded from. -/
theorem rawWord_of_encodeWord {i : Instr} {w : Word} (h : encodeWord i = some w) (hwf : i.illFormed = none) :
    rawWord w = .ok (decodedRow i) := by
  cases i
  all_goals cases h
  case brk gap data =>
    have hm : majorOf (gap ++ 0x7F#7 ++ data) = 0x7F#7 := by
      unfold majorOf
      rw [BitVec.extractLsb'_append_eq_of_le (by decide)]
      exact extractLsb'_append_last
    have hg : (gap ++ 0x7F#7 ++ data).extractLsb' 54 10 = gap := by
      repeat rw [BitVec.extractLsb'_append_eq_of_le (by decide)]
      exact BitVec.extractLsb'_eq_self
    have hd : (gap ++ 0x7F#7 ++ data).extractLsb' 0 47 = data := extractLsb'_append_last
    rw [rawWord, hm, hg, hd]
    rfl
  case loop o =>
    rw [rawWord, majorOf_packLoop, unpackLoop_packLoop, unused_packLoop]
    rfl
  case loopi o =>
    rw [rawWord, majorOf_packLoopI, unpackLoopI_packLoopI]
    rfl
  case li | lih =>
    rw [rawWord, majorOf_packL, unpackL_packL, unused_packL]
    rfl
  case vld | vst =>
    rw [rawWord, majorOf_packM, unpackM_packM, sz_packM, zx_packM]
    rfl
  case csrw | csrwTdef | csrwFflags | csrwFrm | csrwSrctr | csrwStrict | csrwMflags | csrwMsh | csrwFevbase | csrwTrqbase |
      csrwShockst | csrwTrqhead | csrwFevhead =>
    rw [rawWord_packI_csrw, csrwOf, of_firstCheck hwf]
    rfl
  case leaseGrant | leaseRecall | leaseRelease | slotswLoad | slotswSwitch =>
    rw [rawWord_packC_control]
    simp [controlOf, of_firstCheck hwf, decodedRow]
  all_goals
    first
    | rw [rawWord, majorOf_packA, minorOfA_packA, unpackA_packA]
    | rw [rawWord, majorOf_packC, minorOfC_packC, unpackC_packC]
    | rw [rawWord, majorOf_packM, sz_packM, zx_packM, unpackM_packM]
    | rw [rawWord, majorOf_packI, unpackI_packI]
    | rw [rawWord, majorOf_packB, unpackB_packB]
    rfl

theorem decodedRow_of_ne {i : Instr} (hout : ∀ o, i ≠ .ctxsOut o) (hresume : ∀ o, i ≠ .ctxlResume o) :
    decodedRow i = i := by
  unfold decodedRow
  split
  next o => exact absurd rfl (hout o)
  next o => exact absurd rfl (hresume o)
  next => rfl

/-- A row that a well-formed word decodes to is well-formed itself. -/
theorem illFormed_decodedRow (i : Instr) : (decodedRow i).illFormed = i.illFormed := by
  unfold decodedRow
  split <;> rfl

/-- Settles O5: the opcode map gives the row back, and the checks of R97 pass on it as they do on the instruction. -/
theorem encodedWordsDecode : Obligations.EncodedWordsDecode := by
  intro i w h hwf
  rw [Instr.wellFormed, Option.isNone_iff_eq_none] at hwf
  have hdecode : decodeWord w = .ok (decodedRow i) := by
    simp [decodeWord, rawWord_of_encodeWord h hwf, illFormed_decodedRow, hwf]
  refine ⟨fun hout hresume => ?_, ?_, ?_⟩
  · rwa [decodedRow_of_ne hout hresume] at hdecode
  · rintro o rfl
    exact hdecode
  · rintro o rfl
    exact hdecode

theorem sizeCode_cases : ∀ sz : BitVec 2, sz = 0 ∨ sz = 1 ∨ sz = 2 ∨ sz = 3 := by decide

/-- The load that SZ and ZX name has their word. -/
theorem encodeWord_of_loadOf {sz : BitVec 2} {zx : Bool} {o : FmtM} {i : Instr} (h : loadOf sz zx o = .ok i) :
    encodeWord i = some (packM 0x28 sz zx o) := by
  obtain rfl | rfl | rfl | rfl := sizeCode_cases sz <;> cases zx <;> cases h <;> rfl

/-- The store that SZ names has its word. -/
theorem encodeWord_storeOf (sz : BitVec 2) (o : FmtM) : encodeWord (storeOf sz o) = some (packM 0x29 sz false o) := by
  obtain rfl | rfl | rfl | rfl := sizeCode_cases sz <;> rfl

/-- A word whose row the opcode map finds is the encoding of that row: its fields, with the major and minor of the row, make up
the word. -/
theorem encodeWord_of_rawWord {i : Instr} {w : Word} (h : rawWord w = .ok i) : encodeWord i = some w := by
  have hmajor : majorOf w = BitVec.ofNat 7 (majorOf w).toNat := by simp
  have hminorA : minorOfA w = BitVec.ofNat 5 (minorOfA w).toNat := by simp
  have hminorC : minorOfC w = BitVec.ofNat 5 (minorOfC w).toNat := by simp
  unfold rawWord at h
  generalize (majorOf w).toNat = m at h hmajor
  generalize (minorOfA w).toNat = n at h hminorA
  generalize (minorOfC w).toNat = c at h hminorC
  split at h
  case h_1 | h_2 | h_3 | h_4 | h_5 | h_6 | h_7 | h_8 | h_9 | h_10 | h_11 | h_12 | h_13 | h_14 | h_15 | h_16 | h_17 | h_18 |
      h_19 | h_20 | h_21 | h_22 | h_23 | h_24 | h_25 | h_26 | h_27 =>
    simp only [minorA01, minorA0A, minorA10, minorA11, minorA13, minorA2B, minorA32, minorA33, minorA34, minorA36, minorA38,
      minorA39, minorA3D, minorA3E, minorA3F, minorA40, minorA50, minorA52, minorA58, minorA59, minorA5D, minorA6A, minorA6B,
      minorA77, minorA7A, minorA7B, minorA7C] at h
    split at h
    all_goals cases h
    all_goals exact congrArg some (packA_unpackA hmajor hminorA)
  case h_28 | h_29 | h_30 | h_31 | h_32 | h_33 =>
    cases h
    exact congrArg some (packA_unpackA hmajor rfl)
  case h_34 | h_35 | h_36 | h_37 | h_38 | h_39 =>
    cases h
    exact congrArg some (packI_unpackI hmajor)
  case h_40 =>
    cases h
    unfold csrwOf
    split
    all_goals exact congrArg some (packI_unpackI hmajor)
  case h_41 | h_42 | h_43 | h_44 | h_45 | h_46 =>
    cases h
    exact congrArg some (packB_unpackB hmajor)
  case h_47 =>
    split at h
    case isTrue hunused =>
      cases h
      exact congrArg some (packLoop_unpackLoop hmajor hunused)
    case isFalse => cases h
  case h_48 =>
    cases h
    exact congrArg some (packLoopI_unpackLoopI hmajor)
  case h_49 | h_50 =>
    split at h
    case isTrue => cases h
    case isFalse hunused =>
      cases h
      exact congrArg some (packL_unpackL hmajor (Bool.eq_false_iff.2 hunused))
  case h_51 =>
    rw [encodeWord_of_loadOf h]
    exact congrArg some (packM_unpackM hmajor rfl rfl)
  case h_52 =>
    split at h
    case isTrue => cases h
    case isFalse hzx =>
      cases h
      rw [encodeWord_storeOf]
      exact congrArg some (packM_unpackM hmajor rfl (Bool.eq_false_iff.2 hzx))
  case h_53 =>
    split at h
    case isTrue hbits =>
      cases h
      simp only [Bool.and_eq_true, decide_eq_true_eq, Bool.not_eq_true'] at hbits
      obtain ⟨hsz, hzx⟩ := hbits
      exact congrArg some (packM_unpackM hmajor hsz hzx)
    case isFalse => cases h
  case h_54 | h_55 =>
    split at h
    case isTrue => cases h
    case isFalse hzx =>
      cases h
      exact congrArg some (packM_unpackM hmajor rfl (Bool.eq_false_iff.2 hzx))
  case h_56 | h_57 | h_58 | h_59 | h_60 =>
    simp only [minorC5C, minorC5E, minorC64, minorC68, minorC70] at h
    split at h
    all_goals cases h
    all_goals exact congrArg some (packC_unpackC hmajor hminorC)
  case h_61 =>
    unfold controlOf at h
    split at h
    all_goals cases h
    all_goals exact congrArg some (packC_unpackC hmajor hminorC)
  case h_62 =>
    cases h
    refine congrArg some ?_
    rw [← hmajor]
    simp only [majorOf, BitVec.extractLsb'_append_extractLsb'_eq_extractLsb']
    exact BitVec.extractLsb'_eq_self
  case h_63 => cases h

/-- Settles O6: the opcode map drops no bit of the word, and decoding makes the checks of R97. -/
theorem decodedWordsEncode : Obligations.DecodedWordsEncode := by
  intro i w h
  unfold decodeWord at h
  split at h
  case h_1 => cases h
  case h_2 i' hraw =>
    split at h
    case h_1 hwf =>
      cases h
      exact ⟨encodeWord_of_rawWord hraw, Option.isNone_iff_eq_none.2 hwf⟩
    case h_2 => cases h

end Sys2Proof
end

/-! ### Mill words (R294, R295) -/

section
namespace Sys2Proof

theorem append_eq_iff {m n : Nat} {x : BitVec m} {y : BitVec n} {w : BitVec (m + n)} :
    x ++ y = w ↔ x = w.extractLsb' n m ∧ y = w.extractLsb' 0 n := by
  constructor
  · rintro rfl
    exact ⟨BitVec.extractLsb'_append_eq_left.symm, BitVec.extractLsb'_append_eq_right.symm⟩
  · rintro ⟨rfl, rfl⟩
    exact BitVec.extractLsb'_append_extractLsb'

theorem append_and_eq_iff {m n : Nat} {x : BitVec m} {y : BitVec n} {mask c : BitVec (m + n)} :
    (x ++ y) &&& mask = c ↔
      x &&& mask.extractLsb' n m = c.extractLsb' n m ∧ y &&& mask.extractLsb' 0 n = c.extractLsb' 0 n := by
  rw [← append_eq_iff, ← BitVec.and_append, BitVec.extractLsb'_append_extractLsb']

section
variable {n : Nat} {w mask c : BitVec n} {k l : Nat}

/-- A field that a mask covers has the bits that the masked word must show. -/
theorem extractLsb'_of_masked (h : w &&& mask = c) (hmask : mask.extractLsb' k l = BitVec.allOnes l) :
    w.extractLsb' k l = c.extractLsb' k l := by
  rw [← h, BitVec.extractLsb'_and, hmask, BitVec.and_allOnes]

/-- A word with another value in a field that the mask covers does not match. -/
theorem not_masked_of_field {v : BitVec l} (hw : v = w.extractLsb' k l) (hmask : mask.extractLsb' k l = BitVec.allOnes l)
    (hne : c.extractLsb' k l ≠ v) : ¬ w &&& mask = c :=
  fun h => hne ((extractLsb'_of_masked h hmask).symm.trans hw.symm)

end


/-- A field of a field is a field of the word. -/
theorem extractLsb'_extractLsb' {n : Nat} {w : BitVec n} {k l k' l' : Nat} (h : k' + l' ≤ l) :
    (w.extractLsb' k l).extractLsb' k' l' = w.extractLsb' (k + k') l' := by
  ext i hi
  have hl : k' + i < l := by omega
  simp [hl, Nat.add_assoc]

/-- One row of the decoder: either the word matches it, or it is left to the rows behind. -/
theorem encodeMill_of_row {w mask c : BitVec 32} {a i : Instr} {rest : Except Reject Instr}
    (hrow : w &&& mask = c → encodeMill a = some w) (hrest : rest = .ok i → encodeMill i = some w) :
    (if w &&& mask = c then .ok a else rest) = .ok i → encodeMill i = some w := by
  split
  case isTrue hmatch =>
    rintro ⟨⟩
    exact hrow hmatch
  case isFalse => exact hrest

theorem encodeMill_of_noRow {w : BitVec 32} {i : Instr} {r : Reject} :
    (Except.error r : Except Reject Instr) = .ok i → encodeMill i = some w := nofun

/-- A word that decodes is made of the constant fields of its row, which the row's mask covers, and its own bits in the others. -/
theorem encodeMill_of_decodeMill {i : Instr} {w : BitVec 32} : decodeMill w = .ok i → encodeMill i = some w := by
  unfold decodeMill
  iterate 55 (refine encodeMill_of_row (fun hmatch => ?_) ?_; rotate_left)
  · refine encodeMill_of_row (fun hmatch => ?_) nofun
    refine congrArg some ?_
    exact hmatch.symm.trans BitVec.and_allOnes
  all_goals
    refine congrArg some ?_
    repeat rw [append_eq_iff]
    simp (disch := simp) only [extractLsb'_extractLsb', extractLsb'_of_masked hmatch, Nat.reduceAdd, and_true]
    decide


/-- One row of the decoder passed over: another opcode. -/
theorem decodeMill_skip {w mask c : BitVec 32} {v : BitVec 6} {a : Instr} {r rest : Except Reject Instr}
    (hop : v = w.extractLsb' 26 6) (hmask : mask.extractLsb' 26 6 = BitVec.allOnes 6) (hne : c.extractLsb' 26 6 ≠ v)
    (hrest : rest = r) : (if w &&& mask = c then .ok a else rest) = r := by
  rw [if_neg (not_masked_of_field hop hmask hne), hrest]

theorem decodeMill_other {w mask c : BitVec 32} {a : Instr} {r rest : Except Reject Instr}
    (hne : ¬ w &&& mask = c) (hrest : rest = r) : (if w &&& mask = c then .ok a else rest) = r := by
  rw [if_neg hne, hrest]

theorem decodeMill_here {w mask c : BitVec 32} {a i : Instr} {rest : Except Reject Instr}
    (hmatch : w &&& mask = c) (ha : a = i) : (if w &&& mask = c then .ok a else rest) = .ok i := by
  rw [if_pos hmatch, ha]

/-- A word that a row encodes to matches no earlier row of the decoder. -/
theorem decodeMill_of_encodeMill {i : Instr} {w : BitVec 32} (h : encodeMill i = some w) : decodeMill w = .ok i := by
  cases i
  all_goals injection h
  all_goals rename_i hw
  case nend => subst hw; rfl
  all_goals
    have hop := congrArg (BitVec.extractLsb' 26 6) hw
    repeat rw [BitVec.extractLsb'_append_eq_of_le (by omega)] at hop
    unfold decodeMill
    repeat refine decodeMill_skip hop (by decide) (by decide) ?_
    subst hw
    repeat
      refine decodeMill_other ?_ ?_
      · repeat rw [append_and_eq_iff]
        simp
        done
    refine decodeMill_here ?_ ?_
    · repeat rw [append_and_eq_iff]
      simp
    · congr 1
      all_goals
        repeat rw [BitVec.extractLsb'_append_eq_of_le (by decide)]
        exact extractLsb'_append_last

/-- Settles O7: the rows of the decoder and of the encoder stand for each other, and no word matches two rows. -/
theorem millWordsDecode : Obligations.MillWordsDecode :=
  fun _ _ => ⟨encodeMill_of_decodeMill, decodeMill_of_encodeMill⟩

end Sys2Proof
end

/-! ### Command records (R36, Table 02.2) -/

section
namespace Sys2Proof

theorem bit1_inj {a b : Bool} : bit1 a = bit1 b ↔ a = b := by
  revert a b
  decide

/-- The fields of a command and its OPC make up a record where the record's reserved bits are zero and it holds those fields. -/
theorem packCmd_eq_iff {opc : BitVec 8} {c : Cmd} {r : BitVec 512} :
    packCmd opc c = r ↔ r.extractLsb' 56 8 = opc ∧ unpackCmd r = .ok c := by
  obtain ⟨tag, lvl, am, pg, ids, addr0, cnt, astep, addr1, addr2⟩ := c
  unfold packCmd unpackCmd
  repeat rw [append_eq_iff]
  simp (disch := simp) only [extractLsb'_extractLsb', Nat.reduceAdd, ← bit1_getLsbD, bit1_inj]
  split
  case isTrue hzero =>
    simp only [Bool.and_eq_true, decide_eq_true_eq] at hzero
    simp only [Except.ok.injEq, Cmd.mk.injEq]
    grind
  case isFalse hzero =>
    simp only [Bool.and_eq_true, decide_eq_true_eq] at hzero
    simp only [reduceCtorEq, and_false, iff_false]
    grind

/-- The command that an OPC stands for. -/
def commandOf (opc : BitVec 8) (c : Cmd) : Option Instr :=
  match opc.toNat with
  | 1 => some (.jobopen c)
  | 2 => some (.jobend c)
  | 3 => some (.phaseopen c)
  | 4 => some (.phaseclose c)
  | 5 => some (.launch c)
  | 6 => some (.replay c)
  | 7 => some (.gpatch c)
  | 8 => some (.cancelCommand c)
  | _ => none

/-- The decoder by the row of the OPC: after the reserved bits come the opcode and the checks of R37. -/
theorem decodeCommand_eq (r : BitVec 512) : decodeCommand r =
    (unpackCmd r).bind fun c => (commandOf (r.extractLsb' 56 8) c).elim (.error .badOpcode) fun i =>
      i.illFormed.elim (.ok i) .error := by
  unfold decodeCommand
  cases unpackCmd r
  case error => rfl
  case ok c =>
    change (match commandOf (r.extractLsb' 56 8) c with
      | none => Except.error Reject.badOpcode
      | some i => match i.illFormed with | none => Except.ok i | some e => Except.error e) = _
    simp only [Except.bind]
    cases commandOf (r.extractLsb' 56 8) c
    case none => rfl
    case some i =>
      simp only [Option.elim]
      cases i.illFormed <;> rfl

/-- A record decodes where its reserved bits are zero, its OPC stands for a command, and the command is well-formed. -/
theorem decodeCommand_eq_ok_iff {i : Instr} {r : BitVec 512} : decodeCommand r = .ok i ↔
    (∃ c, unpackCmd r = .ok c ∧ commandOf (r.extractLsb' 56 8) c = some i) ∧ i.wellFormed = true := by
  rw [decodeCommand_eq, Instr.wellFormed]
  cases unpackCmd r
  case error => simp [Except.bind]
  case ok c =>
    cases hrow : commandOf (r.extractLsb' 56 8) c
    case none => simp [Except.bind, hrow]
    case some j =>
      cases hcheck : j.illFormed
      case none =>
        simp only [Except.bind, hrow, hcheck, Option.elim, Except.ok.injEq, Option.some.injEq, exists_eq_left']
        exact ⟨fun h => ⟨h, h ▸ by simp [hcheck]⟩, And.left⟩
      case some =>
        simp only [Except.bind, hrow, hcheck, Option.elim, reduceCtorEq, Except.ok.injEq, Option.some.injEq, exists_eq_left',
          false_iff]
        rintro ⟨rfl, hwf⟩
        simp [hcheck] at hwf

/-- The record of a command is the one of its OPC and its fields. -/
theorem encodeCommand_eq_some_iff {i : Instr} {r : BitVec 512} :
    encodeCommand i = some r ↔ ∃ opc c, commandOf opc c = some i ∧ packCmd opc c = r := by
  constructor
  · intro h
    cases i
    all_goals cases h
    all_goals exact ⟨_, _, rfl, rfl⟩
  · rintro ⟨opc, c, hrow, rfl⟩
    have hopc : opc = BitVec.ofNat 8 opc.toNat := by simp
    unfold commandOf at hrow
    generalize opc.toNat = n at hrow hopc
    split at hrow
    all_goals cases hrow
    all_goals rw [hopc]; rfl

/-- Settles O8: both directions say that the OPC's row holds the command and that the record is packed from it. -/
theorem commandRecordsDecode : Obligations.CommandRecordsDecode := by
  intro i r
  simp only [decodeCommand_eq_ok_iff, encodeCommand_eq_some_iff, packCmd_eq_iff]
  refine and_congr_left fun _ => ⟨?_, ?_⟩
  · rintro ⟨c, hunpack, hrow⟩
    exact ⟨_, c, hrow, rfl, hunpack⟩
  · rintro ⟨opc, c, hrow, rfl, hunpack⟩
    exact ⟨c, hunpack, hrow⟩

end Sys2Proof
end

/-! ### Scalar arithmetic, logic and compare words (R136 to R139, R142, R143) -/

section
namespace Sys2Proof.Machine
open Sys2Proof.Claims

section
variable {i : Instr} {o : FmtA} {bound : Nat} {f : Word → Word → Word → Word} {s : State} {k : Nat} {c : Crew} {v : Word}

/-- A scalar form of two sources gives its result, poisoned where either source is (R136). -/
theorem givesX_two (hi : exec i s = scalarWord o 2 bound f s) (h : WordRuns s k .s c .s false (guardA o) (readsA o 2))
    (hv : f (readX s c 0 o.ra) (readX s c 1 o.rb) (readX s c 2 o.rc) = v) :
    givesX i s k .s c (freesA o) o.rd v (tagX s c 0 o.ra || tagX s c 1 o.rb) bound := by
  rw [← hv, ← anyTag_numberedA_two]
  exact givesX_of_scalarWord hi h

/-- A scalar form of one source gives its result, poisoned where the source is (R136). -/
theorem givesX_one (hi : exec i s = scalarWord o 1 bound f s) (h : WordRuns s k .s c .s false (guardA o) (readsA o 1))
    (hv : f (readX s c 0 o.ra) (readX s c 1 o.rb) (readX s c 2 o.rc) = v) :
    givesX i s k .s c (freesA o) o.rd v (tagX s c 0 o.ra) bound := by
  have htag : anyTag s c (numberedA o 1) = tagX s c 0 o.ra := by simp [anyTag, numberedA]
  rw [← hv, ← htag]
  exact givesX_of_scalarWord hi h

end

/-! #### The results of Table 05.6 -/

section
variable (a b : Word)

theorem shiftLeft_shiftCount : a <<< shiftCount b = BitVec.ofNat 64 (a.toNat * 2 ^ (b.toNat % 64)) := by
  apply BitVec.eq_of_toNat_eq
  simp [shiftCount, Nat.shiftLeft_eq]

theorem ushiftRight_shiftCount : a >>> shiftCount b = BitVec.ofNat 64 (a.toNat / 2 ^ (b.toNat % 64)) := by
  apply BitVec.eq_of_toNat_eq
  have hlt : a.toNat / 2 ^ (b.toNat % 64) < 2 ^ 64 := Nat.lt_of_le_of_lt (Nat.div_le_self ..) a.isLt
  rw [BitVec.toNat_ushiftRight, BitVec.toNat_ofNat, Nat.mod_eq_of_lt hlt, Nat.shiftRight_eq_div_pow, shiftCount]

theorem sshiftRight_shiftCount : a.sshiftRight (shiftCount b) = BitVec.ofInt 64 (a.toInt / 2 ^ (b.toNat % 64)) := by
  have hpow : (2 : Int) ^ (b.toNat % 64) = ((2 ^ (b.toNat % 64) : Nat) : Int) := by push_cast; rfl
  rw [hpow, ← Int.shiftRight_eq_div_pow, ← BitVec.toInt_sshiftRight, BitVec.ofInt_toInt, shiftCount]

theorem smin_eq : (if a.slt b then a else b) = if a.toInt ≤ b.toInt then a else b := by
  by_cases heq : a = b
  · simp [heq]
  · have hne : a.toInt ≠ b.toInt := fun h => heq (BitVec.eq_of_toInt_eq h)
    simp only [BitVec.slt, decide_eq_true_eq]
    exact ite_of_iff (by omega) rfl rfl

theorem smax_eq : (if a.slt b then b else a) = if b.toInt ≤ a.toInt then a else b := by
  simp only [BitVec.slt, decide_eq_true_eq]
  rw [← ite_not]
  exact ite_of_iff (by omega) rfl rfl

theorem umin_eq : (if a.ult b then a else b) = if a.toNat ≤ b.toNat then a else b := by
  by_cases heq : a = b
  · simp [heq]
  · have hne : a.toNat ≠ b.toNat := fun h => heq (BitVec.eq_of_toNat_eq h)
    simp only [BitVec.ult, decide_eq_true_eq]
    exact ite_of_iff (by omega) rfl rfl

theorem umax_eq : (if a.ult b then b else a) = if b.toNat ≤ a.toNat then a else b := by
  simp only [BitVec.ult, decide_eq_true_eq]
  rw [← ite_not]
  exact ite_of_iff (by omega) rfl rfl

end

/-- Leading zeros are the bits before the first one from the top. -/
theorem leadingZeros_eq_find (n v : Nat) :
    leadingZeros n v = ((List.range n).find? fun j => v.testBit (n - 1 - j)).getD n := by
  induction n with
  | zero => rfl
  | succ n ih =>
    have htail : (fun j => v.testBit (n - (j + 1))) = fun j => v.testBit (n - 1 - j) := by
      simp only [Nat.sub_sub, Nat.add_comm]
    rw [leadingZeros, List.range_succ_eq_map, List.find?_cons, ih]
    cases hbit : v.testBit n
    case true => simp [hbit]
    case false =>
      simp only [Nat.add_sub_cancel, Nat.sub_zero, hbit, List.find?_map, Function.comp_def, Nat.succ_eq_add_one]
      rw [htail]
      cases (List.range n).find? fun j => v.testBit (n - 1 - j) <;> simp [Nat.add_comm]

/-- Trailing zeros are the bits before the first one from the bottom. -/
theorem trailingZeros_eq_find (n v : Nat) : trailingZeros n v = ((List.range n).find? fun j => v.testBit j).getD n := by
  induction n generalizing v with
  | zero => rfl
  | succ n ih =>
    rw [trailingZeros, List.range_succ_eq_map, List.find?_cons, ih, Nat.testBit_zero]
    by_cases hbit : v % 2 = 1
    · simp [hbit]
    · simp only [hbit, if_false, decide_false, List.find?_map, Function.comp_def, Nat.succ_eq_add_one, Nat.testBit_succ]
      cases (List.range n).find? fun j => (v / 2).testBit j <;> simp [Nat.add_comm]

/-- The ones counted are the places that hold one. -/
theorem onesCount_eq_length (n v : Nat) : onesCount n v = ((List.range n).filter fun j => v.testBit j).length := by
  induction n generalizing v with
  | zero => rfl
  | succ n ih =>
    rw [onesCount, List.range_succ_eq_map, List.filter_cons, ih, Nat.testBit_zero]
    have htail : ((List.map Nat.succ (List.range n)).filter fun j => v.testBit j).length =
        ((List.range n).filter fun j => (v / 2).testBit j).length := by
      simp [List.filter_map, Function.comp_def, Nat.testBit_succ]
    by_cases hbit : v % 2 = 1
    · simp only [hbit, decide_true, if_true, List.length_cons, htail, Nat.add_comm]
    · have hzero : v % 2 = 0 := by omega
      simp [hzero, htail]

theorem toNat_append_eq {m n : Nat} (x : BitVec m) (y : BitVec n) : (x ++ y).toNat = x.toNat * 2 ^ n + y.toNat := by
  rw [BitVec.toNat_append, ← Nat.shiftLeft_add_eq_or_of_lt y.isLt, Nat.shiftLeft_eq]

/-- A doubleword of eight bytes holds the last one highest (R6). -/
theorem bytesWord_eq_append (b0 b1 b2 b3 b4 b5 b6 b7 : Byte) :
    bytesWord [b0, b1, b2, b3, b4, b5, b6, b7] = b7 ++ b6 ++ b5 ++ b4 ++ b3 ++ b2 ++ b1 ++ b0 := by
  apply BitVec.eq_of_toNat_eq
  simp only [toNat_append_eq, bytesWord, bytesValue, BitVec.toNat_ofNat]
  omega

theorem wordBytes_eq_extract (a : Word) : wordBytes a =
    [a.extractLsb' 0 8, a.extractLsb' 8 8, a.extractLsb' 16 8, a.extractLsb' 24 8, a.extractLsb' 32 8, a.extractLsb' 40 8,
      a.extractLsb' 48 8, a.extractLsb' 56 8] := by
  simp [wordBytes, valueBytes, BitVec.extractLsb', Nat.shiftRight_eq_div_pow, Nat.div_div_eq_div_mul]

/-! #### The results of Table 05.7 -/

section
variable (a b : Word)

theorem mul_eq_ofInt : a * b = BitVec.ofInt 64 (a.toInt * b.toInt) := by
  rw [BitVec.ofInt_mul, BitVec.ofInt_toInt, BitVec.ofInt_toInt]

theorem remSigned_eq : remSigned a b = if b = 0 then a else a - BitVec.ofInt 64 (a.toInt.tdiv b.toInt) * b := by
  have hdiv : a.toInt.tmod b.toInt = a.toInt - a.toInt.tdiv b.toInt * b.toInt := by
    rw [Int.tmod_def, Int.mul_comm]
  rw [remSigned, hdiv, Int.sub_eq_add_neg, BitVec.ofInt_add, BitVec.ofInt_neg, BitVec.ofInt_mul, BitVec.ofInt_toInt, BitVec.ofInt_toInt,
    BitVec.sub_eq_add_neg]

end

/-! #### The words that these meanings belong to -/

section
variable (o : FmtA) (l : FmtL) (n : FmtI) (m : BitVec 5) (s : State)

theorem exec_add : exec (.add o) s = execAdd o s := rfl
theorem exec_sub : exec (.sub o) s = execSub o s := rfl
theorem exec_and : exec (.and o) s = execAnd o s := rfl
theorem exec_or : exec (.or o) s = execOr o s := rfl
theorem exec_xor : exec (.xor o) s = execXor o s := rfl
theorem exec_andn : exec (.andn o) s = execAndn o s := rfl
theorem exec_shl : exec (.shl o) s = execShl o s := rfl
theorem exec_shr : exec (.shr o) s = execShr o s := rfl
theorem exec_sra : exec (.sra o) s = execSra o s := rfl
theorem exec_rot : exec (.rot o) s = execRot o s := rfl
theorem exec_min : exec (.min o) s = execMin o s := rfl
theorem exec_max : exec (.max o) s = execMax o s := rfl
theorem exec_minz : exec (.minz o) s = execMinz o s := rfl
theorem exec_maxz : exec (.maxz o) s = execMaxz o s := rfl
theorem exec_sel : exec (.sel o) s = execSel o s := rfl
theorem exec_clz : exec (.clz o) s = execClz o s := rfl
theorem exec_ctz : exec (.ctz o) s = execCtz o s := rfl
theorem exec_popc : exec (.popc o) s = execPopc o s := rfl
theorem exec_bswap : exec (.bswap o) s = execBswap o s := rfl
theorem exec_mul : exec (.mul o) s = execMul o s := rfl
theorem exec_mulh : exec (.mulh o) s = execMulh o s := rfl
theorem exec_mulhz : exec (.mulhz o) s = execMulhz o s := rfl
theorem exec_div : exec (.div o) s = execDiv o s := rfl
theorem exec_divz : exec (.divz o) s = execDivz o s := rfl
theorem exec_rem : exec (.rem o) s = execRem o s := rfl
theorem exec_remz : exec (.remz o) s = execRemz o s := rfl
theorem exec_addi : exec (.addi n) s = execAddi n s := rfl
theorem exec_andi : exec (.andi n) s = execAndi n s := rfl
theorem exec_ori : exec (.ori n) s = execOri n s := rfl
theorem exec_li : exec (.li l) s = execLi l s := rfl
theorem exec_lih : exec (.lih l) s = execLih l s := rfl
theorem exec_cmp : exec (.cmp m o) s = execCmp m o s := rfl

end

/-- The forms of two sources give the results of Table 05.6. -/
theorem givesX_twoSourceForms {o : FmtA} {s : State} {k : Nat} {c : Crew}
    (h : WordRuns s k .s c .s false (guardA o) (readsA o 2)) :
    ∀ q ∈ twoSourceForms o (readX s c 0 o.ra) (readX s c 1 o.rb),
      givesX q.1 s k .s c (freesA o) o.rd q.2 (tagX s c 0 o.ra || tagX s c 1 o.rb) 1 := by
  simp only [twoSourceForms, List.forall_mem_cons, List.not_mem_nil, false_imp_iff, implies_true, and_true]
  exact ⟨givesX_two (exec_add ..) h rfl, givesX_two (exec_sub ..) h rfl, givesX_two (exec_and ..) h rfl, givesX_two (exec_or ..) h rfl, givesX_two (exec_xor ..) h rfl, givesX_two (exec_andn ..) h rfl, givesX_two (exec_shl ..) h (shiftLeft_shiftCount ..), givesX_two (exec_shr ..) h (ushiftRight_shiftCount ..), givesX_two (exec_sra ..) h (sshiftRight_shiftCount ..), givesX_two (exec_rot ..) h rfl, givesX_two (exec_min ..) h (smin_eq ..), givesX_two (exec_max ..) h (smax_eq ..), givesX_two (exec_minz ..) h (umin_eq ..), givesX_two (exec_maxz ..) h (umax_eq ..)⟩

/-- The forms of one source give the results of Table 05.6. -/
theorem givesX_oneSourceForms {o : FmtA} {s : State} {k : Nat} {c : Crew}
    (h : WordRuns s k .s c .s false (guardA o) (readsA o 1)) :
    ∀ q ∈ oneSourceForms o (readX s c 0 o.ra),
      givesX q.1 s k .s c (freesA o) o.rd q.2 (tagX s c 0 o.ra) 1 := by
  simp only [oneSourceForms, List.forall_mem_cons, List.not_mem_nil, false_imp_iff, implies_true, and_true]
  refine ⟨givesX_one (exec_clz ..) h ?clz, givesX_one (exec_ctz ..) h ?ctz, givesX_one (exec_popc ..) h ?popc, givesX_one (exec_bswap ..) h ?bswap⟩
  case clz => rw [leadingZeros_eq_find]; rfl
  case ctz => rw [trailingZeros_eq_find]; rfl
  case popc => rw [onesCount_eq_length]; rfl
  case bswap =>
    rw [wordBytes_eq_extract]
    exact bytesWord_eq_append ..

/-- The forms of MAJOR 0x11 give the results of Table 05.7 with the bounds of Table 05.3. -/
theorem givesX_productForms {o : FmtA} {s : State} {k : Nat} {c : Crew}
    (h : WordRuns s k .s c .s false (guardA o) (readsA o 2)) :
    ∀ q ∈ productForms o (readX s c 0 o.ra) (readX s c 1 o.rb),
      givesX q.1 s k .s c (freesA o) o.rd q.2.1 (tagX s c 0 o.ra || tagX s c 1 o.rb) q.2.2 := by
  simp only [productForms, List.forall_mem_cons, List.not_mem_nil, false_imp_iff, implies_true, and_true]
  exact ⟨givesX_two (exec_mul ..) h (mul_eq_ofInt ..), givesX_two (exec_mulh ..) h rfl, givesX_two (exec_mulhz ..) h rfl, givesX_two (exec_div ..) h rfl,
    givesX_two (exec_divz ..) h rfl, givesX_two (exec_rem ..) h (remSigned_eq ..), givesX_two (exec_remz ..) h rfl⟩

theorem scalarTableResults : ScalarTableResults := by
  refine fun o s k c => ⟨givesX_twoSourceForms, givesX_oneSourceForms, fun h => ?_⟩
  rw [givesX, exec_sel, execSel, runWord_runs h, finish_done]
  rfl

/-- An immediate form gives its result, poisoned where its source is (R142). -/
theorem givesX_immediate {i : Instr} {o : FmtI} {f : Word → Word} {s : State} {k : Nat} {c : Crew} {v : Word}
    (hi : exec i s = immediateWord o f s) (h : WordRuns s k .s c .s false (some (o.pred.toNat, false)) [(.x, o.ra.toNat)])
    (hv : f (readX s c 0 o.ra) = v) : givesX i s k .s c [(.x, o.ra.toNat, o.la)] o.rd v (tagX s c 0 o.ra) 1 := by
  rw [← hv, givesX, hi, immediateWord, guardI, runWord_runs h, finish_done]
  rfl

/-- LIH keeps the low 40 bits and puts the low 24 bits of its immediate above them (R143). -/
theorem lih_eq_append (x : Word) (imm : BitVec 40) :
    (x &&& 0xFFFFFFFFFF#64) ||| ((imm.zeroExtend 64 &&& 0xFFFFFF#64) <<< 40) = imm.extractLsb' 0 24 ++ x.extractLsb' 0 40 := by
  have hlow : ((imm.zeroExtend 64 &&& 0xFFFFFF#64) <<< 40).extractLsb' 0 40 = 0#40 := by
    refine BitVec.eq_of_getLsbD_eq fun i hi => ?_
    rw [BitVec.getLsbD_extractLsb', BitVec.getLsbD_shiftLeft, decide_eq_true (show 0 + i < 40 by omega)]
    simp
  have hhigh : ((imm.zeroExtend 64 &&& 0xFFFFFF#64) <<< 40).extractLsb' 40 24 = imm.extractLsb' 0 24 := by
    have hones : 0xFFFFFF#64 = (BitVec.allOnes 24).setWidth 64 := rfl
    refine BitVec.eq_of_getLsbD_eq fun i hi => ?_
    rw [BitVec.getLsbD_extractLsb', BitVec.getLsbD_shiftLeft, BitVec.getLsbD_extractLsb', BitVec.zeroExtend, hones,
      BitVec.getLsbD_and, BitVec.getLsbD_setWidth, BitVec.getLsbD_setWidth, BitVec.getLsbD_allOnes]
    simp [hi, show 40 + i < 64 by omega, show i < 64 by omega]
  rw [eq_comm, append_eq_iff, BitVec.extractLsb'_or, BitVec.extractLsb'_or, hlow, hhigh, BitVec.extractLsb'_and,
    BitVec.extractLsb'_and]
  have hmask : (0xFFFFFFFFFF#64).extractLsb' 0 40 = BitVec.allOnes 40 := rfl
  have hmask' : (0xFFFFFFFFFF#64).extractLsb' 40 24 = 0#24 := rfl
  rw [hmask, hmask']
  simp only [BitVec.and_allOnes, BitVec.and_zero, BitVec.zero_or, BitVec.or_zero, and_self]

theorem immediateResults : ImmediateResults := by
  refine ⟨fun o s k c h => ?_, fun o s k c h => ?_, fun o s k c h => ?_⟩
  · simp only [List.forall_mem_cons, List.not_mem_nil, false_imp_iff, implies_true, and_true]
    exact ⟨givesX_immediate (exec_addi ..) h rfl, givesX_immediate (exec_andi ..) h rfl, givesX_immediate (exec_ori ..) h rfl⟩
  · rw [givesX, exec_li, execLi, runWord_runs h, finish_done]
    rfl
  · rw [givesX, exec_lih, execLih, runWord_runs h, finish_done, ← lih_eq_append]
    rfl

/-- The condition of CMP by minor is the one of R139. -/
theorem cmpHolds_of_mem {a b : Word} : ∀ q ∈ cmpCondition a b, cmpHolds q.1.toNat a b = q.2 := by
  simp only [cmpCondition, List.forall_mem_cons, List.not_mem_nil, false_imp_iff, implies_true, and_true]
  refine ⟨rfl, ?ne, rfl, ?ge, rfl, ?geUnsigned⟩
  case ne => simp [cmpHolds, bne, Bool.beq_eq_decide_eq]
  case ge => simp [cmpHolds, BitVec.slt, ← decide_not]
  case geUnsigned => simp [cmpHolds, BitVec.ult, ← decide_not]

theorem compareWritesPredicate : CompareWritesPredicate := by
  intro o s k c h q hq
  rw [exec_cmp, execCmp, runWord_runs h, cmpHolds_of_mem q hq]
  refine ⟨fun ha hb => ?_, fun ha => ?_, fun ha hb => ?_⟩
  · simp [poisonedX, numberedA, ha, hb]
  · simp [poisonedX, numberedA, ha, regCode]
  · simp [poisonedX, numberedA, ha, hb, regCode]

/-- Settles O11: the tables' forms are scalar forms, each with its function and bound, and CMP ends by the tags of its sources. -/
theorem scalarArithmetic : Obligations.ScalarArithmetic :=
  ⟨scalarTableResults, fun _ _ _ _ h => givesX_productForms h, immediateResults, compareWritesPredicate⟩

end Sys2Proof.Machine
end

/-! ### Reads of registers and landing writes (R91, R93, R115), the words of the manual, and reset -/

section
namespace Sys2Proof.Machine
open Sys2Proof.Claims

/-- A register that no write in flight names has no unlanded write. -/
theorem unlanded_eq_false {w : Nat} {c : Crew} {l : List (Pend w)} {r : Nat} (h : ∀ p ∈ l, p.reg ≠ r) :
    unlanded c l r = false := by
  rw [unlanded, List.any_eq_false]
  intro p hp
  simp [h p hp]

/-- A register that no write in flight names is settled in every bit. -/
theorem unsettled_eq_zero {w : Nat} {c : Crew} {l : List (Pend w)} {r : Nat} (h : ∀ p ∈ l, p.reg ≠ r) :
    unsettled c l r = 0 := by
  unfold unsettled
  induction l with
  | nil => rfl
  | cons p l ih =>
    rw [List.forall_mem_cons] at h
    simpa [h.1] using ih h.2

theorem isFreed_eq_false {c : Crew} {f : RegFile} {r : Nat} (h : ∀ e ∈ c.freed, e.file = f → e.reg ≠ r) :
    isFreed c f r = false := by
  rw [isFreed, List.any_eq_false]
  intro e he
  by_cases hf : e.file = f
  · simp [h e he hf]
  · simp [hf]

/-- A settled scalar register that is not freed reads as its value, with its tag (R115). -/
theorem readX_settled (s : State) {c : Crew} (n : Nat) {r : BitVec 6} (hr : r ≠ 0) (hfreed : isFreed c .x r.toNat = false)
    (hpend : ∀ p ∈ c.pendX, p.reg ≠ r.toNat) :
    readX s c n r = c.x[r.toNat] ∧ tagX s c n r = c.xPoison.getLsbD r.toNat := by
  simp only [readX, tagX, if_neg hr, hfreed, unlanded_eq_false hpend, Bool.or_self, Bool.false_eq_true, if_false, and_self]

/-- A settled predicate register that is not freed reads as its value (R115). -/
theorem readP_settled (s : State) {c : Crew} (n : Nat) {r : Nat} (hr : r ≠ 0) (hfreed : isFreed c .p r = false)
    (hpend : ∀ p ∈ c.pendP, p.reg ≠ r) : readP s c n r = (c.pr[r]?).getD 0 := by
  simp [readP, hr, hfreed, unsettled_eq_zero hpend, withUnsettled]

/-- The one scalar write in flight lands where its count has come. -/
theorem landDue_single (n : Nat) {c : Crew} {p : Pend 64} (hx : c.pendX = [p]) (hv : c.pendV = []) (hp : c.pendP = []) :
    landDue n c = if p.due c.counter then landX n { c with pendX := [], pendV := [], pendP := [] } p
      else { c with pendX := [p], pendV := [], pendP := [] } := by
  cases hdue : p.due c.counter
  · simp [landDue, landAmong, hx, hv, hp, hdue, landEach]
  · simp [landDue, landAmong, hx, hv, hp, hdue, landEach]

/-- The write of a scalar result as it stands in flight. -/
def scalarWrite (c : Crew) (str : Stream) (r : BitVec 6) (v : Word) (poison : Bool) (bound : Nat) : Pend 64 :=
  { reg := r.toNat, mask := BitVec.allOnes 64, val := v, poison := poison, issued := c.counter,
    land := .count (c.counter + bound), ready := true, seq := 0, str := str, again := false }

theorem pendX_of_ne {c : Crew} {r : BitVec 6} (hr : r ≠ 0) (str : Stream) (v : Word) (poison : Bool) (bound : Nat) :
    pendX c str r v poison bound = { c with pendX := c.pendX ++ [scalarWrite c str r v poison bound] } := if_neg hr

/-- A scalar write of every bit lands as its register's value with its tag. -/
theorem landX_scalarWrite (n : Nat) (d c : Crew) (str : Stream) (r : BitVec 6) (v : Word) (poison : Bool) (bound : Nat) :
    (landX n d (scalarWrite c str r v poison bound)).x[r.toNat] = v ∧
      (landX n d (scalarWrite c str r v poison bound)).xPoison.getLsbD r.toNat = poison := by
  have hmask : BitVec.allOnes 64 ≠ 0 := by decide
  have hlt : r.toNat < 64 := r.isLt
  unfold landX
  rw [if_neg (show (scalarWrite c str r v poison bound).mask ≠ 0 from hmask)]
  refine ⟨?_, ?_⟩
  · have hall : v &&& BitVec.allOnes 64 = v := BitVec.and_allOnes
    simpa [scalarWrite, merge] using hall
  · cases poison <;> simp [scalarWrite, hlt]

/-- The one scalar write in flight lands at its bound, not before (R115). -/
theorem landDue_scalarWrite (n : Nat) {d c : Crew} {str : Stream} {r : BitVec 6} {v : Word} {poison : Bool} {bound : Nat}
    (hx : d.pendX = [scalarWrite c str r v poison bound]) (hv : d.pendV = []) (hp : d.pendP = []) :
    (landDue n d).x[r.toNat] = (if c.counter + bound ≤ d.counter then v else d.x[r.toNat]) ∧
      (landDue n d).xPoison.getLsbD r.toNat =
        if c.counter + bound ≤ d.counter then poison else d.xPoison.getLsbD r.toNat := by
  rw [landDue_single n hx hv hp]
  by_cases hdue : c.counter + bound ≤ d.counter
  · have hlands : (scalarWrite c str r v poison bound).due d.counter = true := by simp [Pend.due, scalarWrite, hdue]
    rw [if_pos hlands, if_pos hdue, if_pos hdue]
    exact landX_scalarWrite ..
  · have hwaits : ¬ (scalarWrite c str r v poison bound).due d.counter = true := by simp [Pend.due, scalarWrite, hdue]
    rw [if_neg hwaits, if_neg hdue, if_neg hdue]
    exact ⟨rfl, rfl⟩

theorem scalarReadsAndLandings : ScalarReadsAndLandings := by
  refine ⟨fun s c n => ⟨rfl, rfl⟩, fun s c n r hr hfreed hpend => readX_settled s n hr (isFreed_eq_false hfreed) hpend,
    fun c str r v poison bound n count hr hx hv hp => ?_, fun c str v poison bound => rfl⟩
  rw [pendX_of_ne hr, hx]
  exact landDue_scalarWrite n rfl hv hp

theorem hardWiredRegisters : HardWiredRegisters := by
  intro s c i r x str v p b m
  exact ⟨rfl, rfl, rfl, rfl, fun hr hfreed hpend => (readX_settled s i hr hfreed hpend).1,
    fun hr hfreed hpend => readP_settled s i hr hfreed hpend, rfl, rfl, rfl, rfl⟩

/-- Settles O10: a register without writes in flight reads as it stands, and the one write in flight lands at its count. -/
theorem registerReadsAndLandings : Obligations.RegisterReadsAndLandings := ⟨scalarReadsAndLandings, hardWiredRegisters⟩

/-- Settles O1: each word is decoded by evaluation. -/
theorem writtenWordsDecode : Obligations.WrittenWordsDecode := ⟨rfl, rfl, rfl, rfl, rfl, rfl⟩

/-- Settles O4: the package at reset is written out, and its empty memories are in canonical form. -/
theorem resetValues : Obligations.ResetValues := by
  unfold Obligations.ResetValues
  exact ⟨rfl, rfl, rfl, rfl, rfl, rfl, rfl, rfl, rfl, rfl, rfl, rfl, rfl, rfl, rfl, rfl, rfl, rfl, rfl, rfl, rfl, rfl, rfl, rfl, rfl⟩

end Sys2Proof.Machine
end

/-! ### Branches and hardware loops (R121 to R129) -/

section
namespace Sys2Proof.Machine
open Sys2Proof.Claims

section
variable (o : FmtB) (s : State)

theorem exec_br : exec (.br o) s = execBr o s := rfl
theorem exec_brc : exec (.brc o) s = execBrc o s := rfl
theorem exec_jmp : exec (.jmp o) s = execJmp o s := rfl
theorem exec_call : exec (.call o) s = execCall o s := rfl
theorem exec_ret : exec (.ret o) s = execRet o s := rfl
theorem exec_brq : exec (.brq o) s = execBrq o s := rfl

end

theorem exec_loop (o : FmtLoop) (s : State) : exec (.loop o) s = execLoop o s := rfl
theorem exec_loopi (o : FmtLoopI) (s : State) : exec (.loopi o) s = execLoopi o s := rfl

section
variable {i : Instr} {s s' : State} {k : Nat} {str : Stream} {c c' : Crew} {frees : List (RegFile × Nat × Bool)} {a : Word}

/-- A word that ends as a taken branch goes to its target, with the loops that hold it (R124, R129). -/
theorem branchesTo_of_takeBranch (hi : exec i s = finish s k str c frees (takeBranch s' str c' a)) :
    branchesTo i s s' k str c c' frees a (keptLoops (c'.stream str).loops a) := by
  refine ⟨fun h => ?_, fun h => ?_⟩
  · rw [hi, takeBranch, if_neg (Classical.not_not.2 h), finish_jump]
    rfl
  · rw [hi, takeBranch, if_pos h, finish_trap]

/-- A word that ends as a transfer goes to its target and leaves the loops (R124, R129). -/
theorem branchesTo_of_takeTransfer (hi : exec i s = finish s k str c frees (takeTransfer s' str c' a)) :
    branchesTo i s s' k str c c' frees a (c'.stream str).loops := by
  refine ⟨fun h => ?_, fun h => ?_⟩
  · rw [hi, takeTransfer, if_neg (Classical.not_not.2 h), finish_jump]
  · rw [hi, takeTransfer, if_pos h, finish_trap]

end

/-- A pop finds the oldest entry where a word of an earlier count has pushed it (R110, R122). -/
theorem popped_cons {c : Crew} {e : QEntry} (rest : List QEntry) (h : e.pushedAt < c.counter) :
    popped c (e :: rest) = some e := if_pos h

theorem popped_none {c : Crew} {q : List QEntry} (h : ∀ e ∈ q.head?, c.counter ≤ e.pushedAt) : popped c q = none := by
  cases q with
  | nil => rfl
  | cons e rest => exact if_neg (Nat.not_lt.2 (h e rfl))

theorem linkReg_eq (str : Stream) : linkReg str = if str = .s then 62 else 63 := by
  cases str <;> rfl

@[simp] theorem stream_pendX (c : Crew) (t str : Stream) (r : BitVec 6) (v : Word) (poison : Bool) (bound : Nat) :
    (pendX c t r v poison bound).stream str = c.stream str := by
  unfold pendX
  split <;> cases str <;> rfl

theorem poisonedX_single {s : State} {c : Crew} {n : Nat} {r : BitVec 6} (h : tagX s c n r = false) :
    poisonedX s c [(n, r)] = none := by simp [poisonedX, h]

theorem branchesGoToTheirTarget : BranchesGoToTheirTarget := by
  intro o s k str c pc loops target link
  refine ⟨fun h => ?br, fun h => ⟨fun hbit => ?brcTaken, fun hbit => ?brcNot⟩, fun h htag => ?jmp, fun h => ?call,
    fun h hdead hlate htag => ?ret, fun h hstr => ⟨fun e rest hq hold => ⟨fun hsrc hpoison => ⟨fun hbit => ?brqTaken,
      fun hbit => ?brqNot⟩, fun hsrc hpoison => ?brqPoison, fun hsrc => ?brqStall⟩, fun hnone => ?brqEmpty⟩⟩
  case br =>
    refine branchesTo_of_takeBranch ?_
    rw [exec_br, execBr, runWord_runs h]
    rfl
  case brcTaken =>
    refine branchesTo_of_takeBranch ?_
    rw [exec_brc, execBrc, runWord_runs h, if_pos hbit]
    rfl
  case brcNot => rw [exec_brc, execBrc, runWord_runs h, if_neg (Bool.eq_false_iff.1 hbit), finish_done]
  case jmp =>
    refine branchesTo_of_takeBranch ?_
    rw [exec_jmp, execJmp, runWord_runs h]
    simp only [poisonedX_single htag]
  case call =>
    have hloops : loops = ((pendX c str link (pc + 8) false 1).stream str).loops := by rw [stream_pendX]
    rw [hloops]
    refine branchesTo_of_takeTransfer ?_
    rw [exec_call, execCall, runWord_runs h, linkReg_eq]
    rfl
  case ret =>
    refine branchesTo_of_takeTransfer ?_
    have hlink : linkReg str = link := linkReg_eq str
    rw [exec_ret, execRet, runWord_runs h, hlink, hdead, if_neg (Bool.eq_false_iff.1 hlate)]
    simp only [poisonedX_single htag]
  case brqTaken =>
    subst hstr
    refine branchesTo_of_takeBranch ?_
    rw [exec_brq, execBrq, runWord_runs h, hq]
    simp only [popped_cons rest hold]
    simp only [hsrc, hpoison, hbit, Option.isSome_none, Bool.false_eq_true, if_false, if_true]
    rfl
  case brqNot =>
    rw [exec_brq, execBrq, runWord_runs h, hq]
    simp only [popped_cons rest hold]
    simp only [hsrc, hpoison, hbit, Option.isSome_none, Bool.false_eq_true, if_false, finish_done, List.tail_cons]
  case brqPoison =>
    rw [exec_brq, execBrq, runWord_runs h, hq]
    simp only [popped_cons rest hold]
    simp [hsrc, hpoison]
  case brqStall =>
    rw [exec_brq, execBrq, runWord_runs h, hq]
    simp only [popped_cons rest hold]
    simp [hsrc]
  case brqEmpty =>
    rw [exec_brq, execBrq, runWord_runs h]
    simp only [popped_none hnone]
    rfl

theorem deadSource_nil (c : Crew) : deadSource c [] = none := by
  simp [deadSource]

section
variable {s s' : State} {k : Nat} {str : Stream} {c : Crew} {r : Except (BitVec 8 × Word) Unit} {last : Word}

/-- A word that runs with sources runs without them. -/
theorem WordRuns.withoutReads {streams : Streams} {priv : Bool} {guard : Option (Nat × Bool)} {reads : List (RegFile × Nat)}
    (h : WordRuns s k str c streams priv guard reads) : WordRuns s k str c streams priv guard [] := by
  obtain ⟨hcur, hc, hst, hp, hd, hg, -, -⟩ := h
  exact ⟨hcur, hc, hst, hp, hd, hg, deadSource_nil c, rfl⟩

/-- A loop word whose last word cannot be read now stalls (R276). -/
theorem checkedLoop_balked (hcheck : loopCheck s k c (c.stream str) last = (r, s')) (hb : s'.balked = true)
    (body : State → Effect) : checkedLoop s k c str last body = .stall (keepWalks s s') := by
  rw [checkedLoop, hcheck]
  exact if_pos hb

/-- A loop word whose checks fail traps with their cause (R127). -/
theorem checkedLoop_error {f : BitVec 8} {a : Word} (hcheck : loopCheck s k c (c.stream str) last = (.error (f, a), s'))
    (hb : s'.balked = false) (body : State → Effect) : checkedLoop s k c str last body = .trap f a := by
  rw [checkedLoop, hcheck]
  exact if_neg (Bool.eq_false_iff.1 hb)

/-- A loop word whose checks pass goes on with its body (R127). -/
theorem checkedLoop_ok (hcheck : loopCheck s k c (c.stream str) last = (.ok (), s')) (hb : s'.balked = false)
    (body : State → Effect) : checkedLoop s k c str last body = body s' := by
  rw [checkedLoop, hcheck]
  exact if_neg (Bool.eq_false_iff.1 hb)

/-- Where a loop of count 0 goes on: behind the word at its last address (R127). -/
def behindLoop (st : StreamState) (last : Word) : Word × List Loop :=
  if (st.loops.head?.map Loop.last) = some last then wordAfter { st with pc := last } else (last + 8, st.loops)

theorem enterLoop_zero : enterLoop s str c last 0 =
    .jump s c (behindLoop (c.stream str) last).1 (behindLoop (c.stream str) last).2 := by
  rw [enterLoop, if_pos rfl, behindLoop]
  cases hl : (c.stream str).loops with
  | nil => rfl
  | cons l rest =>
    by_cases h : l.last = last
    · simp [h]
    · simp [h]

/-- The end of a loop word whose checks have passed (R127). -/
theorem finish_enterLoop (frees : List (RegFile × Nat × Bool)) (count : Word) :
    finish s k str c frees (enterLoop s' str c last count) =
      .next (if count = 0 then
        transferred s' k str c frees (behindLoop (c.stream str) last).1 (behindLoop (c.stream str) last).2
      else transferred s' k str c frees ((c.stream str).pc + 8)
        ({ start := (c.stream str).pc + 8, last := last, remaining := count } :: (c.stream str).loops)) := by
  by_cases h : count = 0
  · rw [h, enterLoop_zero, finish_jump, if_pos rfl]
  · rw [enterLoop, if_neg h, finish_jump, if_neg h]

end

theorem zeroExtend_eq_zero (n : BitVec 23) : n.zeroExtend 64 = 0 ↔ n = 0 := by
  constructor
  · intro h
    refine BitVec.eq_of_toNat_eq ?_
    have hn := congrArg BitVec.toNat h
    rw [BitVec.toNat_setWidth, Nat.mod_eq_of_lt (Nat.lt_trans n.isLt (by decide))] at hn
    exact hn
  · rintro rfl
    rfl

theorem loopsAreSetUp : LoopsAreSetUp := by
  intro s s' k str c g e pc loops last endWord past h hcheck hb
  refine ⟨fun n => ?_, fun ra la hdead hlate htag => ?_⟩
  · rw [exec_loopi, execLoopi, runWord_runs h]
    refine (congrArg (finish s k str c []) (checkedLoop_ok hcheck hb _)).trans ?_
    rw [finish_enterLoop]
    simp only [zeroExtend_eq_zero]
    rfl
  · rw [exec_loop, execLoop, runWord_runs h]
    refine (congrArg (finish s k str c _) (checkedLoop_ok hcheck hb _)).trans ?_
    simp only [hdead, hlate, poisonedX_single htag, Bool.false_eq_true, if_false]
    exact finish_enterLoop _ _

theorem loopChecksStallAndTrap : LoopChecksStallAndTrap := by
  intro s s' r k str c g e last stalls traps hcheck
  refine ⟨fun n h => ⟨fun hb => ?_, fun hb f a hr => ?_⟩, fun o hg he h _ => ⟨fun hb => ?_, fun hb f a hr => ?_⟩⟩
  · show exec _ s = _
    rw [exec_loopi, execLoopi, runWord_runs h]
    exact (congrArg (finish s k str c _) (checkedLoop_balked hcheck hb _)).trans rfl
  · subst hr
    rw [exec_loopi, execLoopi, runWord_runs h]
    exact (congrArg (finish s k str c _) (checkedLoop_error hcheck hb _)).trans rfl
  · subst hg he
    show exec _ s = _
    rw [exec_loop, execLoop, runWord_runs h.withoutReads]
    exact (congrArg (finish s k str c _) (checkedLoop_balked hcheck hb _)).trans rfl
  · subst hg he hr
    rw [exec_loop, execLoop, runWord_runs h.withoutReads]
    exact (congrArg (finish s k str c _) (checkedLoop_error hcheck hb _)).trans rfl

theorem remaining_sub_one_ne_zero {r : Word} (h : 1 < r.toNat) : r - 1 ≠ 0 := by
  bv_omega

theorem remaining_sub_one_eq_zero {r : Word} (h : r.toNat = 1) : ¬ r - 1 ≠ 0 := by
  bv_omega

theorem loopEndNamesTheNextWord : LoopEndNamesTheNextWord := by
  intro st l outer
  unfold wordAfter
  refine ⟨fun h => ?_, fun h hpc => ?_, fun h hpc hrem => ?_, fun h hpc hrem =>
    ⟨fun o rest ho hlast horem => ?_, fun o rest ho hlast horem => ?_, fun ho => ?_⟩⟩
  all_goals rw [h, nextWord.eq_def]
  all_goals dsimp only
  · rw [if_neg hpc]
  · rw [if_pos hpc, if_pos (remaining_sub_one_ne_zero hrem)]
  · subst ho
    rw [if_pos hpc, if_neg (remaining_sub_one_eq_zero hrem)]
    simp only [if_pos hlast, if_pos (remaining_sub_one_ne_zero horem)]
  · subst ho
    rw [if_pos hpc, if_neg (remaining_sub_one_eq_zero hrem)]
    simp only [if_pos hlast, if_neg (remaining_sub_one_eq_zero horem)]
  · rw [if_pos hpc, if_neg (remaining_sub_one_eq_zero hrem)]
    cases outer with
    | nil => rfl
    | cons o rest => simp only [if_neg (ho o rfl)]

/-- Settles O14: the branches, the loop words, their checks and the end of a loop's body, each by its own law. -/
theorem branchesAndLoops : Obligations.BranchesAndLoops :=
  ⟨branchesGoToTheirTarget, loopsAreSetUp, loopChecksStallAndTrap, loopEndNamesTheNextWord⟩

end Sys2Proof.Machine
end

/-! ### NOP, CHK, QPUSH, RVZ and EXIT (R98, R113, R120 to R123, R131, R150) -/

section
namespace Sys2Proof.Machine
open Sys2Proof.Claims Sys2Proof.Config

section
variable (o : FmtA) (s : State)

theorem exec_nop : exec (.nop o) s = execNop o s := rfl
theorem exec_chk : exec (.chk o) s = execChk o s := rfl
theorem exec_qpush : exec (.qpush o) s = execQpush o s := rfl
theorem exec_rvz : exec (.rvz o) s = execRvz o s := rfl
theorem exec_exit : exec (.exit o) s = execExit o s := rfl

end

theorem poisonedX_single_poisoned {s : State} {c : Crew} {n : Nat} {r : BitVec 6} (h : tagX s c n r = true) :
    poisonedX s c [(n, r)] = some (BitVec.ofNat 64 r.toNat) := by
  simp [poisonedX, h, regCode]

section
variable {s : State} {k : Nat} {str : Stream} {c : Crew} {o : FmtA}

/-- A push finds room by the count of its queue and the pop of the same count (R110, R122). -/
theorem pushRoom_iff (branch : Bool) : pushRoom s c branch = true ↔
    if branch then c.brQ.length < 32 + (if vPops s c true then 1 else 0)
    else c.dataQ.length < 16 + (if vPops s c false then 1 else 0) := by
  cases branch <;> exact decide_eq_true_iff

theorem exec_chk_runs (h : WordRuns s k .s c .s false (guardA o) (readsA o 1)) :
    exec (.chk o) s = if tagX s c 0 o.ra then .next (wordTrap s k .s c 0x04 (BitVec.ofNat 64 o.ra.toNat))
      else .next (issued s k .s c (freesA o)) := by
  rw [exec_chk, execChk, runWord_runs h]
  have hsrc : numberedA o 1 = [(0, o.ra)] := rfl
  cases htag : tagX s c 0 o.ra with
  | false => simp [hsrc, poisonedX_single htag]
  | true => simp [hsrc, poisonedX_single_poisoned htag]

/-- QPUSH of a register that no load in flight fills (R120, R122, R123). -/
theorem exec_qpush_value (h : WordRuns s k .s c .s false (guardA o) (readsA o 1)) (hfill : fillingLoad c o.ra.toNat = none) :
    exec (.qpush o) s = finish s k .s c (freesA o)
      (if o.mod.getLsbD 0 && tagX s c 0 o.ra then .trap 0x04 (regCode .x o.ra.toNat)
      else if pushRoom s c (o.mod.getLsbD 0) then
        .done s (pushEntry c (o.mod.getLsbD 0)
          { src := none, val := if o.mod.getLsbD 0 then resultX s (tagX s c 0 o.ra) (readX s c 0 o.ra) &&& 1
              else resultX s (tagX s c 0 o.ra) (readX s c 0 o.ra)
            poison := tagX s c 0 o.ra, pushedAt := c.counter })
      else .trap 0x01 (if o.mod.getLsbD 0 then 4 else 2)) := by
  rw [exec_qpush, execQpush, runWord_runs h]
  simp only [hfill]

/-- QPUSH of a register that a load in flight fills (R121). -/
theorem exec_qpush_load {p : Pend 64} (h : WordRuns s k .s c .s false (guardA o) (readsA o 1))
    (hfill : fillingLoad c o.ra.toNat = some p) :
    exec (.qpush o) s = finish s k .s c (freesA o)
      (if pushRoom s c (o.mod.getLsbD 0) then .done s (pushEntry c (o.mod.getLsbD 0) (loadEntry c (o.mod.getLsbD 0) p))
      else .trap 0x01 (if o.mod.getLsbD 0 then 4 else 2)) := by
  rw [exec_qpush, execQpush, runWord_runs h]
  simp only [hfill]

end

/-- Settles O15: each word's body has one end for each case of its rule, which the statement names. -/
theorem streamAndQueueWords : Obligations.StreamAndQueueWords := by
  intro o s k str c src tag branch room pushes full
  have hroom : room ↔ pushRoom s c branch = true := (pushRoom_iff branch).symm
  refine ⟨fun h => ?nop, fun h => ⟨fun ht => ?chkClean, fun ht => ?chkPoisoned⟩, fun h hfill => ⟨fun hr ht => ?pushValue,
    fun hb ht => ?pushPoisoned, fun hr ht => ?pushFull⟩, fun p h hfill => ⟨fun hr => ⟨fun hready => ?loadLater,
    fun hready => ?loadNow⟩, fun hr => ?loadFull⟩, fun h hx hw => ?waitS, fun h hx hw => ?waitV, fun h hx hw => ?joinS,
    fun h hx hw => ?joinV, fun h hx hl => ?goneS, fun h hx hl => ?goneV, fun h => ?exit⟩
  case nop => rw [exec_nop, execNop, runWord_runs h, finish_done]
  case chkClean => rw [exec_chk_runs h, if_neg (Bool.eq_false_iff.1 ht)]
  case chkPoisoned => rw [exec_chk_runs h, if_pos ht]
  case pushValue =>
    have hclean : (o.mod.getLsbD 0 && tagX s c 0 o.ra) = false := Bool.and_eq_false_iff.2 ht
    rw [exec_qpush_value h hfill, if_neg (Bool.eq_false_iff.1 hclean), if_pos (hroom.1 hr), finish_done]
    have hval : (if branch then resultX s tag src &&& 1 else resultX s tag src) =
        if branch then src &&& 1 else if tag then freeWord (s.free + 8) else src := by
      rcases ht with hb | ht
      · simp only [hb, resultX]
        rfl
      · simp only [ht, resultX]
        rfl
    exact congrArg (fun v => Host.Outcome.next (issued s k .s
      (pushEntry c branch { src := none, val := v, poison := tag, pushedAt := c.counter }) (freesA o))) hval
  case pushPoisoned =>
    have hpoisoned : (o.mod.getLsbD 0 && tagX s c 0 o.ra) = true := Bool.and_eq_true_iff.2 ⟨hb, ht⟩
    rw [exec_qpush_value h hfill, if_pos hpoisoned, finish_trap]
    simp [regCode]
  case pushFull =>
    have hclean : (o.mod.getLsbD 0 && tagX s c 0 o.ra) = false := Bool.and_eq_false_iff.2 ht
    show exec _ s = _
    rw [exec_qpush_value h hfill, if_neg (Bool.eq_false_iff.1 hclean), if_neg (mt hroom.2 hr), finish_trap]
  case loadLater =>
    rw [exec_qpush_load h hfill, if_pos (hroom.1 hr), finish_done, loadEntry, hready]
    rfl
  case loadNow =>
    rw [exec_qpush_load h hfill, if_pos (hroom.1 hr), finish_done, loadEntry, hready]
    rfl
  case loadFull =>
    show exec _ s = _
    rw [exec_qpush_load h hfill, if_neg (mt hroom.2 hr), finish_trap]
  case exit => rw [exec_exit, execExit, runWord_runs h, finish_jump]
  all_goals rw [exec_rvz, execRvz, runWord_runs h]
  all_goals simp only [otherStream, Crew.stream, hx]
  case waitS => simp only [hw, Bool.false_and, Bool.false_eq_true, if_false, finish_done, Crew.setStream]
  case waitV => simp only [hw, Bool.false_and, Bool.false_eq_true, if_false, finish_done, Crew.setStream]
  case joinS =>
    obtain ⟨w, hw⟩ := Option.isSome_iff_exists.1 hw
    simp only [hw, Bool.false_and, Bool.false_eq_true, if_false, finish_done, Crew.setStream]
  case joinV =>
    obtain ⟨w, hw⟩ := Option.isSome_iff_exists.1 hw
    simp only [hw, Bool.false_and, Bool.false_eq_true, if_false, finish_done, Crew.setStream]
  case goneS => simp only [bne_iff_ne.2 hl, Bool.true_and, if_true, finish_trap]
  case goneV => simp only [bne_iff_ne.2 hl, Bool.true_and, if_true, finish_trap]

end Sys2Proof.Machine
end

/-! ### What accesses to local HBM change -/

section
namespace Sys2Proof.Machine

/-- The two states differ in the controllers' queues alone. -/
def OnlyHost (s t : State) : Prop := ∃ h, t = { s with host := h }

theorem OnlyHost.trans {s t u : State} (h : OnlyHost s t) (h' : OnlyHost t u) : OnlyHost s u := by
  obtain ⟨a, rfl⟩ := h
  obtain ⟨b, rfl⟩ := h'
  exact ⟨b, rfl⟩

theorem takeRun_onlyHost (s : State) (r : Nat × Nat) : OnlyHost s (takeRun s r) := ⟨_, rfl⟩

theorem holdRun_onlyHost (s : State) (r : Nat × Nat) : OnlyHost s (holdRun s r) := by
  unfold holdRun
  dsimp only
  split
  · exact ⟨s.host, rfl⟩
  · split
    · exact ⟨s.host, rfl⟩
    · split
      · exact ⟨_, rfl⟩
      · split
        · exact ⟨_, rfl⟩
        · exact ⟨s.host, rfl⟩

theorem foldl_onlyHost {α : Type} (f : State → α → State) (hf : ∀ s r, OnlyHost s (f s r)) (l : List α) (s : State) :
    OnlyHost s (l.foldl f s) := by
  induction l generalizing s with
  | nil => exact ⟨s.host, rfl⟩
  | cons r l ih => exact (hf s r).trans (ih (f s r))

theorem hostTakes_onlyHost (s : State) (a n : Nat) : OnlyHost s (hostTakes s a n) := by
  unfold hostTakes
  split
  · exact ⟨s.host, rfl⟩
  · exact foldl_onlyHost _ takeRun_onlyHost _ s

theorem hostWaits_onlyHost (s : State) (a n : Nat) : OnlyHost s (hostWaits s a n) := by
  unfold hostWaits
  split
  · exact ⟨s.host, rfl⟩
  · exact foldl_onlyHost _ holdRun_onlyHost _ s

/-- The two states differ in what a write to local HBM changes: the bytes, the crossings, the numbers of free values, and the
errors and counts of ECC sectors. -/
def OnlyHbm (s t : State) : Prop :=
  ∃ hbm crossings free poison err eccce, t = { s with
    hbm := hbm, crossings := crossings, free := free, eccPoison := poison, eccErr := err, pkg := { s.pkg with eccce := eccce } }

theorem OnlyHbm.refl (s : State) : OnlyHbm s s := ⟨s.hbm, s.crossings, s.free, s.eccPoison, s.eccErr, s.pkg.eccce, rfl⟩

theorem OnlyHbm.trans {s t u : State} (h : OnlyHbm s t) (h' : OnlyHbm t u) : OnlyHbm s u := by
  obtain ⟨b, c, f, p, e, n, rfl⟩ := h
  obtain ⟨b', c', f', p', e', n', rfl⟩ := h'
  exact ⟨b', c', f', p', e', n', rfl⟩

theorem mergeSector_onlyHbm (s : State) (k : Nat) : OnlyHbm s (mergeSector s k) := by
  unfold mergeSector
  split
  · exact ⟨s.hbm, s.crossings, s.free, _, s.eccErr, s.pkg.eccce, rfl⟩
  · exact ⟨_, s.crossings, s.free, s.eccPoison, _, s.pkg.eccce, rfl⟩

theorem foldl_onlyHbm {α : Type} (f : State → α → State) (hf : ∀ s r, OnlyHbm s (f s r)) (l : List α) (s : State) :
    OnlyHbm s (l.foldl f s) := by
  induction l generalizing s with
  | nil => exact .refl s
  | cons r l ih => exact (hf s r).trans (ih (f s r))

theorem eccWrite_onlyHbm (s : State) (b n : Nat) : OnlyHbm s (eccWrite s b n) := by
  unfold eccWrite
  split
  · exact .refl s
  · refine (foldl_onlyHbm mergeSector mergeSector_onlyHbm
      ((eccSectors b n).filter fun k => !(((eccSectors b n).filter fun k =>
        decide (b ≤ 32 * k) && decide (32 * k + 32 ≤ b + n)).contains k)) s).trans ?_
    dsimp only
    generalize List.foldl mergeSector s _ = t
    split
    · exact ⟨t.hbm, t.crossings, t.free, _, _, t.pkg.eccce, rfl⟩
    · exact ⟨t.hbm, t.crossings, t.free, _, _, _, rfl⟩

theorem writeSector_onlyHbm (s : State) (linear : Bool) (b : Nat) (bs : List Byte) : OnlyHbm s (writeSector s linear b bs) := by
  refine (eccWrite_onlyHbm s b bs.length).trans ?_
  unfold writeSector
  generalize eccWrite s b bs.length = t
  dsimp only
  split
  · exact ⟨_, _, _, t.eccPoison, t.eccErr, t.pkg.eccce, rfl⟩
  · exact ⟨_, _, t.free, t.eccPoison, t.eccErr, t.pkg.eccce, rfl⟩

theorem writeSectors_onlyHbm (n : Nat) (s : State) (a : Nat) (bs : List Byte) : OnlyHbm s (writeSectors s a n bs) := by
  induction n generalizing s a bs with
  | zero => exact .refl s
  | succ n ih =>
    cases bs with
    | nil => exact .refl s
    | cons b bs => exact (writeSector_onlyHbm s _ _ _).trans (ih _ _ _)

theorem hbmWrite_onlyHbm (s : State) (a : Nat) (bs : List Byte) : OnlyHbm s (hbmWrite s a bs) := writeSectors_onlyHbm _ s a bs

@[simp] theorem hostTakes_crews (s : State) (a n : Nat) : (hostTakes s a n).crews = s.crews := by
  obtain ⟨_, h⟩ := hostTakes_onlyHost s a n
  rw [h]
@[simp] theorem hostTakes_cores (s : State) (a n : Nat) : (hostTakes s a n).cores = s.cores := by
  obtain ⟨_, h⟩ := hostTakes_onlyHost s a n
  rw [h]
@[simp] theorem hostTakes_mills (s : State) (a n : Nat) : (hostTakes s a n).mills = s.mills := by
  obtain ⟨_, h⟩ := hostTakes_onlyHost s a n
  rw [h]
@[simp] theorem hostTakes_reeves (s : State) (a n : Nat) : (hostTakes s a n).reeves = s.reeves := by
  obtain ⟨_, h⟩ := hostTakes_onlyHost s a n
  rw [h]
@[simp] theorem hostTakes_ctl (s : State) (a n : Nat) : (hostTakes s a n).ctl = s.ctl := by
  obtain ⟨_, h⟩ := hostTakes_onlyHost s a n
  rw [h]
@[simp] theorem hostTakes_spad (s : State) (a n : Nat) : (hostTakes s a n).spad = s.spad := by
  obtain ⟨_, h⟩ := hostTakes_onlyHost s a n
  rw [h]
@[simp] theorem hostTakes_code (s : State) (a n : Nat) : (hostTakes s a n).code = s.code := by
  obtain ⟨_, h⟩ := hostTakes_onlyHost s a n
  rw [h]
@[simp] theorem hostTakes_levels (s : State) (a n : Nat) : (hostTakes s a n).levels = s.levels := by
  obtain ⟨_, h⟩ := hostTakes_onlyHost s a n
  rw [h]
@[simp] theorem hostTakes_units (s : State) (a n : Nat) : (hostTakes s a n).units = s.units := by
  obtain ⟨_, h⟩ := hostTakes_onlyHost s a n
  rw [h]
@[simp] theorem hostTakes_dispatcher (s : State) (a n : Nat) : (hostTakes s a n).dispatcher = s.dispatcher := by
  obtain ⟨_, h⟩ := hostTakes_onlyHost s a n
  rw [h]
@[simp] theorem hostTakes_fabric (s : State) (a n : Nat) : (hostTakes s a n).fabric = s.fabric := by
  obtain ⟨_, h⟩ := hostTakes_onlyHost s a n
  rw [h]
@[simp] theorem hostTakes_port (s : State) (a n : Nat) : (hostTakes s a n).port = s.port := by
  obtain ⟨_, h⟩ := hostTakes_onlyHost s a n
  rw [h]
@[simp] theorem hostTakes_lent (s : State) (a n : Nat) : (hostTakes s a n).lent = s.lent := by
  obtain ⟨_, h⟩ := hostTakes_onlyHost s a n
  rw [h]
@[simp] theorem hostTakes_pkg (s : State) (a n : Nat) : (hostTakes s a n).pkg = s.pkg := by
  obtain ⟨_, h⟩ := hostTakes_onlyHost s a n
  rw [h]
@[simp] theorem hostTakes_hbm (s : State) (a n : Nat) : (hostTakes s a n).hbm = s.hbm := by
  obtain ⟨_, h⟩ := hostTakes_onlyHost s a n
  rw [h]
@[simp] theorem hostWaits_crews (s : State) (a n : Nat) : (hostWaits s a n).crews = s.crews := by
  obtain ⟨_, h⟩ := hostWaits_onlyHost s a n
  rw [h]
@[simp] theorem hostWaits_cores (s : State) (a n : Nat) : (hostWaits s a n).cores = s.cores := by
  obtain ⟨_, h⟩ := hostWaits_onlyHost s a n
  rw [h]
@[simp] theorem hostWaits_mills (s : State) (a n : Nat) : (hostWaits s a n).mills = s.mills := by
  obtain ⟨_, h⟩ := hostWaits_onlyHost s a n
  rw [h]
@[simp] theorem hostWaits_reeves (s : State) (a n : Nat) : (hostWaits s a n).reeves = s.reeves := by
  obtain ⟨_, h⟩ := hostWaits_onlyHost s a n
  rw [h]
@[simp] theorem hostWaits_ctl (s : State) (a n : Nat) : (hostWaits s a n).ctl = s.ctl := by
  obtain ⟨_, h⟩ := hostWaits_onlyHost s a n
  rw [h]
@[simp] theorem hostWaits_spad (s : State) (a n : Nat) : (hostWaits s a n).spad = s.spad := by
  obtain ⟨_, h⟩ := hostWaits_onlyHost s a n
  rw [h]
@[simp] theorem hostWaits_code (s : State) (a n : Nat) : (hostWaits s a n).code = s.code := by
  obtain ⟨_, h⟩ := hostWaits_onlyHost s a n
  rw [h]
@[simp] theorem hostWaits_levels (s : State) (a n : Nat) : (hostWaits s a n).levels = s.levels := by
  obtain ⟨_, h⟩ := hostWaits_onlyHost s a n
  rw [h]
@[simp] theorem hostWaits_units (s : State) (a n : Nat) : (hostWaits s a n).units = s.units := by
  obtain ⟨_, h⟩ := hostWaits_onlyHost s a n
  rw [h]
@[simp] theorem hostWaits_dispatcher (s : State) (a n : Nat) : (hostWaits s a n).dispatcher = s.dispatcher := by
  obtain ⟨_, h⟩ := hostWaits_onlyHost s a n
  rw [h]
@[simp] theorem hostWaits_fabric (s : State) (a n : Nat) : (hostWaits s a n).fabric = s.fabric := by
  obtain ⟨_, h⟩ := hostWaits_onlyHost s a n
  rw [h]
@[simp] theorem hostWaits_port (s : State) (a n : Nat) : (hostWaits s a n).port = s.port := by
  obtain ⟨_, h⟩ := hostWaits_onlyHost s a n
  rw [h]
@[simp] theorem hostWaits_lent (s : State) (a n : Nat) : (hostWaits s a n).lent = s.lent := by
  obtain ⟨_, h⟩ := hostWaits_onlyHost s a n
  rw [h]
@[simp] theorem hostWaits_pkg (s : State) (a n : Nat) : (hostWaits s a n).pkg = s.pkg := by
  obtain ⟨_, h⟩ := hostWaits_onlyHost s a n
  rw [h]
@[simp] theorem hostWaits_hbm (s : State) (a n : Nat) : (hostWaits s a n).hbm = s.hbm := by
  obtain ⟨_, h⟩ := hostWaits_onlyHost s a n
  rw [h]
@[simp] theorem hbmWrite_crews (s : State) (a : Nat) (bs : List Byte) : (hbmWrite s a bs).crews = s.crews := by
  obtain ⟨_, _, _, _, _, _, h⟩ := hbmWrite_onlyHbm s a bs
  rw [h]
@[simp] theorem hbmWrite_cores (s : State) (a : Nat) (bs : List Byte) : (hbmWrite s a bs).cores = s.cores := by
  obtain ⟨_, _, _, _, _, _, h⟩ := hbmWrite_onlyHbm s a bs
  rw [h]
@[simp] theorem hbmWrite_mills (s : State) (a : Nat) (bs : List Byte) : (hbmWrite s a bs).mills = s.mills := by
  obtain ⟨_, _, _, _, _, _, h⟩ := hbmWrite_onlyHbm s a bs
  rw [h]
@[simp] theorem hbmWrite_reeves (s : State) (a : Nat) (bs : List Byte) : (hbmWrite s a bs).reeves = s.reeves := by
  obtain ⟨_, _, _, _, _, _, h⟩ := hbmWrite_onlyHbm s a bs
  rw [h]
@[simp] theorem hbmWrite_ctl (s : State) (a : Nat) (bs : List Byte) : (hbmWrite s a bs).ctl = s.ctl := by
  obtain ⟨_, _, _, _, _, _, h⟩ := hbmWrite_onlyHbm s a bs
  rw [h]
@[simp] theorem hbmWrite_spad (s : State) (a : Nat) (bs : List Byte) : (hbmWrite s a bs).spad = s.spad := by
  obtain ⟨_, _, _, _, _, _, h⟩ := hbmWrite_onlyHbm s a bs
  rw [h]
@[simp] theorem hbmWrite_code (s : State) (a : Nat) (bs : List Byte) : (hbmWrite s a bs).code = s.code := by
  obtain ⟨_, _, _, _, _, _, h⟩ := hbmWrite_onlyHbm s a bs
  rw [h]
@[simp] theorem hbmWrite_levels (s : State) (a : Nat) (bs : List Byte) : (hbmWrite s a bs).levels = s.levels := by
  obtain ⟨_, _, _, _, _, _, h⟩ := hbmWrite_onlyHbm s a bs
  rw [h]
@[simp] theorem hbmWrite_units (s : State) (a : Nat) (bs : List Byte) : (hbmWrite s a bs).units = s.units := by
  obtain ⟨_, _, _, _, _, _, h⟩ := hbmWrite_onlyHbm s a bs
  rw [h]
@[simp] theorem hbmWrite_dispatcher (s : State) (a : Nat) (bs : List Byte) : (hbmWrite s a bs).dispatcher = s.dispatcher := by
  obtain ⟨_, _, _, _, _, _, h⟩ := hbmWrite_onlyHbm s a bs
  rw [h]
@[simp] theorem hbmWrite_fabric (s : State) (a : Nat) (bs : List Byte) : (hbmWrite s a bs).fabric = s.fabric := by
  obtain ⟨_, _, _, _, _, _, h⟩ := hbmWrite_onlyHbm s a bs
  rw [h]
@[simp] theorem hbmWrite_port (s : State) (a : Nat) (bs : List Byte) : (hbmWrite s a bs).port = s.port := by
  obtain ⟨_, _, _, _, _, _, h⟩ := hbmWrite_onlyHbm s a bs
  rw [h]
@[simp] theorem hbmWrite_lent (s : State) (a : Nat) (bs : List Byte) : (hbmWrite s a bs).lent = s.lent := by
  obtain ⟨_, _, _, _, _, _, h⟩ := hbmWrite_onlyHbm s a bs
  rw [h]
@[simp] theorem hbmWrite_host (s : State) (a : Nat) (bs : List Byte) : (hbmWrite s a bs).host = s.host := by
  obtain ⟨_, _, _, _, _, _, h⟩ := hbmWrite_onlyHbm s a bs
  rw [h]

/-- Whether a host access may be performed depends on the Mills and the controllers alone. -/
theorem hostReach_congr {s t : State} (hmills : t.mills = s.mills) (hhost : t.host = s.host) (a n : Nat) :
    hostReach t a n = hostReach s a n := by
  have hstep : ∀ (l : List (Nat × Nat)) (b : Bool) (s t : State), t.mills = s.mills → t.host = s.host →
      (l.foldl (fun (q : Bool × State) r => (q.1 && runOpen q.2 r, takeRun q.2 r)) (b, t)).1 =
        (l.foldl (fun (q : Bool × State) r => (q.1 && runOpen q.2 r, takeRun q.2 r)) (b, s)).1 := by
    intro l
    induction l with
    | nil => intros; rfl
    | cons r l ih =>
      intro b s t hm hh
      simp only [List.foldl_cons]
      have hopen : runOpen t r = runOpen s r := by simp only [runOpen, runRoom, sharedWith, hm, hh]
      rw [hopen]
      have hshared : sharedWith t r.1 = sharedWith s r.1 := by simp only [sharedWith, hm]
      exact ih _ _ _ hm (by simp only [takeRun, hshared, hh])
  rw [hostReach, hostReach, hmills, hstep _ _ s t hmills hhost]

/-- When local HBM serves an access depends on the package, the engines, the crews, the Mills and the controllers alone. -/
theorem hbmReady_congr {s t : State} (hpkg : t.pkg = s.pkg) (hcores : t.cores = s.cores) (hcrews : t.crews = s.crews)
    (hmills : t.mills = s.mills) (hhost : t.host = s.host) (a n : Nat) : hbmReady t a n = hbmReady s a n := by
  rw [hbmReady, hbmReady, hostReach_congr hmills hhost]
  simp only [memoryAwake, runsOn, hpkg, hcores, hcrews]

@[simp] theorem hbmReady_putReeve (s : State) (cl : Nat) (r : ReeveState) (a n : Nat) :
    hbmReady (putReeve s cl r) a n = hbmReady s a n :=
  hbmReady_congr (s := s) (t := putReeve s cl r) rfl rfl rfl rfl rfl a n

@[simp] theorem reeveAt_putReeve (s : State) (cl : Nat) (r : ReeveState) : reeveAt (putReeve s cl r) cl = r := by
  simp [reeveAt, putReeve]

end Sys2Proof.Machine
end

/-! ### Traps (R97, R387, R388, R400, R405) -/

section
namespace Sys2Proof.Machine
open Sys2Proof.Claims

theorem exec_brk (g : BitVec 10) (d : BitVec 47) (s : State) : exec (.brk g d) s = execBrk g d s := rfl
theorem exec_reservedMajorWord (w : Word) (s : State) : exec (.reservedMajorWord w) s = execReservedMajorWord w s := rfl
theorem exec_trap (o : FmtI) (s : State) : exec (.trap o) s = execTrap o s := rfl

theorem trapWordsTakeTheirTrap : TrapWordsTakeTheirTrap := by
  intro s k str c
  refine ⟨fun g d h => ?_, fun w h => ?_, fun o h => ?_⟩
  · rw [exec_brk, execBrk, runWord_runs h, finish_trap]
  · rw [exec_reservedMajorWord, execReservedMajorWord, runWord_runs h, finish_trap]
  · rw [exec_trap, execTrap, guardI, runWord_runs h]
    rfl

/-- The trap ring's records change neither the crews nor the memories beside local HBM. -/
theorem drainTrapRing_frame (n : Nat) (s : State) (cl : Nat) :
    (drainTrapRing s cl n).crews = s.crews ∧ (drainTrapRing s cl n).ctl = s.ctl ∧ (drainTrapRing s cl n).spad = s.spad := by
  induction n generalizing s with
  | zero => exact ⟨rfl, rfl, rfl⟩
  | succ n ih =>
    unfold drainTrapRing
    dsimp only
    split
    · exact ⟨rfl, rfl, rfl⟩
    · split
      · exact ⟨rfl, rfl, rfl⟩
      · split
        · obtain ⟨hcrews, hctl, hspad⟩ := ih _
          exact ⟨hcrews.trans (by simp), hctl.trans (by simp), hspad.trans (by simp)⟩
        · simp

theorem postRecord_crews (s : State) (cl : Nat) (rec : Record) : (postRecord s cl rec).crews = s.crews := by
  obtain ⟨h, -, -⟩ := drainTrapRing_frame ((reeveAt s cl).records.length + 1)
    (putReeve s cl { reeveAt s cl with records := (reeveAt s cl).records ++ [rec] }) cl
  exact h

theorem crewAt_postRecord (s : State) (cl : Nat) (rec : Record) (k : Nat) : crewAt (postRecord s cl rec) k = crewAt s k := by
  rw [crewAt, postRecord_crews, crewAt]

theorem crewAt_putCrew_same (s : State) (k : Nat) (c : Crew) : crewAt (putCrew s k c) k = some c := mapGet_mapSet_same _ _ _

theorem crewAt_putCrew_other (s : State) {k j : Nat} (c : Crew) (h : j ≠ k) : crewAt (putCrew s k c) j = crewAt s j :=
  mapGet_mapSet_other _ _ h

/-- TRAPCAUSE holds the software code above the cause (R387). -/
theorem trapcause_eq (code sw : BitVec 8) : BitVec.ofNat 64 (sw.toNat * 256 + code.toNat) = (sw ++ code).zeroExtend 64 := by
  refine BitVec.eq_of_toNat_eq ?_
  rw [BitVec.toNat_ofNat, BitVec.zeroExtend, BitVec.toNat_setWidth]
  exact congrArg (· % 2 ^ 64) (toNat_append_eq sw code).symm

theorem trappc_eq (pc : Word) : pc &&& 0xFFFFFFFFFFFF = (pc.extractLsb' 0 48).zeroExtend 64 := by
  refine BitVec.eq_of_toNat_eq ?_
  have hmask : (0xFFFFFFFFFFFF : Word).toNat = 2 ^ 48 - 1 := rfl
  rw [BitVec.toNat_and, hmask, Nat.and_two_pow_sub_one_eq_mod, BitVec.zeroExtend, BitVec.toNat_setWidth,
    BitVec.extractLsb'_toNat, Nat.shiftRight_zero]
  omega

theorem takingATrapOnABench : TakingATrapOnABench := by
  intro s k c str code sw pc addr log hk hc
  have hbench : ¬ isReeve k = true := by simp [isReeve, hk]
  have htrap : takeTrap s k str code sw pc addr log = postRecord (putCrew s k
      { c with state := .trapped, trapcause := (sw ++ code).zeroExtend 64, trappc := (pc.extractLsb' 0 48).zeroExtend 64,
               trapaddr := addr }) (clusterOf k)
      (trapRecord 1 code sw (str == some .v) (jobOf s c) (benchRef k c) pc addr c.counter log) := by
    unfold takeTrap
    rw [hc]
    dsimp only
    rw [if_neg hbench, trapcause_eq, trappc_eq]
  rw [htrap]
  refine ⟨?_, fun j hj => ?_⟩
  · rw [crewAt_postRecord, crewAt_putCrew_same]
  · rw [crewAt_postRecord, crewAt_putCrew_other _ _ hj]

theorem trapRecordIsWritten : TrapRecordIsWritten := by
  intro s cl rec r a waits hnone
  have hpost : postRecord s cl rec = drainTrapRing waits cl 1 := by
    have hl : (reeveAt s cl).records = [] := hnone
    simp [postRecord, waits, r, hl]
  have hready : hbmReady waits a 64 = hbmReady s a 64 := hbmReady_putReeve _ _ _ _ _
  have hr : reeveAt waits cl = { r with records := [rec] } := reeveAt_putReeve _ _ _
  have hdrain : drainTrapRing waits cl 1 =
      if !trapRingRoom r then waits
      else if hbmReady s a 64 then
        putReeve (hbmWrite (hostTakes waits a 64) a (rec.flatMap wordBytes)) cl
          { r with trqtail := r.trqtail + 1, records := [] }
      else hostWaits waits a 64 := by
    rw [← hready]
    unfold drainTrapRing
    rw [hr]
    rfl
  rw [hpost]
  refine ⟨fun hroom hserved => ?_, fun hfull => ?_, fun hroom hserved => ?_, fun x => ?_⟩
  · have : trapRingRoom r = true := decide_eq_true hroom
    rw [hdrain, this, hserved]
    rfl
  · have : trapRingRoom r = false := decide_eq_false (Nat.not_lt.2 hfull)
    rw [hdrain, this]
    rfl
  · have : trapRingRoom r = true := decide_eq_true hroom
    rw [hdrain, this, hserved]
    rfl
  · obtain ⟨-, hctl, hspad⟩ := drainTrapRing_frame 1 waits cl
    rw [hctl, hspad]
    exact ⟨rfl, rfl⟩

/-- Settles O16: the words of R400 and R405 trap, a trap stops its crew alone, and its record reaches the ring of its cluster. -/
theorem trapsAreTaken : Obligations.TrapsAreTaken :=
  ⟨trapWordsTakeTheirTrap, takingATrapOnABench, trapRecordIsWritten⟩

end Sys2Proof.Machine
end

/-! ### Scalar memory words (R144 to R149, R391) -/

section
namespace Sys2Proof.Machine
open Sys2Proof.Claims Sys2Proof.Config

section
variable {i : Instr} {s u : State} {k : Nat} {c c' : Crew} {e : LogEntry} {frees : List (RegFile × Nat × Bool)}

/-- An access whose entry has joined the log has issued: the state but for the crew is that of the log (R391). -/
theorem issueAccess_joined (h : joined s k c e = some u) :
    ∃ t, issueAccess s k c e = .done t ((crewAt u k).getD { c with log := c.log ++ [e] }) ∧
      ∀ d, putCrew t k d = putCrew u k d := by
  unfold joined at h
  unfold issueAccess
  dsimp only [bump] at h ⊢
  by_cases hr : isReeve k = true
  · rw [if_pos hr] at h ⊢
    cases ht : physicalTarget e.opa with
    | ok t =>
      rw [ht] at h
      cases h
      exact ⟨_, rfl, fun _ => rfl⟩
    | error f =>
      rw [ht] at h
      cases hk : e.kind <;> rw [hk] at h <;> cases h
      exact ⟨_, rfl, fun _ => rfl⟩
  · rw [if_neg hr] at h ⊢
    generalize tlbHit _ _ _ e.opa (entryAccess e) = r at h ⊢
    cases r with
    | none =>
      cases h
      refine ⟨{ s with stamp := s.stamp + 1, free := s.free + 1 }, ?_, fun d => (putCrew_putCrew _ _ _ d).symm⟩
      dsimp only [spend]
      rw [crewAt_putCrew_same]
      rfl
    | some r =>
      cases r with
      | ok t =>
        cases h
        exact ⟨_, rfl, fun _ => rfl⟩
      | error f =>
        cases h
        exact ⟨_, rfl, fun _ => rfl⟩

theorem issueAccess_unjoined (h : joined s k c e = none) : issueAccess s k c e = .trap 0x12 e.opa := by
  unfold joined at h
  unfold issueAccess
  dsimp only [bump] at h ⊢
  by_cases hr : isReeve k = true
  · rw [if_pos hr] at h ⊢
    cases ht : physicalTarget e.opa with
    | ok t =>
      rw [ht] at h
      cases h
    | error f =>
      have hf : f = 0x12 := by
        unfold physicalTarget at ht
        split at ht
        · cases ht
        · injection ht with hf
          exact hf.symm
      rw [ht] at h
      subst hf
      cases hk : e.kind <;> rw [hk] at h
      case loadSpec => cases h
  · rw [if_neg hr] at h
    generalize tlbHit _ _ _ e.opa (entryAccess e) = r at h
    cases r with
    | none => cases h
    | some r => cases r <;> cases h

/-- A word that issues an access joins the log with it (R391). -/
theorem joinsLog_of_issueAccess (hi : exec i s = finish s k .s c frees (issueAccess s k c' e)) :
    joinsLog i s k c c' frees e := by
  refine ⟨fun u hu => ?_, fun hnone => ?_⟩
  · obtain ⟨t, ht, hput⟩ := issueAccess_joined hu
    rw [hi, ht, finish_done, issued, hput, issued]
  · rw [hi, issueAccess_unjoined hnone, finish_trap]

end

section
variable {o : FmtM} {s : State} {k : Nat} {c : Crew}

theorem exec_of_mem_loadForms : ∀ q ∈ loadForms o, exec q.1 s = loadWord o q.2.1 q.2.2 s := by
  simp only [loadForms, List.forall_mem_cons]
  exact ⟨rfl, rfl, rfl, rfl, rfl, rfl, rfl, fun _ h => nomatch h⟩

theorem exec_of_mem_storeForms : ∀ q ∈ storeForms o, exec q.1 s = storeWord o q.2 s := by
  simp only [storeForms, List.forall_mem_cons]
  exact ⟨rfl, rfl, rfl, rfl, fun _ h => nomatch h⟩

theorem exec_lds : exec (.lds o) s = execLds o s := rfl

/-- A load that runs with a clean address (R144, R145). -/
theorem loadWord_clean {bytes : Nat} {zext : Bool}
    (h : WordRuns s k .s c .s false (guardM o) [(.x, o.ra.toNat)]) (htag : tagX s c 0 o.ra = false) :
    loadWord o bytes zext s = finish s k .s c [(.x, o.ra.toNat, o.la)]
      (if (addressM s c o).toNat % bytes ≠ 0 then .trap 0x05 (addressM s c o)
      else issueAccess s k (awaits s c o.rd true) (Claims.entryOf s c (.load bytes zext) (addressM s c o) 0 0 o.ord o.rd.toNat)) := by
  rw [loadWord, runWord_runs h]
  simp only [poisonedX_single htag]
  rfl

theorem loadWord_poisoned {bytes : Nat} {zext : Bool}
    (h : WordRuns s k .s c .s false (guardM o) [(.x, o.ra.toNat)]) (htag : tagX s c 0 o.ra = true) :
    loadWord o bytes zext s = .next (wordTrap s k .s c 0x04 (BitVec.ofNat 64 o.ra.toNat)) := by
  rw [loadWord, runWord_runs h]
  simp only [poisonedX_single_poisoned htag]
  rfl

theorem poisonedX_pair {n m : Nat} {r t : BitVec 6} (hn : tagX s c n r = false) (hm : tagX s c m t = false) :
    poisonedX s c [(n, r), (m, t)] = none := by simp [poisonedX, hn, hm]

theorem poisonedX_pair_first {n m : Nat} {r t : BitVec 6} (hn : tagX s c n r = true) :
    poisonedX s c [(n, r), (m, t)] = some (BitVec.ofNat 64 r.toNat) := by simp [poisonedX, hn, regCode]

theorem poisonedX_pair_second {n m : Nat} {r t : BitVec 6} (hn : tagX s c n r = false) (hm : tagX s c m t = true) :
    poisonedX s c [(n, r), (m, t)] = some (BitVec.ofNat 64 t.toNat) := by simp [poisonedX, hn, hm, regCode]

/-- A store that runs (R144, R146, R149). -/
theorem storeWord_runs {bytes : Nat}
    (h : WordRuns s k .s c .s false (guardM o) [(.x, o.ra.toNat), (.x, o.rd.toNat)]) :
    storeWord o bytes s = finish s k .s c [(.x, o.ra.toNat, o.la), (.x, o.rd.toNat, o.ld)]
      (match poisonedX s c [(0, o.ra), (1, o.rd)] with
      | some p => .trap 0x04 p
      | none =>
        if (addressM s c o).toNat % bytes ≠ 0 then .trap 0x05 (addressM s c o)
        else issueAccess s k c (Claims.entryOf s c (.store bytes) (addressM s c o) (readX s c 1 o.rd) 0 o.ord 0)) := by
  rw [storeWord, runWord_runs h]
  rfl

end

theorem loadsAndStoresIssue : LoadsAndStoresIssue := by
  intro o s k c a
  refine ⟨fun h htag => ⟨fun q hq ha => ?_, fun ha => ?_⟩, fun h hta htd q hq ha => ?_⟩
  · refine joinsLog_of_issueAccess ?_
    rw [exec_of_mem_loadForms q hq, loadWord_clean h htag]
    exact congrArg (finish s k .s c _) (if_neg (Classical.not_not.2 ha))
  · refine joinsLog_of_issueAccess ?_
    have hclean : ¬ (tagX s c 0 o.ra || decide (a.toNat % 8 ≠ 0)) = true := by simp [htag, ha]
    rw [exec_lds, execLds, guardM, runWord_runs h]
    exact congrArg (finish s k .s c _) (if_neg hclean)
  · refine joinsLog_of_issueAccess ?_
    rw [exec_of_mem_storeForms q hq, storeWord_runs h, poisonedX_pair hta htd]
    exact congrArg (finish s k .s c _) (if_neg (Classical.not_not.2 ha))

theorem misalignedAndPoisonedAddresses : MisalignedAndPoisonedAddresses := by
  intro o s k c a
  refine ⟨fun h => ⟨fun q hq => ⟨fun htag ha => ?_, fun htag => ?_⟩, fun hbad => ?_⟩,
    fun h q hq => ⟨fun hta htd ha => ?_, fun hta => ?_, fun hta htd => ?_⟩⟩
  · rw [exec_of_mem_loadForms q hq, loadWord_clean h htag]
    exact congrArg (finish s k .s c _) (if_pos ha)
  · rw [exec_of_mem_loadForms q hq, loadWord_poisoned h htag]
  · have hpoisoned : (tagX s c 0 o.ra || decide (a.toNat % 8 ≠ 0)) = true := by simpa using hbad
    rw [exec_lds, execLds, guardM, runWord_runs h]
    exact congrArg (finish s k .s c _) (if_pos hpoisoned)
  · rw [exec_of_mem_storeForms q hq, storeWord_runs h, poisonedX_pair hta htd]
    exact congrArg (finish s k .s c _) (if_pos ha)
  · rw [exec_of_mem_storeForms q hq, storeWord_runs h, poisonedX_pair_first hta]
    rfl
  · rw [exec_of_mem_storeForms q hq, storeWord_runs h, poisonedX_pair_second hta htd]
    rfl

/-- Settles O17: an aligned clean access joins the log by `issueAccess_joined`, any other traps or poisons its result. -/
theorem scalarMemoryWordsIssue : Obligations.ScalarMemoryWordsIssue :=
  ⟨loadsAndStoresIssue, misalignedAndPoisonedAddresses⟩

end Sys2Proof.Machine
end

/-! ### Atomics, fences, waits, core semaphores and CANCEL (R132 to R135, R342 to R349) -/

section
namespace Sys2Proof.Machine
open Sys2Proof.Claims Sys2Proof.Config

section
variable (o : FmtA) (s : State)

theorem exec_acas : exec (.acas o) s = atomicWord o 7 true s := rfl
theorem exec_spawn : exec (.spawn o) s = execSpawn o s := rfl
theorem exec_joindec : exec (.joindec o) s = execJoindec o s := rfl
theorem exec_fence : exec (.fence o) s = execFence o s := rfl
theorem exec_fenceAll : exec (.fenceAll o) s = execFenceAll o s := rfl
theorem exec_msemsig : exec (.msemsig o) s = execMsemsig o s := rfl
theorem exec_msemwait : exec (.msemwait o) s = execMsemwait o s := rfl
theorem exec_waitc : exec (.waitc o) s = execWaitc o s := rfl
theorem exec_seminit : exec (.seminit o) s = execSeminit o s := rfl
theorem exec_semsig : exec (.semsig o) s = execSemsig o s := rfl
theorem exec_semwait : exec (.semwait o) s = execSemwait o s := rfl
theorem exec_cancel : exec (.cancel o) s = execCancel o s := rfl

variable {o s}

theorem exec_of_mem_atomicForms : ∀ q ∈ atomicForms o, exec q.1 s = atomicWord o q.2 false s := by
  simp only [atomicForms, List.forall_mem_cons]
  exact ⟨rfl, rfl, rfl, rfl, rfl, rfl, rfl, rfl, fun _ h => nomatch h⟩

theorem poisonedX_two {c : Crew} (ha : tagX s c 0 o.ra = false) (hb : tagX s c 1 o.rb = false) :
    poisonedX s c (numberedA o 2) = none := poisonedX_pair ha hb

theorem poisonedX_three {c : Crew} (ha : tagX s c 0 o.ra = false) (hb : tagX s c 1 o.rb = false) (hc : tagX s c 2 o.rc = false) :
    poisonedX s c (numberedA o 3) = none := by simp [poisonedX, numberedA, ha, hb, hc]

end

theorem atomicAndOrderingWordsIssue : AtomicAndOrderingWordsIssue := by
  intro o s k c a b ord
  refine ⟨fun h hta htb ha q hq => ?atomic, fun h hta htb htc ha => ?acas, fun h hta => ⟨fun ha => ?spawn, fun ha => ?joindec,
    ?fence⟩, fun h hta htb ha hb => ?msemsig, fun h => ?fenceAll⟩
  case atomic =>
    refine joinsLog_of_issueAccess ?_
    rw [exec_of_mem_atomicForms q hq, atomicWord]
    simp only [Bool.false_eq_true, if_false]
    rw [runWord_runs h]
    simp only [poisonedX_two hta htb]
    exact congrArg (finish s k .s c _) (if_neg (Classical.not_not.2 ha))
  case acas =>
    refine joinsLog_of_issueAccess ?_
    rw [exec_acas, atomicWord, if_pos rfl, runWord_runs h]
    simp only [if_true, poisonedX_three hta htb htc]
    exact congrArg (finish s k .s c _) (if_neg (Classical.not_not.2 ha))
  case spawn =>
    refine joinsLog_of_issueAccess ?_
    rw [exec_spawn, execSpawn, runWord_runs h]
    simp only [poisonedX_single hta]
    exact congrArg (finish s k .s c _) (if_neg (Classical.not_not.2 ha))
  case joindec =>
    refine joinsLog_of_issueAccess ?_
    rw [exec_joindec, execJoindec, runWord_runs h]
    simp only [poisonedX_single hta]
    exact congrArg (finish s k .s c _) (if_neg (Classical.not_not.2 ha))
  case fence =>
    refine joinsLog_of_issueAccess ?_
    rw [exec_fence, execFence, runWord_runs h]
    simp only [poisonedX_single hta]
    rfl
  case msemsig =>
    refine joinsLog_of_issueAccess ?_
    rw [exec_msemsig, execMsemsig, runWord_runs h]
    simp only [poisonedX_two hta htb]
    exact congrArg (finish s k .s c _) ((if_neg (Classical.not_not.2 ha)).trans (if_neg hb))
  case fenceAll =>
    rw [exec_fenceAll, execFenceAll, runWord_runs h, finish_done]
    rfl

section
variable {s : State} {k : Nat} {c : Crew} {e : LogEntry} {f : Word → Effect} {frees : List (RegFile × Nat × Bool)}

theorem memoryWait_met {v : Word} (h : c.waitValue = some v) : memoryWait s k c e f = f v := by
  unfold memoryWait
  rw [h]

theorem memoryWait_waits (h : c.waitValue = none) (hw : (waitEntry c).isSome = true) : memoryWait s k c e f = .stall s := by
  obtain ⟨w, hw⟩ := Option.isSome_iff_exists.1 hw
  unfold memoryWait
  rw [h, hw]

theorem memoryWait_issues {t : State} {d : Crew} (h : c.waitValue = none) (hw : waitEntry c = none)
    (hi : issueAccess s k c e = .done t d) : memoryWait s k c e f = .stall (putCrew t k d) := by
  unfold memoryWait
  rw [h, hw, hi]

theorem memoryWait_traps {code : BitVec 8} {a : Word} (h : c.waitValue = none) (hw : waitEntry c = none)
    (hi : issueAccess s k c e = .trap code a) : memoryWait s k c e f = .trap code a := by
  unfold memoryWait
  rw [h, hw, hi]

theorem memoryWait_begins (h : c.waitValue = none) (hw : waitEntry c = none) :
    (∀ u, joined s k c e = some u → finish s k .s c frees (memoryWait s k c e f) =
      .next (putCrew u k ((crewAt u k).getD { c with log := c.log ++ [e] }))) ∧
    (joined s k c e = none → finish s k .s c frees (memoryWait s k c e f) = .next (wordTrap s k .s c 0x12 e.opa)) := by
  refine ⟨fun u hu => ?_, fun hnone => ?_⟩
  · obtain ⟨t, ht, hput⟩ := issueAccess_joined hu
    rw [memoryWait_issues h hw ht, finish_stall, hput]
  · rw [memoryWait_traps h hw (issueAccess_unjoined hnone), finish_trap]

end

theorem memoryWaitsStallAndIssue : MemoryWaitsStallAndIssue := by
  intro o s k c hta ha begins
  refine ⟨fun h htb => ?waitc, fun h => ?msemwait⟩
  case waitc =>
    have hexec : exec (.waitc o) s = finish s k .s c (freesA o) (memoryWait s k c
        (Claims.entryOf s c .waitc (readX s c 0 o.ra) (readX s c 1 o.rb) 0 2 o.rd.toNat) fun v =>
          .done s { pendX c .s o.rd v false 1 with waitValue := none }) := by
      rw [exec_waitc, execWaitc, runWord_runs h]
      simp only [poisonedX_two hta htb]
      exact congrArg (finish s k .s c _) (if_neg (Classical.not_not.2 ha))
    refine ⟨fun v hv => ?_, fun hv hw => ?_, fun hv hw => ?_⟩
    · rw [hexec, memoryWait_met hv, finish_done]
    · rw [hexec, memoryWait_waits hv hw, finish_stall]
    · rw [hexec]
      exact memoryWait_begins hv hw
  case msemwait =>
    have hexec : exec (.msemwait o) s = finish s k .s c (freesA o) (memoryWait s k c
        (Claims.entryOf s c .msemwait (readX s c 0 o.ra) 0 0 2 0) fun _ => .done s { c with waitValue := none }) := by
      rw [exec_msemwait, execMsemwait, runWord_runs h]
      simp only [poisonedX_single hta]
      exact congrArg (finish s k .s c _) (if_neg (Classical.not_not.2 ha))
    refine ⟨fun v hv => ?_, fun hv hw => ?_, fun hv hw => ?_⟩
    · rw [hexec, memoryWait_met hv, finish_done]
    · rw [hexec, memoryWait_waits hv hw, finish_stall]
    · rw [hexec]
      exact memoryWait_begins hv hw

/-- Settles O18: an aligned clean access joins the log by `issueAccess_joined`; a wait begins with one and ends with its value. -/
theorem atomicOrderingAndWaitWordsIssue : Obligations.AtomicOrderingAndWaitWordsIssue :=
  ⟨atomicAndOrderingWordsIssue, memoryWaitsStallAndIssue⟩

theorem initPending_iff {c : Crew} {n seq : Nat} :
    initPending c n seq = true ↔ ∃ e ∈ c.log, e.kind = .seminit n ∧ e.seq < seq := by
  rw [initPending, List.any_eq_true]
  refine exists_congr fun e => and_congr_right fun _ => ?_
  rw [Bool.and_eq_true, decide_eq_true_iff, and_comm]
  refine and_congr_left fun _ => ?_
  cases he : e.kind <;> simp

section
variable {o : FmtA} {s : State} {k : Nat} {c : Crew} {reads : List (RegFile × Nat)}

/-- A core-semaphore word on a bench runs its body (R342). -/
theorem semWord_bench {n : Nat} (h : WordRuns s k .s c .s false (guardA o) ((readsA o 1).take n)) (hr : isReeve k = false)
    (body : State → Nat → Stream → Crew → Effect) :
    semWord o n s body = finish s k .s c [(.x, o.ra.toNat, o.la)] (body s k .s c) := by
  rw [semWord, runWord_runs h, if_neg (Bool.eq_false_iff.1 hr)]

/-- A core-semaphore word on a Reeve is illegal (R342). -/
theorem semWord_reeve {n : Nat} (h : WordRuns s k .s c .s false (guardA o) ((readsA o 1).take n)) (hr : isReeve k = true)
    (body : State → Nat → Stream → Crew → Effect) : semWord o n s body = .next (wordTrap s k .s c 0x01 0) := by
  rw [semWord, runWord_runs h, if_pos hr, finish_trap]

end

theorem coreSemaphoreWords : CoreSemaphoreWords := by
  intro o s k c v one n core m frees initAhead entry
  have hinit : initAhead ↔ initPending c n s.stamp = true := initPending_iff.symm
  refine ⟨fun h hr hta => ?count, fun h hr => ?wait, fun hr => ⟨fun h => ⟨?reeveInit, ?reeveSig⟩, fun h => ?reeveWait⟩⟩
  case count =>
    have hinitWord : exec (.seminit o) s = finish s k .s c frees
        (if bits v 63 32 != 0 then .trap 0x01 0xB
        else if signalsPending c then .done (bump s) { c with log := c.log ++ [entry (.seminit n) v] }
        else .done (putSem s core n { m with count := v.truncate 32 }) c) := by
      rw [exec_seminit, execSeminit, semWord_bench h hr]
      simp only [poisonedX_single hta]
      rfl
    have hsigWord : exec (.semsig o) s = finish s k .s c frees
        (if one = 0 || bits one 63 32 != 0 then .trap 0x01 0xB
        else .done (bump s) { c with log := c.log ++ [entry (.semsig n) one] }) := by
      rw [exec_semsig, execSemsig, semWord_bench h hr]
      simp only [poisonedX_single hta]
      rfl
    refine ⟨fun hv hp => ?_, fun hv hp => ?_, fun hv => ?_, fun ho hb => ?_, fun hb => ?_⟩
    · rw [hinitWord, hv, hp]
      rfl
    · rw [hinitWord, hv, hp]
      rfl
    · rw [hinitWord, if_pos (bne_iff_ne.2 hv), finish_trap]
    · rw [hsigWord, if_neg (by rw [hb]; simpa using ho), finish_done]
      rfl
    · rw [hsigWord, if_pos (by simpa using hb), finish_trap]
  case wait =>
    have hwaitWord : exec (.semwait o) s = finish s k .s c frees
        (if initPending c n s.stamp then .stall s
        else if semMay s core n (.crew k) then .done (semTake s core n (.crew k)) c
        else .stall (semJoin s core n (.crew k))) := by
      rw [exec_semwait, execSemwait, semWord_bench h hr]
    refine ⟨fun hi => ?_, fun hi hmay => ?_, fun hi hmay => ?_⟩
    · rw [hwaitWord, if_pos (hinit.1 hi), finish_stall]
    · rw [hwaitWord, if_neg (mt hinit.2 hi), if_pos hmay, finish_done]
      rfl
    · rw [hwaitWord, if_neg (mt hinit.2 hi), if_neg (Bool.eq_false_iff.1 hmay), finish_stall]
  case reeveInit => rw [exec_seminit, execSeminit, semWord_reeve h hr]
  case reeveSig => rw [exec_semsig, execSemsig, semWord_reeve h hr]
  case reeveWait => rw [exec_semwait, execSemwait, semWord_reeve h hr]

theorem cancelGivesItsStatus : CancelGivesItsStatus := by
  intro o s k c ids kind l ends own h hta htb
  have hc : (crewAt s k).getD c = c := by
    obtain ⟨-, hc, -⟩ := h
    rw [hc, Option.getD_some]
  have hends : ∀ (s' : State) (d : Crew) (status : Nat), (crewAt s' k).getD c = d →
      cancelRequest s (if isReeve k then none else some (jobOf s c)) ids (readX s c 1 o.rb) = (status, s') →
      ends s' d (BitVec.ofNat 64 status) := by
    intro s' d status hd hreq
    show exec _ s = _
    rw [exec_cancel, execCancel, runWord_runs h]
    simp only [poisonedX_two hta htb]
    rw [hreq, hd]
    rfl
  have hother : (match if isReeve k then none else some (jobOf s c) with | some j => j != bits ids 43 40 | none => false) = true ↔
      ¬ own := by
    by_cases hr : isReeve k = true <;> simp [own, hr]
  have hkind : 1 ≤ kind ∧ kind ≤ 4 → ¬ (kind = 0 ∨ 4 < kind) := by omega
  refine ⟨fun hk => ?_, fun hk ho => ?_, fun hk ho hl => ?_, fun hk ho hs hj => ?_⟩
  · exact hends s c 3 hc (if_pos hk)
  · exact hends s c 2 hc ((if_neg (hkind hk)).trans (if_pos (hother.2 ho)))
  · refine hends s c 1 hc ((if_neg (hkind hk)).trans ((if_neg (Classical.not_not.2 ho ∘ hother.1)).trans (if_neg ?_)))
    simpa [Decidable.imp_iff_not_or] using hl
  · refine hends _ _ 0 rfl ((if_neg (hkind hk)).trans ((if_neg (Classical.not_not.2 ho ∘ hother.1)).trans (if_pos ?_)))
    simpa using ⟨hs, hj⟩

/-- Settles O19: each word has one end for each case of its rule, on the count, the signals ahead of it, or the level named. -/
theorem coreSemaphoreAndCancelWords : Obligations.CoreSemaphoreAndCancelWords :=
  ⟨coreSemaphoreWords, cancelGivesItsStatus⟩

end Sys2Proof.Machine
end

/-! ### Vector elements and the words that compute them (R179 to R189) -/

section
namespace Sys2Proof.Machine
open Sys2Proof.Claims Sys2Proof.Config

/-! #### Groups of registers (R179) -/

/-- Of the numbers below k × m, those that are r modulo k. -/
theorem filter_range_mul {k r : Nat} (m : Nat) (hr : r < k) :
    (List.range (k * m)).filter (fun i => i % k == r) = (List.range m).map (fun j => j * k + r) := by
  induction m with
  | zero => simp
  | succ m ih =>
    have hblock : ((List.range k).map (k * m + ·)).filter (fun i => i % k == r) = [k * m + r] := by
      rw [List.filter_map]
      have hp : ∀ i ∈ List.range k, ((fun i => i % k == r) ∘ (k * m + ·)) i = (i == r) := by
        intro i hi
        simp [Nat.mod_eq_of_lt (List.mem_range.1 hi)]
      rw [List.filter_congr hp]
      have hone : (List.range k).filter (fun i => i == r) = [r] := by
        rw [List.filter_beq, List.nodup_range.count, if_pos (List.mem_range.2 hr)]
        rfl
      rw [hone, List.map_singleton]
    rw [Nat.mul_succ, List.range_add, List.filter_append, ih, hblock, List.range_succ, List.map_append, List.map_singleton,
      Nat.mul_comm m k]

/-- The part of a list that register r of a group of k takes: every k-th element from r on (R179). -/
theorem groupPart_map {α : Type} {k r : Nat} (f : Nat → α) (m : Nat) (hr : r < k) :
    groupPart k r ((List.range (k * m)).map f) = (List.range m).map (fun j => f (j * k + r)) := by
  have hzip : ((List.range (k * m)).map f).zipIdx = (List.range (k * m)).map (fun i => (f i, i)) := by
    refine List.ext_getElem (by simp) fun i _ _ => ?_
    simp
  rw [groupPart, hzip, List.filter_map, List.map_map]
  have hp : ((fun q : α × Nat => q.2 % k == r) ∘ fun i => (f i, i)) = fun i => i % k == r := rfl
  rw [hp, filter_range_mul m hr, List.map_map]
  rfl

/-- What element i receives: nothing where it is inactive. -/
def elementOf (g : PredReg) (w : Nat) (value : Nat → Nat × FlagSet) (i : Nat) : Option (Nat × FlagSet) :=
  if active g w i then some (value i) else none

theorem onActive_eq (g : PredReg) (w n : Nat) (value : Nat → Nat × FlagSet) :
    onActive g w n value = (List.range n).map (elementOf g w value) := rfl

theorem putGroup_one (c : Crew) (r w : Nat) (z : Bool) (g : PredReg) (u n : Nat) (value : Nat → Nat × FlagSet) (bound : Nat) :
    putGroup c r 1 w z (onActive g u n value) bound = putRegister c r w z (onActive g u n value) bound := by
  have hpart : groupPart 1 0 (onActive g u n value) = onActive g u n value := by
    have := groupPart_map (k := 1) (r := 0) (elementOf g u value) n (by decide)
    rw [onActive_eq]
    simpa using this
  show putRegister c (r + 0) w z (groupPart 1 0 (onActive g u n value)) bound = _
  rw [hpart, Nat.add_zero]

/-- The pending writes that putGroup adds: register j of the group takes the list L j (R179, R181). -/
theorem foldl_putRegister_spec (c : Crew) (r w : Nat) (z : Bool) (L : Nat → List (Option (Nat × FlagSet))) (bound k : Nat)
    (fit : ∀ j < k, w * (L j).length ≤ 4096) :
    ∃ ps : List (Pend 4096),
      (List.range k).foldl (fun c j => putRegister c (r + j) w z (L j) bound) c = { c with pendV := c.pendV ++ ps } ∧
      ps.length = k ∧
      ∀ j (h : j < ps.length), ps[j].reg = r + j ∧ ps[j].issued = c.counter ∧ ps[j].land = .count (c.counter + bound) ∧
        ps[j].ready = true ∧ ps[j].poison = false ∧
        ∀ i (hi : i < (L j).length),
          elem w ps[j].val i = elementValue (L j)[i] % 2 ^ w ∧
          elem w ps[j].mask i = if ((L j)[i]).isSome || z then 2 ^ w - 1 else 0 := by
  induction k with
  | zero => exact ⟨[], by simp, rfl, fun j h => absurd h (Nat.not_lt_zero j)⟩
  | succ k ih =>
    obtain ⟨ps, hfold, hlen, hps⟩ := ih fun j hj => fit j (Nat.lt_succ_of_lt hj)
    obtain ⟨p, hput, hp⟩ := putRegister_spec { c with pendV := c.pendV ++ ps } (r + k) w z (L k) bound (fit k (Nat.lt_succ_self k))
    refine ⟨ps ++ [p], ?_, by simp [hlen], fun j hj => ?_⟩
    · rw [List.range_succ, List.foldl_append, hfold, List.foldl_cons, List.foldl_nil, hput, List.append_assoc]
    · by_cases h : j < ps.length
      · rw [List.getElem_append_left h]
        exact hps j h
      · have hjk : j = k := by simp at hj; omega
        subst hjk
        have hlast : (ps ++ [p])[j] = p := by simp [← hlen]
        rw [hlast]
        exact hp

/-- A group of registers takes its elements (R179, R181). -/
theorem putGroup_holdsElements (c : Crew) (g : PredReg) (z : Bool) (w wd kd n reg bound : Nat) (value : Nat → Nat × FlagSet)
    (fit : 0 < kd → ∃ m, n = kd * m ∧ wd * m ≤ 4096) :
    ∃ ps, putGroup c reg kd wd z (onActive g w n value) bound = { c with pendV := c.pendV ++ ps } ∧
      holdsElements c ps g z w wd kd n reg bound value := by
  rcases Nat.eq_zero_or_pos kd with rfl | hkd
  · refine ⟨[], by simp [putGroup], rfl, fun r h => absurd h (Nat.not_lt_zero r), fun i _ h => absurd h (Nat.not_lt_zero _)⟩
  · obtain ⟨m, rfl, hm⟩ := fit hkd
    have hpart : ∀ r < kd, groupPart kd r (onActive g w (kd * m) value) =
        (List.range m).map fun j => elementOf g w value (j * kd + r) := fun r hr => groupPart_map _ m hr
    obtain ⟨ps, hput, hlen, hps⟩ := foldl_putRegister_spec c reg wd z (fun j => groupPart kd j (onActive g w (kd * m) value))
      bound kd (fun j hj => by simpa [hpart j hj] using hm)
    refine ⟨ps, hput, hlen, fun r h => ?_, fun i hi h => ?_⟩
    · obtain ⟨hreg, hissued, hland, hready, hpoison, -⟩ := hps r h
      exact ⟨hreg, hissued, hland, hready, hpoison⟩
    · obtain ⟨-, -, -, -, -, helem⟩ := hps (i % kd) h
      have hlt : i / kd < m := Nat.div_lt_of_lt_mul hi
      have hr : i % kd < kd := Nat.mod_lt i hkd
      obtain ⟨hval, hmask⟩ := helem (i / kd) (by simpa [hpart _ hr] using hlt)
      have hget : (groupPart kd (i % kd) (onActive g w (kd * m) value))[i / kd]'(by simpa [hpart _ hr] using hlt) =
          elementOf g w value i := by
        simp only [hpart _ hr, List.getElem_map, List.getElem_range]
        rw [Nat.mul_comm, Nat.div_add_mod]
      rw [hget] at hval hmask
      refine ⟨fun ha => ⟨?_, ?_⟩, fun ha => ⟨?_, ?_⟩⟩
      · rw [hmask, elementOf, if_pos ha]
        rfl
      · rw [hval, elementOf, if_pos ha]
        rfl
      · rw [hmask, elementOf, if_neg (Bool.eq_false_iff.1 ha)]
        simp
      · rw [hval, elementOf, if_neg (Bool.eq_false_iff.1 ha)]
        simp [elementValue]

/-! #### The end of a vector word -/

theorem gathered_onActive (g : PredReg) (w n : Nat) (value : Nat → Nat × FlagSet) :
    gathered (onActive g w n value) = flagsOf g w n value := by
  rw [gathered, onActive, flagsOf, List.map_map]
  refine congrArg orFlags (List.map_congr_left fun i _ => ?_)
  simp only [Function.comp]
  by_cases h : active g w i = true
  · rw [if_pos h, if_pos h]
  · rw [if_neg h, if_neg h]

/-- The crew at the end of a vector word (R162, R165, R185). -/
theorem advanceRandom_raiseFlags (c : Crew) (ps : List (Pend 4096)) (occupancy bound : Nat) (flags : FlagSet) (mod : BitVec 6)
    (rounds : Bool) :
    advanceRandom (raiseFlags { hold c .pipe occupancy with pendV := c.pendV ++ ps } flags bound) mod rounds =
      afterVector c ps occupancy flags bound (rounds && modeCode c mod == 5) := by
  have hmode : ∀ d : Crew, d.frm = c.frm → modeCode d mod = modeCode c mod := fun d hd => by rw [modeCode, modeCode, hd]
  unfold advanceRandom raiseFlags afterVector
  by_cases hf : flags = 0
  · rw [if_pos hf, if_pos hf, hmode]
    · split <;> rfl
    · rfl
  · rw [if_neg hf, if_neg hf, hmode]
    · split <;> rfl
    · rfl

theorem orFlags_eq_zero {l : List FlagSet} (h : ∀ x ∈ l, x = 0) : orFlags l = 0 := by
  induction l with
  | nil => rfl
  | cons x l ih =>
    obtain ⟨hx, hl⟩ := List.forall_mem_cons.1 h
    rw [orFlags, List.foldl_cons, hx]
    exact ih hl

section
variable {i : Instr} {s : State} {k : Nat} {c : Crew} {o : FmtA} {f : VFrame} {w wd kd n bound occupancy : Nat}
  {value : Nat → Nat × FlagSet} {rounds : Bool} {body : State → Nat → Crew → PredReg → Effect}

/-- A vector word that writes a group of registers gives its elements. -/
theorem givesElements_of_putGroup (hi : exec i s = vectorWord f s body) (h : VectorRuns s k c f)
    (huse : f.use = some (.pipe, occupancy)) (fit : 0 < kd → ∃ m, n = kd * m ∧ wd * m ≤ 4096)
    (hbody : body s k (hold c .pipe occupancy) (guardBits s c f.pred f.pn) =
      .done s (advanceRandom (raiseFlags (putGroup (hold c .pipe occupancy) o.rd.toNat kd wd (zeroing o)
        (onActive (guardBits s c f.pred f.pn) w n value) bound)
        (gathered (onActive (guardBits s c f.pred f.pn) w n value)) bound) o.mod rounds)) :
    givesElements i s k c o f w wd kd n bound value occupancy rounds := by
  obtain ⟨ps, hput, hps⟩ := putGroup_holdsElements (hold c .pipe occupancy) (guardBits s c f.pred f.pn) (zeroing o) w wd kd n
    o.rd.toNat bound value fit
  refine ⟨ps, hps, ?_⟩
  rw [hi, vectorWord_runs h, huse]
  refine (congrArg (finish s k .v c f.frees) hbody).trans ?_
  rw [finish_done, hput, gathered_onActive]
  exact congrArg (fun d => Host.Outcome.next (issued s k .v d f.frees)) (advanceRandom_raiseFlags c ps _ _ _ _ _)

/-- A vector word that writes one register gives its elements. -/
theorem givesElements_of_putRegister (hi : exec i s = vectorWord f s body) (h : VectorRuns s k c f)
    (huse : f.use = some (.pipe, occupancy))
    (hbody : body s k (hold c .pipe occupancy) (guardBits s c f.pred f.pn) =
      .done s (advanceRandom (raiseFlags (putRegister (hold c .pipe occupancy) o.rd.toNat w (zeroing o)
        (onActive (guardBits s c f.pred f.pn) w (4096 / w) value) bound)
        (gathered (onActive (guardBits s c f.pred f.pn) w (4096 / w) value)) bound) o.mod rounds)) :
    givesElements i s k c o f w w 1 (4096 / w) bound value occupancy rounds := by
  refine givesElements_of_putGroup hi h huse (fun _ => ⟨4096 / w, (Nat.one_mul _).symm, Nat.mul_div_le 4096 w⟩) ?_
  rw [putGroup_one]
  exact hbody

/-- A vector word that writes one register, raises no flag and has no effective mode gives its elements. -/
theorem givesElements_of_exact {v : Nat → Nat} (hi : exec i s = vectorWord f s body) (h : VectorRuns s k c f)
    (huse : f.use = some (.pipe, occupancy))
    (hbody : body s k (hold c .pipe occupancy) (guardBits s c f.pred f.pn) =
      .done s (putRegister (hold c .pipe occupancy) o.rd.toNat w (zeroing o)
        (onActive (guardBits s c f.pred f.pn) w (4096 / w) fun j => (v j, 0)) bound)) :
    givesElements i s k c o f w w 1 (4096 / w) bound (fun j => (v j, 0)) occupancy false := by
  refine givesElements_of_putRegister hi h huse (hbody.trans ?_)
  have hflags : gathered (onActive (guardBits s c f.pred f.pn) w (4096 / w) fun j => (v j, 0)) = 0 := by
    rw [gathered_onActive, flagsOf]
    exact orFlags_eq_zero fun x hx => by
      obtain ⟨j, -, rfl⟩ := List.mem_map.1 hx
      exact ite_self 0
  rw [hflags]
  rfl

/-- An element-by-element form gives its elements (R181). -/
theorem givesElements_of_elementWord {sources : Nat} {op : Mode → Nat → Nat → Nat → Nat × FlagSet}
    (hi : exec i s = elementWord o sources bound rounds op s) (h : VectorRuns s k c (frameA o sources 2)) :
    givesElements i s k c o (frameA o sources 2) (typeWidth o.ty.toNat) (typeWidth o.ty.toNat) 1 (4096 / typeWidth o.ty.toNat)
      bound (fun j => op (if rounds then elementMode c o.mod j else .rne) (elem (typeWidth o.ty.toNat) (readV s c 0 o.ra.toNat) j)
        (elem (typeWidth o.ty.toNat) (readV s c 1 o.rb.toNat) j) (elem (typeWidth o.ty.toNat) (readV s c 2 o.rc.toNat) j))
      2 rounds :=
  givesElements_of_putRegister hi h rfl rfl

end

section
variable {w : Nat} {signed : Bool}

/-- A value within its type's range is its low bits, clamped or not (R186). -/
theorem intResult_of_range {sat : Bool} {v : Int} (hmin : intMin w signed ≤ v) (hmax : v ≤ intMax w signed) :
    intResult w signed sat v = wrapInt w v := by
  have hclamp : clampInt w signed v = v := by rw [clampInt, Int.min_eq_right hmax, Int.max_eq_right hmin]
  rw [intResult, hclamp, ite_self]

variable (x y : BitVec w)

/-- The integer that an element stands for lies in its type's range. -/
theorem intOf_range : intMin w signed ≤ intOf w signed x.toNat ∧ intOf w signed x.toNat ≤ intMax w signed := by
  have hx := x.isLt
  cases signed
  case false =>
    rw [intOf_unsigned, intMin, intMax, if_neg Bool.false_ne_true, if_neg Bool.false_ne_true]
    have : (x.toNat : Int) < 2 ^ w := by exact_mod_cast hx
    omega
  case true =>
    rw [intOf_signed, intMin, intMax, if_pos rfl, if_pos rfl]
    exact ⟨BitVec.le_toInt x, by have := @BitVec.toInt_lt w x; omega⟩

theorem intResult_intOf (sat : Bool) : intResult w signed sat (intOf w signed x.toNat) = x.toNat := by
  obtain ⟨hmin, hmax⟩ := intOf_range (signed := signed) x
  rw [intResult_of_range hmin hmax, wrapInt_intOf]

omit x y in
/-- A product of two integers of magnitude at most m has magnitude at most m². -/
theorem product_bounds {a b m : Int} (ha : -m ≤ a) (ha' : a ≤ m) (hb : -m ≤ b) (hb' : b ≤ m) :
    -(m * m) ≤ a * b ∧ a * b ≤ m * m := by
  have h₁ := Int.mul_nonneg (Int.sub_nonneg.2 ha') (Int.sub_nonneg.2 hb')
  have h₂ := Int.mul_nonneg (Int.sub_nonneg.2 ha) (Int.sub_nonneg.2 hb)
  have h₃ := Int.mul_nonneg (Int.sub_nonneg.2 ha') (Int.sub_nonneg.2 hb)
  have h₄ := Int.mul_nonneg (Int.sub_nonneg.2 ha) (Int.sub_nonneg.2 hb')
  simp only [Int.sub_mul, Int.mul_sub, Int.neg_mul, Int.mul_neg, Int.mul_comm m b] at h₁ h₂ h₃ h₄
  omega

/-- The upper half of a product lies in the type's range (R186). -/
theorem intResult_mulh (hw : 1 < w) (sat : Bool) :
    intResult w signed sat (intOf w signed x.toNat * intOf w signed y.toNat / 2 ^ w) =
      wrapInt w (intOf w signed x.toNat * intOf w signed y.toNat / 2 ^ w) := by
  obtain ⟨hxmin, hxmax⟩ := intOf_range (signed := signed) x
  obtain ⟨hymin, hymax⟩ := intOf_range (signed := signed) y
  have hpow : (2 : Int) ^ w = 2 * 2 ^ (w - 1) := by
    rw [← Int.pow_succ', Nat.sub_add_cancel (by omega)]
  have hone : (1 : Int) ≤ 2 ^ (w - 1) := Int.pow_pos (by decide)
  generalize intOf w signed x.toNat = a at *
  generalize intOf w signed y.toNat = b at *
  obtain ⟨m, hm⟩ : ∃ m, (2 : Int) ^ (w - 1) = m := ⟨_, rfl⟩
  rw [hm] at hpow hone
  have hpos : (0 : Int) < 2 * m := by omega
  cases signed
  case false =>
    rw [intMin, if_neg Bool.false_ne_true] at hxmin hymin
    rw [intMax, if_neg Bool.false_ne_true, hpow] at hxmax hymax
    refine intResult_of_range ?_ ?_
    · rw [intMin, if_neg Bool.false_ne_true, hpow]
      exact Int.ediv_nonneg (Int.mul_nonneg hxmin hymin) (Int.le_of_lt hpos)
    · rw [intMax, if_neg Bool.false_ne_true, hpow]
      exact Int.le_sub_one_of_lt (Int.ediv_lt_of_lt_mul hpos (Int.lt_of_le_of_lt
        (Int.mul_le_mul_of_nonneg_right (Int.le_trans hxmax (by omega)) hymin)
        (Int.mul_lt_mul_of_pos_left (Int.lt_of_le_of_lt hymax (by omega)) hpos)))
  case true =>
    rw [intMin, if_pos rfl, hm] at hxmin hymin
    rw [intMax, if_pos rfl, hm] at hxmax hymax
    obtain ⟨hlow, hhigh⟩ := product_bounds hxmin (by omega) hymin (by omega)
    have hsquare : 0 < m * m := Int.mul_pos hone hone
    have hdouble : m * (2 * m) = 2 * (m * m) := Int.mul_left_comm ..
    refine intResult_of_range ?_ ?_
    · rw [intMin, if_pos rfl, hpow, hm]
      exact (Int.le_ediv_iff_mul_le hpos).2 (by rw [Int.neg_mul]; omega)
    · rw [intMax, if_pos rfl, hpow, hm]
      exact Int.le_sub_one_of_lt (Int.ediv_lt_of_lt_mul hpos (by omega))

/-- The smaller of two elements, as the model takes it (R186). -/
theorem intResult_min (sat : Bool) :
    intResult w signed sat (if intOf w signed x.toNat ≤ intOf w signed y.toNat then intOf w signed x.toNat
        else intOf w signed y.toNat) =
      if intOf w signed x.toNat < intOf w signed y.toNat then x.toNat else y.toNat := by
  rcases Int.lt_trichotomy (intOf w signed x.toNat) (intOf w signed y.toNat) with h | h | h
  · rw [if_pos (Int.le_of_lt h), if_pos h, intResult_intOf x]
  · rw [if_pos (Int.le_of_eq h), if_neg (h ▸ Int.lt_irrefl _), h, intResult_intOf y]
  · rw [if_neg (Int.not_le.2 h), if_neg (Int.not_lt.2 (Int.le_of_lt h)), intResult_intOf y]

/-- The larger of two elements, as the model takes it (R186). -/
theorem intResult_max (sat : Bool) :
    intResult w signed sat (if intOf w signed y.toNat ≤ intOf w signed x.toNat then intOf w signed x.toNat
        else intOf w signed y.toNat) =
      if intOf w signed y.toNat < intOf w signed x.toNat then x.toNat else y.toNat := by
  rcases Int.lt_trichotomy (intOf w signed y.toNat) (intOf w signed x.toNat) with h | h | h
  · rw [if_pos (Int.le_of_lt h), if_pos h, intResult_intOf x]
  · rw [if_pos (Int.le_of_eq h), if_neg (h ▸ Int.lt_irrefl _), ← h, intResult_intOf y]
  · rw [if_neg (Int.not_le.2 h), if_neg (Int.not_lt.2 (Int.le_of_lt h)), intResult_intOf y]

end

/-- An element of a register as a value of its width. -/
theorem elem_eq_toNat (w : Nat) (v : VecReg) (i : Nat) : elem w v i = (BitVec.ofNat w (elem w v i)).toNat := by
  rw [BitVec.toNat_ofNat]
  exact (Nat.mod_mod _ _).symm

theorem typeWidth_mem (t : Nat) : typeWidth t ∈ [4, 8, 16, 32, 64] := by
  unfold typeWidth
  split <;> decide

theorem one_lt_typeWidth (t : Nat) : 1 < typeWidth t := by
  have := typeWidth_mem t
  simp at this
  omega

theorem arithWord_int {o : FmtA} {s : State} (h : formatOf o.ty.toNat = none) (n intBound fltBound : Nat) (rounds : Bool)
    (int : Int → Int → Int) (flt : Bool → Num → Num → Num → Num × FlagSet) :
    arithWord o n intBound fltBound rounds int flt s = elementWord o n intBound false (fun _ a b _ =>
      (intResult (typeWidth o.ty.toNat) (typeSigned o.ty.toNat) (saturating o)
        (int (intOf (typeWidth o.ty.toNat) (typeSigned o.ty.toNat) a) (intOf (typeWidth o.ty.toNat) (typeSigned o.ty.toNat) b)), 0))
      s := by
  simp only [arithWord, h]

theorem extremeWord_int {o : FmtA} {s : State} (h : formatOf o.ty.toNat = none) (max : Bool) :
    extremeWord o max s = elementWord o 2 2 false (fun _ a b _ =>
      (if max then
          if intOf (typeWidth o.ty.toNat) (typeSigned o.ty.toNat) b < intOf (typeWidth o.ty.toNat) (typeSigned o.ty.toNat) a
          then a else b
        else if intOf (typeWidth o.ty.toNat) (typeSigned o.ty.toNat) a < intOf (typeWidth o.ty.toNat) (typeSigned o.ty.toNat) b
          then a else b, 0)) s := by
  simp only [extremeWord, h]

theorem signWord_int {o : FmtA} {s : State} (h : formatOf o.ty.toNat = none) (int : Int → Int) (flt : Nat → Nat → Nat) :
    signWord o int flt s = elementWord o 1 2 false (fun _ a _ _ =>
      (intResult (typeWidth o.ty.toNat) (typeSigned o.ty.toNat) (saturating o)
        (int (intOf (typeWidth o.ty.toNat) (typeSigned o.ty.toNat) a)), 0)) s := by
  simp only [signWord, h]

section
variable (o : FmtA) (s : State)

theorem exec_vadd : exec (.vadd o) s = arithWord o 2 2 4 true (· + ·) (fun rd a b _ => addNum rd a b) s := rfl
theorem exec_vsub : exec (.vsub o) s = arithWord o 2 2 4 true (· - ·) (fun rd a b _ => addNum rd a b.negate) s := rfl
theorem exec_vmul : exec (.vmul o) s = arithWord o 2 4 4 true (· * ·) (fun _ a b _ => mulNum a b) s := rfl
theorem exec_vabd : exec (.vabd o) s = arithWord o 2 2 4 true (fun a b => (a - b).natAbs)
    (fun rd a b _ => ((addNum rd a b.negate).1.abs, (addNum rd a b.negate).2)) s := rfl
theorem exec_vmulh : exec (.vmulh o) s = elementWord o 2 4 false (fun _ a b _ =>
    (wrapInt (typeWidth o.ty.toNat) (intOf (typeWidth o.ty.toNat) (typeSigned o.ty.toNat) a *
      intOf (typeWidth o.ty.toNat) (typeSigned o.ty.toNat) b / 2 ^ typeWidth o.ty.toNat), 0)) s := rfl
theorem exec_vmin : exec (.vmin o) s = extremeWord o false s := rfl
theorem exec_vmax : exec (.vmax o) s = extremeWord o true s := rfl
theorem exec_vabs : exec (.vabs o) s = signWord o (fun a => a.natAbs) (fun w a => a % 2 ^ (w - 1)) s := rfl
theorem exec_vneg : exec (.vneg o) s = signWord o (fun a => -a) (fun w a => a ^^^ 2 ^ (w - 1)) s := rfl

end

/-- An integer form computes element by element the exact value of Table 07.3. -/
def ComputesInt (o : FmtA) (s : State) (q : Instr × Nat × Nat × (Int → Int → Int)) : Prop :=
  ∃ op, exec q.1 s = elementWord o q.2.1 q.2.2.1 false op s ∧
    ∀ (m : Mode) (x y : BitVec (typeWidth o.ty.toNat)) (d : Nat),
      op m x.toNat y.toNat d = (intResult (typeWidth o.ty.toNat) (typeSigned o.ty.toNat) (saturating o)
        (q.2.2.2 (intOf (typeWidth o.ty.toNat) (typeSigned o.ty.toNat) x.toNat)
          (intOf (typeWidth o.ty.toNat) (typeSigned o.ty.toNat) y.toNat)), 0)

theorem natAbs_eq_ite (z : Int) : (z.natAbs : Int) = if z < 0 then -z else z := by
  split <;> omega

theorem computesInt_integerForms {o : FmtA} {s : State} (hint : formatOf o.ty.toNat = none) :
    ∀ q ∈ integerForms o (typeWidth o.ty.toNat), ComputesInt o s q := by
  have hw : 1 < typeWidth o.ty.toNat := one_lt_typeWidth _
  simp only [integerForms, List.forall_mem_cons, List.not_mem_nil, false_imp_iff, implies_true, and_true]
  refine ⟨?add, ?sub, ?mul, ?mulh, ?min, ?max, ?abs, ?neg, ?abd⟩
  case add => exact ⟨_, (exec_vadd o s).trans (arithWord_int hint ..), fun _ _ _ _ => rfl⟩
  case sub => exact ⟨_, (exec_vsub o s).trans (arithWord_int hint ..), fun _ _ _ _ => rfl⟩
  case mul => exact ⟨_, (exec_vmul o s).trans (arithWord_int hint ..), fun _ _ _ _ => rfl⟩
  case mulh => exact ⟨_, exec_vmulh o s, fun _ x y _ => by simp only [intResult_mulh x y hw]⟩
  case min =>
    refine ⟨_, (exec_vmin o s).trans (extremeWord_int hint _), fun _ x y _ => ?_⟩
    simp only [Bool.false_eq_true, if_false, intResult_min x y]
  case max =>
    refine ⟨_, (exec_vmax o s).trans (extremeWord_int hint _), fun _ x y _ => ?_⟩
    simp only [if_true, intResult_max x y]
  case abs => exact ⟨_, (exec_vabs o s).trans (signWord_int hint _ _), fun _ x y _ => by simp only [natAbs_eq_ite]⟩
  case neg => exact ⟨_, (exec_vneg o s).trans (signWord_int hint _ _), fun _ x y _ => rfl⟩
  case abd =>
    refine ⟨_, (exec_vabd o s).trans (arithWord_int hint ..), fun _ x y _ => ?_⟩
    simp only [natAbs_eq_ite, Prod.mk.injEq, and_true]
    refine congrArg _ ?_
    split <;> split <;> omega

theorem integerVectorElements : IntegerVectorElements := by
  intro o s k c hint w int q hq h
  obtain ⟨op, hexec, hop⟩ := computesInt_integerForms (s := s) hint q hq
  have hgives := givesElements_of_elementWord hexec h
  have hvalue : ∀ j d, op .rne (elem w (readV s c 0 o.ra.toNat) j) (elem w (readV s c 1 o.rb.toNat) j) d =
      (intResult w (typeSigned o.ty.toNat) (saturating o) (q.2.2.2 (int 0 j o.ra) (int 1 j o.rb)), 0) := by
    intro j d
    have := hop .rne (BitVec.ofNat w (elem w (readV s c 0 o.ra.toNat) j)) (BitVec.ofNat w (elem w (readV s c 1 o.rb.toNat) j)) d
    rwa [← elem_eq_toNat, ← elem_eq_toNat] at this
  simp only [Bool.false_eq_true, if_false] at hgives
  have hfun := funext fun j => hvalue j (elem w (readV s c 2 o.rc.toNat) j)
  exact hfun ▸ hgives

end Sys2Proof.Machine
end

/-! ### Logic and shift vector words (R189) -/

section
namespace Sys2Proof.Machine
open Sys2Proof.Claims Sys2Proof.Config

section
variable {w : Nat} (x y : BitVec w) {t : Nat} (ht : t < w)
include ht

theorem testBit_mod_width (v : Nat) : (v % 2 ^ w).testBit t = v.testBit t := by
  rw [Nat.testBit_mod_two_pow, decide_eq_true ht, Bool.true_and]

theorem testBit_ones : (2 ^ w - 1).testBit t = true := by
  rw [Nat.testBit_two_pow_sub_one, decide_eq_true ht]

theorem testBit_shl (n : Nat) : (x.toNat <<< n % 2 ^ w).testBit t = (decide (n ≤ t) && x.toNat.testBit (t - n)) := by
  rw [testBit_mod_width ht, Nat.testBit_shiftLeft]

omit ht in
theorem testBit_toNat_of_le {t : Nat} (h : w ≤ t) : x.toNat.testBit t = false :=
  Nat.testBit_lt_two_pow (Nat.lt_of_lt_of_le x.isLt (Nat.pow_le_pow_right (by decide) h))

theorem testBit_shr (n : Nat) : (x.toNat >>> n % 2 ^ w).testBit t = (decide (t + n < w) && x.toNat.testBit (t + n)) := by
  rw [testBit_mod_width ht, Nat.testBit_shiftRight, Nat.add_comm]
  by_cases h : t + n < w
  · rw [decide_eq_true h, Bool.true_and]
  · rw [testBit_toNat_of_le x (Nat.not_lt.1 h), Bool.and_false]

theorem testBit_sra (n : Nat) : (wrapInt w (intOf w true x.toNat / 2 ^ n) % 2 ^ w).testBit t =
    if t + n < w then x.toNat.testBit (t + n) else x.toNat.testBit (w - 1) := by
  have hdiv : wrapInt w (intOf w true x.toNat / 2 ^ n) = (x.sshiftRight n).toNat := by
    have hint : intOf w true x.toNat / 2 ^ n = (x.sshiftRight n).toInt := by
      rw [intOf_signed, BitVec.toInt_sshiftRight, Int.shiftRight_eq_div_pow]
      norm_cast
    rw [wrapInt_eq_toNat_ofInt, hint, BitVec.ofInt_toInt]
  rw [testBit_mod_width ht, hdiv, BitVec.testBit_toNat, BitVec.getLsbD_sshiftRight, BitVec.testBit_toNat, BitVec.testBit_toNat,
    decide_eq_false (Nat.not_le.2 ht), Nat.add_comm n t, BitVec.msb_eq_getLsbD_last]
  rfl

theorem testBit_rot {n : Nat} (hn : n < w) : ((x.toNat <<< n ||| x.toNat >>> (w - n)) % 2 ^ w).testBit t =
    x.toNat.testBit ((t + w - n) % w) := by
  rw [testBit_mod_width ht, Nat.testBit_or, Nat.testBit_shiftLeft, Nat.testBit_shiftRight]
  by_cases h : n ≤ t
  · have hhigh : x.toNat.testBit (w - n + t) = false := testBit_toNat_of_le x (by omega)
    have hpos : (t + w - n) % w = t - n := by
      rw [show t + w - n = t - n + w by omega, Nat.add_mod_right, Nat.mod_eq_of_lt (by omega)]
    rw [decide_eq_true h, hhigh, hpos, Bool.true_and, Bool.or_false]
  · have hpos : (t + w - n) % w = w - n + t := by
      rw [Nat.mod_eq_of_lt (by omega)]
      omega
    rw [decide_eq_false h, hpos, Bool.false_and, Bool.false_or]

end

section
variable (o : FmtA) (s : State)

theorem bitWord_eq (n : Nat) (f : Nat → Nat → Nat → Nat) : bitWord o n f s = elementWord o n 2 false (fun _ a b _ =>
    (f (typeWidth o.ty.toNat) a b % 2 ^ typeWidth o.ty.toNat, 0)) s := rfl
theorem exec_vand : exec (.vand o) s = bitWord o 2 (fun _ a b => a &&& b) s := rfl
theorem exec_vor : exec (.vor o) s = bitWord o 2 (fun _ a b => a ||| b) s := rfl
theorem exec_vxor : exec (.vxor o) s = bitWord o 2 (fun _ a b => a ^^^ b) s := rfl
theorem exec_vandn : exec (.vandn o) s = bitWord o 2 (fun w a b => a &&& (b ^^^ (2 ^ w - 1))) s := rfl
theorem exec_vnot : exec (.vnot o) s = bitWord o 1 (fun w a _ => a ^^^ (2 ^ w - 1)) s := rfl
theorem exec_vshl : exec (.vshl o) s = bitWord o 2 (fun w a b => a <<< (b % w)) s := rfl
theorem exec_vshr : exec (.vshr o) s = bitWord o 2 (fun w a b => a >>> (b % w)) s := rfl
theorem exec_vsra : exec (.vsra o) s = bitWord o 2 (fun w a b => wrapInt w (intOf w true a / 2 ^ (b % w))) s := rfl
theorem exec_vrot : exec (.vrot o) s = bitWord o 2 (fun w a b => (a <<< (b % w)) ||| (a >>> (w - b % w))) s := rfl

end

/-- A logic or shift form computes each bit of its elements as R189 names it. -/
def ComputesBits (o : FmtA) (s : State) (q : Instr × Nat × (Nat → Nat → Nat → Bool)) : Prop :=
  ∃ f, exec q.1 s = bitWord o q.2.1 f s ∧
    ∀ (x y : BitVec (typeWidth o.ty.toNat)) (t : Nat), t < typeWidth o.ty.toNat →
      (f (typeWidth o.ty.toNat) x.toNat y.toNat % 2 ^ typeWidth o.ty.toNat).testBit t = q.2.2 x.toNat y.toNat t

theorem computesBits_bitForms {o : FmtA} {s : State} : ∀ q ∈ bitForms o (typeWidth o.ty.toNat), ComputesBits o s q := by
  have hw : 1 < typeWidth o.ty.toNat := one_lt_typeWidth _
  simp only [bitForms, List.forall_mem_cons, List.not_mem_nil, false_imp_iff, implies_true, and_true]
  refine ⟨⟨_, exec_vand o s, fun x y t ht => ?_⟩, ⟨_, exec_vor o s, fun x y t ht => ?_⟩, ⟨_, exec_vxor o s, fun x y t ht => ?_⟩,
    ⟨_, exec_vandn o s, fun x y t ht => ?_⟩, ⟨_, exec_vnot o s, fun x y t ht => ?_⟩,
    ⟨_, exec_vshl o s, fun x y t ht => testBit_shl x ht _⟩, ⟨_, exec_vshr o s, fun x y t ht => testBit_shr x ht _⟩,
    ⟨_, exec_vsra o s, fun x y t ht => testBit_sra x ht _⟩,
    ⟨_, exec_vrot o s, fun x y t ht => testBit_rot x ht (Nat.mod_lt _ (by omega))⟩⟩
  · rw [testBit_mod_width ht, Nat.testBit_and]
  · rw [testBit_mod_width ht, Nat.testBit_or]
  · rw [testBit_mod_width ht, Nat.testBit_xor]
  · rw [testBit_mod_width ht, Nat.testBit_and, Nat.testBit_xor, testBit_ones ht, Bool.xor_true]
  · rw [testBit_mod_width ht, Nat.testBit_xor, testBit_ones ht, Bool.xor_true]

theorem logicVectorElements : LogicVectorElements := by
  intro o s k c w q hq h
  obtain ⟨f, hexec, hf⟩ := computesBits_bitForms (s := s) q hq
  refine ⟨fun j => f w (elem w (readV s c 0 o.ra.toNat) j) (elem w (readV s c 1 o.rb.toNat) j) % 2 ^ w,
    givesElements_of_elementWord (hexec.trans (bitWord_eq ..)) h, fun j _ t ht => ?_⟩
  have := hf (BitVec.ofNat w (elem w (readV s c 0 o.ra.toNat) j)) (BitVec.ofNat w (elem w (readV s c 1 o.rb.toNat) j)) t ht
  rwa [← elem_eq_toNat, ← elem_eq_toNat] at this

/-- Settles O20: every form is an element-by-element word, whose elements are those of Table 07.3 and of R189. -/
theorem integerAndLogicVectorElements : Obligations.IntegerAndLogicVectorElements :=
  ⟨integerVectorElements, logicVectorElements⟩

end Sys2Proof.Machine
end

/-! ### Floating-point and width-changing vector words (R187, R188, R192 to R194, R206, R207) -/

section
namespace Sys2Proof.Machine
open Sys2Proof.Claims Sys2Proof.Config

section
variable {o : FmtA} {s : State} {F : Format}

theorem arithWord_float (h : formatOf o.ty.toNat = some F) (n intBound fltBound : Nat) (rounds : Bool)
    (int : Int → Int → Int) (flt : Bool → Num → Num → Num → Num × FlagSet) :
    arithWord o n intBound fltBound rounds int flt s = elementWord o n fltBound rounds (fun m a b c =>
      F.finish m (saturating o) (flt m.isDown (F.decode a) (F.decode b) (F.decode c))) s := by
  simp only [arithWord, h]

theorem functionWord_float (h : formatOf o.ty.toNat = some F) (bound : Nat) (rounds : Bool)
    (f : Format → Mode → Num → Nat × FlagSet) :
    functionWord o bound rounds f s = elementWord o 1 bound rounds (fun m a _ _ => f F m (F.decode a)) s := by
  simp only [functionWord, h]

variable (o s)

theorem exec_vfma : exec (.vfma o) s = fusedWord o false false s := rfl
theorem exec_vfms : exec (.vfms o) s = fusedWord o false true s := rfl
theorem exec_vfnma : exec (.vfnma o) s = fusedWord o true false s := rfl
theorem exec_vfnms : exec (.vfnms o) s = fusedWord o true true s := rfl
theorem fusedWord_eq (p q : Bool) : fusedWord o p q s = arithWord o 3 5 5 true (fun a _ => a) (fun rd a b c =>
    fmaNum rd (if p then a.negate else a) b (if q then c.negate else c)) s := rfl
theorem exec_vrcpa : exec (.vrcpa o) s = functionWord o 6 false (fun F _ x => rcpa F x) s := rfl
theorem exec_vrsqa : exec (.vrsqa o) s = functionWord o 6 false (fun F _ x => rsqa F x) s := rfl
theorem exec_vsqrt : exec (.vsqrt o) s = functionWord o 20 true (fun F m x => sqrtOf F m x) s := rfl
theorem exec_vexp2 : exec (.vexp2 o) s = functionWord o 12 true (fun F m x => exp2Of F m (saturating o) x) s := rfl
theorem exec_vlog2 : exec (.vlog2 o) s = functionWord o 12 true (fun F m x => log2Of F m x) s := rfl
theorem exec_vsint : exec (.vsint o) s = elementWord o 1 14 true (fun m a _ _ => sinTurn m a) s := rfl
theorem exec_vcost : exec (.vcost o) s = elementWord o 1 14 true (fun m a _ _ => cosTurn m a) s := rfl

variable {o s}

/-- A floating-point form is the element-by-element word of its value (R187, R188). -/
theorem exec_of_mem_floatForms (h : formatOf o.ty.toNat = some F) :
    ∀ q ∈ floatForms o F, exec q.1 s = elementWord o q.2.1 q.2.2.1 q.2.2.2.1 q.2.2.2.2 s := by
  simp only [floatForms, List.forall_mem_cons, List.not_mem_nil, false_imp_iff, implies_true, and_true]
  have fused := fun p q => (fusedWord_eq o s p q).trans (arithWord_float h ..)
  exact ⟨(exec_vadd o s).trans (arithWord_float h ..), (exec_vsub o s).trans (arithWord_float h ..),
    (exec_vmul o s).trans (arithWord_float h ..), (exec_vabd o s).trans (arithWord_float h ..),
    (exec_vfma o s).trans (fused ..), (exec_vfms o s).trans (fused ..), (exec_vfnma o s).trans (fused ..),
    (exec_vfnms o s).trans (fused ..), (exec_vrcpa o s).trans (functionWord_float h ..),
    (exec_vrsqa o s).trans (functionWord_float h ..), (exec_vsqrt o s).trans (functionWord_float h ..),
    (exec_vexp2 o s).trans (functionWord_float h ..), (exec_vlog2 o s).trans (functionWord_float h ..),
    exec_vsint o s, exec_vcost o s⟩

end

theorem floatVectorElements : FloatVectorElements := by
  intro o F s k c hF w q hq h
  exact givesElements_of_elementWord (exec_of_mem_floatForms hF q hq) h

theorem exec_vcvt (m : BitVec 5) (o : FmtA) (s : State) : exec (.vcvt m o) s = execVcvt m o s := rfl
theorem exec_vwmul (o : FmtA) (s : State) : exec (.vwmul o) s = execVwmul o s := rfl
theorem exec_vdot (o : FmtA) (s : State) : exec (.vdot o) s = execVdot o s := rfl
theorem exec_vqnt (o : FmtA) (s : State) : exec (.vqnt o) s = execVqnt o s := rfl
theorem exec_vdeq (o : FmtA) (s : State) : exec (.vdeq o) s = execVdeq o s := rfl

/-- The wide side of a conversion takes every element of the narrow side (R179). -/
theorem convert_fit (src dst : Nat) : ∃ m, 4096 / min (typeWidth src) (typeWidth dst) =
    max 1 (typeWidth dst / typeWidth src) * m ∧ typeWidth dst * m ≤ 4096 := by
  have h : ∀ a ∈ [4, 8, 16, 32, 64], ∀ b ∈ [4, 8, 16, 32, 64],
      4096 / min a b = max 1 (b / a) * (4096 / b) ∧ b * (4096 / b) ≤ 4096 := by decide
  exact ⟨_, h _ (typeWidth_mem src) _ (typeWidth_mem dst)⟩

theorem widen_fit (t : Nat) : ∃ m, 4096 / typeWidth t = 2 * m ∧ 2 * typeWidth t * m ≤ 4096 := by
  have h : ∀ a ∈ [4, 8, 16, 32, 64], 4096 / a = 2 * (4096 / (2 * a)) ∧ 2 * a * (4096 / (2 * a)) ≤ 4096 := by decide
  exact ⟨_, h _ (typeWidth_mem t)⟩

theorem dequantise_fit (t : Nat) (hk : 0 < 16 / typeWidth t) : ∃ m, 4096 / typeWidth t = 16 / typeWidth t * m ∧ 16 * m ≤ 4096 := by
  have h : ∀ a ∈ [4, 8, 16, 32, 64], 0 < 16 / a → 4096 / a = 16 / a * 256 ∧ 16 * 256 ≤ 4096 := by decide
  exact ⟨_, h _ (typeWidth_mem t) hk⟩

/-- The dot product of integers is the sum of the products (R194). -/
theorem dotInt_eq (t : Nat) (sat : Bool) (a b d : VecReg) (j : Nat) :
    dotInt t sat a b d j = intResult 32 (typeSigned t) sat (intOf 32 (typeSigned t) (elem 32 d j) + integerDot t a b j) := by
  have hsum : ∀ (f : Nat → Int) (l : List Nat), l.foldl (fun acc i => acc + f i) 0 = (l.map f).sum := by
    intro f l
    rw [List.sum_eq_foldl, List.foldl_map]
  simp only [dotInt, integerDot, hsum]

theorem formatOf_isFloat {t : Nat} {F : Format} (h : formatOf t = some F) : isFloat t = true := by
  rw [isFloat, h, Option.isSome_some]

theorem formatOf_not_isFloat {t : Nat} (h : formatOf t = none) : isFloat t = false := by
  rw [isFloat, h, Option.isSome_none]

theorem givesElements_congr {i : Instr} {s : State} {k : Nat} {c : Crew} {o : FmtA} {f : VFrame}
    {w wd kd n bound occupancy : Nat} {value value' : Nat → Nat × FlagSet} {rounds : Bool}
    (h : givesElements i s k c o f w wd kd n bound value occupancy rounds) (hv : ∀ j < n, value j = value' j) :
    givesElements i s k c o f w wd kd n bound value' occupancy rounds := by
  obtain ⟨ps, ⟨hlen, hfields, helems⟩, hexec⟩ := h
  have hflags : ∀ g, flagsOf g w n value = flagsOf g w n value' := by
    intro g
    rw [flagsOf, flagsOf]
    refine congrArg orFlags (List.map_congr_left fun j hj => ?_)
    rw [hv j (List.mem_range.1 hj)]
  refine ⟨ps, ⟨hlen, hfields, fun j hj hr => ?_⟩, by rw [← hflags]; exact hexec⟩
  rw [← hv j hj]
  exact helems j hj hr

theorem wideningVectorElements : WideningVectorElements := by
  intro o s k c t w a b
  refine ⟨fun m hm h => ?vcvt, fun f hf h => ?vwmul, fun h => ⟨fun ht => ?vdotInt, fun F hF => ?vdotFloat⟩, fun h => ?vqnt,
    fun f hf h => ?vdeq⟩
  case vcvt =>
    have hcvt : ∀ src, m.toNat % 16 = src → VectorRuns s k c (convertFrame o src t) →
        givesElements (.vcvt m o) s k c o (convertFrame o src t) (min (typeWidth src) w) w
          (max 1 (w / typeWidth src)) (4096 / min (typeWidth src) w) (if w / typeWidth src > 1 then 6 else 4)
          (fun j => convertElement src t (if isFloat src || isFloat t then elementMode c o.mod j else .rne) (saturating o)
            (sourceElement s c o.ra.toNat (typeWidth src) (typeWidth src / w) j))
          (2 * max 1 (max (w / typeWidth src) (typeWidth src / w))) (isFloat src || isFloat t) := by
      rintro src rfl h
      have hi := exec_vcvt m o s
      dsimp only [execVcvt] at hi
      exact givesElements_of_putGroup (f := convertFrame o (m.toNat % 16) t) hi h rfl (fun _ => convert_fit _ _) rfl
    exact hcvt m.toNat (Nat.mod_eq_of_lt hm) h
  case vwmul =>
    subst hf
    have hi := exec_vwmul o s
    dsimp only [execVwmul] at hi
    have hgives := givesElements_of_putGroup (f := { frameA o 2 4 with groups := [(o.rd.toNat, 2)] }) hi h rfl
      (fun _ => widen_fit t) rfl
    refine givesElements_congr hgives fun j _ => ?_
    cases hF : formatOf o.ty.toNat with
    | none => rfl
    | some F =>
      by_cases hhalf : F = fp16
      · simp only [if_pos hhalf]
        rfl
      · simp only [if_neg hhalf]
        rfl
  case vdotInt =>
    have hi := exec_vdot o s
    have ht' : formatOf o.ty.toNat = none := ht
    simp only [execVdot, ht', formatOf_not_isFloat ht', dotInt_eq] at hi
    exact givesElements_of_putRegister (w := 32) hi h rfl rfl
  case vdotFloat =>
    have hi := exec_vdot o s
    have hF' : formatOf o.ty.toNat = some F := hF
    simp only [execVdot, hF', formatOf_isFloat hF'] at hi
    exact givesElements_of_putRegister (w := 32) hi h rfl rfl
  case vqnt =>
    have hi := exec_vqnt o s
    dsimp only [execVqnt] at hi
    refine givesElements_congr (givesElements_of_putRegister (f := quantiseFrame o (16 / w)) hi h rfl rfl) fun j _ => ?_
    cases hF : formatOf o.ty.toNat with
    | none => rfl
    | some F => rfl
  case vdeq =>
    subst hf
    have hi := exec_vdeq o s
    dsimp only [execVdeq] at hi
    exact givesElements_of_putGroup (f := { frameA o 2 (2 * (16 / w)) with groups := [(o.rd.toNat, 16 / w)] }) hi h rfl
      (dequantise_fit t) rfl

/-- Settles O21: every form writes the elements of its value, a register or a group at once, with its flags in flight. -/
theorem floatAndWideningVectorElements : Obligations.FloatAndWideningVectorElements :=
  ⟨floatVectorElements, wideningVectorElements⟩

end Sys2Proof.Machine
end

/-! ### Selection, cross-lane, move and random vector words (R177, R182, R187, R191, R198, R199, R208) -/

section
namespace Sys2Proof.Machine
open Sys2Proof.Claims Sys2Proof.Config

/-! #### Selection -/

section
variable {o : FmtA} {s : State} {F : Format}

theorem signWord_float (h : formatOf o.ty.toNat = some F) (int : Int → Int) (flt : Nat → Nat → Nat) :
    signWord o int flt s = elementWord o 1 2 false (fun _ a _ _ =>
      if (F.decode a).isNaN then (F.nanCode, (F.decode a).signal) else (flt (typeWidth o.ty.toNat) a, 0)) s := by
  simp only [signWord, h]

theorem extremeWord_float (h : formatOf o.ty.toNat = some F) (max : Bool) :
    extremeWord o max s = elementWord o 2 2 false (fun _ a b _ =>
      selectNum F (fun x y => if max then numBelow y x else numBelow x y) a b) s := by
  simp only [extremeWord, h]

end

theorem xor_two_pow_of_lt {x n : Nat} (h : x < 2 ^ n) : x ^^^ 2 ^ n = 2 ^ n + x := by
  have hor : 2 ^ n + x = 2 ^ n ||| x := by simpa using Nat.two_pow_add_eq_or_of_lt h 1
  rw [hor]
  refine Nat.eq_of_testBit_eq fun i => ?_
  rw [Nat.testBit_xor, Nat.testBit_or, Nat.testBit_two_pow]
  by_cases hi : n = i
  · subst hi
    simp [Nat.testBit_lt_two_pow h]
  · rw [decide_eq_false hi, Bool.xor_false, Bool.false_or]

/-- Inverting the sign bit of an element (R187). -/
theorem xor_signBit {w x : Nat} (hw : 0 < w) (hx : x < 2 ^ w) :
    x ^^^ 2 ^ (w - 1) = if x < 2 ^ (w - 1) then x + 2 ^ (w - 1) else x - 2 ^ (w - 1) := by
  have hpow : 2 ^ w = 2 * 2 ^ (w - 1) := by rw [← Nat.pow_succ', Nat.succ_eq_add_one, Nat.sub_add_cancel hw]
  split
  · next h => rw [xor_two_pow_of_lt h, Nat.add_comm]
  · next h =>
    obtain ⟨y, rfl⟩ := Nat.exists_eq_add_of_le (Nat.not_lt.1 h)
    rw [← xor_two_pow_of_lt (by omega), Nat.xor_assoc, Nat.xor_self, Nat.xor_zero, xor_two_pow_of_lt (by omega),
      Nat.add_sub_cancel_left]

theorem elem_lt (w : Nat) (v : VecReg) (i : Nat) : elem w v i < 2 ^ w := Nat.mod_lt _ (Nat.two_pow_pos w)

theorem exec_vsel (o : FmtA) (s : State) : exec (.vsel o) s = execVsel o s := rfl
theorem exec_vmovsToVector (o : FmtA) (s : State) : exec (.vmovsToVector o) s = execVmovsToVector o s := rfl

theorem selectionElements : Claims.SelectionVectorElements := by
  intro o s k c w a b
  refine ⟨fun F hF => ⟨fun h => ?sign, fun h => ?extreme⟩, fun f hf h => ?vsel, fun h => ?vmovs⟩
  case sign =>
    simp only [List.forall_mem_cons, List.not_mem_nil, false_imp_iff, implies_true, and_true]
    refine ⟨givesElements_of_elementWord ((exec_vabs o s).trans (signWord_float hF ..)) h, ?_⟩
    refine givesElements_congr (givesElements_of_elementWord ((exec_vneg o s).trans (signWord_float hF ..)) h) fun j _ => ?_
    have hw : 0 < typeWidth o.ty.toNat := Nat.zero_lt_of_lt (one_lt_typeWidth _)
    rw [xor_signBit hw (elem_lt _ _ _)]
  case extreme =>
    simp only [List.forall_mem_cons, List.not_mem_nil, false_imp_iff, implies_true, and_true]
    refine ⟨?_, ?_⟩
    · exact givesElements_of_elementWord ((exec_vmin o s).trans (extremeWord_float hF ..)) h
    · exact givesElements_of_elementWord ((exec_vmax o s).trans (extremeWord_float hF ..)) h
  case vsel =>
    subst hf
    have hi := exec_vsel o s
    dsimp only [execVsel] at hi
    refine givesElements_congr (givesElements_of_exact hi h rfl rfl) fun j _ => rfl
  case vmovs =>
    have hi := exec_vmovsToVector o s
    dsimp only [execVmovsToVector] at hi
    exact givesElements_of_exact hi h rfl rfl

/-! #### Cross-lane words (R182) -/

section
variable {act : Nat → Bool}

/-- Going down from an element finds the nearest active one (R182). -/
theorem fallThrough_some {i j : Nat} (hij : i ≤ j) (hi : act i = true) (habove : ∀ i', i < i' → i' ≤ j → act i' = false) :
    fallThrough act j j = some i := by
  induction j with
  | zero =>
    obtain rfl := Nat.le_zero.1 hij
    rw [fallThrough, if_pos hi]
  | succ j ih =>
    by_cases h : i = j + 1
    · subst h
      rw [fallThrough, if_pos hi]
    · have hj : ¬ act (j + 1) = true := Bool.eq_false_iff.1 (habove (j + 1) (by omega) (Nat.le_refl _))
      rw [fallThrough, if_neg hj, Nat.add_sub_cancel]
      exact ih (by omega) fun i' h1 h2 => habove i' h1 (by omega)

theorem fallThrough_none {j : Nat} (h : ∀ i ≤ j, act i = false) : fallThrough act j j = none := by
  induction j with
  | zero => rw [fallThrough, if_neg (Bool.eq_false_iff.1 (h 0 (Nat.le_refl 0)))]
  | succ j ih =>
    rw [fallThrough, if_neg (Bool.eq_false_iff.1 (h (j + 1) (Nat.le_refl _))), Nat.add_sub_cancel]
    exact ih fun i hi => h i (by omega)

theorem laneRead_laneValue (act : Nat → Bool) (n : Nat) (read : Nat → Nat) (identity : Nat) (j : Int) :
    laneValue act n read identity j (laneRead act n read identity j) := by
  unfold laneRead
  refine ⟨fun hout => if_neg (by omega), fun hin => ?_⟩
  rw [if_pos hin]
  have hj : ((j.toNat : Nat) : Int) = j := Int.toNat_of_nonneg hin.1
  refine ⟨fun i hij hi habove => ?_, fun hnone => ?_⟩
  · rw [fallThrough_some (by omega) hi fun i' h1 h2 => habove i' h1 (by omega)]
  · rw [fallThrough_none fun i hi => hnone i (by omega)]

end

theorem exec_vperm (o : FmtA) (s : State) : exec (.vperm o) s = execVperm o s := rfl
theorem exec_vshuf (o : FmtA) (s : State) : exec (.vshuf o) s = execVshuf o s := rfl
theorem exec_vbcast (o : FmtA) (s : State) : exec (.vbcast o) s = execVbcast o s := rfl
theorem exec_vxlane (o : FmtA) (s : State) : exec (.vxlane o) s = execVxlane o s := rfl

theorem crossLaneElements : CrossLaneElements := by
  intro o s k c w n g a b identity
  refine ⟨fun f hf h => ⟨?vperm, ?vshuf⟩, fun f hf h => ⟨?vbcast, ?vxlane⟩⟩
  all_goals subst hf
  case vperm =>
    have hi := exec_vperm o s
    dsimp only [execVperm] at hi
    exact ⟨_, givesElements_of_exact (w := 8) hi h rfl rfl, fun i _ => laneRead_laneValue ..⟩
  case vshuf =>
    have hi := exec_vshuf o s
    dsimp only [execVshuf, laneBody] at hi
    exact ⟨_, givesElements_of_exact hi h rfl rfl, fun i _ => laneRead_laneValue ..⟩
  case vbcast =>
    have hi := exec_vbcast o s
    dsimp only [execVbcast, laneBody] at hi
    exact ⟨_, givesElements_of_exact hi h rfl rfl, fun i _ => laneRead_laneValue ..⟩
  case vxlane =>
    have hi := exec_vxlane o s
    dsimp only [execVxlane, laneBody] at hi
    exact ⟨_, givesElements_of_exact hi h rfl rfl, fun i _ => laneRead_laneValue ..⟩

/-! #### Moves and random words -/

theorem exec_vmovsToScalar (o : FmtA) (s : State) : exec (.vmovsToScalar o) s = execVmovsToScalar o s := rfl
theorem exec_vmovsDq (o : FmtA) (s : State) : exec (.vmovsDq o) s = execVmovsDq o s := rfl
theorem exec_vrng (o : FmtA) (s : State) : exec (.vrng o) s = execVrng o s := rfl

/-- A 16-bit granule of a packed list of 128-bit values. -/
theorem packElems_granule (l : List Nat) (i : Nat) (h : i / 8 < l.length) :
    packElems 128 l / 2 ^ (16 * i) % 2 ^ 16 = l[i / 8] / 2 ^ (16 * (i % 8)) % 2 ^ 16 := by
  have hpos : 16 * i = 128 * (i / 8) + 16 * (i % 8) := by omega
  have hlow : ∀ v : Nat, v % 2 ^ 128 / 2 ^ (16 * (i % 8)) % 2 ^ 16 = v / 2 ^ (16 * (i % 8)) % 2 ^ 16 := by
    intro v
    refine Nat.eq_of_testBit_eq fun t => ?_
    simp only [Nat.testBit_mod_two_pow, Nat.testBit_div_two_pow]
    by_cases ht : t < 16
    · rw [decide_eq_true (show t + 16 * (i % 8) < 128 by omega), Bool.true_and]
    · rw [decide_eq_false ht, Bool.false_and, Bool.false_and]
  rw [hpos, Nat.pow_add, ← Nat.div_div_eq_div_mul, ← hlow, packElems_elem 128 l (i / 8) h, hlow]

theorem movesAndRandomWords : MovesAndRandomWords := by
  intro o s k c t w
  refine ⟨fun h htag => ?scalar, fun e rest h hq hold hsrc => ?dq, fun f hf h => ?vrng⟩
  case scalar =>
    rw [exec_vmovsToScalar, execVmovsToScalar, runWord_runs h]
    simp only [poisonedX_single htag]
    rfl
  case dq =>
    rw [exec_vmovsDq, execVmovsDq, runWord_runs h, hq]
    simp only [popped_cons rest hold, hsrc]
    simp only [Option.isSome_none, Bool.false_eq_true, if_false, finish_done, List.tail_cons]
  case vrng =>
    subst hf
    have hi := exec_vrng o s
    dsimp only [execVrng] at hi
    refine givesElements_congr (givesElements_of_exact (w := 16) hi h rfl rfl) fun j hj => ?_
    rw [packElems_granule _ _ (by simp; omega)]
    simp only [List.getElem_map, List.getElem_range]
    rfl

/-- Settles O22: the selections and moves are exact element words; a cross-lane read goes down to the nearest active element. -/
theorem selectionVectorElements : Obligations.SelectionVectorElements :=
  ⟨selectionElements, crossLaneElements, movesAndRandomWords⟩

end Sys2Proof.Machine
end

/-! ### Reductions and scan (R168, R195 to R197) -/

section
namespace Sys2Proof.Machine
open Sys2Proof.Claims Sys2Proof.Config

/-! #### Words that write the low bits of a register (R195) -/

theorem lowMask_eq : BitVec.ofNat 4096 (2 ^ 64 - 1) = (BitVec.allOnes 64).zeroExtend 4096 := by
  refine BitVec.eq_of_toNat_eq ?_
  rw [BitVec.toNat_ofNat, BitVec.zeroExtend, BitVec.toNat_setWidth, BitVec.toNat_allOnes]

theorem lowValue_eq (v : Nat) : BitVec.ofNat 4096 (v % 2 ^ 64) = (BitVec.ofNat 64 v).zeroExtend 4096 := by
  refine BitVec.eq_of_toNat_eq ?_
  rw [BitVec.toNat_ofNat, BitVec.zeroExtend, BitVec.toNat_setWidth, BitVec.toNat_ofNat]

/-- The pending write of a value to the low bits of vd (R195). -/
def lowWrite (c : Crew) (o : FmtA) (v : Nat) : Pend 4096 :=
  { reg := o.rd.toNat, mask := if zeroing o then BitVec.allOnes 4096 else BitVec.ofNat 4096 (2 ^ 64 - 1)
    val := BitVec.ofNat 4096 (v % 2 ^ 64), poison := false, issued := c.counter, land := .count (c.counter + 12), ready := true
    seq := 0, str := .v, again := false }

theorem putLow_eq (c : Crew) (o : FmtA) (v : Nat) : putLow c o v 12 = { c with pendV := c.pendV ++ [lowWrite c o v] } := rfl

/-- A word whose body writes a value to the low bits of vd gives it (R195). -/
theorem givesLow_of_putLow {i : Instr} {s : State} {k : Nat} {c : Crew} {o : FmtA} {v : Nat} {flags : FlagSet} {rounds : Bool}
    {body : State → Nat → Crew → PredReg → Effect} (hi : exec i s = vectorWord (frameA o 1 2) s body)
    (h : VectorRuns s k c (frameA o 1 2))
    (hbody : body s k (hold c .pipe 2) (guardBits s c o.pred.toNat o.pn) =
      .done s (advanceRandom (raiseFlags (putLow (hold c .pipe 2) o v 12) flags 12) o.mod rounds)) :
    givesLow i s k c o v flags rounds := by
  refine ⟨lowWrite c o v, rfl, rfl, rfl, rfl, rfl, ?_, lowValue_eq v, ?_⟩
  · rw [← lowMask_eq]
    rfl
  · rw [hi, vectorWord_runs h]
    refine (congrArg (finish s k .v c _) hbody).trans ?_
    rw [finish_done]
    exact congrArg (fun d => Host.Outcome.next (issued s k .v d [(.v, o.ra.toNat, o.la)]))
      (advanceRandom_raiseFlags c [lowWrite c o v] 2 12 flags o.mod rounds)

/-! #### VREDX (R196) -/

theorem foldl_or_filter {α : Type} (p : α → Bool) (f : α → FlagSet) (l : List α) (x : FlagSet) :
    ((l.filter p).map f).foldl (· ||| ·) x = (l.map fun i => if p i then f i else 0).foldl (· ||| ·) x := by
  induction l generalizing x with
  | nil => rfl
  | cons a l ih =>
    by_cases h : p a = true
    · rw [List.filter_cons_of_pos h, List.map_cons, List.map_cons, List.foldl_cons, List.foldl_cons, if_pos h, ih]
    · have hzero : x ||| (0 : FlagSet) = x := BitVec.or_zero
      rw [List.filter_cons_of_neg h, List.map_cons, List.foldl_cons, if_neg h, hzero, ih]

/-- The element that VREDX keeps of two, the first found standing until one outranks it. -/
def keepBest (beats : Nat → Nat → Bool) (b : Option Nat) (i : Nat) : Option Nat :=
  match b with
  | none => some i
  | some j => if beats i j then some i else some j

section
variable {beats : Nat → Nat → Bool}

theorem foldl_keepBest_mem (l : List Nat) (b : Option Nat) :
    l.foldl (keepBest beats) b = b ∨ ∃ i ∈ l, l.foldl (keepBest beats) b = some i := by
  induction l generalizing b with
  | nil => exact .inl rfl
  | cons a l ih =>
    rw [List.foldl_cons]
    rcases ih (keepBest beats b a) with h | ⟨i, hi, h⟩
    · rw [h]
      cases b with
      | none => exact .inr ⟨a, List.mem_cons_self, rfl⟩
      | some j =>
        by_cases hb : beats a j = true
        · exact .inr ⟨a, List.mem_cons_self, if_pos hb⟩
        · exact .inl (if_neg hb)
    · exact .inr ⟨i, List.mem_cons_of_mem _ hi, h⟩

theorem foldl_keepBest_ne_none {l : List Nat} (hl : l ≠ []) : l.foldl (keepBest beats) none ≠ none := by
  cases l with
  | nil => exact absurd rfl hl
  | cons a l =>
    rw [List.foldl_cons]
    rcases foldl_keepBest_mem (beats := beats) l (keepBest beats none a) with h | ⟨i, -, h⟩
    · rw [h]
      exact Option.some_ne_none a
    · rw [h]
      exact Option.some_ne_none i

/-- An element that none beats and that beats all before it is the one kept. -/
theorem foldl_keepBest {l : List Nat} {j : Nat} (hsorted : l.Pairwise (· < ·)) (hj : j ∈ l)
    (hnone : ∀ i ∈ l, beats i j = false) (hbefore : ∀ i ∈ l, i < j → beats j i = true) :
    l.foldl (keepBest beats) none = some j := by
  obtain ⟨l₁, l₂, rfl⟩ := List.append_of_mem hj
  obtain ⟨-, -, hlt⟩ := List.pairwise_append.1 hsorted
  have hstays : ∀ l : List Nat, (∀ i ∈ l, beats i j = false) → l.foldl (keepBest beats) (some j) = some j := by
    intro l hl
    induction l with
    | nil => rfl
    | cons a l ih =>
      obtain ⟨ha, hl⟩ := List.forall_mem_cons.1 hl
      rw [List.foldl_cons, keepBest, if_neg (Bool.eq_false_iff.1 ha), ih hl]
  have hat : keepBest beats (l₁.foldl (keepBest beats) none) j = some j := by
    rcases foldl_keepBest_mem (beats := beats) l₁ none with h | ⟨i, hi, h⟩
    · rw [h]
      rfl
    · rw [h]
      exact if_pos (hbefore i (List.mem_append_left _ hi) (hlt i hi j List.mem_cons_self))
  rw [List.foldl_append, List.foldl_cons, hat]
  exact hstays l₂ fun i hi => hnone i (List.mem_append_right _ (List.mem_cons_of_mem _ hi))

end

/-! #### VSCAN (R197) -/

/-- A scan gives each active element what the scan before it holds, taken in (R197). -/
theorem scanElems_eq (act : Nat → Bool) (f : Nat → Nat → Nat × FlagSet) (first n i : Nat) :
    scanElems act f n i (scanBefore act f first i) =
      (List.range' i n).map fun j => if act j then some (f j (scanBefore act f first j)) else none := by
  induction n generalizing i with
  | zero => rfl
  | succ n ih =>
    rw [List.range'_succ, List.map_cons, ← ih (i + 1), scanElems, scanBefore]
    by_cases h : act i = true
    · simp only [if_pos h]
    · simp only [if_neg h]

/-- The active elements of a register, in order. -/
def activeLanes (g : PredReg) (w : Nat) : List Nat := (List.range (4096 / w)).filter (active g w)

/-- The element that VREDX finds. -/
def vredxBest (t : Nat) (max : Bool) (g : PredReg) (v : VecReg) : Option Nat :=
  (activeLanes g (typeWidth t)).foldl
    (keepBest fun i j => outranks t max (elem (typeWidth t) v i) (elem (typeWidth t) v j)) none

/-- Whether an element is a NaN; an integer is none. -/
def laneNaN (t : Nat) (v : VecReg) (i : Nat) : Bool :=
  match formatOf t with | some F => (F.decode (elem (typeWidth t) v i)).isNaN | none => false

/-- The flag that an element raises where it is a signalling NaN. -/
def laneSignal (t : Nat) (v : VecReg) (i : Nat) : FlagSet :=
  match formatOf t with | some F => (F.decode (elem (typeWidth t) v i)).signal | none => 0

/-- The canonical NaN of a type. -/
def typeNaN (t : Nat) : Nat := match formatOf t with | some F => F.nanCode | none => 0

/-- The index, the value and the flags that VREDX gives (R196). -/
def vredxResult (t : Nat) (max : Bool) (g : PredReg) (v : VecReg) : Nat × Nat × FlagSet :=
  match vredxBest t max g v with
  | none => (0xFFFFFFFF, reduceIdentity (if max then 2 else 1) t, orFlags ((activeLanes g (typeWidth t)).map (laneSignal t v)))
  | some i =>
    if laneNaN t v i then (0, typeNaN t, flagNV)
    else (i, elem (typeWidth t) v i, orFlags ((activeLanes g (typeWidth t)).map (laneSignal t v)))

theorem exec_vred (m : BitVec 5) (o : FmtA) (s : State) : exec (.vred m o) s = execVred m o s := rfl
theorem exec_vscan (m : BitVec 5) (o : FmtA) (s : State) : exec (.vscan m o) s = execVscan m o s := rfl
theorem exec_vredx (m : BitVec 5) (o : FmtA) (s : State) :
    exec (.vredx m o) s = vectorWord (frameA o 1 2) s fun s _ c g =>
      .done s (raiseFlags (putLow c o ((vredxResult o.ty.toNat (decide (m = 0)) g (readV s c 0 o.ra.toNat)).1 * 2 ^ 32 +
        (vredxResult o.ty.toNat (decide (m = 0)) g (readV s c 0 o.ra.toNat)).2.1) 12)
        (vredxResult o.ty.toNat (decide (m = 0)) g (readV s c 0 o.ra.toNat)).2.2 12) := rfl

section
variable {o : FmtA} {s : State} {k : Nat} {c : Crew} {m : BitVec 5}

theorem vredx_givesLow {index value : Nat} {flags : FlagSet} (h : VectorRuns s k c (frameA o 1 2))
    (hresult : vredxResult o.ty.toNat (decide (m = 0)) (guardBits s c o.pred.toNat o.pn) (readV s c 0 o.ra.toNat) =
      (index, value, flags)) : givesLow (.vredx m o) s k c o (index * 2 ^ 32 + value) flags false := by
  have hgives := givesLow_of_putLow (rounds := false) (exec_vredx m o s) h rfl
  have hresult' : vredxResult o.ty.toNat (decide (m = 0)) (guardBits s c o.pred.toNat o.pn)
    (readV s (hold c .pipe 2) 0 o.ra.toNat) = (index, value, flags) := hresult
  rwa [hresult'] at hgives

theorem orFlags_activeLanes (g : PredReg) (w : Nat) (f : Nat → FlagSet) :
    orFlags ((activeLanes g w).map f) = flagsOf g w (4096 / w) fun i => (0, f i) := by
  rw [orFlags, activeLanes, foldl_or_filter]
  rfl

theorem mem_activeLanes {g : PredReg} {w i : Nat} : i ∈ activeLanes g w ↔ i < 4096 / w ∧ active g w i = true := by
  rw [activeLanes, List.mem_filter, List.mem_range]

end

/-- Settles O23: the tree of VRED and the scan of VSCAN are the model's own, and VREDX keeps the first element that none beats. -/
theorem reductionsAndScan : Obligations.ReductionsAndScan := by
  intro o s k c m h t w g a signals node
  refine ⟨?vred, fun j hj hact hnum hnone hbefore => ?found, fun F hF hsome hnan => ?nan, fun hnone => ?none, ?vscan⟩
  case vred =>
    have hi := exec_vred m o s
    dsimp only [execVred] at hi
    exact givesLow_of_putLow hi h rfl
  case found =>
    have hbest : vredxBest t (decide (m = 0)) g (readV s c 0 o.ra.toNat) = some j := by
      refine foldl_keepBest (List.pairwise_lt_range.filter _) (mem_activeLanes.2 ⟨hj, hact⟩) (fun i hi => ?_) fun i hi hlt => ?_
      · obtain ⟨hi, hacti⟩ := mem_activeLanes.1 hi
        exact hnone i hi hacti
      · exact hbefore i hlt (mem_activeLanes.1 hi).2
    refine vredx_givesLow h ?_
    have hnum' : ¬ laneNaN t (readV s c 0 o.ra.toNat) j = true := by
      unfold laneNaN
      cases hF : formatOf t with
      | none => exact Bool.false_ne_true
      | some F => exact Bool.eq_false_iff.1 (hnum F hF)
    rw [vredxResult, hbest]
    refine (if_neg hnum').trans ?_
    rw [orFlags_activeLanes]
    rfl
  case nan =>
    have hbest : ∃ i ∈ activeLanes g w, vredxBest t (decide (m = 0)) g (readV s c 0 o.ra.toNat) = some i := by
      obtain ⟨j, hj, hact⟩ := hsome
      exact (foldl_keepBest_mem _ _).resolve_left (foldl_keepBest_ne_none (List.ne_nil_of_mem (mem_activeLanes.2 ⟨hj, hact⟩)))
    obtain ⟨i, hi, hbest⟩ := hbest
    obtain ⟨hlt, hact⟩ := mem_activeLanes.1 hi
    have hnan' : laneNaN t (readV s c 0 o.ra.toNat) i = true := by
      unfold laneNaN
      rw [hF]
      exact hnan i hlt hact
    have hcode : typeNaN t = F.nanCode := by
      unfold typeNaN
      rw [hF]
    have hgives := vredx_givesLow (m := m) (index := 0) (value := F.nanCode) (flags := flagNV) h (by
      rw [vredxResult, hbest]
      exact (if_pos hnan').trans (by rw [hcode]))
    rwa [Nat.zero_mul, Nat.zero_add] at hgives
  case none =>
    have hlanes : activeLanes g w = [] :=
      List.eq_nil_iff_forall_not_mem.2 fun i hi => by
        obtain ⟨hlt, hact⟩ := mem_activeLanes.1 hi
        exact Bool.eq_false_iff.1 (hnone i hlt) hact
    have hbest : vredxBest t (decide (m = 0)) g (readV s c 0 o.ra.toNat) = none := by
      rw [vredxBest, hlanes]
      rfl
    refine vredx_givesLow h ?_
    rw [vredxResult, hbest]
    show (_, _, orFlags ((activeLanes g w).map _)) = _
    rw [hlanes]
    simp only [decide_eq_true_eq]
    rfl
  case vscan =>
    have hi := exec_vscan m o s
    dsimp only [execVscan] at hi
    have hscan : scanElems (active g w) (fun i acc => node i acc (a i)) (4096 / w) 0 (reduceIdentity m.toNat t) =
        onActive g w (4096 / w) fun j =>
          node j (scanBefore (active g w) (fun i acc => node i acc (a i)) (reduceIdentity m.toNat t) j) (a j) := by
      have := scanElems_eq (active g w) (fun i acc => node i acc (a i)) (reduceIdentity m.toNat t) (4096 / w) 0
      rwa [← List.range_eq_range'] at this
    refine givesElements_of_putRegister hi h rfl ?_
    exact congrArg (fun l => Effect.done s (advanceRandom (raiseFlags (putRegister (hold c .pipe 2) o.rd.toNat w (zeroing o) l 16)
      (gathered l) 16) o.mod (isFloat t && m == 0))) hscan

end Sys2Proof.Machine
end

/-! ### Predicate words (R190, R209 to R211) -/

section
namespace Sys2Proof.Machine
open Sys2Proof.Claims Sys2Proof.Config

theorem exec_vcmp (m : BitVec 5) (o : FmtA) (s : State) : exec (.vcmp m o) s = execVcmp m o s := rfl

/-- A bit of a packed list is a bit of the element that holds it. -/
theorem packElems_testBit {u : Nat} (hu : 0 < u) (l : List Nat) (b : Nat) (h : b / u < l.length) :
    (packElems u l).testBit b = l[b / u].testBit (b % u) := by
  have hb : b = u * (b / u) + b % u := (Nat.div_add_mod b u).symm
  have hmod : b % u < u := Nat.mod_lt b hu
  have helem := congrArg (fun v => v.testBit (b % u)) (packElems_elem u l (b / u) h)
  simp only [Nat.testBit_mod_two_pow, hmod, decide_true, Bool.true_and, Nat.testBit_div_two_pow] at helem
  rw [← helem, Nat.add_comm, ← hb]

/-- The granule bits of elements: u bits each, set where the element's condition holds. -/
theorem packElems_granules {u n b : Nat} (hu : 0 < u) (f : Nat → Bool) (h : b / u < n) :
    (packElems u ((List.range n).map fun i => if f i then 2 ^ u - 1 else 0)).testBit b = f (b / u) := by
  rw [packElems_testBit hu _ _ (by simpa using h)]
  simp only [List.getElem_map, List.getElem_range]
  by_cases hf : f (b / u) = true
  · rw [if_pos hf, hf, Nat.testBit_two_pow_sub_one, decide_eq_true (Nat.mod_lt b hu)]
  · rw [if_neg hf, Nat.zero_testBit, Bool.eq_false_iff.2 hf]

/-- The condition and the flags of VCMP on two elements (R190). -/
def compared (m t : Nat) (a b : VecReg) (j : Nat) : Bool × FlagSet :=
  match formatOf t with
  | some F => compareNum m (F.decode (elem (typeWidth t) a j)) (F.decode (elem (typeWidth t) b j))
  | none => (compareInt m (intOf (typeWidth t) (typeSigned t) (elem (typeWidth t) a j))
      (intOf (typeWidth t) (typeSigned t) (elem (typeWidth t) b j)), 0)

/-- The elements of VCMP's result. -/
def comparedElements (m t : Nat) (g : PredReg) (a b : VecReg) : List (Option (Nat × FlagSet)) :=
  onActive g (typeWidth t) (4096 / typeWidth t) fun i =>
    (if (compared m t a b i).1 then 2 ^ (typeWidth t / 16) - 1 else 0, (compared m t a b i).2)

/-- The pending write of VCMP. -/
def comparedWrite (c : Crew) (o : FmtA) (l : List (Option (Nat × FlagSet))) : Pend 256 :=
  let w := typeWidth o.ty.toNat
  { reg := o.rd.toNat
    mask := if zeroing o then BitVec.allOnes 256 else
      BitVec.ofNat 256 (packElems (w / 16) (l.map fun e => match e with | some _ => 2 ^ (w / 16) - 1 | none => 0))
    val := BitVec.ofNat 256 (packElems (w / 16) (l.map fun e => match e with | some q => q.1 | none => 0))
    poison := false, issued := c.counter, land := .count (c.counter + 3), ready := true, seq := 0, str := .v, again := false }

theorem vcmp_body (m : BitVec 5) (o : FmtA) (s : State) : exec (.vcmp m o) s = vectorWord (frameA o 2 2) s fun s _ c g =>
    .done s (raiseFlags { c with pendP := c.pendP ++ [comparedWrite c o (comparedElements m.toNat o.ty.toNat g
      (readV s c 0 o.ra.toNat) (readV s c 1 o.rb.toNat))] }
      (gathered (comparedElements m.toNat o.ty.toNat g (readV s c 0 o.ra.toNat) (readV s c 1 o.rb.toNat))) 3) := rfl

theorem raiseFlags_hold_pendP (c : Crew) (ps : List (Pend 256)) (flags : FlagSet) :
    raiseFlags { hold c .pipe 2 with pendP := c.pendP ++ ps } flags 3 =
      { afterVector c [] 2 flags 3 false with pendP := c.pendP ++ ps } := by
  unfold raiseFlags afterVector
  by_cases h : flags = 0
  · simp only [if_pos h, List.append_nil]
    rfl
  · simp only [if_neg h, List.append_nil]
    rfl

theorem granule_div {w b : Nat} (hw : w ∈ [16, 32, 64]) : 16 * b / w = b / (w / 16) := by
  simp only [List.mem_cons, List.not_mem_nil, or_false] at hw
  rcases hw with rfl | rfl | rfl <;> omega

theorem granule_lt {w b : Nat} (hw : w ∈ [16, 32, 64]) (hb : b < 256) : b / (w / 16) < 4096 / w := by
  simp only [List.mem_cons, List.not_mem_nil, or_false] at hw
  rcases hw with rfl | rfl | rfl <;> omega

theorem typeWidth_wide {t : Nat} (h : 16 ≤ typeWidth t) : typeWidth t ∈ [16, 32, 64] := by
  have := typeWidth_mem t
  simp only [List.mem_cons, List.not_mem_nil, or_false] at this ⊢
  omega

theorem map_onActive {α : Type} (g : PredReg) (w n : Nat) (value : Nat → Nat × FlagSet) (f : Option (Nat × FlagSet) → α) :
    (onActive g w n value).map f = (List.range n).map fun i => if active g w i then f (some (value i)) else f none := by
  rw [onActive, List.map_map]
  refine List.map_congr_left fun i _ => ?_
  exact apply_ite f _ _ _

/-- The granules that VCMP's write covers. -/
theorem comparedWrite_mask (c : Crew) (o : FmtA) (m : Nat) (g : PredReg) (x y : VecReg) :
    (comparedWrite c o (comparedElements m o.ty.toNat g x y)).mask =
      if zeroing o then BitVec.allOnes 256 else BitVec.ofNat 256 (packElems (typeWidth o.ty.toNat / 16)
        ((List.range (4096 / typeWidth o.ty.toNat)).map fun i =>
          if active g (typeWidth o.ty.toNat) i then 2 ^ (typeWidth o.ty.toNat / 16) - 1 else 0)) := by
  exact congrArg (fun l => if zeroing o then BitVec.allOnes 256 else BitVec.ofNat 256 (packElems _ l)) (map_onActive g _ _ _ _)

/-- The bits that VCMP's write sets. -/
theorem comparedWrite_val (c : Crew) (o : FmtA) (m : Nat) (g : PredReg) (x y : VecReg) :
    (comparedWrite c o (comparedElements m o.ty.toNat g x y)).val = BitVec.ofNat 256 (packElems (typeWidth o.ty.toNat / 16)
      ((List.range (4096 / typeWidth o.ty.toNat)).map fun i =>
        if active g (typeWidth o.ty.toNat) i && (compared m o.ty.toNat x y i).1 then 2 ^ (typeWidth o.ty.toNat / 16) - 1 else 0)) := by
  refine congrArg (fun l => BitVec.ofNat 256 (packElems _ l)) ((map_onActive g _ _ _ _).trans (List.map_congr_left fun i _ => ?_))
  by_cases h : active g (typeWidth o.ty.toNat) i = true
  · rw [if_pos h, h, Bool.true_and]
  · rw [if_neg h, Bool.eq_false_iff.2 h, Bool.false_and]
    rfl

/-- Each granule bit of VCMP's write is that of its element (R190). -/
theorem comparedWrite_bits {c : Crew} {o : FmtA} {m : Nat} {g : PredReg} {x y : VecReg} (hw : 16 ≤ typeWidth o.ty.toNat) {b : Nat}
    (hb : b < 256) :
    (comparedWrite c o (comparedElements m o.ty.toNat g x y)).mask.getLsbD b =
      (zeroing o || active g (typeWidth o.ty.toNat) (16 * b / typeWidth o.ty.toNat)) ∧
    (comparedWrite c o (comparedElements m o.ty.toNat g x y)).val.getLsbD b =
      (active g (typeWidth o.ty.toNat) (16 * b / typeWidth o.ty.toNat) &&
        (compared m o.ty.toNat x y (16 * b / typeWidth o.ty.toNat)).1) := by
  have hwide := typeWidth_wide hw
  have hu : 0 < typeWidth o.ty.toNat / 16 := Nat.div_pos hw (by decide)
  have hlt := granule_lt hwide hb
  rw [granule_div hwide, comparedWrite_mask, comparedWrite_val]
  refine ⟨?_, ?_⟩
  · cases hz : zeroing o
    · rw [if_neg Bool.false_ne_true, BitVec.getLsbD_ofNat, decide_eq_true hb, Bool.true_and, packElems_granules hu _ hlt,
        Bool.false_or]
    · rw [if_pos rfl, BitVec.getLsbD_allOnes, decide_eq_true hb, Bool.true_or]
  · rw [BitVec.getLsbD_ofNat, decide_eq_true hb, Bool.true_and, packElems_granules hu _ hlt]

section
variable {o : FmtA} {s : State} {k : Nat} {c : Crew}

theorem vcmp_spec (m : BitVec 5) (h : VectorRuns s k c (frameA o 2 2)) :
    exec (.vcmp m o) s = .next (issued s k .v
      { (afterVector c [] 2 (flagsOf (guardBits s c o.pred.toNat o.pn) (typeWidth o.ty.toNat) (4096 / typeWidth o.ty.toNat)
          fun j => (0, (compared m.toNat o.ty.toNat (readV s c 0 o.ra.toNat) (readV s c 1 o.rb.toNat) j).2)) 3 false) with
        pendP := c.pendP ++ [comparedWrite c o (comparedElements m.toNat o.ty.toNat (guardBits s c o.pred.toNat o.pn)
          (readV s c 0 o.ra.toNat) (readV s c 1 o.rb.toNat))] }
      [(.v, o.ra.toNat, o.la), (.v, o.rb.toNat, o.lb)]) := by
  rw [vcmp_body, vectorWord_runs h, finish_done]
  refine congrArg (fun d => Host.Outcome.next (issued s k .v d _)) ((raiseFlags_hold_pendP c _ _).trans ?_)
  rw [comparedElements, gathered_onActive]
  rfl

/-- The frame of a predicate word with its first n sources (R209). -/
def predicateFrame (o : FmtA) (n : Nat) : VFrame :=
  { pred := o.pred.toNat, pn := o.pn, groups := [], use := none
    reads := ([(.p, o.ra.toNat), (.p, o.rb.toNat)] : List (RegFile × Nat)).take n
    frees := ([(.p, o.ra.toNat, o.la), (.p, o.rb.toNat, o.lb)] : List (RegFile × Nat × Bool)).take n, scalars := [] }

/-- A predicate word writes the bits that the guard lets it (R209). -/
theorem predicateWord_runs {n : Nat} {f : PredReg → PredReg → PredReg} {i : Instr} (hi : exec i s = predicateWord o n f s)
    (h : VectorRuns s k c (predicateFrame o n)) :
    exec i s = .next (issued s k .v
      (pendP c .v o.rd.toNat (if zeroing o then BitVec.allOnes 256 else guardBits s c o.pred.toNat o.pn)
        (f (readP s c 0 o.ra.toNat) (readP s c 1 o.rb.toNat) &&& guardBits s c o.pred.toNat o.pn) 1) (predicateFrame o n).frees) := by
  rw [hi]
  exact vectorWord_runs h _

theorem exec_pand : exec (.pand o) s = predicateWord o 2 (fun a b => a &&& b) s := rfl
theorem exec_por : exec (.por o) s = predicateWord o 2 (fun a b => a ||| b) s := rfl
theorem exec_pxor : exec (.pxor o) s = predicateWord o 2 (fun a b => a ^^^ b) s := rfl
theorem exec_pnot : exec (.pnot o) s = predicateWord o 1 (fun a _ => ~~~a) s := rfl
theorem exec_pmov : exec (.pmov o) s = predicateWord o 1 (fun a _ => a) s := rfl
theorem exec_pcnt : exec (.pcnt o) s = countedWord o (fun l _ => l.length) s := rfl
theorem exec_pfirst : exec (.pfirst o) s = countedWord o (fun l n => l.headD n) s := rfl
theorem exec_pset (q : FmtI) : exec (.pset q) s = execPset q s := rfl

/-- A counting word gives what it counts (R211). -/
theorem countedWord_runs {f : List Nat → Nat → Nat} {i : Instr} (hi : exec i s = countedWord o f s)
    (h : VectorRuns s k c (predicateFrame o 1)) :
    exec i s = .next (issued s k .v
      (pendX c .v o.rd (BitVec.ofNat 64 (f (countedLanes o.ty.toNat (readP s c 0 o.ra.toNat) (guardBits s c o.pred.toNat o.pn))
        (if o.ty.toNat = 0 then 256 else 128))) false 2) (predicateFrame o 1).frees) := by
  rw [hi]
  exact vectorWord_runs h _

end

/-- The lanes that PCNT and PFIRST count are those of the granules, or of the pairs of granules, that both bits name (R211). -/
theorem countedLanes_eq (t : Nat) (p g : PredReg) :
    countedLanes t p g = (List.range (if t = 0 then 256 else 128)).filter fun i =>
      if t = 0 then p.getLsbD i && g.getLsbD i else p.getLsbD (2 * i) && g.getLsbD (2 * i) := by
  unfold countedLanes
  by_cases h : t = 0
  · simp only [if_pos h]
  · simp only [if_neg h]

theorem headD_filter (l : List Nat) (p : Nat → Bool) (n : Nat) : (l.filter p).headD n = (l.find? p).getD n := by
  rw [List.headD_eq_head?_getD, List.head?_filter]

theorem predicateWords : PredicateWords := by
  intro o s k c t w g frame counted lanes
  refine ⟨fun m hw h => ?vcmp, fun h => ?two, fun h => ⟨?one, ?pcnt, ?pfirst⟩, fun q h htag => ?pset⟩
  case vcmp =>
    exact ⟨_, compared m.toNat t (readV s c 0 o.ra.toNat) (readV s c 1 o.rb.toNat), fun j => rfl, rfl, rfl,
      fun b hb => comparedWrite_bits hw hb, vcmp_spec m h⟩
  case two =>
    simp only [List.forall_mem_cons, List.not_mem_nil, false_imp_iff, implies_true, and_true]
    have hand := predicateWord_runs exec_pand h
    have hor := predicateWord_runs exec_por h
    have hxor := predicateWord_runs exec_pxor h
    exact ⟨hand, hor, hxor⟩
  case one =>
    simp only [List.forall_mem_cons, List.not_mem_nil, false_imp_iff, implies_true, and_true]
    have hnot := predicateWord_runs exec_pnot h
    have hmov := predicateWord_runs exec_pmov h
    exact ⟨hnot, hmov⟩
  case pcnt =>
    rw [countedWord_runs exec_pcnt h, countedLanes_eq]
    rfl
  case pfirst =>
    rw [countedWord_runs exec_pfirst h, countedLanes_eq, headD_filter]
    rfl
  case pset =>
    intro n m
    refine ⟨BitVec.ofNat 256 (2 ^ m - 1), fun b hb => ?_, ?_⟩
    · rw [BitVec.getLsbD_ofNat, decide_eq_true hb, Bool.true_and, Nat.testBit_two_pow_sub_one]
    · have hclean : poisonedX s c (if q.imm.getLsbD 29 then [(0, q.ra)] else []) = none := by
        by_cases hi : q.imm.getLsbD 29 = true
        · rw [if_pos hi, poisonedX_single (htag hi)]
        · rw [if_neg hi]
          rfl
      rw [exec_pset, execPset, runWord_runs h]
      simp only [hclean]
      rfl

end Sys2Proof.Machine
end

/-! ### Vector memory words (R200 to R205, R216) -/

section
namespace Sys2Proof.Machine
open Sys2Proof.Claims Sys2Proof.Config

theorem flatMap_congr_of_mem {α β : Type} {f g : α → List β} {l : List α} (h : ∀ a ∈ l, f a = g a) : l.flatMap f = l.flatMap g := by
  rw [List.flatMap_def, List.flatMap_def, List.map_congr_left h]

/-! #### What settling fences and entering accesses change -/

/-- The two crews differ in the log and in what they have released alone. -/
def OnlyLog (c d : Crew) : Prop := ∃ log late released, d = { c with log := log, late := late, released := released }

theorem OnlyLog.refl (c : Crew) : OnlyLog c c := ⟨c.log, c.late, c.released, rfl⟩

theorem OnlyLog.trans {c d e : Crew} (h : OnlyLog c d) (h' : OnlyLog d e) : OnlyLog c e := by
  obtain ⟨_, _, _, rfl⟩ := h
  obtain ⟨log, late, released, rfl⟩ := h'
  exact ⟨log, late, released, rfl⟩

theorem freeLog_onlyLog (c : Crew) (seq : Nat) : OnlyLog c (freeLog c seq) := ⟨_, _, c.released, rfl⟩

theorem noteRelease_onlyLog (c : Crew) (seq : Nat) : OnlyLog c (noteRelease c seq) := by
  unfold noteRelease
  split
  · exact ⟨c.log, c.late, _, rfl⟩
  · exact .refl c

theorem settleFences_onlyLog (n : Nat) (c : Crew) : OnlyLog c (settleFences c n) := by
  induction n generalizing c with
  | zero => exact .refl c
  | succ n ih =>
    unfold settleFences
    dsimp only
    split
    · exact ((noteRelease_onlyLog c _).trans (freeLog_onlyLog _ _)).trans (ih _)
    · exact .refl c

theorem settle_onlyLog (c : Crew) : OnlyLog c (settle c) := settleFences_onlyLog _ c

@[simp] theorem settle_counter (c : Crew) : (settle c).counter = c.counter := by
  obtain ⟨_, _, _, h⟩ := settle_onlyLog c
  rw [h]

@[simp] theorem settle_vstores (c : Crew) : (settle c).vstores = c.vstores := by
  obtain ⟨_, _, _, h⟩ := settle_onlyLog c
  rw [h]

/-- The two crews differ in what their banks and shares have served alone. -/
def OnlyServed (c d : Crew) : Prop := ∃ served, d = { c with served := served }

theorem foldl_onlyServed {α : Type} (f : Crew × Nat → α → Crew × Nat) (hf : ∀ q p, OnlyServed q.1 (f q p).1) (l : List α)
    (q : Crew × Nat) : OnlyServed q.1 (l.foldl f q).1 := by
  induction l generalizing q with
  | nil => exact ⟨q.1.served, rfl⟩
  | cons p l ih =>
    obtain ⟨_, hp⟩ := hf q p
    obtain ⟨served, h⟩ := ih (f q p)
    exact ⟨served, by rw [List.foldl_cons, h, hp]⟩

theorem takePath_onlyServed (c : Crew) (bound : Nat) (keys : List Nat) : OnlyServed c (takePath c bound keys).1 := by
  refine foldl_onlyServed _ (fun q p => ?_) _ (c, c.counter)
  dsimp only
  split
  · exact ⟨_, rfl⟩
  · exact ⟨_, rfl⟩

/-! #### Loads are served after the stores before them -/

theorem mem_servedFirst {keys : List Nat} {l : List VStore} {v : VStore} {a : Nat} (hv : v ∈ l) (ha : a ∈ v.keys)
    (hkey : a ∈ keys) : v ∈ servedFirst keys l := by
  unfold servedFirst
  induction l with
  | nil => cases hv
  | cons u l ih =>
    rw [List.foldr_cons]
    rcases List.mem_cons.1 hv with rfl | hv
    · have hplace : (v.keys.any fun a => ((keys.map servedAt).eraseDups).contains (servedAt a)) = true :=
        List.any_eq_true.2 ⟨a, ha, by simpa using ⟨a, hkey, rfl⟩⟩
      rw [hplace, Bool.true_or, if_pos rfl]
      exact List.mem_cons_self
    · split
      · exact List.mem_cons_of_mem _ (ih hv)
      · exact ih hv

theorem servedFirst_eq_nil {keys : List Nat} {l : List VStore}
    (h : ∀ v ∈ l, ∀ a ∈ v.keys, servedAt a ∉ keys.map servedAt) : servedFirst keys l = [] := by
  unfold servedFirst
  induction l with
  | nil => rfl
  | cons u l ih =>
    obtain ⟨hu, hl⟩ := List.forall_mem_cons.1 h
    have hplace : (u.keys.any fun a => ((keys.map servedAt).eraseDups).contains (servedAt a)) = false := by
      refine List.any_eq_false.2 fun a ha => ?_
      simpa using hu a ha
    rw [List.foldr_cons, ih hl, hplace]
    rfl

theorem serveStores_counter (s : State) (c : Crew) (keys : List Nat) : (serveStores s c keys).2.counter = c.counter := by
  unfold serveStores
  split
  · rfl
  · exact settle_counter _

theorem loadPath_counter (s : State) (c : Crew) (bound : Nat) (keys : List Nat) :
    (loadPath s c bound keys).2.counter = c.counter := by
  obtain ⟨_, h⟩ := takePath_onlyServed (serveStores s c keys).2 bound keys
  exact (congrArg Crew.counter h).trans (serveStores_counter s c keys)

theorem loadPath_vstores (s : State) (c : Crew) (bound : Nat) (keys : List Nat) :
    (loadPath s c bound keys).2.vstores = (serveStores s c keys).2.vstores := by
  obtain ⟨_, h⟩ := takePath_onlyServed (serveStores s c keys).2 bound keys
  exact (congrArg Crew.vstores h :)

theorem loadPath_state (s : State) (c : Crew) (bound : Nat) (keys : List Nat) :
    (loadPath s c bound keys).1 = (serveStores s c keys).1 := rfl

theorem serveStores_none {s : State} {c : Crew} {keys : List Nat} (h : servedFirst keys c.vstores = []) :
    serveStores s c keys = (s, c) := by
  unfold serveStores
  rw [h]

/-- Of the stores that wait after a load none touches its bytes (R205, R216). -/
theorem serveStores_vstores {s : State} {c : Crew} {keys : List Nat} :
    ∀ v ∈ (serveStores s c keys).2.vstores, v ∈ c.vstores ∧ ∀ a ∈ v.keys, a ∉ keys := by
  intro v hv
  unfold serveStores at hv
  split at hv
  · next hnone =>
    refine ⟨hv, fun a ha hkey => ?_⟩
    have hmem := mem_servedFirst hv ha hkey
    rw [hnone] at hmem
    cases hmem
  · rw [settle_vstores] at hv
    obtain ⟨hmem, hlate⟩ := List.mem_filter.1 hv
    refine ⟨hmem, fun a ha hkey => ?_⟩
    have hserved : ((servedFirst keys c.vstores).any (·.seq == v.seq)) = true :=
      List.any_eq_true.2 ⟨v, mem_servedFirst hmem ha hkey, beq_self_eq_true _⟩
    rw [hserved] at hlate
    cases hlate

/-! #### The words -/

theorem exec_vld (sz : BitVec 2) (o : FmtM) (s : State) : exec (.vld sz o) s = execVld sz o s := rfl
theorem exec_vst (sz : BitVec 2) (o : FmtM) (s : State) : exec (.vst sz o) s = execVst sz o s := rfl
theorem exec_vgath (o : FmtA) (s : State) : exec (.vgath o) s = execVgath o s := rfl
theorem exec_vgathq (o : FmtA) (s : State) : exec (.vgathq o) s = execVgathq o s := rfl
theorem exec_vscat (o : FmtA) (s : State) : exec (.vscat o) s = execVscat o s := rfl
theorem exec_vscatadd (o : FmtA) (s : State) : exec (.vscatadd o) s = execVscatadd o s := rfl

section
variable {s s₁ : State} {k : Nat} {c c₁ : Crew} {r : Region} {i : Instr} {pred : BitVec 4} {pn : Bool} {occupancy : Nat}
  {vs : List (BitVec 6 × Bool)}

/-- A vector memory word that runs holds the memory path and runs its body (R185). -/
theorem memoryWord_runs (h : VectorRuns s k c (memFrame pred pn occupancy vs)) {body : State → Nat → Crew → PredReg → Effect}
    (hi : exec i s = vectorWord (memoryFrame pred.toNat pn occupancy (vs.map fun q => (q.1.toNat, q.2))) s body) :
    exec i s = finish s k .v c (vs.map fun q => (.v, q.1.toNat, q.2))
      (body s k (holdsPath c occupancy) (guardBits s c pred.toNat pn)) := by
  have hframe : memoryFrame pred.toNat pn occupancy (vs.map fun q => (q.1.toNat, q.2)) = memFrame pred pn occupancy vs := by
    simp only [memoryFrame, memFrame, List.map_map, Function.comp_def]
  rw [hi, hframe]
  exact vectorWord_runs h body

/-- A word on a tile register that is free and names a region runs its body on it (R219, R220). -/
theorem tileWord_runs {t : Nat} {writes : Bool} (h : VectorRuns s k c (memFrame pred pn occupancy vs))
    (htile : tileUse s k (holdsPath c occupancy) t writes = .region r)
    {body : State → Nat → Crew → PredReg → Region → Effect}
    (hi : exec i s = tileWord (memoryFrame pred.toNat pn occupancy (vs.map fun q => (q.1.toNat, q.2))) t writes s body) :
    exec i s = finish s k .v c (vs.map fun q => (.v, q.1.toNat, q.2))
      (body s k (holdsPath c occupancy) (guardBits s c pred.toNat pn) r) := by
  have hrun := memoryWord_runs h hi
  rwa [htile] at hrun

/-- A store whose bytes or additions are not empty joins the crew's stores (R216). -/
theorem addStore_eq {bound : Nat} {writes : List Host.Cell} {adds : List VAdd} {ordered : Bool}
    (h : (writes.isEmpty && adds.isEmpty) = false) :
    addStore s c bound writes adds ordered = .done (bump s)
      { (takePath c bound (Claims.storeOf s c writes adds ordered 0).keys).1 with
        vstores := (takePath c bound (Claims.storeOf s c writes adds ordered 0).keys).1.vstores ++
          [Claims.storeOf s c writes adds ordered (takePath c bound (Claims.storeOf s c writes adds ordered 0).keys).2] } := by
  unfold addStore
  rw [h]
  rfl

theorem isEmpty_and_false {α : Type} {l : List α} (h : l ≠ []) (b : Bool) : (l.isEmpty && b) = false := by
  rw [List.isEmpty_eq_false_iff.2 h, Bool.false_and]

/-- A word whose body adds a store leaves it waiting in its crew (log 43). -/
theorem storeWaits_of_addStore {d : Crew} {frees : List (RegFile × Nat × Bool)} {bound : Nat} {writes : List Host.Cell}
    {adds : List VAdd} {ordered : Bool} (h : (writes.isEmpty && adds.isEmpty) = false)
    (hi : exec i s = finish s k .v d frees (addStore s c bound writes adds ordered)) :
    storeWaits i s k c bound frees writes adds ordered := by
  show exec i s = _
  rw [hi, addStore_eq h, finish_done]
  rfl

end

section
variable {s s₁ : State} {k : Nat} {c c₁ : Crew} {r : Region} {sz : BitVec 2} {o : FmtM} {occ : Nat}
  (hocc : occ = if 64 * 2 ^ sz.toNat = 512 then 2 else 1)
include hocc

/-- An offset of VLD and VST that traps (R200). -/
theorem vld_misaligned (h : VectorRuns s k c (memFrame o.pred o.pn occ [])) (hoff : o.off.toInt < 0 ∨ o.off.toNat % 64 ≠ 0) :
    exec (.vld sz o) s = .next (wordTrap s k .v c 0x05 (o.off.signExtend 64)) := by
  subst hocc
  have hi := exec_vld sz o s
  dsimp only [execVld] at hi
  exact (memoryWord_runs h hi).trans (congrArg (finish s k .v c _) (if_pos hoff))

theorem vst_misaligned (h : VectorRuns s k c (memFrame o.pred o.pn occ [(o.rd, o.ld)]))
    (hoff : o.off.toInt < 0 ∨ o.off.toNat % 64 ≠ 0) :
    exec (.vst sz o) s = .next (wordTrap s k .v c 0x05 (o.off.signExtend 64)) := by
  subst hocc
  have hi := exec_vst sz o s
  dsimp only [execVst] at hi
  exact (memoryWord_runs h hi).trans (congrArg (finish s k .v c _) (if_pos hoff))

theorem vld_runs (h : VectorRuns s k c (memFrame o.pred o.pn occ [])) (hpos : 0 ≤ o.off.toInt) (hal : o.off.toNat % 64 = 0)
    (htile : tileUse s k (holdsPath c occ) o.ra.toNat false = .region r)
    (hload : loadPath s (holdsPath c occ) (loadBound k r)
      ((List.range (64 * 2 ^ sz.toNat)).filterMap fun i => r.key k (o.off.toNat + i)) = (s₁, c₁)) :
    exec (.vld sz o) s = .next (issued s₁ k .v (putRegister c₁ o.rd.toNat 8 false ((List.range 512).map fun i =>
      if i < 64 * 2 ^ sz.toNat && active (guardBits s c o.pred.toNat o.pn) 8 i then
        some ((vectorByte s₁ k r (o.off.toNat + i)).toNat, (0 : FlagSet)) else none) (loadBound k r)) []) := by
  subst hocc
  have hoff : ¬ (o.off.toInt < 0 ∨ o.off.toNat % 64 ≠ 0) := by omega
  have hi := exec_vld sz o s
  dsimp only [execVld] at hi
  have hrun := memoryWord_runs h hi
  rw [if_neg hoff, htile] at hrun
  dsimp only at hrun
  rw [hload] at hrun
  exact hrun

theorem vst_runs (h : VectorRuns s k c (memFrame o.pred o.pn occ [(o.rd, o.ld)])) (hpos : 0 ≤ o.off.toInt)
    (hal : o.off.toNat % 64 = 0) (htile : tileUse s k (holdsPath c occ) o.ra.toNat true = .region r) :
    exec (.vst sz o) s = finish s k .v c [(.v, o.rd.toNat, o.ld)] (addStore s (holdsPath c occ) (loadBound k r)
      ((List.range (64 * 2 ^ sz.toNat)).filterMap fun i =>
        if active (guardBits s c o.pred.toNat o.pn) 8 i then
          (r.key k (o.off.toNat + i)).map fun a => (a, BitVec.ofNat 8 (elem 8 (readV s c 0 o.rd.toNat) i))
        else none) [] false) := by
  subst hocc
  have hoff : ¬ (o.off.toInt < 0 ∨ o.off.toNat % 64 ≠ 0) := by omega
  have hi := exec_vst sz o s
  dsimp only [execVst] at hi
  have hrun := memoryWord_runs h hi
  rw [if_neg hoff, htile] at hrun
  exact hrun

end

theorem byteElem_eq (v : VecReg) (i : Nat) : BitVec.ofNat 8 (elem 8 v i) = v.extractLsb' (8 * i) 8 := by
  refine BitVec.eq_of_toNat_eq ?_
  rw [BitVec.toNat_ofNat, elem, BitVec.extractLsb'_toNat, Nat.shiftRight_eq_div_pow, Nat.mod_mod]

/-- The write of a load: each byte that it takes, and no other (R200). -/
theorem vld_write (c : Crew) (r : Nat) (p : Nat → Bool) (v : Nat → Byte) (bound : Nat) :
    ∃ q : Pend 4096, putRegister c r 8 false ((List.range 512).map fun i =>
        if p i then some ((v i).toNat, (0 : FlagSet)) else none) bound = { c with pendV := c.pendV ++ [q] } ∧
      q.reg = r ∧ q.land = .count (c.counter + bound) ∧
      ∀ i < 512, elem 8 q.mask i = (if p i then 255 else 0) ∧ elem 8 q.val i = (if p i then (v i).toNat else 0) := by
  obtain ⟨q, hput, hreg, -, hland, -, -, helem⟩ := putRegister_spec c r 8 false ((List.range 512).map fun i =>
        if p i then some ((v i).toNat, (0 : FlagSet)) else none) bound (by simp)
  refine ⟨q, hput, hreg, hland, fun i hi => ?_⟩
  obtain ⟨hval, hmask⟩ := helem i (by simpa using hi)
  simp only [List.getElem_map, List.getElem_range] at hval hmask
  rw [hval, hmask]
  by_cases hp : p i = true
  · simp only [if_pos hp]
    exact ⟨rfl, Nat.mod_eq_of_lt (v i).isLt⟩
  · simp only [if_neg hp]
    exact ⟨rfl, rfl⟩

/-! #### Gathers -/

theorem onActive_congr {g : PredReg} {w n : Nat} {f f' : Nat → Nat × FlagSet}
    (h : ∀ i < n, active g w i = true → f i = f' i) : onActive g w n f = onActive g w n f' := by
  refine List.map_congr_left fun i hi => ?_
  by_cases ha : active g w i = true
  · rw [if_pos ha, if_pos ha, h i (List.mem_range.1 hi) ha]
  · rw [if_neg ha, if_neg ha]

/-- The value of a region's element, zero for an index outside (R202). -/
def regionElement (s : State) (k : Nat) (r : Region) (n j : Nat) : Nat :=
  if (j + 1) * n ≤ r.size then vectorBytes s k r (j * n) n else 0

section
variable {s s₁ : State} {k : Nat} {c c₁ d : Crew} {r : Region} {i : Instr} {o : FmtA} {g : PredReg} {index index' : Nat → Nat}
  {frees : List (RegFile × Nat × Bool)}

theorem gatherBody_eq (hindex : ∀ i < 4096 / typeWidth o.ty.toNat, active g (typeWidth o.ty.toNat) i = true → index' i = index i)
    (hload : loadPath s d (gatherBound k r) (gatheredKeys k r (typeWidth o.ty.toNat) g index) = (s₁, c₁)) :
    gatherBody o s k d g r index' = .done s₁ (putRegister c₁ o.rd.toNat (typeWidth o.ty.toNat) (zeroing o)
      (onActive g (typeWidth o.ty.toNat) (4096 / typeWidth o.ty.toNat) fun i =>
        (regionElement s₁ k r (typeWidth o.ty.toNat / 8) (index i), 0)) (gatherBound k r)) := by
  unfold gatherBody
  generalize typeWidth o.ty.toNat = w at *
  have hkeys : (((List.range (elementCount w)).filter (active g w)).flatMap fun i =>
      match elementAt r (w / 8) (index' i) with
      | some f => (List.range (w / 8)).filterMap fun j => r.key k (f + j)
      | none => []) = gatheredKeys k r w g index := by
    refine flatMap_congr_of_mem fun i hi => ?_
    obtain ⟨hi, hact⟩ := List.mem_filter.1 hi
    rw [hindex i (List.mem_range.1 hi) hact, elementAt]
    by_cases hin : (index i + 1) * (w / 8) ≤ r.size
    · rw [if_pos hin, if_pos hin]
    · rw [if_neg hin, if_neg hin]
  have helems : ∀ s : State, onActive g w (elementCount w) (fun i =>
      (match elementAt r (w / 8) (index' i) with | some f => vectorBytes s k r f (w / 8) | none => 0, (0 : FlagSet))) =
        onActive g w (4096 / w) fun i => (regionElement s k r (w / 8) (index i), 0) := by
    intro s
    refine onActive_congr fun i hi hact => ?_
    rw [hindex i hi hact, elementAt, regionElement]
    by_cases hin : (index i + 1) * (w / 8) ≤ r.size
    · rw [if_pos hin, if_pos hin]
    · rw [if_neg hin, if_neg hin]
  refine (congr_two (fun keys (l : State → List (Option (Nat × FlagSet))) =>
    Effect.done (loadPath s d (gatherBound k r) keys).1 (putRegister (loadPath s d (gatherBound k r) keys).2 o.rd.toNat w
      (zeroing o) (l (loadPath s d (gatherBound k r) keys).1) (gatherBound k r))) hkeys (funext helems)).trans ?_
  simp only [hload]

/-- A word whose body gathers takes the elements that its indices name (R202). -/
theorem gathers_of_gatherBody
    (hindex : ∀ i < 4096 / typeWidth o.ty.toNat, active g (typeWidth o.ty.toNat) i = true → index' i = index i)
    (hload : loadPath s d (gatherBound k r) (gatheredKeys k r (typeWidth o.ty.toNat) g index) = (s₁, c₁))
    (hi : exec i s = finish s k .v c frees (gatherBody o s k d g r index')) :
    ∃ ps, holdsElements d ps g (zeroing o) (typeWidth o.ty.toNat) (typeWidth o.ty.toNat) 1 (4096 / typeWidth o.ty.toNat)
        o.rd.toNat (gatherBound k r) (fun i => (regionElement s₁ k r (typeWidth o.ty.toNat / 8) (index i), 0)) ∧
      exec i s = .next (issued s₁ k .v { c₁ with pendV := c₁.pendV ++ ps } frees) := by
  have hcounter : c₁.counter = d.counter := by
    have := loadPath_counter s d (gatherBound k r) (gatheredKeys k r (typeWidth o.ty.toNat) g index)
    rwa [hload] at this
  obtain ⟨ps, hput, hlen, hfields, helems⟩ := putGroup_holdsElements c₁ g (zeroing o) (typeWidth o.ty.toNat)
    (typeWidth o.ty.toNat) 1 (4096 / typeWidth o.ty.toNat) o.rd.toNat (gatherBound k r)
    (fun i => (regionElement s₁ k r (typeWidth o.ty.toNat / 8) (index i), 0))
    (fun _ => ⟨_, (Nat.one_mul _).symm, Nat.mul_div_le 4096 _⟩)
  rw [putGroup_one] at hput
  refine ⟨ps, ⟨hlen, ?_, helems⟩, ?_⟩
  · rw [← hcounter]
    exact hfields
  · rw [hi, gatherBody_eq hindex hload, finish_done, hput]

end

/-- The position of an active element among the active ones: the number of those below it. -/
theorem takeWhile_active_length {p : Nat → Bool} {n i : Nat} (hi : i < n) (hp : p i = true) :
    ((((List.range n).filter p).takeWhile (· != i)).length) = ((List.range i).filter p).length := by
  obtain ⟨m, rfl⟩ := Nat.exists_eq_add_of_lt hi
  have hsplit : (List.range (i + m + 1)).filter p =
      (List.range i).filter p ++ i :: (((List.range m).map Nat.succ).map (i + ·)).filter p := by
    rw [Nat.add_assoc, List.range_add, List.filter_append, List.range_succ_eq_map, List.map_cons, Nat.add_zero,
      List.filter_cons_of_pos hp]
  rw [hsplit, List.takeWhile_append_of_pos fun j hj => ?_]
  · simp
  · have : j < i := List.mem_range.1 (List.mem_filter.1 hj).1
    simpa using Nat.ne_of_lt this

/-! #### Scatters -/

theorem valueBytes_eq (n v : Nat) : valueBytes n v = (List.range n).map fun b => BitVec.ofNat 8 (v / 256 ^ b) := by
  induction n generalizing v with
  | zero => rfl
  | succ n ih =>
    rw [valueBytes, ih, List.range_succ_eq_map, List.map_cons, List.map_map]
    refine congr_two List.cons (by simp) (List.map_congr_left fun b _ => ?_)
    rw [Function.comp, Nat.pow_succ', ← Nat.div_div_eq_div_mul]

/-- The bytes of an element as a scatter writes them (R203). -/
theorem valueBytes_elem (v : VecReg) {w : Nat} (j : Nat) (hw : 8 * (w / 8) = w) :
    (valueBytes (w / 8) (elem w v j)) = (List.range (w / 8)).map fun b => v.extractLsb' (w * j + 8 * b) 8 := by
  rw [valueBytes_eq]
  refine List.map_congr_left fun b hb => BitVec.eq_of_getLsbD_eq fun t ht => ?_
  have hlt := List.mem_range.1 hb
  have hpow : 256 ^ b = 2 ^ (8 * b) := by rw [Nat.pow_mul]
  rw [BitVec.getLsbD_ofNat, hpow, elem, Nat.testBit_div_two_pow, Nat.testBit_mod_two_pow, Nat.testBit_div_two_pow,
    BitVec.getLsbD_extractLsb', BitVec.testBit_toNat, decide_eq_true ht, decide_eq_true (show t + 8 * b < w by omega),
    Bool.true_and, Bool.true_and, Bool.true_and]
  congr 1
  omega

/-- The cells of a scatter's element, byte by byte (R203). -/
theorem scatterCells_eq (v : VecReg) {w : Nat} (key j : Nat) (hw : 8 * (w / 8) = w) :
    ((valueBytes (w / 8) (elem w v j)).zipIdx.map fun b => (key + b.2, b.1)) =
      (List.range (w / 8)).map fun b => (key + b, v.extractLsb' (w * j + 8 * b) 8) := by
  rw [valueBytes_elem v j hw]
  refine List.ext_getElem (by simp) fun i _ _ => ?_
  simp

theorem byteWidth_of_le {t : Nat} (h : 8 ≤ typeWidth t) : 8 * (typeWidth t / 8) = typeWidth t ∧ 0 < typeWidth t / 8 := by
  have := typeWidth_mem t
  simp only [List.mem_cons, List.not_mem_nil, or_false] at this
  omega

theorem vectorMemoryWords : VectorMemoryWords := by
  refine ⟨fun s c bound keys => ⟨fun v hv => ?later, fun h => ?untouched⟩, fun s k c r => ⟨fun sz o => ?load, fun o => ?gather⟩⟩
  case later =>
    rw [loadPath_vstores] at hv
    exact serveStores_vstores v hv
  case untouched =>
    have hnone := serveStores_none (s := s) (servedFirst_eq_nil h)
    rw [loadPath_vstores, loadPath_state, hnone]
    exact ⟨rfl, rfl⟩
  case load =>
    intro len occ g misaligned
    refine ⟨fun h => ⟨fun hpos hal htile s1 c1 hload => ?_, vld_misaligned rfl h⟩,
      fun h => ⟨fun hpos hal htile cells hcells hne => ?_, vst_misaligned rfl h⟩⟩
    · have hcounter : c1.counter = c.counter := by
        have := loadPath_counter s (holdsPath c occ) (loadBound k r) ((List.range len).filterMap fun i => r.key k (o.off.toNat + i))
        rw [hload] at this
        exact this
      obtain ⟨q, hput, hreg, hland, helem⟩ := vld_write c1 o.rd.toNat (fun i => i < len && active g 8 i)
        (fun i => vectorByte s1 k r (o.off.toNat + i)) (loadBound k r)
      refine ⟨q, hreg, hcounter ▸ hland, helem, ?_⟩
      rw [vld_runs rfl h hpos hal htile hload]
      exact congrArg (fun d => Host.Outcome.next (issued s1 k .v d [])) hput
    · subst hcells
      refine storeWaits_of_addStore (d := c) (isEmpty_and_false hne _) ?_
      rw [vst_runs rfl h hpos hal htile]
      simp only [byteElem_eq]
      rfl
  case gather =>
    intro w n g read gathers
    refine ⟨fun h htile s1 c1 hload => ?vgath, fun indices rest h htile hq hlen s1 c1 hload => ?vgathq,
      fun h htile targets htargets hne hw => ⟨?vscat, ?vscatadd⟩⟩
    case vgath =>
      have hi := tileWord_runs h htile (exec_vgath o s)
      exact gathers_of_gatherBody (fun _ _ _ => rfl) hload hi
    case vgathq =>
      have hi := tileWord_runs h htile (exec_vgathq o s)
      dsimp only at hi
      have hqueue : (holdsPath c 4).gleaner.queue = indices.map some ++ rest := hq
      have hwanted : ((List.range (elementCount (typeWidth o.ty.toNat))).filter
        (active (guardBits s c o.pred.toNat o.pn) (typeWidth o.ty.toNat))).length = (indices.map some).length := by
          rw [List.length_map]
          exact hlen.symm
      rw [hqueue, hwanted, List.take_left, List.drop_left, if_neg (by simp), if_neg (by simp)] at hi
      refine gathers_of_gatherBody (fun i hlt hact => ?_) hload hi
      have hplace := takeWhile_active_length (p := active g w) hlt hact
      have hget : (indices.map some)[((List.range i).filter (active g w)).length]? =
        (indices[((List.range i).filter (active g w)).length]?).map some := List.getElem?_map ..
      rw [elementCount, hplace, hget]
      rw [List.getD_eq_getElem?_getD]
      cases indices[((List.range i).filter (active g w)).length]? <;> rfl
    case vscat =>
      obtain ⟨hw8, hpos⟩ := byteWidth_of_le hw
      have hi := tileWord_runs h htile (exec_vscat o s)
      have hcells : (targets.flatMap fun q => (valueBytes n (elem w (readV s c 2 o.rc.toNat) q.2)).zipIdx.map fun b =>
          (q.1 + b.2, b.1)) = targets.flatMap fun q => (List.range n).map fun b =>
            (q.1 + b, (readV s c 2 o.rc.toNat).extractLsb' (w * q.2 + 8 * b) 8) :=
        flatMap_congr_of_mem fun q _ => scatterCells_eq _ _ _ hw8
      rw [← hcells]
      refine storeWaits_of_addStore (d := c) (isEmpty_and_false ?_ _) (htargets ▸ hi)
      rw [hcells]
      intro hnil
      obtain ⟨q, hq⟩ := List.exists_mem_of_ne_nil _ hne
      have := List.flatMap_eq_nil_iff.1 hnil q hq
      rw [List.map_eq_nil_iff, List.range_eq_nil] at this
      omega
    case vscatadd =>
      have hi := tileWord_runs h htile (exec_vscatadd o s)
      have hadvance : advanceRandom (holdsPath c 4) o.mod (isFloat o.ty.toNat) = { holdsPath c 4 with
          srctr := if isFloat o.ty.toNat && modeCode c o.mod == 5 then c.srctr + 256 else c.srctr } := by
        show (if isFloat o.ty.toNat && modeCode c o.mod == 5 then _ else _) = _
        split <;> rfl
      rw [← hadvance]
      refine storeWaits_of_addStore (d := c) ?_ (htargets ▸ hi)
      rw [List.isEmpty_nil, Bool.true_and, List.isEmpty_eq_false_iff]
      exact fun hnil => hne (List.map_eq_nil_iff.1 hnil)

/-- Settles O24: VCMP's granules and the predicates' bits are read off the packed lists; a load is served behind the stores of its
banks and shares, and a store joins those that wait. -/
theorem predicateAndVectorMemoryWords : Obligations.PredicateAndVectorMemoryWords :=
  ⟨predicateWords, vectorMemoryWords⟩

end Sys2Proof.Machine
end

/-! ### When a word that queues a command traps (R227, R254, R286, R364, R383, R384) -/

section
namespace Sys2Proof.Machine
open Sys2Proof.Claims Sys2Proof.Config

section
variable {s : State} {k : Nat} {c : Crew} {o : FmtC} {priv useA useB : Bool}

/-- A command word with a semaphore is illegal on a Reeve. -/
theorem commandWord_semaphoreOnReeve
    (h : WordRuns s k .s c .s priv none
      ((if useA then [(.x, o.ra.toNat)] else []) ++ (if useB then [(.x, o.rb.toNat)] else [])))
    (hk : isReeve k = true) (hs : (o.wv || o.sv) = true) (body : State → Nat → Crew → Word → Word → Effect) :
    commandWord o priv useA useB s body = .next (wordTrap s k .s c 0x01 0xB) := by
  have hkv : (isReeve k && (o.wv || o.sv)) = true := by rw [hk, hs]; rfl
  unfold commandWord
  rw [runWord_runs h]
  exact (congrArg (finish s k .s c _) (if_pos hkv)).trans (finish_trap ..)

/-- A command word whose operands' first poisoned register is known traps with it. -/
theorem commandWord_poisoned {p : Word}
    (h : WordRuns s k .s c .s priv none
      ((if useA then [(.x, o.ra.toNat)] else []) ++ (if useB then [(.x, o.rb.toNat)] else [])))
    (hs : (isReeve k && (o.wv || o.sv)) = false)
    (hp : poisonedX s c ((if useA then [(0, o.ra)] else []) ++ (if useB then [(1, o.rb)] else [])) = some p)
    (body : State → Nat → Crew → Word → Word → Effect) :
    commandWord o priv useA useB s body = .next (wordTrap s k .s c 0x04 p) := by
  unfold commandWord
  rw [runWord_runs h]
  refine (congrArg (finish s k .s c _) (if_neg (Bool.eq_false_iff.1 hs))).trans ?_
  rw [hp]
  exact finish_trap ..

/-- The first poisoned register of a command word is xA where it reads a poisoned xA. -/
theorem poisonedX_commandA (hu : useA = true) (ha : tagX s c 0 o.ra = true) :
    poisonedX s c ((if useA then [(0, o.ra)] else []) ++ (if useB then [(1, o.rb)] else [])) =
      some (BitVec.ofNat 64 o.ra.toNat) := by
  subst hu
  simp [poisonedX, ha, regCode]

/-- It is xB where xA is clean. -/
theorem poisonedX_commandB (ha : tagX s c 0 o.ra = false) (hu : useB = true) (hb : tagX s c 1 o.rb = true) :
    poisonedX s c ((if useA then [(0, o.ra)] else []) ++ (if useB then [(1, o.rb)] else [])) =
      some (BitVec.ofNat 64 o.rb.toNat) := by
  subst hu
  cases useA <;> simp [poisonedX, ha, hb, regCode]

/-- A privileged command word is illegal on a bench. -/
theorem commandWord_onBench (hcur : s.cur = .crew k .s) (hc : crewAt s k = some c) (hk : isReeve k = false)
    (body : State → Nat → Crew → Word → Word → Effect) :
    commandWord o true useA useB s body = .next (wordTrap s k .s c 0x01 0) := by
  simp [commandWord, runWord, hcur, hc, hk]

end

section
variable (o : FmtC) (s : State)

theorem exec_tld : exec (.tld o) s = carterWord o .tld true true 64 (fun _ _ _ => true) false s := rfl
theorem exec_tst : exec (.tst o) s = carterWord o .tst true true 64 (fun _ _ _ => true) false s := rfl
theorem exec_tmov : exec (.tmov o) s = execTmov o s := rfl
theorem exec_tcopy2d : exec (.tcopy2d o) s = execTcopy2d o s := rfl
theorem exec_clist : exec (.clist o) s = execClist o s := rfl
theorem exec_trope : exec (.trope o) s = execTrope o s := rfl
theorem exec_glcfg : exec (.glcfg o) s = execGlcfg o s := rfl
theorem exec_glgo : exec (.glgo o) s = execGlgo o s := rfl
theorem exec_mcfg : exec (.mcfg o) s = execMcfg o s := rfl
theorem exec_mgo : exec (.mgo o) s = execMgo o s := rfl
theorem exec_mclaim : exec (.mclaim o) s = execMclaim o s := rfl
theorem exec_mrel : exec (.mrel o) s = execMrel o s := rfl
theorem exec_mldo : exec (.mldo o) s = execMldo o s := rfl
theorem exec_mret : exec (.mret o) s = execMret o s := rfl
theorem exec_mcell : exec (.mcell o) s = execMcell o s := rfl
theorem exec_bqcmd : exec (.bqcmd o) s = execBqcmd o s := rfl
theorem exec_bqload : exec (.bqload o) s = execBqload o s := rfl
theorem exec_winfence : exec (.winfence o) s = execWinfence o s := rfl
theorem exec_fld : exec (.fld o) s = remoteWord o .fld 64 true s := rfl
theorem exec_fst : exec (.fst o) s = remoteWord o .fst 64 true s := rfl
theorem exec_fget : exec (.fget o) s = recordsWord o .fget 4096 s := rfl
theorem exec_fput : exec (.fput o) s = recordsWord o .fput 4096 s := rfl
theorem exec_ffadd : exec (.ffadd o) s = recordsWord o .ffadd 256 s := rfl
theorem exec_fmcast : exec (.fmcast o) s = execFmcast o s := rfl
theorem exec_fsig : exec (.fsig o) s = remoteWord o .fsig 8 false s := rfl
theorem exec_leaseGrant : exec (.leaseGrant o) s = reeveWord o .leaseGrant 64 s := rfl
theorem exec_leaseRecall : exec (.leaseRecall o) s = reeveWord o .leaseRecall 64 s := rfl
theorem exec_leaseRelease : exec (.leaseRelease o) s = reeveWord o .leaseRelease 64 s := rfl
theorem exec_slotswLoad : exec (.slotswLoad o) s = reeveWord o .slotswLoad 64 s := rfl
theorem exec_slotswSwitch : exec (.slotswSwitch o) s = reeveWord o .slotswSwitch 1 s := rfl

end

/-- An instruction is a format C word with the privilege and the operands of its row. -/
def IsCommandWord (o : FmtC) (q : Instr × Bool × Bool × Bool) : Prop :=
  ∀ s, ∃ body, exec q.1 s = commandWord o q.2.1 q.2.2.1 q.2.2.2 s body

/-- Every listed word is a format C word with the privilege and the registers of its row. -/
theorem commandWords_areCommandWords (o : FmtC) : ∀ q ∈ commandWords o, IsCommandWord o q := by
  simp only [commandWords, List.forall_mem_cons, IsCommandWord,
    exec_tld, exec_tst, exec_tmov, exec_tcopy2d, exec_clist, exec_trope, exec_glcfg, exec_glgo, exec_mcfg, exec_mgo,
    exec_mclaim, exec_mrel, exec_mldo, exec_mret, exec_mcell, exec_bqcmd, exec_bqload, exec_winfence, exec_fld, exec_fst,
    exec_fget, exec_fput, exec_ffadd, exec_fmcast, exec_fsig, exec_leaseGrant, exec_leaseRecall, exec_leaseRelease,
    exec_slotswLoad, exec_slotswSwitch, execTmov, execTcopy2d, execClist, execTrope, execGlcfg, execGlgo, execMcfg, execMgo,
    execMclaim, execMrel, execMldo, execMret, execMcell, execBqcmd, execBqload, execWinfence, execFmcast, carterWord,
    matrixWord, remoteWord, recordsWord, reeveWord]
  refine ⟨?_, ?_, ?_, ?_, ?_, ?_, ?_, ?_, ?_, ?_, ?_, ?_, ?_, ?_, ?_, ?_, ?_, ?_, ?_, ?_, ?_, ?_, ?_, ?_, ?_, ?_, ?_, ?_, ?_, ?_,
    fun _ h => nomatch h⟩ <;> exact fun s => ⟨_, rfl⟩

section
variable {s : State} {k : Nat} {c : Crew} {o : FmtC} {priv useA useB : Bool}

/-- A format C word that passes its frame ends as its body ends. -/
theorem commandWord_ends (h : CommandRuns s k c o priv useA useB) (body : State → Nat → Crew → Word → Word → Effect) :
    commandWord o priv useA useB s body = finish s k .s c (freesC o)
      (body s k c (if useA then readX s c 0 o.ra else 0) (if useB then readX s c 1 o.rb else 0)) := by
  obtain ⟨hw, hs, ha, hb⟩ := h
  exact commandWord_runs hw hs ha hb body

/-- A word of the Gleaner or of the matrix engine is illegal on a Reeve. -/
theorem commandWord_onReeve (h : CommandRuns s k c o priv useA useB) (hk : isReeve k = true)
    (body : State → Nat → Crew → Word → Word → Effect) :
    commandWord o priv useA useB s (fun s k c xa xb => if isReeve k then .trap 0x01 0xB else body s k c xa xb) =
      .next (wordTrap s k .s c 0x01 0xB) := by
  rw [commandWord_ends h, if_pos hk, finish_trap]

theorem matrixWord_onReeve (h : CommandRuns s k c o false useA false) (hk : isReeve k = true)
    (body : State → Nat → Crew → Word → Effect) :
    matrixWord o useA s body = .next (wordTrap s k .s c 0x01 0xB) :=
  commandWord_onReeve h hk fun s k c xa _ => body s k c xa

/-- A word of the matrix engine on a bench that passes its frame ends as its body ends. -/
theorem matrixWord_ends (h : CommandRuns s k c o false useA false) (hk : isReeve k = false)
    (body : State → Nat → Crew → Word → Effect) :
    matrixWord o useA s body = finish s k .s c (freesC o) (body s k c (if useA then readX s c 0 o.ra else 0)) := by
  rw [matrixWord, commandWord_ends h, if_neg (Bool.eq_false_iff.1 hk)]

end

/-- The Gleaner's and the matrix engine's words are illegal on a Reeve. -/
theorem benchWords_trapOnReeve (o : FmtC) (s : State) (k : Nat) (c : Crew) (hk : isReeve k = true) :
    ∀ q ∈ commandWords o,
      q.1 ∈ [Instr.glcfg o, .glgo o, .mcfg o, .mgo o, .mclaim o, .mrel o, .mldo o, .mret o, .mcell o] →
      CommandRuns s k c o false q.2.2.1 q.2.2.2 → exec q.1 s = .next (wordTrap s k .s c 0x01 0xB) := by
  simp only [commandWords, List.forall_mem_cons]
  simp only [List.mem_cons, List.not_mem_nil, reduceCtorEq, or_false, or_true, or_self, false_implies, true_implies, true_and,
    implies_true, and_true, exec_glcfg, exec_glgo, exec_mcfg, exec_mgo, exec_mclaim, exec_mrel, exec_mldo, exec_mret, exec_mcell]
  exact ⟨fun h => commandWord_onReeve h hk _, fun h => commandWord_onReeve h hk _, fun h => matrixWord_onReeve h hk _,
    fun h => matrixWord_onReeve h hk _, fun h => matrixWord_onReeve h hk _, fun h => matrixWord_onReeve h hk _,
    fun h => matrixWord_onReeve h hk _, fun h => matrixWord_onReeve h hk _, fun h => matrixWord_onReeve h hk _⟩

/-- Settles O25: each way of a command word to trap, in the order of its frame's checks. -/
theorem engineCommandWordsTrap : Obligations.EngineCommandWordsTrap := by
  intro o s k c q hq srcs
  obtain ⟨body, hbody⟩ := commandWords_areCommandWords o q hq s
  refine ⟨fun h hk hs => ?semaphore, fun h hs hu ha => ?poisonedA, fun h hs ha hu hb => ?poisonedB, fun hp hcur hc hk => ?bench,
    fun hm h hk => ?reeve⟩
  case semaphore => exact hbody.trans (commandWord_semaphoreOnReeve h hk hs body)
  case poisonedA => exact hbody.trans (commandWord_poisoned h hs (poisonedX_commandA hu ha) body)
  case poisonedB => exact hbody.trans (commandWord_poisoned h hs (poisonedX_commandB ha hu hb) body)
  case bench =>
    rw [hbody, hp]
    exact commandWord_onBench hcur hc hk body
  case reeve => exact benchWords_trapOnReeve o s k c hk q hq hm h

end Sys2Proof.Machine
end

/-! ### Words that queue a command: the copy queue, the Gleaner, circular buffers (R227, R235 to R243) -/

section
namespace Sys2Proof.Machine
open Sys2Proof.Claims Sys2Proof.Config

section
variable {i : Instr} {s : State} {k : Nat} {c : Crew} {o : FmtC} {kind : EngKind} {a b : Word} {e : EngCmd}

theorem queue_size (q : QueueName) : q.size = if q = .bank then 16 else 32 := by cases q <;> rfl

/-- A word whose body queues a command queues the command that it makes. -/
theorem queues_of_queueCmd (hi : exec i s = finish s k .s c (freesC o) (queueCmd s k c kind o a b))
    (he : makeCmd s k c kind o a b c.counter = e) : queues i s k c o e := by
  subst he
  have hq : (makeCmd s k c kind o a b c.counter).kind = kind := rfl
  refine ⟨fun hroom => ?_, fun hfull => ?_⟩
  · rw [hq, ← queue_size] at hroom
    rw [hi, queueCmd_room s k c kind o a b hroom]
    exact finish_done ..
  · rw [hq, ← queue_size] at hfull
    rw [hi, queueCmd_full s k c kind o a b hfull, finish_stall]

end

/-! ### The Carter's words -/

/-- The alignments of the Carter's operands divide 2^48. -/
theorem mod_48_align (a : Word) {j : Nat} (h : j ≤ 48) : a.toNat % 2 ^ 48 % 2 ^ j = a.toNat % 2 ^ j :=
  Nat.mod_mod_of_dvd _ (Nat.pow_dvd_pow 2 h)

section
variable {i : Instr} {s : State} {k : Nat} {c : Crew} {o : FmtC} {kind : EngKind} {useA useB : Bool} {align : Nat}
  {ok : Crew → Word → Word → Bool} {both : Bool} {a b : Word} {r w : List Nat} {e : EngCmd}

/-- The checks of R227, as a Carter's word makes them of its operands and its tile registers. -/
theorem carterWord_ends (h : CommandRuns s k c o false useA useB) (ht : tilesOf kind o.cimm = (r, w))
    (ha : (if useA then readX s c 0 o.ra else 0) = a) (hb : (if useB then readX s c 1 o.rb else 0) = b) :
    carterWord o kind useA useB align ok both s = finish s k .s c (freesC o)
      (if a.toNat % 2 ^ 48 % align ≠ 0 then .trap 0x05 (if kind = .tld ∨ kind = .tst then a &&& 0xFFFFFFFFFFFF else a)
       else if (r ++ w).any (fun t => (tileRegion c t).empty) || !ok c a b then .trap 0x01 0xB
       else if !both && (r.any (wrongWay c · true) || w.any (wrongWay c · false)) then .trap 0x01 9
       else queueCmd s k c kind o a b) := by
  subst ha hb
  rw [carterWord, commandWord_ends h, ht]

/-- It queues its command where all of them hold. -/
theorem carterWord_queues (h : CommandRuns s k c o false useA useB)
    (hi : exec i s = carterWord o kind useA useB align ok both s) (ht : tilesOf kind o.cimm = (r, w))
    (ha : (if useA then readX s c 0 o.ra else 0) = a) (hb : (if useB then readX s c 1 o.rb else 0) = b)
    (halign : a.toNat % 2 ^ 48 % align = 0)
    (hfull : ((r ++ w).any (fun t => (tileRegion c t).empty) || !ok c a b) = false)
    (hway : (!both && (r.any (wrongWay c · true) || w.any (wrongWay c · false))) = false)
    (he : makeCmd s k c kind o a b c.counter = e) : queues i s k c o e := by
  refine queues_of_queueCmd (hi.trans ?_) he
  rw [carterWord_ends h ht ha hb, if_neg (Classical.not_not.2 halign), if_neg (Bool.eq_false_iff.1 hfull),
    if_neg (Bool.eq_false_iff.1 hway)]

theorem carterWord_misaligned {p : Word} (h : CommandRuns s k c o false useA useB)
    (hi : exec i s = carterWord o kind useA useB align ok both s) (ht : tilesOf kind o.cimm = (r, w))
    (ha : (if useA then readX s c 0 o.ra else 0) = a) (halign : a.toNat % 2 ^ 48 % align ≠ 0)
    (hp : (if kind = .tld ∨ kind = .tst then a &&& 0xFFFFFFFFFFFF else a) = p) :
    exec i s = .next (wordTrap s k .s c 0x05 p) := by
  rw [hi, carterWord_ends h ht ha rfl, if_pos halign, finish_trap, hp]

theorem carterWord_illegal (h : CommandRuns s k c o false useA useB) (hi : exec i s = carterWord o kind useA useB align ok both s)
    (ht : tilesOf kind o.cimm = (r, w))
    (ha : (if useA then readX s c 0 o.ra else 0) = a) (hb : (if useB then readX s c 1 o.rb else 0) = b)
    (halign : a.toNat % 2 ^ 48 % align = 0)
    (hbad : ((r ++ w).any (fun t => (tileRegion c t).empty) || !ok c a b) = true) :
    exec i s = .next (wordTrap s k .s c 0x01 0xB) := by
  rw [hi, carterWord_ends h ht ha hb, if_neg (Classical.not_not.2 halign), if_pos hbad, finish_trap]

theorem carterWord_wrongWay (h : CommandRuns s k c o false useA useB) (hi : exec i s = carterWord o kind useA useB align ok both s)
    (ht : tilesOf kind o.cimm = (r, w))
    (ha : (if useA then readX s c 0 o.ra else 0) = a) (hb : (if useB then readX s c 1 o.rb else 0) = b)
    (halign : a.toNat % 2 ^ 48 % align = 0)
    (hfull : ((r ++ w).any (fun t => (tileRegion c t).empty) || !ok c a b) = false)
    (hway : (!both && (r.any (wrongWay c · true) || w.any (wrongWay c · false))) = true) :
    exec i s = .next (wordTrap s k .s c 0x01 9) := by
  rw [hi, carterWord_ends h ht ha hb, if_neg (Classical.not_not.2 halign), if_neg (Bool.eq_false_iff.1 hfull), if_pos hway, finish_trap]

end

theorem carterWordsQueue : CarterWordsQueue := by
  intro o s k c a b t t2 plain
  have by64 : a.toNat % 2 ^ 48 % 64 = a.toNat % 64 := mod_48_align a (j := 6) (by decide)
  have by32 : a.toNat % 2 ^ 48 % 32 = a.toNat % 32 := mod_48_align a (j := 5) (by decide)
  have by16 : a.toNat % 2 ^ 48 % 16 = a.toNat % 16 := mod_48_align a (j := 4) (by decide)
  have to32 : a.toNat % 64 = 0 → a.toNat % 32 = 0 := by omega
  have to16 : a.toNat % 64 = 0 → a.toNat % 16 = 0 := by omega
  have hW : tilesOf .tld o.cimm = ([], [t]) := rfl
  have hR : tilesOf .tst o.cimm = ([t], []) := rfl
  have hM : tilesOf .tmov o.cimm = ([t2], [t]) := rfl
  have h2D : tilesOf .tcopy2d o.cimm = ([t], [t]) := rfl
  have hL : tilesOf .clist o.cimm = ([t], [t]) := rfl
  have hRope : tilesOf .trope o.cimm = ([], [t]) := rfl
  refine ⟨fun h => ⟨fun ha hp => ?tld, fun ha hp => ?tst, fun ha hf h1 h2 => ?tcopy2d, fun ha hf h1 h2 => ?clist,
    fun ha hp hz => ?trope, fun ha => ?mis32, fun ha => ?mis16, fun ha => ?mis64, fun ha he => ?empty, fun ha hf hw => ?tldWay,
    fun ha hf hw => ?tstWay⟩, fun h => ⟨fun hp2 hp hle => ?tmov, fun hlt => ?tmovSmall⟩⟩
  case tld => exact carterWord_queues h (exec_tld o s) hW rfl rfl (by64.trans ha) (by simp [hp.1]) (by simp [hp.2]) rfl
  case tst => exact carterWord_queues h (exec_tst o s) hR rfl rfl (by64.trans ha) (by simp [hp.1]) (by simp [hp.2]) rfl
  case tcopy2d =>
    have hin : decide (1 ≤ b.toNat ∧ b.toNat ≤ 4096) = true := decide_eq_true ⟨h1, h2⟩
    exact carterWord_queues (b := b) h (exec_tcopy2d o s) h2D rfl rfl (by32.trans ha) (by simp [hf, hin]) rfl rfl
  case clist =>
    have hin : decide (1 ≤ b.toNat ∧ b.toNat ≤ 65536) = true := decide_eq_true ⟨h1, h2⟩
    exact carterWord_queues (b := b) h (exec_clist o s) hL rfl rfl (by16.trans ha) (by simp [hf, hin]) rfl rfl
  case trope =>
    exact carterWord_queues (b := b) h (exec_trope o s) hRope rfl rfl (by32.trans ha) (by simp [hp.1, hz]) (by simp [hp.2]) rfl
  case mis32 =>
    have hm : a.toNat % 2 ^ 48 % 32 ≠ 0 := by32 ▸ ha
    simp only [List.forall_mem_cons]
    exact ⟨carterWord_misaligned h (exec_tcopy2d o s) h2D rfl hm (if_neg (by decide)),
      carterWord_misaligned h (exec_trope o s) hRope rfl hm (if_neg (by decide)), fun _ h => nomatch h⟩
  case mis16 => exact carterWord_misaligned h (exec_clist o s) hL rfl (by16 ▸ ha) (if_neg (by decide))
  case mis64 =>
    have hm : a.toNat % 2 ^ 48 % 64 ≠ 0 := by64 ▸ ha
    simp only [List.forall_mem_cons]
    exact ⟨carterWord_misaligned h (exec_tld o s) hW rfl hm (if_pos (by decide)),
      carterWord_misaligned h (exec_tst o s) hR rfl hm (if_pos (by decide)), fun _ h => nomatch h⟩
  case empty =>
    have h64 := by64.trans ha
    have h32 := by32.trans (to32 ha)
    have h16 := by16.trans (to16 ha)
    simp only [List.forall_mem_cons]
    exact ⟨carterWord_illegal h (exec_tld o s) hW rfl rfl h64 (by simp [he]), carterWord_illegal h (exec_tst o s) hR rfl rfl h64 (by simp [he]),
      carterWord_illegal h (exec_tcopy2d o s) h2D rfl rfl h32 (by simp [he]), carterWord_illegal h (exec_clist o s) hL rfl rfl h16 (by simp [he]),
      carterWord_illegal h (exec_trope o s) hRope rfl rfl h32 (by simp [he]), fun _ h => nomatch h⟩
  case tldWay => exact carterWord_wrongWay h (exec_tld o s) hW rfl rfl (by64.trans ha) (by simp [hf]) (by simp [hw])
  case tstWay => exact carterWord_wrongWay h (exec_tst o s) hR rfl rfl (by64.trans ha) (by simp [hf]) (by simp [hw])
  case tmov =>
    refine carterWord_queues h (exec_tmov o s) hM rfl rfl rfl ?_ (by simp [hp.2, hp2.2]) rfl
    show (([t2] ++ [t]).any (fun t => (tileRegion c t).empty) || !decide ((tileRegion c t2).size ≤ (tileRegion c t).size)) = false
    simp [hp.1, hp2.1, hle]
  case tmovSmall =>
    exact carterWord_illegal h (exec_tmov o s) hM rfl rfl (by rfl) (by simp; exact .inr hlt)

/-! ### The Gleaner's words -/

section
variable {s : State} {k : Nat} {c : Crew} {o : FmtC}

/-- A Gleaner command enters the crew's own order with its command and its log entry. -/
theorem finish_gleanerCmd {kind : EngKind} {a b : Word} {e : EngCmd} (d : Crew) (hd : makeCmd s k d kind o a b d.counter = e)
    (hl : logsCommand s { d with glCmds := d.glCmds ++ [e] } e =
      { d with glCmds := d.glCmds ++ [e], log := d.log ++ [cmdEntry s d e] }) :
    finish s k .s c (freesC o) (gleanerCmd s k d kind o a b) =
      .next (issued { s with stamp := s.stamp + 1 } k .s (logsCommand s { d with glCmds := d.glCmds ++ [e] } e) (freesC o)) := by
  subst hd
  rw [hl]
  exact finish_done ..

theorem execGlcfg_enters (hk : isReeve k = false) (h : CommandRuns s k c o false true true)
    (h1 : bits (readX s c 0 o.ra) 39 35 = 0) (h2 : bits (readX s c 0 o.ra) 63 41 = 0) (h3 : bits (readX s c 1 o.rb) 63 32 = 0)
    (hf : (tileRegion c (lowTile o)).empty = false) (hl : (tileRegion c (lowTile o)).lvl = 0) :
    execGlcfg o s = finish s k .s c (freesC o) (gleanerCmd s k c .glcfg o (readX s c 0 o.ra) (readX s c 1 o.rb)) := by
  have hz : (bits (readX s c 0 o.ra) 39 35 != 0 || bits (readX s c 0 o.ra) 63 41 != 0 || bits (readX s c 1 o.rb) 63 32 != 0) =
      false := by simp [h1, h2, h3]
  have hr : ((tileRegion c (lowTile o)).empty || (tileRegion c (lowTile o)).lvl != 0) = false := by simp [hf, hl]
  rw [execGlcfg, commandWord_ends h]
  exact congrArg (finish s k .s c _) ((if_neg (Bool.eq_false_iff.1 hk)).trans
    ((if_neg (Bool.eq_false_iff.1 hz)).trans (if_neg (Bool.eq_false_iff.1 hr))))

/-- GLGO on a bench, by the metadata register of the last GLCFG. -/
theorem execGlgo_ends (hk : isReeve k = false) (h : CommandRuns s k c o false true false) {u : Nat}
    (hu : gleanerTile c = some u) :
    execGlgo o s = finish s k .s c (freesC o)
      (if (readX s c 0 o.ra).toNat < 1 ∨ 512 < (readX s c 0 o.ra).toNat then .trap 0x01 0xB
       else if 512 < c.gleaner.queue.length + (readX s c 0 o.ra).toNat then .stall s
       else gleanerCmd s k { c with gleaner := { c.gleaner with
         queue := c.gleaner.queue ++ List.replicate (readX s c 0 o.ra).toNat none } } .glgo o (readX s c 0 o.ra) 0) := by
  rw [execGlgo, commandWord_ends h, if_neg (Bool.eq_false_iff.1 hk), hu]
  rfl

end

theorem gleanerWordsEnter : GleanerWordsEnter := by
  intro o s k c hk a b t
  refine ⟨fun h h1 h2 h3 hf hl => ?glcfg, fun h => ⟨fun hn => ?first, fun u hu => ⟨fun h1 h2 hroom => ?glgo, fun hbad => ?range,
    fun h1 h2 hfull => ?full⟩⟩⟩
  case glcfg => exact (execGlcfg_enters hk h h1 h2 h3 hf hl).trans (finish_gleanerCmd c rfl rfl)
  case first =>
    rw [exec_glgo, execGlgo, commandWord_ends h, if_neg (Bool.eq_false_iff.1 hk), hn]
    exact finish_trap ..
  case glgo =>
    have hin : ¬(a.toNat < 1 ∨ 512 < a.toNat) := by omega
    have hmade : ∀ g, makeCmd s k { c with gleaner := { c.gleaner with queue := g } } .glgo o a 0 c.counter =
        Claims.commandOf s k c .glgo o a 0 [u] [] := fun g => by
      have hu' : gleanerTile { c with gleaner := { c.gleaner with queue := g } } = some u := hu
      simp only [makeCmd, hu']
      rfl
    rw [exec_glgo, execGlgo_ends hk h hu, if_neg hin, if_neg (Nat.not_lt.2 hroom)]
    exact finish_gleanerCmd _ (hmade _) rfl
  case range =>
    have hout : a.toNat < 1 ∨ 512 < a.toNat := by omega
    rw [exec_glgo, execGlgo_ends hk h hu, if_pos hout, finish_trap]
  case full =>
    have hin : ¬(a.toNat < 1 ∨ 512 < a.toNat) := by omega
    rw [exec_glgo, execGlgo_ends hk h hu, if_neg hin, if_pos hfull, finish_stall]

/-! ### Circular buffers -/

section
variable (o : FmtA) (s : State)

theorem exec_cbinit : exec (.cbinit o) s = execCbinit o s := rfl
theorem exec_cbwait : exec (.cbwait o) s = execCbwait o s := rfl
theorem exec_cbdone : exec (.cbdone o) s = execCbdone o s := rfl

end

section
variable {o : FmtA} {s : State} {k : Nat} {c : Crew}

/-- CBINIT on a bench with clean operands. -/
theorem execCbinit_ends (hk : isReeve k = false) (h : WordRuns s k .s c .s false (guardA o) (readsA o 2))
    (ha : tagX s c 0 o.ra = false) (hb : tagX s c 1 o.rb = false) :
    execCbinit o s = finish s k .s c (freesA o)
      (if !circOk k (readX s c 0 o.ra) (readX s c 1 o.rb) then .trap 0x01 0xA
       else if marked s k c o.rd.toNat then .stall s
       else .done s { c with csrPend := c.csrPend ++ [(0x40 + o.rd.toNat, tileDefinition (readX s c 0 o.ra), c.counter),
                                                      (circCsr + o.rd.toNat, readX s c 1 o.rb, c.counter)] }) := by
  rw [execCbinit, runWord_runs h, if_neg (Bool.eq_false_iff.1 hk), poisonedX_two ha hb]

/-- A word on a buffer of a crew on a bench. -/
theorem bufferWord_ends (hk : isReeve k = false) (h : WordRuns s k .s c .s false (guardA o) []) {t : Nat} {b : CircBuf}
    (hb : mapGet c.circ t = some b) (body : State → Stream → Crew → CircBuf → Effect) :
    bufferWord o t s body = finish s k .s c [] (if b.holds then body s .s c b else .stall s) := by
  rw [bufferWord, runWord_runs h, if_neg (Bool.eq_false_iff.1 hk), hb]

theorem bufferWord_noBuffer (hk : isReeve k = false) (h : WordRuns s k .s c .s false (guardA o) []) {t : Nat}
    (hb : mapGet c.circ t = none) (body : State → Stream → Crew → CircBuf → Effect) :
    bufferWord o t s body = .next (wordTrap s k .s c 0x01 9) := by
  rw [bufferWord, runWord_runs h, if_neg (Bool.eq_false_iff.1 hk), hb, finish_trap]

end

theorem circBuf_holds_iff (b : CircBuf) : b.holds = decide (0 < if b.out then b.free else b.fill) := by
  unfold CircBuf.holds
  cases b.out <;> rfl

theorem circularBufferWords : CircularBufferWords := by
  intro o s k c hk
  refine ⟨fun h ha hb => ⟨fun hok => ⟨fun hm => ?init, fun hm => ?initStall⟩, fun hbad => ?initTrap⟩,
    fun h => ⟨fun hn => ?noBuffer, fun b hb => ⟨fun hheld => ⟨?wait, ?done⟩, fun hnone => ?stall⟩⟩⟩
  case init =>
    rw [exec_cbinit, execCbinit_ends hk h ha hb, hok, hm]
    exact finish_done ..
  case initStall =>
    rw [exec_cbinit, execCbinit_ends hk h ha hb, hok, hm]
    exact finish_stall ..
  case initTrap =>
    rw [exec_cbinit, execCbinit_ends hk h ha hb, hbad]
    exact finish_trap ..
  case noBuffer =>
    simp only [List.forall_mem_cons, exec_cbwait, exec_cbdone]
    exact ⟨bufferWord_noBuffer hk h hn _, bufferWord_noBuffer hk h hn _, fun _ h => nomatch h⟩
  case wait =>
    have hh : b.holds = true := (circBuf_holds_iff b).trans (decide_eq_true hheld)
    rw [exec_cbwait, execCbwait, bufferWord_ends hk h hb, if_pos hh]
    exact finish_done ..
  case done =>
    have hh : b.holds = true := (circBuf_holds_iff b).trans (decide_eq_true hheld)
    rw [exec_cbdone, execCbdone, bufferWord_ends hk h hb, if_pos hh]
    exact finish_done ..
  case stall =>
    have hh : b.holds = false := (circBuf_holds_iff b).trans (decide_eq_false (Nat.not_lt.2 (Nat.le_of_eq hnone)))
    have hs (body) : bufferWord o o.ra.toNat s body = .next s := by
      rw [bufferWord_ends hk h hb, if_neg (Bool.eq_false_iff.1 hh), finish_stall]
    simp only [List.forall_mem_cons, exec_cbwait, exec_cbdone]
    exact ⟨hs _, hs _, fun _ h => nomatch h⟩

/-- Settles O26: the words of the copy queue, of the Gleaner and of circular buffers. -/
theorem engineWordsQueueTheirCommands : Obligations.EngineWordsQueueTheirCommands :=
  ⟨carterWordsQueue, gleanerWordsEnter, circularBufferWords⟩

end Sys2Proof.Machine
end

/-! ### Words that queue a command: the matrix engine, the bank queue, the Porter (R249, R264 to R270, R286, R364, R378, R382) -/

section
namespace Sys2Proof.Machine
open Sys2Proof.Claims Sys2Proof.Config

/-! ### The matrix engine's words -/

section
variable {s : State} {k : Nat} {c : Crew} {o : FmtC} {kind : EngKind} {a : Word}

/-- A command word of the matrix queue with room has the state in which its command stands at the tail. -/
theorem queueCmd_matrix (hk : kind.queue = .matrix) (h : (coreAt s (coreOf k)).matQ.length < 32) :
    queueCmd s k c kind o a 0 =
      .done (bump (putCore s (coreOf k) { coreAt s (coreOf k) with
          matQ := (coreAt s (coreOf k)).matQ ++ [makeCmd s k c kind o a 0 c.counter] }))
        { c with log := c.log ++ [cmdEntry s c (makeCmd s k c kind o a 0 c.counter)] } := by
  have hroom : (queued (coreAt s (coreOf k)) kind.queue).length < kind.queue.size := by rw [hk]; exact h
  rw [queueCmd_room s k c kind o a 0 hroom, hk]
  rfl

theorem queueCmd_matrixFull (hk : kind.queue = .matrix) (h : ¬(coreAt s (coreOf k)).matQ.length < 32) :
    queueCmd s k c kind o a 0 = .stall s := by
  refine queueCmd_full s k c kind o a 0 ?_
  rw [hk]
  exact Nat.not_lt.1 h

end

/-- A core put back twice is the last one put back. -/
theorem putCore_bump_putCore (s : State) (n : Nat) (x y : CoreState) :
    putCore (bump (putCore s n x)) n y = { putCore s n y with stamp := s.stamp + 1 } := by
  simp [putCore, bump]

theorem coreAt_bump_putCore (s : State) (n : Nat) (x : CoreState) : coreAt (bump (putCore s n x)) n = x := by
  simp [coreAt, putCore, bump]

section
variable {s : State} {k : Nat} {c : Crew} {o : FmtC}

/-- MLDO, by its region and by the set that the crew holds. -/
theorem execMldo_ends (h : CommandRuns s k c o false false false) (hk : isReeve k = false) {fits owns : Bool}
    (hf : rowsFor (regionOf (tdefOf c (o.cimm.extractLsb' 5 4).toNat)) (if o.cimm.getLsbD 9 then 0 else 256) = fits)
    (ho : (c.claim.any fun set => set.getLsbD (o.cimm.extractLsb' 0 5).toNat) = owns) :
    execMldo o s = finish s k .s c (freesC o)
      (if !fits then .trap 0x01 0xB else if owns then queueCmd s k c .mldo o 0 0 else .trap 0x01 0xC) := by
  subst hf ho
  rw [execMldo, matrixWord_ends h hk]
  cases hc : c.claim <;> rfl

/-- MRET, by its type and region and by the set that the crew holds. -/
theorem execMret_ends (h : CommandRuns s k c o false false false) (hk : isReeve k = false) {fits owns : Bool}
    (hf : ([0x4, 0x9, 0xA, 0xB].contains (retType o.cimm) &&
      rowsFor (regionOf (tdefOf c (o.cimm.extractLsb' 1 4).toNat)) (16 * typeWidth (retType o.cimm))) = fits)
    (ho : (c.claim.any fun set => set.getLsbD (32 + (o.cimm.extractLsb' 0 1).toNat)) = owns) :
    execMret o s = finish s k .s c (freesC o)
      (if !fits then .trap 0x01 0xB else if owns then queueCmd s k c .mret o 0 0 else .trap 0x01 0xC) := by
  subst hf ho
  rw [execMret, matrixWord_ends h hk, Bool.not_and]
  cases hc : c.claim <;> rfl

end

theorem option_any_iff {α : Type} {x : Option α} {p : α → Bool} : x.any p = true ↔ ∃ v, x = some v ∧ p v = true := by
  cases x <;> simp

theorem matrixWordsQueue : MatrixWordsQueue := by
  intro o s k c hk a core room
  refine ⟨fun h => ⟨fun hr => ?cfg, fun hr => ?cfgBad, fun ha hz => ⟨fun hc hroom => ?claim, fun hc hroom => ?claimFull,
    fun hc => ?claimTwice⟩, fun n _ hn => ⟨fun hlt hops => ?cell, fun hge => ?cellBad⟩⟩,
    fun h => ⟨fun hc => ?goBad, fun hc => ?go, fun hroom => ?rel, fun hroom => ?relFull, ?ldo, ?ret⟩⟩
  case cfg =>
    refine queues_of_queueCmd (kind := .mcfg) (a := a) (b := 0) ?_ rfl
    rw [exec_mcfg, execMcfg, matrixWord_ends h hk]
    exact congrArg (finish s k .s c _) (if_pos hr)
  case cfgBad =>
    rw [exec_mcfg, execMcfg, matrixWord_ends h hk]
    exact (congrArg (finish s k .s c _) (if_neg (Bool.eq_false_iff.1 hr))).trans (finish_trap ..)
  case claim =>
    have hz' : (bits a 63 34 != 0 || a == 0) = false := Bool.or_eq_false_iff.2 ⟨by simp [hz], beq_eq_false_iff_ne.2 ha⟩
    rw [exec_mclaim, execMclaim, matrixWord_ends h hk]
    refine (congrArg (finish s k .s c _) ((if_neg (Bool.eq_false_iff.1 hz')).trans ((if_neg (by simp [hc])).trans
      (c := .done _ _) ?_))).trans (finish_done ..)
    rw [if_pos rfl, queueCmd_matrix (kind := .mclaim) rfl hroom]
    dsimp only
    rw [putCore_bump_putCore, coreAt_bump_putCore]
    rfl
  case claimFull =>
    have hz' : (bits a 63 34 != 0 || a == 0) = false := Bool.or_eq_false_iff.2 ⟨by simp [hz], beq_eq_false_iff_ne.2 ha⟩
    rw [exec_mclaim, execMclaim, matrixWord_ends h hk]
    refine (congrArg (finish s k .s c _) ((if_neg (Bool.eq_false_iff.1 hz')).trans ((if_neg (by simp [hc])).trans
      (c := .stall s) ?_))).trans (finish_stall ..)
    rw [if_pos rfl, queueCmd_matrixFull (kind := .mclaim) rfl hroom]
  case claimTwice =>
    have hz' : (bits a 63 34 != 0 || a == 0) = false := Bool.or_eq_false_iff.2 ⟨by simp [hz], beq_eq_false_iff_ne.2 ha⟩
    rw [exec_mclaim, execMclaim, matrixWord_ends h hk]
    exact (congrArg (finish s k .s c _) ((if_neg (Bool.eq_false_iff.1 hz')).trans
      (if_pos (Option.isSome_iff_ne_none.2 hc)))).trans (finish_trap ..)
  case cell =>
    refine queues_of_queueCmd (kind := .mcell) (a := a) (b := 0) ?_ rfl
    rw [exec_mcell, execMcell, matrixWord_ends h hk, hn]
    refine congrArg (finish s k .s c _) (if_pos ?_)
    simpa [patternOp] using ⟨hlt, fun j hj => hops j (by omega)⟩
  case cellBad =>
    rw [exec_mcell, execMcell, matrixWord_ends h hk, hn]
    refine (congrArg (finish s k .s c _) (if_neg ?_)).trans (finish_trap ..)
    simpa using fun hlt : a.toNat < 4 ^ (n + 1) => absurd hge (Nat.not_le.2 hlt)
  case goBad =>
    rw [exec_mgo, execMgo, matrixWord_ends h hk]
    exact (congrArg (finish s k .s c _) (if_pos (Option.isNone_iff_eq_none.2 hc))).trans (finish_trap ..)
  case go =>
    refine queues_of_queueCmd (kind := .mgo) (a := 0) (b := 0) ?_ rfl
    rw [exec_mgo, execMgo, matrixWord_ends h hk]
    exact congrArg (finish s k .s c _) (if_neg (mt Option.isNone_iff_eq_none.1 hc))
  case rel =>
    rw [exec_mrel, execMrel, matrixWord_ends h hk, queueCmd_matrix (kind := .mrel) rfl hroom]
    exact finish_done ..
  case relFull =>
    rw [exec_mrel, execMrel, matrixWord_ends h hk, queueCmd_matrixFull (kind := .mrel) rfl hroom]
    exact finish_stall ..
  case ldo =>
    refine ⟨fun hf ho => queues_of_queueCmd (kind := .mldo) (a := 0) (b := 0) ?_ rfl, fun hf ho => ?_, fun hf => ?_⟩
    · exact execMldo_ends h hk hf (option_any_iff.2 ho)
    · exact (execMldo_ends h hk hf (Bool.eq_false_iff.2 (mt option_any_iff.1 ho))).trans (finish_trap ..)
    · exact (execMldo_ends h hk hf rfl).trans (finish_trap ..)
  case ret =>
    have hfits : ∀ ty n : Nat, ∀ r : Region,
        ([0x4, 0x9, 0xA, 0xB].contains ty && rowsFor r n) = true ↔ ty ∈ [4, 9, 10, 11] ∧ rowsFor r n = true := by
      intro ty n r
      rw [Bool.and_eq_true, List.contains_iff_mem]
    refine ⟨fun hf ho => queues_of_queueCmd (kind := .mret) (a := 0) (b := 0) ?_ rfl, fun hf ho => ?_, fun hf => ?_⟩
    · exact execMret_ends h hk ((hfits _ _ _).2 hf) (option_any_iff.2 ho)
    · exact (execMret_ends h hk ((hfits _ _ _).2 hf) (Bool.eq_false_iff.2 (mt option_any_iff.1 ho))).trans (finish_trap ..)
    · exact (execMret_ends h hk (Bool.eq_false_iff.2 (mt (hfits _ _ _).1 hf)) rfl).trans (finish_trap ..)

/-! ### The words of the bank queue and of the Porter -/

section
variable {i : Instr} {s : State} {k : Nat} {c : Crew} {o : FmtC} {kind : EngKind} {e : EngCmd}

/-- A word that names remote bytes, by its alignment and its range. -/
theorem remoteWord_ends (h : CommandRuns s k c o false true true) (align : Nat) (tile : Bool) :
    remoteWord o kind align tile s = finish s k .s c (freesC o)
      (if (readX s c 0 o.ra).toNat % align ≠ 0 then .trap 0x05 (readX s c 0 o.ra)
       else if bits (readX s c 0 o.ra) 63 48 != 0 || decide (2 ^ 19 ≤ (readX s c 1 o.rb).toNat) ||
          (tile && (tileRegion c (lowTile o)).empty) then .trap 0x01 0xB
       else queueCmd s k c kind o (readX s c 0 o.ra) (readX s c 1 o.rb)) := by
  rw [remoteWord, commandWord_ends h]
  rfl

theorem remoteWord_queues {align : Nat} {tile : Bool} (h : CommandRuns s k c o false true true)
    (hi : exec i s = remoteWord o kind align tile s) (ha : (readX s c 0 o.ra).toNat % align = 0)
    (hz : bits (readX s c 0 o.ra) 63 48 = 0) (hb : (readX s c 1 o.rb).toNat < 2 ^ 19)
    (ht : (tile && (tileRegion c (lowTile o)).empty) = false)
    (he : makeCmd s k c kind o (readX s c 0 o.ra) (readX s c 1 o.rb) c.counter = e) : queues i s k c o e := by
  have hok : (bits (readX s c 0 o.ra) 63 48 != 0 || decide (2 ^ 19 ≤ (readX s c 1 o.rb).toNat) ||
      (tile && (tileRegion c (lowTile o)).empty)) = false := by
    rw [hz, ht, decide_eq_false (Nat.not_le.2 hb)]
    rfl
  refine queues_of_queueCmd (hi.trans ?_) he
  rw [remoteWord_ends h, if_neg (Classical.not_not.2 ha), if_neg (Bool.eq_false_iff.1 hok)]

theorem remoteWord_misaligned {align : Nat} {tile : Bool} (h : CommandRuns s k c o false true true)
    (hi : exec i s = remoteWord o kind align tile s) (ha : (readX s c 0 o.ra).toNat % align ≠ 0) :
    exec i s = .next (wordTrap s k .s c 0x05 (readX s c 0 o.ra)) := by
  rw [hi, remoteWord_ends h, if_pos ha, finish_trap]

/-- A word that follows records, by its alignment and its count. -/
theorem recordsWord_ends (h : CommandRuns s k c o false true true) (limit : Nat) :
    recordsWord o kind limit s = finish s k .s c (freesC o)
      (if (readX s c 0 o.ra).toNat % 32 ≠ 0 then .trap 0x05 (readX s c 0 o.ra)
       else if decide ((readX s c 1 o.rb).toNat < 1) || decide (limit < (readX s c 1 o.rb).toNat) then .trap 0x01 0xB
       else queueCmd s k c kind o (readX s c 0 o.ra) (readX s c 1 o.rb)) := by
  rw [recordsWord, commandWord_ends h]
  rfl

theorem recordsWord_queues {limit : Nat} (h : CommandRuns s k c o false true true)
    (hi : exec i s = recordsWord o kind limit s) (ha : (readX s c 0 o.ra).toNat % 32 = 0)
    (h1 : 1 ≤ (readX s c 1 o.rb).toNat) (h2 : (readX s c 1 o.rb).toNat ≤ limit)
    (he : makeCmd s k c kind o (readX s c 0 o.ra) (readX s c 1 o.rb) c.counter = e) : queues i s k c o e := by
  have hok : (decide ((readX s c 1 o.rb).toNat < 1) || decide (limit < (readX s c 1 o.rb).toNat)) = false :=
    Bool.or_eq_false_iff.2 ⟨decide_eq_false (Nat.not_lt.2 h1), decide_eq_false (Nat.not_lt.2 h2)⟩
  refine queues_of_queueCmd (hi.trans ?_) he
  rw [recordsWord_ends h, if_neg (Classical.not_not.2 ha), if_neg (Bool.eq_false_iff.1 hok)]

theorem recordsWord_misaligned {limit : Nat} (h : CommandRuns s k c o false true true)
    (hi : exec i s = recordsWord o kind limit s) (ha : (readX s c 0 o.ra).toNat % 32 ≠ 0) :
    exec i s = .next (wordTrap s k .s c 0x05 (readX s c 0 o.ra)) := by
  rw [hi, recordsWord_ends h, if_pos ha, finish_trap]

/-- A LEASE or SLOTSW word, by its alignment. -/
theorem reeveWord_ends (h : CommandRuns s k c o true true false) (align : Nat) :
    reeveWord o kind align s = finish s k .s c (freesC o)
      (if (readX s c 0 o.ra).toNat % align ≠ 0 then .trap 0x05 (readX s c 0 o.ra)
       else queueCmd s k c kind o (readX s c 0 o.ra) 0) := by
  rw [reeveWord, commandWord_ends h]
  rfl

theorem reeveWord_queues {align : Nat} (h : CommandRuns s k c o true true false)
    (hi : exec i s = reeveWord o kind align s) (ha : (readX s c 0 o.ra).toNat % align = 0)
    (he : makeCmd s k c kind o (readX s c 0 o.ra) 0 c.counter = e) : queues i s k c o e := by
  refine queues_of_queueCmd (hi.trans ?_) he
  rw [reeveWord_ends h, if_neg (Classical.not_not.2 ha)]

theorem reeveWord_misaligned {align : Nat} (h : CommandRuns s k c o true true false)
    (hi : exec i s = reeveWord o kind align s) (ha : (readX s c 0 o.ra).toNat % align ≠ 0) :
    exec i s = .next (wordTrap s k .s c 0x05 (readX s c 0 o.ra)) := by
  rw [hi, reeveWord_ends h, if_pos ha, finish_trap]

/-- BQCMD, BQLOAD and FMCAST check the alignment of xA first. -/
theorem bankWords_misaligned (h : CommandRuns s k c o false true true) (ha : (readX s c 0 o.ra).toNat % 64 ≠ 0) :
    execBqcmd o s = .next (wordTrap s k .s c 0x05 (readX s c 0 o.ra)) ∧
      execBqload o s = .next (wordTrap s k .s c 0x05 (readX s c 0 o.ra)) ∧
      execFmcast o s = .next (wordTrap s k .s c 0x05 (readX s c 0 o.ra)) := by
  rw [execBqcmd, execBqload, execFmcast, commandWord_ends h, commandWord_ends h, commandWord_ends h]
  exact ⟨(congrArg (finish s k .s c _) (if_pos ha)).trans (finish_trap ..),
    (congrArg (finish s k .s c _) (if_pos ha)).trans (finish_trap ..),
    (congrArg (finish s k .s c _) (if_pos ha)).trans (finish_trap ..)⟩

end

theorem bankAndPorterWordsQueue : BankAndPorterWordsQueue := by
  intro o s k c a b t filled
  refine ⟨fun h => ⟨fun ha => ⟨?bqcmd, fun h1 h2 h3 h4 h5 h6 h7 => ?bqload, fun hz hb hf => ⟨?fld, ?fst⟩,
    fun hb ha' hb' hf => ?fmcast⟩, fun ha h1 => ⟨fun h2 => ⟨?fget, ?fput⟩, fun h2 => ?ffadd⟩, fun ha hz hb => ?fsig,
    fun ha => ?mis64, fun ha => ?mis32, fun ha => ?mis8⟩, fun h => ?winfence,
    fun h => ⟨fun ha => ⟨?grant, ?leaseRecall, ?release, ?load⟩, ?switch, fun ha => ?misReeve⟩⟩
  case bqcmd =>
    refine queues_of_queueCmd (kind := .bqcmd) (a := a) (b := b) ?_ rfl
    rw [exec_bqcmd, execBqcmd, commandWord_ends h]
    exact congrArg (finish s k .s c _) (if_neg (Classical.not_not.2 ha))
  case bqload =>
    have hok : (bits b 31 17 != 0 || bits b 63 48 != 0 || bits b 16 0 % 64 != 0 || bits b 47 32 % 64 != 0 ||
        decide (bits b 16 0 < 64) || decide (65536 < bits b 47 32 + bits b 16 0) || o.cimm.extractLsb' 0 8 == 0) = false := by
      simp only [Bool.or_eq_false_iff, h1, h2, h3, h4, decide_eq_false (Nat.not_lt.2 h5), decide_eq_false (Nat.not_lt.2 h6),
        beq_eq_false_iff_ne.2 h7, bne_self_eq_false, and_self]
    refine queues_of_queueCmd (kind := .bqload) (a := a) (b := b) ?_ rfl
    rw [exec_bqload, execBqload, commandWord_ends h]
    exact congrArg (finish s k .s c _) ((if_neg (Classical.not_not.2 ha)).trans (if_neg (Bool.eq_false_iff.1 hok)))
  case fld => exact remoteWord_queues h (exec_fld o s) ha hz hb hf rfl
  case fst => exact remoteWord_queues h (exec_fst o s) ha hz hb hf rfl
  case fmcast =>
    have hok : (bits a 63 48 != 0 || bits b 63 58 != 0 || (tileRegion c t).empty) = false := by
      simp only [Bool.or_eq_false_iff, ha', hb', bne_self_eq_false, and_self, true_and]
      exact hf
    refine queues_of_queueCmd (kind := .fmcast) (a := a) (b := b) ?_ rfl
    rw [exec_fmcast, execFmcast, commandWord_ends h]
    exact congrArg (finish s k .s c _) ((if_neg (Classical.not_not.2 ha)).trans ((if_neg (Classical.not_not.2 hb)).trans
      (if_neg (Bool.eq_false_iff.1 hok))))
  case fget => exact recordsWord_queues h (exec_fget o s) ha h1 h2 rfl
  case fput => exact recordsWord_queues h (exec_fput o s) ha h1 h2 rfl
  case ffadd => exact recordsWord_queues h (exec_ffadd o s) ha h1 h2 rfl
  case fsig => exact remoteWord_queues h (exec_fsig o s) ha hz hb rfl rfl
  case mis64 =>
    obtain ⟨hcmd, hload, hcast⟩ := bankWords_misaligned h ha
    simp only [List.forall_mem_cons]
    exact ⟨hcmd, hload, remoteWord_misaligned h (exec_fld o s) ha, remoteWord_misaligned h (exec_fst o s) ha, hcast,
      fun _ h => nomatch h⟩
  case mis32 =>
    simp only [List.forall_mem_cons]
    exact ⟨recordsWord_misaligned h (exec_fget o s) ha, recordsWord_misaligned h (exec_fput o s) ha,
      recordsWord_misaligned h (exec_ffadd o s) ha, fun _ h => nomatch h⟩
  case mis8 => exact remoteWord_misaligned h (exec_fsig o s) ha
  case winfence =>
    refine queues_of_queueCmd (kind := .winfence) (a := 0) (b := 0) ?_ rfl
    rw [exec_winfence, execWinfence, commandWord_ends h]
  case grant => exact reeveWord_queues h (exec_leaseGrant o s) ha rfl
  case leaseRecall => exact reeveWord_queues h (exec_leaseRecall o s) ha rfl
  case release => exact reeveWord_queues h (exec_leaseRelease o s) ha rfl
  case load => exact reeveWord_queues h (exec_slotswLoad o s) ha rfl
  case switch => exact reeveWord_queues h (exec_slotswSwitch o s) (Nat.mod_one _) rfl
  case misReeve =>
    simp only [List.forall_mem_cons]
    exact ⟨reeveWord_misaligned h (exec_leaseGrant o s) ha, reeveWord_misaligned h (exec_leaseRecall o s) ha,
      reeveWord_misaligned h (exec_leaseRelease o s) ha, reeveWord_misaligned h (exec_slotswLoad o s) ha, fun _ h => nomatch h⟩

/-- Settles O27: the words of the matrix engine, of the bank queue and of the Porter. -/
theorem matrixBankAndPorterWordsQueue : Obligations.MatrixBankAndPorterWordsQueue :=
  ⟨matrixWordsQueue, bankAndPorterWordsQueue⟩

end Sys2Proof.Machine
end

/-! ### Control and status registers (R111, R160 to R165, R218, R261, R274, R376, R388, R406, R412, R418, R419) -/

section
namespace Sys2Proof.Machine
open Sys2Proof.Claims Sys2Proof.Config

/-! ### CSRR -/

section
variable {s : State} {k : Nat} {c : Crew} {n : Nat}

/-- A tile register's number reads its definition. -/
theorem csrRead_tile (t : Fin 16) : csrRead s k c (0x40 + t.val) = some c.tdef[t] := by
  have ht := t.isLt
  unfold csrRead
  split
  case h_39 =>
    have hin : 0x40 ≤ 0x40 + t.val ∧ 0x40 + t.val ≤ 0x4F := by omega
    rw [if_pos hin]
    simp
  all_goals omega

/-- A register of the table reads as its row says. -/
theorem csrRead_of_mem_csrTable : ∀ q ∈ csrTable s k c, csrRead s k c q.1 = some q.2 := by
  simp only [csrTable, List.forall_mem_append, List.forall_mem_cons, List.forall_mem_map]
  refine ⟨⟨rfl, rfl, rfl, rfl, rfl, rfl, rfl, rfl, rfl, rfl, rfl, rfl, rfl, ?_, rfl, rfl, rfl, rfl, rfl, rfl, rfl, rfl, rfl, rfl, rfl,
    rfl, rfl, rfl, rfl, rfl, rfl, rfl, rfl, rfl, rfl, rfl, fun _ h => nomatch h⟩, fun t _ => ?_⟩
  · show some (BitVec.ofNat 64 (coreOf k + if isReeve k then 64 else 0)) = _
    cases isReeve k <;> rfl
  · exact csrRead_tile t

/-- A number that has no row reads nothing. -/
theorem csrRead_eq_none (h : ∀ q ∈ csrTable s k c, n ≠ q.1) (h71 : n ≠ 0x71) (h91 : n ≠ 0x91) : csrRead s k c n = none := by
  simp only [csrTable, List.forall_mem_append, List.forall_mem_cons, List.forall_mem_map] at h
  obtain ⟨hrows, htiles⟩ := h
  unfold csrRead
  split
  case h_39 =>
    refine if_neg fun ⟨hl, hh⟩ => htiles ⟨n - 0x40, by omega⟩ (List.mem_finRange _) ?_
    show n = 0x40 + (n - 0x40)
    omega
  all_goals omega

/-- The numbers that only a Reeve may access. -/
theorem reeveOnly_iff : reeveOnly n = true ↔ n ∈ reeveRegisters := by
  simp only [reeveOnly, reeveRegisters, List.mem_cons, List.not_mem_nil, Bool.or_eq_true, decide_eq_true_eq, or_false]
  omega

variable {o : FmtI}

theorem exec_csrr (o : FmtI) (s : State) : exec (.csrr o) s = execCsrr o s := rfl

/-- CSRR of a register that the bench may access. -/
theorem execCsrr_reads {v : Word} (h : WordRuns s k .s c .s false (some (o.pred.toNat, false)) [])
    (hn : csrNumber o = n) (hk : n ∈ reeveRegisters → isReeve k = true) (hv : csrRead s k c n = some v) :
    execCsrr o s = .next (issued s k .s (pendX c .s o.rd v false 2) []) := by
  subst hn
  have hmay : (reeveOnly (csrNumber o) && !isReeve k) = false := by
    cases hr : reeveOnly (csrNumber o) with
    | false => rfl
    | true => rw [hk (reeveOnly_iff.1 hr)]; rfl
  rw [execCsrr, guardI, runWord_runs h, if_neg (Bool.eq_false_iff.1 hmay), hv]
  exact finish_done ..

theorem execCsrr_illegal (h : WordRuns s k .s c .s false (some (o.pred.toNat, false)) [])
    (hbad : csrNumber o ∈ reeveRegisters ∧ isReeve k = false ∨ csrRead s k c (csrNumber o) = none) :
    execCsrr o s = .next (wordTrap s k .s c 0x01 0xB) := by
  rw [execCsrr, guardI, runWord_runs h]
  by_cases hmay : (reeveOnly (csrNumber o) && !isReeve k) = true
  · rw [if_pos hmay, finish_trap]
  · obtain ⟨hn, hk⟩ | hnone := hbad
    · exact absurd (by rw [reeveOnly_iff.2 hn, hk]; rfl) hmay
    · rw [if_neg hmay, hnone, finish_trap]

/-- The registers of a Reeve read a value. -/
theorem fflags_subset_readFlags : c.fflags &&& readFlags s c = c.fflags := by
  unfold readFlags
  ext i
  simp only [BitVec.getElem_and, BitVec.getElem_or]
  cases c.fflags[i] <;> rfl

theorem readFlags_landed (h : c.pendF = []) : readFlags s c = c.fflags := by
  simp [readFlags, h]

end

theorem csrrReadsTheRegister : CsrrReadsTheRegister := by
  intro o s k c h n
  refine ⟨fflags_subset_readFlags, readFlags_landed, fun q hq hn hr => ?row, fun hn => ?slots, fun hn => ?level,
    fun hn hk => execCsrr_illegal h (.inl ⟨hn, hk⟩), fun hrows h71 h91 => execCsrr_illegal h (.inr (csrRead_eq_none hrows h71 h91))⟩
  case row => exact execCsrr_reads h hn hr (csrRead_of_mem_csrTable q hq)
  case slots => exact execCsrr_reads (n := 0x71) h hn (fun hm => absurd hm (by decide)) rfl
  case level => exact execCsrr_reads (n := 0x91) h hn (fun hm => absurd hm (by decide)) rfl

/-! ### CSRW -/

section
variable (o : FmtI) (s : State)

theorem exec_csrw : exec (.csrw o) s = execCsrw o s := rfl
theorem exec_csrwFflags : exec (.csrwFflags o) s = execCsrwFflags o s := rfl
theorem exec_csrwFrm : exec (.csrwFrm o) s = execCsrwFrm o s := rfl
theorem exec_csrwSrctr : exec (.csrwSrctr o) s = execCsrwSrctr o s := rfl
theorem exec_csrwStrict : exec (.csrwStrict o) s = execCsrwStrict o s := rfl
theorem exec_csrwMflags : exec (.csrwMflags o) s = execCsrwMflags o s := rfl
theorem exec_csrwTdef : exec (.csrwTdef o) s = execCsrwTdef o s := rfl
theorem exec_csrwMsh : exec (.csrwMsh o) s = execCsrwMsh o s := rfl
theorem exec_csrwFevbase : exec (.csrwFevbase o) s = execCsrwFevbase o s := rfl
theorem exec_csrwFevhead : exec (.csrwFevhead o) s = execCsrwFevhead o s := rfl
theorem exec_csrwTrqbase : exec (.csrwTrqbase o) s = execCsrwTrqbase o s := rfl
theorem exec_csrwTrqhead : exec (.csrwTrqhead o) s = execCsrwTrqhead o s := rfl
theorem exec_csrwShockst : exec (.csrwShockst o) s = execCsrwShockst o s := rfl

end

section
variable {s : State} {k : Nat} {c : Crew} {o : FmtI} {may : Nat → Bool}

/-- A CSRW of a register that its bench may write ends as the register's own rule says. -/
theorem csrwWord_ends (h : WordRuns s k .s c .s false (some (o.pred.toNat, false)) [(.x, o.ra.toNat)])
    (hm : may k = true) (ha : tagX s c 0 o.ra = false) (body : State → Nat → Crew → Word → Effect) :
    csrwWord o s may body = finish s k .s c (freesI o) (body s k c (readX s c 0 o.ra)) := by
  have hmay : ¬(!may k) = true := by rw [hm]; decide
  rw [csrwWord, guardI, runWord_runs h, if_neg hmay, poisonedX_single ha]

/-- One that its bench may not write is illegal. -/
theorem csrwWord_refused (h : WordRuns s k .s c .s false (some (o.pred.toNat, false)) [(.x, o.ra.toNat)])
    (hm : may k = false) (body : State → Nat → Crew → Word → Effect) :
    csrwWord o s may body = .next (wordTrap s k .s c 0x01 0xB) := by
  have hmay : (!may k) = true := by rw [hm]; rfl
  rw [csrwWord, guardI, runWord_runs h, if_pos hmay, finish_trap]

/-- CSRW of a register without a row of its own. -/
theorem execCsrw_writes {n : Nat} {t : State} {d : Crew}
    (h : WordRuns s k .s c .s false (some (o.pred.toNat, false)) [(.x, o.ra.toNat)]) (ha : tagX s c 0 o.ra = false)
    (hn : csrNumber o = n) (hm : plainMay n k = true) (hw : plainWrite s k c n (readX s c 0 o.ra) = some (t, d)) :
    writesCsr (.csrw o) s t k c d o := by
  subst hn
  rw [writesCsr, exec_csrw, execCsrw, csrwWord_ends h hm ha, hw]
  exact finish_done ..

theorem execCsrw_refused {n : Nat}
    (h : WordRuns s k .s c .s false (some (o.pred.toNat, false)) [(.x, o.ra.toNat)])
    (hn : csrNumber o = n) (hm : plainMay n k = false) : exec (.csrw o) s = .next (wordTrap s k .s c 0x01 0xB) := by
  subst hn
  rw [exec_csrw, execCsrw, csrwWord_refused h hm]

/-- The flags that CSRW leaves to land are among those in flight, and hold every one of this count or a later one. -/
theorem mem_unlandedFlags {p : Nat × Nat × BitVec 5} :
    (p ∈ unlandedFlags s c → p ∈ c.pendF) ∧ (p ∈ c.pendF → c.counter ≤ p.1 → p ∈ unlandedFlags s c) := by
  unfold unlandedFlags
  refine ⟨fun hp => ?_, fun hp hle => ?_⟩
  · obtain ⟨q, hq, rfl⟩ := List.mem_map.1 hp
    exact List.fst_mem_of_mem_zipIdx (List.mem_filter.1 hq).1
  · rw [← List.zipIdx_map_fst 0 c.pendF] at hp
    obtain ⟨q, hq, rfl⟩ := List.mem_map.1 hp
    exact List.mem_map.2 ⟨q, List.mem_filter.2 ⟨hq, by simp [hle]⟩, rfl⟩

end
/-- A value that is zero or fits is not refused. -/
theorem not_refused {a : Word} {fits : Bool} (h : a = 0 ∨ fits = true) : ¬(decide (a ≠ 0) && !fits) = true := by
  obtain h | h := h
  · rw [decide_eq_false (Classical.not_not.2 h)]
    exact Bool.false_ne_true
  · rw [h, Bool.not_true, Bool.and_false]
    exact Bool.false_ne_true

theorem csrwOfACrewsRegisters : CsrwOfACrewsRegisters := by
  intro o s k c n v h ha
  have hends := csrwWord_ends (may := anyBench) h rfl ha
  refine ⟨?fflags, fun p hp => mem_unlandedFlags.1 hp, fun p hp hle => mem_unlandedFlags.2 hp hle, ?mflags, fun hm => ?frm,
    fun hm => ?frmBad, ?srctr, ?strict, fun hn => execCsrw_writes h ha hn rfl rfl, fun hn => execCsrw_writes h ha hn rfl rfl,
    fun hn => execCsrw_writes h ha hn rfl rfl, fun _ _ => ⟨fun hm => ?tdefStall, fun hm hw => ?tdef, fun hm hw hv => ?tdefBad⟩⟩
  case fflags =>
    rw [writesCsr, exec_csrwFflags, execCsrwFflags, hends]
    exact finish_done ..
  case mflags =>
    rw [writesCsr, exec_csrwMflags, execCsrwMflags, hends]
    exact finish_done ..
  case srctr =>
    rw [writesCsr, exec_csrwSrctr, execCsrwSrctr, hends]
    exact finish_done ..
  case strict =>
    rw [writesCsr, exec_csrwStrict, execCsrwStrict, hends]
    exact finish_done ..
  case frm =>
    have hok : ¬(bits v 2 0 = 0 ∨ 6 ≤ bits v 2 0) := by simp only [List.mem_cons, List.not_mem_nil, or_false] at hm; omega
    rw [writesCsr, exec_csrwFrm, execCsrwFrm, hends]
    exact (congrArg (finish s k .s c _) (if_neg hok)).trans (finish_done ..)
  case frmBad =>
    have hbad : bits v 2 0 = 0 ∨ 6 ≤ bits v 2 0 := by simp only [List.mem_cons, List.not_mem_nil, or_false] at hm; omega
    rw [exec_csrwFrm, execCsrwFrm, hends]
    exact (congrArg (finish s k .s c _) (if_pos hbad)).trans (finish_trap ..)
  case tdefStall =>
    rw [exec_csrwTdef, execCsrwTdef, hends]
    exact (congrArg (finish s k .s c _) (if_pos hm)).trans (finish_stall ..)
  case tdef =>
    have hok : ¬(decide (tileDefinition v ≠ 0) && !(regionOf (tileDefinition v)).valid k) = true := not_refused hw
    rw [writesCsr, exec_csrwTdef, execCsrwTdef, hends]
    exact (congrArg (finish s k .s c _) ((if_neg (Bool.eq_false_iff.1 hm)).trans (if_neg hok))).trans (finish_done ..)
  case tdefBad =>
    have hbad : (decide (tileDefinition v ≠ 0) && !(regionOf (tileDefinition v)).valid k) = true := by rw [decide_eq_true hw, hv]; rfl
    rw [exec_csrwTdef, execCsrwTdef, hends]
    exact ((congrArg (finish s k .s c _) ((if_neg (Bool.eq_false_iff.1 hm)).trans (if_pos hbad))).trans
      (finish_trap ..))

theorem csrwOfTheMachinesRegisters : CsrwOfTheMachinesRegisters := by
  intro o s k c n v cl r p f base h
  refine ⟨fun hk ha => ?onReeve, fun hk => ⟨?onBench, fun hn => ?plainOnBench⟩, fun hn => ?readOnly⟩
  case onReeve =>
    have hends := csrwWord_ends (may := isReeve) h hk ha
    refine ⟨fun hle => ?msh, fun hlt => ?mshBad, fun hle hw => ?fevbase, ?fevhead, fun hle hw => ?trqbase, ?trqhead, ?shockst,
      fun hn => execCsrw_writes h ha hn hk rfl, fun hn => execCsrw_writes h ha hn hk rfl,
      fun hn => execCsrw_writes h ha hn hk rfl, fun hn hw => execCsrw_writes h ha hn hk (if_neg ?fevsem),
      fun hn => execCsrw_writes h ha hn hk rfl, fun hn => execCsrw_writes h ha hn hk rfl,
      fun hn => execCsrw_writes h ha hn hk rfl⟩
    case msh =>
      rw [writesCsr, exec_csrwMsh, execCsrwMsh, hends]
      exact (congrArg (finish s k .s c _) (if_neg (Nat.not_lt.2 hle))).trans (finish_done ..)
    case mshBad =>
      rw [exec_csrwMsh, execCsrwMsh, hends]
      exact (congrArg (finish s k .s c _) (if_pos hlt)).trans (finish_trap ..)
    case fevbase =>
      have hok : (decide (10 < bits v 3 0) || !wholeInWindow base (32 * 2 ^ (bits v 3 0 + 6))) = false := by
        rw [hw, decide_eq_false (Nat.not_lt.2 hle)]; rfl
      rw [writesCsr, exec_csrwFevbase, execCsrwFevbase, hends]
      exact (congrArg (finish s k .s c _) (if_neg (Bool.eq_false_iff.1 hok))).trans (finish_done ..)
    case fevhead =>
      rw [writesCsr, exec_csrwFevhead, execCsrwFevhead, hends]
      exact finish_done ..
    case trqbase =>
      have hok : (decide (6 < bits v 3 0) || !wholeInWindow base (64 * 2 ^ (bits v 3 0 + 6))) = false := by
        rw [hw, decide_eq_false (Nat.not_lt.2 hle)]; rfl
      rw [writesCsr, exec_csrwTrqbase, execCsrwTrqbase, hends]
      exact (congrArg (finish s k .s c _) (if_neg (Bool.eq_false_iff.1 hok))).trans (finish_done ..)
    case trqhead =>
      rw [writesCsr, exec_csrwTrqhead, execCsrwTrqhead, hends]
      exact finish_done ..
    case shockst =>
      rw [writesCsr, exec_csrwShockst, execCsrwShockst, hends]
      exact finish_done ..
    case fevsem => exact not_refused hw
  case onBench =>
    simp only [List.forall_mem_cons, exec_csrwMsh, exec_csrwFevbase, exec_csrwFevhead, exec_csrwTrqbase, exec_csrwTrqhead,
      exec_csrwShockst]
    exact ⟨csrwWord_refused h hk _, csrwWord_refused h hk _, csrwWord_refused h hk _, csrwWord_refused h hk _,
      csrwWord_refused h hk _, csrwWord_refused h hk _, fun _ h => nomatch h⟩
  case plainOnBench =>
    refine execCsrw_refused h rfl ?_
    show plainMay n k = false
    revert hn
    simp only [List.mem_cons, List.not_mem_nil, or_false]
    rintro (hn | hn | hn | hn | hn | hn | hn) <;> rw [hn] <;> exact hk
  case readOnly =>
    refine execCsrw_refused h rfl ?_
    show plainMay n k = false
    generalize n = m at hn
    revert m
    simp only [List.forall_mem_cons]
    exact ⟨rfl, rfl, rfl, rfl, rfl, rfl, rfl, rfl, rfl, rfl, rfl, rfl, rfl, rfl, rfl, rfl, rfl, fun _ h => nomatch h⟩

/-! ### The next count -/

section
variable {c : Crew} {n : Nat}

/-- A crew with no write in flight lands none. -/
theorem landDue_idle (hx : c.pendX = []) (hv : c.pendV = []) (hp : c.pendP = []) : landDue n c = c := by
  obtain ⟨⟩ := c
  cases hx; cases hv; cases hp
  rfl

/-- A crew with no flag in flight gathers none. -/
theorem landFlags_idle (hf : c.pendF = []) : landFlags c = c := by
  obtain ⟨⟩ := c
  cases hf
  rfl

@[simp] theorem storeCsr_pendF (c : Crew) (m : Nat) (v : Word) : (storeCsr c m v).pendF = c.pendF := by
  unfold storeCsr
  split
  · rfl
  · split
    · rfl
    · split
      all_goals rfl

@[simp] theorem storeCsr_counter (c : Crew) (m : Nat) (v : Word) : (storeCsr c m v).counter = c.counter := by
  unfold storeCsr
  split
  · rfl
  · split
    · rfl
    · split
      all_goals rfl

@[simp] theorem storeCsr_csrPend (c : Crew) (m : Nat) (v : Word) : (storeCsr c m v).csrPend = c.csrPend := by
  unfold storeCsr
  split
  · rfl
  · split
    · rfl
    · split
      all_goals rfl

/-- The only CSR value of an otherwise idle crew is stored as its count passes. -/
theorem nextCount_later {m : Nat} {v : Word} (h : c.csrPend = []) (hx : c.pendX = []) (hv : c.pendV = []) (hp : c.pendP = [])
    (hf : c.pendF = []) :
    nextCount n (later c m v) = storeCsr { c with counter := c.counter + 1, csrPend := [] } m v := by
  have hd : [(m, v, c.counter)].partition (fun p => decide (p.2.2 < c.counter + 1)) = ([(m, v, c.counter)], []) := by
    simp [List.partition_eq_filter_filter]
  unfold nextCount
  dsimp only [later]
  rw [landDue_idle (c := { c with counter := c.counter + 1, csrPend := c.csrPend ++ [(m, v, c.counter)] }) hx hv hp, h]
  rw [List.nil_append, hd, List.foldl_cons, List.foldl_nil]
  exact landFlags_idle ((storeCsr_pendF _ _ _).trans hf)

end

theorem csrwTakesEffectAtTheNextCount : CsrwTakesEffectAtTheNextCount := by
  intro c n v h hx hv hp hf
  have hnext (m : Nat) := nextCount_later (n := n) (m := m) (v := v) h hx hv hp hf
  have htile (t : Nat) (ht : t < 16) : (nextCount n (later c (0x40 + t) v)).tdef = c.tdef.setIfInBounds t v := by
    have hin : 0x40 ≤ 0x40 + t ∧ 0x40 + t < 0x50 := by omega
    rw [hnext]
    unfold storeCsr
    rw [if_pos hin, Nat.add_sub_cancel_left]
  refine ⟨?_, ?_, ?_, ?_, ?_, fun t ht => ?_, ?_, ?_⟩
  case refine_6 =>
    simp only [htile t ht]
    exact ⟨by simp, fun u hu hne => by simp [hne.symm]⟩
  all_goals
    rw [hnext]
    rfl

/-- Settles O28: what CSRR reads, what CSRW writes on a bench and on a Reeve, and when its value holds. -/
theorem controlRegisterWords : Obligations.ControlRegisterWords :=
  ⟨csrrReadsTheRegister, csrwOfACrewsRegisters, csrwOfTheMachinesRegisters, csrwTakesEffectAtTheNextCount⟩

end Sys2Proof.Machine
end

/-! ### Privileged words (R385, R395, R397, R401, R404, R407 to R409) -/

section
namespace Sys2Proof.Machine
open Sys2Proof.Claims Sys2Proof.Config

section
variable (o : FmtA) (s : State)

theorem exec_eret : exec (.eret o) s = execEret o s := rfl
theorem exec_halt : exec (.halt o) s = execHalt o s := rfl
theorem exec_splog : exec (.splog o) s = execSplog o s := rfl
theorem exec_tlbi : exec (.tlbi o) s = execTlbi o s := rfl
theorem exec_icinv : exec (.icinv o) s = execIcinv o s := rfl
theorem exec_ctxsSnap : exec (.ctxsSnap o) s = execCtxsSnap o s := rfl
theorem exec_ctxsOut : exec (.ctxsOut o) s = execCtxsOut o s := rfl
theorem exec_ctxlInto : exec (.ctxlInto o) s = execCtxlInto o s := rfl
theorem exec_ctxlResume : exec (.ctxlResume o) s = execCtxlResume o s := rfl

end

section
variable {o : FmtA} {s : State} {k : Nat} {c : Crew} {zeroA zeroB : Word}

/-- A privileged word on a Reeve whose operands pass ends as its body ends. -/
theorem privilegedWord_ends (h : ReeveRuns s k c o) (ha : readX s c 0 o.ra &&& zeroA = 0) (hb : readX s c 1 o.rb &&& zeroB = 0)
    (body : State → Nat → Crew → Word → Word → Effect) :
    privilegedWord o zeroA zeroB s body = finish s k .s c (freesA o) (body s k c (readX s c 0 o.ra) (readX s c 1 o.rb)) := by
  obtain ⟨hw, hta, htb⟩ := h
  rw [privilegedWord_runs hw hta htb]
  exact congrArg (finish s k .s c _) (if_neg (not_or.2 ⟨Classical.not_not.2 ha, Classical.not_not.2 hb⟩))

/-- One with a bit set that must be zero is illegal. -/
theorem privilegedWord_illegal (h : ReeveRuns s k c o) (hbad : readX s c 0 o.ra &&& zeroA ≠ 0 ∨ readX s c 1 o.rb &&& zeroB ≠ 0)
    (body : State → Nat → Crew → Word → Word → Effect) :
    privilegedWord o zeroA zeroB s body = .next (wordTrap s k .s c 0x01 0xB) := by
  obtain ⟨hw, hta, htb⟩ := h
  rw [privilegedWord_runs hw hta htb]
  exact (congrArg (finish s k .s c _) (if_pos hbad)).trans (finish_trap ..)

/-- One with a poisoned xA traps with it. -/
theorem privilegedWord_poisoned (h : WordRuns s k .s c .s true none (readsA o 2)) (ha : tagX s c 0 o.ra = true)
    (body : State → Nat → Crew → Word → Word → Effect) :
    privilegedWord o zeroA zeroB s body = .next (wordTrap s k .s c 0x04 (BitVec.ofNat 64 o.ra.toNat)) := by
  have hp : poisonedX s c (numberedA o 2) = some (BitVec.ofNat 64 o.ra.toNat) := poisonedX_pair_first ha
  rw [privilegedWord, runWord_runs h, hp]
  exact finish_trap ..

/-- A privileged word on a bench is illegal. -/
theorem privilegedWord_onBench (hcur : s.cur = .crew k .s) (hc : crewAt s k = some c) (hk : isReeve k = false)
    (body : State → Nat → Crew → Word → Word → Effect) :
    privilegedWord o zeroA zeroB s body = .next (wordTrap s k .s c 0x01 0) := by
  simp [privilegedWord, runWord, hcur, hc, hk]

end

/-- What the claim says of a privileged word, from the word's frame. -/
theorem privilegedWord_traps {o : FmtA} {s : State} {k : Nat} {c : Crew} {i : Instr} {zeroA zeroB : Word}
    (hi : ∃ body, exec i s = privilegedWord o zeroA zeroB s body) :
    (ReeveRuns s k c o → (readX s c 0 o.ra &&& zeroA ≠ 0 ∨ readX s c 1 o.rb &&& zeroB ≠ 0) →
        exec i s = .next (wordTrap s k .s c 0x01 0xB)) ∧
      (WordRuns s k .s c .s true none (readsA o 2) → tagX s c 0 o.ra = true →
        exec i s = .next (wordTrap s k .s c 0x04 (BitVec.ofNat 64 o.ra.toNat))) ∧
      (s.cur = .crew k .s → crewAt s k = some c → isReeve k = false → exec i s = .next (wordTrap s k .s c 0x01 0)) := by
  obtain ⟨body, hi⟩ := hi
  rw [hi]
  exact ⟨fun h hbad => privilegedWord_illegal h hbad _, fun h ha => privilegedWord_poisoned h ha _,
    fun hcur hc hk => privilegedWord_onBench hcur hc hk _⟩

theorem privilegedWordsTrap : PrivilegedWordsTrap := by
  intro o s k c a b words q hq
  have hframe : ∀ q ∈ words, ∃ body, exec q.1 s = privilegedWord o q.2.1 q.2.2 s body := by
    simp only [words, List.forall_mem_cons, exec_eret, exec_splog, exec_tlbi, exec_icinv, exec_ctxsSnap, exec_ctxsOut,
      exec_ctxlInto, exec_ctxlResume, execEret, execSplog, execTlbi, execIcinv, execCtxsSnap, execCtxsOut, execCtxlInto,
      execCtxlResume, referenceZero]
    exact ⟨⟨_, rfl⟩, ⟨_, rfl⟩, ⟨_, rfl⟩, ⟨_, rfl⟩, ⟨_, rfl⟩, ⟨_, rfl⟩, ⟨_, rfl⟩, ⟨_, rfl⟩, fun _ h => nomatch h⟩
  exact privilegedWord_traps (hframe q hq)

/-- The doubleword that SPLOG reads. -/
def splogValue (s : State) (k : Nat) (a b : Word) : Word :=
  match targetCrew s k a with
  | some (_, t) => if t.state = .running then BitVec.allOnes 64 else logWord t (bits b 9 0) (bits b 12 10)
  | none => BitVec.allOnes 64

theorem execSplog_gives {o : FmtA} {s : State} {k : Nat} {c : Crew} (h : ReeveRuns s k c o)
    (ha : plainReference (readX s c 0 o.ra)) (hb : readX s c 1 o.rb &&& 0xFFFFFFFFFFFFE000 = 0) :
    exec (.splog o) s = .next (issued s k .s
      (pendX c .s o.rd (splogValue s k (readX s c 0 o.ra) (readX s c 1 o.rb)) false 24) (freesA o)) := by
  rw [exec_splog, execSplog, privilegedWord_ends (zeroA := referenceZero) h ha hb]
  exact finish_done ..

theorem haltAndSplog : HaltAndSplog := by
  intro o s k c
  refine ⟨fun h => ⟨fun he => ?haltWaits, fun hne => ?halt⟩, fun h ha hb => ⟨fun ht => ?noTarget, fun slot t ht =>
    ⟨fun hr => ?running, fun hr hlen => ?pastEnd, fun e hr he => ?entry⟩⟩⟩
  case haltWaits =>
    have hempty : ringEmpty s (clusterOf k) = true := beq_iff_eq.2 he
    rw [exec_halt, execHalt, runWord_runs h, if_pos hempty, finish_stall]
  case halt =>
    have hfilled : ¬ringEmpty s (clusterOf k) = true := mt beq_iff_eq.1 hne
    rw [exec_halt, execHalt, runWord_runs h, if_neg hfilled]
    exact finish_done ..
  case noTarget =>
    have hv : splogValue s k (readX s c 0 o.ra) (readX s c 1 o.rb) = 0xFFFFFFFFFFFFFFFF := by rw [splogValue, ht]; rfl
    exact hv ▸ execSplog_gives h ha hb
  case running =>
    have hv : splogValue s k (readX s c 0 o.ra) (readX s c 1 o.rb) = 0xFFFFFFFFFFFFFFFF := by
      rw [splogValue, ht]
      exact if_pos hr
    exact hv ▸ execSplog_gives h ha hb
  case pastEnd =>
    have hv : splogValue s k (readX s c 0 o.ra) (readX s c 1 o.rb) = 0 := by
      rw [splogValue, ht]
      exact (if_neg hr).trans (by rw [logWord, List.getElem?_eq_none hlen])
    exact hv ▸ execSplog_gives h ha hb
  case entry =>
    have hv : splogValue s k (readX s c 0 o.ra) (readX s c 1 o.rb) =
        (entryWords e).getD (bits (readX s c 1 o.rb) 12 10) 0 := by
      rw [splogValue, ht]
      exact (if_neg hr).trans (by rw [logWord, he])
    exact hv ▸ execSplog_gives h ha hb

theorem sweepsAreIssued : SweepsAreIssued := by
  intro o s k c a b cl r job h
  refine ⟨fun ha hb => ?tlbi, ?icinv⟩
  case tlbi =>
    rw [exec_tlbi, execTlbi, privilegedWord_ends h ha hb]
    exact finish_done ..
  case icinv =>
    rw [exec_icinv, execIcinv, privilegedWord_ends (zeroA := 0) (zeroB := 0) h BitVec.and_zero BitVec.and_zero]
    exact finish_done ..

/-- Settles O29: the traps of privileged words, HALT and SPLOG, TLBI and ICINV. -/
theorem privilegedWords : Obligations.PrivilegedWords :=
  ⟨privilegedWordsTrap, haltAndSplog, sweepsAreIssued⟩

/-! ### ERET (R395) -/

section
variable {o : FmtA} {s s' : State} {k slot st : Nat} {c t : Crew}

theorem execEret_unknown (h : ReeveRuns s k c o) (ha : plainReference (readX s c 0 o.ra))
    (hb : readX s c 1 o.rb &&& 0xFFFFFFFFFFFFFFFC = 0) (ht : targetCrew s k (readX s c 0 o.ra) = none) :
    givesStatus (.eret o) s s k c o 1 := by
  rw [givesStatus, exec_eret, execEret, privilegedWord_ends (zeroA := referenceZero) h ha hb, ht]
  exact finish_done ..

/-- ERET gives the status, and leaves the state, that it brings about on its target. -/
theorem execEret_target (h : ReeveRuns s k c o) (ha : plainReference (readX s c 0 o.ra))
    (hb : readX s c 1 o.rb &&& 0xFFFFFFFFFFFFFFFC = 0) (ht : targetCrew s k (readX s c 0 o.ra) = some (slot, t))
    (he : eretOn s slot t ((readX s c 1 o.rb).getLsbD 0) ((readX s c 1 o.rb).getLsbD 1) = (st, s')) :
    givesStatus (.eret o) s s' k c o st := by
  rw [givesStatus, exec_eret, execEret, privilegedWord_ends (zeroA := referenceZero) h ha hb, ht]
  dsimp only
  rw [he]
  exact finish_done ..

end

theorem eretResumesItsTarget : EretResumesItsTarget := by
  intro o s k c a b h ha hb
  refine ⟨fun ht => execEret_unknown h ha hb ht, fun slot t ht => ⟨fun hr => execEret_target h ha hb ht ?running,
    fun hi hs => execEret_target h ha hb ht ?trapped, fun e hi hs he => ⟨fun hd => execEret_target h ha hb ht ?deliver,
    fun hd => execEret_target h ha hb ht ?release⟩⟩⟩
  case running =>
    unfold eretOn
    obtain hr | hi := hr
    · rw [hr]
      exact ite_self _
    · exact if_pos hi
  case trapped =>
    unfold eretOn
    rw [hs]
    exact if_neg (Bool.eq_false_iff.1 hi)
  case deliver =>
    unfold eretOn
    rw [hs, he, hd]
    exact if_neg (Bool.eq_false_iff.1 hi)
  case release =>
    unfold eretOn
    rw [hs, he, hd]
    exact if_neg (Bool.eq_false_iff.1 hi)

/-! ### The return from an exception (R113, R395) -/

section
variable {s : State} {k : Nat} {c : Crew}

/-- An orphan's word due again touches no entry of the log. -/
theorem dueAgain_log (c : Crew) (str : Stream) : (dueAgain c str).log = c.log := by
  unfold dueAgain
  cases str <;> (dsimp only; split <;> rfl)

theorem retested_log (c : Crew) : (retested c).log = c.log := by
  unfold retested
  split
  · exact dueAgain_log ..
  · rfl

/-- A crew whose log is empty has nothing to issue again. -/
theorem crewAt_reissue_emptyLog (hc : crewAt s k = some c) (hl : c.log = []) : crewAt (reissue s k) k = some (retested c) := by
  have hr : (retested c).log = [] := (retested_log c).trans hl
  unfold reissue
  rw [hc]
  dsimp only
  rw [hr]
  generalize retested c = d at hr
  obtain ⟨⟩ := d
  cases hr
  rw [List.filter_nil, List.foldl_nil, crewAt_putCrew_same]
  simp

end

/-- Where the S-stream waits at no RVZ, only the V-stream's may be due again. -/
theorem retested_of_noRvz {c : Crew} (h : c.s.rvz = none) : ∃ v n, retested c = { c with v := v, epochV := n } := by
  have horphan : orphan c = none ∨ orphan c = some .v := by
    unfold orphan
    rw [h]
    by_cases hv : (c.v.rvz.isSome && c.s.exited) = true
    · exact .inr (if_pos hv)
    · exact .inl (if_neg hv)
  unfold retested
  obtain ho | ho := horphan
  · exact ⟨c.v, c.epochV, by rw [ho]⟩
  · rw [ho]
    unfold dueAgain
    dsimp only
    split
    · exact ⟨c.v, c.epochV, rfl⟩
    · exact ⟨_, _, rfl⟩

theorem returnFromATrap : ReturnFromATrap := by
  intro s k c _ hlog
  refine ⟨fun hne => ?_, fun hcause hrvz => ?_⟩
  · unfold resumeCrew
    dsimp only
    rw [if_neg hne]
    exact crewAt_reissue_emptyLog (crewAt_putCrew_same ..) hlog
  · unfold resumeCrew
    dsimp only
    rw [if_pos hcause]
    generalize hc : complete { c with state := .running, step := false, stepAt := none, lvlsel := 0 } .s
      (wordAfter c.s).1 (wordAfter c.s).2 = d
    obtain ⟨v, n, hd⟩ := retested_of_noRvz (c := d) (hc ▸ hrvz)
    have hl : d.log = [] := hc ▸ hlog
    refine ⟨_, (crewAt_reissue_emptyLog (crewAt_putCrew_same ..) hl).trans (congrArg some hd), ?_⟩
    subst hc
    exact ⟨rfl, rfl, rfl, rfl, rfl, rfl, rfl, rfl, rfl, rfl, rfl, rfl⟩

/-- Settles O30: ERET on each target, and how a crew that stopped at a trap runs on. -/
theorem returnFromTraps : Obligations.ReturnFromTraps := ⟨eretResumesItsTarget, returnFromATrap⟩

end Sys2Proof.Machine
end

/-! ### CTXS and CTXL (R50, R397, R399) -/

section
namespace Sys2Proof.Machine
open Sys2Proof.Claims Sys2Proof.Config

section
variable {i : Instr} {o : FmtA} {s s1 : State} {k : Nat} {c : Crew}

/-- A word that begins a context word carries it as far as it goes. -/
theorem carries_of_startTransfer {t : Transfer} (hi : exec i s = finish s k .s c (freesA o) (startTransfer s1 k c o t)) :
    carries i s s1 k c o t := by
  unfold carries
  unfold startTransfer at hi
  cases hf : finishTransfer s1 t with
  | ok r =>
    rw [hf] at hi
    exact hi.trans (finish_done ..)
  | error s2 =>
    rw [hf] at hi
    exact hi.trans (finish_done ..)

/-- A word whose body ends with a status gives it. -/
theorem givesStatus_of_done {st : Nat} (hi : exec i s = finish s k .s c (freesA o) (.done s1 (status c o st))) :
    givesStatus i s s1 k c o st := hi.trans (finish_done ..)

end

/-! ### What a CTXS gets before it touches its target -/

section
variable {s : State} {t : Crew} {u : WorkUnit} {image : Nat}

theorem saveStatus_refused : saveStatus s t image true = 2 := by
  unfold saveStatus
  split <;> rfl

theorem saveStatus_noArea (hu : unitOf s t = some u) (h : Docket.save u.docket = 0) : saveStatus s t image false = 3 := by
  unfold saveStatus
  rw [hu]
  simp [h]

theorem saveStatus_image (hu : unitOf s t = some u) (h : Docket.save u.docket ≠ 0) (hi : image ≠ 0)
    (hm : Docket.mig u.docket = false ∨ t.claim.isSome = true) : saveStatus s t image false = 4 := by
  have hbad : (!Docket.mig u.docket || t.claim.isSome) = true := by
    obtain hm | hm := hm <;> simp [hm]
  unfold saveStatus
  rw [hu]
  simp only [h, decide_eq_true hi, hbad]
  rfl

theorem saveStatus_may (hu : unitOf s t = some u) (h : Docket.save u.docket ≠ 0)
    (hi : image = 0 ∨ Docket.mig u.docket = true ∧ t.claim = none) : saveStatus s t image false = 0 := by
  unfold saveStatus
  rw [hu]
  obtain hi | ⟨hm, hc⟩ := hi
  · simp [h, hi]
  · simp [h, hm, hc]

end

/-! ### The words -/

section
variable {o : FmtA} {s : State} {k slot : Nat} {c t : Crew}

/-- CTXS.SNAP on a target. -/
theorem execCtxsSnap_ends (h : ReeveRuns s k c o) (ha : plainReference (readX s c 0 o.ra))
    (hb : readX s c 1 o.rb &&& 0xFFFF00000000003E = 0) (ht : targetCrew s k (readX s c 0 o.ra) = some (slot, t)) {st : Nat}
    (hs : saveStatus s t (bits (readX s c 1 o.rb) 47 6 * 64) (t.state != .trapped || inTransfer s slot t.crewId .out) = st) :
    exec (.ctxsSnap o) s = finish s k .s c (freesA o)
      (if st ≠ 0 then .done s (status c o st)
       else startTransfer s k c o { op := .snap, slot := slot, crewId := t.crewId, seq := s.stamp,
                                    image := bits (readX s c 1 o.rb) 47 6 * 64 }) := by
  subst hs
  rw [exec_ctxsSnap, execCtxsSnap, privilegedWord_ends (zeroA := referenceZero) h ha hb, ht]

/-- CTXS.OUT on a target. -/
theorem execCtxsOut_ends (h : ReeveRuns s k c o) (ha : plainReference (readX s c 0 o.ra))
    (hb : readX s c 1 o.rb &&& 0xFFFF00000000003E = 0) (ht : targetCrew s k (readX s c 0 o.ra) = some (slot, t)) {st : Nat}
    (hs : saveStatus s { t with claim := if (membersOf s slot).any fun m => crewIs s m (·.claim.isSome) then some 0 else none }
      (bits (readX s c 1 o.rb) 47 6 * 64) ((membersOf s slot).any (outBarred s)) = st) :
    exec (.ctxsOut o) s = finish s k .s c (freesA o)
      (if st ≠ 0 then .done s (status c o st)
       else startTransfer (stopsGroup s (membersOf s slot)) k c o
         { op := .out, slot := slot, crewId := t.crewId, seq := (stopsGroup s (membersOf s slot)).stamp,
           image := bits (readX s c 1 o.rb) 47 6 * 64 }) := by
  subst hs
  rw [exec_ctxsOut, execCtxsOut, privilegedWord_ends (zeroA := referenceZero) h ha hb, ht]
  rfl

theorem modCrew_stamp (s : State) (m : Nat) (f : Crew → Crew) : (modCrew s m f).stamp = s.stamp := by
  unfold modCrew
  split <;> rfl

theorem stopsGroup_stamp (s : State) (ms : List Nat) : (stopsGroup s ms).stamp = s.stamp := by
  unfold stopsGroup
  induction ms generalizing s with
  | nil => rfl
  | cons m ms ih => exact (ih _).trans (modCrew_stamp ..)

/-- CTXL.INTO on a target. -/
theorem execCtxlInto_ends (h : ReeveRuns s k c o) (ha : plainReference (readX s c 0 o.ra))
    (hb : readX s c 1 o.rb &&& 0xFFFFFFFFFFFFFFFE = 0) (ht : targetCrew s k (readX s c 0 o.ra) = some (slot, t)) :
    exec (.ctxlInto o) s = finish s k .s c (freesA o)
      (if decide (t.state ≠ .trapped) || inTransfer s slot t.crewId .out then .done s (status c o 2)
       else startTransfer s k c o { op := .into, slot := slot, crewId := t.crewId, seq := s.stamp, image := 0 }) := by
  rw [exec_ctxlInto, execCtxlInto, privilegedWord_ends (zeroA := referenceZero) h ha hb, ht]

/-- The checks of CTXL.RESUME on a saved unit, in order (R399). -/
def resumeEffect (s : State) (k : Nat) (c : Crew) (o : FmtA) (a : Word) (u : WorkUnit) : Effect :=
  match readVirtual s (coreOf k) (Docket.job u.docket) (a.toNat + 0x48) 8 .load false with
  | (.error _, s) => .done s (status c o 5)
  | (.ok bs, s) =>
    if bytesValue bs ≠ 2 || !switchedOut s u then .done s (status c o 2)
    else
      match movable s (coreOf k) u (remainingMembers u) with
      | (none, s) => .done s (status c o 5)
      | (some free, s) =>
        let s := { s with units := mapSet s.units u.uid (resuming u free) }
        if storeRoom s then .done (intoStore s u.uid) (status c o 0)
        else
          .done (bump { s with dispatcher := { s.dispatcher with
              waiting := s.dispatcher.waiting ++ [.enqueue u.uid (some (clusterOf k, s.stamp))] } })
            (awaitX c o.rd s.stamp true false)

theorem execCtxlResume_ends (h : ReeveRuns s k c o) (hb : readX s c 1 o.rb &&& 0xFFFFFFFFFFFFFFFE = 0) {u : WorkUnit}
    (hu : savedUnit s (readX s c 0 o.ra) = some u) :
    exec (.ctxlResume o) s = finish s k .s c (freesA o) (resumeEffect s k c o (readX s c 0 o.ra) u) := by
  rw [exec_ctxlResume, execCtxlResume, privilegedWord_ends (zeroA := 0) h BitVec.and_zero hb, hu]
  rfl

theorem execCtxlResume_unknown (h : ReeveRuns s k c o) (hb : readX s c 1 o.rb &&& 0xFFFFFFFFFFFFFFFE = 0)
    (hu : savedUnit s (readX s c 0 o.ra) = none) : givesStatus (.ctxlResume o) s s k c o 1 := by
  rw [givesStatus, exec_ctxlResume, execCtxlResume, privilegedWord_ends (zeroA := 0) h BitVec.and_zero hb, hu]
  exact finish_done ..

section
variable {a : Word} {u : WorkUnit} {bs : List Byte} {s1 s2 : State}

theorem resumeEffect_unread {f : BitVec 8 × Word}
    (hr : readVirtual s (coreOf k) (Docket.job u.docket) (a.toNat + 0x48) 8 .load false = (.error f, s1)) :
    resumeEffect s k c o a u = .done s1 (status c o 5) := by
  unfold resumeEffect
  rw [hr]

theorem resumeEffect_refused
    (hr : readVirtual s (coreOf k) (Docket.job u.docket) (a.toNat + 0x48) 8 .load false = (.ok bs, s1))
    (hbad : bytesValue bs ≠ 2 ∨ switchedOut s1 u = false) : resumeEffect s k c o a u = .done s1 (status c o 2) := by
  have hif : (decide (bytesValue bs ≠ 2) || !switchedOut s1 u) = true := by
    obtain hbad | hbad := hbad <;> simp [hbad]
  unfold resumeEffect
  rw [hr]
  exact if_pos hif

theorem resumeEffect_passes
    (hr : readVirtual s (coreOf k) (Docket.job u.docket) (a.toNat + 0x48) 8 .load false = (.ok bs, s1))
    (h2 : bytesValue bs = 2) (ho : switchedOut s1 u = true) :
    (movable s1 (coreOf k) u (remainingMembers u) = (none, s2) → resumeEffect s k c o a u = .done s2 (status c o 5)) ∧
    (∀ free, movable s1 (coreOf k) u (remainingMembers u) = (some free, s2) →
      let s3 := { s2 with units := mapSet s2.units u.uid (resuming u free) }
      (storeRoom s3 = true → resumeEffect s k c o a u = .done (intoStore s3 u.uid) (status c o 0)) ∧
      (storeRoom s3 = false → resumeEffect s k c o a u =
        .done (bump { s3 with dispatcher := { s3.dispatcher with
            waiting := s3.dispatcher.waiting ++ [.enqueue u.uid (some (clusterOf k, s3.stamp))] } })
          (awaitX c o.rd s3.stamp true false))) := by
  have hif : ¬(decide (bytesValue bs ≠ 2) || !switchedOut s1 u) = true := by simp [h2, ho]
  unfold resumeEffect
  rw [hr]
  dsimp only
  rw [if_neg hif]
  refine ⟨fun hm => by rw [hm], fun free hm => ⟨fun hroom => ?_, fun hroom => ?_⟩⟩
  · rw [hm]
    exact if_pos hroom
  · rw [hm]
    exact if_neg (Bool.eq_false_iff.1 hroom)

end
end

/-- Settles O31: CTXS and CTXL in each mode, by what their target or their save area is. -/
theorem contextWordsIssue : Obligations.ContextWordsIssue := by
  intro o s k c a b image h
  refine ⟨fun ha hb => ⟨fun ht => ⟨?snapUnknown, ?outUnknown⟩, fun slot t ht => ⟨fun hbad => ?snapRefused, fun hbar => ?outRefused,
    fun u hu => ⟨fun hs ho => ⟨fun hz => ?snapNoArea, fun hz hi hm => ?snapImage, fun hz hi => ?snap⟩, fun hbar hz hi => ?out⟩⟩⟩,
    fun hb => ⟨fun ha => ⟨fun ht => ?intoUnknown, fun slot t ht => ⟨fun hs => ?intoRefused, fun hs ho => ?into⟩⟩,
    fun hu => execCtxlResume_unknown h hb hu, fun u hu => ⟨fun f s1 hr => ?unread, fun bs s1 hr => ⟨fun hbad => ?refused,
      fun s2 h2 ho hm => ?unmoved, fun free s2 h2 ho hm => ⟨fun hroom => ?resumed, fun hroom => ?waits⟩⟩⟩⟩⟩
  case snapUnknown =>
    rw [givesStatus, exec_ctxsSnap, execCtxsSnap, privilegedWord_ends (zeroA := referenceZero) h ha hb, ht]
    exact finish_done ..
  case outUnknown =>
    rw [givesStatus, exec_ctxsOut, execCtxsOut, privilegedWord_ends (zeroA := referenceZero) h ha hb, ht]
    exact finish_done ..
  case intoUnknown =>
    rw [givesStatus, exec_ctxlInto, execCtxlInto, privilegedWord_ends (zeroA := referenceZero) h ha hb, ht]
    exact finish_done ..
  case snapRefused =>
    have hr : (t.state != .trapped || inTransfer s slot t.crewId .out) = true := by
      obtain hbad | hbad := hbad <;> simp [hbad]
    exact givesStatus_of_done (execCtxsSnap_ends h ha hb ht (st := 2) (by rw [hr]; exact saveStatus_refused))
  case outRefused => exact givesStatus_of_done (execCtxsOut_ends h ha hb ht (st := 2) (by rw [hbar]; exact saveStatus_refused))
  case snapNoArea =>
    have hr : (t.state != .trapped || inTransfer s slot t.crewId .out) = false := by rw [hs, ho]; rfl
    exact givesStatus_of_done (execCtxsSnap_ends h ha hb ht (st := 3) (by rw [hr]; exact saveStatus_noArea hu hz))
  case snapImage =>
    have hr : (t.state != .trapped || inTransfer s slot t.crewId .out) = false := by rw [hs, ho]; rfl
    exact givesStatus_of_done (execCtxsSnap_ends h ha hb ht (st := 4) (by rw [hr]; exact saveStatus_image hu hz hi hm))
  case snap =>
    have hr : (t.state != .trapped || inTransfer s slot t.crewId .out) = false := by rw [hs, ho]; rfl
    exact carries_of_startTransfer (execCtxsSnap_ends h ha hb ht (st := 0) (by rw [hr]; exact saveStatus_may hu hz hi))
  case out =>
    refine carries_of_startTransfer ((execCtxsOut_ends h ha hb ht (st := 0) ?_).trans ?_)
    · rw [hbar]
      exact saveStatus_may hu hz (.inl hi)
    · rw [stopsGroup_stamp]
      rfl
  case intoRefused =>
    have hr : (decide (t.state ≠ .trapped) || inTransfer s slot t.crewId .out) = true := by rw [decide_eq_true hs]; rfl
    exact givesStatus_of_done ((execCtxlInto_ends h ha hb ht).trans (congrArg (finish s k .s c _) (if_pos hr)))
  case into =>
    have hr : (decide (t.state ≠ .trapped) || inTransfer s slot t.crewId .out) = false := by rw [hs, ho]; rfl
    exact carries_of_startTransfer ((execCtxlInto_ends h ha hb ht).trans
      (congrArg (finish s k .s c _) (if_neg (Bool.eq_false_iff.1 hr))))
  all_goals have hends := execCtxlResume_ends h hb hu
  case unread => exact givesStatus_of_done (hends.trans (congrArg _ (resumeEffect_unread hr)))
  case refused => exact givesStatus_of_done (hends.trans (congrArg _ (resumeEffect_refused hr hbad)))
  case unmoved => exact givesStatus_of_done (hends.trans (congrArg _ ((resumeEffect_passes hr h2 ho).1 hm)))
  case resumed => exact givesStatus_of_done (hends.trans (congrArg _ (((resumeEffect_passes hr h2 ho).2 free hm).1 hroom)))
  case waits =>
    exact (hends.trans (congrArg _ (((resumeEffect_passes hr h2 ho).2 free hm).2 hroom))).trans (finish_done ..)

end Sys2Proof.Machine
end

/-! ### The commands of the control node (R36 to R49) -/

section
namespace Sys2Proof.Machine
open Sys2Proof.Claims Sys2Proof.Config

/-! ### Level commands (R37, R39) -/

section
variable {c : Cmd} {s : State} {bad : Bool} {body : State → State}

theorem command_bad (h : bad = true) : command c bad s body = .next (endCommand s c 1 0 0) := by
  rw [command, if_pos h]

theorem command_good (h : bad = false) : command c bad s body = .next (body s) := by
  rw [command, if_neg (Bool.eq_false_iff.1 h)]

end

section
variable (c : Cmd) (s : State)

theorem exec_jobopen : exec (.jobopen c) s = execJobopen c s := rfl
theorem exec_jobend : exec (.jobend c) s = execJobend c s := rfl
theorem exec_phaseopen : exec (.phaseopen c) s = execPhaseopen c s := rfl
theorem exec_phaseclose : exec (.phaseclose c) s = execPhaseclose c s := rfl
theorem exec_cancelCommand : exec (.cancelCommand c) s = execCancelCommand c s := rfl
theorem exec_launch : exec (.launch c) s = execLaunch c s := rfl
theorem exec_replay : exec (.replay c) s = execReplay c s := rfl
theorem exec_gpatch : exec (.gpatch c) s = execGpatch c s := rfl
theorem exec_gpatchRelease : exec .gpatchRelease s = execGpatchRelease s := rfl

end

/-- A record with a field that its command does not take is BADCMD. -/
theorem illFormed_ends (c : Cmd) (s : State) :
    ∀ i ∈ [Instr.jobopen c, .jobend c, .phaseopen c, .phaseclose c, .launch c, .replay c, .gpatch c, .cancelCommand c],
      i.illFormed.isSome = true → ends i s s c 1 := by
  simp only [List.forall_mem_cons, ends, exec_jobopen, exec_jobend, exec_phaseopen, exec_phaseclose, exec_launch, exec_replay,
    exec_gpatch, exec_cancelCommand, execJobopen, execJobend, execPhaseopen, execPhaseclose, execLaunch, execReplay, execGpatch,
    execCancelCommand]
  refine ⟨fun h => command_bad ?_, fun h => command_bad ?_, fun h => command_bad ?_, fun h => command_bad ?_,
    fun h => command_bad ?_, fun h => command_bad ?_, fun h => command_bad ?_, fun h => command_bad ?_, fun _ h => nomatch h⟩ <;>
    simp only [h, Bool.true_or]

/-- Settles O33: each level command by its checks. -/
theorem levelCommands : Obligations.LevelCommands := by
  intro c s job phase pv
  refine ⟨illFormed_ends c s, fun h => ⟨fun ha => ?openBad, fun ha hu => ?openBusy, fun ha hu => ?opens⟩,
    fun h => ⟨fun ho => ?ends, fun ho => ?endUnknown⟩, fun h hp => ?phaseBad, fun h hp => ?closeBad,
    fun h hp => ⟨fun ho => ?phaseUnknown, fun ho hu => ?phaseBusy, fun ho hu => ?phase⟩,
    fun h hp => ⟨fun hj ho => ?close, fun ho => ?closeUnknown⟩, fun h => ⟨fun hs hj => ?cancel, fun hs => ?cancelNothing⟩⟩
  case openBad =>
    rw [Claims.ends, exec_jobopen, execJobopen]
    refine command_bad ?_
    rw [bne_iff_ne.2 ha, Bool.or_true]
  case openBusy =>
    rw [Claims.ends, exec_jobopen, execJobopen]
    refine (command_good ?_).trans (congrArg _ (if_pos hu))
    rw [h, ha]
    rfl
  case opens =>
    rw [Claims.ends, exec_jobopen, execJobopen]
    refine (command_good ?_).trans (congrArg _ (if_neg (Bool.eq_false_iff.1 hu)))
    rw [h, ha]
    rfl
  case ends =>
    rw [Claims.ends, exec_jobend, execJobend]
    refine (command_good ?_).trans (congrArg _ (if_pos ho))
    rw [h]
    rfl
  case endUnknown =>
    rw [Claims.ends, exec_jobend, execJobend]
    refine (command_good ?_).trans (congrArg _ (if_neg (Bool.eq_false_iff.1 ho)))
    rw [h]
    rfl
  case phaseBad =>
    rw [Claims.ends, exec_phaseopen, execPhaseopen]
    have hp : Cmd.pv c = false := hp
    refine command_bad ?_
    rw [hp, Bool.not_false, Bool.or_true]
  case closeBad =>
    rw [Claims.ends, exec_phaseclose, execPhaseclose]
    have hp : Cmd.pv c = false := hp
    refine command_bad ?_
    rw [hp, Bool.not_false, Bool.or_true]
  case cancel =>
    rw [Claims.ends, exec_cancelCommand, execCancelCommand]
    refine (command_good ?_).trans (congrArg (fun t => Host.Outcome.next (endCommand t c 0 0 0)) (if_pos hj))
    rw [h]
    rfl
  case cancelNothing =>
    rw [Claims.ends, exec_cancelCommand, execCancelCommand]
    refine (command_good ?_).trans (congrArg (fun t => Host.Outcome.next (endCommand t c 0 0 0)) ?_)
    · rw [h]
      rfl
    by_cases hj : (levelAt s c.lvl.toNat (levelId c.lvl.toNat c.ids)).job = Cmd.job c
    · have hs : (levelAt s c.lvl.toNat (levelId c.lvl.toNat c.ids)).state ≠ .active := hs.resolve_right (Classical.not_not.2 hj)
      rw [if_pos hj, cancelLevel, if_neg hs]
    · rw [if_neg hj]
  all_goals
    have hpv : Cmd.pv c = true := hp
  case phaseUnknown =>
    rw [Claims.ends, exec_phaseopen, execPhaseopen]
    have hn : (!openFor s 4 job job) = true := by rw [ho]; rfl
    exact (command_good (by rw [h, hpv]; rfl)).trans (congrArg _ (if_pos hn))
  case phaseBusy =>
    rw [Claims.ends, exec_phaseopen, execPhaseopen]
    have hn : ¬(!openFor s 4 job job) = true := by rw [ho]; decide
    exact (command_good (by rw [h, hpv]; rfl)).trans (congrArg _ ((if_neg hn).trans (if_pos hu)))
  case phase =>
    rw [Claims.ends, exec_phaseopen, execPhaseopen]
    have hn : ¬(!openFor s 4 job job) = true := by rw [ho]; decide
    exact (command_good (by rw [h, hpv]; rfl)).trans (congrArg _ ((if_neg hn).trans (if_neg (Bool.eq_false_iff.1 hu))))
  case close =>
    rw [Claims.ends, exec_phaseclose, execPhaseclose]
    have hn : namesOpen s c = true := by
      show (openFor s 4 job job && (!pv || openFor s 3 phase job)) = true
      rw [hj, ho, Bool.or_true, Bool.and_self]
    exact (command_good (by rw [h, hpv]; rfl)).trans (congrArg _ (if_pos hn))
  case closeUnknown =>
    rw [Claims.ends, exec_phaseclose, execPhaseclose]
    have hn : namesOpen s c = false := by
      show (openFor s 4 job job && (!pv || openFor s 3 phase job)) = false
      rw [hp]
      obtain ho | ho := ho
      · rw [ho, Bool.false_and]
      · rw [ho, Bool.not_true, Bool.or_self, Bool.and_false]
    exact (command_good (by rw [h, hpv]; rfl)).trans (congrArg _ (if_neg (Bool.eq_false_iff.1 hn)))

end Sys2Proof.Machine
end

/-! ### Completion records and the port's registers (R35, R36, R48, R49, R424) -/

section
namespace Sys2Proof.Machine
open Sys2Proof.Claims Sys2Proof.Config

/-! ### Records of the completion ring -/

/-- Bytes read in one run are those of its two parts. -/
theorem memRead_add (m : Memory) (a n k : Nat) : memRead m a (n + k) = memRead m a n ++ memRead m (a + n) k := by
  induction n generalizing a with
  | zero => simp [memRead]
  | succ n ih =>
    rw [Nat.succ_add_eq_add_succ, Nat.add_succ, memRead, memRead, ih (a + 1), Nat.add_assoc, Nat.add_comm 1 n]
    rfl

@[simp] theorem length_memRead (m : Memory) (a n : Nat) : (memRead m a n).length = n := by
  induction n generalizing a with
  | zero => rfl
  | succ n ih => exact congrArg Nat.succ (ih (a + 1))

@[simp] theorem length_wordBytes (w : Word) : (wordBytes w).length = 8 := valueBytes_length ..

/-- Two doublewords written in a row read back. -/
theorem memRead_memWrite_pair (m : Memory) (a : Nat) (d0 d1 : Word) :
    memRead (memWrite m a (wordBytes d0 ++ wordBytes d1)) a 8 = wordBytes d0 ∧
      memRead (memWrite m a (wordBytes d0 ++ wordBytes d1)) (a + 8) 8 = wordBytes d1 := by
  have hall := memRead_memWrite_same m a (wordBytes d0 ++ wordBytes d1)
  rw [List.length_append, length_wordBytes, length_wordBytes, memRead_add] at hall
  exact List.append_inj hall (by simp)

section
variable {s : State} {d0 d1 : Word} {key : Nat}

/-- A state whose one waiting record may be written writes it where the ring has room and Ngugrim is up. -/
theorem flushEnded_single (he : s.port.ended = [(d0, d1, key)]) (hk : key = statusKey ∨ recordWaits s key = false) :
    flushEnded s = if cpRoom s && !s.port.retrain then
      recordWritten { writeCompletion s d0 d1 with port := { (writeCompletion s d0 d1).port with ended := [] } } key else s := by
  have hfind : s.port.ended.find? (fun e => e.2.2 == statusKey || !recordWaits s e.2.2) = some (d0, d1, key) := by
    have hmay : (key == statusKey || !recordWaits s key) = true := by obtain hk | hk := hk <;> simp [hk]
    rw [he, List.find?_cons, hmay]
  have herase : s.port.ended.erase (d0, d1, key) = [] := by rw [he, List.erase_cons_head]
  unfold flushEnded
  rw [he]
  show drainEnded s 1 = _
  unfold drainEnded
  rw [hfind]
  dsimp only [drainEnded]
  have hw : (writeCompletion s d0 d1).port.ended = s.port.ended := rfl
  rw [hw, herase]

end

/-- The state in which a command is over and its status record waits alone. -/
def awaitingStatus (s : State) (d0 d1 : Word) : State :=
  { s with port := { s.port with current := none, held := false, ended := [(d0, d1, statusKey)] } }

theorem endCommand_awaits {s : State} (c : Cmd) {status addr count : Nat} (ha : addr < 2 ^ 48) (he : s.port.ended = []) :
    endCommand s c status addr count = flushEnded (awaitingStatus s (BitVec.ofNat 64 (2 ^ 56 + status * 2 ^ 48 + addr))
      (BitVec.ofNat 64 (count * 2 ^ 32 + c.tag.toNat))) := by
  unfold endCommand awaitingStatus statusRecord
  rw [he, Nat.mod_eq_of_lt ha]
  rfl

section
variable {s : State} {d0 d1 : Word}

/-- A status record waits where the ring is full or Ngugrim retrains. -/
theorem awaitingStatus_waits (h : cpRoom s = false ∨ s.port.retrain = true) :
    flushEnded (awaitingStatus s d0 d1) = awaitingStatus s d0 d1 := by
  have hno : (cpRoom s && !s.port.retrain) = false := by obtain h | h := h <;> simp [h]
  rw [flushEnded_single (d0 := d0) (d1 := d1) rfl (.inl rfl)]
  exact if_neg (Bool.eq_false_iff.1 hno)

/-- It is written otherwise: its bytes, CPTAIL and CQHEAD change alone. -/
theorem awaitingStatus_written (hroom : cpRoom s = true) (hup : s.port.retrain = false) :
    flushEnded (awaitingStatus s d0 d1) =
      { s with ctl := memWrite s.ctl (bits s.port.cpbase 47 12 * 4096 + 16 * (s.port.cptail.toNat % cpRingSize s))
                 (wordBytes d0 ++ wordBytes d1)
               port := { s.port with current := none, held := false, ended := [], cptail := s.port.cptail + 1,
                                     cqhead := s.port.cqhead + 1 } } := by
  have hyes : (cpRoom s && !s.port.retrain) = true := by rw [hroom, hup]; rfl
  rw [flushEnded_single (d0 := d0) (d1 := d1) rfl (.inl rfl)]
  exact if_pos hyes

end

theorem statusRecordIsWritten : StatusRecordIsWritten := by
  intro s c status addr count _ ha _ at_ t waits he
  have ht : t = _ := endCommand_awaits c ha he
  refine ⟨fun hw => ht.trans (awaitingStatus_waits hw), fun _ hroom hup => ?_⟩
  rw [ht, awaitingStatus_written hroom hup]
  obtain ⟨h0, h1⟩ := memRead_memWrite_pair s.ctl at_ (BitVec.ofNat 64 (2 ^ 56 + status * 2 ^ 48 + addr))
    (BitVec.ofNat 64 (count * 2 ^ 32 + c.tag.toNat))
  refine ⟨(congrArg bytesWord h0).trans (bytesWord_wordBytes _), (congrArg bytesWord h1).trans (bytesWord_wordBytes _),
    fun x hx => memGet_memWrite_other s.ctl at_ _ ?_, rfl, rfl, rfl, rfl, rfl, rfl, rfl, rfl, rfl, rfl⟩
  rw [List.length_append, length_wordBytes, length_wordBytes]
  omega

theorem waitingRecordIsWrittenOnRoom : WaitingRecordIsWrittenOnRoom := by
  intro s v d0 d1 key he hup hroom hk
  have hyes : (cpRoom { s with port := { s.port with cphead := v.truncate 32 } } && !s.port.retrain) = true := by
    rw [hup]
    exact (Bool.and_true _).trans (decide_eq_true hroom)
  refine ⟨_, rfl, ?_⟩
  rw [flushEnded_single (s := { s with port := { s.port with cphead := v.truncate 32 } }) he hk, if_pos hyes]
  by_cases hs : key = statusKey
  · subst hs
    exact ⟨rfl, rfl, rfl, fun h => absurd rfl h, fun _ => ⟨rfl, rfl⟩⟩
  · unfold recordWritten
    rw [if_neg hs]
    exact ⟨rfl, rfl, rfl, fun _ => ⟨by simp, rfl⟩, fun h => absurd h hs⟩

/-! ### The attestation report (R424) -/

theorem attestationReportIsWritten : AttestationReportIsWritten := by
  intro s ha hr hi a body
  have hgo : (!s.port.attesting || s.port.retrain || s.pkg.inReset) = false := by rw [ha, hr, hi]; rfl
  refine ⟨?_, ?_⟩
  · show execAttestationReport s = _
    unfold execAttestationReport
    rw [if_neg (Bool.eq_false_iff.1 hgo)]
    rfl
  · simp [body, reportBody]

/-! ### The registers of the port (R35, R36) -/

theorem baseField_eq (v : Word) : baseField v = v &&& 0xFFFFFFFFF00F := by
  unfold baseField
  rw [← BitVec.and_or_distrib_left]
  rfl

/-- The check of the rings as R35 states it. -/
theorem portCheck_eq (s : State) : portCheck s = portWritten s := by
  unfold portCheck portWritten
  simp only [Bool.or_eq_true, decide_eq_true_eq, gt_iff_lt, cqRingSize]
  congr 1
  exact propext or_assoc

/-- With no record waiting none is written. -/
theorem flushEnded_empty {s : State} (h : s.port.ended = []) : flushEnded s = s := by
  unfold flushEnded
  rw [h]
  rfl

theorem portRegisterWrites : PortRegisterWrites := by
  intro s v n
  refine ⟨?cqtail, fun he => ⟨fun hh => ?cqbase, fun hh => ?cqbaseHeld, fun hd => ?cpbase⟩, fun he => ⟨?cqbaseOn, ?cpbaseOn⟩,
    fun hd => ?cphead, fun hb hr => ⟨?enable, ?disable⟩, fun hb => ?blocked, rfl, rfl, fun hv ha => ?attreq, fun hv => ?attreqZero⟩
  case cqtail => exact congrArg Host.Outcome.next (portCheck_eq _)
  case cqbase =>
    refine congrArg Host.Outcome.next ((if_neg (Bool.eq_false_iff.1 he)).trans ((portCheck_eq _).trans ?_))
    rw [baseField_eq]
    exact congrArg portWritten (congrArg (fun p => { s with port := p }) (if_neg (Bool.eq_false_iff.1 hh)))
  case cqbaseHeld =>
    refine congrArg Host.Outcome.next ((if_neg (Bool.eq_false_iff.1 he)).trans ((portCheck_eq _).trans ?_))
    rw [baseField_eq]
    exact congrArg portWritten (congrArg (fun p => { s with port := p }) (if_pos hh))
  case cpbase =>
    refine congrArg Host.Outcome.next ((if_neg (Bool.eq_false_iff.1 he)).trans ?_)
    rw [baseField_eq, portCheck_eq]
    refine flushEnded_empty ?_
    unfold portWritten
    split <;> exact hd
  case cqbaseOn => exact congrArg Host.Outcome.next (if_pos he)
  case cpbaseOn => exact congrArg Host.Outcome.next (if_pos he)
  case cphead => exact congrArg Host.Outcome.next (flushEnded_empty hd)
  case enable =>
    have hno : ¬(s.pkg.enBlocked || s.pkg.inReset) = true := by rw [hb, hr]; decide
    exact congrArg Host.Outcome.next ((if_neg hno).trans ((if_pos rfl).trans (portCheck_eq _)))
  case disable =>
    have hno : ¬(s.pkg.enBlocked || s.pkg.inReset) = true := by rw [hb, hr]; decide
    exact congrArg Host.Outcome.next ((if_neg hno).trans (if_neg Bool.false_ne_true))
  case blocked =>
    have hyes : (s.pkg.enBlocked || s.pkg.inReset) = true := by rw [hb]; rfl
    exact congrArg Host.Outcome.next (if_pos hyes)
  case attreq =>
    have hno : ¬(decide (bits v 47 6 = 0) || s.port.attesting) = true := by rw [decide_eq_false hv, ha]; decide
    exact congrArg Host.Outcome.next (if_neg hno)
  case attreqZero =>
    have hyes : (decide (bits v 47 6 = 0) || s.port.attesting) = true := by rw [decide_eq_true hv]; rfl
    exact congrArg Host.Outcome.next (if_pos hyes)

/-- Settles O32: the records of commands and of levels, the attestation report, the port's registers. -/
theorem recordsReachTheControlNode : Obligations.RecordsReachTheControlNode :=
  ⟨statusRecordIsWritten, waitingRecordIsWrittenOnRoom, attestationReportIsWritten, portRegisterWrites⟩

end Sys2Proof.Machine
end

/-! ### LAUNCH, REPLAY and GPATCH (R39 to R45) -/

section
namespace Sys2Proof.Machine
open Sys2Proof.Claims Sys2Proof.Config

/-! ### LAUNCH (R40 to R42) -/

section
variable {c : Cmd} {s : State}

/-- A LAUNCH whose record passes. -/
theorem launch_wellFormed (h : (Instr.launch c).illFormed = none) (hg : c.ids.getLsbD 25 = false) (hc : c.cnt ≠ 0)
    (h2 : c.addr2.toNat % 64 = 0) (h0 : c.addr0.toNat % 64 = 0) (h1 : c.pg = true → c.addr1.toNat % 64 = 0) :
    ((Instr.launch c).illFormed.isSome || Cmd.gv c || c.cnt = 0 || c.addr2.toNat % 64 != 0 ||
      c.addr0.toNat % 64 != 0 || (c.pg && c.addr1.toNat % 64 != 0)) = false := by
  have hpg : (c.pg && c.addr1.toNat % 64 != 0) = false := by
    cases hp : c.pg with
    | false => rfl
    | true => rw [h1 hp]; rfl
  have hgv : Cmd.gv c = false := hg
  rw [h, hgv, h2, h0, hpg, decide_eq_false hc]
  rfl

theorem launch_malformed (h : c.ids.getLsbD 25 = true ∨ c.cnt = 0 ∨ c.addr2.toNat % 64 ≠ 0 ∨ c.addr0.toNat % 64 ≠ 0 ∨
    (c.pg = true ∧ c.addr1.toNat % 64 ≠ 0)) :
    ((Instr.launch c).illFormed.isSome || Cmd.gv c || c.cnt = 0 || c.addr2.toNat % 64 != 0 ||
      c.addr0.toNat % 64 != 0 || (c.pg && c.addr1.toNat % 64 != 0)) = true := by
  simp only [Bool.or_eq_true, Bool.and_eq_true, bne_iff_ne, decide_eq_true_eq, Cmd.gv]
  rw [or_assoc, or_assoc, or_assoc, or_assoc]
  exact .inr h

end

/-- A launch whose units may be created is started. -/
theorem startLaunch_starts {c : Cmd} {s t : State} {h : Share} (hi : exec (.launch c) s = .next (startLaunch t c h)) :
    launchStarts s t c h := by
  refine ⟨fun ha => hi.trans (congrArg _ (if_pos ha)), fun s2 ha hw => hi.trans (congrArg _ ?_),
    fun x f s2 ha hw => hi.trans (congrArg _ ?_)⟩
  all_goals
    have hw' : writeVirtual (openLevel t 1 (Cmd.launch c) (Cmd.job c) (Cmd.phase? c) 0) 0 (Cmd.job c) c.addr2.toNat (rankBlock h)
      false = _ := hw
    unfold startLaunch
    dsimp only
    rw [if_neg ha]
  · rw [hw']
  · rw [hw']
    rfl

/-- LAUNCH, from its record on (R40 to R42). -/
theorem launchIsChecked (c : Cmd) (s : State) (h : (Instr.launch c).illFormed = none) :
    (c.ids.getLsbD 25 = true ∨ c.cnt = 0 ∨ c.addr2.toNat % 64 ≠ 0 ∨ c.addr0.toNat % 64 ≠ 0 ∨
      (c.pg = true ∧ c.addr1.toNat % 64 ≠ 0) → ends (.launch c) s s c 1) ∧
    (c.ids.getLsbD 25 = false → c.cnt ≠ 0 → c.addr2.toNat % 64 = 0 → c.addr0.toNat % 64 = 0 →
      (c.pg = true → c.addr1.toNat % 64 = 0) →
      (namesOpen s c = false → ends (.launch c) s s c 3) ∧
      (namesOpen s c = true → (levelAt s 1 (bits c.ids 11 0)).inUse = true → ends (.launch c) s s c 2) ∧
      (namesOpen s c = true → (levelAt s 1 (bits c.ids 11 0)).inUse = false →
        (∀ f s1, readShare s c = (.error (some f), s1) → exec (.launch c) s = .next (endCommand s1 c 6 f.toNat 0)) ∧
        (c.am = true →
          (∀ s1, readShare s c = (.error none, s1) → ends (.launch c) s s1 c 8) ∧
          (∀ h s1, readShare s c = (.ok h, s1) →
            (countersFit s1 (outerLevels c) h.num = false → ends (.launch c) s s1 c 9) ∧
            (countersFit s1 (outerLevels c) h.num = true → launchStarts s s1 c h))) ∧
        (c.am = false →
          (∀ r s1 f s2, (readShare s c = (.ok r, s1) ∨ readShare s c = (.error none, s1)) →
            launchDocket s1 c 0 = (.error f, s2) → exec (.launch c) s = .next (endCommand s2 c 6 f.toNat 0)) ∧
          (∀ s1 d s2, readShare s c = (.error none, s1) → launchDocket s1 c 0 = (.ok d, s2) → ends (.launch c) s s2 c 8) ∧
          (∀ h s1 d s2, readShare s c = (.ok h, s1) → launchDocket s1 c 0 = (.ok d, s2) →
            (countersFit s2 (outerLevels c) h.num = false → ends (.launch c) s s2 c 9) ∧
            (countersFit s2 (outerLevels c) h.num = true → launchMalformed s2 d = true → ends (.launch c) s s2 c 4) ∧
            (countersFit s2 (outerLevels c) h.num = true → launchMalformed s2 d = false → launchStarts s s2 c h))))) := by
  have hi := exec_launch c s
  refine ⟨fun hbad => hi.trans (command_bad (launch_malformed hbad)), fun hg hc h2 h0 h1 => ?_⟩
  rw [execLaunch, command_good (launch_wellFormed h hg hc h2 h0 h1)] at hi
  refine ⟨fun ho => hi.trans (congrArg _ (if_pos ?_)), fun ho hu => ?_, fun ho hu => ?_⟩
  · rw [ho]
    rfl
  all_goals
    have hopen : ¬(!namesOpen s c) = true := by rw [ho]; decide
    rw [if_neg hopen] at hi
  · exact hi.trans (congrArg _ (if_pos hu))
  rw [if_neg (show ¬(levelAt s 1 (Cmd.launch c)).inUse = true from Bool.eq_false_iff.1 hu)] at hi
  have hfit {t : State} {n : Nat} {b : Bool} (hf : countersFit t (outerLevels c) n = b) :
      (!countersFit t (outerLevels c) n) = !b := by rw [hf]
  refine ⟨fun f s1 hr => ?fault, fun ham => ⟨fun s1 hr => ?arrayUnusable, fun h s1 hr => ⟨fun hf => ?arrayFull, fun hf => ?arrayStarts⟩⟩,
    fun ham => ⟨fun r s1 f s2 hr hd => ?templateFault, fun s1 d s2 hr hd => ?unusable,
    fun h s1 d s2 hr hd => ⟨fun hf => ?full, fun hf hm => ?malformed, fun hf hm => ?starts⟩⟩⟩
  case fault =>
    rw [hr] at hi
    exact hi
  case arrayUnusable =>
    rw [hr, ham] at hi
    exact hi
  case arrayFull =>
    rw [hr, ham] at hi
    exact hi.trans (congrArg _ (if_pos (hfit hf)))
  case arrayStarts =>
    rw [hr, ham] at hi
    exact startLaunch_starts (hi.trans (congrArg _ (if_neg (Bool.eq_false_iff.1 (hfit hf)))))
  case templateFault =>
    obtain hr | hr := hr
    all_goals
      rw [hr, ham] at hi
      dsimp only at hi
      rw [if_neg Bool.false_ne_true, hd] at hi
      exact hi
  case unusable =>
    rw [hr, ham] at hi
    dsimp only at hi
    rw [if_neg Bool.false_ne_true, hd] at hi
    exact hi
  all_goals
    rw [hr, ham] at hi
    dsimp only at hi
    rw [if_neg Bool.false_ne_true, hd] at hi
    dsimp only at hi
  case full => exact hi.trans (congrArg _ (if_pos (hfit hf)))
  case malformed =>
    rw [if_neg (Bool.eq_false_iff.1 (hfit hf)), hm] at hi
    exact hi
  case starts =>
    rw [if_neg (Bool.eq_false_iff.1 (hfit hf)), hm] at hi
    exact startLaunch_starts hi

/-! ### Process groups (R41) -/

section
variable {c : Cmd} {s s1 s2 : State} {head entries : List Byte}

/-- A table of a size that is out of range is unusable. -/
theorem readShare_badSize (hpg : c.pg = true)
    (hh : readVirtual s 0 (Cmd.job c) c.addr1.toNat 0x40 .dispatcher false = (.ok head, s1))
    (hs : word32 head 0 = 0 ∨ 524288 < word32 head 0) : readShare s c = (.error none, s1) := by
  unfold readShare
  rw [hpg, hh]
  exact if_pos hs

/-- A table that can be read gives its share, or none where it is unusable. -/
theorem readShare_read (hpg : c.pg = true)
    (hh : readVirtual s 0 (Cmd.job c) c.addr1.toNat 0x40 .dispatcher false = (.ok head, s1))
    (h1 : 1 ≤ word32 head 0) (h2 : word32 head 0 ≤ 524288)
    (he : readVirtual s1 0 (Cmd.job c) (c.addr1.toNat + 0x40) (4 * word32 head 0) .dispatcher false = (.ok entries, s2)) :
    (shareOf s2 head entries c.cnt.toNat = none → readShare s c = (.error none, s2)) ∧
    (∀ sh, shareOf s2 head entries c.cnt.toNat = some sh → readShare s c = (.ok sh, s2)) := by
  have hs : ¬(word32 head 0 = 0 ∨ 524288 < word32 head 0) := by omega
  unfold readShare
  rw [hpg, hh]
  dsimp only
  refine ⟨fun hn => ?_, fun sh hn => ?_⟩
  all_goals
    rw [Bool.not_true, if_neg Bool.false_ne_true, if_neg hs, he]
    dsimp only
    rw [hn]

/-- The ranks of a table that name this package. -/
def ranksOf (s : State) (entries : List Byte) (size : Nat) : List Nat :=
  (List.range size).filter fun k => word32 entries (4 * k) % 2 ^ 19 == bits s.pkg.node 18 0

theorem mem_ranksOf {size k : Nat} :
    k ∈ ranksOf s entries size ↔ k < size ∧ rankNode entries k = bits s.pkg.node 18 0 := by
  unfold ranksOf
  rw [List.mem_filter, List.mem_range, beq_iff_eq]
  rfl

/-- A table in which exactly one rank names this package gives that rank's share where its extents multiply to its size. -/
theorem shareOf_rank {k count : Nat} (hk : ranksOf s entries (word32 head 0) = [k]) :
    shareOf s head entries count =
      if word32 head 8 * word32 head 12 * word32 head 16 = word32 head 0 then
        some { rank := k, size := word32 head 0, d0 := word32 head 8, d1 := word32 head 12, d2 := word32 head 16,
               first := k * count / word32 head 0,
               num := (k + 1) * count / word32 head 0 - k * count / word32 head 0 }
      else none := by
  unfold ranksOf at hk
  unfold shareOf
  dsimp only
  rw [hk]

theorem shareOf_notOneRank {count : Nat} (hk : ∀ k, ranksOf s entries (word32 head 0) ≠ [k]) :
    shareOf s head entries count = none := by
  unfold ranksOf at hk
  unfold shareOf
  dsimp only
  split
  next k hr => exact absurd hr (hk k)
  next => rfl

theorem shareOf_badExtents {count : Nat} (hd : word32 head 8 * word32 head 12 * word32 head 16 ≠ word32 head 0) :
    shareOf s head entries count = none := by
  by_cases hk : ∃ k, ranksOf s entries (word32 head 0) = [k]
  · obtain ⟨k, hk⟩ := hk
    rw [shareOf_rank hk, if_neg hd]
  · exact shareOf_notOneRank (not_exists.1 hk)

/-- The one rank of a package, from the entries that name it. -/
theorem ranksOf_eq_singleton {size k : Nat} (hk : k < size) (hn : rankNode entries k = bits s.pkg.node 18 0)
    (ho : ∀ j, j < size → j ≠ k → rankNode entries j ≠ bits s.pkg.node 18 0) : ranksOf s entries size = [k] := by
  have hnd : (ranksOf s entries size).Nodup := List.nodup_range.filter _
  refine List.perm_singleton.1 ((List.perm_ext_iff_of_nodup hnd (List.pairwise_singleton _ k)).2 fun j => ?_)
  rw [mem_ranksOf, List.mem_singleton]
  refine ⟨fun ⟨hj, hjn⟩ => Decidable.byContradiction fun hne => ho j hj hne hjn, fun hj => hj ▸ ⟨hk, hn⟩⟩

end

/-- The process group of a package (R41). -/
theorem sharesAreRead (c : Cmd) (s : State) (head : List Byte) (s1 : State) (hpg : c.pg = true)
    (hh : readVirtual s 0 (bits c.ids 43 40) c.addr1.toNat 0x40 .dispatcher false = (.ok head, s1)) :
    let size := bytesValue (head.take 4)
    let d0 := bytesValue ((head.drop 8).take 4)
    let d1 := bytesValue ((head.drop 12).take 4)
    let d2 := bytesValue ((head.drop 16).take 4)
    (size = 0 ∨ 524288 < size → readShare s c = (.error none, s1)) ∧
    (∀ entries s2, 1 ≤ size → size ≤ 524288 →
      readVirtual s1 0 (bits c.ids 43 40) (c.addr1.toNat + 0x40) (4 * size) .dispatcher false = (.ok entries, s2) →
      (d0 * d1 * d2 ≠ size → readShare s c = (.error none, s2)) ∧
      ((∀ j, j < size → rankNode entries j ≠ bits s2.pkg.node 18 0) → readShare s c = (.error none, s2)) ∧
      (∀ j k, j < k → k < size → rankNode entries j = bits s2.pkg.node 18 0 → rankNode entries k = bits s2.pkg.node 18 0 →
        readShare s c = (.error none, s2)) ∧
      (∀ k, k < size → d0 * d1 * d2 = size → rankNode entries k = bits s2.pkg.node 18 0 →
        (∀ j, j < size → j ≠ k → rankNode entries j ≠ bits s2.pkg.node 18 0) →
          readShare s c = (.ok { rank := k, size := size, d0 := d0, d1 := d1, d2 := d2, first := k * c.cnt.toNat / size,
                                 num := (k + 1) * c.cnt.toNat / size - k * c.cnt.toNat / size }, s2))) := by
  intro size d0 d1 d2
  refine ⟨fun hs => readShare_badSize hpg hh hs, fun entries s2 h1 h2 he => ?_⟩
  obtain ⟨hnone, hsome⟩ := readShare_read hpg hh h1 h2 he
  refine ⟨fun hd => hnone (shareOf_badExtents hd), fun hno => hnone (shareOf_notOneRank fun k hk => ?_),
    fun j k hjk hk hj hkn => hnone (shareOf_notOneRank fun m hm => ?_),
    fun k hk hd hn ho => hsome _ ((shareOf_rank (ranksOf_eq_singleton hk hn ho)).trans (if_pos hd))⟩
  · obtain ⟨hlt, hn⟩ := mem_ranksOf.1 (hk ▸ List.mem_singleton_self k)
    exact hno k hlt hn
  · have hj' : j ∈ [m] := hm ▸ mem_ranksOf.2 ⟨Nat.lt_trans hjk hk, hj⟩
    have hk' : k ∈ [m] := hm ▸ mem_ranksOf.2 ⟨hk, hkn⟩
    exact Nat.ne_of_lt hjk ((List.mem_singleton.1 hj').trans (List.mem_singleton.1 hk').symm)

/-! ### REPLAY and GPATCH (R43, R45) -/

/-- The replay that a REPLAY command starts, its levels open and its counters set, before its nodes' PENDs are cleared. -/
def replayOpened (s : State) (c : Cmd) : State :=
  let job := bits c.ids 43 40
  let launch := bits c.ids 11 0
  let graph := bits c.ids 24 16
  let phase : Option Nat := if c.ids.getLsbD 38 then some (bits c.ids 37 32) else none
  let r : Replay := { launch := launch, job := job, phase := phase, phaseField := bits c.ids 38 32,
                      nodes := c.addr0.toNat, ncnt := c.cnt.toNat, created := [] }
  let s1 := opened (opened s 2 graph job phase c.addr0.toNat) 1 launch job phase 0
  let s2 := putLevel s1 2 graph { levelAt s1 2 graph with partner := some launch }
  let s3 := putLevel s2 1 launch { levelAt s2 1 launch with partner := some graph }
  closedLevel (addCounters { s3 with replays := mapSet s3.replays graph r } (replayLevels graph r) c.cnt.toNat) 2 graph

/-- REPLAY, for a record that passes and levels that are not in use (R43). -/
theorem replayIsStarted (c : Cmd) (s : State) (h : (Instr.replay c).illFormed = none) (hg : c.ids.getLsbD 25 = true)
    (h1 : 1 ≤ c.cnt.toNat) (h2 : c.cnt.toNat ≤ 65536) (ha : c.addr0.toNat % 128 = 0) (ho : namesOpen s c = true)
    (hl : (levelAt s 1 (bits c.ids 11 0)).inUse = false) (hgr : (levelAt s 2 (bits c.ids 24 16)).inUse = false) :
    (nodesBusy s (bits c.ids 43 40) c.addr0.toNat = true → ends (.replay c) s s c 7) ∧
    (nodesBusy s (bits c.ids 43 40) c.addr0.toNat = false → countersFit s (outerLevels c) c.cnt.toNat = true →
      ∀ s5, replayPends (replayOpened s c) c (bits c.ids 43 40) c.addr0.toNat 0 c.cnt.toNat = (.ok (), s5) →
        exec (.replay c) s = .next (replayRoots s5 c 0 c.cnt.toNat)) := by
  have hgood : ((Instr.replay c).illFormed.isSome || !Cmd.gv c || c.cnt = 0 || decide (c.cnt.toNat > 65536) ||
      c.addr0.toNat % 128 != 0) = false := by
    have hgv : Cmd.gv c = true := hg
    have hz : c.cnt ≠ 0 := fun hz => by rw [hz] at h1; exact absurd h1 (by decide)
    rw [h, hgv, ha, decide_eq_false hz, decide_eq_false (Nat.not_lt.2 h2)]
    rfl
  have hopen : ¬(!namesOpen s c) = true := by rw [ho]; decide
  have hfree : ¬((levelAt s 1 (Cmd.launch c)).inUse || (levelAt s 2 (Cmd.graph c)).inUse) = true :=
    Bool.eq_false_iff.1 (Bool.or_eq_false_iff.2 ⟨hl, hgr⟩)
  have hi := exec_replay c s
  rw [execReplay, command_good hgood, if_neg hopen, if_neg hfree] at hi
  refine ⟨fun hb => hi.trans (congrArg _ (if_pos hb)), fun hb hf s5 hp => ?_⟩
  have hbusy : ¬nodesBusy s (Cmd.job c) c.addr0.toNat = true := Bool.eq_false_iff.1 hb
  have hfit : ¬(!countersFit s (outerLevels c) c.cnt.toNat) = true := by rw [hf]; decide
  rw [if_neg hbusy, if_neg hfit] at hi
  refine hi.trans (congrArg Host.Outcome.next ?_)
  dsimp only
  generalize hq : replayPends _ _ _ _ _ _ = q
  have hq5 : q = (.ok (), s5) := hq.symm.trans hp
  rw [hq5]

/-- GPATCH, for a record that passes (R45). -/
theorem patchIsStarted (c : Cmd) (s : State) (h : (Instr.gpatch c).illFormed = none) (h8 : c.cnt.toNat % 8 = 0)
    (h1 : 8 ≤ c.cnt.toNat) (h2 : c.cnt.toNat ≤ 4096) (ha1 : c.addr1.toNat % 8 = 0) (ha2 : c.addr2.toNat % 8 = 0) :
    (openFor s 4 (bits c.ids 43 40) (bits c.ids 43 40) = false → ends (.gpatch c) s s c 3) ∧
    (openFor s 4 (bits c.ids 43 40) (bits c.ids 43 40) = true → replayHolds s (bits c.ids 43 40) c.addr0.toNat = true →
      exec (.gpatch c) s = .next { s with port := { s.port with current := some c, held := true } }) ∧
    (openFor s 4 (bits c.ids 43 40) (bits c.ids 43 40) = true → replayHolds s (bits c.ids 43 40) c.addr0.toNat = false →
      exec (.gpatch c) s = .next (patchCopy s c 0 (c.cnt.toNat / 8))) := by
  have hgood : ((Instr.gpatch c).illFormed.isSome || c.cnt.toNat % 8 != 0 || decide (c.cnt.toNat < 8 ∨ c.cnt.toNat > 4096) ||
      c.addr1.toNat % 8 != 0 || c.addr2.toNat % 8 != 0) = false := by
    rw [h, h8, ha1, ha2, decide_eq_false (show ¬(c.cnt.toNat < 8 ∨ c.cnt.toNat > 4096) by omega)]
    rfl
  have hi := exec_gpatch c s
  rw [execGpatch, command_good hgood] at hi
  refine ⟨fun ho => hi.trans (congrArg _ (if_pos ?_)), fun ho hr => ?_, fun ho hr => ?_⟩
  · exact congrArg (!·) ho
  all_goals
    have hopen : ¬(!openFor s 4 (Cmd.job c) (Cmd.job c)) = true :=
      fun hc => Bool.false_ne_true ((congrArg (!·) ho).symm.trans hc)
    rw [if_neg hopen] at hi
  · exact hi.trans (congrArg _ (if_pos hr))
  · exact hi.trans (congrArg _ (if_neg (Bool.eq_false_iff.1 hr)))

/-- The copy of a GPATCH, granule by granule. -/
theorem patchCopy_granule (c : Cmd) (s : State) (i n : Nat) :
    (∀ x f s1, readVirtual s 0 (bits c.ids 43 40) (c.addr1.toNat + 8 * i) 8 .dispatcher false = (.error (x, f), s1) →
      patchCopy s c i (n + 1) = endCommand s1 c 6 f.toNat 0) ∧
    (∀ bs s1, readVirtual s 0 (bits c.ids 43 40) (c.addr1.toNat + 8 * i) 8 .dispatcher false = (.ok bs, s1) →
      (∀ x f s2, writeVirtual s1 0 (bits c.ids 43 40) (c.addr2.toNat + 8 * i) bs false = (.error (x, f), s2) →
        patchCopy s c i (n + 1) = endCommand s2 c 6 f.toNat 0) ∧
      (∀ s2, writeVirtual s1 0 (bits c.ids 43 40) (c.addr2.toNat + 8 * i) bs false = (.ok (), s2) →
        patchCopy s c i (n + 1) = patchCopy s2 c (i + 1) n)) := by
  rw [patchCopy, Cmd.job]
  refine ⟨fun x f s1 hr => by rw [hr], fun bs s1 hr => ?_⟩
  rw [hr]
  exact ⟨fun x f s2 hw => by dsimp only; rw [hw], fun s2 hw => by dsimp only; rw [hw]⟩

/-- A held GPATCH that no replay holds any more (R35, R36, R45). -/
theorem patchIsReleased (c : Cmd) (s : State) (hc : s.port.current = some c) (hh : s.port.held = true)
    (hr : replayHolds s (bits c.ids 43 40) c.addr0.toNat = false) (he : s.port.en = true) (hst : s.port.stopped = false)
    (hroom : cpRoom s = true) (hup : s.port.retrain = false) (hw : memoryAwake s = true) :
    exec .gpatchRelease s = .next (if openFor s 4 (bits c.ids 43 40) (bits c.ids 43 40) then
      patchCopy { s with port := { s.port with held := false } } c 0 (c.cnt.toNat / 8) else endCommand s c 3 0 0) := by
  have hr' : replayHolds s (Cmd.job c) c.addr0.toNat = false := hr
  have hmay : (s.port.held && !replayHolds s (Cmd.job c) c.addr0.toNat && s.port.en && !s.port.stopped && cpRoom s &&
        !s.port.retrain && memoryAwake s) = true := by
    rw [hh, hr', he, hst, hroom, hup, hw]
    rfl
  rw [exec_gpatchRelease, execGpatchRelease, hc]
  exact if_pos hmay

theorem launchReplayAndPatch : LaunchReplayAndPatch := by
  intro c s job launch graph phase
  refine ⟨launchIsChecked c s, fun hpg => ?noGroup, fun head s1 hpg hh => sharesAreRead c s head s1 hpg hh,
    fun h hg h1 h2 ha ho hl hgr => replayIsStarted c s h hg h1 h2 ha ho hl hgr,
    fun h h8 h1 h2 ha1 ha2 => patchIsStarted c s h h8 h1 h2 ha1 ha2, fun i n => ?copy,
    fun hc hh hr he hst hroom hup hw ho => (patchIsReleased c s hc hh hr he hst hroom hup hw).trans ?releaseUnknown,
    fun hc hh hr he hst hroom hup hw ho => (patchIsReleased c s hc hh hr he hst hroom hup hw).trans ?released⟩
  case noGroup =>
    unfold readShare
    rw [hpg]
    rfl
  case copy =>
    obtain ⟨hread, hcopy⟩ := patchCopy_granule c s i n
    exact ⟨hread, hcopy, rfl⟩
  case releaseUnknown => exact congrArg _ (if_neg (Bool.eq_false_iff.1 ho))
  case released => exact congrArg _ (if_pos ho)

end Sys2Proof.Machine
end

/-! ### Units are created, and what waits goes on (R16 to R18, R40, R49, R50) -/

section
namespace Sys2Proof.Machine
open Sys2Proof.Claims Sys2Proof.Config

/-! ### Counters of levels -/

@[simp] theorem levelAt_putLevel_same (s : State) (kind id : Nat) (l : Level) : levelAt (putLevel s kind id l) kind id = l := by
  simp [levelAt, putLevel]

/-- Levels of identifiers of 16 bits do not share a key. -/
theorem levelKey_injective {k k' i i' : Nat} (hi : i < 65536) (hi' : i' < 65536) (h : levelKey k i = levelKey k' i') :
    k = k' ∧ i = i' := by
  unfold levelKey at h
  omega

theorem levelAt_putLevel_other (s : State) {kind id kind' id' : Nat} (l : Level)
    (h : levelKey kind' id' ≠ levelKey kind id) : levelAt (putLevel s kind id l) kind' id' = levelAt s kind' id' := by
  unfold levelAt putLevel mapGetD
  rw [mapGet_mapSet_other s.levels l h]

/-- Adding to counters changes no field of a level but its counter, which takes the amount once for each naming of the level. -/
theorem levelAt_addCounters {ls : List (Nat × Nat)} (hls : ∀ l ∈ ls, l.2 < 65536) (hnd : ls.Nodup) (s : State) (n : Nat)
    {kind id : Nat} (hid : id < 65536) :
    levelAt (addCounters s ls n) kind id =
      { levelAt s kind id with count := (levelAt s kind id).count + if (kind, id) ∈ ls then n else 0 } := by
  induction ls generalizing s with
  | nil => simp [addCounters]
  | cons l ls ih =>
    obtain ⟨hl, hls⟩ := List.forall_mem_cons.1 hls
    obtain ⟨hnot, hnd⟩ := List.nodup_cons.1 hnd
    refine (ih hls hnd (putLevel s l.1 l.2 { levelAt s l.1 l.2 with count := (levelAt s l.1 l.2).count + n })).trans ?_
    by_cases hk : (kind, id) = l
    · subst hk
      rw [levelAt_putLevel_same, if_neg hnot, if_pos (List.mem_cons_self ..)]
      rfl
    · have hkey : levelKey kind id ≠ levelKey l.1 l.2 := fun he => by
        obtain ⟨h1, h2⟩ := levelKey_injective hid hl he
        exact hk (Prod.ext h1 h2)
      rw [levelAt_putLevel_other s _ hkey]
      simp [hk]

theorem bits_lt (w : Word) (hi lo : Nat) : bits w hi lo < 2 ^ (hi + 1 - lo) := Nat.mod_lt _ (Nat.two_pow_pos _)

/-- A docket names at most one level of each kind, by identifiers of at most 12 bits. -/
theorem docketLevels_ids (d : List Word) : ∀ l ∈ docketLevels d, l.2 < 65536 := by
  have h1 : Docket.launch d < 2 ^ 12 := bits_lt ..
  have h2 : Docket.graph d < 2 ^ 9 := bits_lt ..
  have h3 : Docket.phase d < 2 ^ 6 := bits_lt ..
  have h4 : Docket.job d < 2 ^ 4 := bits_lt ..
  unfold docketLevels
  intro l hl
  simp only [List.mem_append, List.mem_ite_nil_right, List.mem_singleton] at hl
  obtain ((rfl | ⟨_, rfl⟩) | ⟨_, rfl⟩) | rfl := hl <;> dsimp only <;> omega

theorem docketLevels_nodup (d : List Word) : (docketLevels d).Nodup := by
  unfold docketLevels
  cases Docket.gv d <;> cases Docket.pv d <;> simp

/-- Adding to counters touches the levels alone. -/
theorem addCounters_levels (s : State) (ls : List (Nat × Nat)) (n : Nat) : ∃ l, addCounters s ls n = { s with levels := l } := by
  induction ls generalizing s with
  | nil => exact ⟨s.levels, rfl⟩
  | cons l ls ih =>
    obtain ⟨m, hm⟩ := ih (putLevel s l.1 l.2 { levelAt s l.1 l.2 with count := (levelAt s l.1 l.2).count + n })
    exact ⟨m, hm⟩

theorem unitsAreCreated : UnitsAreCreated := by
  refine ⟨fun c s s1 i skipped first fuel d hroom hactive hd => ?_, fun c s i skipped first fuel hstop => ?_,
    fun s d p n a kind id hid => ?_⟩
  · have hgo : ¬(levelAt s 1 (Cmd.launch c)).state ≠ .active := Classical.not_not.2 hactive
    have hfull : ¬(!storeRoom s) = true := by rw [hroom]; decide
    rw [launchUnits, if_neg hgo, if_neg hfull, hd]
    refine ⟨fun hm hf => if_neg ?_, fun hm => if_pos ?_⟩
    · rw [hm, hf]
      decide
    · rw [hm]
      rfl
  · rw [launchUnits]
    exact if_pos hstop
  · obtain ⟨l, hl⟩ := addCounters_levels s (docketLevels d) 1
    have hlevel := levelAt_addCounters (docketLevels_ids d) (docketLevels_nodup d) s 1 (kind := kind) hid
    have hcount : levelAt (createUnit s d p n a) kind id = levelAt (addCounters s (docketLevels d) 1) kind id := rfl
    refine ⟨?_, ?_, ?_, ?_, ?_, ?_⟩
    · unfold createUnit enqueue
      rw [hl]
      rfl
    · rw [hcount, hlevel]
    · rw [hcount, hlevel]
    · unfold createUnit enqueue
      rw [hl]
      simp [WorkUnit.make, bump]
    · unfold createUnit enqueue
      rw [hl]
      rfl
    · unfold createUnit enqueue
      rw [hl]
      rfl

/-! ### What waits goes on (R49, R50) -/

section
variable {s : State} {w : Creator} {pre rest : List Creator}

/-- The oldest waiting creation that may go on is the first of the list that may. -/
theorem nextCreator_first (hw : s.dispatcher.waiting = pre ++ w :: rest) (hpre : ∀ v ∈ pre, creatorMay s v = false)
    (hmay : creatorMay s w = true) :
    nextCreator s = some w ∧ s.dispatcher.waiting.erase w = pre ++ rest := by
  have hnot : w ∉ pre := fun hm => Bool.false_ne_true ((hpre w hm).symm.trans hmay)
  constructor
  · unfold nextCreator
    rw [hw, List.find?_append, List.find?_eq_none.2 fun v hv => Bool.eq_false_iff.1 (hpre v hv), Option.none_or,
      List.find?_cons_of_pos hmay]
  · rw [hw, List.erase_append_right _ hnot, List.erase_cons_head]

theorem nextCreator_none (hw : s.dispatcher.waiting = pre ++ w :: rest) (hpre : ∀ v ∈ pre, creatorMay s v = false)
    (hall : ∀ v ∈ w :: rest, creatorMay s v = false) : nextCreator s = none := by
  unfold nextCreator
  rw [hw]
  refine List.find?_eq_none.2 fun v hv => Bool.eq_false_iff.1 ?_
  exact (List.mem_append.1 hv).elim (hpre v) (hall v)

theorem exec_docketCreationResume (s : State) : exec .docketCreationResume s = execDocketCreationResume s := rfl

end

theorem waitingCreationGoesOn : WaitingCreationGoesOn := by
  intro s w pre rest hw hpre
  refine ⟨fun hall => ?nothing, fun hroom hr hs => ?needRoom, fun hup hk => ?needUp, fun hroom => ⟨?launch, ?replay, ?join, ?reply,
    ?enqueue, ?spawn⟩, ?retire, ?struck⟩
  case nothing =>
    rw [exec_docketCreationResume, execDocketCreationResume, nextCreator_none hw hpre hall]
  case needRoom =>
    cases w with
    | retire uid => exact absurd rfl (hr uid)
    | struck a b e f => exact absurd rfl (hs a b e f)
    | launch a b e f => exact (congrArg (· && !s.port.retrain) hroom).trans (Bool.false_and _)
    | replay a => exact (congrArg (· && !s.port.retrain) hroom).trans (Bool.false_and _)
    | join a b => exact hroom
    | spawn a b => exact hroom
    | enqueue a b => exact hroom
  case needUp =>
    have hno : (storeRoom s && !s.port.retrain) = false := by rw [hup, Bool.not_true, Bool.and_false]
    obtain ⟨a, b, e, f, rfl⟩ | ⟨a, rfl⟩ := hk
    · exact hno
    · exact hno
  all_goals
    have hi := exec_docketCreationResume s
    unfold execDocketCreationResume at hi
  case launch =>
    intro next last skipped first c he hup hc
    subst he
    obtain ⟨hfind, herase⟩ := nextCreator_first hw hpre (by show (storeRoom s && !s.port.retrain) = true; rw [hroom, hup]; rfl)
    rw [hfind] at hi
    dsimp only at hi
    rw [herase, hc] at hi
    exact hi
  case replay =>
    intro next c he hup hc
    subst he
    obtain ⟨hfind, herase⟩ := nextCreator_first hw hpre (by show (storeRoom s && !s.port.retrain) = true; rw [hroom, hup]; rfl)
    rw [hfind] at hi
    dsimp only at hi
    rw [herase, hc] at hi
    exact hi
  case join =>
    intro uid node u he hu
    subst he
    obtain ⟨hfind, herase⟩ := nextCreator_first hw hpre hroom
    rw [hfind] at hi
    dsimp only at hi
    rw [herase, hu] at hi
    exact hi
  case reply =>
    intro uid cl seq he hu
    subst he
    obtain ⟨hfind, herase⟩ := nextCreator_first hw hpre hroom
    rw [hfind] at hi
    dsimp only at hi
    rw [herase, hu] at hi
    exact hi
  case enqueue =>
    intro uid he hu
    subst he
    obtain ⟨hfind, herase⟩ := nextCreator_first hw hpre hroom
    rw [hfind] at hi
    dsimp only at hi
    rw [herase, hu] at hi
    exact hi
  case spawn =>
    intro k seq c e he hc hl
    subst he
    obtain ⟨hfind, herase⟩ := nextCreator_first hw hpre hroom
    rw [hfind] at hi
    dsimp only at hi
    rw [herase] at hi
    rw [show crewAt { s with dispatcher := { s.dispatcher with waiting := pre ++ rest } } k = some c from hc] at hi
    dsimp only at hi
    rw [hl] at hi
    exact hi
  case retire =>
    intro uid u he hu
    subst he
    obtain ⟨hfind, herase⟩ := nextCreator_first hw hpre rfl
    rw [hfind] at hi
    dsimp only at hi
    rw [herase, hu] at hi
    exact hi
  case struck =>
    intro uid core rerun lost u he hu
    subst he
    obtain ⟨hfind, herase⟩ := nextCreator_first hw hpre rfl
    rw [hfind] at hi
    dsimp only at hi
    rw [herase, hu] at hi
    exact hi

/-- Settles O34: launches, replays and patches, the units they create, and how a creation that waited goes on. -/
theorem launchesCreateTheirUnits : Obligations.LaunchesCreateTheirUnits :=
  ⟨launchReplayAndPatch, unitsAreCreated, waitingCreationGoesOn⟩

end Sys2Proof.Machine
end

/-! ### Dispatch, promotion, reservation and retirement (R22, R51 to R53, R60, R410) -/

section
namespace Sys2Proof.Machine
open Sys2Proof.Claims Sys2Proof.Config

section
variable (n : Nat) (s : State)

theorem exec_dispatch : exec (.dispatch n) s = execDispatch n s := rfl
theorem exec_docketPromotion : exec (.docketPromotion n) s = execDocketPromotion n s := rfl
theorem exec_gangReservation : exec (.gangReservation n) s = execGangReservation n s := rfl
theorem exec_crewRetire : exec (.crewRetire n) s = execCrewRetire n s := rfl

end

/-! ### Identifiers that no crew in use shows (R60) -/

section
variable {s : State}

/-- Whether an identifier shows the 32 bits of none in use. -/
def idFree (s : State) (i : Nat) : Bool := !((usedIds s).any fun j => j % 2 ^ 32 == i % 2 ^ 32)

theorem idFree_iff {i : Nat} : idFree s i = true ↔ ∀ j ∈ usedIds s, j % 2 ^ 32 ≠ i % 2 ^ 32 := by
  unfold idFree
  rw [Bool.not_eq_true', List.any_eq_false]
  simp only [beq_iff_eq]

theorem freshIds_one : freshIds s 1 =
    (((List.range (1 + (usedIds s).length)).map (s.nextCrew + ·)).filter (idFree s)).take 1 := rfl

/-- The next number is taken where no crew in use shows its 32 bits. -/
theorem freshIds_next (h : ∀ j ∈ usedIds s, j % 2 ^ 32 ≠ s.nextCrew % 2 ^ 32) : (freshIds s 1).getD 0 0 = s.nextCrew := by
  rw [freshIds_one, Nat.add_comm, List.range_succ_eq_map, List.map_cons, Nat.add_zero,
    List.filter_cons_of_pos (idFree_iff.2 h)]
  rfl

/-- Among one number more than crews in use, one is free. -/
theorem exists_idFree (h : (usedIds s).length < 2 ^ 32) : ∃ i ∈ List.range (1 + (usedIds s).length), idFree s (s.nextCrew + i) = true := by
  refine Classical.byContradiction fun hno => ?_
  have hall : ∀ {a}, a ∈ (List.range (1 + (usedIds s).length)).map (fun i => (s.nextCrew + i) % 2 ^ 32) →
      a ∈ (usedIds s).map (· % 2 ^ 32) := by
    intro a ha
    obtain ⟨i, hi, rfl⟩ := List.mem_map.1 ha
    have hnot : ¬idFree s (s.nextCrew + i) = true := fun hf => hno ⟨i, hi, hf⟩
    rw [idFree_iff, Classical.not_forall] at hnot
    obtain ⟨j, hj⟩ := hnot
    obtain ⟨hj, he⟩ := Classical.not_imp.1 hj
    exact List.mem_map.2 ⟨j, hj, Classical.not_not.1 he⟩
  have hnodup : ((List.range (1 + (usedIds s).length)).map fun i => (s.nextCrew + i) % 2 ^ 32).Nodup := by
    refine List.pairwise_map.2 (List.nodup_range.imp_of_mem fun {i j} hi hj hne he => hne ?_)
    have hi := List.mem_range.1 hi
    have hj := List.mem_range.1 hj
    omega
  have hle := hnodup.length_le_of_subset fun _ ha => hall ha
  rw [List.length_map, List.length_map, List.length_range] at hle
  omega

/-- The identifier taken is free while fewer than 2^32 are in use. -/
theorem freshIds_free (h : (usedIds s).length < 2 ^ 32) : ∀ j ∈ usedIds s, j % 2 ^ 32 ≠ (freshIds s 1).getD 0 0 % 2 ^ 32 := by
  obtain ⟨i, hi, hf⟩ := exists_idFree h
  have hmem : s.nextCrew + i ∈ ((List.range (1 + (usedIds s).length)).map (s.nextCrew + ·)).filter (idFree s) :=
    List.mem_filter.2 ⟨List.mem_map.2 ⟨i, hi, rfl⟩, hf⟩
  rw [freshIds_one, ← idFree_iff]
  cases hl : ((List.range (1 + (usedIds s).length)).map (s.nextCrew + ·)).filter (idFree s) with
  | nil => rw [hl] at hmem; exact nomatch hmem
  | cons k ks => exact (List.mem_filter.1 (hl ▸ List.mem_cons_self (a := k) (l := ks))).2

end

/-! ### The crew of a fresh unit of one member (Table 01.3) -/

section
variable {s : State} {u : WorkUnit} {slot : Nat}

theorem writeSnapshot_plain (h : Docket.rst u.docket = false) (core : Nat) : writeSnapshot s u core = (true, s) := by
  unfold writeSnapshot
  rw [h]
  rfl

theorem restoreUnit_fresh (h : u.kind = .fresh) (core : Nat) : restoreUnit s u core = (true, s) := by
  unfold restoreUnit
  rw [h]
  rfl

theorem remainingMembers_single (hz : Docket.lsz u.docket = 0) (hl : u.left = []) : remainingMembers u = [0] := by
  unfold remainingMembers
  rw [hz, hl]
  rfl

theorem crewAt_dispatchUnit (hk : u.kind = .fresh) (hr : Docket.rst u.docket = false) (hz : Docket.lsz u.docket = 0)
    (hl : u.left = []) : crewAt (dispatchUnit s u [slot]) slot = some (Crew.create ((freshIds s 1).getD 0 0) u.uid 0
      (BitVec.ofNat 64 (bits (u.docket.getD 0 0) 47 0)) (BitVec.ofNat 64 (bits (u.docket.getD 1 0) 47 0)) (u.docket.getD 2 0)
      u.params (Docket.strict u.docket) s.free) := by
  unfold dispatchUnit
  rw [remainingMembers_single hz hl, hk]
  dsimp only
  rw [writeSnapshot_plain hr, if_pos rfl]
  dsimp only
  rw [restoreUnit_fresh hk]
  exact mapGet_mapSet_same _ _ _

end

theorem dispatchCreatesItsCrew : DispatchCreatesItsCrew := by
  refine ⟨fun s slot hh hi hf => ⟨fun u bs hc => ⟨fun he hp => ?dispatched, fun hp => ?passed, fun he => ?later⟩, fun hc => ?none⟩,
    fun s slot hno => ?held, fun s u slot hk hr hz hl => ?crew⟩
  case held =>
    have hyes : (s.pkg.hold || s.pkg.inReset || !benchFree s slot) = true := by
      obtain hno | hno := hno <;> simp [hno]
    exact congrArg Host.Outcome.next (if_pos hyes)
  case crew =>
    refine ⟨_, crewAt_dispatchUnit hk hr hz hl, rfl, freshIds_next, fun hlen => freshIds_free hlen, rfl, rfl, rfl, rfl, rfl, rfl,
      rfl, ?_, ?_, fun i hi => ?_, ?_, fun i hi h10 h61 => ?_, rfl, ?_, fun i hi h1 => ?_, fun i hi => ?_, rfl, rfl, rfl, rfl, rfl,
      rfl, rfl, rfl⟩
    · simp [Crew.create]
    · simp [Crew.create]
    · have hne : ¬i + 2 = 61 ∧ ¬i + 2 = 1 := by omega
      have hin : 2 ≤ i + 2 ∧ i + 2 ≤ 9 := by omega
      simp [Crew.create, hne, hin]
    · simp [Crew.create]
    · have h1 : ¬i = 1 := by omega
      have hout : ¬(2 ≤ i ∧ i ≤ 9) := by omega
      simp [Crew.create, h1, h61, hout]
    · simp [Crew.create]
    · have h0 : ¬i = 0 := by omega
      simp [Crew.create, h0]
    · simp [Crew.create]
  all_goals
    have hno : ¬(s.pkg.hold || s.pkg.inReset || !benchFree s slot) = true := by rw [hh, hi, hf]; decide
    have hi := exec_dispatch slot s
    unfold execDispatch at hi
    rw [if_neg hno, hc] at hi
  case none => exact hi
  case dispatched =>
    have hgo : ¬(earlierBench s slot || bs.any fun b => passedOn s (coreOf b)) = true := by rw [he, hp]; decide
    exact hi.trans (congrArg _ (if_neg hgo))
  case passed =>
    have hstop : (earlierBench s slot || bs.any fun b => passedOn s (coreOf b)) = true := by rw [hp, Bool.or_true]
    exact hi.trans (congrArg _ (if_pos hstop))
  case later =>
    have hstop : (earlierBench s slot || bs.any fun b => passedOn s (coreOf b)) = true := by rw [he, Bool.true_or]
    exact hi.trans (congrArg _ (if_pos hstop))

/-! ### Promotion and reservation (R52, R53) -/

theorem promotionAndReservation : PromotionAndReservation := by
  intro s uid hh
  refine ⟨fun u hu hin => ⟨fun hlt => ?promoted, fun hge => ?top⟩, fun u cl hf hb hr hfirst => ?reserved⟩
  case promoted =>
    have hi := exec_docketPromotion uid s
    have hyes : (s.dispatcher.store.contains uid && decide (u.prio < 7) && !s.pkg.hold) = true := by
      rw [hin, hh, decide_eq_true hlt]
      rfl
    unfold execDocketPromotion at hi
    rw [hu] at hi
    exact hi.trans (congrArg _ (if_pos hyes))
  case top =>
    have hi := exec_docketPromotion uid s
    have hno : (s.dispatcher.store.contains uid && decide (u.prio < 7) && !s.pkg.hold) = false := by
      rw [decide_eq_false (Nat.not_lt.2 hge), Bool.and_false, Bool.false_and]
    unfold execDocketPromotion at hi
    rw [hu] at hi
    exact hi.trans (congrArg _ (if_neg (Bool.eq_false_iff.1 hno)))
  case reserved =>
    have hi := exec_gangReservation uid s
    have hno : ((unreserved s).any fun v => decide (v.seq < u.seq) && bestCluster s v == some cl) = false := by
      rw [List.any_eq_false]
      intro v hv hboth
      rw [Bool.and_eq_true, decide_eq_true_eq, beq_iff_eq] at hboth
      exact hfirst v hv hboth.1 hboth.2
    have hyes : ((reservation s cl).isNone &&
        !((unreserved s).any fun v => decide (v.seq < u.seq) && bestCluster s v == some cl) && !s.pkg.hold) = true := by
      rw [hr, hno, hh]
      rfl
    unfold execGangReservation at hi
    rw [hf] at hi
    dsimp only at hi
    rw [hb] at hi
    exact hi.trans (congrArg _ (if_pos hyes))

/-! ### What the end of a unit's work on its levels leaves (R411) -/

/-- A state that differs in its levels, in the command port and in control-node memory alone. -/
def OnlyLevels (s t : State) : Prop := ∃ levels port ctl, t = { s with levels := levels, port := port, ctl := ctl }

theorem OnlyLevels.refl (s : State) : OnlyLevels s s := ⟨s.levels, s.port, s.ctl, rfl⟩

theorem OnlyLevels.trans {s t u : State} : OnlyLevels s t → OnlyLevels t u → OnlyLevels s u := by
  rintro ⟨l, p, m, rfl⟩ ⟨l', p', m', rfl⟩
  exact ⟨l', p', m', rfl⟩

theorem recordWritten_onlyLevels (s : State) (key : Nat) : OnlyLevels s (recordWritten s key) := by
  unfold recordWritten
  split <;> exact ⟨_, _, _, rfl⟩

theorem drainEnded_onlyLevels (n : Nat) (s : State) : OnlyLevels s (drainEnded s n) := by
  induction n generalizing s with
  | zero => exact .refl s
  | succ n ih =>
    unfold drainEnded
    split
    · exact .refl s
    next e _ =>
      split
      · have hrec : OnlyLevels s { writeCompletion s e.1 e.2.1 with
            port := { (writeCompletion s e.1 e.2.1).port with
              ended := (writeCompletion s e.1 e.2.1).port.ended.erase e } } := ⟨_, _, _, rfl⟩
        exact (hrec.trans (recordWritten_onlyLevels _ _)).trans (ih _)
      · exact .refl s

theorem unpair_onlyLevels (s : State) (l : Nat × Nat) : OnlyLevels s (unpair s l) := by
  unfold unpair
  split
  · dsimp only
    split
    · exact ⟨_, _, _, rfl⟩
    · exact .refl s
  · exact .refl s

theorem settleLevel_onlyLevels (s : State) (l : Nat × Nat) : OnlyLevels s (settleLevel s l) := by
  have hend (v : Level) (d0 d1 : Word) : OnlyLevels s (flushEnded { putLevel (unpair s l) l.1 l.2 v with
      port := { (putLevel (unpair s l) l.1 l.2 v).port with
        ended := (putLevel (unpair s l) l.1 l.2 v).port.ended ++ [(d0, d1, levelKey l.1 l.2)] } }) :=
    (unpair_onlyLevels s l).trans (.trans ⟨_, _, _, rfl⟩ (drainEnded_onlyLevels _ _))
  unfold settleLevel
  dsimp only
  split
  · split
    · split
      · exact hend ..
      · exact .refl s
    · exact hend ..
    · exact .refl s
  · exact .refl s

theorem subCounters_onlyLevels (s : State) (ls : List (Nat × Nat)) (n : Nat) : OnlyLevels s (subCounters s ls n) := by
  unfold subCounters
  refine .trans (t := ls.foldl (fun s l => putLevel s l.1 l.2 { levelAt s l.1 l.2 with count := (levelAt s l.1 l.2).count - n }) s)
    ?_ ?_
  · exact List.foldlRecOn ls _ (.refl s) fun t ht l _ => ht.trans ⟨_, _, _, rfl⟩
  · exact List.foldlRecOn ls _ (.refl _) fun t ht l _ => ht.trans (settleLevel_onlyLevels t l)

/-! ### Retirement (R410) -/

/-- A unit that joins nothing leaves the counters of its levels, and nothing else of it is left. -/
theorem retireUnit_joinless {s : State} {u : WorkUnit} (hj : Docket.jn u.docket = false) (hz : Docket.join u.docket = 0) :
    ∃ t, retireUnit s u = t ∧ t.crews = s.crews ∧ t.balked = s.balked ∧ t.hbm = s.hbm ∧ mapGet t.units u.uid = none := by
  have hclose (s' : State) (v : WorkUnit) (hv : v.uid = u.uid) (hc : s'.crews = s.crews) (hb : s'.balked = s.balked)
      (hm : s'.hbm = s.hbm) : ∃ t, closeUnit s' v = t ∧ t.crews = s.crews ∧ t.balked = s.balked ∧ t.hbm = s.hbm ∧
        mapGet t.units u.uid = none := by
    obtain ⟨l, p, m, ht⟩ := subCounters_onlyLevels { s' with units := mapErase s'.units v.uid } (docketLevels v.docket) 1
    refine ⟨_, rfl, ?_⟩
    unfold closeUnit
    rw [ht]
    exact ⟨hc, hb, hm, hv ▸ mapGet_mapErase_same ..⟩
  unfold retireUnit
  cases hx : u.cancelled
  · rw [if_neg Bool.false_ne_true]
    dsimp only
    rw [hj, if_neg Bool.false_ne_true, if_pos hz]
    exact hclose _ _ rfl rfl rfl rfl
  · rw [if_pos rfl]
    exact hclose _ _ rfl rfl rfl rfl

theorem releaseCore_frame (s : State) (k id : Nat) :
    ∃ cores, releaseCore s k id = { s with cores := cores } := by
  unfold releaseCore releaseClaims putCore
  dsimp only
  split <;> exact ⟨_, rfl⟩

theorem crewRetires : CrewRetires := by
  intro s slot c hc hslot hb
  have hbench : isReeve slot = false := decide_eq_false (Nat.not_le.2 hslot)
  have hi := exec_crewRetire slot s
  unfold execCrewRetire at hi
  rw [hc] at hi
  refine ⟨fun hm => hi.trans (congrArg _ (if_pos ?_)), fun hm hu => ?_, fun u hm hu hid hl hn hj hz => ?_⟩
  · rw [hm]
    exact Bool.or_true _
  all_goals
    have hgo : ¬(isReeve slot || !mayRetire s slot c) = true := by rw [hbench, hm]; decide
    dsimp only at hi
    rw [if_neg hgo] at hi
  · obtain ⟨cores, hr⟩ := releaseCore_frame { s with crews := mapErase s.crews slot } slot c.crewId
    refine hi.trans (congrArg _ ?_)
    rw [hr]
    dsimp only
    rw [hu]
  · obtain ⟨cores, hr⟩ := releaseCore_frame { s with crews := mapErase s.crews slot } slot c.crewId
    rw [hr] at hi
    dsimp only at hi
    rw [hu] at hi
    dsimp only at hi
    rw [if_pos (by rw [hl, hn]; exact Nat.le_refl 1)] at hi
    obtain ⟨t, ht, hcrews, hbalk, hhbm, hunit⟩ := retireUnit_joinless
      (s := { s with crews := mapErase s.crews slot, cores := cores,
                     units := mapSet s.units u.uid { u with left := u.left ++ [c.member] } })
      (u := { u with left := u.left ++ [c.member] }) hj hz
    refine ⟨t, hi.trans (congrArg Host.Outcome.next ?_), ?_, fun j hne => ?_, hid ▸ hunit, hhbm⟩
    · unfold orWaits
      dsimp only
      rw [ht, if_neg (Bool.eq_false_iff.1 (hbalk.trans hb))]
    · rw [crewAt, hcrews]
      exact mapGet_mapErase_same ..
    · rw [crewAt, hcrews]
      exact mapGet_mapErase_other _ hne

/-- Settles O35: dispatch and the crew that it starts, promotion and reservation, the retirement of a crew. -/
theorem crewsAreDispatchedAndRetire : Obligations.CrewsAreDispatchedAndRetire :=
  ⟨dispatchCreatesItsCrew, promotionAndReservation, crewRetires⟩

end Sys2Proof.Machine
end

/-! ### How loads, stores and atomics are performed -/

section
namespace Sys2Proof.Machine
open Sys2Proof.Claims Sys2Proof.Config

theorem exec_loadDataArrive (slot seq : Nat) (s : State) :
    exec (.loadDataArrive slot seq) s = execLoadDataArrive slot seq s := rfl

theorem exec_writePerformed (slot seq : Nat) (s : State) :
    exec (.writePerformed slot seq) s = execWritePerformed slot seq s := rfl

theorem exec_signalTakeEffect (slot seq : Nat) (s : State) :
    exec (.signalTakeEffect slot seq) s = execSignalTakeEffect slot seq s := rfl

theorem entryEvent_entry {s : State} {slot seq : Nat} {c : Crew} {e : LogEntry} (hc : crewAt s slot = some c)
    (he : logEntry c seq = some e) (f : Crew → LogEntry → State) : entryEvent slot seq s f = .next (f c e) := by
  simp only [entryEvent, hc, he]

/-- What is made of an entry that may be performed: its access, the entries that it passes being marked, its writes signed. -/
theorem performEntry_performs {s : State} {slot : Nat} {c : Crew} {e : LogEntry} {t : Target} (h : mayPerform s slot c e t) :
    performEntry s slot c e =
      signCrossings (slot, c.crewId, e.seq) s (performAt (passing s slot c e) slot (markPassed c e) e t) := by
  obtain ⟨-, -, ht, hphase, hfault, horder, hbehind, htier, hmay⟩ := h
  simp [performEntry, ht, hphase, hfault, horder, hbehind, htier, hmay, passing]

/-- Whether LOAD_DATA_ARRIVE performs an entry's access. -/
def arrives (e : LogEntry) : Bool :=
  match e.kind with
  | .load _ _ | .loadSpec | .atomic _ _ true | .joindec => true
  | .spawn => e.data.isEmpty
  | _ => false

theorem makes_loadDataArrive {s : State} {slot : Nat} {c : Crew} {e : LogEntry} {t : Target} (h : mayPerform s slot c e t)
    (hk : arrives e = true) :
    makes (.loadDataArrive slot e.seq) s (performAt (passing s slot c e) slot (markPassed c e) e t) slot c e := by
  have hp := performEntry_performs h
  rw [makes, exec_loadDataArrive, execLoadDataArrive, entryEvent_entry h.1 h.2.1, ← hp]
  unfold arrives at hk
  split at hk <;> simp_all

/-- The entries of scalar stores and of atomics without a result. -/
def writesOnly (e : LogEntry) : Bool :=
  match e.kind with
  | .store _ | .atomic _ _ false => true
  | _ => false

theorem makes_writePerformed {s : State} {slot : Nat} {c : Crew} {e : LogEntry} {t : Target} (h : mayPerform s slot c e t)
    (hv : c.vstores.find? (·.seq == e.seq) = none) (hk : writesOnly e = true) :
    makes (.writePerformed slot e.seq) s (performAt (passing s slot c e) slot (markPassed c e) e t) slot c e := by
  have hp := performEntry_performs h
  rw [makes, exec_writePerformed, execWritePerformed, ← hp]
  simp only [h.1, hv, h.2.1]
  unfold writesOnly at hk
  split at hk <;> simp_all

/-! #### What marking the entries passed leaves -/

theorem racesAt_passing (s : State) (slot : Nat) (c : Crew) (e : LogEntry) (t : Target) (n : Nat) :
    racesAt (passing s slot c e) (jobOf (passing s slot c e) (markPassed c e)) (markPassed c e).crewId t n =
      racesAt s (jobOf s c) c.crewId t n := rfl

theorem targetPoison_passing (s : State) (slot : Nat) (c : Crew) (e : LogEntry) (t : Target) (n : Nat) :
    targetPoison (passing s slot c e) t n = targetPoison s t n := rfl

theorem targetBytes_passing (s : State) (slot : Nat) (c : Crew) (e : LogEntry) (t : Target) (n : Nat) :
    targetBytes (passing s slot c e) t n = targetBytes s t n := rfl

theorem deliverTo_clean (s : State) (k : Nat) (c : Crew) (e : LogEntry) (v : Word) :
    deliverTo s k c e v false = given s k c e v false := rfl

theorem deliverTo_poisoned (s : State) (k : Nat) (c : Crew) (e : LogEntry) :
    deliverTo s k c e (freeWord s.free) true = given s k c e 0 true := rfl

/-! #### Loads -/

section
variable {s : State} {slot : Nat} {c : Crew} {e : LogEntry} {t : Target} {n : Nat} {z : Bool}

theorem performLoad_races (hk : e.kind = .load n z) (ho : e.ord = 0) (hr : isReeve slot = false)
    (hrace : racesAt s (jobOf s c) c.crewId t n = true) : performLoad s slot c e t = lateFault s slot e.seq 0x20 e.opa := by
  simp [performLoad, entryBytes, hk, ho, hr, hrace]

/-- A load without a race delivers what it reads, extended, or poison. -/
theorem performLoad_reads (hk : e.kind = .load n z)
    (hrace : e.ord ≠ 0 ∨ isReeve slot = true ∨ racesAt s (jobOf s c) c.crewId t n = false) :
    performLoad s slot c e t =
      if (targetPoison s t n).isSome then given (afterTarget s t n) slot c e 0 true
      else given (afterTarget s t n) slot c e (extendLoad n z (bytesValue (forwarded c e t (targetBytes s t n)))) false := by
  have hq : (decide (e.ord = 0) && !isReeve slot && racesAt s (jobOf s c) c.crewId t n) = false := by
    obtain ho | hr | hr := hrace
    · rw [decide_eq_false ho]; rfl
    · rw [hr, Bool.not_true, Bool.and_false]; rfl
    · rw [hr, Bool.and_false]
  simp only [performLoad, entryBytes, hk, hq, Bool.false_eq_true, if_false, deliverTo_clean, deliverTo_poisoned]

end

theorem loadsDeliverTheirBytes : LoadsDeliverTheirBytes := by
  intro s slot c e t n z h hk
  have hmakes := makes_loadDataArrive h (by simp [arrives, hk])
  have hat : performAt (passing s slot c e) slot (markPassed c e) e t =
      performLoad (passing s slot c e) slot (markPassed c e) e t := by simp only [performAt, hk]
  rw [hat] at hmakes
  refine ⟨fun ho hr hrace => ?_, fun hno => ?_⟩
  · rwa [performLoad_races hk ho hr (racesAt_passing s slot c e t n ▸ hrace)] at hmakes
  · rw [performLoad_reads hk (racesAt_passing s slot c e t n ▸ hno), targetPoison_passing, targetBytes_passing] at hmakes
    refine ⟨fun hclean => ?_, fun hpoison => ?_⟩
    · rwa [hclean] at hmakes
    · rwa [if_pos hpoison] at hmakes

theorem loadedValuesAreExtended : LoadedValuesAreExtended := by
  intro n v j z hn hn8 hv hj
  have hbit (i : Nat) (hi : i < 8 * n) : (BitVec.ofNat (8 * n) v).getLsbD i = v.testBit i := by
    rw [BitVec.getLsbD_ofNat, decide_eq_true hi, Bool.true_and]
  cases z with
  | true =>
    simp only [extendLoad, if_true, BitVec.truncate_eq_setWidth, BitVec.getLsbD_setWidth, Bool.not_true, Bool.false_and, hj,
      decide_true, Bool.true_and]
    split
    · next h => exact hbit j h
    · next h => exact BitVec.getLsbD_of_ge _ _ (by omega)
  | false =>
    simp only [extendLoad, Bool.false_eq_true, if_false, BitVec.getLsbD_signExtend, hj, decide_true, Bool.true_and, Bool.not_false]
    split
    · next h => exact hbit j h
    · rw [BitVec.msb_eq_getLsbD_last]
      exact hbit _ (by omega)

/-- Settles O36: performing an entry that may be performed is its access on the marked crew; a load's is the two cases of its race
check, and the extension is read off bit by bit. -/
theorem loadsArePerformed : Obligations.LoadsArePerformed := ⟨loadsDeliverTheirBytes, loadedValuesAreExtended⟩

end Sys2Proof.Machine
end

/-! ### Atomics, JOINDEC and SPAWN -/

section
namespace Sys2Proof.Machine
open Sys2Proof.Claims Sys2Proof.Config

section
variable {s : State} {k : Nat} {e : LogEntry} {t : Target} {n : Nat} {f : Nat → Except (BitVec 8) (Option Nat)}
  {done : State → Nat → State}

theorem indivisible_poisoned (hp : (targetPoison s t n).isSome = true) :
    indivisible s k e t n f done = lateFault (afterTarget s t n) k e.seq 0x40 e.opa := by
  rw [indivisible, if_pos hp]

theorem indivisible_writes {v : Nat} (hp : targetPoison s t n = none) (hf : f (bytesValue (targetBytes s t n)) = .ok (some v)) :
    indivisible s k e t n f done =
      done (targetWrite (afterTarget s t n) t (valueBytes n v)) (bytesValue (targetBytes s t n)) := by
  simp only [indivisible, hp, hf, Option.isSome_none, Bool.false_eq_true, if_false]

theorem indivisible_keeps (hp : targetPoison s t n = none) (hf : f (bytesValue (targetBytes s t n)) = .ok none) :
    indivisible s k e t n f done = done (afterTarget s t n) (bytesValue (targetBytes s t n)) := by
  simp only [indivisible, hp, hf, Option.isSome_none, Bool.false_eq_true, if_false]

theorem indivisible_refuses {code : BitVec 8} (hp : targetPoison s t n = none)
    (hf : f (bytesValue (targetBytes s t n)) = .error code) :
    indivisible s k e t n f done = lateFault (afterTarget s t n) k e.seq code e.opa := by
  simp only [indivisible, hp, hf, Option.isSome_none, Bool.false_eq_true, if_false]

end

/-- The state that an atomic leaves of its target before its result is given. -/
def atomicWritten (s : State) (t : Target) (n : Nat) : Option Nat → State
  | some v => targetWrite (afterTarget s t n) t (valueBytes n v)
  | none => afterTarget s t n

theorem performAtomic_clean {s : State} {k : Nat} {c : Crew} {e : LogEntry} {t : Target} {op ty : BitVec 4} {ret : Bool}
    (hp : targetPoison s t (entryBytes e) = none) :
    performAtomic s k c e t op ty ret =
      let old := bytesValue (targetBytes s t (entryBytes e))
      let u := atomicWritten s t (entryBytes e)
        (atomicNew op ty old (e.opb.toNat % 2 ^ atomicWidth ty) (e.opc.toNat % 2 ^ atomicWidth ty))
      if ret then given u k c e (atomicResult ty old) false else putCrew u k (performed c e.seq) := by
  simp only [performAtomic]
  cases hnew : atomicNew op ty (bytesValue (targetBytes s t (entryBytes e))) (e.opb.toNat % 2 ^ atomicWidth ty)
      (e.opc.toNat % 2 ^ atomicWidth ty) with
  | none => exact indivisible_keeps hp (congrArg _ hnew)
  | some v => exact indivisible_writes hp (congrArg _ hnew)

theorem atomicWidth_eq (ty : BitVec 4) : atomicWidth ty = if ty = 0 then 64 else 32 := rfl

theorem entryBytes_atomic {e : LogEntry} {op ty : BitVec 4} {ret : Bool} (hk : e.kind = .atomic op ty ret) :
    entryBytes e = (if ty = 0 then 64 else 32) / 8 := by
  simp only [entryBytes, hk]
  split <;> rfl

theorem performAt_atomic {s : State} {k : Nat} {c : Crew} {e : LogEntry} {t : Target} {op ty : BitVec 4} {ret : Bool}
    (hk : e.kind = .atomic op ty ret) : performAt s k c e t = performAtomic s k c e t op ty ret := by
  simp only [performAt, hk]

theorem atomicsAreIndivisible : AtomicsAreIndivisible := by
  intro s slot c e t op ty h hv hpoison
  have hclean : targetPoison (passing s slot c e) t (entryBytes e) = none := hpoison
  refine ⟨fun hk => ?_, fun hk => ?_⟩
  · have hmakes := makes_writePerformed h hv (by simp only [writesOnly, hk])
    rw [performAt_atomic hk, performAtomic_clean hclean, entryBytes_atomic hk, targetBytes_passing, atomicWidth_eq] at hmakes
    exact hmakes
  · have hmakes := makes_loadDataArrive h (by simp only [arrives, hk])
    rw [performAt_atomic hk, performAtomic_clean hclean, entryBytes_atomic hk, targetBytes_passing, atomicWidth_eq] at hmakes
    exact hmakes

theorem intOf_toNat (x : Word) : intOf 64 true x.toNat = x.toInt := by
  rw [intOf, BitVec.toInt_eq_msb_cond, BitVec.msb_eq_getLsbD_last]
  rfl

theorem atomicOperations : AtomicOperations := by
  intro old b c
  have hlt : (decide (intOf 64 true old.toNat < intOf 64 true b.toNat)) = decide (old.toInt < b.toInt) := by
    rw [intOf_toNat, intOf_toNat]
  have hw : atomicWidth 0 = 64 := rfl
  simp only [atomicNew, hw, BitVec.toNat_add, BitVec.toNat_and, BitVec.toNat_or, BitVec.toNat_xor]
  refine ⟨rfl, ?_, ?_, rfl, rfl, rfl, rfl, ?_⟩
  · refine congrArg some ?_
    by_cases h : old.toInt < b.toInt
    · rw [if_pos h]
      exact if_pos (hlt.trans (decide_eq_true h))
    · rw [if_neg h]
      exact if_neg (Bool.eq_false_iff.1 (hlt.trans (decide_eq_false h)))
  · refine congrArg some ?_
    by_cases h : old.toInt < b.toInt
    · rw [if_pos h]
      exact if_pos (hlt.trans (decide_eq_true h))
    · rw [if_neg h]
      exact if_neg (Bool.eq_false_iff.1 (hlt.trans (decide_eq_false h)))
  · by_cases h : old = b
    · rw [if_pos h]
      exact if_pos (congrArg BitVec.toNat h)
    · rw [if_neg h]
      exact if_neg fun hn => h (BitVec.eq_of_toNat_eq hn)

/-! #### SPAWN -/

section
variable {s : State} {k seq : Nat} {c : Crew} {d : List Word}

theorem spawnDocket_refused (hc : crewAt s k = some c) (h : spawnStatus s k c d ≠ 0) :
    spawnDocket s k seq d = putCrew s k (deliver s.free c seq (BitVec.ofNat 64 (spawnStatus s k c d)) false) := by
  simp only [spawnDocket, hc]
  exact if_pos h

theorem createUnit_crews (s : State) (d p : List Word) (n a : Nat) : (createUnit s d p n a).crews = s.crews := by
  obtain ⟨l, hl⟩ := addCounters_levels s (docketLevels d) 1
  rw [createUnit, hl]
  rfl

theorem createUnit_free (s : State) (d p : List Word) (n a : Nat) : (createUnit s d p n a).free = s.free := by
  obtain ⟨l, hl⟩ := addCounters_levels s (docketLevels d) 1
  rw [createUnit, hl]
  rfl

/-- A sound docket with room creates its unit, with the successors that its node record gives. -/
theorem spawnDocket_creates {u : State} {r : Nat × Nat} (hc : crewAt s k = some c) (h : spawnStatus s k c d = 0)
    (hroom : storeRoom s = true) (hrec : spawnRecord s d = (.ok r, u)) (hu : crewAt u k = some c) :
    spawnDocket s k seq d =
      putCrew (createUnit u d (argParams d) r.1 r.2) k (deliver u.free c seq 0 false) := by
  have hcu : crewAt (createUnit u d (argParams d) r.1 r.2) k = some c :=
    (congrArg (mapGet · k) (createUnit_crews u d (argParams d) r.1 r.2)).trans hu
  simp only [spawnDocket, hc, h, hroom, hrec, hcu, createUnit_free, ne_eq, not_true_eq_false, if_false, if_true]

theorem spawnStatus_malformed (h : docketMalformed s d = true) : spawnStatus s k c d = 1 := by
  rw [spawnStatus, if_pos h]

theorem spawnStatus_otherJob (h : docketMalformed s d = false) (hr : isReeve k = false) (hj : Docket.job d ≠ jobOf s c) :
    spawnStatus s k c d = 2 := by
  rw [spawnStatus, if_neg (Bool.eq_false_iff.1 h), if_pos (by rw [hr]; simpa using hj)]

theorem spawnStatus_ownJob (h : docketMalformed s d = false) (hj : isReeve k = true ∨ Docket.job d = jobOf s c) :
    spawnStatus s k c d = if countersFit s (docketLevels d) 1 then 0 else 3 := by
  have hno : ¬(!isReeve k && Docket.job d != jobOf s c) = true := by
    obtain hr | hj := hj
    · rw [hr, Bool.not_true, Bool.false_and]; decide
    · rw [hj, bne_self_eq_false, Bool.and_false]; decide
  rw [spawnStatus, if_neg (Bool.eq_false_iff.1 h), if_neg hno]
  cases countersFit s (docketLevels d) 1 <;> rfl

theorem spawnRecord_plain (h : Docket.jn d = false) : spawnRecord s d = (.ok (0, 0), s) := by
  rw [spawnRecord, h]
  rfl

theorem spawnRecord_node {bs : List Byte} {u : State} (h : Docket.jn d = true)
    (hr : readVirtual s 0 (Docket.job d) (Docket.join d + 0x48) 16 .dispatcher false = (.ok bs, u)) :
    spawnRecord s d =
      (.ok (bits ((bytesWords 2 bs).getD 0 0) 31 16, bits ((bytesWords 2 bs).getD 1 0) 47 0), u) := by
  simp only [spawnRecord, h, hr, Bool.not_true, Bool.false_eq_true, if_false]

end

section
variable {s : State} {k : Nat} {c : Crew} {e : LogEntry} {t : Target}

theorem performJoindec_clean (hp : targetPoison s t 8 = none) :
    performJoindec s k c e t =
      given (targetWrite (afterTarget s t 8) t (valueBytes 8 ((bytesValue (targetBytes s t 8) + 2 ^ 64 - 1) % 2 ^ 64))) k c e
        (BitVec.ofNat 64 (bytesValue (targetBytes s t 8))) false :=
  indivisible_writes hp rfl

theorem performSpawn_races (hr : isReeve k = false) (hrace : racesAt s (jobOf s c) c.crewId t 64 = true) :
    performSpawn s k c e t = lateFault s k e.seq 0x20 e.opa := by
  rw [performSpawn, hr, hrace]
  rfl

theorem performSpawn_reads (hno : isReeve k = true ∨ racesAt s (jobOf s c) c.crewId t 64 = false)
    (hp : targetPoison s t 64 = none) :
    performSpawn s k c e t = spawnDocket (afterTarget s t 64) k e.seq (bytesWords 8 (targetBytes s t 64)) := by
  have hq : ¬(!isReeve k && racesAt s (jobOf s c) c.crewId t 64) = true := by
    obtain hr | hr := hno
    · rw [hr, Bool.not_true, Bool.false_and]; decide
    · rw [hr, Bool.and_false]; decide
  rw [performSpawn, if_neg hq, hp]
  rfl

end

/-- A unit that SPAWN creates stands at the tail of the store, with its docket. -/
theorem createUnit_enqueues (s : State) (d p : List Word) (n a : Nat) :
    (createUnit s d p n a).dispatcher.store = s.dispatcher.store ++ [s.stamp] ∧
      (mapGet (createUnit s d p n a).units s.stamp).map (·.docket) = some d := by
  obtain ⟨l, hl⟩ := addCounters_levels s (docketLevels d) 1
  rw [createUnit, hl]
  exact ⟨rfl, congrArg _ (mapGet_mapSet_same _ _ _)⟩

theorem joindecAndSpawnArePerformed : JoindecAndSpawnArePerformed := by
  intro s slot c e t h
  have hjoin (hk : e.kind = .joindec) :
      makes (.loadDataArrive slot e.seq) s (performJoindec (passing s slot c e) slot (markPassed c e) e t) slot c e := by
    have hmakes := makes_loadDataArrive h (by simp only [arrives, hk])
    simpa only [performAt, hk] using hmakes
  have hspawn (hk : e.kind = .spawn) (hd : e.data = []) :
      makes (.loadDataArrive slot e.seq) s (performSpawn (passing s slot c e) slot (markPassed c e) e t) slot c e := by
    have hmakes := makes_loadDataArrive h (by simp only [arrives, hk, hd, List.isEmpty_nil])
    simpa only [performAt, hk] using hmakes
  refine ⟨fun hk hp => ?_, fun hk hp => ?_, fun hk hd hr hrace => ?_, fun hk hd hno hp => ?_⟩
  · have hmakes := hjoin hk
    rwa [performJoindec_clean (targetPoison_passing s slot c e t 8 ▸ hp)] at hmakes
  · have hmakes := hjoin hk
    rwa [performJoindec, indivisible_poisoned (targetPoison_passing s slot c e t 8 ▸ hp)] at hmakes
  · have hmakes := hspawn hk hd
    rwa [performSpawn_races (c := markPassed c e) hr (racesAt_passing s slot c e t 64 ▸ hrace)] at hmakes
  · have hmakes := hspawn hk hd
    rw [performSpawn_reads (c := markPassed c e) (racesAt_passing s slot c e t 64 ▸ hno)
      (targetPoison_passing s slot c e t 64 ▸ hp), targetBytes_passing] at hmakes
    intro dk s1 hc
    refine ⟨fun hm => ?_, fun hm hr hj => ?_, fun hm hj => ⟨fun hfit => ?_, fun hfit hroom => ?_⟩⟩
    · have hst := spawnStatus_malformed (k := slot) (c := markPassed c e) hm
      rwa [spawnDocket_refused hc (by rw [hst]; decide), hst] at hmakes
    · have hst := spawnStatus_otherJob (c := markPassed c e) hm hr hj
      rwa [spawnDocket_refused hc (by rw [hst]; decide), hst] at hmakes
    · have hst := spawnStatus_ownJob (c := markPassed c e) hm hj
      rw [hfit] at hst
      rwa [spawnDocket_refused hc (by rw [hst]; decide), hst] at hmakes
    · have hst := spawnStatus_ownJob (c := markPassed c e) hm hj
      rw [hfit] at hst
      refine ⟨fun hjn => ?_, fun bs s2 hjn hread hc2 => ?_⟩
      · rw [spawnDocket_creates hc hst hroom (spawnRecord_plain hjn) hc] at hmakes
        obtain ⟨hstore, hunit⟩ := createUnit_enqueues s1 dk (argParams dk) 0 0
        exact ⟨_, hmakes, hstore, hunit, crewAt_putCrew_same _ _ _⟩
      · rwa [spawnDocket_creates hc hst hroom (spawnRecord_node hjn hread) hc2] at hmakes

/-- Settles O38: an atomic, JOINDEC and SPAWN on their targets, from the one law of an indivisible access and the statuses of a
docket in their order. -/
theorem atomicsArePerformed : Obligations.AtomicsArePerformed :=
  ⟨atomicsAreIndivisible, atomicOperations, joindecAndSpawnArePerformed⟩

end Sys2Proof.Machine
end

/-! ### Signals and waits on memory -/

section
namespace Sys2Proof.Machine
open Sys2Proof.Claims Sys2Proof.Config

theorem exec_msemwaitReread (slot : Nat) (s : State) : exec (.msemwaitReread slot) s = execMsemwaitReread slot s := rfl

theorem exec_waitcReread (slot : Nat) (s : State) : exec (.waitcReread slot) s = execWaitcReread slot s := rfl

/-! #### Signals -/

theorem semAdd_adds {s : State} {core n v : Nat} (h : (semAt s core n).count.toNat + v < 2 ^ 32) :
    semAdd s core n v =
      (true, putSem s core n { semAt s core n with count := (semAt s core n).count + BitVec.ofNat 32 v }) :=
  if_neg (by omega)

theorem semAdd_overflows {s : State} {core n v : Nat} (h : 2 ^ 32 ≤ (semAt s core n).count.toNat + v) :
    semAdd s core n v = (false, s) := if_pos h

theorem semAt_putSem_same (s : State) (core n : Nat) (m : Sem) : semAt (putSem s core n m) core n = m := by
  simp only [semAt, putSem, coreAt, putCore, mapGetD, mapGet_mapSet_same, Option.getD_some]

theorem coreSemaphoreAdds : CoreSemaphoreAdds := by
  refine fun s core n v => ⟨fun h => ⟨_, semAdd_adds h, ?_, rfl, rfl⟩, fun h => ⟨_, semAdd_overflows h, rfl⟩⟩
  rw [semAt_putSem_same, BitVec.toNat_add, BitVec.toNat_ofNat, Nat.add_mod_mod, Nat.mod_eq_of_lt h]

section
variable {s : State} {k : Nat} {c : Crew} {e : LogEntry} {t : Target}

theorem performMsemsig_adds (hp : targetPoison s t 8 = none)
    (h : bytesValue (targetBytes s t 8) + e.opb.toNat < 2 ^ 64) :
    performMsemsig s k c e t = putCrew
      (targetWrite (afterTarget s t 8) t (valueBytes 8 (bytesValue (targetBytes s t 8) + e.opb.toNat))) k (performed c e.seq) :=
  indivisible_writes hp (if_neg (by omega))

theorem performMsemsig_overflows (hp : targetPoison s t 8 = none)
    (h : 2 ^ 64 ≤ bytesValue (targetBytes s t 8) + e.opb.toNat) :
    performMsemsig s k c e t = lateFault (afterTarget s t 8) k e.seq 0x21 e.opa :=
  indivisible_refuses hp (if_pos h)

end

theorem signalsTakeEffect : SignalsTakeEffect := by
  intro s slot c e hc he hfault horder
  have hgo : ¬(e.faulted || !orderAllows c e) = true := by rw [hfault, horder]; decide
  have hi := exec_signalTakeEffect slot e.seq s
  rw [execSignalTakeEffect, entryEvent_entry hc he, if_neg hgo] at hi
  refine ⟨fun n hk => ⟨fun hroom => ?_, fun hfull => ?_⟩, fun n hk => ?_, fun t hk hmay hp => ?_⟩
  · simp only [hk, semAdd_adds hroom] at hi
    exact hi
  · simp only [hk, semAdd_overflows hfull] at hi
    exact hi
  · simp only [hk] at hi
    exact hi
  · simp only [hk] at hi
    rw [performEntry_performs hmay] at hi
    have hmakes : makes (.signalTakeEffect slot e.seq) s
        (performMsemsig (passing s slot c e) slot (markPassed c e) e t) slot c e := by
      simpa only [makes, performAt, hk] using hi
    refine ⟨fun hroom => ?_, fun hfull => ?_⟩
    · rwa [performMsemsig_adds (targetPoison_passing s slot c e t 8 ▸ hp) (targetBytes_passing s slot c e t 8 ▸ hroom),
        targetBytes_passing] at hmakes
    · rwa [performMsemsig_overflows (targetPoison_passing s slot c e t 8 ▸ hp) (targetBytes_passing s slot c e t 8 ▸ hfull)]
        at hmakes

/-! #### Waits on memory -/

section
variable {s s1 : State} {slot : Nat} {c : Crew} {e : LogEntry} {t u : Target} {use : State → Target → Word → State}

theorem execMsemwaitReread_waits (hc : crewAt s slot = some c) (hw : waitingEntry c = some e) (ht : e.target = some t)
    (hk : e.kind = .msemwait) :
    exec (.msemwaitReread slot) s = .next (
      if t.tier = 1 then lentWait s slot c e t (· != 0)
      else rereadWait s slot c e fun s t v =>
        if v = 0 then s
        else endWait (advanceCell (signCrossings (slot, c.crewId, e.seq) s (targetWrite s t (wordBytes (v - 1)))) t)
          slot c e v) := by
  rw [exec_msemwaitReread, execMsemwaitReread]
  simp only [hc, hw, hk, ht]

theorem execWaitcReread_waits (hc : crewAt s slot = some c) (hw : waitingEntry c = some e) (ht : e.target = some t)
    (hk : e.kind = .waitc) :
    exec (.waitcReread slot) s = .next (
      if t.tier = 1 then lentWait s slot c e t (fun v => decide (v.toNat ≤ e.opb.toNat))
      else rereadWait s slot c e fun s _ v => if v.toNat ≤ e.opb.toNat then endWait s slot c e v else s) := by
  rw [exec_waitcReread, execWaitcReread]
  simp only [hc, hw, hk, ht]

/-- The fault of a wait's translation is held, or late. -/
theorem translationFault_eq_refused (s : State) (k : Nat) (c : Crew) (e : LogEntry) (f : BitVec 8) :
    translationFault s k c e f = refused s k c e f := by
  rw [refused]
  split
  · next hk => simp only [translationFault, hk]; rfl
  · next hk =>
    have hl : translationFault s k c e f = if heldCode f then holdFault s k e.seq f e.opa else lateFault s k e.seq f e.opa := by
      unfold translationFault
      split
      · next hs => exact absurd hs hk
      · rfl
    rw [hl, heldCode]
    simp only [decide_eq_true_eq]

theorem rereadWait_faults {f : BitVec 8} (hawake : memoryAwake s = true)
    (htr : targetFor s slot (jobOf s c) e.opa (entryAccess e) = (.error f, s1)) :
    rereadWait s slot c e use = refused s1 slot c e f := by
  simp only [rereadWait, hawake, htr, translationFault_eq_refused, Bool.not_true, Bool.false_eq_true, if_false]

/-- A re-read whose translation is known: it waits for the memory, or is made, with its checks in order. -/
theorem rereadWait_reads (hawake : memoryAwake s = true)
    (htr : targetFor s slot (jobOf s c) e.opa (entryAccess e) = (.ok u, s1)) (htier : u.tier ≠ 1)
    (horder : orderAllows c e = true) :
    rereadWait s slot c e use =
      if !targetMay s1 u 8 then targetWaits s1 u 8
      else if plainEntry e && !isReeve slot && racesAt s1 (jobOf s1 c) c.crewId u 8 then lateFault s1 slot e.seq 0x20 e.opa
      else if (targetPoison s1 u 8).isSome then lateFault (afterTarget s1 u 8) slot e.seq 0x40 e.opa
      else use (afterTarget s1 u 8) u (bytesWord (targetBytes s1 u 8)) := by
  simp [rereadWait, hawake, htr, htier, horder]

theorem plainEntry_waitc (hk : e.kind = .waitc) : plainEntry e = true := by simp only [plainEntry, hk]

theorem plainEntry_msemwait (hk : e.kind = .msemwait) : plainEntry e = false := by simp only [plainEntry, hk]

theorem lentWait_msemwait {ends : Word → Bool} {v : Word} {rest : List Word} (hk : e.kind = .msemwait)
    (hd : e.data = v :: rest) :
    lentWait s slot c e t ends =
      if ends v then endWait (advanceCell s t) slot c e v
      else putCrew s slot (modLog c e.seq fun e => { e with data := [] }) := by
  simp only [lentWait, hd, hk]

theorem lentWait_waitc {ends : Word → Bool} {v : Word} {rest : List Word} (hk : e.kind = .waitc) (hd : e.data = v :: rest) :
    lentWait s slot c e t ends =
      if ends v then endWait s slot c e v else putCrew s slot (modLog c e.seq fun e => { e with data := [] }) := by
  simp only [lentWait, hd, hk]

theorem lentWait_asks {ends : Word → Bool} (hd : e.data = []) (htag : e.tag = none) (horder : orderAllows c e = true) :
    lentWait s slot c e t ends = performLent s slot c e t := by
  simp only [lentWait, hd, htag, horder, Option.isSome_none, Bool.not_true, Bool.or_self, Bool.false_eq_true, if_false]

end

theorem waitsEndOnTheirCondition : WaitsEndOnTheirCondition := by
  intro s slot c e t hc hw ht wakes both
  have hm := execMsemwaitReread_waits hc hw ht
  have hq := execWaitcReread_waits hc hw ht
  have hends (u : State) (v : Word) : endWait u slot c e v = wakes u v := rfl
  refine ⟨fun u s1 htier hawake htr hutier horder => ?_, fun f s1 htier hawake htr => ?_, fun v rest htier hd => ?_,
    fun htier hd htag horder => ?_⟩
  · simp only [if_neg htier, rereadWait_reads hawake htr hutier horder] at hm hq
    refine ⟨fun hmay => ?_, fun hmay => ⟨fun hk hr hrace => ?_, fun hno => ⟨fun hp => ?_, fun hp => ?_⟩⟩⟩
    · rw [hmay] at hm hq
      exact ⟨hm, hq⟩
    · refine (hq hk).trans ?_
      rw [hmay, plainEntry_waitc hk, hr, hrace]
      rfl
    · refine ⟨fun hk => (hm hk).trans ?_, fun hk => (hq hk).trans ?_⟩
      · rw [hmay, plainEntry_msemwait hk, if_pos hp]
        rfl
      · have hrace : ¬(plainEntry e && !isReeve slot && racesAt s1 (jobOf s1 c) c.crewId u 8) = true := by
          simpa [plainEntry_waitc hk, Classical.or_iff_not_imp_left] using hno hk
        rw [hmay, if_neg hrace, if_pos hp]
        rfl
    · refine ⟨fun hk => ?_, fun hk => ?_⟩
      · have hread := hm hk
        rw [hmay, plainEntry_msemwait hk, hp] at hread
        exact ⟨fun hv => hread.trans (congrArg _ (if_neg hv)), fun hv => hread.trans (congrArg _ (if_pos hv))⟩
      · have hrace : ¬(plainEntry e && !isReeve slot && racesAt s1 (jobOf s1 c) c.crewId u 8) = true := by
          simpa [plainEntry_waitc hk, Classical.or_iff_not_imp_left] using hno hk
        have hread := hq hk
        rw [hmay, if_neg hrace, hp] at hread
        exact ⟨fun hv => hread.trans (congrArg _ (if_pos hv)),
          fun hv => hread.trans (congrArg _ (if_neg (Nat.not_le.2 hv)))⟩
  · simp only [if_neg htier, rereadWait_faults hawake htr] at hm hq
    exact ⟨hm, hq⟩
  · simp only [if_pos htier] at hm hq
    refine ⟨fun hk => ?_, fun hk => ?_⟩
    · have hread := hm hk
      rw [lentWait_msemwait hk hd] at hread
      exact ⟨fun hv => hread.trans (congrArg _ (if_pos (bne_iff_ne.2 hv))),
        fun hv => hread.trans (congrArg _ (if_neg fun hne => bne_iff_ne.1 hne hv))⟩
    · have hread := hq hk
      rw [lentWait_waitc hk hd] at hread
      exact ⟨fun hv => hread.trans (congrArg _ (if_pos (decide_eq_true hv))),
        fun hv => hread.trans (congrArg _ (if_neg (by simpa using hv)))⟩
  · simp only [if_pos htier, lentWait_asks hd htag horder] at hm hq
    exact ⟨hm, hq⟩

/-- Settles O39: each signal and each wait, from the law of what its event does of its entry and of a re-read. -/
theorem signalsAndWaitsArePerformed : Obligations.SignalsAndWaitsArePerformed :=
  ⟨signalsTakeEffect, coreSemaphoreAdds, waitsEndOnTheirCondition⟩

end Sys2Proof.Machine
end

/-! ### Translation, late faults, fetches and idle counts -/

section
namespace Sys2Proof.Machine
open Sys2Proof.Claims Sys2Proof.Config

/-! #### TRANSLATION_RETURN -/

theorem exec_translationReturn (slot seq : Nat) (s : State) :
    exec (.translationReturn slot seq) s = execTranslationReturn slot seq s := rfl

/-- The bytes of the page that a walk has found, a small one's where it faults. -/
def foundSize (p : Except (BitVec 8) PageFound) : Nat :=
  match p with
  | .ok f => if f.large then 2 ^ 23 else 65536
  | .error _ => 65536

theorem sharers_eq (s : State) (job : Nat) (va : Word) (p : Except (BitVec 8) PageFound) :
    sharers s job va p = s.crews.flatMap fun q =>
      if isReeve q.1 || jobOf s q.2 != job then []
      else (q.2.log.filter fun e => inTranslation e && e.opa.toNat / foundSize p == va.toNat / foundSize p).map
        fun e => (q.1, e.seq) := rfl

theorem mem_sharers {s : State} {job : Nat} {va : Word} {p : Except (BitVec 8) PageFound} {k q size : Nat}
    (hsize : size = foundSize p) :
    (k, q) ∈ sharers s job va p ↔ ∃ d g, (k, d) ∈ s.crews ∧ g ∈ d.log ∧ g.seq = q ∧ isReeve k = false ∧
      jobOf s d = job ∧ g.phase = .translating ∧ g.faulted = false ∧ g.opa.toNat / size = va.toNat / size := by
  rw [sharers_eq, List.mem_flatMap, hsize]
  constructor
  · rintro ⟨⟨j, d⟩, hd, hmem⟩
    split at hmem
    · cases hmem
    next hno =>
      obtain ⟨g, hg, heq⟩ := List.mem_map.1 hmem
      obtain ⟨hlog, htest⟩ := List.mem_filter.1 hg
      cases heq
      have htest' : (g.phase = .translating ∧ g.faulted = false) ∧ g.opa.toNat / foundSize p = va.toNat / foundSize p := by
        simpa [inTranslation] using htest
      have hno' : isReeve j = false ∧ jobOf s d = job := by simpa using hno
      exact ⟨d, g, hd, hlog, rfl, hno'.1, hno'.2, htest'.1.1, htest'.1.2, htest'.2⟩
  · rintro ⟨d, g, hd, hlog, rfl, hr, hjob, hphase, hfault, hpage⟩
    refine ⟨(k, d), hd, ?_⟩
    rw [if_neg (by simp [hr, hjob])]
    exact List.mem_map.2 ⟨g, List.mem_filter.2 ⟨hlog, by simp [inTranslation, hphase, hfault, hpage]⟩, rfl⟩

theorem takePage_found {u : State} {k : Nat} {d : Crew} {g : LogEntry} {q : PageFound} (hd : crewAt u k = some d)
    (hg : logEntry d g.seq = some g) {r : Translation} {u1 : State}
    (hr : pageTarget u (some (coreOf k)) (jobOf u d) g.opa.toNat (entryAccess g) q = (r, u1)) :
    takePage (.ok q) u (k, g.seq) = takeTranslation u1 k d g r := by
  simp only [takePage, hd, hg, Option.bind_some, Option.map_some, hr]

theorem takePage_faults {u : State} {k : Nat} {d : Crew} {g : LogEntry} {f : BitVec 8} (hd : crewAt u k = some d)
    (hg : logEntry d g.seq = some g) : takePage (.error f) u (k, g.seq) = translationFault u k d g f := by
  simp only [takePage, hd, hg, Option.bind_some, Option.map_some]

theorem translationReturnSettlesTheEntry : TranslationReturnSettlesTheEntry := by
  intro s slot seq c e hc he hphase hfault hawake
  have hgo : ¬(!inTranslation e || !memoryAwake s) = true := by
    simp [inTranslation, hphase, hfault, hawake]
  have hi := exec_translationReturn slot seq s
  rw [execTranslationReturn, entryEvent_entry hc he, if_neg hgo] at hi
  refine ⟨fun t hr ht => ?_, fun f hr ht => ?_, fun p s1 hr hfind => ⟨?_, fun size k q hsize => mem_sharers hsize,
    fun u k d g hd hg => ⟨fun f hp => ?_, fun q t u1 hp ht => ?_, fun q f u1 hp ht => ?_⟩⟩⟩
  · rw [if_pos hr, ht] at hi
    exact hi
  · rw [if_pos hr, ht] at hi
    rw [hi, ← translationFault_eq_refused]
    rfl
  · rw [if_neg (Bool.eq_false_iff.1 hr), hfind] at hi
    exact hi
  · rw [hp, takePage_faults hd hg, translationFault_eq_refused]
  · rw [hp, takePage_found hd hg ht]
    rfl
  · rw [hp, takePage_found hd hg ht, ← translationFault_eq_refused]
    rfl

/-! #### LATE_FAULT_DELIVERY -/

theorem exec_lateFaultDelivery (slot : Nat) (s : State) : exec (.lateFaultDelivery slot) s = execLateFaultDelivery slot s := rfl

/-- A cause without a software code stands alone in TRAPCAUSE. -/
theorem zeroExtend_zero_append (code : BitVec 8) : ((0 : BitVec 8) ++ code).zeroExtend 64 = code.zeroExtend 64 := by
  refine BitVec.eq_of_toNat_eq ?_
  simp only [BitVec.truncate_eq_setWidth, BitVec.toNat_setWidth, toNat_append_eq, BitVec.toNat_zero, BitVec.ofNat_eq_ofNat,
    Nat.zero_mul, Nat.zero_add]

theorem lateFaultsAreTaken : LateFaultsAreTaken := by
  intro s slot c e hc hbench hrun hfind
  have hgo : ¬(c.state != .running) = true := by rw [hrun]; decide
  have hi := exec_lateFaultDelivery slot s
  simp only [execLateFaultDelivery, hc, if_neg hgo, hfind] at hi
  obtain ⟨hcrew, -⟩ := takingATrapOnABench
    (putCrew s slot { c with late := c.late.filter fun q => q != e.seq && c.log.any fun f => f.seq == q && !f.ri }) slot _ none
    e.code 0 e.pc e.addr (liveIndex c e.seq) hbench (crewAt_putCrew_same _ _ _)
  refine ⟨_, _, hi, hcrew, rfl, ?_, rfl, rfl, rfl, rfl, rfl, rfl, rfl, rfl, rfl, fun hmem => ?_⟩
  · exact zeroExtend_zero_append e.code
  · simpa using (List.mem_filter.1 hmem).2

/-! #### INSTRUCTION_FETCH_RETURN -/

theorem exec_instructionFetchReturn (slot : Nat) (str : Stream) (s : State) :
    exec (.instructionFetchReturn slot str) s = execInstructionFetchReturn slot str s := rfl

theorem fetchesReturn : FetchesReturn := by
  intro s slot str c hc hneed hfrozen hhold
  have hgo : ¬(!fetchNeeded c str || groupFrozen s slot || s.pkg.hold) = true := by rw [hneed, hfrozen, hhold]; decide
  have hi := exec_instructionFetchReturn slot str s
  simp only [execInstructionFetchReturn, hc, if_neg hgo] at hi
  refine ⟨fun r s1 hf hb => ?_, fun w s1 hf hb => ?_, fun f s1 hf hb => ?_⟩
  · simp only [hf, if_pos hb] at hi
    exact hi
  · simp only [hf, if_neg (Bool.eq_false_iff.1 hb)] at hi
    exact hi
  · simp only [hf, if_neg (Bool.eq_false_iff.1 hb)] at hi
    exact hi

/-! #### IDLE_COUNT -/

theorem exec_idleCount (slot : Nat) (s : State) : exec (.idleCount slot) s = execIdleCount slot s := rfl

theorem landEach_counter {w : Nat} {land : Crew → Pend w → Crew} (h : ∀ c p, (land c p).counter = c.counter) (n : Nat) (c : Crew)
    (l : List (Pend w)) : (landEach land n c l).counter = c.counter :=
  List.foldlRecOn (motive := fun a : Crew × List (Pend w) => a.1.counter = c.counter) l _ rfl
    fun _ ih _ _ => (h _ _).trans ih

theorem landX_counter (n : Nat) (c : Crew) (p : Pend 64) : (landX n c p).counter = c.counter := by
  unfold landX
  split <;> rfl

theorem landV_counter (n : Nat) (c : Crew) (p : Pend 4096) : (landV n c p).counter = c.counter := by
  unfold landV
  split <;> rfl

theorem landP_counter (n : Nat) (c : Crew) (p : Pend 256) : (landP n c p).counter = c.counter := by
  unfold landP
  split <;> rfl

theorem landDue_counter (n : Nat) (c : Crew) : (landDue n c).counter = c.counter := by
  unfold landDue landAmong
  dsimp only
  rw [landEach_counter (landP_counter n), landEach_counter (landV_counter n), landEach_counter (landX_counter n)]

theorem nextCount_counter (n : Nat) (c : Crew) : (nextCount n c).counter = c.counter + 1 := by
  unfold nextCount landFlags
  dsimp only
  refine List.foldlRecOn (motive := fun d : Crew => d.counter = c.counter + 1) _ _ (landDue_counter n _) fun d ih p _ => ?_
  rw [storeCsr_counter]
  exact ih

section
variable {s : State} {k : Nat} {d : Crew}

/-- No trap comes before the words of a count of a crew that takes no step and has no orphan. -/
theorem countTrap_none (hd : crewAt s k = some d) (hstep : d.stepAt = none) (horphan : orphan d = none) : countTrap s k = s := by
  have hno : ¬(d.stepAt == some d.counter) = true := by rw [hstep, Option.none_beq_some]; decide
  simp only [countTrap, hd, if_neg hno, horphan]

theorem performAllDue_none (hd : crewAt s k = some d) (hlate : ∀ v ∈ d.vstores, d.counter < v.due) : performAllDue s k = s := by
  have hfind : d.vstores.find? (fun v => decide (v.due ≤ d.counter) && vstoreAllows d v) = none := by
    refine List.find?_eq_none.2 fun v hv => ?_
    rw [decide_eq_false (Nat.not_le.2 (hlate v hv)), Bool.false_and]
    decide
  simp only [performAllDue, hd]
  cases d.vstores.length with
  | zero => rfl
  | succ n => simp only [performDue, hd, hfind]

theorem performAllDue_one {v : VStore} (hd : crewAt s k = some d) (hv : d.vstores = [v]) (hdue : v.due ≤ d.counter)
    (hallows : vstoreAllows d v = true) : performAllDue s k = performStored s k d v := by
  simp [performAllDue, performDue, hd, hv, hdue, hallows]

theorem orphan_settle (c : Crew) : orphan (settle c) = orphan c := by
  obtain ⟨_, _, _, h⟩ := settle_onlyLog c
  rw [h]
  rfl

theorem stepAt_settle (c : Crew) : (settle c).stepAt = c.stepAt := by
  obtain ⟨_, _, _, h⟩ := settle_onlyLog c
  rw [h]

end

/-- A count passes for a lone crew: its next count, its due stores, and the traps of that count. -/
theorem passCount_alone {s : State} {k : Nat} {c : Crew} (hc : crewAt s k = some c) (hm : membersOf s k = [k]) :
    passCount s k = countTrap (performAllDue { (putCrew s k (nextCount s.free c)) with free := s.free + 1 } k) k := by
  simp only [passCount, hm, List.foldl_cons, List.foldl_nil, modCrew, hc]
  rfl

theorem idleCountPasses : IdleCountPasses := by
  intro s k c hc hm hmay d t
  have ht : crewAt t k = some d := crewAt_putCrew_same _ _ _
  have hi := exec_idleCount k s
  refine ⟨fun hnone hstep horphan => ?_, fun hsome => ?_, nextCount_counter _ _⟩
  · have hgo : (groupMay s k && (dueWords s k).isEmpty) = true := by rw [hmay, hnone]; rfl
    rw [execIdleCount, if_pos hgo, passCount_alone hc hm] at hi
    refine ⟨fun hlate => ?_, fun v hv hdue hallows => ?_⟩
    · rw [performAllDue_none ht hlate, countTrap_none ht hstep horphan] at hi
      exact hi
    · have hu : crewAt (performStored t k d v) k = some (settle { d with vstores := d.vstores.filter (·.seq != v.seq) }) :=
        crewAt_putCrew_same _ _ _
      rw [performAllDue_one ht hv hdue hallows,
        countTrap_none hu ((stepAt_settle _).trans hstep) ((orphan_settle _).trans horphan)] at hi
      exact hi
  · have hno : ¬(groupMay s k && (dueWords s k).isEmpty) = true := by
      rw [hmay, Bool.true_and, List.isEmpty_iff]
      exact hsome
    rw [execIdleCount, if_neg hno] at hi
    exact hi

/-- Settles O40: the four kinds of event, each on an entry, a cause, a stream or a crew for which it may happen. -/
theorem accessesTranslateFaultAndFetch : Obligations.AccessesTranslateFaultAndFetch :=
  ⟨translationReturnSettlesTheEntry, lateFaultsAreTaken, fetchesReturn, idleCountPasses⟩

end Sys2Proof.Machine
end

/-! ### Finite maps and cores -/

section
namespace Sys2Proof.Machine
open Sys2Proof.Claims Sys2Proof.Config

theorem coreAt_putCore_same (s : State) (k : Nat) (c : CoreState) : coreAt (putCore s k c) k = c := mapGetD_mapSet_same _ _ _ _

theorem coreAt_putCore_other (s : State) {k j : Nat} (c : CoreState) (h : j ≠ k) : coreAt (putCore s k c) j = coreAt s j :=
  congrArg (fun o : Option CoreState => o.getD .idle) (mapGet_mapSet_other _ _ h)

theorem modCrew_some {s : State} {k : Nat} {c : Crew} (h : crewAt s k = some c) (f : Crew → Crew) :
    modCrew s k f = putCrew s k (f c) := by
  simp only [modCrew, h]

/-- A filter by keys keeps the keys that it accepts. -/
theorem mapGet_filter_keys {α : Type} (p : Nat → Bool) (m : FMap α) (a : Nat) :
    mapGet (m.filter fun q => p q.1) a = if p a then mapGet m a else none := by
  induction m with
  | nil => simp [mapGet]
  | cons q m ih =>
    obtain ⟨k, v⟩ := q
    by_cases hk : a = k
    · subst hk
      cases hp : p a <;> simp [hp, mapGet, ih]
    · cases hp : p k <;> simp [hp, mapGet, ih, hk]

/-- Setting one value at several keys. -/
theorem mapGet_foldl_mapSet {α : Type} (l : List Nat) (v : α) (m : FMap α) (a : Nat) :
    mapGet (l.foldl (fun m n => mapSet m n v) m) a = if a ∈ l then some v else mapGet m a := by
  induction l generalizing m with
  | nil => simp
  | cons n l ih =>
    rw [List.foldl_cons, ih]
    by_cases hl : a ∈ l
    · simp [hl]
    · by_cases hn : a = n
      · simp [hn]
      · simp [hl, hn, mapGet_mapSet_other _ _ hn]

/-- Setting a run of keys from a base. -/
theorem mapGet_foldl_mapSet_run {α : Type} (base : Nat) (v : Nat → α) (m : FMap α) {n i : Nat} (h : i < n) :
    mapGet ((List.range n).foldl (fun m l => mapSet m (base + l) (v l)) m) (base + i) = some (v i) := by
  induction n with
  | zero => exact absurd h (Nat.not_lt_zero i)
  | succ n ih =>
    rw [List.range_succ, List.foldl_append, List.foldl_cons, List.foldl_nil]
    by_cases hi : i = n
    · rw [hi, mapGet_mapSet_same]
    · rw [mapGet_mapSet_other _ _ (by omega), ih (by omega)]

theorem mapGet_map_range' {α : Type} (f : Nat → α) (a n i : Nat) :
    mapGet ((List.range' a n).map fun j => (j, f j)) i = if a ≤ i ∧ i < a + n then some (f i) else none := by
  induction n generalizing a with
  | zero => simp [mapGet]
  | succ n ih =>
    rw [List.range'_succ, List.map_cons, mapGet, ih]
    by_cases hi : i = a
    · simp [hi]
    · rw [if_neg hi]
      exact ite_of_iff (by omega) rfl rfl

/-- The map that lists a function on the first numbers. -/
theorem mapGet_map_range {α : Type} (f : Nat → α) {n i : Nat} (h : i < n) :
    mapGet ((List.range n).map fun j => (j, f j)) i = some (f i) := by
  rw [List.range_eq_range', mapGet_map_range', if_pos (by omega)]

theorem zipIdx_map_range {α : Type} (g : Nat → α) (n : Nat) :
    ((List.range n).map g).zipIdx = (List.range n).map fun m => (g m, m) := by
  refine List.ext_getElem (by simp) fun i hi _ => ?_
  simp

/-- Rows of a fixed length, one after another, are one run. -/
theorem flatMap_range_rows {α : Type} (f : Nat → α) (m n : Nat) :
    ((List.range m).flatMap fun a => (List.range n).map fun b => f (a * n + b)) = (List.range (m * n)).map f := by
  induction m with
  | zero => simp
  | succ m ih =>
    rw [List.range_succ, List.flatMap_append, ih, Nat.succ_mul, List.range_add, List.map_append, List.map_map]
    simp [Function.comp_def]

theorem mem_of_mapGet {α : Type} {m : FMap α} {a : Nat} {v : α} (h : mapGet m a = some v) : (a, v) ∈ m := by
  induction m with
  | nil => cases h
  | cons q m ih =>
    obtain ⟨k, w⟩ := q
    rw [mapGet] at h
    split at h
    · next hk =>
      cases h
      exact List.mem_cons.2 (.inl (by rw [hk]))
    · exact List.mem_cons_of_mem _ (ih h)

end Sys2Proof.Machine
end

/-! ### The matrix engine: claims and commands -/

section
namespace Sys2Proof.Machine
open Sys2Proof.Claims Sys2Proof.Config

theorem exec_mclaimGrant (core slot : Nat) (s : State) : exec (.mclaimGrant core slot) s = execMclaimGrant core slot s := rfl

theorem exec_matrixCmdStart (core : Nat) (unit : MatrixUnit) (s : State) :
    exec (.matrixCmdStart core unit) s = execMatrixCmdStart core unit s := rfl

theorem exec_matrixCmdComplete (core : Nat) (unit : MatrixUnit) (s : State) :
    exec (.matrixCmdComplete core unit) s = execMatrixCmdComplete core unit s := rfl

/-! #### Claims -/

section
variable {id : Nat} {before after : List Claim} {q : Claim}

/-- The first of a crew's claims that wait is granted. -/
theorem grantClaim_first (hb : ∀ p ∈ before, ¬(p.crewId = id ∧ p.granted = false)) (hid : q.crewId = id)
    (hq : q.granted = false) :
    grantClaim id (before ++ q :: after) = before ++ { q with granted := true } :: after := by
  induction before with
  | nil =>
    rw [List.nil_append, grantClaim, if_pos (by rw [hid, hq, beq_self_eq_true]; rfl)]
    rfl
  | cons p l ih =>
    have hno : ¬(p.crewId == id && !p.granted) = true := by simpa using hb p List.mem_cons_self
    rw [List.cons_append, grantClaim, if_neg hno, ih fun r hr => hb r (List.mem_cons_of_mem _ hr)]
    rfl

/-- Of claims none of which waits before the granted one, those behind it decide whether one still waits. -/
theorem claimWaits_granted (hb : ∀ p ∈ before, ¬(p.crewId = id ∧ p.granted = false)) (hq : q.granted = true) :
    claimWaits id (before ++ q :: after) = after.any fun p => p.crewId == id && !p.granted := by
  have hnone : before.any (fun p => p.crewId == id && !p.granted) = false :=
    List.any_eq_false.2 fun p hp => by simpa using hb p hp
  rw [claimWaits, List.any_append, hnone, List.any_cons, hq]
  simp

/-- The first of a crew's claims that it holds is released. -/
theorem releaseClaim_first (hb : ∀ p ∈ before, ¬(p.crewId = id ∧ p.granted = true)) (hid : q.crewId = id)
    (hq : q.granted = true) : releaseClaim id (before ++ q :: after) = before ++ after := by
  induction before with
  | nil => rw [List.nil_append, releaseClaim, if_pos (by rw [hid, hq, beq_self_eq_true]; rfl), List.nil_append]
  | cons p l ih =>
    have hno : ¬(p.crewId == id && p.granted) = true := by simpa using hb p List.mem_cons_self
    rw [List.cons_append, releaseClaim, if_neg hno, ih fun r hr => hb r (List.mem_cons_of_mem _ hr), List.cons_append]

/-- A crew that holds no claim releases none. -/
theorem releaseClaim_none {l : List Claim} (h : ∀ p ∈ l, ¬(p.crewId = id ∧ p.granted = true)) : releaseClaim id l = l := by
  induction l with
  | nil => rfl
  | cons p l ih =>
    have hno : ¬(p.crewId == id && p.granted) = true := by simpa using h p List.mem_cons_self
    rw [releaseClaim, if_neg hno, ih fun r hr => h r (List.mem_cons_of_mem _ hr)]

end

theorem mem_grantedSlots {set : Word} {n : Nat} (hn : n < 32) :
    n ∈ (List.range 32).filter (set.getLsbD ·) ↔ set.getLsbD n = true := by
  simp [List.mem_filter, hn]

/-- What a grant leaves of the lines of slots or of scale areas. -/
theorem grantedLines {α : Type} (m : FMap α) (set : Word) {n l : Nat} (hn : n < 32) (hl : l < 128) :
    mapGet (m.filter fun q => !((List.range 32).filter (set.getLsbD ·)).contains (q.1 / 128)) (n * 128 + l) =
      if set.getLsbD n then none else mapGet m (n * 128 + l) := by
  rw [mapGet_filter_keys (fun k => !((List.range 32).filter (set.getLsbD ·)).contains (k / 128))]
  have hdiv : (n * 128 + l) / 128 = n := by omega
  rw [hdiv]
  by_cases hs : set.getLsbD n = true
  · rw [if_pos hs, if_neg]
    simpa using ⟨hn, hs⟩
  · rw [if_neg hs, if_pos]
    simpa using .inr (Bool.eq_false_iff.2 hs)

theorem grantedBank_cell (b : Bank) (epoch i : Nat) : (b.granted epoch).cell i = (freeCell epoch i).toNat := rfl

/-- A bank at a grant: a fresh one where the set names it. -/
theorem bankAt_freshContents (k : CoreState) (set : Word) (epoch : Nat) {b : Nat} (hb : b < 2) :
    bankAt (freshContents k set epoch) b =
      if set.getLsbD (32 + b) then (bankAt k b).granted (2 * epoch + b) else bankAt k b := by
  obtain rfl | rfl : b = 0 ∨ b = 1 := by omega
  · rfl
  · rfl

theorem consumeWait_none {s : State} {core : Nat} {e : EngCmd} (h : e.wv = false) : consumeWait s core e = (true, s) :=
  if_pos (by rw [h]; rfl)

theorem claimsAreGranted : ClaimsAreGranted := by
  intro s core slot c e hc hfind hk hwv hmay hgrant holder before q after hclaims hbefore hid hq
  have hgo : ¬(e.kind != .mclaim || !mayStart s (coreAt s core) e || !grantable (coreAt s core) c.crewId ||
      olderStarts s core e.id) = true := by
    rw [hk, hmay, hgrant, holder]
    decide
  have hi := exec_mclaimGrant core slot s
  simp only [execMclaimGrant, hc, hfind, if_neg hgo, consumeWait_none hwv] at hi
  have hrun : coreAt (runMatrix s core e) core = { coreAt s core with
      matQ := (coreAt s core).matQ.filter (·.id != e.id)
      matRun := (coreAt s core).matRun ++ [{ e with consumed := true, started := true }] } := coreAt_putCore_same _ _ _
  rw [hrun] at hi
  dsimp only at hi
  have hcrew (x : CoreState) : crewAt (bump (putCore (runMatrix s core e) core x)) slot = some c := hc
  rw [hclaims, grantClaim_first hbefore hid hq, modCrew_some (hcrew _)] at hi
  rw [claimWaits_granted (q := { q with granted := true }) hbefore rfl] at hi
  have hcore := fun x => coreAt_bump_putCore (runMatrix s core e) core x
  refine ⟨_, _, hi, ?_, ?_, crewAt_putCrew_same _ _ _, rfl, rfl, rfl, rfl, fun n l hn hl => ⟨?_, ?_, ?_⟩,
    fun b hb => ?_⟩
  · exact congrArg CoreState.matRun (hcore _)
  · exact congrArg CoreState.claims (hcore _)
  · exact (congrArg (fun k : CoreState => mapGet k.slotLines (n * 128 + l)) (hcore _)).trans (grantedLines _ _ hn hl)
  · exact (congrArg (fun k : CoreState => mapGet k.scaleLines (n * 128 + l)) (hcore _)).trans (grantedLines _ _ hn hl)
  · refine (congrArg (fun k : CoreState => mapGet k.slotEpoch n) (hcore _)).trans ?_
    exact (mapGet_foldl_mapSet _ _ _ _).trans (ite_of_iff (mem_grantedSlots hn) rfl rfl)
  · intro old new
    have hnew : new = if e.xa.getLsbD (32 + b) then old.granted (2 * s.stamp + b) else old :=
      (congrArg (bankAt · b) (hcore _)).trans (bankAt_freshContents _ _ _ hb)
    rw [hnew]
    refine ⟨fun hoff => if_neg (Bool.eq_false_iff.1 hoff), fun hon => ?_⟩
    rw [if_pos hon]
    exact ⟨rfl, rfl, fun i => rfl⟩

/-! #### Starting and completing -/

section
variable {s : State} {core : Nat} {unit : MatrixUnit} {e : EngCmd}

theorem startFirst_one (hk : e.kind ≠ .mclaim) (hwv : e.wv = false) (hmay : mayStart s (coreAt s core) e = true) :
    startFirst s core [e] = startMatrix s core e := by
  simp only [startFirst, if_neg hk, if_pos hmay, consumeWait_none hwv]

/-- Of a queue of claims alone none is started by MATRIX_CMD_START. -/
theorem startFirst_claims {l : List EngCmd} (h : ∀ f ∈ l, f.kind = .mclaim) : startFirst s core l = s := by
  induction l with
  | nil => rfl
  | cons f l ih =>
    rw [startFirst, if_pos (h f List.mem_cons_self), ih fun g hg => h g (List.mem_cons_of_mem _ hg), ite_self]

/-- The one command of the queue moves to its unit. -/
theorem runMatrix_one (hq : ∀ f ∈ (coreAt s core).matQ, f.id = e.id) :
    runMatrix s core e = putCore s core { coreAt s core with
      matQ := [], matRun := (coreAt s core).matRun ++ [{ e with consumed := true, started := true }] } := by
  have hnil : (coreAt s core).matQ.filter (·.id != e.id) = [] :=
    List.filter_eq_nil_iff.2 fun f hf => by simp [hq f hf]
  rw [runMatrix, hnil]

theorem startMatrix_plain (hk : e.kind ≠ .mgo) (hok : startOk (coreAt s core) e = true) :
    startMatrix s core e = runMatrix s core e := by
  unfold startMatrix
  cases issuer s e with
  | none => exact if_pos hok
  | some c =>
    dsimp only
    rw [if_neg hk]
    exact if_pos hok

theorem startMatrix_nest {c : Crew} (hk : e.kind = .mgo) (hc : issuer s e = some c) :
    startMatrix s core e =
      if startOk (coreAt s core) (latchNest e c) then runMatrix s core (latchNest e c)
      else stopCmd s core (latchNest e c) 0x01 0xD true := by
  simp only [startMatrix, hc, if_pos hk]

end

theorem matrixCommandsStartAndComplete : MatrixCommandsStartAndComplete := by
  intro s core unit e k
  have hstart := exec_matrixCmdStart core unit s
  have hone (hq : k.matQ = [e]) (hu : e.kind.unit = unit) :
      (coreAt s core).matQ.filter (fun f => f.kind.unit == unit) = [e] := by
    have hq' : (coreAt s core).matQ = [e] := hq
    simp [hq', hu]
  have hids (hq : k.matQ = [e]) (f : EngCmd) (hf : f ∈ (coreAt s core).matQ) : f = e :=
    List.mem_singleton.1 ((show (coreAt s core).matQ = [e] from hq) ▸ hf)
  rw [execMatrixCmdStart] at hstart
  refine ⟨fun hq hu hclaim hnest hwv hmay hok => ?_, fun c hq hu hk hwv hmay hc => ?_, fun hnone => ?_, fun hfind hbehind => ?_⟩
  · rw [hone hq hu, startFirst_one hclaim hwv hmay, startMatrix_plain hnest hok,
      runMatrix_one fun f hf => congrArg _ (hids hq f hf)] at hstart
    exact hstart
  · have hunit : e.kind.unit = unit := by rw [hk, hu]; rfl
    rw [hone hq hunit, startFirst_one (by rw [hk]; decide) hwv hmay, startMatrix_nest hk hc] at hstart
    refine ⟨fun hok => ?_, fun hbad => ?_⟩
    · rw [if_pos (c := startOk (coreAt s core) (latchNest e c) = true) hok,
        runMatrix_one (e := latchNest e c) fun f hf =>
        (congrArg EngCmd.id (hids hq f hf)).trans rfl] at hstart
      exact hstart
    · rw [if_neg (c := startOk (coreAt s core) (latchNest e c) = true) (Bool.eq_false_iff.1 hbad)] at hstart
      exact hstart
  · rw [startFirst_claims fun f hf => ?_] at hstart
    · exact hstart
    · obtain ⟨hq, hu⟩ := List.mem_filter.1 hf
      have hno := List.filter_eq_nil_iff.1 hnone f hq
      rw [hu, Bool.true_and] at hno
      simpa using hno
  · have hi := exec_matrixCmdComplete core unit s
    have hno : ¬((e.kind == .mldo || e.kind == .mret) && behindVectors s e) = true := by
      rw [hbehind, Bool.and_false]
      decide
    simp only [execMatrixCmdComplete, show (coreAt s core).matRun.find? _ = some e from hfind, if_neg hno] at hi
    exact hi

end Sys2Proof.Machine
end

/-! ### What the matrix commands do -/

section
namespace Sys2Proof.Machine
open Sys2Proof.Claims Sys2Proof.Config

/-! #### MREL -/

section
variable {s : State} {core from_ id : Nat}

/-- A core of whose claims a crew holds none. -/
theorem any_granted_iff (l : List Claim) (id : Nat) :
    l.any (fun q => q.crewId == id && q.granted) = true ↔ ∃ p ∈ l, p.crewId = id ∧ p.granted = true := by
  simp

theorem claimCore_own (h : ∃ p ∈ (coreAt s core).claims, p.crewId = id ∧ p.granted = true) : claimCore s core id = core :=
  if_pos ((any_granted_iff _ _).2 h)

theorem claimCore_other (h : ¬∃ p ∈ (coreAt s core).claims, p.crewId = id ∧ p.granted = true) :
    claimCore s core id =
      ((s.cores.find? fun q => q.2.claims.any fun p => p.crewId == id && p.granted).map (·.1)).getD core :=
  if_neg (mt (any_granted_iff _ _).1 h)

/-- A core with claims is one of the cores that the state lists. -/
theorem mem_cores_of_claims {q : Claim} (h : q ∈ (coreAt s from_).claims) : (from_, coreAt s from_) ∈ s.cores := by
  unfold coreAt mapGetD at h ⊢
  cases hm : mapGet s.cores from_ with
  | none =>
    rw [hm] at h
    cases h
  | some c => exact mem_of_mapGet hm

theorem claimCore_holder (hno : ¬∃ p ∈ (coreAt s core).claims, p.crewId = id ∧ p.granted = true)
    (honly : ∀ q ∈ s.cores, (∃ p ∈ q.2.claims, p.crewId = id ∧ p.granted = true) → q.1 = from_)
    (h : ∃ p ∈ (coreAt s from_).claims, p.crewId = id ∧ p.granted = true) : claimCore s core id = from_ := by
  rw [claimCore_other hno]
  have ⟨p, hp, _⟩ := h
  cases hf : s.cores.find? fun q => q.2.claims.any fun p => p.crewId == id && p.granted with
  | none =>
    exact absurd ((any_granted_iff _ _).2 h) (List.find?_eq_none.1 hf _ (mem_cores_of_claims hp))
  | some q =>
    have hq := List.find?_some hf
    exact honly q (List.mem_of_find?_eq_some hf) ((any_granted_iff _ _).1 hq)

theorem claimCore_none (hno : ¬∃ p ∈ (coreAt s core).claims, p.crewId = id ∧ p.granted = true)
    (hnone : ∀ q ∈ s.cores, ¬∃ p ∈ q.2.claims, p.crewId = id ∧ p.granted = true) : claimCore s core id = core := by
  have hf : (s.cores.find? fun q => q.2.claims.any fun p => p.crewId == id && p.granted) = none :=
    List.find?_eq_none.2 fun q hq => mt (any_granted_iff _ _).1 (hnone q hq)
  rw [claimCore_other hno, hf]
  rfl

end

/-! #### MGO -/

section
variable {k : CoreState} {e : EngCmd} {n m : Nat}

theorem bankAt_setBank_same (hn : n < 2) (k : CoreState) (b : Bank) : bankAt (setBank k n b) n = b := by
  obtain rfl | rfl : n = 0 ∨ n = 1 := by omega
  · rfl
  · rfl

theorem bankAt_setBank_other (hn : n < 2) (hm : m < 2) (h : n ≠ m) (k : CoreState) (b : Bank) :
    bankAt (setBank k m b) n = bankAt k n := by
  obtain ⟨rfl, rfl⟩ | ⟨rfl, rfl⟩ : (n = 0 ∧ m = 1) ∨ (n = 1 ∧ m = 0) := by omega
  · rfl
  · rfl

/-- A bank's cells before the nest runs: cleared where Z says so. -/
def clearedBank (k : CoreState) (e : EngCmd) (n : Nat) : Bank :=
  if e.cimm.getLsbD n then { bankAt k n with fill := some (initValue (latchedControl e)), cells := [], flags := 0 }
  else bankAt k n

/-- The steps of a nest that run on a bank. -/
def stepsOn (e : EngCmd) (n : Nat) : List NestStep := (nestSteps e).filter (·.bank == n)

/-- What the nest makes of cell i of a bank. -/
def nestCell (k : CoreState) (e : EngCmd) (n i : Nat) : Nat × FlagSet :=
  cellResult k (nestType (latchedControl e)) (stepsOn e n) (i / 128) (i % 128) ((clearedBank k e n).cell i)

theorem runBank_idle (h : stepsOn e n = []) : runBank k e n = k :=
  if_pos (List.isEmpty_iff.2 h)

/-- A bank after the nest has run on it. -/
def ranBank (k : CoreState) (e : EngCmd) (n : Nat) : Bank :=
  { clearedBank k e n with
    integer := !(formatOf (nestType (latchedControl e))).isSome
    cells := (List.range 16384).map fun i => (i, BitVec.ofNat 32 (nestCell k e n i).1)
    flags := (clearedBank k e n).flags ||| orFlags ((List.range 16384).map fun i => (nestCell k e n i).2) }

theorem runBank_steps (h : stepsOn e n ≠ []) : runBank k e n = setBank k n (ranBank k e n) := by
  have hne : ¬(((nestSteps e).filter (·.bank == n)).isEmpty = true) := mt List.isEmpty_iff.1 h
  unfold runBank ranBank
  generalize 16384 = cells
  dsimp only
  rw [if_neg hne]
  rw [zipIdx_map_range, List.map_map, List.map_map]
  rfl

theorem cell_ranBank {i : Nat} (hi : i < 16384) : (ranBank k e n).cell i = (nestCell k e n i).1 % 2 ^ 32 := by
  have hget : mapGet (ranBank k e n).cells i = some (BitVec.ofNat 32 (nestCell k e n i).1) := by
    unfold ranBank
    generalize 16384 = cells at hi
    exact mapGet_map_range (fun i => BitVec.ofNat 32 (nestCell k e n i).1) hi
  simp only [Bank.cell, hget, BitVec.toNat_ofNat]

/-- The run of one bank leaves the other, and what a nest reads. -/
theorem runBank_other (hn : n < 2) (hm : m < 2) (h : n ≠ m) : bankAt (runBank k e m) n = bankAt k n := by
  by_cases hs : stepsOn e m = []
  · rw [runBank_idle hs]
  · rw [runBank_steps hs, bankAt_setBank_other hn hm h]

theorem cellResult_runBank (k : CoreState) (e : EngCmd) (m t : Nat) (steps : List NestStep) (x y acc : Nat) :
    cellResult (runBank k e m) t steps x y acc = cellResult k t steps x y acc := by
  have hset (b : Bank) : cellResult (setBank k m b) t steps x y acc = cellResult k t steps x y acc := by
    unfold setBank
    split
    · rfl
    · rfl
  by_cases hs : stepsOn e m = []
  · rw [runBank_idle hs]
  · rw [runBank_steps hs, hset]

theorem clearedBank_runBank (hn : n < 2) (hm : m < 2) (h : n ≠ m) : clearedBank (runBank k e m) e n = clearedBank k e n := by
  rw [clearedBank, clearedBank, runBank_other hn hm h]

theorem ranBank_runBank (hn : n < 2) (hm : m < 2) (h : n ≠ m) : ranBank (runBank k e m) e n = ranBank k e n := by
  have hcell (i : Nat) : nestCell (runBank k e m) e n i = nestCell k e n i := by
    rw [nestCell, nestCell, clearedBank_runBank hn hm h, cellResult_runBank]
  unfold ranBank
  generalize 16384 = cells
  rw [clearedBank_runBank hn hm h]
  simp only [hcell]

theorem runBank_self (hn : n < 2) : bankAt (runBank k e n) n = if stepsOn e n = [] then bankAt k n else ranBank k e n := by
  by_cases hs : stepsOn e n = []
  · rw [runBank_idle hs, if_pos hs]
  · rw [runBank_steps hs, bankAt_setBank_same hn, if_neg hs]

/-- The banks that a nest targets are one, or both in order. -/
theorem nestBanks_cases (rows : List Word) (ctl : Word) :
    nestBanks rows ctl = [0, 1] ∨ ∃ b, b < 2 ∧ nestBanks rows ctl = [b] := by
  unfold nestBanks
  split
  · exact .inl rfl
  · exact .inr ⟨_, bits_lt _ _ _, rfl⟩

/-- A bank after a nest has run on each bank that it targets. -/
theorem bankAt_nest (rows : List Word) (ctl : Word) (hn : n < 2) :
    bankAt ((nestBanks rows ctl).foldl (runBank · e ·) k) n =
      if n ∈ nestBanks rows ctl ∧ stepsOn e n ≠ [] then ranBank k e n else bankAt k n := by
  obtain hb | ⟨b, hb2, hb⟩ := nestBanks_cases rows ctl
  · rw [hb]
    obtain rfl | rfl : n = 0 ∨ n = 1 := by omega
    · simp only [List.foldl_cons, List.foldl_nil, runBank_other (n := 0) (m := 1) (by decide) (by decide) (by decide),
        runBank_self (n := 0) (by decide)]
      by_cases hs : stepsOn e 0 = [] <;> simp [hs]
    · simp only [List.foldl_cons, List.foldl_nil, runBank_self (n := 1) (by decide),
        ranBank_runBank (n := 1) (m := 0) (by decide) (by decide) (by decide),
        runBank_other (n := 1) (m := 0) (by decide) (by decide) (by decide)]
      by_cases hs : stepsOn e 1 = [] <;> simp [hs]
  · rw [hb, List.foldl_cons, List.foldl_nil]
    by_cases hnb : n = b
    · subst hnb
      rw [runBank_self hn]
      by_cases hs : stepsOn e n = [] <;> simp [hs]
    · rw [runBank_other hn hb2 hnb, if_neg fun hmem => hnb (List.mem_singleton.1 hmem.1)]

end

/-! #### MRET -/

/-- Writing rows of a region changes the scratchpads alone. -/
theorem foldl_write_spad (r : Region) (slot : Nat) (at_ : Nat → Nat) (row : Nat → List Byte) (l : List Nat) (s : State) :
    ∃ spad, l.foldl (fun s m => r.write s slot (at_ m) (row m)) s = { s with spad := spad } := by
  induction l generalizing s with
  | nil => exact ⟨s.spad, rfl⟩
  | cons m l ih =>
    obtain ⟨spad, h⟩ := ih (r.write s slot (at_ m) (row m))
    exact ⟨spad, h⟩

section
variable (s : State) (core : Nat) (e : EngCmd)

/-- Cell i of the bank that an MRET retires, converted. -/
def retiredCell (i : Nat) : Nat × FlagSet :=
  retireCell (retType e.cimm) (e.cimm.getLsbD 9) ((bankAt (coreAt s core) (e.cimm.extractLsb' 0 1).toNat).cell i)

/-- Row m of the bank that an MRET retires, as its region takes it. -/
def retiredRow (m : Nat) : List Byte :=
  (List.range 128).flatMap fun n => valueBytes (typeWidth (retType e.cimm) / 8) (retiredCell s core e (m * 128 + n)).1

/-- The region of an MRET with the rows of its bank. -/
def retiredRegion : State :=
  (List.range 128).foldl (fun t m => (cmdRegion e (e.writes.headD 0)).write t e.slot
    (m * (cmdRegion e (e.writes.headD 0)).rowBytes) (retiredRow s core e m)) s

theorem retireBank_eq :
    retireBank s core e = modCrew (retiredRegion s core e) e.slot fun c =>
      if c.crewId = e.crewId then
        { c with mflags := c.mflags ||| ((bankAt (coreAt s core) (e.cimm.extractLsb' 0 1).toNat).flags |||
          orFlags ((List.range 16384).map fun i => (retiredCell s core e i).2)).zeroExtend 64 }
      else c := by
  have hflags : ((List.range 128).map fun m => (List.range 128).map fun n => retiredCell s core e (m * 128 + n)).flatMap
      (fun l => l.map (·.2)) = (List.range 16384).map fun i => (retiredCell s core e i).2 := by
    rw [show (16384 : Nat) = 128 * 128 from rfl, ← flatMap_range_rows (fun i => (retiredCell s core e i).2) 128 128]
    simp [List.flatMap_map, Function.comp_def]
  have hregion : ((List.range 128).map fun m => (List.range 128).map fun n => retiredCell s core e (m * 128 + n)).zipIdx.foldl
      (fun s q => (cmdRegion e (e.writes.headD 0)).write s e.slot (q.2 * (cmdRegion e (e.writes.headD 0)).rowBytes)
        (q.1.flatMap fun v => valueBytes (typeWidth (retType e.cimm) / 8) v.1)) s = retiredRegion s core e := by
    rw [zipIdx_map_range, List.foldl_map]
    simp only [List.flatMap_map]
    rfl
  rw [← hflags, ← hregion]
  rfl

end

/-! #### The effects -/

section
variable {s : State} {core : Nat} {e : EngCmd} {c : Crew}

theorem matrixEffect_mcfg (hc : crewAt s e.slot = some c) (hid : c.crewId = e.crewId) (hk : e.kind = .mcfg) :
    matrixEffect s core e =
      putCrew s e.slot { c with shadow := c.shadow.setIfInBounds (e.cimm.extractLsb' 0 3).toNat e.xa } := by
  simp only [matrixEffect, hk, modCrew_some hc, if_pos hid]

theorem matrixEffect_mcell (hc : crewAt s e.slot = some c) (hid : c.crewId = e.crewId) (hk : e.kind = .mcell) :
    matrixEffect s core e =
      putCrew s e.slot { c with pattern := e.xa, plen := (e.cimm.extractLsb' 0 5).toNat + 1 } := by
  simp only [matrixEffect, hk, modCrew_some hc, if_pos hid]

theorem matrixEffect_mrel (hk : e.kind = .mrel) : matrixEffect s core e = releaseSet s core e.crewId := by
  simp only [matrixEffect, hk]

theorem matrixEffect_mldo (hk : e.kind = .mldo) : matrixEffect s core e = loadLines s core e := by
  simp only [matrixEffect, hk]

theorem matrixEffect_mgo (hk : e.kind = .mgo) : matrixEffect s core e = putCore s core
    ((nestBanks (latchedRows e) (latchedControl e)).foldl (runBank · e ·) (coreAt s core)) := by
  simp only [matrixEffect, hk]

theorem matrixEffect_mret (hk : e.kind = .mret) : matrixEffect s core e = retireBank s core e := by
  simp only [matrixEffect, hk]

/-- The line that an MLDO loads: so many bytes of a row of its region. -/
def loadedLine (s : State) (e : EngCmd) (l bytes : Nat) : Nat :=
  bytesValue ((cmdRegion e (e.reads.headD 0)).read s e.slot (l * (cmdRegion e (e.reads.headD 0)).rowBytes) bytes)

theorem loadLines_slot (h : e.cimm.getLsbD 9 = false) {l : Nat} (hl : l < 128) :
    mapGet (coreAt (loadLines s core e) core).slotLines ((e.cimm.extractLsb' 0 5).toNat * 128 + l) =
      some (BitVec.ofNat 2048 (loadedLine s e l 256)) := by
  unfold loadLines
  rw [coreAt_putCore_same, if_neg (Bool.eq_false_iff.1 h)]
  dsimp only
  rw [mapGet_foldl_mapSet_run _ _ _ hl]
  rfl

theorem loadLines_scale (h : e.cimm.getLsbD 9 = true) {l : Nat} (hl : l < 128) :
    mapGet (coreAt (loadLines s core e) core).scaleLines ((e.cimm.extractLsb' 0 5).toNat * 128 + l) =
      some (BitVec.ofNat 128 (loadedLine s e l 16)) := by
  unfold loadLines
  rw [coreAt_putCore_same, if_pos h]
  dsimp only
  rw [mapGet_foldl_mapSet_run _ _ _ hl]
  rfl

/-- A release on the core that holds the set frees the first of the crew's claims there. -/
theorem releaseSet_first {from_ id : Nat} {before after : List Claim} {q : Claim} (hcore : claimCore s core id = from_)
    (hclaims : (coreAt s from_).claims = before ++ q :: after) (hb : ∀ p ∈ before, ¬(p.crewId = id ∧ p.granted = true))
    (hid : q.crewId = id) (hq : q.granted = true) :
    (coreAt (releaseSet s core id) from_).claims = before ++ after ∧
      ∀ j, j ≠ from_ → coreAt (releaseSet s core id) j = coreAt s j := by
  simp only [releaseSet, hcore]
  refine ⟨?_, fun j hj => coreAt_putCore_other _ _ hj⟩
  rw [coreAt_putCore_same, hclaims]
  exact releaseClaim_first hb hid hq

theorem releaseSet_none {id : Nat} (hcore : claimCore s core id = core)
    (hno : ∀ p ∈ (coreAt s core).claims, ¬(p.crewId = id ∧ p.granted = true)) (j : Nat) :
    coreAt (releaseSet s core id) j = coreAt s j := by
  simp only [releaseSet, hcore]
  rw [releaseClaim_none hno]
  by_cases hj : j = core
  · rw [hj]
    exact coreAt_putCore_same _ _ _
  · rw [coreAt_putCore_other _ _ hj]

end

theorem matrixCommandEffects : MatrixCommandEffects := by
  intro s core e c hc hid k u held
  refine ⟨fun hk => matrixEffect_mcfg hc hid hk, fun hk => matrixEffect_mcell hc hid hk, fun hk => ?_, fun hk l hl => ?_,
    fun hk n hn => ?_, fun hk => ?_⟩
  · have hu : u = releaseSet s core e.crewId := matrixEffect_mrel hk
    rw [hu]
    refine ⟨fun from_ hfrom before q after hclaims hbefore hq hgranted => ?_, fun hno hnone => ?_⟩
    · have hheld : ∃ p ∈ (coreAt s from_).claims, p.crewId = e.crewId ∧ p.granted = true :=
        ⟨q, by rw [hclaims]; exact List.mem_append_right _ List.mem_cons_self, hq, hgranted⟩
      refine releaseSet_first ?_ hclaims hbefore hq hgranted
      obtain rfl | ⟨hno, honly⟩ := hfrom
      · exact claimCore_own hheld
      · exact claimCore_holder hno honly hheld
    · exact releaseSet_none (claimCore_none hno hnone) fun p hp hh => hno ⟨p, hp, hh⟩
  · have hu : u = loadLines s core e := matrixEffect_mldo hk
    rw [hu]
    exact ⟨fun hslot => loadLines_slot hslot hl, fun hscale => loadLines_scale hscale hl⟩
  · have hu : u = putCore s core ((nestBanks (latchedRows e) (latchedControl e)).foldl (runBank · e ·) k) := matrixEffect_mgo hk
    have hbank := bankAt_nest (k := k) (e := e) (latchedRows e) (latchedControl e) hn
    rw [hu, coreAt_putCore_same]
    refine ⟨fun hidle => ?_, fun hmem hsteps => ?_⟩
    · refine hbank.trans (if_neg fun hrun => ?_)
      exact hidle.elim (absurd hrun.1) hrun.2
    · have hnew := hbank.trans (if_pos ⟨hmem, hsteps⟩)
      rw [hnew]
      exact ⟨rfl, rfl, fun i hi => cell_ranBank hi⟩
  · have hu : u = retireBank s core e := matrixEffect_mret hk
    obtain ⟨spad, hspad⟩ : ∃ spad, retiredRegion s core e = { s with spad := spad } := foldl_write_spad _ _ _ _ _ _
    have hc' : crewAt (retiredRegion s core e) e.slot = some c := by
      rw [hspad]
      exact hc
    rw [hu, retireBank_eq, modCrew_some hc', if_pos hid]
    refine ⟨rfl, fun f hf => ?_, ?_, ?_⟩
    · rw [← hf]
      exact crewAt_putCrew_same _ _ _
    · rw [hspad]
      rfl
    · rw [hspad]
      rfl

/-! #### Cells -/

theorem integerCells : IntegerCells := by
  intro k t m n acc steps ht w per x y
  have hcell (l : List NestStep) : (cellResult k t l m n acc).1 =
      l.foldl (fun v q => intUpdate q.op v (x q.a) (y q.b)) acc := by
    unfold cellResult cellResult.isFloat
    rw [ht]
    simp only [Nat.zero_add]
    rfl
  refine ⟨hcell [], fun q => ?_⟩
  have hstep : (cellResult k t (steps ++ [q]) m n acc).1 = intUpdate q.op (cellResult k t steps m n acc).1 (x q.a) (y q.b) := by
    rw [hcell, hcell, List.foldl_append]
    rfl
  rw [hstep]
  refine ⟨fun hop => ?_, fun hop => ?_, fun hop => ?_⟩
  · rw [hop]
    rfl
  · rw [hop]
    rfl
  · obtain ⟨op, hop'⟩ : ∃ op, q.op = op + 2 := ⟨q.op - 2, by omega⟩
    rw [hop']
    rfl

/-- Settles O42: a claim's grant and release on the list of claims, and each command's effect on the lines, banks and region that
it names. -/
theorem matrixCommands : Obligations.MatrixCommands :=
  ⟨claimsAreGranted, matrixCommandsStartAndComplete, matrixCommandEffects, integerCells⟩

end Sys2Proof.Machine
end

/-! ### The bank queue and the kernels it starts -/

section
namespace Sys2Proof.Machine
open Sys2Proof.Claims Sys2Proof.Config

theorem exec_bankQueueCmdStart (core : Nat) (s : State) :
    exec (.bankQueueCmdStart core) s = execBankQueueCmdStart core s := rfl

theorem exec_millGrant (core : Nat) (s : State) : exec (.millGrant core) s = execMillGrant core s := rfl

theorem exec_bqcmdComplete (core id : Nat) (s : State) : exec (.bqcmdComplete core id) s = execBqcmdComplete core id s := rfl

theorem exec_bqloadComplete (core : Nat) (s : State) : exec (.bqloadComplete core) s = execBqloadComplete core s := rfl

theorem exec_winfenceComplete (core : Nat) (s : State) : exec (.winfenceComplete core) s = execWinfenceComplete core s := rfl

/-! #### Starting -/

/-- Beside no command in progress any may start. -/
theorem headMay_idle {c : CoreState} (h : c.bankRun = []) (e : EngCmd) : headMay c e = true := by
  unfold headMay
  split
  · rw [h]
    rfl
  · rw [h]
    rfl

section
variable {s : State} {core : Nat} {e : EngCmd} {rest : List EngCmd}

theorem execBankQueueCmdStart_prepares (hq : (coreAt s core).bankQ = e :: rest) (hr : (coreAt s core).bankRun = [])
    (hheld : e.held = false) (hfrozen : cmdFrozen s e = false) (hready : e.readyAt = none) (hwv : e.wv = false) :
    exec (.bankQueueCmdStart core) s = .next (prepareHead s core { e with consumed := true, started := e.wv }) := by
  have hgo : ¬(e.held || e.readyAt.isSome || (!e.started && cmdFrozen s e) || !headMay (coreAt s core) e) = true := by
    rw [hheld, hready, hfrozen, headMay_idle hr, Bool.and_false]
    decide
  have hi := exec_bankQueueCmdStart core s
  simp only [execBankQueueCmdStart, hq, if_neg hgo, consumeWait_none hwv] at hi
  exact hi

theorem prepareHead_winfence (hk : e.kind = .winfence) :
    prepareHead s core e = putCore s core { coreAt s core with
      bankQ := (coreAt s core).bankQ.tail, bankRun := (coreAt s core).bankRun ++ [{ e with started := true }] } := by
  simp only [prepareHead, hk]

theorem prepareHead_bqload (hk : e.kind = .bqload) : prepareHead s core e = makeReady s core e := by
  simp only [prepareHead, hk]

theorem execMillGrant_grants (hq : (coreAt s core).bankQ = e :: rest) (hr : (coreAt s core).bankRun = [])
    (hready : e.readyAt.isSome = true) (hhold : s.pkg.hold = false) (hmay : mayGrant s core e = true) :
    exec (.millGrant core) s =
      .next (grantMills (putCore s core { coreAt s core with bankQ := rest, bankRun := [e] }) core e) := by
  have hi := exec_millGrant core s
  simp only [execMillGrant, hq, hready, headMay_idle hr, hmay, hhold, hr, List.length_nil, List.nil_append, Bool.not_false,
    Bool.true_or, Bool.and_true, Bool.true_and] at hi
  exact hi.trans (congrArg _ (if_pos rfl))

theorem execMillGrant_waits (hq : (coreAt s core).bankQ = e :: rest) (hready : e.readyAt = none) :
    exec (.millGrant core) s = .next s := by
  have hi := exec_millGrant core s
  simp only [execMillGrant, hq, hready, Option.isSome_none, Bool.false_and, Bool.false_eq_true, if_false] at hi
  exact hi

end

theorem bankQueueCommandsStart : BankQueueCommandsStart := by
  intro s core e rest k hq hr hheld hfrozen
  refine ⟨fun hready hwv => ?_, fun hready hhold hmay => execMillGrant_grants hq hr hready hhold hmay,
    fun hready => execMillGrant_waits hq hready⟩
  have hi := execBankQueueCmdStart_prepares hq hr hheld hfrozen hready hwv
  refine ⟨fun hk => ?_, fun hk => ?_⟩
  · rw [prepareHead_winfence (e := { e with consumed := true, started := e.wv }) hk, show (coreAt s core).bankQ = e :: rest from hq,
      show (coreAt s core).bankRun = [] from hr] at hi
    exact hi
  · rw [prepareHead_bqload (e := { e with consumed := true, started := e.wv }) hk] at hi
    exact hi

/-- The registers of a kernel at its start, by number (Table 11.1). -/
def startMx (e : EngCmd) (i r : Nat) : Word :=
  match r with
  | 1 => e.latch.getD 1 0
  | 2 => e.latch.getD 2 0
  | 3 => e.xb
  | 4 => BitVec.ofNat 64 i
  | _ => 0

theorem kernelStart_mx (v : MillState) (core i : Nat) (e : EngCmd) {r : Nat} (h : r < 16) :
    (kernelStart v core e i).mx[r] = startMx e i r := by
  unfold kernelStart
  rw [Vector.getElem_ofFn]
  rfl

theorem kernelsStartWithTheirRegisters : KernelsStartWithTheirRegisters := by
  intro v core i e hi t
  have hmx (r : Nat) (h : r < 16) := kernelStart_mx v core i e h
  refine ⟨rfl, rfl, rfl, rfl, rfl, hmx 0 _, hmx 1 _, hmx 2 _, hmx 3 _, hmx 4 _, fun r h h5 => ?_, rfl, rfl⟩
  rw [hmx r h]
  obtain ⟨q, rfl⟩ : ∃ q, r = q + 5 := ⟨r - 5, by omega⟩
  rfl

/-! #### Completion -/

section
variable {s : State} {core id : Nat} {e : EngCmd}

theorem execBqcmdComplete_found (hf : (coreAt s core).bankRun.find? (·.id == id) = some e) (hk : e.kind = .bqcmd)
    (hheld : e.held = false) :
    exec (.bqcmdComplete core id) s = .next (
      if !(heldMills s core id).all (·.ended) then s
      else if e.progress = 0 then writeStatus (drainRings (returnBanks s core id)) core e
      else signalRecord s core e) := by
  have hi := exec_bqcmdComplete core id s
  simp only [execBqcmdComplete, hf, hk, hheld, bne_self_eq_false, Bool.false_or] at hi
  exact hi

theorem execBqloadComplete_found (hf : (coreAt s core).bankRun.find? (·.kind == .bqload) = some e) (hheld : e.held = false)
    (w : Worked) (hw : workOn loadCode (2 ^ 20) s e = w) :
    (∀ t d, w = .finished t d → exec (.bqloadComplete core) s = .next (finishCmd t core d)) ∧
      (∀ t d, w = .wait t d → exec (.bqloadComplete core) s = .next (putCmd t core d)) := by
  have hi := exec_bqloadComplete core s
  unfold execBqloadComplete at hi
  simp only [hf, hheld, hw, Bool.false_eq_true, if_false] at hi
  refine ⟨fun t d hd => ?_, fun t d hd => ?_⟩
  · rw [hd] at hi
    exact hi
  · rw [hd] at hi
    exact hi

theorem execWinfenceComplete_found (hf : (coreAt s core).bankRun.find? (·.kind == .winfence) = some e) :
    exec (.winfenceComplete core) s =
      .next (if fenceWaits s e then s else finishCmd (fenceWindows s e.crewId) core e) := by
  have hi := exec_winfenceComplete core s
  simp only [execWinfenceComplete, hf] at hi
  exact hi

theorem writeStatus_silent (h : recStat e.latch = 0) : writeStatus s core e = afterStatus s core e := if_pos h

theorem writeStatus_writes (h : recStat e.latch ≠ 0) {m : Moved Unit}
    (hm : engineWrite s e (recStat e.latch) (wordBytes (bankStatus (heldMills s core e.id))) = m) :
    (∀ t, m = .ok () t → writeStatus s core e = afterStatus t core e) ∧
      (∀ t, m = .wait t → writeStatus s core e = putCmd t core e) ∧
      (∀ t code a, m = .fault code a t → writeStatus s core e = bankFault t core e code a) := by
  unfold writeStatus
  rw [if_neg h, hm]
  exact ⟨fun t h => by rw [h], fun t h => by rw [h], fun t code a h => by rw [h]⟩

theorem execBqcmdComplete_runs (hf : (coreAt s core).bankRun.find? (·.id == id) = some e) (hk : e.kind = .bqcmd)
    (hheld : e.held = false) (hrun : (heldMills s core id).all (·.ended) = false) :
    exec (.bqcmdComplete core id) s = .next s := by
  rw [execBqcmdComplete_found hf hk hheld, hrun, Bool.not_false, if_pos rfl]

theorem execBqcmdComplete_ended (hf : (coreAt s core).bankRun.find? (·.id == id) = some e) (hk : e.kind = .bqcmd)
    (hheld : e.held = false) (hended : (heldMills s core id).all (·.ended) = true) :
    exec (.bqcmdComplete core id) s = .next (
      if e.progress = 0 then writeStatus (drainRings (returnBanks s core id)) core e else signalRecord s core e) := by
  rw [execBqcmdComplete_found hf hk hheld, hended, Bool.not_true, if_neg Bool.false_ne_true]

end

theorem unordered_iff (s : State) (x : Crossing) (me : Nat) :
    x.unordered s me = true ↔ ∃ slot who seq d, x.writer = some (slot, who, seq) ∧ who ≠ me ∧ crewAt s slot = some d ∧
      d.crewId = who ∧ d.released < seq := by
  unfold Crossing.unordered
  cases hw : x.writer with
  | none => simp
  | some w =>
    obtain ⟨slot, who, seq⟩ := w
    cases hc : mapGet s.crews slot with
    | none => simp [crewAt, hc]
    | some d =>
      have hq : (∃ slot' who' seq' d', some (slot, who, seq) = some (slot', who', seq') ∧ who' ≠ me ∧ crewAt s slot' = some d' ∧
          d'.crewId = who' ∧ d'.released < seq') ↔ who ≠ me ∧ d.crewId = who ∧ d.released < seq := by
        constructor
        · rintro ⟨_, _, _, _, hw', hne, hc', hid, hrel⟩
          cases hw'
          cases hc.symm.trans hc'
          exact ⟨hne, hid, hrel⟩
        · rintro ⟨hne, hid, hrel⟩
          exact ⟨slot, who, seq, d, rfl, hne, hc, hid, hrel⟩
      rw [hq]
      simp [hc]

theorem bankQueueCommandsComplete : BankQueueCommandsComplete := by
  intro s core id e
  refine ⟨fun hf hk hheld => ⟨execBqcmdComplete_runs hf hk hheld, fun hended => ⟨fun hp => ?_, fun hp hs => ?_, fun hp hs => ?_⟩⟩,
    fun hf hheld => execBqloadComplete_found hf hheld _ rfl, fun hf => ⟨fun hw => ?_, fun hw => ?_⟩,
    fun x me => unordered_iff s x me⟩
  · rw [execBqcmdComplete_ended hf hk hheld hended, if_neg hp]
  · rw [execBqcmdComplete_ended hf hk hheld hended, if_pos hp, writeStatus_silent hs]
  · have hi := execBqcmdComplete_ended hf hk hheld hended
    rw [if_pos hp] at hi
    obtain ⟨hok, hwait, hfault⟩ := writeStatus_writes (s := drainRings (returnBanks s core id)) (core := core) hs rfl
    exact ⟨fun t ht => hi.trans (congrArg _ (hok t ht)), fun t ht => hi.trans (congrArg _ (hwait t ht)),
      fun t code a ht => hi.trans (congrArg _ (hfault t code a ht))⟩
  · rw [execWinfenceComplete_found hf, if_pos hw]
  · rw [execWinfenceComplete_found hf, if_neg (Bool.eq_false_iff.1 hw)]
    rfl

/-! #### The status word -/

theorem foldl_chan_getLsbD (l : List MillState) (f : BitVec 12) (j : Nat) :
    (l.foldl (fun (f : BitVec 12) v => f ||| v.chan) f).getLsbD j = (f.getLsbD j || l.any fun v => v.chan.getLsbD j) := by
  induction l generalizing f with
  | nil => simp
  | cons v l ih => rw [List.foldl_cons, ih, BitVec.getLsbD_or, List.any_cons, Bool.or_assoc]

/-- The status word is its count above its flags. -/
theorem bankStatus_toNat {l : List MillState} (h : l.length ≤ 512) : ∃ f : BitVec 12,
    f = l.foldl (fun (f : BitVec 12) v => f ||| v.chan) 0 &&& 0xF1F ∧
      (bankStatus l).toNat = 2 ^ 32 * (l.filter endedWell).length + f.toNat := by
  refine ⟨_, rfl, ?_⟩
  have hcount := List.length_filter_le endedWell l
  rw [bankStatus]
  generalize l.foldl (fun (f : BitVec 12) v => f ||| v.chan) 0 &&& 0xF1F = f
  have hf := f.isLt
  rw [BitVec.toNat_or, BitVec.toNat_ofNat, show f.zeroExtend 64 = f.setWidth 64 from rfl, BitVec.toNat_setWidth,
    Nat.mod_eq_of_lt (by omega), Nat.mod_eq_of_lt (by omega), Nat.mul_comm, Nat.two_pow_add_eq_or_of_lt (by omega)]

theorem kernelStatusWord : KernelStatusWord := by
  intro l hl
  have hcount := List.length_filter_le endedWell l
  obtain ⟨f, hf, hw⟩ := bankStatus_toNat hl
  have hlt := f.isLt
  refine ⟨?_, fun j hj => ?_, ?_⟩
  · rw [bits, hw]
    omega
  · have hbit : (bankStatus l).getLsbD j = f.getLsbD j := by
      rw [BitVec.getLsbD, BitVec.getLsbD, hw, Nat.testBit_two_pow_mul_add _ (by omega), if_pos (by omega)]
    have hmask : ∀ i < 12, (0xF1F : BitVec 12).getLsbD i = (decide (i < 5) || decide (8 ≤ i ∧ i < 12)) := by decide
    rw [hbit, hf, BitVec.getLsbD_and, foldl_chan_getLsbD, hmask j hj, BitVec.ofNat_eq_ofNat, BitVec.getLsbD_zero, Bool.false_or]
  · rw [bits, hw]
    omega

/-- Settles O43: the head of an idle queue, a grant, the registers of a kernel, and the end of each kind of command. -/
theorem bankQueueCommands : Obligations.BankQueueCommands :=
  ⟨bankQueueCommandsStart, kernelsStartWithTheirRegisters, bankQueueCommandsComplete, kernelStatusWord⟩

end Sys2Proof.Machine
end

/-! ### The rings of records -/

section
namespace Sys2Proof.Machine
open Sys2Proof.Claims Sys2Proof.Config

/-- The two states differ in local HBM, its controllers, the free values spent, the Reeves' registers and the fabric alone. -/
def OnlyRings (s t : State) : Prop :=
  ∃ hbm crossings free eccPoison eccErr eccce host reeves fabric, t = { s with
    hbm := hbm, crossings := crossings, free := free, eccPoison := eccPoison, eccErr := eccErr
    pkg := { s.pkg with eccce := eccce }, host := host, reeves := reeves, fabric := fabric }

theorem OnlyRings.refl (s : State) : OnlyRings s s :=
  ⟨s.hbm, s.crossings, s.free, s.eccPoison, s.eccErr, s.pkg.eccce, s.host, s.reeves, s.fabric, rfl⟩

theorem OnlyRings.trans {s t u : State} (h : OnlyRings s t) (h' : OnlyRings t u) : OnlyRings s u := by
  obtain ⟨_, _, _, _, _, _, _, _, _, rfl⟩ := h
  obtain ⟨a, b, c, d, e, f, g, i, j, rfl⟩ := h'
  exact ⟨a, b, c, d, e, f, g, i, j, rfl⟩

theorem OnlyHbm.onlyRings {s t : State} (h : OnlyHbm s t) : OnlyRings s t := by
  obtain ⟨a, b, c, d, e, f, rfl⟩ := h
  exact ⟨a, b, c, d, e, f, s.host, s.reeves, s.fabric, rfl⟩

theorem OnlyHost.onlyRings {s t : State} (h : OnlyHost s t) : OnlyRings s t := by
  obtain ⟨a, rfl⟩ := h
  exact ⟨s.hbm, s.crossings, s.free, s.eccPoison, s.eccErr, s.pkg.eccce, a, s.reeves, s.fabric, rfl⟩

theorem putReeve_onlyRings (s : State) (cl : Nat) (r : ReeveState) : OnlyRings s (putReeve s cl r) :=
  ⟨s.hbm, s.crossings, s.free, s.eccPoison, s.eccErr, s.pkg.eccce, s.host, _, s.fabric, rfl⟩

theorem fabric_onlyRings (s : State) (f : Fabric) : OnlyRings s { s with fabric := f } :=
  ⟨s.hbm, s.crossings, s.free, s.eccPoison, s.eccErr, s.pkg.eccce, s.host, s.reeves, _, rfl⟩

/-- A record's bytes at their place in memory. -/
theorem ringWrite_onlyRings (s : State) (a n : Nat) (bs : List Byte) : OnlyRings s (hbmWrite (hostTakes s a n) a bs) :=
  (hostTakes_onlyHost s a n).onlyRings.trans (hbmWrite_onlyHbm _ a bs).onlyRings

theorem drainTrapRing_onlyRings (n : Nat) (s : State) (cl : Nat) : OnlyRings s (drainTrapRing s cl n) := by
  induction n generalizing s with
  | zero => exact .refl s
  | succ n ih =>
    unfold drainTrapRing
    dsimp only
    split
    · exact .refl s
    · split
      · exact .refl s
      · split
        · exact ((ringWrite_onlyRings s _ _ _).trans (putReeve_onlyRings _ _ _)).trans (ih _)
        · exact (hostWaits_onlyHost s _ _).onlyRings

theorem postRecord_onlyRings (s : State) (cl : Nat) (rec : Record) : OnlyRings s (postRecord s cl rec) :=
  (putReeve_onlyRings s _ _).trans (drainTrapRing_onlyRings _ _ _)

theorem drainTrapRings_onlyRings (s : State) : OnlyRings s (drainTrapRings s) :=
  List.foldlRecOn (motive := OnlyRings s) _ _ (.refl s) fun _ ht cl _ => ht.trans (drainTrapRing_onlyRings _ _ cl)

theorem signalEvent_onlyRings (s : State) : OnlyRings s (signalEvent s) := by
  unfold signalEvent
  dsimp only
  split
  · exact .refl s
  · split
    · exact (hostTakes_onlyHost s _ _).onlyRings
    · exact ringWrite_onlyRings s _ _ _

theorem drainEvents_onlyRings (n : Nat) (s : State) : OnlyRings s (drainEvents s n) := by
  induction n generalizing s with
  | zero => exact .refl s
  | succ n ih =>
    unfold drainEvents
    dsimp only
    split
    · exact .refl s
    · split
      · exact (((ringWrite_onlyRings s _ _ _).trans (fabric_onlyRings _ _)).trans (signalEvent_onlyRings _)).trans (ih _)
      · split
        · split
          · exact (hostWaits_onlyHost s _ _).onlyRings
          · exact (hostWaits_onlyHost s _ _).onlyRings.trans (hostWaits_onlyHost _ _ _).onlyRings
        · exact .refl s

theorem drainRings_onlyRings (s : State) : OnlyRings s (drainRings s) :=
  (drainTrapRings_onlyRings s).trans (drainEvents_onlyRings _ _)

section
variable {s t : State}

theorem OnlyRings.mills (h : OnlyRings s t) : t.mills = s.mills := by
  obtain ⟨_, _, _, _, _, _, _, _, _, rfl⟩ := h
  rfl

theorem OnlyRings.crews (h : OnlyRings s t) : t.crews = s.crews := by
  obtain ⟨_, _, _, _, _, _, _, _, _, rfl⟩ := h
  rfl

end

end Sys2Proof.Machine
end

/-! ### The wheel, the watchdog and patrol scrub -/

section
namespace Sys2Proof.Machine
open Sys2Proof.Claims Sys2Proof.Config

theorem exec_millWatchdog (m : Nat) (s : State) : exec (.millWatchdog m) s = execMillWatchdog m s := rfl

theorem exec_wheelSlot (m : Nat) (s : State) : exec (.wheelSlot m) s = execWheelSlot m s := rfl

theorem exec_wheelRevolution (m : Nat) (s : State) : exec (.wheelRevolution m) s = execWheelRevolution m s := rfl

theorem exec_hostReservedService (m bank row : Nat) (s : State) :
    exec (.hostReservedService m bank row) s = execHostReservedService m bank row s := rfl

theorem exec_patrolScrub (stack : Nat) (s : State) : exec (.patrolScrub stack) s = execPatrolScrub stack s := rfl

/-! #### The wheel -/

/-- A Mill as it is put, whatever the rings of records do then. -/
theorem millAt_drainRings_putMill (s : State) (m n : Nat) (v : MillState) :
    millAt (drainRings (spend (putMill s m v) n)) m = v := by
  rw [millAt, (drainRings_onlyRings _).mills]
  exact mapGetD_mapSet_same _ _ _ _

theorem execWheelSlot_turns {s : State} {m : Nat} (hm : m < 512) (hslot : (millAt s m).wheelSlot < 15) :
    ∃ t, exec (.wheelSlot m) s = .next t ∧
      millAt t m = newSlot s.free { millAt s m with wheelSlot := (millAt s m).wheelSlot + 1 } := by
  have hgo : ¬(mills ≤ m ∨ 15 ≤ (millAt s m).wheelSlot) := not_or.2 ⟨Nat.not_le.2 hm, Nat.not_le.2 hslot⟩
  have hi := exec_wheelSlot m s
  unfold execWheelSlot at hi
  dsimp only at hi
  rw [if_neg hgo] at hi
  exact ⟨_, hi, millAt_drainRings_putMill _ _ _ _⟩

theorem execWheelRevolution_turns {s : State} {m : Nat} (hm : m < 512) :
    ∃ t, exec (.wheelRevolution m) s = .next t ∧ millAt t m = newSlot s.free { millAt s m with
      revolution := (millAt s m).revolution + 1, wheelSlot := 0, share := bits s.pkg.msh 4 0 } := by
  have hgo : ¬mills ≤ m := Nat.not_le.2 hm
  have hi := exec_wheelRevolution m s
  unfold execWheelRevolution at hi
  dsimp only at hi
  rw [if_neg hgo] at hi
  exact ⟨_, hi, millAt_drainRings_putMill _ _ _ _⟩

/-! #### Host-reserved service (R276) -/

section
variable {s : State} {m bank row : Nat} {r : Nat × Nat}

theorem oldestRun_waits (h : oldestRun s m = some r) : r ∈ s.host.queue ∧ millOf r.1 = m := by
  refine ⟨List.mem_of_find?_eq_some h, ?_⟩
  have hq := List.find?_some h
  rw [Bool.and_eq_true, beq_iff_eq] at hq
  exact hq.1

theorem execHostReservedService_of (h : oldestRun s m = some r) :
    exec (.hostReservedService m bank row) s = .next (
      if (millAt s m).wheelSlot == 0 && (millAt s m).revolution % 8 == 0 && (millAt s m).service.isNone && memoryAwake s &&
          bankOf r.1 == bank && rowOf r.1 == row then
        drainRings (putMill (serveRuns s (serviceRuns s r)) m { millAt s m with service := some bank })
      else s) := by
  have hi := exec_hostReservedService m bank row s
  simp only [execHostReservedService, h] at hi
  exact hi

/-- One step of the choice of the runs that a service performs: the next one, where sixteen sectors hold it. -/
def serveMore (a : List (Nat × Nat) × Nat) (q : Nat × Nat) : List (Nat × Nat) × Nat :=
  if a.2 + sectorCount q.1 q.2 ≤ 16 then (a.1 ++ [q], a.2 + sectorCount q.1 q.2) else a

/-- The runs that wait for the row of a run. -/
def sameRow (s : State) (r : Nat × Nat) : List (Nat × Nat) :=
  s.host.queue.filter fun q => q != r && millOf q.1 == millOf r.1 && bankOf q.1 == bankOf r.1 && rowOf q.1 == rowOf r.1

theorem serviceRuns_eq (s : State) (r : Nat × Nat) :
    serviceRuns s r = ((sameRow s r).foldl serveMore ([r], sectorCount r.1 r.2)).1 := rfl

/-- A service performs the first run, others of its list, and no more sectors than it holds. -/
theorem foldl_serveMore (l : List (Nat × Nat)) (a : List (Nat × Nat) × Nat) :
    (∀ q ∈ a.1, q ∈ (l.foldl serveMore a).1) ∧ (∀ q ∈ (l.foldl serveMore a).1, q ∈ a.1 ∨ q ∈ l) ∧
      (a.2 = (a.1.map fun q => sectorCount q.1 q.2).sum → a.2 ≤ 16 →
        ((l.foldl serveMore a).1.map fun q => sectorCount q.1 q.2).sum ≤ 16) := by
  induction l generalizing a with
  | nil => exact ⟨fun _ h => h, fun _ h => .inl h, fun hsum hle => hsum ▸ hle⟩
  | cons p l ih =>
    obtain ⟨hkeep, hfrom, hsum⟩ := ih (serveMore a p)
    rw [List.foldl_cons]
    by_cases hp : a.2 + sectorCount p.1 p.2 ≤ 16
    · have hmore : serveMore a p = (a.1 ++ [p], a.2 + sectorCount p.1 p.2) := if_pos hp
      rw [hmore] at hkeep hfrom hsum ⊢
      refine ⟨fun q hq => hkeep q (List.mem_append_left _ hq), fun q hq => ?_, fun h _ => hsum ?_ hp⟩
      · obtain hq' | hq' := hfrom q hq
        · obtain hq'' | hq'' := List.mem_append.1 hq'
          · exact .inl hq''
          · exact .inr (List.mem_cons.2 (.inl (List.mem_singleton.1 hq'')))
        · exact .inr (List.mem_cons_of_mem _ hq')
      · simp [h]
    · have hmore : serveMore a p = a := if_neg hp
      rw [hmore] at hkeep hfrom hsum ⊢
      exact ⟨hkeep, fun q hq => (hfrom q hq).imp_right (List.mem_cons_of_mem _), hsum⟩

end

/-! #### Patrol scrub (R283) -/

theorem mem_setInsert (l : List Nat) (a k : Nat) : k ∈ setInsert l a ↔ k = a ∨ k ∈ l := by
  induction l with
  | nil => simp [setInsert]
  | cons b l ih =>
    rw [setInsert]
    split
    · simp
    · split
      · next h => simp [h]
      · simp only [List.mem_cons, ih]
        exact or_left_comm

section
variable {s : State} {k j : Nat}

theorem mergeSector_poisoned (h : sectorPoisoned s j = true) :
    mergeSector s j = { s with eccPoison := setInsert s.eccPoison j } := if_pos h

theorem mergeSector_sound (h : sectorPoisoned s j = false) :
    mergeSector s j = { s with
      hbm := memWrite s.hbm (32 * j) (delivered s (32 * j) (memRead s.hbm (32 * j) 32)), eccErr := mapErase s.eccErr j } :=
  if_neg (Bool.eq_false_iff.1 h)

/-- The errors that stay are those of the sectors that are not rewritten. -/
theorem mergeSector_other (h : k ≠ j) :
    mapGet (mergeSector s j).eccErr k = mapGet s.eccErr k ∧ ((mergeSector s j).eccPoison.contains k = s.eccPoison.contains k) := by
  cases hp : sectorPoisoned s j with
  | true =>
    rw [mergeSector_poisoned hp]
    refine ⟨rfl, Bool.eq_iff_iff.2 ?_⟩
    simp [mem_setInsert, h]
  | false =>
    rw [mergeSector_sound hp]
    exact ⟨mapGet_mapErase_other _ h, rfl⟩

theorem mergeSector_eccErr_none (h : mapGet s.eccErr k = none) : mapGet (mergeSector s j).eccErr k = none := by
  by_cases hk : k = j
  · subst hk
    cases hp : sectorPoisoned s k with
    | true => rw [mergeSector_poisoned hp]; exact h
    | false => rw [mergeSector_sound hp]; exact mapGet_mapErase_same _ _
  · rw [(mergeSector_other hk).1, h]

theorem mergeSector_keepsPoison (h : s.eccPoison.contains k = true) : (mergeSector s j).eccPoison.contains k = true := by
  cases hp : sectorPoisoned s j with
  | true =>
    rw [mergeSector_poisoned hp]
    simpa [mem_setInsert] using .inr (by simpa using h)
  | false => rw [mergeSector_sound hp]; exact h

theorem mergeSector_frame (s : State) (j : Nat) : (mergeSector s j).eccStuck = s.eccStuck ∧ (mergeSector s j).pkg = s.pkg := by
  cases hp : sectorPoisoned s j with
  | true => rw [mergeSector_poisoned hp]; exact ⟨rfl, rfl⟩
  | false => rw [mergeSector_sound hp]; exact ⟨rfl, rfl⟩

/-- Whether a sector is poisoned depends on its own marks and errors. -/
theorem sectorPoisoned_congr {t : State} (hpoison : t.eccPoison.contains k = s.eccPoison.contains k)
    (herr : mapGet t.eccErr k = mapGet s.eccErr k) (hstuck : t.eccStuck = s.eccStuck) :
    sectorPoisoned t k = sectorPoisoned s k := by
  have herror : sectorError t k = sectorError s k := by simp only [sectorError, mapGetD, herr, hstuck]
  rw [sectorPoisoned, sectorPoisoned, hpoison, herror]

end

/-- What rewriting a list of sectors leaves. -/
theorem foldl_mergeSector (l : List Nat) (s : State) (k : Nat) :
    ((l.foldl mergeSector s).eccStuck = s.eccStuck ∧ (l.foldl mergeSector s).pkg = s.pkg) ∧
      (k ∉ l → mapGet (l.foldl mergeSector s).eccErr k = mapGet s.eccErr k ∧
        (l.foldl mergeSector s).eccPoison.contains k = s.eccPoison.contains k) ∧
      (s.eccPoison.contains k = true → (l.foldl mergeSector s).eccPoison.contains k = true) ∧
      (mapGet s.eccErr k = none → mapGet (l.foldl mergeSector s).eccErr k = none) := by
  induction l generalizing s with
  | nil => exact ⟨⟨rfl, rfl⟩, fun _ => ⟨rfl, rfl⟩, id, id⟩
  | cons j l ih =>
    rw [List.foldl_cons]
    obtain ⟨⟨hstuck, hpkg⟩, hother, hpoison, hnone⟩ := ih (mergeSector s j)
    obtain ⟨hstuck1, hpkg1⟩ := mergeSector_frame s j
    refine ⟨⟨hstuck.trans hstuck1, hpkg.trans hpkg1⟩, fun hk => ?_, fun h => hpoison (mergeSector_keepsPoison h),
      fun h => hnone (mergeSector_eccErr_none h)⟩
    obtain ⟨hj, hl⟩ := not_or.1 (mt List.mem_cons.2 hk)
    obtain ⟨herr1, hp1⟩ := mergeSector_other (s := s) hj
    obtain ⟨herr, hp⟩ := hother hl
    exact ⟨herr.trans herr1, hp.trans hp1⟩

/-- A sound sector of the list is rewritten: its errors are gone. -/
theorem foldl_mergeSector_rewrites {l : List Nat} {s : State} {k : Nat} (hk : k ∈ l) (hs : sectorPoisoned s k = false) :
    mapGet (l.foldl mergeSector s).eccErr k = none := by
  induction l generalizing s with
  | nil => cases hk
  | cons j l ih =>
    rw [List.foldl_cons]
    by_cases hj : k = j
    · subst hj
      refine (foldl_mergeSector l _ k).2.2.2 ?_
      rw [mergeSector_sound hs]
      exact mapGet_mapErase_same _ _
    · obtain ⟨herr, hp⟩ := mergeSector_other (s := s) hj
      refine ih ((List.mem_cons.1 hk).resolve_left hj) ?_
      rw [sectorPoisoned_congr hp herr (mergeSector_frame s j).1, hs]

theorem not_poisoned_of_corrects {s : State} {k : Nat} (h : corrects s k = true) : sectorPoisoned s k = false := by
  unfold corrects at h
  rw [Bool.and_eq_true, Bool.not_eq_true'] at h
  rw [sectorPoisoned, h.1, Bool.false_or]
  refine decide_eq_false fun hv => ?_
  rw [hv] at h
  exact Bool.false_ne_true h.2

/-- The sectors that the scrubber rewrites in a stack. -/
def scrubbed (s : State) (stack : Nat) : List Nat :=
  (s.eccErr.map (·.1)).filter fun k => k / 0x60000000 == stack && corrects s k

theorem scrubStack_eq (s : State) (stack : Nat) : scrubStack s stack = (scrubbed s stack).foldl mergeSector s := rfl

theorem mapGet_none_of_not_mem {α : Type} {m : FMap α} {k : Nat} (h : k ∉ m.map (·.1)) : mapGet m k = none := by
  cases hg : mapGet m k with
  | none => rfl
  | some v => exact absurd (List.mem_map.2 ⟨_, mem_of_mapGet hg, rfl⟩) h

theorem scrubStack_rewrites {s : State} {stack k : Nat} (hk : k / 0x60000000 = stack) (hc : corrects s k = true) :
    mapGet (scrubStack s stack).eccErr k = none := by
  rw [scrubStack_eq]
  by_cases hmem : k ∈ s.eccErr.map (·.1)
  · refine foldl_mergeSector_rewrites (List.mem_filter.2 ⟨hmem, ?_⟩) (not_poisoned_of_corrects hc)
    rw [hc, Bool.and_true]
    exact beq_iff_eq.2 hk
  · exact (foldl_mergeSector _ s k).2.2.2 (mapGet_none_of_not_mem hmem)

/-- A sector that the scrubber does not rewrite is none of its list. -/
theorem not_mem_scrubbed {s : State} {stack k : Nat} (h : k / 0x60000000 ≠ stack ∨ corrects s k = false) :
    k ∉ scrubbed s stack := by
  intro hmem
  have hq := (List.mem_filter.1 hmem).2
  rw [Bool.and_eq_true, beq_iff_eq] at hq
  obtain h | h := h
  · exact h hq.1
  · exact Bool.false_ne_true (h.symm.trans hq.2)

theorem scrubStack_keepsPoison {s : State} {stack k : Nat} (h : sectorPoisoned s k = true) :
    sectorPoisoned (scrubStack s stack) k = true := by
  have hno : corrects s k = false := by
    cases hc : corrects s k with
    | false => rfl
    | true => exact absurd (h.symm.trans (not_poisoned_of_corrects hc)) (by decide)
  obtain ⟨⟨hstuck, -⟩, hother, -, -⟩ := foldl_mergeSector (scrubbed s stack) s k
  obtain ⟨herr, hp⟩ := hother (not_mem_scrubbed (.inr hno))
  rw [scrubStack_eq, sectorPoisoned_congr hp herr hstuck, h]

/-- Settles O44: the watchdog and the wheel on their Mill, the service of the oldest run, and the scrubber sector by sector. -/
theorem wheelWatchdogAndScrub : Obligations.WheelWatchdogAndScrub := by
  intro s m bank row stack v
  refine ⟨fun hrun => ?_, fun hrun => ?_, fun hm hslot => ?_, fun hm => ?_, fun hnone => ?_, fun r hr => ?_, fun hsleep => ?_,
    fun hawake => ?_⟩
  · rw [exec_millWatchdog, execMillWatchdog, if_pos hrun]
  · rw [exec_millWatchdog, execMillWatchdog, if_neg (Bool.eq_false_iff.1 hrun)]
  · obtain ⟨t, ht, hmill⟩ := execWheelSlot_turns hm hslot
    refine ⟨t, ht, ?_⟩
    rw [hmill]
    exact ⟨rfl, rfl, rfl, rfl, rfl, rfl, rfl⟩
  · obtain ⟨t, ht, hmill⟩ := execWheelRevolution_turns (s := s) hm
    refine ⟨t, ht, ?_⟩
    rw [hmill]
    exact ⟨rfl, rfl, rfl, rfl, rfl⟩
  · rw [exec_hostReservedService, execHostReservedService]
    simp only [hnone]
  · have hi := execHostReservedService_of (bank := bank) (row := row) hr
    obtain ⟨hfirst, hfrom, hsum⟩ := foldl_serveMore (sameRow s r) ([r], sectorCount r.1 r.2)
    refine ⟨oldestRun_waits hr, fun hslot hrev hservice hawake hbank hrow => ?_, fun hno => ?_, hfirst r List.mem_cons_self,
      fun q hq => ?_, fun hle => hsum (by simp) hle⟩
    · rw [if_pos] at hi
      · exact hi
      · simp [show (millAt s m).wheelSlot = 0 from hslot, show (millAt s m).revolution % 8 = 0 from hrev,
          show (millAt s m).service = none from hservice, hawake, hbank, hrow]
    · rw [if_neg] at hi
      · exact hi
      · simp only [Bool.and_eq_true, beq_iff_eq, Option.isNone_iff_eq_none]
        rintro ⟨⟨⟨⟨⟨hslot, hrev⟩, hservice⟩, -⟩, hbank⟩, hrow⟩
        obtain h | h | h | h | h := hno
        · exact h hslot
        · exact h hrev
        · rw [show v.service = none from hservice] at h
          exact Bool.false_ne_true h
        · exact h hbank
        · exact h hrow
    · obtain hq' | hq' := hfrom q hq
      · exact .inl (List.mem_singleton.1 hq')
      · obtain ⟨hqueue, htest⟩ := List.mem_filter.1 hq'
        simp only [Bool.and_eq_true, beq_iff_eq] at htest
        exact .inr ⟨hqueue, htest.1.1.2, htest.1.2, htest.2⟩
  · rw [exec_patrolScrub, execPatrolScrub, if_neg (Bool.eq_false_iff.1 hsleep)]
  · refine ⟨scrubStack s stack, ?_, fun k hk hc => scrubStack_rewrites hk hc, fun k hk => ?_, ?_, ?_,
      fun k hk => scrubStack_keepsPoison hk⟩
    · rw [exec_patrolScrub, execPatrolScrub, if_pos hawake]
    · exact ((foldl_mergeSector _ s k).2.1 (not_mem_scrubbed hk)).1
    · exact (foldl_mergeSector _ s 0).1.1
    · exact (foldl_mergeSector _ s 0).1.2

end Sys2Proof.Machine
end

/-! ### Porter commands, their responses, and the requests that are served -/

section
namespace Sys2Proof.Machine
open Sys2Proof.Claims Sys2Proof.Config

theorem exec_porterCmdStart (core : Nat) (s : State) : exec (.porterCmdStart core) s = execPorterCmdStart core s := rfl

theorem exec_porterCmdComplete (core id : Nat) (s : State) :
    exec (.porterCmdComplete core id) s = execPorterCmdComplete core id s := rfl

theorem exec_fabricResponse (n : Nat) (s : State) : exec (.fabricResponse n) s = execFabricResponse n s := rfl

theorem exec_fabricTimeout (tag : Nat) (s : State) : exec (.fabricTimeout tag) s = execFabricTimeout tag s := rfl

/-! #### Start and completion (R363, R372) -/

section
variable {s : State} {core id : Nat} {e : EngCmd} {rest : List EngCmd}

theorem execPorterCmdStart_starts (hq : (coreAt s core).portQ = e :: rest) (hroom : (coreAt s core).portRun.length < 8)
    (hfrozen : cmdFrozen s e = false) (hmay : porterMay s (coreAt s core) e = true) (hwv : e.wv = false) :
    let d := { e with consumed := true, started := true }
    let s1 := spend (putCore s core { coreAt s core with portQ := rest, portRun := (coreAt s core).portRun ++ [d] }) 1
    exec (.porterCmdStart core) s =
      .next (if !isReeve e.slot && freeBit s.free || porterWaits s1 d then s1 else workCmd core (porterWork core) s1 d) := by
  have hgo : ¬(decide (8 ≤ (coreAt s core).portRun.length) || cmdFrozen s e || !porterMay s (coreAt s core) e) = true := by
    rw [decide_eq_false (Nat.not_le.2 hroom), hfrozen, hmay]
    decide
  have hi := exec_porterCmdStart core s
  simp only [execPorterCmdStart, hq, if_neg hgo, consumeWait_none hwv, List.tail_cons] at hi
  exact hi

theorem execPorterCmdStart_full (hq : (coreAt s core).portQ = e :: rest) (hfull : 8 ≤ (coreAt s core).portRun.length) :
    exec (.porterCmdStart core) s = .next s := by
  have hi := exec_porterCmdStart core s
  simp only [execPorterCmdStart, hq, decide_eq_true hfull, Bool.true_or, if_true] at hi
  exact hi

theorem execPorterCmdComplete_found (hf : (coreAt s core).portRun.find? (·.id == id) = some e) (hheld : e.held = false) :
    (e.worked = false → porterWaits s e = false →
      exec (.porterCmdComplete core id) s = .next (workCmd core (porterWork core) s e)) ∧
      (e.worked = true → e.kind ∈ [EngKind.fld, .fst, .fget, .fput, .ffadd, .fmcast, .fsig] →
        exec (.porterCmdComplete core id) s = .next (if unanswered s core id then s else finishCmd s core e)) := by
  have hi := exec_porterCmdComplete core id s
  simp only [execPorterCmdComplete, hf, hheld, Bool.false_eq_true, if_false] at hi
  refine ⟨fun hw hwait => ?_, fun hw hk => ?_⟩
  · simp only [hw, hwait, Bool.not_false, if_true, Bool.false_eq_true, if_false] at hi
    exact hi
  · simp only [hw, Bool.not_true, Bool.false_eq_true, if_false] at hi
    rw [hi]
    simp only [List.mem_cons, List.not_mem_nil, or_false] at hk
    obtain h | h | h | h | h | h | h := hk
    all_goals rw [h]

end

theorem porterCommandsStartAndComplete : PorterCommandsStartAndComplete := by
  intro s core id e rest k
  refine ⟨fun hq hroom hfrozen hmay hwv => ?_, fun hq hfull => execPorterCmdStart_full hq hfull, fun hf hheld => ?_⟩
  · refine (execPorterCmdStart_starts hq hroom hfrozen hmay hwv).trans (congrArg _ (ite_of_iff ?_ rfl rfl))
    rw [Bool.or_eq_true, Bool.and_eq_true, Bool.not_eq_true']
  · obtain ⟨hwork, hdone⟩ := execPorterCmdComplete_found hf hheld
    refine ⟨hwork, fun hw hk => ⟨fun hu => ?_, fun hu => ?_⟩⟩
    · rw [hdone hw hk, if_pos hu]
    · rw [hdone hw hk, if_neg (Bool.eq_false_iff.1 hu)]

/-! #### Responses (R371) -/

section
variable {s : State} {n tag : Nat} {m : Msg} {o : Outstanding} {e : EngCmd}

theorem execFabricResponse_unasked (hhold : s.pkg.hold = false) (hm : s.fabric.responses[n]? = some m)
    (ha : answered s m = none) : exec (.fabricResponse n) s = .next (takeResponse s n) := by
  have hi := exec_fabricResponse n s
  simp only [execFabricResponse, hhold, hm, ha, Bool.false_eq_true, if_false] at hi
  exact hi

/-- A response to the request of a command in progress. -/
theorem execFabricResponse_cmd (hhold : s.pkg.hold = false) (hm : s.fabric.responses[n]? = some m) (ha : answered s m = some o)
    (hacc : o.access = none) (hcmd : o.cmd = some e.id) (hheld : e.held = false)
    (hf : (coreAt s o.core).portRun.find? (·.id == e.id) = some e) {t : State} (ht : answerCmd s o.core e o m = some t) :
    exec (.fabricResponse n) s = .next (if t.fabric.outstanding.contains o then t else takeResponse t n) := by
  have hi := exec_fabricResponse n s
  simp only [execFabricResponse, hhold, hm, ha, hacc, hcmd, Option.bind_some, hf, hheld, ht, Bool.false_eq_true, if_false] at hi
  exact hi

theorem execFabricResponse_device (hhold : s.pkg.hold = false) (hm : s.fabric.responses[n]? = some m)
    (ha : answered s m = some o) (hacc : o.access = none) (hcmd : o.cmd = none) :
    exec (.fabricResponse n) s = .next (takeResponse (dropRequest (answerLent s o.tag m.stat m.data m.opnd) o) n) := by
  have hi := exec_fabricResponse n s
  simp only [execFabricResponse, hhold, hm, ha, hacc, hcmd, Option.bind_none, Bool.false_eq_true, if_false] at hi
  exact hi

theorem answerCmd_delivers {t : State} (hstat : m.stat = 0) (ht : takeAnswer s e o m = .ok () t) :
    answerCmd s o.core e o m = some (dropRequest t o) := by
  simp only [answerCmd, hstat, ht]

theorem takeAnswer_fst (hk : e.kind = .fst) : takeAnswer s e o m = .ok () s := by
  simp only [takeAnswer, hk]

theorem takeAnswer_fld (hk : e.kind = .fld) :
    takeAnswer s e o m = .ok () (regionPut s e (porterRegion e) (some o.place) (m.data.take o.len)) := by
  simp only [takeAnswer, hk]

theorem execFabricTimeout_device (hf : s.fabric.outstanding.find? (·.tag == tag) = some o) (hacc : o.access = none)
    (hcmd : o.cmd = none) : exec (.fabricTimeout tag) s = .next (dropRequest (answerLent s tag 5 [] 0) o) := by
  have hi := exec_fabricTimeout tag s
  simp only [execFabricTimeout, hf, hacc, hcmd, Option.bind_none] at hi
  exact hi

theorem execFabricTimeout_cmd (hf : s.fabric.outstanding.find? (·.tag == tag) = some o) (hacc : o.access = none)
    (hcmd : o.cmd = some e.id) (he : (coreAt s o.core).portRun.find? (·.id == e.id) = some e) :
    exec (.fabricTimeout tag) s = .next (remoteStop s o.core e 0x30 o.raddr) := by
  have hi := exec_fabricTimeout tag s
  simp only [execFabricTimeout, hf, hacc, hcmd, Option.bind_some, he] at hi
  exact hi

end

theorem responsesAnswerRequests : ResponsesAnswerRequests := by
  intro s n tag m o e hhold
  refine ⟨fun hm ha => execFabricResponse_unasked hhold hm ha, fun hm ha hacc hcmd hheld hf hk hstat hgone => ?_,
    fun hm ha hacc hcmd hheld hf hk hstat t ht hgone => ?_, fun hm ha hacc hcmd hheld hf hstat => ?_,
    fun hm ha hacc hcmd => execFabricResponse_device hhold hm ha hacc hcmd,
    fun hf hacc hcmd => execFabricTimeout_device hf hacc hcmd,
    fun hf hacc hcmd he => execFabricTimeout_cmd hf hacc hcmd he⟩
  · rw [execFabricResponse_cmd hhold hm ha hacc hcmd hheld hf (answerCmd_delivers hstat (takeAnswer_fst hk)),
      if_neg (Bool.eq_false_iff.1 hgone)]
  · rw [execFabricResponse_cmd hhold hm ha hacc hcmd hheld hf (answerCmd_delivers hstat (takeAnswer_fld hk)), ← ht,
      if_neg (Bool.eq_false_iff.1 hgone)]
  · refine execFabricResponse_cmd hhold hm ha hacc hcmd hheld hf ?_
    unfold answerCmd
    rcases hs : m.stat with _ | _ | _ | _ | st
    · exact absurd hs hstat
    all_goals rfl

/-- Settles O45: the head of the Porter's queue, a command in progress, and what answers a request. -/
theorem porterCommandsAndResponses : Obligations.PorterCommandsAndResponses :=
  ⟨porterCommandsStartAndComplete, responsesAnswerRequests⟩

/-! #### Requests of other packages (R370) -/

theorem exec_fabricRead (n : Nat) (s : State) : exec (.fabricRead n) s = execFabricRead n s := rfl

theorem exec_fabricWrite (n : Nat) (s : State) : exec (.fabricWrite n) s = execFabricWrite n s := rfl

theorem exec_fabricFadd (n : Nat) (s : State) : exec (.fabricFadd n) s = execFabricFadd n s := rfl

theorem exec_fabricSignal (n : Nat) (s : State) : exec (.fabricSignal n) s = execFabricSignal n s := rfl

theorem exec_fabricMwrite (n : Nat) (s : State) : exec (.fabricMwrite n) s = execFabricMwrite n s := rfl

theorem exec_physicalLentAccess (n : Nat) (s : State) :
    exec (.physicalLentAccess n) s = execPhysicalLentAccess n s := rfl

section
variable {s s1 : State} {n opc : Nat} {m : Msg} {t : Target} {kind : AccessKind} {size : Msg → Nat}
  {f : State → Msg → Target → State}

theorem requestAt_some (hm : s.fabric.inbox[n]? = some m) (hphy : m.phy = false) (hopc : m.opc = opc) :
    requestAt s n opc = some m := by
  simp [requestAt, hm, hphy, hopc]

theorem serve_refuses (hr : requestAt s n opc = some m) (ht : servedTarget s m kind = (none, s1)) :
    serve n opc kind size s f = .next (respond (takeRequest s1 n) m 1 [] 0) := by
  simp only [serve, hr, ht]

theorem serve_waits (hr : requestAt s n opc = some m) (ht : servedTarget s m kind = (some t, s1)) (hhold : s1.pkg.hold = false)
    (hmay : targetMay s1 t (size m) = false) : serve n opc kind size s f = .next (targetWaits s1 t (size m)) := by
  simp only [serve, hr, ht, hhold, hmay, Bool.false_eq_true, if_false]

theorem serve_performs (hr : requestAt s n opc = some m) (ht : servedTarget s m kind = (some t, s1))
    (hhold : s1.pkg.hold = false) (hmay : targetMay s1 t (size m) = true) :
    serve n opc kind size s f = .next (f (takeRequest s1 n) m t) := by
  simp only [serve, hr, ht, hhold, hmay, Bool.false_eq_true, if_false, if_true]

end

section
variable {s : State} {m : Msg} {t : Target}

theorem serveAdd_clean (hp : targetPoison s t (addBytes m) = none) :
    serveAdd s m t = respond (targetWrite (afterTarget s t (addBytes m)) t (valueBytes (addBytes m)
      (fabricSum m.ty (bytesValue (targetBytes s t (addBytes m))) m.opnd.toNat))) m 0 []
      (BitVec.ofNat 64 (bytesValue (targetBytes s t (addBytes m)))) := by
  simp only [serveAdd, hp, Option.isSome_none, Bool.false_eq_true, if_false]

theorem serveSignal_clean (hp : targetPoison s t 8 = none) :
    serveSignal s m t =
      if bytesWord (targetBytes s t 8) = BitVec.allOnes 64 then
        respond (afterTarget s t 8) m 4 [] (bytesWord (targetBytes s t 8))
      else respond (targetWrite (afterTarget s t 8) t (wordBytes (bytesWord (targetBytes s t 8) + 1))) m 0 []
        (bytesWord (targetBytes s t 8)) := by
  simp only [serveSignal, hp, Option.isSome_none, Bool.false_eq_true, if_false]

end

theorem remoteRequestsAreServed : RemoteRequestsAreServed := by
  intro s s1 n m t hm hphy hhold size kind event bs taken i hi
  have hcases : (m.opc = 1 ∧ i = .fabricRead n) ∨ (m.opc = 2 ∧ i = .fabricWrite n) ∨ (m.opc = 3 ∧ i = .fabricFadd n) ∨
      (m.opc = 4 ∧ i = .fabricSignal n) ∨ (m.opc = 5 ∧ i = .fabricMwrite n) := by
    simp only [event] at hi
    split at hi
    · next h => exact .inl ⟨h, (Option.some.inj hi).symm⟩
    · next h => exact .inr (.inl ⟨h, (Option.some.inj hi).symm⟩)
    · next h => exact .inr (.inr (.inl ⟨h, (Option.some.inj hi).symm⟩))
    · next h => exact .inr (.inr (.inr (.inl ⟨h, (Option.some.inj hi).symm⟩)))
    · next h => exact .inr (.inr (.inr (.inr ⟨h, (Option.some.inj hi).symm⟩)))
    · cases hi
  have hserve {opc : Nat} {kind' : AccessKind} {size' : Msg → Nat} {f : State → Msg → Target → State} (hopc : m.opc = opc)
      (hk : kind = kind') (hz : size = size' m) (hexec : exec i s = serve n opc kind' size' s f) :
      (servedTarget s m kind = (none, s1) → exec i s = .next (respond taken m 1 [] 0)) ∧
        (servedTarget s m kind = (some t, s1) → s1.pkg.hold = false → targetMay s1 t size = false →
          exec i s = .next (targetWaits s1 t size)) ∧
        (servedTarget s m kind = (some t, s1) → s1.pkg.hold = false → targetMay s1 t size = true →
          exec i s = .next (f taken m t)) := by
    have hreq := requestAt_some hm hphy hopc
    rw [hk, hz, hexec]
    exact ⟨serve_refuses hreq, serve_waits hreq, serve_performs hreq⟩
  obtain ⟨hopc, rfl⟩ | ⟨hopc, rfl⟩ | ⟨hopc, rfl⟩ | ⟨hopc, rfl⟩ | ⟨hopc, rfl⟩ := hcases
  · have hsize : size = m.len := by simp [size, hopc]
    obtain ⟨hrefuse, hwait, hperform⟩ := hserve hopc (by simp [kind, hopc]) hsize (exec_fabricRead n s)
    refine ⟨hrefuse, hwait, fun ht hh hmay _ hp => ⟨fun _ => ?_, by simp [hopc], by simp [hopc], by simp [hopc]⟩⟩
    have hp' : targetPoison taken t m.len = none := hsize ▸ hp
    rw [hperform ht hh hmay, hp', hsize]
    simp only [bs, hsize]
    rfl
  · obtain ⟨hrefuse, hwait, hperform⟩ := hserve hopc (by simp [kind, hopc]) (by simp [size, hopc]) (exec_fabricWrite n s)
    exact ⟨hrefuse, hwait, fun ht hh hmay _ _ => ⟨by simp [hopc], fun _ => hperform ht hh hmay, by simp [hopc], by simp [hopc]⟩⟩
  · have hsize : size = addBytes m := by simp [size, hopc, addBytes]
    obtain ⟨hrefuse, hwait, hperform⟩ := hserve hopc (by simp [kind, hopc]) hsize (exec_fabricFadd n s)
    refine ⟨hrefuse, hwait, fun ht hh hmay _ hp => ⟨by simp [hopc], by simp [hopc], fun _ => ?_, by simp [hopc]⟩⟩
    have hp' : targetPoison taken t (addBytes m) = none := hsize ▸ hp
    rw [hperform ht hh hmay, serveAdd_clean hp', ← hsize]
    rfl
  · have hsize : size = 8 := by simp [size, hopc]
    obtain ⟨hrefuse, hwait, hperform⟩ := hserve hopc (by simp [kind, hopc]) hsize (exec_fabricSignal n s)
    refine ⟨hrefuse, hwait, fun ht hh hmay _ hp => ⟨by simp [hopc], by simp [hopc], by simp [hopc], fun _ => ?_⟩⟩
    have hp' : targetPoison taken t 8 = none := hsize ▸ hp
    have hbs : bs = targetBytes taken t 8 := congrArg (targetBytes s1 t) hsize
    rw [hperform ht hh hmay, serveSignal_clean hp', ← hbs]
    exact ⟨fun hne => congrArg _ (if_neg hne), fun heq => congrArg _ (if_pos heq)⟩
  · obtain ⟨hrefuse, hwait, hperform⟩ := hserve hopc (by simp [kind, hopc]) (by simp [size, hopc]) (exec_fabricMwrite n s)
    exact ⟨hrefuse, hwait, fun ht hh hmay _ _ => ⟨by simp [hopc], fun _ => hperform ht hh hmay, by simp [hopc], by simp [hopc]⟩⟩

/-! #### Requests of borrowers (R380) -/

section
variable {s : State} {n : Nat} {m : Msg} {t : Target}

theorem execPhysicalLentAccess_faults {f : BitVec 8} (hm : s.fabric.inbox[n]? = some m) (hphy : m.phy = true)
    (hf : physicalTarget (BitVec.ofNat 64 m.addr) = .error f) :
    exec (.physicalLentAccess n) s = .next (respond (takeRequest s n) m 2 [] 0) := by
  have hi := exec_physicalLentAccess n s
  simp only [execPhysicalLentAccess, hm, hphy, hf, Bool.not_true, Bool.false_eq_true, if_false] at hi
  exact hi

theorem execPhysicalLentAccess_reaches (hm : s.fabric.inbox[n]? = some m) (hphy : m.phy = true)
    (ht : physicalTarget (BitVec.ofNat 64 m.addr) = .ok t) :
    exec (.physicalLentAccess n) s = .next (
      if !(m.accepted || lentTo s m) then respond (takeRequest s n) m 2 [] 0
      else if !s.pkg.hold && targetMay s t (requestBytes m) then performRequest (takeRequest s n) m t
      else
        let w := if s.pkg.hold then s else targetWaits s t (requestBytes m)
        { w with fabric := { w.fabric with inbox := w.fabric.inbox.set n { m with accepted := true } } }) := by
  have hi := exec_physicalLentAccess n s
  simp only [execPhysicalLentAccess, hm, hphy, ht, Bool.not_true, Bool.false_eq_true, if_false] at hi
  exact hi

theorem performRequest_lent (h : m.opc = lentOpc) : performRequest s m t = serveLent s m t := by
  have hbig : 32 ≤ m.opc := h ▸ Nat.le_add_right _ _
  unfold performRequest
  split
  · omega
  · omega
  · omega
  · omega
  · omega
  · exact if_pos h

/-- The answer of a lent operation that writes, or that leaves its bytes. -/
def lentPut (s : State) (m : Msg) (t : Target) (v : Nat) : State :=
  respond (targetWrite (afterTarget s t m.len) t (valueBytes m.len v)) m 0 []
    (BitVec.ofNat 64 (bytesValue (targetBytes s t m.len)))

def lentKeep (s : State) (m : Msg) (t : Target) (stat : Nat) : State :=
  respond (afterTarget s t m.len) m stat [] (BitVec.ofNat 64 (bytesValue (targetBytes s t m.len)))

theorem not_isSome_of_none {α : Type} {o : Option α} (h : o = none) : ¬o.isSome = true := by
  rw [h, Option.isSome_none]
  decide

theorem serveLent_take (hp : targetPoison s t m.len = none) (hc : m.cnt = 9) :
    serveLent s m t =
      if bytesValue (targetBytes s t m.len) = 0 then lentKeep s m t 0
      else lentPut s m t (bytesValue (targetBytes s t m.len) - 1) := by
  simp only [serveLent, if_neg (not_isSome_of_none hp), hc]
  rfl

theorem serveLent_signal (hp : targetPoison s t m.len = none) (hc : m.cnt = 10) :
    serveLent s m t =
      if 2 ^ 64 ≤ bytesValue (targetBytes s t m.len) + m.opnd.toNat then lentKeep s m t 4
      else lentPut s m t (bytesValue (targetBytes s t m.len) + m.opnd.toNat) := by
  unfold serveLent
  rw [if_neg (not_isSome_of_none hp)]
  split
  · omega
  · rfl
  · next _ hno => exact absurd hc hno

theorem serveLent_atomic (hp : targetPoison s t m.len = none) (hc : m.cnt < 9) {w : Option Nat}
    (hw : atomicNew (BitVec.ofNat 4 m.cnt) (BitVec.ofNat 4 m.ty) (bytesValue (targetBytes s t m.len))
      (m.opnd.toNat % 2 ^ (8 * m.len)) (bytesValue (m.data.take m.len)) = w) :
    (∀ v, w = some v → serveLent s m t = lentPut s m t v) ∧ (w = none → serveLent s m t = lentKeep s m t 0) := by
  unfold serveLent
  rw [if_neg (not_isSome_of_none hp)]
  split
  · omega
  · omega
  · dsimp only
    rw [hw]
    exact ⟨fun v hv => by rw [hv]; rfl, fun hv => by rw [hv]; rfl⟩

end

theorem lentMemoryIsServed : LentMemoryIsServed := by
  intro s n m hm hphy
  refine ⟨fun f hf => execPhysicalLentAccess_faults hm hphy hf, fun t ht => ⟨fun hacc hlent => ?_, fun hserves => ⟨fun hh hmay => ?_,
    fun hh => ?_, fun hh hmay => ?_⟩, fun hopc hp => ?_⟩⟩
  · rw [execPhysicalLentAccess_reaches hm hphy ht, hacc, hlent, Bool.or_self, Bool.not_false, if_pos rfl]
  · rw [execPhysicalLentAccess_reaches hm hphy ht, hserves, hh, hmay, Bool.not_true, if_neg Bool.false_ne_true, Bool.not_false,
      Bool.and_self, if_pos rfl]
  · rw [execPhysicalLentAccess_reaches hm hphy ht, hserves, hh, Bool.not_true, if_neg Bool.false_ne_true, Bool.false_and,
      if_neg Bool.false_ne_true, if_pos rfl]
  · rw [execPhysicalLentAccess_reaches hm hphy ht, hserves, hh, hmay, Bool.not_true, if_neg Bool.false_ne_true, Bool.not_false,
      Bool.and_false, if_neg Bool.false_ne_true, if_neg Bool.false_ne_true]
  · rw [performRequest_lent hopc]
    refine ⟨fun hc => ⟨fun hne => ?_, fun hz => ?_⟩, fun hc => ⟨fun hlt => ?_, fun hge => ?_⟩, fun hc => ?_⟩
    · exact (serveLent_take hp hc).trans (if_neg hne)
    · exact (serveLent_take hp hc).trans (if_pos hz)
    · exact (serveLent_signal hp hc).trans (if_neg (Nat.not_le.2 hlt))
    · exact (serveLent_signal hp hc).trans (if_pos hge)
    · split
      · next v hv => exact (serveLent_atomic hp hc hv).1 v rfl
      · next hv => exact (serveLent_atomic hp hc hv).2 rfl

/-- Settles O46: a request of another package through the one law of serving, and a borrower's at the memory port. -/
theorem remoteAndLentRequestsAreServed : Obligations.RemoteAndLentRequestsAreServed :=
  ⟨remoteRequestsAreServed, lentMemoryIsServed⟩

end Sys2Proof.Machine
end

/-! ### The router, leases and their events -/

section
namespace Sys2Proof.Machine
open Sys2Proof.Claims Sys2Proof.Config

theorem exec_flitReceive (p : Nat) (f : Flit) (s : State) : exec (.flitReceive p f) s = execFlitReceive p f s := rfl

theorem exec_slotTick (s : State) : exec .slotTick s = execSlotTick s := rfl

theorem exec_frameStart (s : State) : exec .frameStart s = execFrameStart s := rfl

theorem exec_combineWindowExpire (n : Nat) (s : State) :
    exec (.combineWindowExpire n) s = execCombineWindowExpire n s := rfl

theorem exec_routerErrorRecovery (s : State) : exec .routerErrorRecovery s = execRouterErrorRecovery s := rfl

/-! #### What a slot of the router changes -/

/-- The two states differ in the router's ports and tables and in the numbers taken alone: the frame, the slot and the bank in
force stand. -/
def OnlyRouter (s t : State) : Prop :=
  ∃ fabric stamp, t = { s with fabric := fabric, stamp := stamp } ∧ fabric.frame = s.fabric.frame ∧
    fabric.slot = s.fabric.slot ∧ fabric.act = s.fabric.act

theorem OnlyRouter.refl (s : State) : OnlyRouter s s := ⟨s.fabric, s.stamp, rfl, rfl, rfl, rfl⟩

theorem OnlyRouter.trans {s t u : State} (h : OnlyRouter s t) (h' : OnlyRouter t u) : OnlyRouter s u := by
  obtain ⟨_, _, rfl, hf, hs, ha⟩ := h
  obtain ⟨f', n', rfl, hf', hs', ha'⟩ := h'
  exact ⟨f', n', rfl, hf'.trans hf, hs'.trans hs, ha'.trans ha⟩

theorem foldl_onlyRouter {α : Type} {f : State → α → State} (hf : ∀ s a, OnlyRouter s (f s a)) (l : List α) (s : State) :
    OnlyRouter s (l.foldl f s) :=
  List.foldlRecOn (motive := OnlyRouter s) l f (.refl s) fun _ ht a _ => ht.trans (hf _ a)

theorem putPort_onlyRouter (s : State) (p : Nat) (l : LinkPort) : OnlyRouter s (putPort s p l) :=
  ⟨_, s.stamp, rfl, rfl, rfl, rfl⟩

theorem injectPlain_onlyRouter (s : State) (m : Msg) : OnlyRouter s (injectPlain s m) := ⟨_, s.stamp, rfl, rfl, rfl, rfl⟩

theorem sendFlit_onlyRouter (s : State) (p : Nat) (sch cls : Bool) (msgs : List Msg) :
    OnlyRouter s (sendFlit s p sch cls msgs) := putPort_onlyRouter _ _ _

theorem sendIdle_onlyRouter (s : State) (p : Nat) : OnlyRouter s (sendIdle s p) := putPort_onlyRouter _ _ _

theorem eject_onlyRouter (s : State) (m : Msg) : OnlyRouter s (eject s m) := by
  unfold eject
  dsimp only
  split
  · split
    · exact .trans ⟨_, s.stamp, rfl, rfl, rfl, rfl⟩ (foldl_onlyRouter injectPlain_onlyRouter _ _)
    · exact ⟨_, s.stamp, rfl, rfl, rfl, rfl⟩
  · split
    · exact .refl s
    · exact ⟨_, s.stamp, rfl, rfl, rfl, rfl⟩

theorem sendMsgs_onlyRouter {s t : State} {o : Nat} {sch cls : Bool} {msgs : List Msg} (h : sendMsgs s o sch cls msgs = some t) :
    OnlyRouter s t := by
  unfold sendMsgs at h
  split at h
  · cases h
    exact foldl_onlyRouter eject_onlyRouter _ _
  · split at h
    · cases h
      exact sendFlit_onlyRouter _ _ _ _ _
    · cases h

theorem sendOut_onlyRouter {s t : State} {o : Nat} {fl : RFlit} (h : sendOut s o fl = some t) : OnlyRouter s t := by
  unfold sendOut at h
  dsimp only at h
  split at h
  · cases h
    exact .refl s
  · exact sendMsgs_onlyRouter h

theorem putScheduled_onlyRouter (s : State) (e : Word) (i : Nat) (f : Option RFlit) : OnlyRouter s (putScheduled s e i f) := by
  unfold putScheduled
  split
  · exact ⟨_, s.stamp, rfl, rfl, rfl, rfl⟩
  · exact putPort_onlyRouter _ _ _

/-- Sending a flit's branches, one after another, where they can be sent. -/
theorem foldl_sendOut_onlyRouter (f : RFlit) (outs : List Nat) (s : State) (left : List Nat) :
    OnlyRouter s (outs.foldl (fun (q : State × List Nat) o =>
      match sendOut q.1 o f with
      | some t => (t, q.2)
      | none => (q.1, q.2 ++ [o])) (s, left)).1 := by
  refine List.foldlRecOn (motive := fun q : State × List Nat => OnlyRouter s q.1) outs _ (.refl s) fun q hq o _ => ?_
  split
  · next t ht => exact hq.trans (sendOut_onlyRouter ht)
  · exact hq

theorem scheduledSlot_onlyRouter (s : State) (e : Word) (i : Nat) : OnlyRouter s (scheduledSlot s e i) := by
  unfold scheduledSlot
  dsimp only
  split
  · exact .refl s
  · exact .refl s
  · next f _ _ _ _ =>
    exact (foldl_sendOut_onlyRouter _ _ s []).trans (putScheduled_onlyRouter _ _ _ _)

theorem modInputs_onlyRouter (s : State) (p : Nat) (f : LinkPort → LinkPort) : OnlyRouter s (modInputs s p f) :=
  putPort_onlyRouter _ _ _

theorem inject_onlyRouter (s : State) (l : List RFlit) : OnlyRouter s { s with fabric := { s.fabric with inject := l } } :=
  ⟨_, s.stamp, rfl, rfl, rfl, rfl⟩

theorem serveReplica_onlyRouter {s t : State} {o : Nat} (h : serveReplica s o = some t) : OnlyRouter s t := by
  unfold serveReplica at h
  split at h
  · cases h
  · split at h
    · cases h
    · next u hu =>
      cases h
      exact (((sendMsgs_onlyRouter hu).trans (putPort_onlyRouter _ _ _)).trans
        (foldl_onlyRouter (fun _ p => modInputs_onlyRouter _ p _) _ _)).trans (inject_onlyRouter _ _)

theorem serveQueue_onlyRouter {s t : State} {o : Nat} {p : RFlit → Bool} {q l : List RFlit}
    (h : serveQueue s o p q = some (l, t)) : OnlyRouter s t := by
  unfold serveQueue at h
  dsimp only at h
  split at h
  · cases h
  · obtain ⟨u, hu, heq⟩ := Option.map_eq_some_iff.1 h
    cases heq
    exact sendOut_onlyRouter hu

theorem serveLocal_onlyRouter {s t : State} {o : Nat} {p : RFlit → Bool} (h : serveLocal s o p = some t) : OnlyRouter s t := by
  unfold serveLocal at h
  obtain ⟨⟨l, u⟩, hu, rfl⟩ := Option.map_eq_some_iff.1 h
  exact (serveQueue_onlyRouter hu).trans (inject_onlyRouter _ _)

theorem serveInput_onlyRouter {s t : State} {o i : Nat} (h : serveInput s o i = some t) : OnlyRouter s t := by
  unfold serveInput at h
  split at h
  · obtain h | ⟨-, h⟩ := Option.or_eq_some_iff.1 h
    · exact serveLocal_onlyRouter h
    · obtain h | ⟨-, h⟩ := Option.or_eq_some_iff.1 h
      · exact serveLocal_onlyRouter h
      · exact serveLocal_onlyRouter h
  · dsimp only at h
    split at h
    · next q u hu =>
      cases h
      exact (serveQueue_onlyRouter hu).trans (modInputs_onlyRouter _ _ _)
    · split at h
      · next q u hu =>
        cases h
        exact (serveQueue_onlyRouter hu).trans (modInputs_onlyRouter _ _ _)
      · obtain ⟨⟨l, u⟩, hu, rfl⟩ := Option.map_eq_some_iff.1 h
        exact (serveQueue_onlyRouter hu).trans (modInputs_onlyRouter _ _ _)

theorem serveRound_onlyRouter (n : Nat) (s : State) (o i : Nat) : OnlyRouter s (serveRound s o i n) := by
  induction n generalizing i with
  | zero => exact .refl s
  | succ n ih =>
    unfold serveRound
    split
    · next t ht => exact (serveInput_onlyRouter ht).trans ⟨_, t.stamp, rfl, rfl, rfl, rfl⟩
    · exact ih _

theorem unscheduledSlot_onlyRouter (s : State) (used : List Nat) (o : Nat) : OnlyRouter s (unscheduledSlot s used o) := by
  unfold unscheduledSlot
  split
  · exact .refl s
  · cases h : serveReplica s o with
    | none => exact serveRound_onlyRouter _ _ _ _
    | some t => exact serveReplica_onlyRouter h

theorem takeReplica_onlyRouter (s : State) (f : RFlit) (o : Nat) : OnlyRouter s (takeReplica s f o) := by
  unfold takeReplica
  dsimp only
  split
  · exact .refl s
  · exact putPort_onlyRouter _ _ _

theorem stamp_onlyRouter (s : State) (n : Nat) : OnlyRouter s { s with stamp := n } := ⟨s.fabric, n, rfl, rfl, rfl, rfl⟩

theorem injectAt_onlyRouter (s : State) (l : List RFlit) (n : Nat) :
    OnlyRouter s { s with fabric := { s.fabric with inject := l }, stamp := n } := ⟨_, n, rfl, rfl, rfl, rfl⟩

theorem putPortAt_onlyRouter (s : State) (p : Nat) (l : LinkPort) (n : Nat) :
    OnlyRouter s { putPort s p l with stamp := n } := (putPort_onlyRouter s p l).trans (stamp_onlyRouter _ n)

theorem nameAll_onlyRouter (s : State) : OnlyRouter s (nameAll s) := by
  unfold nameAll
  refine .trans ?_ (injectAt_onlyRouter _ _ _)
  refine foldl_onlyRouter ?_ _ s
  exact fun t p => putPortAt_onlyRouter t p _ _

theorem takeReplicas_onlyRouter (s : State) : OnlyRouter s (takeReplicas s) :=
  (nameAll_onlyRouter s).trans
    (foldl_onlyRouter (fun _ f => foldl_onlyRouter (fun _ o => takeReplica_onlyRouter _ f o) _ _) _ _)

theorem ageLocal_onlyRouter (s : State) : OnlyRouter s (ageLocal s) := inject_onlyRouter _ _

/-- A slot of the router before it moves on. -/
theorem execSlotTick_slots {s : State} (h : s.fabric.slot < 256) :
    ∃ t, OnlyRouter s t ∧ exec .slotTick s = .next { t with fabric := { t.fabric with slot := t.fabric.slot + 1 } } := by
  have hi := exec_slotTick s
  unfold execSlotTick at hi
  rw [if_neg (Nat.not_le.2 h)] at hi
  refine ⟨_, ?_, hi⟩
  refine .trans ?_ (foldl_onlyRouter (fun u p => ?idle) _ _)
  case idle =>
    dsimp only
    split
    · exact sendIdle_onlyRouter _ _
    · exact .refl u
  refine .trans ?_ (takeReplicas_onlyRouter _)
  refine .trans ?_ (ageLocal_onlyRouter _)
  refine .trans ?_ (foldl_onlyRouter (fun u o => unscheduledSlot_onlyRouter u _ o) _ _)
  refine .trans ?_ (foldl_onlyRouter (fun u i => scheduledSlot_onlyRouter u _ i) _ _)
  exact foldl_onlyRouter (fun u p => putPort_onlyRouter u p _) _ s

/-! #### Flits, slots and frames -/

theorem switchCmd_fabric (s : State) (f : Fabric) : switchCmd { s with fabric := f } = switchCmd s := rfl

theorem flitsSlotsAndFrames : Sys2Proof.Claims.FlitsSlotsAndFrames := by
  intro s p f l next
  have hflit := exec_flitReceive p f s
  have hframe := exec_frameStart s
  unfold execFlitReceive at hflit
  unfold execFrameStart at hframe
  refine ⟨fun hp hr hd => ?_, fun h => ?_, fun h => ?_, fun h => ?_, fun h => ?_, fun h hn => ?_, fun n h hn hf hp hc => ?_⟩
  · have hup : ¬ (decide (12 ≤ p) || !(portAt s p).up) = true := by
      simp [LinkPort.up, show (portAt s p).retraining = false from hr, show (portAt s p).down = false from hd, hp]
    rw [if_neg hup] at hflit
    refine ⟨fun hc => ?_, fun hc hk hq => ?_, fun hc hk hq ho => ?_, fun hc hk hq ho => ?_⟩
    · rwa [if_pos (bne_iff_ne.2 hc)] at hflit
    all_goals rw [if_neg (by simp [hc]), if_neg hk] at hflit
    · rwa [if_pos hq] at hflit
    · rwa [if_neg hq, if_pos ho] at hflit
    · rwa [if_neg hq, if_neg (Nat.not_lt.2 ho)] at hflit
  · have hdown : (decide (12 ≤ p) || !(portAt s p).up) = true := by
      obtain h | h | h := h
      · simp [LinkPort.up, show (portAt s p).retraining = true from h]
      · simp [LinkPort.up, show (portAt s p).down = true from h]
      · simp [h]
    rwa [if_pos hdown] at hflit
  · obtain ⟨t, ⟨fabric, stamp, rfl, hf, hs, ha⟩, ht⟩ := execSlotTick_slots h
    exact ⟨_, ht, congrArg (· + 1) hs, hf, ha, rfl, rfl⟩
  · have hi := exec_slotTick s
    unfold execSlotTick at hi
    rwa [if_pos h] at hi
  · rwa [if_pos h] at hframe
  · rw [if_neg (Nat.not_lt.2 h)] at hframe
    simpa only [hn] using hframe
  · rw [if_neg (Nat.not_lt.2 h)] at hframe
    have hgo : (s.fabric.pend && decide (n ≤ (s.fabric.frame + 1) % 2 ^ 64)) = true := by rw [hf, decide_eq_true hp]; rfl
    simp only [hn] at hframe
    rw [if_pos hgo] at hframe
    simpa only [switchCmd_fabric, hc] using hframe

/-- Several requests of an entry go on as one, with the sum of its manifest's values. -/
theorem combinedRequest_several {e : Combine} (he : 2 ≤ e.msgs.length) (s : State) (tag : Nat) :
    combinedRequest s e tag =
      { response := false, input := 12
        data := (e.manifest.flatMap fun q => valueBytes 8 q.1 ++ wordBytes q.2) ++
          List.replicate (128 - (e.manifest.flatMap fun q => valueBytes 8 q.1 ++ wordBytes q.2).length) 0
        seg := segment
          [headWord e.dst 0 (e.msgs.length - 1) e.ty 2 3 false true,
           BitVec.ofNat 64 (2 ^ 63 + e.job % 16 * 2 ^ 37 + tag % 4096 * 2 ^ 25 + ownNode s), BitVec.ofNat 64 e.addr,
           BitVec.ofNat 64 ((if e.ty = 1 then 32 else 64) / 8),
           BitVec.ofNat 64 ((e.manifest.map fun q => q.2.toNat).sum % 2 ^ (if e.ty = 1 then 32 else 64)), 0, 0, 0] } := by
  have hsum : (e.manifest.map fun q => q.2.toNat).sum = e.manifest.foldl (fun a q => a + q.2.toNat) 0 := by
    rw [List.sum_eq_foldl, List.foldl_map]
  rw [hsum]
  unfold combinedRequest
  split
  · next m hm => simp [hm] at he
  · rfl

/-- An open entry of the combining table that is forwarded. -/
theorem forwardEntry_open {s : State} {k : Nat} {e : Combine} (h : s.fabric.combining[k]? = some e) (hw : e.waiting = true) :
    forwardEntry s k = injectPlain { s with fabric := { s.fabric with
      combining := if e.msgs.length ≤ 1 then s.fabric.combining.eraseIdx k
        else s.fabric.combining.set k { e with waiting := false, tag := s.fabric.nextTag, msgs := [] }
      nextTag := s.fabric.nextTag + 1 } } (combinedRequest s e s.fabric.nextTag) := by
  simp [forwardEntry, h, hw]

theorem combiningWindows : Sys2Proof.Claims.CombiningWindows := by
  intro s n e m h f
  have hi := exec_combineWindowExpire n s
  unfold execCombineWindowExpire at hi
  refine ⟨fun hw => ?_, fun hw hm => ?_, fun hw hm => ?_, rfl⟩
  · have hclosed : forwardEntry s n = s := by simp [forwardEntry, h, hw]
    rwa [hclosed] at hi
  · have hone : combinedRequest s e s.fabric.nextTag = m := by simp [combinedRequest, hm]
    rwa [forwardEntry_open h hw, hone, if_pos (by simp [hm])] at hi
  · rwa [forwardEntry_open h hw, combinedRequest_several hm, if_neg (by omega)] at hi

/-- Settles O47: the slot of the router changes its ports and tables alone, then moves on; the other events by the cases of
their definitions. -/
theorem fabricMessagesMove : Obligations.FabricMessagesMove :=
  ⟨flitsSlotsAndFrames, combiningWindows⟩

/-! #### Leases and their events -/

theorem leaseGrantAnswer_granting {s : State} {l : Lease} {peer lid : Nat} (h : lentLease s peer lid = some l)
    (hl : l.state = .granting) (status : BitVec 8) :
    exec (.leaseGrantAnswer peer lid status) s = .next (if status = 0
      then leaseAnswered (setLease s l { l with state := .held, cmd := none }) l.cmd 0
      else leaseAnswered (dropLease s l) l.cmd 3) := by
  have hi : exec (.leaseGrantAnswer peer lid status) s = execLeaseGrantAnswer peer lid status s := rfl
  simpa [execLeaseGrantAnswer, h, hl, leaseOk, leaseRefused] using hi

theorem exec_leaseReleaseMessage {s : State} {l : Lease} {peer lid : Nat} (h : lentLease s peer lid = some l) :
    exec (.leaseReleaseMessage peer lid) s = .next (if leaseBusy s l then s else
      match l.state with
      | .held => leaseEvent (dropLease s l) 5 l 0
      | .recalling => reclaimLease s l
      | _ => s) := by
  have hi : exec (.leaseReleaseMessage peer lid) s = execLeaseReleaseMessage peer lid s := rfl
  simp only [execLeaseReleaseMessage, h] at hi
  exact hi

theorem leasesMove : Sys2Proof.Claims.LeasesMove := by
  intro s l peer lid reg0 nreg status deadline
  refine ⟨fun h => ⟨fun hl => ⟨fun hs => ?_, fun hs => ?_⟩, fun hl hb => ?_, fun hl hb => ?_, fun hb => ?_⟩, fun h => ?_,
    fun h => ⟨fun hd hb => ?_, fun hd => ?_⟩, fun h => ?_, fun h => ?_, fun h => ⟨fun hl => ?_, fun hc => ?_, fun hc hl => ?_⟩⟩
  · rw [leaseGrantAnswer_granting h hl, if_pos hs]
  · rw [leaseGrantAnswer_granting h hl, if_neg hs]
  · rw [exec_leaseReleaseMessage h, hb, hl]
    rfl
  · rw [exec_leaseReleaseMessage h, hb, hl]
    rfl
  · rw [exec_leaseReleaseMessage h, if_pos hb]
  · have hi : exec (.leaseGrantTimeout lid) s = execLeaseGrantTimeout lid s := rfl
    simpa only [execLeaseGrantTimeout, h, leaseTimeout] using hi
  · have hi : exec (.leaseDeadline lid) s = execLeaseDeadline lid s := rfl
    simpa only [execLeaseDeadline, reclaimLease, leaseOk, h, decide_eq_true hd, hb, Bool.not_false, Bool.and_self, if_true]
      using hi
  · have hi : exec (.leaseDeadline lid) s = execLeaseDeadline lid s := rfl
    simpa [execLeaseDeadline, h, Nat.not_le.2 hd] using hi
  · intro b
    have hi : exec (.leaseGrantMessage peer lid reg0 nreg) s = execLeaseGrantMessage peer lid reg0 nreg s := rfl
    rwa [execLeaseGrantMessage, if_neg (by rw [h]; decide)] at hi
  · have hi : exec (.leaseGrantMessage peer lid reg0 nreg) s = execLeaseGrantMessage peer lid reg0 nreg s := rfl
    rwa [execLeaseGrantMessage, if_pos h] at hi
  · have hi : exec (.leaseRecallMessage peer lid deadline) s = execLeaseRecallMessage peer lid deadline s := rfl
    simpa only [execLeaseRecallMessage, h, hl, if_true] using hi
  · have hi : exec (.leaseReleaseAnswer peer lid status) s = execLeaseReleaseAnswer peer lid status s := rfl
    obtain ⟨q, hq⟩ := Option.isSome_iff_exists.1 hc
    simpa [execLeaseReleaseAnswer, h, hq, leaseOk, leaseUnknown] using hi
  · have hi : exec (.leaseRevokeMessage peer lid) s = execLeaseRevokeMessage peer lid s := rfl
    obtain hl | hl := hl <;> simpa [execLeaseRevokeMessage, h, hl, hc] using hi

/-- A ring with one record and without FEVSEM: the record is written, waits for room, or waits for the memory. -/
theorem drainEvents_single {s : State} {r : List Word} (he : s.fabric.events = [r]) (hsem : s.fabric.fevsem = 0) :
    drainEvents s 1 =
      let a := bits s.fabric.fevbase 47 12 * 4096 + 32 * (s.fabric.fevtail.toNat % eventRingSize s)
      if eventRingRoom s && hbmReady s a 32 then
        let t := hbmWrite (hostTakes s a 32) a (r.flatMap wordBytes)
        { t with fabric := { t.fabric with events := [], fevtail := s.fabric.fevtail + 1 } }
      else if eventRingRoom s then hostWaits s a 32 else s := by
  have hnone : ∀ t : State, t.fabric.fevsem = 0 → eventSem t = 0 := fun t ht => by
    rw [eventSem, ht]
    decide
  have hsignal : ∀ t : State, t.fabric.fevsem = 0 → signalEvent t = t := fun t ht => by
    unfold signalEvent
    exact if_pos (hnone t ht)
  unfold drainEvents
  rw [he]
  dsimp only
  unfold eventRingReady
  rw [hnone s hsem, hsignal _ (by simpa using hsem), hnone _ (by simpa using hsem)]
  simp [drainEvents]

theorem eventRecordIsWritten : Sys2Proof.Claims.EventRecordIsWritten := by
  intro s kind l deadline he hsem a waits
  have hdrain : leaseEvent s kind l deadline = drainEvents waits 1 := by simp [leaseEvent, he, waits]
  have hsingle := drainEvents_single (s := waits) (r := leaseRecord kind l deadline) rfl hsem
  have hroom : eventRingRoom waits =
    decide ((s.fabric.fevtail - s.fabric.fevhead).toNat < 2 ^ (bits s.fabric.fevbase 3 0 + 6)) := rfl
  have hready : hbmReady waits a 32 = hbmReady s a 32 :=
    hbmReady_congr (s := s) (t := waits) rfl rfl rfl rfl rfl a 32
  have ha : bits waits.fabric.fevbase 47 12 * 4096 + 32 * (waits.fabric.fevtail.toNat % eventRingSize waits) = a := rfl
  dsimp only at hsingle
  rw [ha, hroom, hready] at hsingle
  rw [hdrain, hsingle]
  refine ⟨fun hr hm => ?_, fun hr => ?_, fun hr hm => ?_⟩
  · rw [decide_eq_true hr, hm]
    rfl
  · rw [decide_eq_false (Nat.not_lt.2 hr)]
    rfl
  · rw [decide_eq_true hr, hm]
    rfl

/-- Settles O48: the events of a lease by the cases of their definitions, and the ring's only record by whether it has room and
memory that serves it. -/
theorem leasesAndTheirEvents : Obligations.LeasesAndTheirEvents :=
  ⟨leasesMove, eventRecordIsWritten⟩

end Sys2Proof.Machine
end

/-! ### The Reeve's events and hardware errors -/

section
namespace Sys2Proof.Machine
open Sys2Proof.Claims Sys2Proof.Config

theorem exec_tlbiComplete (cl : Nat) (s : State) : exec (.tlbiComplete cl) s = execTlbiComplete cl s := rfl

theorem exec_icinvComplete (cl : Nat) (s : State) : exec (.icinvComplete cl) s = execIcinvComplete cl s := rfl

theorem exec_preemptComplete (k : Nat) (s : State) : exec (.preemptComplete k) s = execPreemptComplete k s := rfl

theorem exec_haltWake (cl : Nat) (s : State) : exec (.haltWake cl) s = execHaltWake cl s := rfl

theorem exec_hardwareError (k : Nat) (code : BitVec 8) (s : State) :
    exec (.hardwareError k code) s = execHardwareError k code s := rfl

/-! #### TLBI, ICINV, pre-emption and HALT -/

theorem tlbiComplete_oldest {s : State} {cl : Nat} {w : Sweep} {rest : List Sweep} (h : (reeveAt s cl).tlbi = w :: rest) :
    (w.job = none → exec (.tlbiComplete cl) s =
      .next (deliverStatus (putReeve s cl { reeveAt s cl with tlbi := rest }) cl w.seq 1)) ∧
    (∀ job, w.job = some job → exec (.tlbiComplete cl) s = .next (if sweptAll s w job then
      deliverStatus (dropEntries (retranslate (putReeve s cl { reeveAt s cl with tlbi := rest }) w job) w job) cl w.seq 0
      else s)) := by
  have hi := exec_tlbiComplete cl s
  unfold execTlbiComplete at hi
  simp only [h] at hi
  refine ⟨fun hj => ?_, fun job hj => ?_⟩ <;>
    simpa only [hj] using hi

theorem icinvComplete_oldest {s : State} {cl : Nat} {w : Sweep} {rest : List Sweep} (h : (reeveAt s cl).icinv = w :: rest)
    (hd : storesDone s cl w.seq = true) :
    (w.job = none → exec (.icinvComplete cl) s =
      .next (deliverStatus (putReeve s cl { reeveAt s cl with icinv := rest }) cl w.seq 1)) ∧
    (∀ job, w.job = some job → exec (.icinvComplete cl) s =
      .next (deliverStatus (dropLines (putReeve s cl { reeveAt s cl with icinv := rest }) w job) cl w.seq 0)) := by
  have hi := exec_icinvComplete cl s
  unfold execIcinvComplete at hi
  simp only [h] at hi
  refine ⟨fun hj => ?_, fun job hj => ?_⟩ <;>
    simpa only [hd, hj, Bool.not_true, Bool.false_eq_true, if_false] using hi

theorem reeveWordsComplete : Sys2Proof.Claims.ReeveWordsComplete := by
  intro s cl slot w rest r
  refine ⟨fun h => ?_, fun h hd => icinvComplete_oldest h hd, fun t st s1 ht hf => ?_, fun c w o hc hg hdue hring hw hdec => ?_⟩
  · obtain ⟨hnone, hsome⟩ := tlbiComplete_oldest h
    refine ⟨hnone, fun job hj => ⟨fun hs => ?_, fun hs => ?_⟩⟩
    · rw [hsome job hj, hs]
      rfl
    · rw [hsome job hj, if_pos hs]
  · have hi := exec_preemptComplete slot s
    unfold execPreemptComplete at hi
    simpa only [ht, hf] using hi
  · have hgo : (groupMay s (1024 + cl) && isDue c .s && !ringEmpty s cl) = true := by
      rw [hg, hdue, ringEmpty, beq_false_of_ne hring]
      rfl
    have hi := exec_haltWake cl s
    unfold execHaltWake at hi
    dsimp only at hi
    simp only [hc] at hi
    rw [if_pos hgo] at hi
    simp only [hw, hdec] at hi
    exact hi

/-! #### What a TLBI leaves -/

theorem mapGet_map_values {α β : Type} (f : α → β) (m : FMap α) (a : Nat) :
    mapGet (m.map fun q => (q.1, f q.2)) a = (mapGet m a).map f := by
  induction m with
  | nil => rfl
  | cons q m ih =>
    simp only [List.map_cons, mapGet, ih]
    split <;> rfl

theorem sweeps_iff (w : Sweep) (a n : Nat) : sweeps w a n = true ↔ w.extent = 0 ∨ (a < w.first + w.extent ∧ w.first < a + n) := by
  simp [sweeps]

/-- The entries of a TLB that a TLBI leaves. -/
def keptEntries (w : Sweep) (job : Nat) (l : List TlbEntry) : List TlbEntry :=
  l.filter fun e =>
    !(e.job == job && sweeps w (e.page * if e.large then 2 ^ 23 else 65536) (if e.large then 2 ^ 23 else 65536))

/-- A core with the entries of its TLB that a TLBI leaves. -/
def sweptCore (w : Sweep) (job : Nat) (c : CoreState) : CoreState := { c with tlb := keptEntries w job c.tlb }

theorem dropEntries_cores (s : State) (w : Sweep) (job : Nat) :
    (dropEntries s w job).cores = s.cores.map fun q => (q.1, sweptCore w job q.2) := rfl

theorem coreAt_dropEntries_tlb (s : State) (w : Sweep) (job k : Nat) :
    (coreAt (dropEntries s w job) k).tlb = keptEntries w job (coreAt s k).tlb := by
  unfold coreAt mapGetD
  rw [dropEntries_cores, mapGet_map_values]
  cases mapGet s.cores k <;> rfl

theorem mem_filter_not_and {α : Type} {p q : α → Bool} {l : List α} {a : α} :
    a ∈ (l.filter fun a => !(p a && q a)) ↔ a ∈ l ∧ ¬(p a = true ∧ q a = true) := by
  rw [List.mem_filter, Bool.not_eq_true', ← Bool.not_eq_true, Bool.and_eq_true]

theorem sweptEntriesAreGone : Sys2Proof.Claims.SweptEntriesAreGone := by
  intro s w job e n hit
  have hkept : ∀ l : List TlbEntry, e ∈ keptEntries w job l ↔ e ∈ l ∧ ¬ hit := fun l => by
    rw [keptEntries, mem_filter_not_and, sweeps_iff, beq_iff_eq]
  refine ⟨hkept s.tlb, fun k => ?_, fun q => ?_, fun q => ?_, rfl, rfl⟩
  · rw [coreAt_dropEntries_tlb]
    exact hkept _
  · intro m at_
    have hm : m = pointerSpan q.1 := rfl
    show q ∈ s.pointers.filter _ ↔ _
    rw [mem_filter_not_and, sweeps_iff, beq_iff_eq, ← hm]
  · show q ∈ s.guards.filter _ ↔ _
    rw [List.mem_filter, bne_iff_ne]

/-! #### Hardware errors -/

/-- The benches with a crew are the same. -/
def SameBenches (s t : State) : Prop := ∀ j, (crewAt t j).isSome = (crewAt s j).isSome

theorem SameBenches.trans {s t u : State} (h : SameBenches s t) (h' : SameBenches t u) : SameBenches s u :=
  fun j => (h' j).trans (h j)

theorem sameBenches_of_crews {s t : State} (h : t.crews = s.crews) : SameBenches s t := fun j => by
  unfold crewAt
  rw [h]

theorem modCrew_sameBenches (s : State) (k : Nat) (f : Crew → Crew) : SameBenches s (modCrew s k f) := fun j => by
  unfold modCrew
  split
  · next c hc =>
    by_cases hj : j = k
    · rw [hj, crewAt_putCrew_same, hc]
      rfl
    · rw [crewAt_putCrew_other _ _ hj]
  · rfl

theorem endWrites_crews (s : State) (e : EngCmd) (b : Bool) : (endWrites s e b).crews = s.crews := by
  unfold endWrites
  split <;> rfl

theorem dropCmd_sameBenches (s : State) (core : Nat) (e : EngCmd) : SameBenches s (dropCmd s core e) := by
  unfold dropCmd
  refine .trans (sameBenches_of_crews ?_) (modCrew_sameBenches _ _ _)
  exact endWrites_crews (releaseMills s core e.id) e false

theorem foldl_sameBenches {α : Type} {f : State → α → State} (hf : ∀ s a, SameBenches s (f s a)) (l : List α) (s : State) :
    SameBenches s (l.foldl f s) :=
  List.foldlRecOn (motive := SameBenches s) l f (fun _ => rfl) fun _ ht a _ => ht.trans (hf _ a)

/-- A crew that is lost leaves its bench, and every other crew stays. -/
theorem crewAt_loseCrew {s : State} {k : Nat} (j : Nat) :
    (crewAt (loseCrew s k) j).isSome = (!(j == k) && (crewAt s j).isSome) := by
  unfold loseCrew
  split
  · next h =>
    by_cases hj : j = k
    · rw [hj, h, Option.isSome_none, Bool.and_false]
    · rw [beq_false_of_ne hj]
      rfl
  · next c h =>
    dsimp only
    obtain ⟨cores, hr⟩ := releaseCore_frame ((crewCmds s k c).foldl
      (fun s e => dropRequests (dropCmd s (coreOf k) e) (coreOf k) e.id) s) k c.crewId
    rw [hr]
    by_cases hj : j = k
    · rw [hj]
      simp [crewAt]
    · rw [beq_false_of_ne hj, Bool.not_false, Bool.true_and]
      refine .trans (congrArg Option.isSome (mapGet_mapErase_other _ hj)) ?_
      exact foldl_sameBenches (f := fun s e => dropRequests (dropCmd s (coreOf k) e) (coreOf k) e.id)
        (fun u e => dropCmd_sameBenches u _ e) _ s j

theorem bench_not_residue {k : Nat} (h : k < 1024) : ¬ isResidue k = true := by
  simp only [isResidue, decide_eq_true_eq]
  omega

theorem bench_not_reeve {k : Nat} (h : k < 1024) : ¬ isReeve k = true := by
  simp only [isReeve, decide_eq_true_eq]
  omega

/-- A unit that a hardware error struck, by whether it may run again, whether it has and whether a core is left for it. -/
theorem settleStruck_cases (s : State) (u : WorkUnit) (core : Nat) (rerun lost : Record) :
    (Docket.rst u.docket = false → settleStruck s u core rerun lost = loseUnit (postRecord s (core / 8) lost) u) ∧
    (∀ s1, Docket.rst u.docket = true → runsOfUnit s core u.docket = (none, s1) →
      settleStruck s u core rerun lost = loseUnit (postRecord s1 (core / 8) lost) u) ∧
    (∀ n s1, Docket.rst u.docket = true → runsOfUnit s core u.docket = (some n, s1) → n < 2 →
      anotherCore s1 u.docket core = true →
      (∀ s2, rerunUnit s1 u core n = (true, s2) → settleStruck s u core rerun lost = postRecord s2 (core / 8) rerun) ∧
      (∀ s2, rerunUnit s1 u core n = (false, s2) →
        settleStruck s u core rerun lost = loseUnit (postRecord s2 (core / 8) lost) u)) ∧
    (∀ n s1, Docket.rst u.docket = true → runsOfUnit s core u.docket = (some n, s1) →
      (2 ≤ n ∨ anotherCore s1 u.docket core = false) →
        settleStruck s u core rerun lost = loseUnit (postRecord s1 (core / 8) lost) u) := by
  refine ⟨fun h => ?_, fun s1 h hr => ?_, fun n s1 h hr hn ha => ⟨fun s2 h2 => ?_, fun s2 h2 => ?_⟩, fun n s1 h hr hn => ?_⟩
  · simp [settleStruck, h]
  · simp [settleStruck, h, hr]
  · simp [settleStruck, h, hr, hn, ha, h2]
  · simp [settleStruck, h, hr, hn, ha, h2]
  · have hno : ¬ (decide (n < 2) && anotherCore s1 u.docket core) = true := by
      obtain hn | hn := hn
      · simp [Nat.not_lt.2 hn]
      · simp [hn]
    simp only [settleStruck, h, hr, if_true]
    rw [if_neg hno]

theorem hardwareErrorsEndTheirCrew : Sys2Proof.Claims.HardwareErrorsEndTheirCrew := by
  intro s slot code c hc
  have hi := exec_hardwareError slot code s
  unfold execHardwareError at hi
  simp only [hc] at hi
  refine ⟨fun h h' => ?_, fun h hu => ?_, fun u h hu => ?_, fun u core rerun lost => ?_, fun h => ⟨?_, fun j hj hs => ?_⟩⟩
  · have hres : ¬ isResidue slot = true := by simpa [isResidue] using h'
    have hreeve : isReeve slot = true := by simpa [isReeve] using h
    have hcl : clusterOf slot = slot - 1024 := by
      rw [clusterOf, if_neg (Nat.not_lt.2 h)]
      omega
    rwa [if_neg hres, if_pos hreeve, hcl] at hi
  · rw [if_neg (bench_not_residue h), if_neg (bench_not_reeve h)] at hi
    simpa only [hu] using hi
  · rw [if_neg (bench_not_residue h), if_neg (bench_not_reeve h)] at hi
    simp only [hu] at hi
    intro gone record end_
    refine ⟨fun hc => ?_, fun hc hb => ?_, fun hc hb => ?_⟩
    · rwa [if_pos hc] at hi
    all_goals
      have hlive : ¬ u.cancelled = true := by rw [hc]; decide
      rw [if_neg hlive] at hi
      refine hi.trans (congrArg _ ?_)
      unfold orWaits
    · exact if_neg (by show ¬ end_.balked = true; rw [hb]; decide)
    · exact if_pos hb
  · exact settleStruck_cases s u core rerun lost
  · rw [← Option.not_isSome_iff_eq_none, crewAt_loseCrew, beq_self_eq_true, Bool.not_true,
      Bool.false_and]
    exact Bool.false_ne_true
  · rw [crewAt_loseCrew, beq_false_of_ne hj, hs]
    rfl

/-- Settles O49: the Reeve's completions by the cases of their definitions, what a TLBI filters out, and a hardware error by
where its crew stands. -/
theorem reeveEventsAndHardwareErrors : Obligations.ReeveEventsAndHardwareErrors :=
  ⟨reeveWordsComplete, sweptEntriesAreGone, hardwareErrorsEndTheirCrew⟩

end Sys2Proof.Machine
end

/-! ### The package's condition -/

section
namespace Sys2Proof.Machine
open Sys2Proof.Claims Sys2Proof.Config

/-! #### Fields of a register -/

theorem testBit_bits (w : Word) (hi lo i : Nat) :
    (bits w hi lo).testBit i = (decide (i < hi + 1 - lo) && w.getLsbD (lo + i)) := by
  rw [bits, Nat.testBit_mod_two_pow, Nat.testBit_shiftRight, BitVec.testBit_toNat]

theorem getLsbD_withBits (w : Word) (hi lo v i : Nat) :
    (withBits w hi lo v).getLsbD i = if lo ≤ i ∧ i < hi + 1 then decide (i < 64) && v.testBit (i - lo) else w.getLsbD i := by
  have hw : 64 ≤ i → w.getLsbD i = false := fun h => BitVec.getLsbD_of_ge w i h
  unfold withBits
  simp only [BitVec.getLsbD_or, BitVec.getLsbD_and, BitVec.getLsbD_not, BitVec.getLsbD_ofNat, Nat.testBit_shiftLeft,
    Nat.testBit_two_pow_sub_one, Nat.testBit_mod_two_pow]
  by_cases h : lo ≤ i ∧ i < hi + 1
  · have hin : i - lo < hi + 1 - lo := by omega
    rw [if_pos h]
    by_cases hi64 : i < 64 <;> simp [h, hin, hi64]
  · rw [if_neg h]
    by_cases hi64 : i < 64
    · by_cases hlo : lo ≤ i
      · have hout : ¬ i - lo < hi + 1 - lo := by omega
        simp [hout, hi64]
      · simp [hlo, hi64]
    · simp [hi64, hw (Nat.le_of_not_lt hi64)]

theorem bits_withBits_same {w : Word} {hi lo v : Nat} (h : hi < 64) (hv : v < 2 ^ (hi + 1 - lo)) :
    bits (withBits w hi lo v) hi lo = v := by
  refine Nat.eq_of_testBit_eq fun i => ?_
  rw [testBit_bits, getLsbD_withBits]
  by_cases hi' : i < hi + 1 - lo
  · rw [if_pos (by omega)]
    simp [hi', show lo + i < 64 by omega]
  · have hzero : v.testBit i = false := Nat.testBit_lt_two_pow (Nat.lt_of_lt_of_le hv (Nat.pow_le_pow_right (by decide) (by omega)))
    simp [hi', hzero]

theorem bits_withBits_other {w : Word} {hi lo hi' lo' v : Nat} (h : hi' < lo ∨ hi < lo') :
    bits (withBits w hi lo v) hi' lo' = bits w hi' lo' := by
  refine Nat.eq_of_testBit_eq fun i => ?_
  rw [testBit_bits, testBit_bits, getLsbD_withBits]
  by_cases hi : i < hi' + 1 - lo'
  · rw [if_neg (by omega)]
  · simp [hi]

/-! #### The registers of the package's condition -/

theorem exec_linkDown (p : Nat) (s : State) : exec (.linkDown p) s = execLinkDown p s := rfl

theorem exec_packageBoot (b : BootOutcome) (s : State) : exec (.packageBoot b) s = execPackageBoot b s := rfl

theorem exec_orderlyStop (cause : BitVec 8) (s : State) : exec (.orderlyStop cause) s = execOrderlyStop cause s := rfl

theorem exec_ngugrimRetrainTimeout (s : State) : exec .ngugrimRetrainTimeout s = execNgugrimRetrainTimeout s := rfl

theorem exec_shockEvent (peak : BitVec 16) (s : State) : exec (.shockEvent peak) s = execShockEvent peak s := rfl

/-- What a link that goes down leaves of another port. -/
def portWithout (p : Nat) (l : LinkPort) : LinkPort :=
  l.credited { l with inQ := dropBranches p l.inQ, inS := dropBranches p l.inS, schedQ := dropBranches p l.schedQ }

/-- A port whose link goes down. -/
def portDown (l : LinkPort) : LinkPort :=
  { l with retraining := false, down := true, replay := [], resend := none, wire := none, replicas := [] }

theorem mapGetD_map_values {α : Type} (f : α → α) (m : FMap α) (a : Nat) (d : α) (hd : f d = d) :
    mapGetD (m.map fun q => (q.1, f q.2)) a d = f (mapGetD m a d) := by
  unfold mapGetD
  rw [mapGet_map_values]
  cases mapGet m a with
  | none => exact hd.symm
  | some v => rfl

theorem linkDown_ports {s : State} {p : Nat} (h : (portAt s p).retraining = true) :
    ∃ t, exec (.linkDown p) s = .next t ∧
      t.fabric.ports = (mapSet s.fabric.ports p (portDown (portAt s p))).map (fun q => (q.1, portWithout p q.2)) ∧
      t.pkg.linkst = portBit (portBit s.pkg.linkst 0 p false) 14 p true ∧ t.crews = s.crews ∧ t.hbm = s.hbm := by
  have hi := exec_linkDown p s
  unfold execLinkDown at hi
  have hgo : ¬ (!(portAt s p).retraining) = true := by rw [h]; decide
  dsimp only at hi
  rw [if_neg hgo] at hi
  exact ⟨_, hi, rfl, rfl, rfl, rfl⟩

theorem portWithout_reset (p : Nat) : portWithout p LinkPort.reset = LinkPort.reset := rfl

theorem foldl_max_le (l : List Nat) (a : Nat) : a ≤ l.foldl max a ∧ ∀ x ∈ l, x ≤ l.foldl max a := by
  induction l generalizing a with
  | nil => exact ⟨Nat.le_refl a, fun x hx => by cases hx⟩
  | cons b l ih =>
    obtain ⟨hb, hl⟩ := ih (max a b)
    refine ⟨Nat.le_trans (Nat.le_max_left a b) hb, fun x hx => ?_⟩
    obtain rfl | hx := List.mem_cons.1 hx
    · exact Nat.le_trans (Nat.le_max_right a x) hb
    · exact hl x hx

theorem foldl_max_lt {l : List Nat} {a n : Nat} (ha : a < n) (hl : ∀ x ∈ l, x < n) : l.foldl max a < n :=
  List.foldlRecOn (motive := (· < n)) l max ha fun _ hb x hx => Nat.max_lt.2 ⟨hb, hl x hx⟩

theorem shockEvent_entersTheLog {s : State} {peak : BitVec 16} (h : 40 ≤ peak.toNat) :
    ∃ t, exec (.shockEvent peak) s = .next t ∧ t.pkg.shocks = (peak :: s.pkg.shocks).take 64 ∧
      bits t.pkg.shockst 31 16 = min (bits s.pkg.shockst 31 16 + 1) 65535 ∧
      (∀ q ∈ t.pkg.shocks, q.toNat ≤ bits t.pkg.shockst 47 32) ∧ bits t.pkg.shockst 15 0 = bits s.pkg.shockst 15 0 := by
  have hi := exec_shockEvent peak s
  unfold execShockEvent at hi
  rw [if_neg (Nat.not_lt.2 h)] at hi
  refine ⟨_, hi, rfl, ?_, fun q hq => ?_, ?_⟩
  · show bits (withBits (countField _ 31 16) 47 32 _) 31 16 = _
    rw [bits_withBits_other (.inl (by decide)), countField]
    exact bits_withBits_same (by decide) (by omega)
  · have hlt : (((peak :: s.pkg.shocks).take 64).map (·.toNat)).foldl max 0 < 2 ^ 16 :=
      foldl_max_lt (by decide) fun x hx => by
        obtain ⟨q, -, rfl⟩ := List.mem_map.1 hx
        exact q.isLt
    show q.toNat ≤ bits (withBits _ 47 32 _) 47 32
    rw [bits_withBits_same (by decide) hlt]
    exact (foldl_max_le _ 0).2 _ (List.mem_map_of_mem hq)
  · show bits (withBits (countField _ 31 16) 47 32 _) 15 0 = _
    rw [bits_withBits_other (.inl (by decide)), countField, bits_withBits_other (.inl (by decide))]

theorem portAt_linkDown {s t : State} {p : Nat}
    (h : t.fabric.ports = (mapSet s.fabric.ports p (portDown (portAt s p))).map (fun q => (q.1, portWithout p q.2))) (q : Nat) :
    portAt t q = portWithout p (if q = p then portDown (portAt s p) else portAt s q) := by
  unfold portAt at *
  rw [h, mapGetD_map_values _ _ _ _ (portWithout_reset p)]
  split
  · next hq =>
    rw [hq, mapGetD_mapSet_same]
  · next hq =>
    rw [mapGetD, mapGet_mapSet_other _ _ hq]
    rfl

theorem portBit_zero (w : Word) (p : Nat) (on : Bool) :
    portBit w 0 p on = if on then w ||| (1#64 <<< p) else w &&& ~~~(1#64 <<< p) := by
  rw [portBit, Nat.zero_add]

theorem endWaits_eq (s : State) : endWaits s = { s with
    lent := s.lent.map fun a => if a.opc = 0 ∧ a.used = false then { a with answer := some (5, [], 0) } else a } := by
  have hfun : ∀ a : LentAccess, (if a.opc == 0 && !a.used then { a with answer := some (5, [], 0) } else a) =
      if a.opc = 0 ∧ a.used = false then { a with answer := some (5, [], 0) } else a := fun a => by simp
  unfold endWaits
  rw [funext hfun]

theorem conditionRegisters : Sys2Proof.Claims.ConditionRegisters := by
  intro s cl p len peak days limit hours k
  refine ⟨fun hc hb => ?_, rfl, fun hh => ?_, fun hh => ?_, fun hr => ?_, fun hr he => ?_, fun hr hc hk => ?_, fun hp hr hd => ?_,
    fun hr he => ?_, fun hp hr => ?_, fun h => ?_, shockEvent_entersTheLog, rfl, fun h => ?_⟩
  · have hi : exec (.droopDetect cl) s = execDroopDetect cl s := rfl
    have hgo : ¬ (decide (clusters ≤ cl) || s.pkg.stretched.getLsbD cl) = true := by
      rw [show s.pkg.stretched.getLsbD cl = false from hb, decide_eq_false (show ¬ clusters ≤ cl from Nat.not_le.2 hc)]
      decide
    rw [execDroopDetect, if_neg hgo] at hi
    exact hi
  · have hi : exec .holdEntry s = execHoldEntry s := rfl
    rw [execHoldEntry, if_neg (by rw [show s.pkg.hold = false from hh]; decide)] at hi
    exact hi
  · have hi : exec (.holdExit len) s = execHoldExit len s := rfl
    rw [execHoldExit, if_pos hh] at hi
    exact hi
  · have hi : exec .ngugrimRetrainStart s = execNgugrimRetrainStart s := rfl
    rw [execNgugrimRetrainStart, if_neg (by rw [hr]; decide)] at hi
    exact hi
  · have hi : exec .ngugrimRetrainEnd s = execNgugrimRetrainEnd s := rfl
    rw [execNgugrimRetrainEnd, if_pos hr, flushEnded_empty] at hi
    · exact hi
    · exact he
  · have hi := exec_ngugrimRetrainTimeout s
    unfold execNgugrimRetrainTimeout at hi
    have hcrews : s.crews.map (·.1) = [] := by rw [hc]; rfl
    have hcores : s.cores.map (·.1) = [] := by rw [hk]; rfl
    rw [if_pos hr, hcrews] at hi
    simp only [List.foldl_nil] at hi
    rw [hcores, List.foldl_nil, endWaits_eq] at hi
    exact hi
  · have hi : exec (.linkRetrainStart p) s = execLinkRetrainStart p s := rfl
    have hgo : ¬ (decide (12 ≤ p) || !(portAt s p).up) = true := by
      simp [LinkPort.up, hr, hd, hp]
    rw [execLinkRetrainStart] at hi
    dsimp only at hi
    rw [if_neg hgo] at hi
    simp only [portBit_zero] at hi
    exact hi
  · have hi : exec (.linkRetrainEnd p) s = execLinkRetrainEnd p s := rfl
    have hgo : ¬ (!(portAt s p).retraining) = true := by rw [hr]; decide
    have hresend : (if (portAt s p).replay.isEmpty then none else some 0) = (none : Option Nat) := by rw [he]; rfl
    rw [execLinkRetrainEnd] at hi
    dsimp only at hi
    rw [if_neg hgo, hresend] at hi
    simp only [portBit_zero] at hi
    exact hi
  · obtain ⟨t, ht, hports, hlink, hcrews, hhbm⟩ := linkDown_ports hr
    have hq := portAt_linkDown hports
    refine ⟨t, ht, ?_, ?_, ?_, ?_, hcrews, hhbm, ?_, fun q => ?_⟩
    · rw [hq, if_pos rfl]
      rfl
    · rw [hq, if_pos rfl]
      rfl
    · rw [hq, if_pos rfl]
      rfl
    · rw [hlink]
      simp [portBit]
      omega
    · rw [hq, if_pos rfl]
      rfl
    · intro old new
      have hnew : new = portWithout p (if q = p then portDown (portAt s p) else portAt s q) := hq q
      rw [hnew]
      split
      · next h =>
        subst h
        exact ⟨rfl, rfl, rfl, rfl⟩
      · exact ⟨rfl, rfl, rfl, rfl⟩
  · have hi := exec_shockEvent peak s
    unfold execShockEvent at hi
    rwa [if_pos h] at hi
  · have hi : exec (.wearUpdate days limit hours) s = execWearUpdate days limit hours s := rfl
    rw [execWearUpdate, if_neg (Nat.not_lt.2 h)] at hi
    exact hi

/-- The entry of a late fault keeps its cause. -/
def faultedWith (code : BitVec 8) (addr : Word) (e : LogEntry) : LogEntry :=
  { e with faulted := true, code := code, addr := addr, ri := true }

theorem lateFault_running {s : State} {k : Nat} {c : Crew} (h : crewAt s k = some c) (hn : takesNone s k c = false) (seq : Nat)
    (code : BitVec 8) (addr : Word) : lateFault s k seq code addr =
      putCrew s k { modLog c seq (faultedWith code addr) with late := c.late ++ [seq] } := by
  have hgo : ¬ takesNone s k c = true := by rw [hn]; decide
  simp only [lateFault, h]
  rw [if_neg hgo]
  rfl

theorem takesNone_congr {s t : State} {c d : Crew} (hu : t.units = s.units) (hd : d.uid = c.uid) (k : Nat) :
    takesNone t k d = takesNone s k c := by
  simp only [takesNone, crewCancelled, unitOf, hu, hd]

/-- A crew's only access, which waits on control-node memory, ends with a late FABRIC_TIMEOUT. -/
theorem remoteTimeout_only {s : State} {k : Nat} {c : Crew} {e : LogEntry} (hl : c.log = [e]) (hk : e.kind ≠ .loadSpec)
    (hcan : crewCancelled s c = false) (hb : k < 1032) :
    ∃ d, remoteTimeout s k c e = putCrew s k d ∧ d.late = c.late ++ [e.seq] ∧ ∀ f ∈ d.log, f.code = 0x30 ∧ f.faulted = true := by
  have hnone : takesNone s k c = false := by
    rw [takesNone, hcan, isResidue, decide_eq_false (by omega)]
    rfl
  unfold remoteTimeout
  dsimp only
  split
  · next h => exact absurd h hk
  · have hcrew := crewAt_putCrew_same s k (modLog c e.seq fun e => { e with tag := none })
    rw [lateFault_running hcrew ((takesNone_congr rfl rfl k).trans hnone), putCrew_putCrew]
    refine ⟨_, rfl, rfl, fun f hf => ?_⟩
    have hlog : f ∈ updateIf (·.seq == e.seq) (faultedWith 0x30 _) (updateIf (·.seq == e.seq) (fun e => { e with tag := none }) c.log) :=
      hf
    rw [hl] at hlog
    simp only [updateIf, List.map_cons, List.map_nil, beq_self_eq_true, if_true, List.mem_singleton] at hlog
    rw [hlog]
    exact ⟨rfl, rfl⟩

theorem lostNgugrimEndsItsAccesses : Sys2Proof.Claims.LostNgugrimEndsItsAccesses := by
  intro s k c e t hr hc hk hl hw ht hkind htag hcan hb
  have hat : crewAt s k = some c := by simp [crewAt, hc, mapGet]
  obtain ⟨d, hd, hlate, hlog⟩ := remoteTimeout_only hl hkind hcan hb
  have htier : endTier2 s k = putCrew s k d := by
    simp only [endTier2, hat, hl, List.filter_cons, hw, if_true, List.filter_nil, List.foldl_cons, List.foldl_nil, hd]
  have hi := exec_ngugrimRetrainTimeout s
  unfold execNgugrimRetrainTimeout at hi
  have hcrews : s.crews.map (·.1) = [k] := by rw [hc]; rfl
  have hcores : (putCrew s k d).cores.map (·.1) = [] := by rw [putCrew_cores, hk]; rfl
  rw [if_pos hr, hcrews] at hi
  simp only [List.foldl_cons, List.foldl_nil, htier] at hi
  rw [hcores, List.foldl_nil, endWaits_eq] at hi
  exact ⟨_, d, hi, crewAt_putCrew_same s k d, hlate, hlog⟩

/-! #### Boot and stop -/

theorem startReeve_f (s : State) (cl : Nat) : startReeve s cl =
    { s with crews := mapSet s.crews (1024 + cl) (reeveCrew s cl), nextCrew := freshId s + 1, free := s.free + 32 } := rfl

/-- The states differ in their crews and in what a new crew takes. -/
def OnlyCrews (s t : State) : Prop :=
  ∃ crews next free, t = { s with crews := crews, nextCrew := next, free := free }

theorem startReeves_onlyCrews (s : State) (l : List Nat) : OnlyCrews s (l.foldl startReeve s) :=
  List.foldlRecOn (motive := OnlyCrews s) l startReeve ⟨_, _, _, rfl⟩ fun t ht cl _ => by
    obtain ⟨crews, next, free, rfl⟩ := ht
    exact ⟨_, _, _, rfl⟩

theorem crewAt_startReeve (s : State) (cl j : Nat) :
    (crewAt (startReeve s cl) j).isSome = (decide (j = 1024 + cl) || (crewAt s j).isSome) := by
  rw [startReeve_f]
  unfold crewAt
  by_cases hj : j = 1024 + cl
  · simp [hj]
  · rw [decide_eq_false hj]
    exact congrArg _ (mapGet_mapSet_other _ _ hj)

theorem crewAt_startReeves (l : List Nat) (s : State) (j : Nat) :
    (crewAt (l.foldl startReeve s) j).isSome = (l.any (fun cl => decide (j = 1024 + cl)) || (crewAt s j).isSome) := by
  induction l generalizing s with
  | nil => rfl
  | cons cl l ih =>
    rw [List.foldl_cons, ih, crewAt_startReeve, List.any_cons]
    exact Bool.or_left_comm _ _ _ |>.trans (Bool.or_assoc _ _ _).symm

theorem packageBoot_allowed {s : State} {b : BootOutcome} (hs : b.signatureOk = true) (ha : bootAllowed s b = true) :
    ∃ r, exec (.packageBoot b) s = .next (startReeves r) ∧ r.crews = [] ∧ r.pkg.inReset = false ∧ r.pkg.coredis = b.coredis ∧
      r.pkg.enBlocked = !(b.failStep == 0) ∧ r.pkg.node = b.node.zeroExtend 64 ∧ r.fabric.frame = b.frame.toNat ∧
      r.hbm = s.hbm ∧ r.ctl = s.ctl ∧ r.port.en = false ∧ r.pkg.signatureFailed = false ∧
      r.spadStuck = if b.failStep == 0 && b.full then [] else s.spadStuck := by
  have hi := exec_packageBoot b s
  unfold execPackageBoot at hi
  rw [if_neg (by rw [hs]; decide), if_neg (by rw [ha]; decide)] at hi
  exact ⟨_, hi, rfl, rfl, rfl, rfl, rfl, rfl, rfl, rfl, rfl, rfl, rfl⟩

theorem orderlyStop_stops {s : State} {cause : BitVec 8} (h : cause = 2 ∨ (cause = 1 ∧ s.pkg.hold = true)) :
    ∃ r, exec (.orderlyStop cause) s = .next
      { packageReset r with pkg := { (packageReset r).pkg with
          powered := false, droopst := withBits (packageReset r).pkg.droopst 63 56 cause.toNat } } := by
  have hi := exec_orderlyStop cause s
  have hgo : ¬ (!(decide (cause = 2) || (decide (cause = 1) && s.pkg.hold))) = true := by
    obtain h | ⟨h, hh⟩ := h
    · rw [decide_eq_true h, Bool.true_or]
      decide
    · rw [decide_eq_true h, hh, Bool.and_self, Bool.or_true]
      decide
  unfold execOrderlyStop at hi
  rw [if_neg hgo] at hi
  exact ⟨_, hi⟩

theorem bootAndStop : Sys2Proof.Claims.BootAndStop := by
  intro s b cause
  refine ⟨fun hs => ?_, fun hs ha => ?_, fun hs ha => ?_, fun h => ?_, fun h1 h2 => ?_⟩
  · have hi := exec_packageBoot b s
    unfold execPackageBoot at hi
    rwa [if_pos (by rw [hs]; decide)] at hi
  · obtain ⟨r, hi, hc, hreset, hdis, hblock, hnode, hframe, hhbm, hctl, hen, hsig, hstuck⟩ := packageBoot_allowed hs ha
    obtain ⟨crews, next, free, ht⟩ : OnlyCrews r (startReeves r) := startReeves_onlyCrews r _
    have hcrew : ∀ j, (crewAt (startReeves r) j).isSome = (List.range clusters).any fun cl => decide (j = 1024 + cl) := fun j => by
      rw [startReeves, crewAt_startReeves, crewAt, hc]
      exact Bool.or_false _
    refine ⟨_, hi, ?_, ?_, ?_, ?_, ?_, ?_, ?_, ?_, ?_, ?_, fun cl hcl => ?_, fun k hk => ?_⟩
    case refine_11 =>
      rw [hcrew, List.any_eq_true]
      exact ⟨cl, List.mem_range.2 hcl, decide_eq_true rfl⟩
    case refine_12 =>
      rw [← Option.not_isSome_iff_eq_none, hcrew, List.any_eq_true]
      rintro ⟨cl, -, hcl⟩
      have := of_decide_eq_true hcl
      omega
    all_goals rw [ht]
    · exact hreset
    · exact hdis
    · exact hblock
    · exact hnode
    · exact hframe
    · exact hhbm
    · exact hctl
    · exact hen
    · exact hsig
    · refine hstuck.trans ?_
      simp only [Bool.and_eq_true, beq_iff_eq]
  · have hi := exec_packageBoot b s
    unfold execPackageBoot at hi
    rwa [if_neg (by rw [hs]; decide), if_pos (by rw [ha]; decide)] at hi
  · obtain ⟨r, hi⟩ := orderlyStop_stops h
    exact ⟨_, hi, rfl, rfl, bits_withBits_same (by decide) cause.isLt, rfl, rfl⟩
  · have hi := exec_orderlyStop cause s
    unfold execOrderlyStop at hi
    rwa [if_pos (by rw [decide_eq_false h1, decide_eq_false h2]; rfl)] at hi

/-- Settles O50: the registers of the package's condition by the cases of their definitions, the one access that a lost Ngugrim
ends, and the states that a boot and a stop leave. -/
theorem packageConditionsBootAndStop : Obligations.PackageConditionsBootAndStop :=
  ⟨conditionRegisters, lostNgugrimEndsItsAccesses, bootAndStop⟩

end Sys2Proof.Machine
end

/-! ### The lanes of a Mill -/

section
namespace Sys2Proof.Machine
open Sys2Proof.Claims Sys2Proof.Config

/-! #### Lanes, tags and flags written -/

theorem lane_eq (v : MillState) (r : BitVec 4) (l : Nat) : lane v r l = (v.mv[r.toNat]).toNat / 2 ^ (32 * l) % 2 ^ 32 := by
  rw [lane, elem, BitVec.toNat_setWidth, 
    Nat.mod_eq_of_lt (Nat.lt_of_lt_of_le (v.mv[r.toNat]).isLt (Nat.pow_le_pow_right (by decide) (by decide)))]

theorem testBit_boolBits (l : List Bool) (i : Nat) : (boolBits l).testBit i = l.getD i false := by
  induction l generalizing i with
  | nil => simp [boolBits]
  | cons b l ih =>
    cases i with
    | zero => cases b <;> simp [boolBits]
    | succ i =>
      have hdiv : boolBits (b :: l) / 2 = boolBits l := by
        have hcons : boolBits (b :: l) = (if b then 1 else 0) + 2 * boolBits l := rfl
        rw [hcons]
        split <;> omega
      rw [Nat.testBit_succ, hdiv, ih]
      rfl

theorem getLsbD_laneFlag (v : MillState) (l i : Nat) : (laneFlag v l).getLsbD i = (decide (i < 5) && v.laneFlags.getLsbD (5 * l + i)) :=
  BitVec.getLsbD_extractLsb' ..

theorem laneFlag_raiseLane_same (v : MillState) {l : Nat} (hl : l < 32) (f : FlagSet) :
    laneFlag (raiseLane v l f) l = laneFlag v l ||| f := by
  refine BitVec.eq_of_getLsbD_eq fun i hi => ?_
  rw [getLsbD_laneFlag, BitVec.getLsbD_or, getLsbD_laneFlag, raiseLane]
  simp only [BitVec.getLsbD_or, BitVec.getLsbD_shiftLeft, BitVec.getLsbD_setWidth]
  simp [hi, show 5 * l + i < 160 by omega, show i < 160 by omega, show ¬ 5 * l + i < 5 * l by omega]

theorem laneFlag_raiseLane_other (v : MillState) {l j : Nat} (h : j ≠ l) (f : FlagSet) :
    laneFlag (raiseLane v l f) j = laneFlag v j := by
  refine BitVec.eq_of_getLsbD_eq fun i hi => ?_
  rw [getLsbD_laneFlag, getLsbD_laneFlag, raiseLane]
  simp only [BitVec.getLsbD_or, BitVec.getLsbD_shiftLeft, BitVec.getLsbD_setWidth]
  by_cases hlow : 5 * j + i < 5 * l
  · simp [hlow]
  · have hout : f.getLsbD (5 * j + i - 5 * l) = false := BitVec.getLsbD_of_ge _ _ (by omega)
    simp [hout]

/-- Packing one number for each lane and taking a lane's again. -/
theorem packLanes_elem (w : Nat) (f : Nat → Nat) {l : Nat} (hl : l < 32) :
    packElems w ((List.range 32).map f) / 2 ^ (w * l) % 2 ^ w = f l % 2 ^ w := by
  rw [packElems_elem w _ l (by simpa using hl), List.getElem_map, List.getElem_range]

theorem packLanes_lt (w : Nat) (f : Nat → Nat) : packElems w ((List.range 32).map f) < 2 ^ (w * 32) := by
  simpa using packElems_lt w ((List.range 32).map f)

/-- What a word makes of a lane: its result's part, or what the lane had. -/
def resultOr {α : Type} (r : Option LaneResult) (f : LaneResult → α) (old : α) : α :=
  match r with
  | some x => f x
  | none => old

theorem putLanes_eq (v : MillState) (d : BitVec 4) (out : Nat → Option LaneResult) : putLanes v d out =
    { v with
      mv := v.mv.set d.toNat (BitVec.ofNat 1024 (packElems 32 ((List.range 32).map fun l => resultOr (out l) (·.value) (lane v d l))))
      mvPoison := v.mvPoison.set d.toNat
        (BitVec.ofNat 32 (boolBits ((List.range 32).map fun l => resultOr (out l) (·.tag) (laneTag v d l))))
      laneFlags := v.laneFlags |||
        BitVec.ofNat 160 (packElems 5 ((List.range 32).map fun l => resultOr (out l) (·.flags.toNat) 0)) } := by
  unfold putLanes
  simp only [zipIdx_map_range, List.map_map]
  rfl

theorem lane_putLanes (v : MillState) (d : BitVec 4) (out : Nat → Option LaneResult) {l : Nat} (hl : l < 32) :
    lane (putLanes v d out) d l = resultOr (out l) (·.value) (lane v d l) % 2 ^ 32 := by
  rw [lane_eq, putLanes_eq]
  dsimp only
  rw [Vector.getElem_set_self, BitVec.toNat_ofNat, Nat.mod_eq_of_lt (packLanes_lt 32 _), packLanes_elem _ _ hl]

theorem laneTag_putLanes (v : MillState) (d : BitVec 4) (out : Nat → Option LaneResult) {l : Nat} (hl : l < 32) :
    laneTag (putLanes v d out) d l = resultOr (out l) (·.tag) (laneTag v d l) := by
  rw [laneTag, putLanes_eq]
  dsimp only
  rw [Vector.getElem_set_self, BitVec.getLsbD_ofNat, testBit_boolBits, decide_eq_true hl]
  simp [hl]

theorem laneFlag_putLanes (v : MillState) (d : BitVec 4) (out : Nat → Option LaneResult) {l : Nat} (hl : l < 32) :
    laneFlag (putLanes v d out) l = laneFlag v l ||| resultOr (out l) (·.flags) 0 := by
  refine BitVec.eq_of_getLsbD_eq fun i hi => ?_
  have hdiv : (5 * l + i) / 5 = l := by omega
  have hmod : (5 * l + i) % 5 = i := by omega
  rw [getLsbD_laneFlag, BitVec.getLsbD_or, getLsbD_laneFlag, putLanes_eq]
  dsimp only
  rw [BitVec.getLsbD_or, BitVec.getLsbD_ofNat, packElems_testBit (by decide) _ _ (by simp; omega), List.getElem_map,
    List.getElem_range, hdiv, hmod, decide_eq_true hi, decide_eq_true (show 5 * l + i < 160 by omega)]
  cases out l with
  | none => simp [resultOr]
  | some x => simp [resultOr, BitVec.testBit_toNat]

theorem lane_lt (v : MillState) (r : BitVec 4) (l : Nat) : lane v r l < 2 ^ 32 := by
  rw [lane_eq]
  exact Nat.mod_lt _ (Nat.two_pow_pos 32)

/-- The lanes that a word writes, and no others (R298). -/
theorem putLanes_lanesWritten (v : MillState) (d : BitVec 4) (out : Nat → Option LaneResult) :
    lanesWritten v (putLanes v d out) d out := by
  refine ⟨rfl, fun r hr => ?_, fun l hl => ?_⟩
  · have hne : d.toNat ≠ r.toNat := fun h => hr (BitVec.eq_of_toNat_eq h.symm)
    rw [putLanes_eq]
    exact ⟨Vector.getElem_set_ne d.isLt r.isLt hne, Vector.getElem_set_ne d.isLt r.isLt hne⟩
  · rw [lane_putLanes v d out hl, laneTag_putLanes v d out hl, laneFlag_putLanes v d out hl]
    cases out l with
    | none => exact ⟨Nat.mod_eq_of_lt (lane_lt v d l), rfl, BitVec.or_zero⟩
    | some x => exact ⟨rfl, rfl, rfl⟩

/-- An instruction that is a Mill word in range whose body writes lanes gives them. -/
theorem givesLanes_of_millWord {i : Instr} {bad : Bool} {body : State → MillState → MillEnd} {s : State} {m : Nat} {v : MillState}
    {d : BitVec 4} {out : Nat → Option LaneResult} (h : MillRuns s m v) (hi : exec i s = millWord bad s body) (hbad : bad = false)
    (hbody : body s v = .done s (putLanes v d out)) : givesLanes i s m v d out :=
  ⟨_, exec_of_millWord h hi hbad hbody, putLanes_lanesWritten v d out⟩

/-! #### The common lane forms (R303, R304) -/

theorem badCommon_good {t : BitVec 2} {c : BitVec 1} {sel : BitVec 5} (h : c = 1 ∨ sel = 0) (ht : t ≠ 3) :
    badCommon t c sel = false := by
  revert ht
  obtain rfl | rfl := h
  · revert t
    decide +revert
  · revert t c
    decide

/-- What a lane form gives a lane. -/
def laneFormOut (v : MillState) (d a b : BitVec 4) (k : BitVec 2) (c : BitVec 1) (sel : BitVec 5) (readsD : Bool)
    (f : Nat → Nat → Nat → Nat × FlagSet) (l : Nat) : Option LaneResult :=
  let r := f (lane v a l) (lane v b (laneB c sel l)) (lane v d l)
  if (mkGet v k).getLsbD l then
    some { value := r.1, tag := laneTag v a l || laneTag v b (laneB c sel l) || (readsD && laneTag v d l), flags := r.2 }
  else none

theorem givesLanes_of_laneForm {i : Instr} {bad : Bool} {d a b : BitVec 4} {k : BitVec 2} {c : BitVec 1} {sel : BitVec 5}
    {readsD : Bool} {f : Nat → Nat → Nat → Nat × FlagSet} {s : State} {m : Nat} {v : MillState} (h : MillRuns s m v)
    (hi : exec i s = laneForm bad d a b k c sel readsD f s) (hbad : bad = false) :
    givesLanes i s m v d (laneFormOut v d a b k c sel readsD f) :=
  givesLanes_of_millWord h hi hbad rfl

/-- What an integer form of two operands gives a lane. -/
def laneIntOut (v : MillState) (a b : BitVec 4) (k : BitVec 2) (c : BitVec 1) (sel : BitVec 5)
    (g : BitVec 32 → BitVec 32 → BitVec 32) (l : Nat) : Option LaneResult :=
  if (mkGet v k).getLsbD l then
    some { value := (g (BitVec.ofNat 32 (lane v a l)) (BitVec.ofNat 32 (lane v b (laneB c sel l)))).toNat
           tag := laneTag v a l || laneTag v b (laneB c sel l), flags := 0 }
  else none

theorem toNat_lane (v : MillState) (r : BitVec 4) (l : Nat) : (BitVec.ofNat 32 (lane v r l)).toNat = lane v r l := by
  rw [BitVec.toNat_ofNat, Nat.mod_eq_of_lt (lane_lt v r l)]

/-- A lane form whose function gives every lane the register that g names, without flags. -/
theorem givesLanes_of_bits {i : Instr} {bad : Bool} {d a b : BitVec 4} {k : BitVec 2} {c : BitVec 1} {sel : BitVec 5}
    {f : Nat → Nat → Nat → Nat × FlagSet} {g : BitVec 32 → BitVec 32 → BitVec 32} {s : State} {m : Nat} {v : MillState}
    (h : MillRuns s m v) (hi : exec i s = laneForm bad d a b k c sel false f s) (hbad : bad = false)
    (hf : ∀ (x y : BitVec 32) z, f x.toNat y.toNat z = ((g x y).toNat, 0)) :
    givesLanes i s m v d (laneIntOut v a b k c sel g) := by
  have hout : laneFormOut v d a b k c sel false f = laneIntOut v a b k c sel g := funext fun l => by
    have hl := hf (BitVec.ofNat 32 (lane v a l)) (BitVec.ofNat 32 (lane v b (laneB c sel l))) (lane v d l)
    rw [toNat_lane, toNat_lane] at hl
    simp only [laneFormOut, laneIntOut, hl, Bool.false_and, Bool.or_false]
  exact hout ▸ givesLanes_of_laneForm h hi hbad

/-- An arithmetic form on integers, signed or unsigned, gives the low 32 bits of its exact result. -/
theorem givesLanes_of_arithForm {i : Instr} {bad : Bool} {d a b : BitVec 4} {k : BitVec 2} {c : BitVec 1} {sel : BitVec 5}
    {signed : Bool} {int : Int → Int → Int} {flt : Nat → Nat → Nat × FlagSet} {g : BitVec 32 → BitVec 32 → BitVec 32} {s : State}
    {m : Nat} {v : MillState} (h : MillRuns s m v)
    (hi : exec i s = arithForm bad d a b k (if signed then 0 else 2) c sel int flt s) (hbad : bad = false)
    (hg : ∀ x y : BitVec 32, BitVec.ofInt 32 (int (intOf 32 signed x.toNat) (intOf 32 signed y.toNat)) = g x y) :
    givesLanes i s m v d (laneIntOut v a b k c sel g) := by
  have hsign : ((if signed then 0 else 2 : BitVec 2) == 0) = signed := by cases signed <;> rfl
  have hint : (if signed then 0 else 2 : BitVec 2) ≠ 1 := by cases signed <;> decide
  refine givesLanes_of_bits h hi hbad fun x y _ => ?_
  rw [if_neg hint, hsign, wrapInt_eq_toNat_ofInt, hg]

theorem typeOf_ne (signed : Bool) : (if signed then 0 else 2 : BitVec 2) ≠ 3 ∧ ((if signed then 0 else 2 : BitVec 2) == 1) = false := by
  cases signed <;> decide

theorem exec_nadd (d a b : BitVec 4) (k t : BitVec 2) (c : BitVec 1) (sel : BitVec 5) (s : State) :
    exec (.nadd d a b k t c sel) s = arithForm (badCommon t c sel) d a b k t c sel (· + ·) addFp32 s := rfl

theorem exec_nsub (d a b : BitVec 4) (k t : BitVec 2) (c : BitVec 1) (sel : BitVec 5) (s : State) :
    exec (.nsub d a b k t c sel) s = arithForm (badCommon t c sel) d a b k t c sel (· - ·) subFp32 s := rfl

theorem exec_nmul (d a b : BitVec 4) (k t : BitVec 2) (c : BitVec 1) (sel : BitVec 5) (s : State) :
    exec (.nmul d a b k t c sel) s = arithForm (badCommon t c sel) d a b k t c sel (· * ·) mulFp32 s := rfl

theorem exec_nmax (d a b : BitVec 4) (k t : BitVec 2) (c : BitVec 1) (sel : BitVec 5) (s : State) :
    exec (.nmax d a b k t c sel) s = arithForm (badCommon t c sel) d a b k t c sel max maxFp32 s := rfl

theorem exec_nmin (d a b : BitVec 4) (k t : BitVec 2) (c : BitVec 1) (sel : BitVec 5) (s : State) :
    exec (.nmin d a b k t c sel) s = arithForm (badCommon t c sel) d a b k t c sel min minFp32 s := rfl

theorem exec_nshl (d a b : BitVec 4) (k t : BitVec 2) (c : BitVec 1) (sel : BitVec 5) (s : State) :
    exec (.nshl d a b k t c sel) s =
      arithForm (badCommon t c sel || t == 1) d a b k t c sel (shiftLeft 32) (fun _ _ => (0, 0)) s := rfl

theorem exec_nshr (d a b : BitVec 4) (k t : BitVec 2) (c : BitVec 1) (sel : BitVec 5) (s : State) :
    exec (.nshr d a b k t c sel) s =
      arithForm (badCommon t c sel || t == 1) d a b k t c sel (shiftRight 32) (fun _ _ => (0, 0)) s := rfl

theorem exec_nand (d a b : BitVec 4) (k t : BitVec 2) (c : BitVec 1) (sel : BitVec 5) (s : State) :
    exec (.nand d a b k t c sel) s = laneForm (badCommon t c sel) d a b k c sel false (fun x y _ => (x &&& y, 0)) s := rfl

theorem exec_nor (d a b : BitVec 4) (k t : BitVec 2) (c : BitVec 1) (sel : BitVec 5) (s : State) :
    exec (.nor d a b k t c sel) s = laneForm (badCommon t c sel) d a b k c sel false (fun x y _ => (x ||| y, 0)) s := rfl

theorem exec_nxor (d a b : BitVec 4) (k t : BitVec 2) (c : BitVec 1) (sel : BitVec 5) (s : State) :
    exec (.nxor d a b k t c sel) s = laneForm (badCommon t c sel) d a b k c sel false (fun x y _ => (x ^^^ y, 0)) s := rfl

theorem givesLanes_millLaneForms {s : State} {m : Nat} {v : MillState} (d a b : BitVec 4) (k : BitVec 2) {c : BitVec 1}
    {sel : BitVec 5} (signed : Bool) (h : MillRuns s m v) (hsel : c = 1 ∨ sel = 0) :
    ∀ p ∈ millLaneForms d a b k c sel signed, givesLanes p.1 s m v d (laneIntOut v a b k c sel p.2) := by
  have hgood := badCommon_good hsel (typeOf_ne signed).1
  have hshift : (badCommon (if signed then 0 else 2) c sel || (if signed then 0 else 2 : BitVec 2) == 1) = false := by
    rw [hgood, (typeOf_ne signed).2]
    rfl
  simp only [millLaneForms, List.forall_mem_cons, List.not_mem_nil, false_imp_iff, implies_true, and_true]
  exact ⟨givesLanes_of_arithForm h (exec_nadd ..) hgood (ofInt_intOf_add signed), givesLanes_of_arithForm h (exec_nsub ..) hgood (ofInt_intOf_sub signed),
    givesLanes_of_arithForm h (exec_nmul ..) hgood (ofInt_intOf_mul signed), givesLanes_of_arithForm h (exec_nmax ..) hgood (ofInt_intOf_max signed),
    givesLanes_of_arithForm h (exec_nmin ..) hgood (ofInt_intOf_min signed),
    givesLanes_of_bits h (exec_nand ..) hgood fun x y _ => by rw [BitVec.toNat_and],
    givesLanes_of_bits h (exec_nor ..) hgood fun x y _ => by rw [BitVec.toNat_or],
    givesLanes_of_bits h (exec_nxor ..) hgood fun x y _ => by rw [BitVec.toNat_xor],
    givesLanes_of_arithForm h (exec_nshl ..) hshift (ofInt_shiftLeft_intOf signed),
    givesLanes_of_arithForm h (exec_nshr ..) hshift (ofInt_shiftRight_intOf signed)⟩

theorem givesLanes_millFloatForms {s : State} {m : Nat} {v : MillState} (d a b : BitVec 4) (k : BitVec 2) {c : BitVec 1}
    {sel : BitVec 5} (h : MillRuns s m v) (hsel : c = 1 ∨ sel = 0) :
    ∀ p ∈ millFloatForms d a b k c sel, givesLanes p.1 s m v d (laneFormOut v d a b k c sel p.2.1 p.2.2) := by
  have hgood := badCommon_good (t := 1) hsel (by decide)
  simp only [millFloatForms, List.forall_mem_cons, List.not_mem_nil, false_imp_iff, implies_true, and_true]
  exact ⟨givesLanes_of_laneForm h rfl hgood, givesLanes_of_laneForm h rfl hgood, givesLanes_of_laneForm h rfl hgood,
    givesLanes_of_laneForm h rfl hgood, givesLanes_of_laneForm h rfl hgood, givesLanes_of_laneForm h rfl hgood,
    givesLanes_of_laneForm h rfl hgood, givesLanes_of_laneForm h rfl hgood, givesLanes_of_laneForm h rfl hgood⟩

theorem exec_nliVector (d : BitVec 4) (k : BitVec 2) (i : BitVec 12) (s : State) : exec (.nliVector d k i) s =
    millWord false s fun s v => .done s (putLanes v d fun l => if (mkGet v k).getLsbD l then
      some { value := (i.signExtend 32).toNat, tag := false, flags := 0 } else none) := rfl

theorem exec_nliFromMx (d b : BitVec 4) (k : BitVec 2) (s : State) : exec (.nliFromMx d b k) s =
    millWord false s fun s v => .done s (putLanes v d fun l => if (mkGet v k).getLsbD l then
      some { value := bits (mxGet v b) 31 0, tag := mxTag v b, flags := 0 } else none) := rfl

/-- Settles O52: each form is a Mill word in range that writes the lanes its mask makes active. -/
theorem millLaneWords : Obligations.MillLaneWords := by
  intro s m v d a b k c sel signed i h hsel other
  refine ⟨givesLanes_millLaneForms d a b k signed h hsel, givesLanes_millFloatForms d a b k h hsel, ?_, ?_⟩
  · exact givesLanes_of_millWord h (exec_nliVector d k i s) rfl rfl
  · exact givesLanes_of_millWord h (exec_nliFromMx d b k s) rfl rfl

end Sys2Proof.Machine
end

/-! ### The Mill's compares, selections, reductions and dot products -/

section
namespace Sys2Proof.Machine
open Sys2Proof.Claims Sys2Proof.Config

/-! #### Mask registers written -/

theorem mkGet_mkPut_same {d : BitVec 2} (hd : d ≠ 0) (v : MillState) (x : BitVec 32) : mkGet (mkPut v d x) d = x := by
  unfold mkPut mkGet
  rw [if_neg hd]
  exact Vector.getElem_set_self d.isLt

theorem mkGet_mkPut_other {d q : BitVec 2} (hq : q ≠ d) (v : MillState) (x : BitVec 32) : mkGet (mkPut v d x) q = mkGet v q := by
  have hne : d.toNat ≠ q.toNat := fun h => hq (BitVec.eq_of_toNat_eq h.symm)
  unfold mkPut mkGet
  split
  · rfl
  · exact Vector.getElem_set_ne d.isLt q.isLt hne

theorem mkPut_eq (v : MillState) (d : BitVec 2) (x : BitVec 32) : mkPut v d x = { v with mask := (mkPut v d x).mask } := by
  unfold mkPut
  split <;> rfl

/-- Register d of v' holds what a word gives the lanes that mask k makes active, and every other bit of a mask is as in v. -/
def masksWritten (v v' : MillState) (d k : BitVec 2) (f : Nat → Bool) : Prop :=
  (∀ q, q ≠ d → mkGet v' q = mkGet v q) ∧
    ∀ l < 32, (mkGet v' d).getLsbD l = if (mkGet v k).getLsbD l then f l else (mkGet v d).getLsbD l

theorem putMask_masksWritten {d : BitVec 2} (hd : d ≠ 0) (v : MillState) (k : BitVec 2) (f : Nat → Bool) :
    masksWritten v (putMask v d k f) d k f := by
  refine ⟨fun q hq => mkGet_mkPut_other hq _ _, fun l hl => ?_⟩
  rw [putMask, mkGet_mkPut_same hd, BitVec.getLsbD_ofNat, testBit_boolBits, decide_eq_true hl]
  simp [hl]

/-! #### Flags raised lane by lane -/

/-- The flags that a word raises in its active lanes. -/
def raiseActive (v : MillState) (k : BitVec 2) (f : Nat → FlagSet) (l : List Nat) : MillState :=
  l.foldl (fun u l => if (mkGet v k).getLsbD l then raiseLane u l (f l) else u) v

theorem raiseActive_concat (v : MillState) (k : BitVec 2) (f : Nat → FlagSet) (l : List Nat) (a : Nat) :
    raiseActive v k f (l ++ [a]) =
      if (mkGet v k).getLsbD a then raiseLane (raiseActive v k f l) a (f a) else raiseActive v k f l := by
  simp [raiseActive]

theorem raiseActive_eq (v : MillState) (k : BitVec 2) (f : Nat → FlagSet) (l : List Nat) :
    ∃ flags, raiseActive v k f l = { v with laneFlags := flags } := by
  refine List.foldlRecOn (motive := fun u : MillState => ∃ flags, u = { v with laneFlags := flags }) l _
    ⟨v.laneFlags, rfl⟩ fun u hu a _ => ?_
  obtain ⟨flags, rfl⟩ := hu
  split
  · exact ⟨_, rfl⟩
  · exact ⟨_, rfl⟩

theorem raiseLane_zero (v : MillState) (l : Nat) : raiseLane v l 0 = v := by
  have hzero : (BitVec.zeroExtend 160 (0 : FlagSet)) <<< (5 * l) = 0 := by simp
  rw [raiseLane, hzero]
  exact congrArg (fun flags => { v with laneFlags := flags }) BitVec.or_zero

theorem raiseActive_none (v : MillState) (k : BitVec 2) (l : List Nat) : raiseActive v k (fun _ => 0) l = v := by
  refine List.foldlRecOn (motive := (· = v)) l _ rfl fun u hu a _ => ?_
  rw [raiseLane_zero, ite_self, hu]

theorem laneFlag_raiseActive (v : MillState) (k : BitVec 2) (f : Nat → FlagSet) (n : Nat) (hn : n ≤ 32) (l : Nat) :
    laneFlag (raiseActive v k f (List.range n)) l =
      if l < n ∧ (mkGet v k).getLsbD l then laneFlag v l ||| f l else laneFlag v l := by
  induction n with
  | zero => simp [raiseActive]
  | succ n ih =>
    rw [List.range_succ, raiseActive_concat]
    by_cases hl : l = n
    · rw [hl] at ih ⊢
      split
      · next ha =>
        rw [laneFlag_raiseLane_same _ (by omega), ih (by omega), if_neg (by omega), if_pos ⟨by omega, ha⟩]
      · next ha => rw [ih (by omega), if_neg (by omega), if_neg (fun h => ha h.2)]
    · have hother : laneFlag (if (mkGet v k).getLsbD n then raiseLane (raiseActive v k f (List.range n)) n (f n)
          else raiseActive v k f (List.range n)) l = laneFlag (raiseActive v k f (List.range n)) l := by
        split
        · exact laneFlag_raiseLane_other _ hl _
        · rfl
      have hlt : l < n + 1 ↔ l < n := by omega
      rw [hother, ih (by omega)]
      simp only [hlt]

/-! #### Compares (R190, R305) -/

theorem exec_ncmp (e : BitVec 2) (a b : BitVec 4) (k t : BitVec 2) (c : BitVec 1) (sel : BitVec 5) (cc : BitVec 3) (s : State) :
    exec (.ncmp e a b k t c sel cc) s = millWord (badCommon t c sel || e == 0 || cc == 7 || (cc == 6 && t != 1)) s fun s v =>
      .done s (putMask (raiseActive v k (fun l => (compareLane t cc.toNat (lane v a l) (lane v b (laneB c sel l))).2) (List.range 32))
        e k fun l => !(laneTag v a l || laneTag v b (laneB c sel l)) &&
          (compareLane t cc.toNat (lane v a l) (lane v b (laneB c sel l))).1) := rfl

theorem putMask_laneFlags (v : MillState) (flags : BitVec 160) (d k : BitVec 2) (f : Nat → Bool) :
    putMask { v with laneFlags := flags } d k f = { putMask v d k f with laneFlags := flags } := by
  unfold putMask mkPut
  split <;> rfl

theorem intOf_lt_intOf {w : Nat} (signed : Bool) (x y : BitVec w) : intOf w signed x.toNat < intOf w signed y.toNat ↔
    (if signed then decide (x.toInt < y.toInt) else decide (x.toNat < y.toNat)) = true := by
  cases signed
  case false => simp [intOf_unsigned]
  case true => simp [intOf_signed]

theorem intOf_eq_intOf {w : Nat} (signed : Bool) (x y : BitVec w) : intOf w signed x.toNat = intOf w signed y.toNat ↔ x = y := by
  refine ⟨fun h => ?_, fun h => h ▸ rfl⟩
  rw [← ofInt_intOf signed x, h, ofInt_intOf]

/-- The condition that a code names, of six. -/
theorem any_numbered {cc : BitVec 3} (h : cc.toNat < 6) (b0 b1 b2 b3 b4 b5 : Bool) :
    ([(0, b0), (1, b1), (2, b2), (3, b3), (4, b4), (5, b5)] : List (BitVec 3 × Bool)).any (fun q => q.1 == cc && q.2) =
      [b0, b1, b2, b3, b4, b5].getD cc.toNat false := by
  revert h cc
  revert b0 b1 b2 b3 b4 b5
  decide

/-- The conditions on two integers, in the order of their codes. -/
theorem compareInt_eq_getD (x y : Int) {k : Nat} (h : k < 6) : compareInt k x y =
    [decide (x = y), !decide (x = y), decide (x < y), !decide (y < x), decide (y < x), !decide (x < y)].getD k false := by
  match k, h with
  | 0, _ => rfl
  | 1, _ => simp [compareInt]
  | 2, _ => rfl
  | 3, _ => exact (decide_eq_decide.2 Int.not_lt.symm).trans decide_not
  | 4, _ => rfl
  | 5, _ => exact (decide_eq_decide.2 Int.not_lt.symm).trans decide_not

theorem compareInt_millCondition (signed : Bool) (x y : BitVec 32) {cc : BitVec 3} (h : cc.toNat < 6) :
    compareInt cc.toNat (intOf 32 signed x.toNat) (intOf 32 signed y.toNat) =
      (millCondition signed x y).any fun q => q.1 == cc && q.2 := by
  have hlt : ∀ x y : BitVec 32, decide (intOf 32 signed x.toNat < intOf 32 signed y.toNat) =
      if signed then decide (x.toInt < y.toInt) else decide (x.toNat < y.toNat) := fun x y => by
    rw [Bool.eq_iff_iff, decide_eq_true_eq, intOf_lt_intOf]
  have heq : decide (intOf 32 signed x.toNat = intOf 32 signed y.toNat) = (x == y) := by
    rw [Bool.eq_iff_iff, decide_eq_true_eq, intOf_eq_intOf, beq_iff_eq]
  rw [compareInt_eq_getD _ _ h, hlt, hlt, heq]
  exact (any_numbered h _ _ _ _ _ _).symm

theorem putMask_eq (v : MillState) (d k : BitVec 2) (f : Nat → Bool) :
    putMask v d k f = { v with mask := (putMask v d k f).mask } := mkPut_eq _ _ _

theorem ncmp_good {t : BitVec 2} {c : BitVec 1} {sel : BitVec 5} {e : BitVec 2} {cc : BitVec 3} (hsel : c = 1 ∨ sel = 0) (ht : t ≠ 3)
    (he : e ≠ 0) (h7 : cc ≠ 7) (h6 : cc = 6 → t = 1) :
    (badCommon t c sel || e == 0 || cc == 7 || (cc == 6 && t != 1)) = false := by
  rw [badCommon_good hsel ht, beq_false_of_ne he, beq_false_of_ne h7]
  by_cases h : cc = 6
  · rw [h6 h]
    exact Bool.and_false _
  · rw [beq_false_of_ne h]
    rfl

theorem ncmp_integers {s : State} {m : Nat} {v : MillState} (h : MillRuns s m v) (a b : BitVec 4) (k : BitVec 2) {e : BitVec 2}
    {c : BitVec 1} {sel : BitVec 5} (signed : Bool) (hsel : c = 1 ∨ sel = 0) {cc : BitVec 3} (he : e ≠ 0) (hcc : cc.toNat < 6) :
    ∃ v', exec (.ncmp e a b k (if signed then 0 else 2) c sel cc) s = .next (millIssued s m v') ∧ v' = { v with mask := v'.mask } ∧
      masksWritten v v' e k fun l => !(laneTag v a l || laneTag v b (laneB c sel l)) &&
        (millCondition signed (BitVec.ofNat 32 (lane v a l)) (BitVec.ofNat 32 (lane v b (laneB c sel l)))).any
          fun q => q.1 == cc && q.2 := by
  have hne := typeOf_ne signed
  have hsign : ((if signed then 0 else 2 : BitVec 2) == 0) = signed := by cases signed <;> rfl
  have hint : (if signed then 0 else 2 : BitVec 2) ≠ 1 := by cases signed <;> decide
  have h7 : cc ≠ 7 ∧ cc ≠ 6 := by
    revert hcc
    revert cc
    decide
  have hbody := exec_of_millWord h (exec_ncmp e a b k _ c sel cc s) (ncmp_good hsel hne.1 he h7.1 fun h => absurd h h7.2) rfl
  refine ⟨_, hbody.trans ?_, putMask_eq _ _ _ _, putMask_masksWritten he _ _ _⟩
  have hlane : ∀ l, compareLane (if signed then 0 else 2) cc.toNat (lane v a l) (lane v b (laneB c sel l)) =
      ((millCondition signed (BitVec.ofNat 32 (lane v a l)) (BitVec.ofNat 32 (lane v b (laneB c sel l)))).any
        (fun q => q.1 == cc && q.2), 0) := fun l => by
    rw [compareLane, if_neg hint, hsign, ← compareInt_millCondition signed _ _ hcc, toNat_lane, toNat_lane]
  simp only [hlane, raiseActive_none]

theorem ncmp_floats {s : State} {m : Nat} {v : MillState} (h : MillRuns s m v) (a b : BitVec 4) (k : BitVec 2) {e : BitVec 2}
    {c : BitVec 1} {sel : BitVec 5} (hsel : c = 1 ∨ sel = 0) {cc : BitVec 3} (he : e ≠ 0) (hcc : cc.toNat < 7) :
    ∃ v', exec (.ncmp e a b k 1 c sel cc) s = .next (millIssued s m v') ∧
      v' = { v with mask := v'.mask, laneFlags := v'.laneFlags } ∧ (∀ q, q ≠ e → mkGet v' q = mkGet v q) ∧
      ∀ l < 32,
        let r := compareNum cc.toNat (fp32.decode (lane v a l)) (fp32.decode (lane v b (laneB c sel l)))
        let clean := !(laneTag v a l || laneTag v b (laneB c sel l))
        (mkGet v' e).getLsbD l = (if (mkGet v k).getLsbD l then clean && r.1 else (mkGet v e).getLsbD l) ∧
        laneFlag v' l = (if (mkGet v k).getLsbD l then laneFlag v l ||| r.2 else laneFlag v l) := by
  have h7 : cc ≠ 7 := by
    revert hcc
    revert cc
    decide
  have hbody := exec_of_millWord h (exec_ncmp e a b k 1 c sel cc s) (ncmp_good hsel (by decide) he h7 fun _ => rfl) rfl
  have hflags := laneFlag_raiseActive v k
    (fun l => (compareLane 1 cc.toNat (lane v a l) (lane v b (laneB c sel l))).2) 32 (Nat.le_refl 32)
  obtain ⟨flags, hraised⟩ := raiseActive_eq v k
    (fun l => (compareLane 1 cc.toNat (lane v a l) (lane v b (laneB c sel l))).2) (List.range 32)
  rw [hraised] at hbody hflags
  rw [putMask_laneFlags] at hbody
  obtain ⟨hother, hsame⟩ := putMask_masksWritten he v k fun l => !(laneTag v a l || laneTag v b (laneB c sel l)) &&
    (compareLane 1 cc.toNat (lane v a l) (lane v b (laneB c sel l))).1
  refine ⟨_, hbody, ?_, hother, fun l hl => ⟨hsame l hl, ?_⟩⟩
  · rw [putMask_eq]
  · have hfl := hflags l
    simp only [hl, true_and] at hfl
    exact hfl

/-! #### Selections, permutes and conversions (R305 to R307, R317) -/

theorem exec_nsel (d a b : BitVec 4) (k : BitVec 2) (c : BitVec 1) (sel : BitVec 5) (s : State) :
    exec (.nsel d a b k c sel) s = millWord (badCommon 0 c sel) s fun s v => .done s (putLanes v d fun l =>
      some (if (mkGet v k).getLsbD l then { value := lane v a l, tag := laneTag v a l, flags := 0 }
        else { value := lane v b (laneB c sel l), tag := laneTag v b (laneB c sel l), flags := 0 })) := rfl

theorem exec_nidx (d a : BitVec 4) (k : BitVec 2) (i : BitVec 11) (s : State) :
    exec (.nidx d a k i) s = millWord false s fun s v => .done s (putLanes v d (onLanes v k fun l =>
      { value := ((mxGet v a).truncate 32 + BitVec.ofNat 32 l + i.signExtend 32).toNat, tag := mxTag v a, flags := 0 })) := rfl

theorem exec_nidxW (e k : BitVec 2) (t : BitVec 7) (s : State) :
    exec (.nidxW e k t) s = millWord (e == 0) s fun s v => .done s (putMask v e k fun l =>
      decide (t.toNat + l < v.vc.toNat) && decide (v.wf.toNat ≤ (v.pb.toNat + t.toNat + l) % 2 ^ 32)) := rfl

theorem exec_ncvt (d a : BitVec 4) (k : BitVec 2) (p : BitVec 3) (y z : BitVec 4) (s : State) :
    exec (.ncvt d a k p y z) s = millWord (!WellFormed.ncvtPair z y p) s fun s v => .done s (putLanes v d (onLanes v k fun l =>
      { value := (convertLane z.toNat y.toNat p.toNat (lane v a l) (lane v d l)).1
        tag := laneTag v a l || (decide (z = 0x9 ∧ y ≠ 0x4) && laneTag v d l)
        flags := (convertLane z.toNat y.toNat p.toNat (lane v a l) (lane v d l)).2 })) := rfl

/-- The bytes that NPERM takes for a lane. -/
def permBytes (v : MillState) (a b : BitVec 4) (l : Nat) : List Nat :=
  (List.range 4).map fun j => if millByte v b (4 * l + j) < 128 then millByte v a (millByte v b (4 * l + j)) else 0

/-- The tag that NPERM gives a lane: of the lane of mvB, and of each lane that a byte is taken from. -/
def permTag (v : MillState) (a b : BitVec 4) (l : Nat) : Bool :=
  laneTag v b l || ((List.range 4).any fun j =>
    decide (millByte v b (4 * l + j) < 128) && laneTag v a (millByte v b (4 * l + j) / 4))

theorem exec_nperm (d a b : BitVec 4) (k : BitVec 2) (s : State) :
    exec (.nperm d a b k) s = millWord false s fun s v => .done s (putLanes v d (onLanes v k fun l =>
      { value := packElems 8 (permBytes v a b l), tag := permTag v a b l, flags := 0 })) := rfl

theorem millByte_lt (v : MillState) (r : BitVec 4) (i : Nat) : millByte v r i < 256 := Nat.mod_lt _ (by decide)

theorem nidx_value (x : Word) (l : Nat) (i : BitVec 11) :
    x.truncate 32 + BitVec.ofNat 32 l + i.signExtend 32 = BitVec.ofInt 32 (x.toNat + l + i.toInt) := by
  rw [BitVec.ofInt_add, BitVec.ofInt_add, BitVec.ofInt_natCast, BitVec.ofInt_natCast]
  rfl

theorem nperm_bytes {s : State} {m : Nat} {v : MillState} (h : MillRuns s m v) (d a b : BitVec 4) (k : BitVec 2) :
    ∃ v', exec (.nperm d a b k) s = .next (millIssued s m v') ∧
      (lanesWritten v v' d fun l =>
        if (mkGet v k).getLsbD l then some { value := lane v' d l, flags := 0, tag := permTag v a b l } else none) ∧
      ∀ l < 32, ∀ j < 4, (mkGet v k).getLsbD l = true → millByte v' d (4 * l + j) =
        if millByte v b (4 * l + j) < 128 then millByte v a (millByte v b (4 * l + j)) else 0 := by
  obtain ⟨v', hrun, hfields, hother, hlanes⟩ := givesLanes_of_millWord h (exec_nperm d a b k s) rfl rfl
  refine ⟨v', hrun, ⟨hfields, hother, fun l hl => ?_⟩, fun l hl j hj ha => ?_⟩
  · have hl' := hlanes l hl
    by_cases ha : (mkGet v k).getLsbD l = true
    · rw [onLanes, if_pos ha] at hl'
      obtain ⟨-, htag, hflag⟩ := hl'
      dsimp only
      rw [if_pos ha]
      exact ⟨(Nat.mod_eq_of_lt (lane_lt v' d l)).symm, htag, hflag⟩
    · rw [onLanes, if_neg ha] at hl'
      dsimp only
      rw [if_neg ha]
      exact hl'
  · have hl' := hlanes l hl
    rw [onLanes, if_pos ha] at hl'
    have hval : lane v' d l = packElems 8 (permBytes v a b l) % 2 ^ 32 := hl'.1
    have hbyte := packElems_elem 8 (permBytes v a b l) j (by simpa [permBytes] using hj)
    have hlt : packElems 8 (permBytes v a b l) < 2 ^ 32 := packElems_lt 8 (permBytes v a b l)
    have hj' : (permBytes v a b l)[j]'(by simpa [permBytes] using hj) < 256 := by
      simp only [permBytes, List.getElem_map, List.getElem_range]
      split
      · exact millByte_lt _ _ _
      · decide
    have hdiv : (4 * l + j) / 4 = l := by omega
    have hmod : (4 * l + j) % 4 = j := by omega
    rw [millByte, hdiv, hmod, hval, Nat.mod_eq_of_lt hlt]
    refine (hbyte.trans (Nat.mod_eq_of_lt hj')).trans ?_
    simp only [permBytes, List.getElem_map, List.getElem_range]

theorem millSelectionWords : Sys2Proof.Claims.MillSelectionWords := by
  intro s m v d a b k e c sel signed i t0 p y z h hsel act other
  refine ⟨fun cc he hcc => ncmp_integers h a b k signed hsel he hcc, fun cc he hcc => ncmp_floats h a b k hsel he hcc, ?_, ?_,
    fun he => ?_, ?_, fun hp => ?_⟩
  · exact givesLanes_of_millWord h (exec_nsel d a b k c sel s) (badCommon_good hsel (by decide)) rfl
  · simp only [← nidx_value]
    exact givesLanes_of_millWord h (exec_nidx d a k i s) rfl rfl
  · exact ⟨_, exec_of_millWord h (exec_nidxW e k t0 s) (beq_false_of_ne he) rfl, putMask_eq _ _ _ _, putMask_masksWritten he _ _ _⟩
  · exact nperm_bytes h d a b k
  · exact givesLanes_of_millWord h (exec_ncvt d a k p y z s) (by rw [hp]; rfl) rfl

/-! #### Reductions (R168, R308) -/

section
variable {f : Nat → Nat → Nat → Nat × FlagSet} {M : Nat}

/-- A level of a tree of sums modulo M keeps the sum, and halves the list. -/
theorem treeLevel_sums (hM : 0 < M) (hf : ∀ q a b, f q a b = ((a + b) % M, 0)) (n : Nat) :
    ∀ (q : Nat) (l : List Nat), l.length = 2 * n → (treeLevel f q l).length = n ∧
      ((treeLevel f q l).map (·.1)).sum % M = l.sum % M ∧ ∀ p ∈ treeLevel f q l, p.1 < M ∧ p.2 = 0 := by
  induction n with
  | zero =>
    intro q l hl
    obtain rfl := List.length_eq_zero_iff.1 hl
    exact ⟨rfl, rfl, fun p hp => by cases hp⟩
  | succ n ih =>
    intro q l hl
    match l, hl with
    | a :: b :: rest, hl =>
      obtain ⟨hlen, hsum, hall⟩ := ih (q + 1) rest (by simpa [Nat.mul_add] using hl)
      refine ⟨by simp [treeLevel, hlen], ?_, fun p hp => ?_⟩
      · simp only [treeLevel, hf, List.map_cons, List.sum_cons]
        rw [Nat.mod_add_mod, Nat.add_mod, hsum, ← Nat.add_mod, Nat.add_assoc]
      · obtain rfl | hp := List.mem_cons.1 hp
        · rw [hf]
          exact ⟨Nat.mod_lt _ hM, rfl⟩
        · exact hall p hp

theorem orFlags_zero {l : List FlagSet} (h : ∀ x ∈ l, x = 0) : orFlags l = 0 :=
  List.foldlRecOn (motive := (· = 0)) l _ rfl fun a ha x hx => by
    rw [ha, h x hx]
    rfl

/-- A tree of sums modulo M gives the sum of a full list, without flags. -/
theorem reduceTree_sums (hM : 0 < M) (hf : ∀ q a b, f q a b = ((a + b) % M, 0)) (n : Nat) :
    ∀ (q : Nat) (l : List Nat), l.length = 2 ^ n → (∀ x ∈ l, x < M) → reduceTree f n q l = (l.sum % M, 0) := by
  induction n with
  | zero =>
    intro q l hl hlt
    obtain ⟨a, rfl⟩ := List.length_eq_one_iff.1 hl
    simp [reduceTree, Nat.mod_eq_of_lt (hlt a (List.mem_singleton.2 rfl))]
  | succ n ih =>
    intro q l hl hlt
    obtain ⟨hlen, hsum, hall⟩ := treeLevel_sums hM hf (2 ^ n) q l (by rw [hl, Nat.pow_succ, Nat.mul_comm])
    have hflags : orFlags ((treeLevel f q l).map (·.2)) = 0 := orFlags_zero fun x hx => by
      obtain ⟨p, hp, rfl⟩ := List.mem_map.1 hx
      exact (hall p hp).2
    unfold reduceTree
    dsimp only
    rw [ih _ _ (by rw [List.length_map, hlen]) (fun x hx => ?_), hflags, hsum]
    · exact Prod.ext rfl BitVec.or_zero
    · obtain ⟨p, hp, rfl⟩ := List.mem_map.1 hx
      exact (hall p hp).1

end

theorem wrapInt_intOf_add (signed : Bool) (a b : Nat) : wrapInt 32 (intOf 32 signed a + intOf 32 signed b) = (a + b) % 2 ^ 32 := by
  have hpow : ((2 ^ 32 : Nat) : Int) = 4294967296 := rfl
  unfold wrapInt intOf
  rw [hpow]
  split <;> split <;> omega

theorem reduceOp_sum {ty : Nat} (h : ty = 4 ∨ ty = 8) (a b : Nat) : reduceOp 0 ty .rne false a b = ((a + b) % 2 ^ 32, 0) := by
  obtain rfl | rfl := h
  · exact Prod.ext (wrapInt_intOf_add true a b) rfl
  · exact Prod.ext (wrapInt_intOf_add false a b) rfl

/-- What NRED reduces: the active lanes, with the identity in the others. -/
def reduceInputs (v : MillState) (a : BitVec 4) (k : BitVec 2) (ty op : Nat) : List Nat :=
  (List.range 32).map fun l => if (mkGet v k).getLsbD l then lane v a l else reduceIdentity op ty

/-- The value of NRED with its flags. -/
def reduced (v : MillState) (a : BitVec 4) (k : BitVec 2) (ty op : Nat) : Nat × FlagSet :=
  reduceTree (fun _ x y => reduceOp op ty .rne false x y) 5 0 (reduceInputs v a k ty op)

/-- Whether an active lane of a register is poisoned. -/
def activeTag (v : MillState) (a : BitVec 4) (k : BitVec 2) : Bool :=
  (List.range 32).any fun l => (mkGet v k).getLsbD l && laneTag v a l

theorem reduced_sum (v : MillState) (a : BitVec 4) (k : BitVec 2) {ty : Nat} (h : ty = 4 ∨ ty = 8) : reduced v a k ty 0 =
    (((List.range 32).map fun l => if (mkGet v k).getLsbD l then lane v a l else 0).sum % 2 ^ 32, 0) := by
  have hzero : reduceIdentity 0 ty = 0 := by
    obtain rfl | rfl := h
    · rfl
    · rfl
  rw [reduced, reduceInputs, hzero]
  refine reduceTree_sums (by decide) (fun _ a b => reduceOp_sum h a b) 5 0 _ (by simp) fun x hx => ?_
  obtain ⟨l, -, rfl⟩ := List.mem_map.1 hx
  split
  · exact lane_lt v a l
  · decide

theorem exec_nred (d a : BitVec 4) (k t : BitVec 2) (o : BitVec 3) (s : State) :
    exec (.nred d a k t o) s = millWord (badReduce t o) s fun s v => .done s (raiseLane (putLanes v d fun _ =>
      some { value := (reduced v a k (millType t) o.toNat).1, tag := activeTag v a k, flags := 0 }) 0
      (reduced v a k (millType t) o.toNat).2) := rfl

theorem exec_nredScalar (d a : BitVec 4) (k t : BitVec 2) (o : BitVec 3) (s : State) :
    exec (.nredScalar d a k t o) s = millWord (badReduce t o) s fun s v => .done s (raiseLane (mxPut v d
      (if t = 0 then (BitVec.ofNat 32 (reduced v a k (millType t) o.toNat).1).signExtend 64
        else BitVec.ofNat 64 (reduced v a k (millType t) o.toNat).1) (activeTag v a k)) 0
      (reduced v a k (millType t) o.toNat).2) := rfl

theorem badReduce_good {t : BitVec 2} {o : BitVec 3} (ht : t ≠ 3) (ho : o.toNat < 3 ∨ (o.toNat < 6 ∧ t ≠ 1)) :
    badReduce t o = false := by
  revert ht ho
  revert t o
  decide

theorem millType_eq {t : BitVec 2} (ht : t ≠ 3) : millType t = if t = 0 then 0x4 else if t = 1 then 0x9 else 0x8 := by
  revert ht
  revert t
  decide

/-- One result for every lane, with flags for lane 0. -/
theorem raiseFirst_lanesWritten (v : MillState) (d : BitVec 4) (value : Nat) (tag : Bool) (f : FlagSet) :
    lanesWritten v (raiseLane (putLanes v d fun _ => some { value := value, tag := tag, flags := 0 }) 0 f) d fun l =>
      some { value := value, tag := tag, flags := if l = 0 then f else 0 } := by
  obtain ⟨hfields, hother, hlanes⟩ := putLanes_lanesWritten v d fun _ => some { value := value, tag := tag, flags := 0 }
  refine ⟨?_, hother, fun l hl => ?_⟩
  · rw [hfields]
    rfl
  · obtain ⟨hval, htag, hflag⟩ := hlanes l hl
    refine ⟨hval, htag, ?_⟩
    split
    · next h =>
      subst h
      rw [laneFlag_raiseLane_same _ hl, hflag, BitVec.or_assoc]
      exact congrArg _ BitVec.zero_or
    · next h => rw [laneFlag_raiseLane_other _ h, hflag]

/-! #### 2^x, the dot unit and the softmax step (R309, R310, R321) -/

theorem exec_nexp2 (d a : BitVec 4) (k : BitVec 2) (s : State) :
    exec (.nexp2 d a k) s = millWord false s fun s v => .done s (putLanes v d (onLanes v k fun l =>
      { value := (exp2Of fp32 .rne false (fp32.decode (lane v a l))).1, tag := laneTag v a l,
        flags := (exp2Of fp32 .rne false (fp32.decode (lane v a l))).2 })) := rfl

/-- The products of NDOT on nibbles. -/
def nibbleProducts (v : MillState) (a b : BitVec 4) (u : BitVec 1) (q : BitVec 5) (l : Nat) : List (Num × FlagSet) :=
  (List.range 8).map fun e => mulNum (elementNum (if u = 0 then 0x1 else 0x5) (lane v a l / 16 ^ e % 16))
    (halfNum (lane v b (4 * q.toNat + e / 2)) (e % 2))

/-- The products of NDOT on BF16 pairs. -/
def pairProducts (v : MillState) (a b : BitVec 4) (q : BitVec 5) (l : Nat) : List (Num × FlagSet) :=
  (List.range 2).map fun h => mulNum (halfNum (lane v a l) h) (halfNum (lane v b q.toNat) h)

theorem exec_ndot (d a b : BitVec 4) (k : BitVec 2) (u : BitVec 1) (q : BitVec 5) (s : State) :
    exec (.ndot d a b k u q) s = millWord (decide (7 < q.toNat)) s fun s v => .done s (putLanes v d (onLanes v k fun l =>
      { value := (dotInto (lane v d l) (nibbleProducts v a b u q l)).1
        tag := laneTag v a l || laneTag v d l || (List.range 4).any fun j => laneTag v b (4 * q.toNat + j)
        flags := (dotInto (lane v d l) (nibbleProducts v a b u q l)).2 })) := rfl

theorem exec_ndotBf16 (d a b : BitVec 4) (k : BitVec 2) (q : BitVec 5) (s : State) :
    exec (.ndotBf16 d a b k q) s = millWord false s fun s v => .done s (putLanes v d (onLanes v k fun l =>
      { value := (dotInto (lane v d l) (pairProducts v a b q l)).1
        tag := laneTag v a l || laneTag v d l || laneTag v b q.toNat
        flags := (dotInto (lane v d l) (pairProducts v a b q l)).2 })) := rfl

theorem dotInto_products (old : Nat) (ps : List (Num × Num)) : dotInto old (ps.map fun q => mulNum q.1 q.2) = dotResult old ps := by
  simp only [dotInto, accumulate, dotResult, List.map_map]
  rfl

/-- A nibble as the unit reads it is the integer that its type gives it. -/
theorem elementNum_nibble (u : BitVec 1) (x e : Nat) :
    elementNum (if u = 0 then 0x1 else 0x5) (x / 16 ^ e % 16) = numOfInt (nibbleInt u x e) := by
  have hlt : x / 16 ^ e % 16 < 16 := Nat.mod_lt _ (by decide)
  unfold nibbleInt
  generalize x / 16 ^ e % 16 = n at hlt ⊢
  have hint : intOf 4 (decide (u = 0)) n = if u = 0 ∧ 8 ≤ n then (n : Int) - 16 else n := by
    revert hlt
    revert n u
    decide
  dsimp only
  rw [← hint]
  by_cases hu : u = 0
  · rw [if_pos hu, decide_eq_true hu]
    rfl
  · rw [if_neg hu, decide_eq_false hu]
    rfl

theorem bf16Element_eq (v : MillState) (b : BitVec 4) (q e : Nat) :
    bf16Element v b (2 * q + e) = halfNum (lane v b (q + e / 2)) (e % 2) := by
  have hdiv : (2 * q + e) / 2 = q + e / 2 := by omega
  have hmod : (2 * q + e) % 2 = e % 2 := by omega
  rw [bf16Element, hdiv, hmod]
  rfl

theorem nibbleProducts_eq (v : MillState) (a b : BitVec 4) (u : BitVec 1) (q : BitVec 5) (l : Nat) : nibbleProducts v a b u q l =
    ((List.range 8).map fun e => (numOfInt (nibbleInt u (lane v a l) e), bf16Element v b (8 * q.toNat + e))).map
      fun p => mulNum p.1 p.2 := by
  rw [List.map_map]
  refine List.map_congr_left fun e _ => ?_
  have h8 : 8 * q.toNat + e = 2 * (4 * q.toNat) + e := by omega
  rw [elementNum_nibble, Function.comp, h8, bf16Element_eq]

theorem pairProducts_eq (v : MillState) (a b : BitVec 4) (q : BitVec 5) (l : Nat) : pairProducts v a b q l =
    ((List.range 2).map fun h => (bf16Element v a (2 * l + h), bf16Element v b (2 * q.toNat + h))).map fun p => mulNum p.1 p.2 := by
  rw [List.map_map]
  refine List.map_congr_left fun h hh => ?_
  have hlt := List.mem_range.1 hh
  have hdiv : h / 2 = 0 := by omega
  have hmod : h % 2 = h := by omega
  rw [Function.comp, bf16Element_eq, bf16Element_eq, hdiv, hmod, Nat.add_zero, Nat.add_zero]

/-- The scores of a softmax step: the active lanes, with −∞ in the others. -/
def scores (v : MillState) (a : BitVec 4) (k : BitVec 2) : List Nat :=
  (List.range 32).map fun l => if (mkGet v k).getLsbD l then lane v a l else 0xFF800000

/-- What a softmax step gives register b: m, s and c in lanes 0 to 2. -/
def softmaxState (x : Softmax) (tag tagS : Bool) (l : Nat) : Option LaneResult :=
  match l with
  | 0 => some { value := x.m, tag := tag, flags := x.flags }
  | 1 => some { value := x.sum, tag := tagS || tag, flags := 0 }
  | 2 => some { value := x.c, tag := tag, flags := 0 }
  | _ => none

theorem softmaxState_eq (x : Softmax) (tag tagS : Bool) : softmaxState x tag tagS = fun l =>
    if l = 0 then some { value := x.m, tag := tag, flags := x.flags }
    else if l = 1 then some { value := x.sum, tag := tagS || tag, flags := 0 }
    else if l = 2 then some { value := x.c, tag := tag, flags := 0 } else none := by
  funext l
  match l with
  | 0 => rfl
  | 1 => rfl
  | 2 => rfl
  | l + 3 => rfl

theorem exec_nsmx (d a b : BitVec 4) (k : BitVec 2) (s : State) :
    exec (.nsmx d a b k) s = millWord false s fun s v =>
      let x := softmaxStep (lane v b 0) (lane v b 1) (scores v a k)
      let tag := laneTag v b 0 || activeTag v a k
      .done s (putLanes
        (putLanes v d fun l => some { value := (x.p.getD l (0, 0)).1, tag := tag, flags := (x.p.getD l (0, 0)).2 }) b
        (softmaxState x tag (laneTag v b 1))) := rfl

theorem millReductionWords : Sys2Proof.Claims.MillReductionWords := by
  intro s m v d a b k t o u q h act anyTag ty inputs r
  refine ⟨fun ht ho => ?_, fun ht ho => ?_, givesLanes_of_millWord h (exec_nexp2 d a k s) rfl rfl, fun hq => ?_, ?_, ?_⟩
  · have hr : reduced v a k (millType t) o.toNat = r := by rw [millType_eq ht]; rfl
    refine ⟨?_, ?_⟩
    · refine ⟨_, exec_of_millWord h (exec_nred d a k t o s) (badReduce_good ht ho) rfl, ?_⟩
      rw [hr]
      exact raiseFirst_lanesWritten v d r.1 anyTag r.2
    · refine (exec_of_millWord h (exec_nredScalar d a k t o s) (badReduce_good ht ho) rfl).trans ?_
      rw [hr]
      rfl
  · have hty : ty = 4 ∨ ty = 8 := by
      obtain rfl | rfl := ht
      · exact .inl rfl
      · exact .inr rfl
    have hr : r = reduced v a k ty 0 := by
      subst ho
      rfl
    rw [hr, reduced_sum v a k hty]
    exact ⟨rfl, rfl⟩
  · have hgood : decide (7 < q.toNat) = false := decide_eq_false (by omega)
    have hgives := givesLanes_of_millWord h (exec_ndot d a b k u q s) hgood rfl
    simp only [nibbleProducts_eq, dotInto_products] at hgives
    exact hgives
  · have hgives := givesLanes_of_millWord h (exec_ndotBf16 d a b k q s) rfl rfl
    simp only [pairProducts_eq, dotInto_products] at hgives
    exact hgives
  · refine ⟨_, _, exec_of_millWord h (exec_nsmx d a b k s) rfl rfl, putLanes_lanesWritten _ _ _, ?_⟩
    rw [softmaxState_eq]
    exact putLanes_lanesWritten _ _ _

/-- Settles O53: each word is a Mill word in range that writes the lanes or the mask bits its mask makes active; sums are those of
a tree of additions modulo 2^32. -/
theorem millSelectionAndReductionWords : Obligations.MillSelectionAndReductionWords :=
  ⟨millSelectionWords, millReductionWords⟩

end Sys2Proof.Machine
end

/-! ### The flow of a Mill's words and its checks -/

section
namespace Sys2Proof.Machine
open Sys2Proof.Claims Sys2Proof.Config

/-! #### How a word ends -/

section
variable {i : Instr} {body : State → MillState → MillEnd} {s s' : State} {m : Nat} {v v' : MillState}

theorem millNumber_of_runs (h : MillRuns s m v) : millNumber s = m := by
  rw [millNumber, h.1]

/-- A word with a field value outside its range ends the kernel with ILL (R295). -/
theorem exec_badMillWord (h : MillRuns s m v) (hi : exec i s = millWord true s body) :
    exec i s = .next (millEnded s m v chanILL) := by
  obtain ⟨hcur, hmill⟩ := h
  simp [hi, millWord, hcur, hmill, millEnded]

theorem exec_millEnds {f : BitVec 12} (h : MillRuns s m v) (hi : exec i s = millWord false s body)
    (hbody : body s v = .ends s' v' f) : exec i s = .next (millEnded (signKernel s s' v) m v' f) := by
  obtain ⟨hcur, hmill⟩ := h
  simp [hi, millWord, hcur, hmill, hbody, millEnded]

theorem exec_millJumps {pc : Word} {loops : List Loop} (h : MillRuns s m v) (hi : exec i s = millWord false s body)
    (hbody : body s v = .jump s v' pc loops) : exec i s = .next (millJumped s m v' pc loops) := by
  obtain ⟨hcur, hmill⟩ := h
  simp [hi, millWord, hcur, hmill, hbody, millJumped]

theorem exec_millWaits (h : MillRuns s m v) (hi : exec i s = millWord false s body) (hbody : body s v = .waits s' v') :
    exec i s = .next (putMill (signKernel s s' v) m v') := by
  obtain ⟨hcur, hmill⟩ := h
  simp [hi, millWord, hcur, hmill, hbody]

theorem exec_millIssues (h : MillRuns s m v) (hi : exec i s = millWord false s body) (hbody : body s v = .done s' v') :
    exec i s = .next (millIssued (signKernel s s' v) m v') := by
  rw [hi, millWord_done h rfl hbody]

/-- A word that ends the kernel and has done nothing. -/
theorem exec_millStops {f : BitVec 12} (h : MillRuns s m v) (hi : exec i s = millWord false s body)
    (hbody : body s v = .ends s v f) : exec i s = .next (millEnded s m v f) := by
  rw [exec_millEnds h hi hbody, signKernel_self]

end

/-! #### Branches, loops and ends (R311, R312, R315) -/

/-- Where a branch of a Mill's word goes. -/
def millTarget' (v : MillState) (o : BitVec 12) : Word := millPc v + o.signExtend 64 * 4

theorem millBranch_inside {s : State} {v : MillState} {o : BitVec 12} (h : (millTarget' v o).toNat ≤ 0xFFFC) :
    millBranch s v o = .jump s v (millTarget' v o) (v.loops.dropWhile fun l => !inBody l (millTarget' v o)) :=
  if_neg (Nat.not_lt.2 h)

theorem millBranch_outside {s : State} {v : MillState} {o : BitVec 12} (h : 0xFFFC < (millTarget' v o).toNat) :
    millBranch s v o = .ends s v chanILL := if_pos h

/-- A word whose body is a taken branch goes to its target, or ends the kernel where that lies outside the code store. -/
theorem exec_millBranches {i : Instr} {body : State → MillState → MillEnd} {s : State} {m : Nat} {v : MillState} {o : BitVec 12}
    (h : MillRuns s m v) (hi : exec i s = millWord false s body) (hbody : body s v = millBranch s v o) :
    ((millTarget' v o).toNat ≤ 0xFFFC → exec i s = .next (millJumped s m v (millTarget' v o)
      (v.loops.dropWhile fun l => !inBody l (millTarget' v o)))) ∧
    (0xFFFC < (millTarget' v o).toNat → exec i s = .next (millEnded s m v 0x200)) :=
  ⟨fun hin => exec_millJumps h hi (hbody.trans (millBranch_inside hin)),
    fun hout => exec_millStops h hi (hbody.trans (millBranch_outside hout))⟩

theorem exec_nbr (o : BitVec 12) (s : State) : exec (.nbr o) s = millWord false s fun s v => millBranch s v o := rfl

theorem exec_nbrc (n : BitVec 1) (a : BitVec 4) (o : BitVec 12) (s : State) : exec (.nbrc n a o) s = millWord false s fun s v =>
    if mxTag v a then .ends s v chanILL
    else if (mxGet v a != 0) == (n == 0) then millBranch s v o else .done s v := rfl

theorem exec_nbrcMask (n : BitVec 1) (k : BitVec 2) (o : BitVec 12) (s : State) : exec (.nbrcMask n k o) s =
    millWord false s fun s v => if (mkGet v k != 0) == (n == 0) then millBranch s v o else .done s v := rfl

/-- Where the loop of NLOOP ends. -/
def loopLast (v : MillState) (f : BitVec 12) : Word := millPc v + f.zeroExtend 64 * 4

/-- What NLOOP does once its last word may be one. -/
def nloopGoes (a : BitVec 4) (f : BitVec 12) (s : State) (v : MillState) : MillEnd :=
  if mxGet v a = 0 then
    match v.loops with
    | l :: _ =>
      if l.last = loopLast v f then
        .jump s v (nextWord 4 (loopLast v f) v.loops).1 (nextWord 4 (loopLast v f) v.loops).2
      else .jump s v (loopLast v f + 4) v.loops
    | [] => .jump s v (loopLast v f + 4) []
  else .jump s v (millPc v + 4) ({ start := millPc v + 4, last := loopLast v f, remaining := mxGet v a } :: v.loops)

/-- Whether a loop that ends at a word would not lie inside the one that is active. -/
def badNest (v : MillState) (last : Word) : Bool :=
  match v.loops with
  | [l] => decide (l.last.toNat < last.toNat)
  | _ => false

theorem exec_nloop (a : BitVec 4) (f : BitVec 12) (s : State) : exec (.nloop a f) s = millWord (f == 0) s fun s v =>
    match millWordAt s (millNumber s) (loopLast v f).toNat with
    | none => .ends s v chanILL
    | some w =>
      if badLast w || decide (2 ≤ v.loops.length) || badNest v (loopLast v f) || mxTag v a then .ends s v chanILL
      else nloopGoes a f s v := rfl

theorem badLast_eq_false {w : BitVec 32} (h : w.toNat / 2 ^ 26 ∉ [0x1D, 0x1E, 0x1F, 0x23]) : badLast w = false :=
  Bool.eq_false_iff.2 fun hb => h (List.contains_iff_mem.1 hb)

theorem badNest_eq_false {v : MillState} {last : Word} (h : ∀ l ∈ v.loops, last.toNat ≤ l.last.toNat) : badNest v last = false := by
  unfold badNest
  split
  · next l hl => exact decide_eq_false (Nat.not_lt.2 (h l (by rw [hl]; exact List.mem_singleton.2 rfl)))
  · rfl

/-- A loop that passes its checks. -/
theorem nloop_goes {s : State} {m : Nat} {v : MillState} {a : BitVec 4} {f : BitVec 12} (h : MillRuns s m v) (hf : f ≠ 0)
    (ha : mxTag v a = false) (hn : v.loops.length < 2) (hin : ∀ l ∈ v.loops, (loopLast v f).toNat ≤ l.last.toNat)
    (hlast : (loopLast v f).toNat ≤ 0xFFFC)
    (hop : ∀ x, millWordAt s m (loopLast v f).toNat = some x → x.toNat / 2 ^ 26 ∉ [0x1D, 0x1E, 0x1F, 0x23]) {pc : Word}
    {loops : List Loop} (hgo : nloopGoes a f s v = .jump s v pc loops) :
    exec (.nloop a f) s = .next (millJumped s m v pc loops) := by
  have hi := exec_nloop a f s
  rw [beq_false_of_ne hf] at hi
  obtain ⟨w, hw⟩ : ∃ w, millWordAt s m (loopLast v f).toNat = some w := ⟨_, if_pos hlast⟩
  refine exec_millJumps h hi ?_
  rw [millNumber_of_runs h, hw]
  dsimp only
  rw [badLast_eq_false (hop w hw), badNest_eq_false hin, ha, decide_eq_false (Nat.not_le.2 hn)]
  exact hgo

/-- A loop that fails one of its checks ends the kernel with ILL. -/
theorem nloop_ends {s : State} {m : Nat} {v : MillState} {a : BitVec 4} {f : BitVec 12} (h : MillRuns s m v)
    (hbad : f = 0 ∨ mxTag v a = true ∨ 2 ≤ v.loops.length ∨ (∃ l, v.loops = [l] ∧ l.last.toNat < (loopLast v f).toNat) ∨
      0xFFFC < (loopLast v f).toNat ∨
        ∃ x, millWordAt s m (loopLast v f).toNat = some x ∧ x.toNat / 2 ^ 26 ∈ [0x1D, 0x1E, 0x1F, 0x23]) :
    exec (.nloop a f) s = .next (millEnded s m v 0x200) := by
  have hi := exec_nloop a f s
  by_cases hf : f = 0
  · rw [beq_iff_eq.2 hf] at hi
    exact exec_badMillWord h hi
  rw [beq_false_of_ne hf] at hi
  refine exec_millStops h hi ?_
  rw [millNumber_of_runs h]
  cases hw : millWordAt s m (loopLast v f).toNat with
  | none => rfl
  | some w =>
    refine if_pos ?_
    simp only [Bool.or_eq_true, decide_eq_true_eq]
    obtain hbad | hbad | hbad | ⟨l, hl, hlt⟩ | hbad | ⟨x, hx, hop⟩ := hbad
    · exact absurd hbad hf
    · exact .inr hbad
    · exact .inl (.inl (.inr hbad))
    · refine .inl (.inr ?_)
      rw [badNest, hl]
      exact decide_eq_true hlt
    · have hnone : millWordAt s m (loopLast v f).toNat = none := if_neg (Nat.not_le.2 hbad)
      rw [hnone] at hw
      cases hw
    · rw [hx] at hw
      cases hw
      exact .inl (.inl (.inl (List.contains_iff_mem.2 hop)))

theorem bne_zero_beq {α : Type} [BEq α] [LawfulBEq α] [Zero α] (x : α) (n : BitVec 1) :
    ((x != 0) == (n == 0)) = true ↔ (x ≠ 0 ↔ n = 0) := by
  rw [beq_iff_eq, Bool.eq_iff_iff, bne_iff_ne, beq_iff_eq]

theorem exec_nend (s : State) : exec .nend s = millWord false s fun s v => .ends s v 0 := rfl

theorem exec_reservedMillWord (w : BitVec 32) (s : State) :
    exec (.reservedMillWord w) s = millWord true s fun s v => .done s v := rfl

/-- Settles O57: a taken branch, a loop that passes its checks or fails one, and the ends. -/
theorem millFlowWords : Obligations.MillFlowWords := by
  intro s m v a k neg o f w h pc target last taken
  refine ⟨exec_millBranches h (exec_nbr o s) rfl, fun ha => ?_, fun ha hc => ?_, fun ha hc => ?_, fun hc => ?_, fun hc => ?_,
    fun hf ha hn hin hlast hop => ⟨fun hx => ?_, fun hx hl => ?_, fun l hx hl hend => ?_⟩, nloop_ends h, ?_, ?_⟩
  · exact exec_millStops h (exec_nbrc neg a o s) (if_pos ha)
  · refine exec_millBranches h (exec_nbrc neg a o s) ?_
    rw [ha, if_neg Bool.false_ne_true, if_pos ((bne_zero_beq _ _).2 hc)]
  · refine exec_of_millWord h (exec_nbrc neg a o s) rfl ?_
    rw [ha, if_neg Bool.false_ne_true, if_neg (mt (bne_zero_beq _ _).1 hc)]
  · exact exec_millBranches h (exec_nbrcMask neg k o s) (if_pos ((bne_zero_beq _ _).2 hc))
  · exact exec_of_millWord h (exec_nbrcMask neg k o s) rfl (if_neg (mt (bne_zero_beq _ _).1 hc))
  · exact nloop_goes h hf ha hn hin hlast hop (if_neg hx)
  · refine nloop_goes h hf ha hn hin hlast hop ?_
    rw [nloopGoes, if_pos hx]
    cases hloops : v.loops with
    | nil => rfl
    | cons l rest =>
      dsimp only
      exact if_neg (hl l (by rw [hloops]; exact List.mem_cons_self))
  · refine nloop_goes h hf ha hn hin hlast hop ?_
    rw [nloopGoes, if_pos hx, hl]
    exact if_pos hend
  · exact exec_millStops h (exec_nend s) rfl
  · exact exec_badMillWord h (exec_reservedMillWord w s)

/-! #### The checks of a memory word (R301) -/

theorem bankOf_inside {w : Nat} (h : w < 0x30000000) : bankOf w = w / 0x3000000 := by
  rw [bankOf, Nat.mod_eq_of_lt (show w < channelBytes from h)]

section
variable {s : State} {v : MillState} {w n align : Nat} {body : MillEnd}

theorem millChecked_misplaced (h : 0x30000000 ≤ w ∨ w % align ≠ 0) : millChecked s v w n align body = .ends s v chanILL := by
  refine if_pos ?_
  rw [Bool.or_eq_true, decide_eq_true_eq, bne_iff_ne]
  exact h

theorem millChecked_placed (hw : w < 0x30000000) (ha : w % align = 0) : millChecked s v w n align body =
    if !v.ownedBanks.getLsbD (w / 0x3000000) then .ends s v chanOWN
    else if 0x30000000 < w + n then .ends s v chanILL
    else if !v.ownedBanks.getLsbD (bankOf (w + n - 1)) then .ends s v chanOWN
    else body := by
  have hgo : ¬ (decide (channelBytes ≤ w) || w % align != 0) = true := by
    rw [ha, decide_eq_false (show ¬ channelBytes ≤ w from Nat.not_le.2 hw)]
    decide
  rw [millChecked, if_neg hgo, bankOf_inside hw]
  rfl

theorem millChecked_reaches (hn : 0 < n) (h : millReaches v w n align) : millChecked s v w n align body = body := by
  obtain ⟨hend, ha, hfirst, hlast⟩ := h
  rw [millChecked_placed (by omega) ha, hfirst, bankOf_inside (by omega), hlast]
  exact if_neg (Nat.not_lt.2 hend)

end

/-- The checks that come before an access of n bytes at offset w, and its wait for a slot (R301). -/
def AccessChecked (i : Instr) (s : State) (m : Nat) (v : MillState) (tags : Bool) (w n align next : Nat) : Prop :=
  let owned (x : Nat) : Bool := v.ownedBanks.getLsbD (x / 0x3000000)
  (tags = true → exec i s = .next (millEnded s m v 0x200)) ∧
  (tags = false →
    ((0x30000000 ≤ w ∨ w % align ≠ 0) → exec i s = .next (millEnded s m v 0x200)) ∧
    (w < 0x30000000 → w % align = 0 →
      (owned w = false → exec i s = .next (millEnded s m v 0x400)) ∧
      (owned w = true → 0x30000000 < w + n → exec i s = .next (millEnded s m v 0x200)) ∧
      (owned w = true → w + n ≤ 0x30000000 → owned (w + n - 1) = false → exec i s = .next (millEnded s m v 0x400))) ∧
    (millReaches v w n align → slotTakes v next = false → exec i s = .next (putMill s m v)))

theorem access_checks {i : Instr} {word : State → MillState → MillEnd} {s : State} {m : Nat} {v : MillState} {tags : Bool}
    {w n align next : Nat} {body : MillEnd} (h : MillRuns s m v) (hi : exec i s = millWord false s word)
    (hword : word s v = if tags then .ends s v chanILL else millChecked s v w n align body)
    (hwait : slotTakes v next = false → body = .waits s v) (hn : 0 < n) : AccessChecked i s m v tags w n align next := by
  refine ⟨fun ht => ?_, fun ht => ?_⟩
  · exact exec_millStops h hi (hword.trans (if_pos ht))
  rw [ht, if_neg Bool.false_ne_true] at hword
  refine ⟨fun hw => ?_, fun hw ha => ⟨fun ho => ?_, fun ho he => ?_, fun ho he hl => ?_⟩, fun hr hs => ?_⟩
  · exact exec_millStops h hi (hword.trans (millChecked_misplaced hw))
  · refine exec_millStops h hi (hword.trans ((millChecked_placed hw ha).trans (if_pos ?_)))
    rw [show v.ownedBanks.getLsbD (w / 0x3000000) = false from ho]
    rfl
  · refine exec_millStops h hi (hword.trans ((millChecked_placed hw ha).trans ?_))
    rw [show v.ownedBanks.getLsbD (w / 0x3000000) = true from ho]
    exact if_pos he
  · refine exec_millStops h hi (hword.trans ((millChecked_placed hw ha).trans ?_))
    rw [show v.ownedBanks.getLsbD (w / 0x3000000) = true from ho, bankOf_inside (by omega),
      show v.ownedBanks.getLsbD ((w + n - 1) / 0x3000000) = false from hl]
    exact if_neg (Nat.not_lt.2 he)
  · rw [exec_millWaits h hi (hword.trans ((millChecked_reaches hn hr).trans (hwait hs))), signKernel_self]

/-- An access within one block waits where its slot does not take it. -/
theorem access_waits {s : State} {v : MillState} {w : Nat} {body : MillState → Nat → MillEnd} (h : slotTakes v (w + 0) = false) :
    (if slotTakes v w then body (takeSlot v w) w else .waits s v) = .waits s v := if_neg (by rw [← Nat.add_zero w, h]; decide)

theorem exec_nldVector (d a : BitVec 4) (k : BitVec 2) (n : BitVec 11) (s : State) : exec (.nldVector d a k n) s =
    millMemory a n 128 128 128 s fun s v b => loadLanes s v b d k fun _ x => x := rfl

theorem exec_nldScalar (d a : BitVec 4) (n : BitVec 11) (s : State) : exec (.nldScalar d a n) s =
    millMemory a n 8 8 8 s fun s v b => .done (millReadAll s b 8).2
      (noteUE (mxPut v d (if cellPoisoned s b then freeWord s.free else bytesWord (millReadAll s b 8).1) (cellPoisoned s b))
        (cellPoisoned s b)) := rfl

/-- What NST stores in half h of its 32 lanes. -/
def storedLane (v : MillState) (r : BitVec 4) (k : BitVec 2) (h l : Nat) : Option Nat :=
  if (mkGet v k).getLsbD (16 * h + l) then some (lane v r (16 * h + l)) else none

theorem exec_nstVector (r a : BitVec 4) (k : BitVec 2) (n : BitVec 11) (s : State) : exec (.nstVector r a k n) s =
    millMemory a n 128 128 128 s fun s v b => .done
      (storeSector (storeSector s b (storedLane v r k 0) fun l => laneTag v r (16 * 0 + l)) (b + 64) (storedLane v r k 1)
        fun l => laneTag v r (16 * 1 + l)) v := rfl

theorem exec_nstScalar (r a : BitVec 4) (n : BitVec 11) (s : State) : exec (.nstScalar r a n) s =
    millMemory a n 8 8 8 s fun s v b => .done
      (if mxTag v r then poisonSectors (storeWord64 s b (mxGet v r)) b 8 else storeWord64 s b (mxGet v r)) v := rfl

theorem exec_nldk (d a b : BitVec 4) (k : BitVec 2) (h : BitVec 1) (s : State) : exec (.nldk d a b k h) s =
    millWord false s fun s v => if mxTag v a || mxTag v b then .ends s v chanILL
      else millAccess s v (mxGet v a).toNat 128 128 fun u w =>
        loadLanes s u (millCell (millNumber s) w) d k fun l x => rotateKey (keyPosition u h.toNat l) (bits (mxGet v b) 31 0) x := rfl

/-- What NPB makes of a header that it has read. -/
def npbHeader (s' : State) (v : MillState) (d0 d1 : Word) : MillEnd :=
  if bits d0 63 39 != 0 || decide (64 < bits d0 38 32) ||
      bits d1 31 0 != headerSum (bits d0 31 0) (bits d0 38 32) (bits d1 63 32) then .ends s' v chanILL
  else .done s' { v with pb := BitVec.ofNat 32 (bits d0 31 0), vc := BitVec.ofNat 7 (bits d0 38 32) }

/-- What NPB does at a cell. -/
def npbAt (s : State) (v : MillState) (b : Nat) : MillEnd :=
  if cellPoisoned s b then .ends (millReadAll s b 16).2 v (chanUE ||| chanILL)
  else npbHeader (millReadAll s b 16).2 v (bytesWord ((millReadAll s b 16).1.take 8)) (bytesWord ((millReadAll s b 16).1.drop 8))

theorem exec_npb (a : BitVec 4) (s : State) : exec (.npb a) s = millWord false s fun s v =>
    if mxTag v a then .ends s v chanILL
    else millAccess s v (mxGet v a).toNat 16 64 fun v w => npbAt s v (millCell (millNumber s) w) := rfl

/-- What a semaphore word does at a cell. -/
def millSemAt (s : State) (v : MillState) (b : Nat) (body : State → MillState → Nat → Word → MillEnd) : MillEnd :=
  if cellPoisoned s b then .ends (millReadAll s b 8).2 v (chanUE ||| chanILL)
  else body (millReadAll s b 8).2 v b (bytesWord (millReadAll s b 8).1)

/-- What NSEMS does with a count. -/
def semsCount (n : BitVec 12) (s : State) (v : MillState) (b : Nat) (count : Word) : MillEnd :=
  if 2 ^ 64 ≤ count.toNat + n.toNat then .ends s v chanILL
  else .done (storeWord64 s b (count + n.zeroExtend 64)) v

/-- What NSEMW does with a count. -/
def semwCount (s : State) (v : MillState) (b : Nat) (count : Word) : MillEnd :=
  if count = 0 then .waits s { v with slotUse := 8 } else .done (advanceCell (storeWord64 s b (count - 1)) (millTarget b)) v

theorem exec_nsems (a : BitVec 4) (n : BitVec 12) (s : State) : exec (.nsems a n) s = millWord (n == 0) s fun s v =>
    if mxTag v a then .ends s v chanILL
    else millAccess s v (mxGet v a).toNat 8 8 fun v w => millSemAt s v (millCell (millNumber s) w) (semsCount n) := rfl

theorem exec_nsemw (a : BitVec 4) (s : State) : exec (.nsemw a) s = millWord false s fun s v =>
    if mxTag v a then .ends s v chanILL
    else millAccess s v (mxGet v a).toNat 8 8 fun v w => millSemAt s v (millCell (millNumber s) w) semwCount := rfl

/-- Sector j of a triple record of n registers is stored. -/
def storeTriple (v : MillState) (d b : BitVec 4) (n w : Nat) (s : State) (j : Nat) : State :=
  storeSector s (millCell (millNumber s) w + 64 * j) (fun l => some (tripleLane v d b n (16 * j + l)).1) fun l => (tripleLane v d b n (16 * j + l)).2

/-- What NTRIP does in a slot that takes its next access. -/
def tripSlot (s : State) (v : MillState) (d b : BitVec 4) (n w next size : Nat) : MillEnd :=
  let k := slotSpan v next (size - v.trip)
  let s' := (List.range (k / 64)).foldl (fun s i => storeTriple v d b n w s (v.trip / 64 + i)) s
  let u := takeSpan v next k
  if v.trip + k < size then .waits s' { u with trip := v.trip + k } else .done s' { u with trip := 0 }

theorem exec_ntrip (d a b : BitVec 4) (r : BitVec 3) (s : State) : exec (.ntrip d a b r) s =
    millWord (decide (16 < d.toNat + r.toNat + 1)) s fun s v => if mxTag v a then .ends s v chanILL
      else millChecked s v (mxGet v a).toNat (64 + 128 * (r.toNat + 1)) 64
        (if !slotTakes v ((mxGet v a).toNat + v.trip) then .waits s v
          else tripSlot s v d b (r.toNat + 1) (mxGet v a).toNat ((mxGet v a).toNat + v.trip)
            (64 + 128 * (r.toNat + 1))) := rfl

/-- The checks of a word whose access lies within one block. -/
theorem blockAccess_checks {i : Instr} {word : State → MillState → MillEnd} {s : State} {m : Nat} {v : MillState} {tags : Bool}
    {w n align : Nat} {body : MillState → Nat → MillEnd} (h : MillRuns s m v) (hi : exec i s = millWord false s word)
    (hword : word s v = if tags then .ends s v chanILL else millAccess s v w n align body) (hn : 0 < n) :
    AccessChecked i s m v tags w n align (w + 0) := access_checks h hi hword access_waits hn

theorem millAccessChecks : Sys2Proof.Claims.MillAccessChecks := by
  intro s m v d a b k n h f r hrun hf hd p hp
  have hany : ∀ x : BitVec 4, [x].any (mxTag v) = mxTag v x := fun x => Bool.or_false _
  have hany2 : [a, b].any (mxTag v) = (mxTag v a || mxTag v b) := by simp
  have hsems := exec_nsems a f s
  have htrip := exec_ntrip d a b r s
  rw [beq_false_of_ne hf] at hsems
  rw [decide_eq_false (Nat.not_lt.2 hd)] at htrip
  suffices hall : AccessChecked p.1 s m v (p.2.1.any (mxTag v)) p.2.2.1 p.2.2.2.1 p.2.2.2.2.1 (p.2.2.1 + p.2.2.2.2.2) from hall
  revert hp
  revert p
  simp only [millAccesses, List.forall_mem_cons, List.not_mem_nil, false_imp_iff, implies_true, and_true, hany, hany2]
  refine ⟨blockAccess_checks hrun (exec_nldVector d a k n s) rfl (by decide),
    blockAccess_checks hrun (exec_nstVector d a k n s) rfl (by decide),
    blockAccess_checks hrun (exec_nldScalar d a n s) rfl (by decide),
    blockAccess_checks hrun (exec_nstScalar d a n s) rfl (by decide),
    blockAccess_checks hrun (exec_nldk d a b k h s) rfl (by decide),
    blockAccess_checks hrun (exec_npb a s) rfl (by decide),
    blockAccess_checks hrun hsems rfl (by decide), blockAccess_checks hrun (exec_nsemw a s) rfl (by decide),
    access_checks hrun htrip rfl (fun hs => ?_) (by omega)⟩
  rw [hs]
  rfl

/-! #### Fields outside their ranges (R295, R304) -/

theorem exec_illFormed {i : Instr} {bad : Bool} {body : State → MillState → MillEnd} {s : State} {m : Nat} {v : MillState}
    (hbad : i.wellFormed = !bad) (hill : i.wellFormed = false) (h : MillRuns s m v) (hi : exec i s = millWord bad s body) :
    exec i s = .next (millEnded s m v 0x200) := by
  rw [hill] at hbad
  obtain rfl : bad = true := by simpa using hbad.symm
  exact exec_badMillWord h hi

theorem exec_illFormedLanes {i : Instr} {bad readsD : Bool} {d a b : BitVec 4} {k : BitVec 2} {c : BitVec 1} {sel : BitVec 5}
    {f : Nat → Nat → Nat → Nat × FlagSet} {s : State} {m : Nat} {v : MillState} (hbad : i.wellFormed = !bad)
    (hill : i.wellFormed = false) (h : MillRuns s m v) (hi : exec i s = laneForm bad d a b k c sel readsD f s) :
    exec i s = .next (millEnded s m v 0x200) := exec_illFormed hbad hill h (hi.trans rfl)

theorem exec_illFormedArith {i : Instr} {bad : Bool} {d a b : BitVec 4} {k t : BitVec 2} {c : BitVec 1} {sel : BitVec 5}
    {int : Int → Int → Int} {flt : Nat → Nat → Nat × FlagSet} {s : State} {m : Nat} {v : MillState}
    (hbad : i.wellFormed = !bad) (hill : i.wellFormed = false) (h : MillRuns s m v)
    (hi : exec i s = arithForm bad d a b k t c sel int flt s) : exec i s = .next (millEnded s m v 0x200) :=
  exec_illFormedLanes hbad hill h hi

theorem exec_illFormedScalar {i : Instr} {d a b : BitVec 4} {t : BitVec 2} {int : Int → Int → Int} {s : State} {m : Nat}
    {v : MillState} (hbad : i.wellFormed = !badScalar t) (hill : i.wellFormed = false) (h : MillRuns s m v)
    (hi : exec i s = scalarForm d a b t int s) : exec i s = .next (millEnded s m v 0x200) :=
  exec_illFormed hbad hill h (hi.trans rfl)

theorem millIf_isNone (bad : Bool) : (WellFormed.millIf bad).isNone = !bad := by cases bad <;> rfl

theorem badCommon_eq (t : BitVec 2) (c : BitVec 1) (sel : BitVec 5) :
    (WellFormed.millIf (t = 3 || (!(c = 1) && sel != 0))).isNone = !badCommon t c sel := by
  revert t c sel
  decide

theorem badCommon_one_eq (c : BitVec 1) (sel : BitVec 5) : (WellFormed.millIf (!(c = 1) && sel != 0)).isNone = !badCommon 1 c sel := by
  revert c sel
  decide

theorem badCommon_zero_eq (c : BitVec 1) (sel : BitVec 5) : (WellFormed.millIf (!(c = 1) && sel != 0)).isNone = !badCommon 0 c sel := by
  revert c sel
  decide

theorem badShift_eq (t : BitVec 2) (c : BitVec 1) (sel : BitVec 5) :
    (WellFormed.millIf (t = 3 || t = 1 || (!(c = 1) && sel != 0))).isNone = !(badCommon t c sel || t == 1) := by
  revert t c sel
  decide

theorem badScalar_eq (t : BitVec 2) : (WellFormed.millIf (t = 1 || t = 3)).isNone = !badScalar t := by
  revert t
  decide

theorem badReduce_eq (t : BitVec 2) (o : BitVec 3) :
    (WellFormed.millIf (t = 3 || o.toNat > 5 || (o.toNat > 2 && t = 1))).isNone = !badReduce t o := by
  revert t o
  decide

theorem badNcmp_eq (e t : BitVec 2) (c : BitVec 1) (sel : BitVec 5) (k : BitVec 3) :
    (WellFormed.millIf (e = 0 || t = 3 || k = 7 || (k = 6 && t != 1) || (!(c = 1) && sel != 0))).isNone =
      !(badCommon t c sel || e == 0 || k == 7 || (k == 6 && t != 1)) := by
  have hcommon := badCommon_eq t c sel
  rw [millIf_isNone, Bool.not_inj_iff] at hcommon
  rw [millIf_isNone, ← hcommon, Bool.not_inj_iff, Bool.eq_iff_iff]
  simp only [Bool.or_eq_true, Bool.and_eq_true, decide_eq_true_eq, beq_iff_eq]
  exact Iff.of_eq (by ac_rfl)

theorem exec_naddScalar (d a b : BitVec 4) (t : BitVec 2) (s : State) :
    exec (.naddScalar d a b t) s = scalarForm d a b t (· + ·) s := rfl

theorem exec_nsubScalar (d a b : BitVec 4) (t : BitVec 2) (s : State) :
    exec (.nsubScalar d a b t) s = scalarForm d a b t (· - ·) s := rfl

theorem exec_nmulScalar (d a b : BitVec 4) (t : BitVec 2) (s : State) :
    exec (.nmulScalar d a b t) s = scalarForm d a b t (· * ·) s := rfl

theorem exec_nmaxScalar (d a b : BitVec 4) (t : BitVec 2) (s : State) :
    exec (.nmaxScalar d a b t) s = scalarForm d a b t max s := rfl

theorem exec_nminScalar (d a b : BitVec 4) (t : BitVec 2) (s : State) :
    exec (.nminScalar d a b t) s = scalarForm d a b t min s := rfl

theorem exec_nandScalar (d a b : BitVec 4) (t : BitVec 2) (s : State) :
    exec (.nandScalar d a b t) s = scalarForm d a b t (onBits 64 (· &&& ·)) s := rfl

theorem exec_norScalar (d a b : BitVec 4) (t : BitVec 2) (s : State) :
    exec (.norScalar d a b t) s = scalarForm d a b t (onBits 64 (· ||| ·)) s := rfl

theorem exec_nxorScalar (d a b : BitVec 4) (t : BitVec 2) (s : State) :
    exec (.nxorScalar d a b t) s = scalarForm d a b t (onBits 64 (· ^^^ ·)) s := rfl

theorem exec_nshlScalar (d a b : BitVec 4) (t : BitVec 2) (s : State) :
    exec (.nshlScalar d a b t) s = scalarForm d a b t (shiftLeft 64) s := rfl

theorem exec_nshrScalar (d a b : BitVec 4) (t : BitVec 2) (s : State) :
    exec (.nshrScalar d a b t) s = scalarForm d a b t (shiftRight 64) s := rfl

theorem exec_nfma (d a b : BitVec 4) (k : BitVec 2) (c : BitVec 1) (sel : BitVec 5) (s : State) :
    exec (.nfma d a b k c sel) s = laneForm (badCommon 1 c sel) d a b k c sel true fmaFp32 s := rfl

theorem illFormedMillWordsEndTheKernel : Sys2Proof.Claims.IllFormedMillWordsEndTheKernel := by
  intro s m v i h henc hill
  obtain ⟨w, hw⟩ := Option.isSome_iff_exists.1 henc
  cases i
  all_goals injection hw
  case nadd => exact exec_illFormedArith (badCommon_eq ..) hill h (exec_nadd ..)
  case nsub => exact exec_illFormedArith (badCommon_eq ..) hill h (exec_nsub ..)
  case nmul => exact exec_illFormedArith (badCommon_eq ..) hill h (exec_nmul ..)
  case nmax => exact exec_illFormedArith (badCommon_eq ..) hill h (exec_nmax ..)
  case nmin => exact exec_illFormedArith (badCommon_eq ..) hill h (exec_nmin ..)
  case nand => exact exec_illFormedLanes (badCommon_eq ..) hill h (exec_nand ..)
  case nor => exact exec_illFormedLanes (badCommon_eq ..) hill h (exec_nor ..)
  case nxor => exact exec_illFormedLanes (badCommon_eq ..) hill h (exec_nxor ..)
  case nshl => exact exec_illFormedArith (badShift_eq ..) hill h (exec_nshl ..)
  case nshr => exact exec_illFormedArith (badShift_eq ..) hill h (exec_nshr ..)
  case naddScalar => exact exec_illFormedScalar (badScalar_eq ..) hill h (exec_naddScalar ..)
  case nsubScalar => exact exec_illFormedScalar (badScalar_eq ..) hill h (exec_nsubScalar ..)
  case nmulScalar => exact exec_illFormedScalar (badScalar_eq ..) hill h (exec_nmulScalar ..)
  case nmaxScalar => exact exec_illFormedScalar (badScalar_eq ..) hill h (exec_nmaxScalar ..)
  case nminScalar => exact exec_illFormedScalar (badScalar_eq ..) hill h (exec_nminScalar ..)
  case nandScalar => exact exec_illFormedScalar (badScalar_eq ..) hill h (exec_nandScalar ..)
  case norScalar => exact exec_illFormedScalar (badScalar_eq ..) hill h (exec_norScalar ..)
  case nxorScalar => exact exec_illFormedScalar (badScalar_eq ..) hill h (exec_nxorScalar ..)
  case nshlScalar => exact exec_illFormedScalar (badScalar_eq ..) hill h (exec_nshlScalar ..)
  case nshrScalar => exact exec_illFormedScalar (badScalar_eq ..) hill h (exec_nshrScalar ..)
  case nfma => exact exec_illFormedLanes (badCommon_one_eq ..) hill h (exec_nfma ..)
  case ncvt => exact exec_illFormed (millIf_isNone _) hill h (exec_ncvt ..)
  case ncmp => exact exec_illFormed (badNcmp_eq ..) hill h (exec_ncmp ..)
  case nsel => exact exec_illFormed (badCommon_zero_eq ..) hill h (exec_nsel ..)
  case ndot => exact exec_illFormed (millIf_isNone _) hill h (exec_ndot ..)
  case nred => exact exec_illFormed (badReduce_eq ..) hill h (exec_nred ..)
  case nredScalar => exact exec_illFormed (badReduce_eq ..) hill h (exec_nredScalar ..)
  case ntrip => exact exec_illFormed (millIf_isNone _) hill h (exec_ntrip ..)
  case nidxW => exact exec_illFormed (millIf_isNone _) hill h (exec_nidxW ..)
  case nloop => exact exec_illFormed (millIf_isNone _) hill h (exec_nloop ..)
  case nsems => exact exec_illFormed (millIf_isNone _) hill h (exec_nsems ..)
  all_goals exact Bool.noConfusion hill

/-- Settles O54: the checks of an access in their order, and the bad fields of each word against its own range. -/
theorem millChecksComeFirst : Obligations.MillChecksComeFirst :=
  ⟨millAccessChecks, illFormedMillWordsEndTheKernel⟩

end Sys2Proof.Machine
end

/-! ### What accesses of HBM touch -/

section
namespace Sys2Proof.Machine
open Sys2Proof.Claims Sys2Proof.Config

/-! #### Bytes of a memory -/

theorem memRead_one (m : Memory) (x : Nat) : memRead m x 1 = [memGet m x] := rfl

theorem memRead_congr {m m' : Memory} {a n : Nat} (h : ∀ x, a ≤ x → x < a + n → memGet m' x = memGet m x) :
    memRead m' a n = memRead m a n := by
  induction n generalizing a with
  | zero => rfl
  | succ n ih =>
    rw [memRead, memRead, h a (Nat.le_refl a) (by omega), ih fun x hx hlt => h x (by omega) (by omega)]

theorem getElem_memRead (m : Memory) (a n i : Nat) (h : i < (memRead m a n).length) : (memRead m a n)[i] = memGet m (a + i) := by
  induction n generalizing a i with
  | zero => simp [memRead] at h
  | succ n ih =>
    cases i with
    | zero => rfl
    | succ i =>
      rw [show a + (i + 1) = a + 1 + i by omega]
      exact ih (a + 1) i (by simpa [memRead] using h)

/-- Inside what is written stands what is written. -/
theorem memGet_memWrite_inside (m : Memory) (a : Nat) (bs : List Byte) (i : Nat) (h : i < bs.length) :
    memGet (memWrite m a bs) (a + i) = bs[i] := by
  have hread := memRead_memWrite_same m a bs
  have hget := getElem_memRead (memWrite m a bs) a bs.length i (by rw [length_memRead]; exact h)
  rw [← hget]
  exact List.getElem_of_eq hread _

/-- Writing the bytes that stand there changes no byte. -/
theorem memGet_memWrite_memRead (m : Memory) (a n x : Nat) : memGet (memWrite m a (memRead m a n)) x = memGet m x := by
  by_cases h : x < a ∨ a + n ≤ x
  · exact memGet_memWrite_other m a _ (by rwa [length_memRead])
  · obtain ⟨i, rfl⟩ : ∃ i, x = a + i := ⟨x - a, by omega⟩
    have hi : i < (memRead m a n).length := by rw [length_memRead]; omega
    rw [memGet_memWrite_inside m a _ i hi, getElem_memRead]

/-! #### ECC sectors that a write reads and merges (R283, R284) -/

theorem mem_eccSectors {b n k : Nat} (hn : 0 < n) : k ∈ eccSectors b n ↔ b / 32 ≤ k ∧ k ≤ (b + n - 1) / 32 := by
  have hle : b / 32 ≤ (b + n - 1) / 32 := Nat.div_le_div_right (by omega)
  rw [eccSectors, if_neg (by omega), List.mem_map]
  constructor
  · rintro ⟨j, hj, rfl⟩
    have := List.mem_range.1 hj
    omega
  · intro h
    exact ⟨k - b / 32, List.mem_range.2 (by omega), by omega⟩

theorem length_delivered (s : State) (b : Nat) (bs : List Byte) : (delivered s b bs).length = bs.length := by
  unfold delivered
  split
  · rfl
  · rw [List.length_map, List.length_range]

theorem mergeSector_hbm_other (s : State) {k x : Nat} (h : x / 32 ≠ k) : memGet (mergeSector s k).hbm x = memGet s.hbm x := by
  unfold mergeSector
  split
  · rfl
  · exact memGet_memWrite_other _ _ _ (by rw [length_delivered, length_memRead]; omega)

theorem foldl_mergeSector_hbm_other (l : List Nat) (s : State) {x : Nat} (h : x / 32 ∉ l) :
    memGet (l.foldl mergeSector s).hbm x = memGet s.hbm x :=
  List.foldlRecOn (motive := fun t => memGet t.hbm x = memGet s.hbm x) l mergeSector rfl fun t ht _ hk =>
    (mergeSector_hbm_other t fun hx => h (hx ▸ hk)).trans ht

/-- A write merges sectors that its bytes touch, and no others. -/
theorem eccWrite_hbm_other (s : State) {b n x : Nat} (hn : 0 < n) (h : x / 32 < b / 32 ∨ (b + n - 1) / 32 < x / 32) :
    memGet (eccWrite s b n).hbm x = memGet s.hbm x := by
  unfold eccWrite
  split
  · rfl
  · refine foldl_mergeSector_hbm_other _ s fun hx => ?_
    have hsec := (mem_eccSectors hn).1 (List.mem_filter.1 hx).1
    omega

/-! #### Sectors written -/

theorem length_overlay {bs new : List Byte} {at_ : Nat} (h : at_ + new.length ≤ bs.length) :
    (overlay bs at_ new).length = bs.length := by
  simp [overlay]
  omega

theorem length_cellBytes (s : State) (b n : Nat) : (cellBytes s b n).length = n := by
  rw [cellBytes, length_delivered, length_memRead]

theorem length_sectorSeen (s : State) (linear : Bool) (sec n : Nat) : (sectorSeen s linear sec n).length = 64 := by
  have hviews : ∀ v ∈ sectorViews s linear sec, v.length = 64 := fun v hv => by
    obtain rfl | hv := List.mem_cons.1 hv
    · exact length_cellBytes s _ _
    · obtain ⟨c, -, rfl⟩ := List.mem_map.1 hv
      exact valueBytes_length 64 _
  unfold sectorSeen
  rw [List.getD_eq_getElem?_getD]
  cases hget : (sectorViews s linear sec)[freeChoice n sec % (sectorViews s linear sec).length]? with
  | none => exact length_cellBytes s _ _
  | some v => exact hviews v (List.mem_of_getElem? hget)

/-- A write within one sector leaves every byte of the others. -/
theorem writeSector_hbm_other (s : State) (linear : Bool) {b x : Nat} {bs : List Byte} (hbs : bs ≠ []) (hb : b % 64 + bs.length ≤ 64)
    (h : x / 64 ≠ b / 64) : memGet (writeSector s linear b bs).hbm x = memGet s.hbm x := by
  have hpos : 0 < bs.length := List.length_pos_iff.2 hbs
  have hecc : memGet (eccWrite s b bs.length).hbm x = memGet s.hbm x := eccWrite_hbm_other s hpos (by omega)
  unfold writeSector
  dsimp only
  split
  · refine (memGet_memWrite_other _ _ _ ?_).trans hecc
    have hends : (if freeBit (eccWrite s b bs.length).free then
        overlay (sectorSeen (eccWrite s b bs.length) linear (b / 64) (eccWrite s b bs.length).free) (b % 64) bs
        else sectorNow (eccWrite s b bs.length) (b / 64)).length = 64 := by
      split
      · rw [length_overlay (by rw [length_sectorSeen]; exact hb), length_sectorSeen]
      · rw [sectorNow, length_memRead]
    rw [hends]
    omega
  · exact (memGet_memWrite_other _ _ _ (by omega)).trans hecc

theorem inLinear_cell {b : Nat} (h : b < hbmBytes) : inLinear (linearBase + b) = true := decide_eq_true (by omega)

theorem cellOf_cell {b : Nat} (h : b < hbmBytes) : cellOf (linearBase + b) = b := by
  rw [cellOf, inLinear_cell h, if_pos rfl]
  omega

/-- A write that stays within one sector of the bank-linear window. -/
theorem hbmWrite_sector {s : State} {b : Nat} {bs : List Byte} (hb : b < hbmBytes) (hbs : bs ≠ []) (hs : b % 64 + bs.length ≤ 64) :
    hbmWrite s (linearBase + b) bs = writeSector s true b bs := by
  have hmod : (linearBase + b) % 64 = b % 64 := by
    rw [Nat.add_mod, show linearBase % 64 = 0 from rfl, Nat.zero_add, Nat.mod_mod]
  have hfit : bs.length ≤ 64 - b % 64 := by omega
  obtain ⟨a, l, rfl⟩ := List.exists_cons_of_ne_nil hbs
  unfold hbmWrite writeSectors
  dsimp only
  rw [hmod, inLinear_cell hb, cellOf_cell hb, List.take_of_length_le hfit, List.drop_of_length_le hfit]
  cases (a :: l).length / 64 + 1 <;> rfl

/-! #### What translations change -/

/-- The two states differ in what walks change alone: their translations and entries, the host's accesses and the numbers that
reads take and count. -/
def OnlyWalks (s t : State) : Prop :=
  ∃ free balked host pkg pointers guards tlb cores intervals, t = { s with
    free := free, balked := balked, host := host, pkg := pkg, pointers := pointers, guards := guards, tlb := tlb, cores := cores
    intervals := intervals }

theorem OnlyWalks.refl (s : State) : OnlyWalks s s :=
  ⟨s.free, s.balked, s.host, s.pkg, s.pointers, s.guards, s.tlb, s.cores, s.intervals, rfl⟩

theorem OnlyWalks.trans {s t u : State} (h : OnlyWalks s t) (h' : OnlyWalks t u) : OnlyWalks s u := by
  obtain ⟨_, _, _, _, _, _, _, _, _, rfl⟩ := h
  obtain ⟨_, _, _, _, _, _, _, _, _, rfl⟩ := h'
  exact ⟨_, _, _, _, _, _, _, _, _, rfl⟩

theorem OnlyHost.walks {s t : State} (h : OnlyHost s t) : OnlyWalks s t := by
  obtain ⟨host, rfl⟩ := h
  exact ⟨s.free, s.balked, host, s.pkg, s.pointers, s.guards, s.tlb, s.cores, s.intervals, rfl⟩

theorem spend_onlyWalks (s : State) (n : Nat) : OnlyWalks s (spend s n) :=
  ⟨_, s.balked, s.host, s.pkg, s.pointers, s.guards, s.tlb, s.cores, s.intervals, rfl⟩

theorem pkg_onlyWalks (s : State) (p : Package) : OnlyWalks s { s with pkg := p } :=
  ⟨s.free, s.balked, s.host, p, s.pointers, s.guards, s.tlb, s.cores, s.intervals, rfl⟩

theorem eccCount_onlyWalks (s : State) (b n : Nat) : OnlyWalks s (eccCount s b n) := by
  unfold eccCount
  dsimp only
  split
  · split
    · exact .refl s
    · exact pkg_onlyWalks _ _
  · exact pkg_onlyWalks _ _

theorem foldl_onlyWalks {α : Type} {f : State → α → State} (hf : ∀ s a, OnlyWalks s (f s a)) (l : List α) (s : State) :
    OnlyWalks s (l.foldl f s) :=
  List.foldlRecOn (motive := OnlyWalks s) l f (.refl s) fun _ ht a _ => ht.trans (hf _ a)

theorem afterRead_onlyWalks (s : State) (a n : Nat) : OnlyWalks s (afterRead s a n) := by
  have hcount : OnlyWalks s (if eccClean s then s else (runsOf a n).foldl (fun t r => eccCount t (cellOf r.1) r.2) s) := by
    split
    · exact .refl s
    · exact foldl_onlyWalks (fun t r => eccCount_onlyWalks t _ _) _ s
  unfold afterRead
  dsimp only
  split
  · exact hcount.trans (spend_onlyWalks _ 1)
  · exact hcount

theorem balkAt_onlyWalks (s : State) (a n : Nat) : OnlyWalks s (balkAt s a n) := by
  have hwaits : OnlyWalks s (if memoryAwake s then hostWaits s a n else s) := by
    split
    · exact (hostWaits_onlyHost s a n).walks
    · exact .refl s
  unfold balkAt balk
  refine hwaits.trans ?_
  generalize (if memoryAwake s then hostWaits s a n else s) = u
  exact ⟨u.free, true, u.host, u.pkg, u.pointers, u.guards, u.tlb, u.cores, u.intervals, rfl⟩

theorem tableRead_onlyWalks (s : State) (a : Nat) : OnlyWalks s (tableRead s a).2 := by
  have hread : OnlyWalks s (afterRead (hostTakes s a 8) a 8) := (hostTakes_onlyHost s a 8).walks.trans (afterRead_onlyWalks _ a 8)
  unfold tableRead
  dsimp only
  split
  · exact .refl s
  · split
    · exact balkAt_onlyWalks s a 8
    · split <;> exact hread

theorem pointerRead_onlyWalks (s : State) (job level va a : Nat) : OnlyWalks s (pointerRead s job level va a).2 := by
  unfold pointerRead
  split
  · split
    · exact spend_onlyWalks s 1
    · exact (spend_onlyWalks s 1).trans (tableRead_onlyWalks _ a)
  · exact tableRead_onlyWalks s a

theorem keepPointer_onlyWalks (s : State) (job level va : Nat) (e : Word) : OnlyWalks s (keepPointer s job level va e) :=
  ⟨s.free, s.balked, s.host, s.pkg, _, s.guards, s.tlb, s.cores, s.intervals, rfl⟩

/-- What a part of a walk leaves, named by what it gives. -/
theorem OnlyWalks.of_eq {α : Type} {s u : State} {r : α × State} {a : α} (hr : OnlyWalks s r.2) (h : r = (a, u)) : OnlyWalks s u := by
  rw [h] at hr
  exact hr

theorem walkLeaf_onlyWalks (s : State) (job va : Nat) (e2 : Word) : OnlyWalks s (walkLeaf s job va e2).2 := by
  unfold walkLeaf
  have hread := pointerRead_onlyWalks s job 3 va (bits e2 47 10 * 1024 + va / 2 ^ 23 % 128 * 8)
  split
  · next h => exact hread.of_eq h
  · next e3 u h =>
    refine (hread.of_eq h).trans ?_
    split
    · exact .refl u
    split
    · exact .refl u
    split
    · exact .refl u
    refine (keepPointer_onlyWalks u job 3 va e3).trans ?_
    have hleaf := tableRead_onlyWalks (keepPointer u job 3 va e3) (bits e3 47 10 * 1024 + va / 65536 % 128 * 8)
    split
    · next h => exact hleaf.of_eq h
    · next leaf u' h =>
      refine (hleaf.of_eq h).trans ?_
      split
      · exact .refl u'
      split
      · exact .refl u'
      · exact .refl u'

theorem walk_onlyWalks (s : State) (job va : Nat) : OnlyWalks s (walk s job va).2 := by
  unfold walk
  split
  · exact .refl s
  next root _ =>
  have hread := pointerRead_onlyWalks s job 1 va (root + va / 2 ^ 39 % 512 * 8)
  split
  · next h => exact hread.of_eq h
  next e1 u h =>
  refine (hread.of_eq h).trans ?_
  split
  · exact .refl u
  split
  · exact .refl u
  refine (keepPointer_onlyWalks u job 1 va e1).trans ?_
  have hread2 := pointerRead_onlyWalks (keepPointer u job 1 va e1) job 2 va (bits e1 47 10 * 1024 + va / 2 ^ 30 % 512 * 8)
  dsimp only
  split
  · next h => exact hread2.of_eq h
  next e2 u' h =>
  refine (hread2.of_eq h).trans ?_
  split
  · exact .refl u'
  split
  · exact .refl u'
  · exact (keepPointer_onlyWalks u' job 2 va e2).trans (walkLeaf_onlyWalks _ job va e2)

theorem guardEntry_onlyWalks (s : State) (job g : Nat) : OnlyWalks s (guardEntry s job g).2 := by
  unfold guardEntry
  split
  · exact .refl s
  split
  · exact .refl s
  next r _ =>
  have hread := tableRead_onlyWalks s (r + 4096 + 8 * g)
  split
  · next h => exact hread.of_eq h
  next e u h =>
  refine (hread.of_eq h).trans ?_
  dsimp only
  split
  · exact ⟨u.free, u.balked, u.host, u.pkg, u.pointers, _, u.tlb, u.cores, u.intervals, rfl⟩
  · exact .refl u

theorem leafGuard_onlyWalks (s : State) (job : Nat) (leaf : Word) : OnlyWalks s (leafGuard s job leaf).2 := by
  unfold leafGuard
  have hread := guardEntry_onlyWalks s job (bits leaf 21 13)
  split
  · split
    · next g u h =>
      refine (hread.of_eq h).trans ?_
      split
      · exact spend_onlyWalks u 1
      · exact .refl u
    · next h => exact hread.of_eq h
  · exact .refl s

theorem walkPage_onlyWalks (s : State) (job va : Nat) : OnlyWalks s (walkPage s job va).2 := by
  unfold walkPage
  have hwalk := walk_onlyWalks s job va
  split
  · next h => exact hwalk.of_eq h
  next leaf large u h =>
  refine (hwalk.of_eq h).trans ?_
  have hguard := leafGuard_onlyWalks u job leaf
  split
  · exact .refl u
  split
  · next h => exact hguard.of_eq h
  · next h => exact hguard.of_eq h

theorem pageTarget_onlyWalks (s : State) (core : Option Nat) (job va : Nat) (kind : AccessKind) (p : PageFound) :
    OnlyWalks s (pageTarget s core job va kind p).2 := by
  unfold pageTarget
  split
  · exact .refl s
  split
  · exact .refl s
  cases core with
  | none => exact ⟨s.free, s.balked, s.host, s.pkg, s.pointers, s.guards, _, s.cores, s.intervals, rfl⟩
  | some k => exact ⟨s.free, s.balked, s.host, s.pkg, s.pointers, s.guards, _, _, s.intervals, rfl⟩

theorem findPage_onlyWalks (s : State) (job : Nat) (va : Word) : OnlyWalks s (findPage s job va).2 := by
  unfold findPage
  split
  · exact .refl s
  split
  · exact .refl s
  split
  · split
    · exact spend_onlyWalks s 1
    · exact (spend_onlyWalks s 1).trans (walkPage_onlyWalks _ _ _)
  · exact walkPage_onlyWalks _ _ _

/-- A translation changes translations, entries, and what its reads of tables count. -/
theorem translate_onlyWalks (s : State) (core : Option Nat) (job : Nat) (va : Word) (kind : AccessKind) :
    OnlyWalks s (translate s core job va kind).2 := by
  unfold translate
  have hfind := findPage_onlyWalks s job va
  split
  · next h => exact hfind.of_eq h
  next p u h => exact (hfind.of_eq h).trans (pageTarget_onlyWalks _ _ _ _ _ _)

theorem targetFor_onlyWalks (s : State) (k job : Nat) (va : Word) (kind : AccessKind) : OnlyWalks s (targetFor s k job va kind).2 := by
  unfold targetFor
  split
  · exact .refl s
  · exact translate_onlyWalks _ _ _ _ _

/-! #### What an advance of intervals changes -/

theorem advanceWhere_onlyWalks {names : State → Nat → Word → Bool × State} (hn : ∀ s job e, OnlyWalks s (names s job e).2)
    (s : State) : OnlyWalks s (advanceWhere s names) := by
  unfold advanceWhere
  refine foldl_onlyWalks (fun u job => ?_) _ s
  split
  · exact .refl u
  refine foldl_onlyWalks (fun u g => ?_) _ u
  dsimp only
  split
  · next h => exact (hn _ _ _).of_eq h
  · next w h =>
    refine ((hn _ _ _).of_eq h).trans ?_
    exact ⟨w.free, w.balked, w.host, w.pkg, w.pointers, _, w.tlb, w.cores, _, rfl⟩

theorem brokenActs_onlyWalks (s : State) (e : Word) (b : Bool) : OnlyWalks s (brokenActs s e b).2 := by
  unfold brokenActs
  split
  · exact spend_onlyWalks s 1
  · exact .refl s

theorem advanceSem_onlyWalks (s : State) (core n : Nat) : OnlyWalks s (advanceSem s core n) :=
  advanceWhere_onlyWalks (fun _ _ _ => brokenActs_onlyWalks _ _ _) s

theorem advanceCell_onlyWalks (s : State) (t : Target) : OnlyWalks s (advanceCell s t) := by
  unfold advanceCell
  split
  · exact .refl s
  refine advanceWhere_onlyWalks (fun u job e => ?_) s
  dsimp only
  split
  · exact .refl u
  have htrans := translate_onlyWalks u none job (BitVec.ofNat 64 (bits e 47 0)) .fence
  split
  · exact htrans
  split
  · exact brokenActs_onlyWalks _ _ _
  · exact .refl u

/-! #### Sectors that a Mill stores -/

/-- The lanes of half h of a sector that a store gives. -/
def givenLanes (new : Nat → Option Nat) (h : Nat) : List Nat :=
  ((List.range 8).map (8 * h + ·)).filter fun l => (new l).isSome

/-- What a store reads and merges of half h of a sector before its bytes are laid. -/
def mergeHalf (b : Nat) (new : Nat → Option Nat) (t : State) (h : Nat) : State :=
  match givenLanes new h with
  | [] => t
  | l :: rest => if rest.length = 7 then eccWrite t (b + 32 * h) 32 else eccWrite t (b + 4 * l) 4

/-- Half h of a sector is poisoned where a lane that is stored in it is. -/
def poisonHalf (b : Nat) (new : Nat → Option Nat) (tag : Nat → Bool) (t : State) (h : Nat) : State :=
  if (givenLanes new h).any tag then poisonSectors t (b + 32 * h) 32 else t

/-- The sector as a store finds it. -/
def storeOld (s ecc : State) (b : Nat) : List Byte :=
  if crossed s true (b / 64) then sectorSeen s true (b / 64) s.free else sectorNow ecc (b / 64)

/-- The state with the bytes of a stored sector laid. -/
def storeLaid (s ecc : State) (b : Nat) (new : Nat → Option Nat) : State :=
  let t := writeSector { s with hbm := ecc.hbm } true b (replaceLanes (storeOld s ecc b) 16 new)
  { t with eccPoison := ecc.eccPoison, eccErr := ecc.eccErr, pkg := ecc.pkg }

theorem storeSector_eq (s : State) (b : Nat) (new : Nat → Option Nat) (tag : Nat → Bool) : storeSector s b new tag =
    if (List.range 16).all fun l => (new l).isNone then s
    else (List.range 2).foldl (poisonHalf b new tag) (storeLaid s ((List.range 2).foldl (mergeHalf b new) s) b new) := rfl

theorem mergeHalf_onlyHbm (b : Nat) (new : Nat → Option Nat) (s : State) (h : Nat) : OnlyHbm s (mergeHalf b new s h) := by
  unfold mergeHalf
  split
  · exact .refl s
  · split
    · exact eccWrite_onlyHbm _ _ _
    · exact eccWrite_onlyHbm _ _ _

theorem poisonHalf_onlyHbm (b : Nat) (new : Nat → Option Nat) (tag : Nat → Bool) (s : State) (h : Nat) :
    OnlyHbm s (poisonHalf b new tag s h) := by
  unfold poisonHalf
  split
  · exact ⟨s.hbm, s.crossings, s.free, _, s.eccErr, s.pkg.eccce, rfl⟩
  · exact .refl s

theorem storeLaid_onlyHbm {s ecc : State} (h : OnlyHbm s ecc) (b : Nat) (new : Nat → Option Nat) :
    OnlyHbm s (storeLaid s ecc b new) := by
  obtain ⟨hbm, crossings, free, poison, err, eccce, rfl⟩ := h
  have hwrite := writeSector_onlyHbm { s with hbm := hbm } true b (replaceLanes (storeOld s { s with
    hbm := hbm, crossings := crossings, free := free, eccPoison := poison, eccErr := err, pkg := { s.pkg with eccce := eccce } } b)
    16 new)
  obtain ⟨hbm', crossings', free', poison', err', eccce', ht⟩ := hwrite
  refine ⟨hbm', crossings', free', poison, err, eccce, ?_⟩
  unfold storeLaid
  dsimp only
  rw [ht]

theorem storeSector_onlyHbm (s : State) (b : Nat) (new : Nat → Option Nat) (tag : Nat → Bool) :
    OnlyHbm s (storeSector s b new tag) := by
  rw [storeSector_eq]
  split
  · exact .refl s
  · exact (storeLaid_onlyHbm (foldl_onlyHbm _ (mergeHalf_onlyHbm b new) _ s) b new).trans
      (foldl_onlyHbm _ (poisonHalf_onlyHbm b new tag) _ _)

/-- The four bytes that a store leaves of a lane. -/
def laneBytes (old : List Byte) (new : Nat → Option Nat) (l : Nat) : List Byte :=
  match new l with
  | some v => valueBytes 4 v
  | none => (old.drop (4 * l)).take 4

theorem replaceLanes_eq (old : List Byte) (n : Nat) (new : Nat → Option Nat) :
    replaceLanes old n new = (List.range n).flatMap (laneBytes old new) := rfl

theorem length_laneBytes {old : List Byte} {new : Nat → Option Nat} {l : Nat} (h : 4 * l + 4 ≤ old.length) :
    (laneBytes old new l).length = 4 := by
  unfold laneBytes
  split
  · exact valueBytes_length 4 _
  · rw [List.length_take, List.length_drop]
    omega

theorem length_replaceLanes {old : List Byte} {n : Nat} (new : Nat → Option Nat) (h : 4 * n ≤ old.length) :
    (replaceLanes old n new).length = 4 * n := by
  have hlane : ∀ l ∈ List.range n, (laneBytes old new l).length = 4 := fun l hl => by
    have hlt := List.mem_range.1 hl
    exact length_laneBytes (by omega)
  rw [replaceLanes_eq, List.length_flatMap, List.map_congr_left hlane, List.map_const', List.sum_replicate_nat,
    List.length_range, Nat.mul_comm]

theorem length_storeOld (s ecc : State) (b : Nat) : (storeOld s ecc b).length = 64 := by
  unfold storeOld
  split
  · exact length_sectorSeen ..
  · exact length_memRead ..

theorem mergeHalf_hbm_other {b h x : Nat} (new : Nat → Option Nat) (s : State) (hb : b % 64 = 0) (hh : h < 2) (hx : x / 64 ≠ b / 64) :
    memGet (mergeHalf b new s h).hbm x = memGet s.hbm x := by
  unfold mergeHalf
  split
  · rfl
  · next l rest hl =>
    have hmem : l ∈ givenLanes new h := by rw [hl]; exact List.mem_cons_self
    obtain ⟨j, hj, hjl⟩ := List.mem_map.1 (List.mem_filter.1 hmem).1
    have hlt := List.mem_range.1 hj
    split
    · exact eccWrite_hbm_other s (by decide) (by omega)
    · exact eccWrite_hbm_other s (by decide) (by omega)

/-- Poisoning the halves of a sector changes no byte. -/
theorem storePoisoned_hbm (b : Nat) (new : Nat → Option Nat) (tag : Nat → Bool) (l : List Nat) (s : State) :
    (l.foldl (poisonHalf b new tag) s).hbm = s.hbm :=
  List.foldlRecOn (motive := fun t => t.hbm = s.hbm) l (poisonHalf b new tag) rfl fun t ht h _ => by
    rw [← ht]
    unfold poisonHalf
    split <;> rfl

/-- A store of lanes leaves every byte of the other sectors. -/
theorem storeSector_hbm_other {b x : Nat} (s : State) (new : Nat → Option Nat) (tag : Nat → Bool) (hb : b % 64 = 0)
    (hx : x / 64 ≠ b / 64) : memGet (storeSector s b new tag).hbm x = memGet s.hbm x := by
  have hmerged : memGet ((List.range 2).foldl (mergeHalf b new) s).hbm x = memGet s.hbm x :=
    List.foldlRecOn (motive := fun t => memGet t.hbm x = memGet s.hbm x) _ (mergeHalf b new) rfl fun t ht h hh =>
      (mergeHalf_hbm_other new t hb (List.mem_range.1 hh) hx).trans ht
  rw [storeSector_eq]
  split
  · rfl
  · rw [storePoisoned_hbm]
    have hlen : (replaceLanes (storeOld s ((List.range 2).foldl (mergeHalf b new) s) b) 16 new).length = 64 :=
      length_replaceLanes new (Nat.le_of_eq (length_storeOld ..).symm)
    refine (writeSector_hbm_other _ true (List.ne_nil_of_length_eq_add_one (n := 63) hlen) ?_ hx).trans hmerged
    omega

end Sys2Proof.Machine
end

/-! ### A Mill's word keeps to its banks -/

section
namespace Sys2Proof.Machine
open Sys2Proof.Claims Sys2Proof.Config

/-- The state that the body of a Mill's word leaves. -/
def MillEnd.state : MillEnd → State
  | .done s _ => s
  | .jump s _ _ _ => s
  | .ends s _ _ => s
  | .waits s _ => s

/-- What a word of Mill m leaves: no byte of HBM is changed outside the banks that the Mill owns. -/
def MillKeeps (s : State) (m : Nat) (owned : BitVec 16) (t : State) : Prop :=
  t.crews = s.crews ∧ t.spad = s.spad ∧ t.ctl = s.ctl ∧ t.code = s.code ∧ t.mills = s.mills ∧
    ∀ x, memGet t.hbm x ≠ memGet s.hbm x → millOf x = m ∧ owned.getLsbD (bankOf x) = true

theorem MillKeeps.refl (s : State) (m : Nat) (owned : BitVec 16) : MillKeeps s m owned s :=
  ⟨rfl, rfl, rfl, rfl, rfl, fun _ h => absurd rfl h⟩

theorem MillKeeps.trans {s t u : State} {m : Nat} {owned : BitVec 16} (h : MillKeeps s m owned t) (h' : MillKeeps t m owned u) :
    MillKeeps s m owned u := by
  obtain ⟨hcrews, hspad, hctl, hcode, hmills, hhbm⟩ := h
  obtain ⟨hcrews', hspad', hctl', hcode', hmills', hhbm'⟩ := h'
  refine ⟨hcrews'.trans hcrews, hspad'.trans hspad, hctl'.trans hctl, hcode'.trans hcode, hmills'.trans hmills, fun x hx => ?_⟩
  by_cases h : memGet t.hbm x = memGet s.hbm x
  · exact hhbm' x (h.symm ▸ hx)
  · exact hhbm x h

theorem OnlyWalks.millKeeps {s t : State} (h : OnlyWalks s t) (m : Nat) (owned : BitVec 16) : MillKeeps s m owned t := by
  obtain ⟨_, _, _, _, _, _, _, _, _, rfl⟩ := h
  exact .refl s m owned

theorem OnlyHbm.millKeeps {s t : State} {m : Nat} {owned : BitVec 16} (h : OnlyHbm s t)
    (hhbm : ∀ x, memGet t.hbm x ≠ memGet s.hbm x → millOf x = m ∧ owned.getLsbD (bankOf x) = true) : MillKeeps s m owned t := by
  obtain ⟨_, _, _, _, _, _, rfl⟩ := h
  exact ⟨rfl, rfl, rfl, rfl, rfl, hhbm⟩

/-- A word of a Mill that keeps to its banks, in any state in which it runs. -/
def KeepingWord (f : State → Out) : Prop :=
  ∃ bad body, (∀ s, f s = millWord bad s body) ∧
    ∀ s m v, MillRuns s m v → m < 512 → MillKeeps s m v.ownedBanks (body s v).state

/-- A word whose body reaches no memory. -/
theorem keepingWord_of_self {f : State → Out} {bad : Bool} {body : State → MillState → MillEnd} (hf : ∀ s, f s = millWord bad s body)
    (hbody : ∀ s v, (body s v).state = s) : KeepingWord f :=
  ⟨bad, body, hf, fun s m v _ _ => by rw [hbody]; exact .refl s m _⟩

theorem signKernel_millKeeps {s t : State} {m : Nat} {owned : BitVec 16} (v : MillState) (h : MillKeeps s m owned t) :
    MillKeeps s m owned (signKernel s t v) := by
  unfold signKernel
  split
  · exact h
  · exact h

/-- What a word that has run leaves: the state of its body, signed, with its Mill put back. -/
theorem millWord_next {bad : Bool} {body : State → MillState → MillEnd} {s t : State} {m : Nat} {v : MillState}
    (h : MillRuns s m v) (ht : millWord bad s body = .next t) :
    ∃ u v' n, (u = s ∨ u = signKernel s (body s v).state v) ∧ t = spend (putMill u m v') n := by
  obtain ⟨hcur, hmill⟩ := h
  unfold millWord at ht
  simp only [hcur, hmill] at ht
  split at ht
  · cases ht
    exact ⟨s, _, 0, .inl rfl, rfl⟩
  · cases hb : body s v with
    | done s' v' =>
      rw [hb] at ht
      cases ht
      exact ⟨_, _, 32, .inr rfl, rfl⟩
    | jump s' v' pc loops =>
      rw [hb] at ht
      cases ht
      exact ⟨_, _, 32, .inr rfl, rfl⟩
    | ends s' v' f =>
      rw [hb] at ht
      cases ht
      exact ⟨_, _, 0, .inr rfl, rfl⟩
    | waits s' v' =>
      rw [hb] at ht
      cases ht
      exact ⟨_, _, 0, .inr rfl, rfl⟩

/-- A keeping word that has run keeps to its Mill's banks. -/
theorem KeepingWord.next {f : State → Out} {s t : State} {m : Nat} {v : MillState} (hf : KeepingWord f) (h : MillRuns s m v)
    (hm : m < 512) (ht : f s = .next t) :
    t.crews = s.crews ∧ t.spad = s.spad ∧ t.ctl = s.ctl ∧ t.code = s.code ∧ (∀ n, n ≠ m → mapGet t.mills n = mapGet s.mills n) ∧
      ∀ x, memRead t.hbm x 1 ≠ memRead s.hbm x 1 → millOf x = m ∧ v.ownedBanks.getLsbD (bankOf x) = true := by
  obtain ⟨bad, body, hrun, hkeeps⟩ := hf
  obtain ⟨u, v', n, hu, rfl⟩ := millWord_next h ((hrun s).symm.trans ht)
  have hku : MillKeeps s m v.ownedBanks u := by
    obtain rfl | rfl := hu
    · exact .refl _ _ _
    · exact signKernel_millKeeps v (hkeeps s m v h hm)
  obtain ⟨hcrews, hspad, hctl, hcode, hmills, hhbm⟩ := hku
  refine ⟨hcrews, hspad, hctl, hcode, fun k hk => ?_, fun x hx => hhbm x fun heq => hx ?_⟩
  · show mapGet (mapSet u.mills m v') k = _
    rw [mapGet_mapSet_other _ _ hk, hmills]
  · exact congrArg (fun b => [b]) heq

/-! #### Accesses within the banks of a Mill -/

/-- A byte of a sector that an access touches lies in a bank that the Mill owns. -/
theorem owned_of_touched {v : MillState} {m w n align x : Nat} (hr : millReaches v w n align) (hn : 0 < n) (hle : n ≤ 0x3000000)
    (hlo : millCell m w / 64 ≤ x / 64) (hhi : x / 64 ≤ (millCell m w + n - 1) / 64) :
    millOf x = m ∧ v.ownedBanks.getLsbD (bankOf x) = true := by
  obtain ⟨hend, -, hfirst, hlast⟩ := hr
  have hc : millCell m w = m * 0x30000000 + w := rfl
  rw [hc] at hlo hhi
  have hdiv : x / 0x30000000 = m := by omega
  have hbank : x % 0x30000000 / 0x3000000 = w / 0x3000000 ∨ x % 0x30000000 / 0x3000000 = (w + n - 1) / 0x3000000 := by omega
  refine ⟨hdiv, ?_⟩
  have hb : bankOf x = x % 0x30000000 / 0x3000000 := rfl
  rw [hb]
  obtain h | h := hbank
  · rw [h, hfirst]
  · rw [h, hlast]

section
variable {s : State} {m : Nat} {v : MillState} {w n align : Nat}

/-- An access that keeps to its banks where it passes its checks keeps to them. -/
theorem millChecked_keeps {body : MillEnd} (hn : 0 < n) (h : millReaches v w n align → MillKeeps s m v.ownedBanks body.state) :
    MillKeeps s m v.ownedBanks (millChecked s v w n align body).state := by
  have hself : MillKeeps s m v.ownedBanks s := .refl s m _
  unfold millChecked
  split
  · exact hself
  next hplace =>
  split
  · exact hself
  next hfirst =>
  split
  · exact hself
  next hend =>
  split
  · exact hself
  next hlast =>
  rw [Bool.or_eq_true, not_or, decide_eq_true_eq, bne_iff_ne, Classical.not_not] at hplace
  obtain ⟨hw, ha⟩ := hplace
  have hend' : w + n ≤ 0x30000000 := Nat.not_lt.1 hend
  have hw' : w < 0x30000000 := Nat.not_le.1 hw
  rw [bankOf_inside hw', Bool.not_eq_true', Bool.not_eq_false] at hfirst
  rw [bankOf_inside (by omega), Bool.not_eq_true', Bool.not_eq_false] at hlast
  exact h ⟨hend', ha, hfirst, hlast⟩

theorem millAccess_keeps {body : MillState → Nat → MillEnd} (hn : 0 < n)
    (h : millReaches v w n align → ∀ u, MillKeeps s m v.ownedBanks (body u w).state) :
    MillKeeps s m v.ownedBanks (millAccess s v w n align body).state :=
  millChecked_keeps hn fun hr => by
    split
    · exact h hr _
    · exact .refl s m _

theorem unlessTagged_keeps {tag : Bool} {f : BitVec 12} {e : MillEnd} (h : MillKeeps s m v.ownedBanks e.state) :
    MillKeeps s m v.ownedBanks (if tag then .ends s v f else e).state := by
  split
  · exact .refl s m _
  · exact h

end

theorem millRead_onlyWalks (s : State) (b n : Nat) (want : Nat → Bool) : OnlyWalks s (millRead s b n want).2 := by
  unfold millRead
  dsimp only
  have hcount := foldl_onlyWalks (fun t k => eccCount_onlyWalks t (32 * k) 32) ((eccSectors b n).filter want) s
  split
  · exact hcount.trans (spend_onlyWalks _ 1)
  · exact hcount

/-- Storing a sector that an access touches keeps to the banks of the Mill. -/
theorem storeSector_keeps {v : MillState} {m w n align b : Nat} (hr : millReaches v w n align) (hn : 0 < n) (hle : n ≤ 0x3000000)
    (hb : b % 64 = 0) (hlo : millCell m w / 64 ≤ b / 64) (hhi : b / 64 ≤ (millCell m w + n - 1) / 64) (s : State)
    (new : Nat → Option Nat) (tag : Nat → Bool) : MillKeeps s m v.ownedBanks (storeSector s b new tag) := by
  refine (storeSector_onlyHbm s b new tag).millKeeps fun x hx => ?_
  have hsec : x / 64 = b / 64 := by
    refine Decidable.byContradiction fun hne => ?_
    exact hx (storeSector_hbm_other s new tag hb hne)
  exact owned_of_touched hr hn hle (hsec ▸ hlo) (hsec ▸ hhi)

/-- Storing the doubleword of an access keeps to the banks of the Mill. -/
theorem storeWord64_keeps {v : MillState} {m w : Nat} (hm : m < 512) (hr : millReaches v w 8 8) (s : State) (x : Word) :
    MillKeeps s m v.ownedBanks (storeWord64 s (millCell m w) x) := by
  have hlen : (wordBytes x).length = 8 := length_wordBytes x
  have hne : wordBytes x ≠ [] := List.ne_nil_of_length_eq_add_one (n := 7) hlen
  obtain ⟨hend, halign, -, -⟩ := id hr
  have hc : millCell m w = m * 0x30000000 + w := rfl
  have hsize : hbmBytes = 512 * 0x30000000 := rfl
  rw [storeWord64, hbmWrite_sector (by omega) hne (by omega)]
  refine (writeSector_onlyHbm s true _ _).millKeeps fun y hy => ?_
  have hsec : y / 64 = millCell m w / 64 := by
    refine Decidable.byContradiction fun h => ?_
    exact hy (writeSector_hbm_other s true hne (by omega) h)
  exact owned_of_touched hr (by decide) (by decide) (by omega) (by omega)

theorem poisonSectors_keeps (s : State) (m : Nat) (owned : BitVec 16) (b n : Nat) : MillKeeps s m owned (poisonSectors s b n) :=
  ⟨rfl, rfl, rfl, rfl, rfl, fun _ h => absurd rfl h⟩

/-! #### The words of memory -/

theorem loadLanes_keeps (s : State) (v : MillState) (m : Nat) (owned : BitVec 16) (b : Nat) (d : BitVec 4) (k : BitVec 2)
    (f : Nat → Nat → Nat) : MillKeeps s m owned (loadLanes s v b d k f).state :=
  (millRead_onlyWalks s b 128 _).millKeeps m owned

theorem nldVector_keeping (d a : BitVec 4) (k : BitVec 2) (n : BitVec 11) : KeepingWord (exec (.nldVector d a k n)) :=
  ⟨_, _, exec_nldVector d a k n, fun _ _ _ _ _ =>
    unlessTagged_keeps (millAccess_keeps (by decide) fun _ _ => loadLanes_keeps ..)⟩

theorem nldScalar_keeping (d a : BitVec 4) (n : BitVec 11) : KeepingWord (exec (.nldScalar d a n)) :=
  ⟨_, _, exec_nldScalar d a n, fun _ _ _ _ _ =>
    unlessTagged_keeps (millAccess_keeps (by decide) fun _ _ => (millRead_onlyWalks _ _ _ _).millKeeps _ _)⟩

theorem nldk_keeping (d a b : BitVec 4) (k : BitVec 2) (h : BitVec 1) : KeepingWord (exec (.nldk d a b k h)) :=
  ⟨_, _, exec_nldk d a b k h, fun _ _ _ _ _ =>
    unlessTagged_keeps (millAccess_keeps (by decide) fun _ _ => loadLanes_keeps ..)⟩

theorem nstVector_keeping (r a : BitVec 4) (k : BitVec 2) (n : BitVec 11) : KeepingWord (exec (.nstVector r a k n)) :=
  ⟨_, _, exec_nstVector r a k n, fun s m v hrun _ => unlessTagged_keeps (millAccess_keeps (by decide) fun hr _ => by
    rw [millNumber_of_runs hrun]
    obtain ⟨-, halign, -, -⟩ := id hr
    have hc : millCell m (millAddress v a n 128) = m * 0x30000000 + millAddress v a n 128 := rfl
    exact (storeSector_keeps hr (by decide) (by decide) (by omega) (by omega) (by omega) _ _ _).trans
      (storeSector_keeps hr (by decide) (by decide) (by omega) (by omega) (by omega) _ _ _))⟩

theorem nstScalar_keeping (r a : BitVec 4) (n : BitVec 11) : KeepingWord (exec (.nstScalar r a n)) :=
  ⟨_, _, exec_nstScalar r a n, fun s m v hrun hm => unlessTagged_keeps (millAccess_keeps (by decide) fun hr u => by
    rw [millNumber_of_runs hrun]
    have hstore := storeWord64_keeps hm hr s (mxGet u r)
    simp only [MillEnd.state]
    split
    · exact hstore.trans (poisonSectors_keeps _ m _ _ 8)
    · exact hstore)⟩

theorem npbAt_keeps (s : State) (v : MillState) (m : Nat) (owned : BitVec 16) (b : Nat) :
    MillKeeps s m owned (npbAt s v b).state := by
  have hread : MillKeeps s m owned (millReadAll s b 16).2 := (millRead_onlyWalks s b 16 _).millKeeps m owned
  unfold npbAt npbHeader
  split
  · exact hread
  · split
    · exact hread
    · exact hread

theorem npb_keeping (a : BitVec 4) : KeepingWord (exec (.npb a)) :=
  ⟨_, _, exec_npb a, fun _ _ _ _ _ => unlessTagged_keeps (millAccess_keeps (by decide) fun _ _ => npbAt_keeps ..)⟩

/-- A semaphore word keeps to the banks of its Mill where what it does with the count does. -/
theorem millSemAt_keeps {s : State} {u v : MillState} {m b : Nat} {body : State → MillState → Nat → Word → MillEnd}
    (h : ∀ t x, MillKeeps t m v.ownedBanks (body t u b x).state) : MillKeeps s m v.ownedBanks (millSemAt s u b body).state := by
  have hread : MillKeeps s m v.ownedBanks (millReadAll s b 8).2 := (millRead_onlyWalks s b 8 _).millKeeps m _
  unfold millSemAt
  split
  · exact hread
  · exact hread.trans (h _ _)

theorem semsCount_keeps {m : Nat} {owned : BitVec 16} {b : Nat} (n : BitVec 12) (s : State) (v : MillState) (x : Word)
    (h : ∀ y, MillKeeps s m owned (storeWord64 s b y)) : MillKeeps s m owned (semsCount n s v b x).state := by
  unfold semsCount
  split
  · exact .refl s m owned
  · exact h _

theorem semwCount_keeps {m : Nat} {owned : BitVec 16} {b : Nat} (s : State) (v : MillState) (x : Word)
    (h : ∀ y, MillKeeps s m owned (storeWord64 s b y)) : MillKeeps s m owned (semwCount s v b x).state := by
  unfold semwCount
  split
  · exact .refl s m owned
  · exact (h _).trans ((advanceCell_onlyWalks _ _).millKeeps m _)

theorem nsems_keeping (a : BitVec 4) (n : BitVec 12) : KeepingWord (exec (.nsems a n)) :=
  ⟨_, _, exec_nsems a n, fun s m v hrun hm => unlessTagged_keeps (millAccess_keeps (by decide) fun hr u => by
    rw [millNumber_of_runs hrun]
    exact millSemAt_keeps fun t x => semsCount_keeps n t u x (storeWord64_keeps hm hr t))⟩

theorem nsemw_keeping (a : BitVec 4) : KeepingWord (exec (.nsemw a)) :=
  ⟨_, _, exec_nsemw a, fun s m v hrun hm => unlessTagged_keeps (millAccess_keeps (by decide) fun hr u => by
    rw [millNumber_of_runs hrun]
    exact millSemAt_keeps fun t x => semwCount_keeps t u x (storeWord64_keeps hm hr t))⟩

/-- A sector of a triple record that lies within its access keeps to the banks of the Mill. -/
theorem storeTriple_keeps {t : State} {u v : MillState} {m w size j : Nat} (hr : millReaches v w size 64) (hle : size ≤ 0x3000000)
    (hj : 64 * j + 64 ≤ size) (hcur : t.cur = .mill m) (d b : BitVec 4) (n : Nat) :
    (storeTriple u d b n w t j).cur = .mill m ∧ MillKeeps t m v.ownedBanks (storeTriple u d b n w t j) := by
  have hc : millCell m w = m * 0x30000000 + w := rfl
  obtain ⟨-, halign, -, -⟩ := id hr
  have hnumber : millNumber t = m := by rw [millNumber, hcur]
  unfold storeTriple
  rw [hnumber]
  refine ⟨?_, storeSector_keeps hr (by omega) hle (by omega) (by omega) (by omega) t _ _⟩
  obtain ⟨_, _, _, _, _, _, h⟩ := storeSector_onlyHbm t (millCell m w + 64 * j) (fun l => some (tripleLane u d b n (16 * j + l)).1)
    fun l => (tripleLane u d b n (16 * j + l)).2
  rw [h]
  exact hcur

theorem tripSlot_keeps {s : State} {v : MillState} {m w size : Nat} (hrun : MillRuns s m v) (hr : millReaches v w size 64)
    (hle : size ≤ 0x3000000) (d b : BitVec 4) (n next : Nat) :
    MillKeeps s m v.ownedBanks (tripSlot s v d b n w next size).state := by
  have hspan : slotSpan v next (size - v.trip) ≤ size - v.trip := Nat.min_le_left _ _
  have hfold := List.foldlRecOn (motive := fun t : State => t.cur = .mill m ∧ MillKeeps s m v.ownedBanks t)
    (List.range (slotSpan v next (size - v.trip) / 64)) (fun s i => storeTriple v d b n w s (v.trip / 64 + i))
    ⟨hrun.1, .refl s m _⟩ fun t ht i hi => by
      have hlt := List.mem_range.1 hi
      obtain ⟨hcur, hkeeps⟩ := storeTriple_keeps (u := v) (j := v.trip / 64 + i) hr hle (by omega) ht.1 d b n
      exact ⟨hcur, ht.2.trans hkeeps⟩
  unfold tripSlot
  dsimp only
  split
  · exact hfold.2
  · exact hfold.2

theorem ntrip_keeping (d a b : BitVec 4) (r : BitVec 3) : KeepingWord (exec (.ntrip d a b r)) :=
  ⟨_, _, exec_ntrip d a b r, fun s m v hrun hm => unlessTagged_keeps (millChecked_keeps (by omega) fun hr => by
    split
    · exact .refl s m _
    · exact tripSlot_keeps hrun hr (by omega) d b _ _)⟩

/-! #### The words that reach no memory -/

theorem keepingLanes {f : State → Out} {bad readsD : Bool} {d a b : BitVec 4} {k : BitVec 2} {c : BitVec 1} {sel : BitVec 5}
    {g : Nat → Nat → Nat → Nat × FlagSet} (hf : ∀ s, f s = laneForm bad d a b k c sel readsD g s) : KeepingWord f :=
  keepingWord_of_self (fun s => (hf s).trans rfl) fun _ _ => rfl

theorem keepingArith {f : State → Out} {bad : Bool} {d a b : BitVec 4} {k t : BitVec 2} {c : BitVec 1} {sel : BitVec 5}
    {int : Int → Int → Int} {flt : Nat → Nat → Nat × FlagSet} (hf : ∀ s, f s = arithForm bad d a b k t c sel int flt s) :
    KeepingWord f := keepingLanes hf

theorem keepingScalar {f : State → Out} {d a b : BitVec 4} {t : BitVec 2} {int : Int → Int → Int}
    (hf : ∀ s, f s = scalarForm d a b t int s) : KeepingWord f :=
  keepingWord_of_self (fun s => (hf s).trans rfl) fun _ _ => rfl

theorem exec_npbWf (a : BitVec 4) (s : State) : exec (.npbWf a) s = millWord false s fun s v =>
    if mxTag v a then .ends s v chanILL else .done s { v with wf := (mxGet v a).truncate 32 } := rfl

theorem exec_npbSet (a b : BitVec 4) (s : State) : exec (.npbSet a b) s = millWord false s fun s v =>
    if mxTag v a || mxTag v b || decide (64 < bits (mxGet v b) 6 0) then .ends s v chanILL
    else .done s { v with pb := (mxGet v a).truncate 32, vc := (mxGet v b).truncate 7 } := rfl

theorem ite_state {c : Prop} [Decidable c] {s : State} {x y : MillEnd} (hx : x.state = s) (hy : y.state = s) :
    (if c then x else y).state = s := by
  split
  · exact hx
  · exact hy

theorem millBranch_state (s : State) (v : MillState) (o : BitVec 12) : (millBranch s v o).state = s := ite_state rfl rfl

theorem nloopGoes_state (a : BitVec 4) (f : BitVec 12) (s : State) (v : MillState) : (nloopGoes a f s v).state = s := by
  unfold nloopGoes
  refine ite_state ?_ rfl
  split
  · exact ite_state rfl rfl
  · rfl

theorem nloop_keeping (a : BitVec 4) (f : BitVec 12) : KeepingWord (exec (.nloop a f)) :=
  keepingWord_of_self (exec_nloop a f) fun s v => by
    split
    · rfl
    · exact ite_state rfl (nloopGoes_state a f s v)

/-- Every word of a Mill keeps to its banks. -/
theorem millWord_keeping (i : Instr) (henc : (encodeMill i).isSome = true) : KeepingWord (exec i) := by
  obtain ⟨w, hw⟩ := Option.isSome_iff_exists.1 henc
  cases i
  all_goals injection hw
  case nadd => exact keepingArith fun s => exec_nadd (s := s) ..
  case nsub => exact keepingArith fun s => exec_nsub (s := s) ..
  case nmul => exact keepingArith fun s => exec_nmul (s := s) ..
  case nmax => exact keepingArith fun s => exec_nmax (s := s) ..
  case nmin => exact keepingArith fun s => exec_nmin (s := s) ..
  case nand => exact keepingLanes fun s => exec_nand (s := s) ..
  case nor => exact keepingLanes fun s => exec_nor (s := s) ..
  case nxor => exact keepingLanes fun s => exec_nxor (s := s) ..
  case nshl => exact keepingArith fun s => exec_nshl (s := s) ..
  case nshr => exact keepingArith fun s => exec_nshr (s := s) ..
  case naddScalar => exact keepingScalar fun s => exec_naddScalar (s := s) ..
  case nsubScalar => exact keepingScalar fun s => exec_nsubScalar (s := s) ..
  case nmulScalar => exact keepingScalar fun s => exec_nmulScalar (s := s) ..
  case nmaxScalar => exact keepingScalar fun s => exec_nmaxScalar (s := s) ..
  case nminScalar => exact keepingScalar fun s => exec_nminScalar (s := s) ..
  case nandScalar => exact keepingScalar fun s => exec_nandScalar (s := s) ..
  case norScalar => exact keepingScalar fun s => exec_norScalar (s := s) ..
  case nxorScalar => exact keepingScalar fun s => exec_nxorScalar (s := s) ..
  case nshlScalar => exact keepingScalar fun s => exec_nshlScalar (s := s) ..
  case nshrScalar => exact keepingScalar fun s => exec_nshrScalar (s := s) ..
  case nfma => exact keepingLanes fun s => exec_nfma (s := s) ..
  case nliScalar => exact keepingWord_of_self (fun s => exec_nliScalar (s := s) ..) fun _ _ => rfl
  case nliShift => exact keepingWord_of_self (fun s => exec_nliShift (s := s) ..) fun _ _ => rfl
  case nliVector => exact keepingWord_of_self (fun s => exec_nliVector (s := s) ..) fun _ _ => rfl
  case nliFromMx => exact keepingWord_of_self (fun s => exec_nliFromMx (s := s) ..) fun _ _ => rfl
  case naddi => exact keepingWord_of_self (fun s => exec_naddi (s := s) ..) fun _ _ => rfl
  case nskip => exact keepingWord_of_self (fun s => exec_nskip (s := s) ..) fun _ _ => rfl
  case nflag => exact keepingWord_of_self (fun s => exec_nflag (s := s) ..) fun _ _ => rfl
  case ncmp => exact keepingWord_of_self (fun s => exec_ncmp (s := s) ..) fun _ _ => rfl
  case nsel => exact keepingWord_of_self (fun s => exec_nsel (s := s) ..) fun _ _ => rfl
  case nperm => exact keepingWord_of_self (fun s => exec_nperm (s := s) ..) fun _ _ => rfl
  case ncvt => exact keepingWord_of_self (fun s => exec_ncvt (s := s) ..) fun _ _ => rfl
  case nidx => exact keepingWord_of_self (fun s => exec_nidx (s := s) ..) fun _ _ => rfl
  case nidxW => exact keepingWord_of_self (fun s => exec_nidxW (s := s) ..) fun _ _ => rfl
  case nred => exact keepingWord_of_self (fun s => exec_nred (s := s) ..) fun _ _ => rfl
  case nredScalar => exact keepingWord_of_self (fun s => exec_nredScalar (s := s) ..) fun _ _ => rfl
  case nexp2 => exact keepingWord_of_self (fun s => exec_nexp2 (s := s) ..) fun _ _ => rfl
  case ndot => exact keepingWord_of_self (fun s => exec_ndot (s := s) ..) fun _ _ => rfl
  case ndotBf16 => exact keepingWord_of_self (fun s => exec_ndotBf16 (s := s) ..) fun _ _ => rfl
  case nsmx => exact keepingWord_of_self (fun s => exec_nsmx (s := s) ..) fun _ _ => rfl
  case npbWf => exact keepingWord_of_self (fun s => exec_npbWf (s := s) ..) fun _ _ => ite_state rfl rfl
  case npbSet => exact keepingWord_of_self (fun s => exec_npbSet (s := s) ..) fun _ _ => ite_state rfl rfl
  case nbr => exact keepingWord_of_self (fun s => exec_nbr (s := s) ..) fun _ _ => millBranch_state ..
  case nbrc => exact keepingWord_of_self (fun s => exec_nbrc (s := s) ..) fun _ _ => ite_state rfl (ite_state (millBranch_state ..) rfl)
  case nbrcMask => exact keepingWord_of_self (fun s => exec_nbrcMask (s := s) ..) fun _ _ => ite_state (millBranch_state ..) rfl
  case nend => exact keepingWord_of_self exec_nend fun _ _ => rfl
  case nloop => exact nloop_keeping ..
  case nldVector => exact nldVector_keeping ..
  case nldScalar => exact nldScalar_keeping ..
  case nldk => exact nldk_keeping ..
  case nstVector => exact nstVector_keeping ..
  case nstScalar => exact nstScalar_keeping ..
  case npb => exact npb_keeping ..
  case nsems => exact nsems_keeping ..
  case nsemw => exact nsemw_keeping ..
  case ntrip => exact ntrip_keeping ..

/-- Settles O58: each word's body changes no byte outside the banks that its access passed the checks for. -/
theorem millsKeepToTheirBanks : Obligations.MillsKeepToTheirBanks :=
  fun _ _ _ _ i hrun hm henc ht => (millWord_keeping i henc).next hrun hm ht

end Sys2Proof.Machine
end

/-! ### What a store leaves in the sectors that it writes (R282-R284) -/

section
namespace Sys2Proof.Machine
open Sys2Proof.Claims Sys2Proof.Config

/-! #### The marks of an ECC sector -/

/-- The two states agree on what marks an ECC sector as poisoned or in error. -/
def SameMarks (s t : State) (k : Nat) : Prop :=
  t.eccPoison.contains k = s.eccPoison.contains k ∧ mapGet t.eccErr k = mapGet s.eccErr k ∧ t.eccStuck = s.eccStuck

theorem SameMarks.refl (s : State) (k : Nat) : SameMarks s s k := ⟨rfl, rfl, rfl⟩

theorem SameMarks.trans {s t u : State} {k : Nat} (h : SameMarks s t k) (h' : SameMarks t u k) : SameMarks s u k :=
  ⟨h'.1.trans h.1, h'.2.1.trans h.2.1, h'.2.2.trans h.2.2⟩

theorem SameMarks.sectorPoisoned {s t : State} {k : Nat} (h : SameMarks s t k) : sectorPoisoned t k = sectorPoisoned s k :=
  sectorPoisoned_congr h.1 h.2.1 h.2.2

theorem SameMarks.miscorrected {s t : State} {k : Nat} (h : SameMarks s t k) : miscorrected t k = miscorrected s k := by
  obtain ⟨hpoison, herr, hstuck⟩ := h
  have herror : sectorError t k = sectorError s k := by simp only [sectorError, mapGetD, herr, hstuck]
  rw [Machine.miscorrected, Machine.miscorrected, hpoison, herror]

/-- A sector without poison and without error. -/
theorem sectorPoisoned_of_none {s : State} {k : Nat} (hpoison : s.eccPoison.contains k = false) (herr : mapGet s.eccErr k = none)
    (hstuck : s.eccStuck = []) : sectorPoisoned s k = false := by
  have herror : sectorError s k = 0 := by simp [sectorError, mapGetD, herr, hstuck, mapGet]
  rw [sectorPoisoned, hpoison, herror]
  decide

theorem delivered_eq {s : State} {b : Nat} {bs : List Byte} (h : ∀ i < bs.length, miscorrected s ((b + i) / 32) = 0) :
    delivered s b bs = bs := by
  unfold delivered
  split
  · rfl
  · refine List.ext_getElem (by simp) fun i hi hi' => ?_
    rw [List.getElem_map, List.getElem_range, h i hi', List.getD_eq_getElem?_getD, List.getElem?_eq_getElem hi', Option.getD_some]
    simp

/-! #### What a write reads and merges -/

theorem mergeSector_hbm_same {s : State} {k : Nat} (h : miscorrected s k = 0) (x : Nat) :
    memGet (mergeSector s k).hbm x = memGet s.hbm x := by
  cases hp : sectorPoisoned s k with
  | true => rw [mergeSector_poisoned hp]
  | false =>
    rw [mergeSector_sound hp, delivered_eq fun i hi => ?_]
    · exact memGet_memWrite_memRead s.hbm (32 * k) 32 x
    · rw [length_memRead] at hi
      rwa [show (32 * k + i) / 32 = k by omega]

theorem mergeSector_wf {s : State} (k : Nat) (h : s.hbm.wf = true) : (mergeSector s k).hbm.wf = true := by
  unfold mergeSector
  split
  · exact h
  · exact memWrite_wf _ _ h

theorem mergeSector_crossings (s : State) (k : Nat) : (mergeSector s k).crossings = s.crossings := by
  unfold mergeSector
  split <;> rfl

theorem eccWrite_wf {s : State} (b n : Nat) (h : s.hbm.wf = true) : (eccWrite s b n).hbm.wf = true := by
  unfold eccWrite
  split
  · exact h
  · exact List.foldlRecOn (motive := fun t : State => t.hbm.wf = true) _ mergeSector h fun t ht k _ => mergeSector_wf k ht

theorem eccWrite_crossings (s : State) (b n : Nat) : (eccWrite s b n).crossings = s.crossings := by
  unfold eccWrite
  split
  · rfl
  · exact List.foldlRecOn (motive := fun t : State => t.crossings = s.crossings) _ mergeSector rfl fun t ht k _ =>
      (mergeSector_crossings t k).trans ht

/-- The sectors that a write rewrites whole, and those that it merges. -/
def wholeSectors (b n : Nat) : List Nat := (eccSectors b n).filter fun k => decide (b ≤ 32 * k) && decide (32 * k + 32 ≤ b + n)
def partSectors (b n : Nat) : List Nat := (eccSectors b n).filter fun k => !(wholeSectors b n).contains k

/-- What a write leaves where some sector of HBM is in error. -/
theorem eccWrite_marks {s : State} {b n : Nat} (hs : eccClean s = false) (k : Nat) :
    (eccWrite s b n).hbm = ((partSectors b n).foldl mergeSector s).hbm ∧ (eccWrite s b n).eccStuck = s.eccStuck ∧
      (eccWrite s b n).eccPoison.contains k =
        (!(wholeSectors b n).contains k && ((partSectors b n).foldl mergeSector s).eccPoison.contains k) ∧
      mapGet (eccWrite s b n).eccErr k =
        if (wholeSectors b n).contains k then none else mapGet ((partSectors b n).foldl mergeSector s).eccErr k := by
  have hstuck := (foldl_mergeSector (partSectors b n) s k).1.1
  unfold eccWrite
  rw [if_neg (by rw [hs]; decide)]
  refine ⟨rfl, hstuck, ?_, ?_⟩
  · show (List.filter (fun k => !(wholeSectors b n).contains k) ((partSectors b n).foldl mergeSector s).eccPoison).contains k = _
    rw [Bool.eq_iff_iff, List.contains_iff_mem, List.mem_filter, Bool.and_eq_true, List.contains_iff_mem]
    exact and_comm
  · refine (mapGet_filter_keys (fun k => !(wholeSectors b n).contains k) _ k).trans ?_
    cases (wholeSectors b n).contains k <;> rfl

theorem eccWrite_of_clean {s : State} {b n : Nat} (hs : eccClean s = true) : eccWrite s b n = s := if_pos hs

/-- A write leaves the marks of every sector that it does not touch. -/
theorem eccWrite_sameMarks {s : State} {b n k : Nat} (hn : 0 < n) (h : k < b / 32 ∨ (b + n - 1) / 32 < k) :
    SameMarks s (eccWrite s b n) k := by
  cases hs : eccClean s with
  | true => rw [eccWrite_of_clean hs]; exact .refl s k
  | false =>
    have hk : k ∉ eccSectors b n := fun hk => by
      have := (mem_eccSectors hn).1 hk
      omega
    have hwhole : (wholeSectors b n).contains k = false :=
      Bool.eq_false_iff.2 fun hc => hk (List.mem_filter.1 (List.contains_iff_mem.1 hc)).1
    have hpart : k ∉ partSectors b n := fun hc => hk (List.mem_filter.1 hc).1
    obtain ⟨herr, hpoison⟩ := (foldl_mergeSector (partSectors b n) s k).2.1 hpart
    obtain ⟨-, hstuck, hpoison', herr'⟩ := eccWrite_marks (b := b) (n := n) hs k
    rw [hwhole] at hpoison' herr'
    exact ⟨hpoison'.trans (by rw [hpoison]; rfl), herr'.trans herr, hstuck⟩

theorem eccSectors_one {b n : Nat} (hn : 0 < n) (h : b % 32 + n ≤ 32) : eccSectors b n = [b / 32] := by
  rw [eccSectors, if_neg (by omega), show (b + n - 1) / 32 - b / 32 + 1 = 1 by omega]
  rfl

theorem wholeSectors_part {b n : Nat} (hn : 0 < n) (h : b % 32 + n ≤ 32) (hlt : n < 32) : wholeSectors b n = [] := by
  have hno : (decide (b ≤ 32 * (b / 32)) && decide (32 * (b / 32) + 32 ≤ b + n)) = false := by
    rw [Bool.and_eq_false_iff, decide_eq_false_iff_not, decide_eq_false_iff_not]
    omega
  rw [wholeSectors, eccSectors_one hn h]
  exact List.filter_cons_of_neg (Bool.eq_false_iff.1 hno)

theorem partSectors_part {b n : Nat} (hn : 0 < n) (h : b % 32 + n ≤ 32) (hlt : n < 32) : partSectors b n = [b / 32] := by
  rw [partSectors, wholeSectors_part hn h hlt, eccSectors_one hn h]
  rfl

theorem wholeSectors_whole {b : Nat} (h : b % 32 = 0) (n : Nat) : wholeSectors b (32 * n) = eccSectors b (32 * n) := by
  refine List.filter_eq_self.2 fun k hk => ?_
  have hn : 0 < 32 * n := by
    refine Nat.pos_of_ne_zero fun h0 => ?_
    rw [show 32 * n = 0 by omega] at hk
    cases hk
  obtain ⟨hlo, hhi⟩ := (mem_eccSectors hn).1 hk
  rw [Bool.and_eq_true, decide_eq_true_eq, decide_eq_true_eq]
  omega

theorem partSectors_whole {b : Nat} (h : b % 32 = 0) (n : Nat) : partSectors b (32 * n) = [] := by
  rw [partSectors, wholeSectors_whole h]
  exact List.filter_eq_nil_iff.2 fun k hk => by simp [hk]

/-- Whole sectors are not merged. -/
theorem eccWrite_whole_hbm (s : State) {b : Nat} (h : b % 32 = 0) (n : Nat) : (eccWrite s b (32 * n)).hbm = s.hbm := by
  cases hs : eccClean s with
  | true => rw [eccWrite_of_clean hs]
  | false =>
    rw [(eccWrite_marks (b := b) (n := 32 * n) hs 0).1, partSectors_whole h]
    rfl

/-- A write within one sector, none that a read delivers wrongly, changes no byte before its own are laid. -/
theorem eccWrite_hbm_same {s : State} {b n : Nat} (hn : 0 < n) (h : b % 32 + n ≤ 32) (hmis : miscorrected s (b / 32) = 0) (x : Nat) :
    memGet (eccWrite s b n).hbm x = memGet s.hbm x := by
  cases hs : eccClean s with
  | true => rw [eccWrite_of_clean hs]
  | false =>
    rw [(eccWrite_marks (b := b) (n := n) hs 0).1]
    by_cases hlt : n < 32
    · rw [partSectors_part hn h hlt]
      exact mergeSector_hbm_same hmis x
    · obtain rfl : n = 32 * 1 := by omega
      rw [partSectors_whole (by omega)]
      rfl

/-- A sector that is written whole loses its poison, where it has no persistent defect (R283). -/
theorem eccWrite_rewritten {s : State} {b : Nat} (hstuck : s.eccStuck = []) (h : b % 32 = 0) :
    sectorPoisoned (eccWrite s b 32) (b / 32) = false := by
  cases hs : eccClean s with
  | true =>
    rw [eccWrite_of_clean hs]
    simp only [eccClean, Bool.and_eq_true, List.isEmpty_iff] at hs
    obtain ⟨⟨hpoison, herr⟩, -⟩ := hs
    exact sectorPoisoned_of_none (by rw [hpoison]; rfl) (by rw [herr]; rfl) hstuck
  | false =>
    have hwhole : (wholeSectors b 32).contains (b / 32) = true := by
      rw [show (32 : Nat) = 32 * 1 from rfl, wholeSectors_whole h, eccSectors_one (by decide) (by omega)]
      exact List.contains_iff_mem.2 (List.mem_singleton.2 rfl)
    obtain ⟨-, hstuck', hpoison, herr⟩ := eccWrite_marks (b := b) (n := 32) hs (b / 32)
    rw [hwhole] at hpoison herr
    exact sectorPoisoned_of_none hpoison herr (hstuck'.trans hstuck)

/-- A sector that is merged keeps its poison, and gets none, where it has no persistent defect (R283). -/
theorem mergeSector_samePoison {s : State} {k : Nat} (hstuck : s.eccStuck = []) :
    sectorPoisoned (mergeSector s k) k = sectorPoisoned s k := by
  cases hp : sectorPoisoned s k with
  | true =>
    rw [mergeSector_poisoned hp, sectorPoisoned]
    have hk : (setInsert s.eccPoison k).contains k = true := List.contains_iff_mem.2 ((mem_setInsert _ _ _).2 (.inl rfl))
    rw [hk]
    rfl
  | false =>
    have hpoison : s.eccPoison.contains k = false := (Bool.or_eq_false_iff.1 hp).1
    rw [mergeSector_sound hp]
    exact sectorPoisoned_of_none hpoison (mapGet_mapErase_same _ _) hstuck

theorem eccWrite_merged {s : State} {b n : Nat} (hstuck : s.eccStuck = []) (hn : 0 < n) (h : b % 32 + n ≤ 32) (hlt : n < 32) :
    sectorPoisoned (eccWrite s b n) (b / 32) = sectorPoisoned s (b / 32) := by
  cases hs : eccClean s with
  | true => rw [eccWrite_of_clean hs]
  | false =>
    obtain ⟨-, hstuck', hpoison, herr⟩ := eccWrite_marks (b := b) (n := n) hs (b / 32)
    rw [wholeSectors_part hn h hlt, partSectors_part hn h hlt] at hpoison herr
    have hmarks : SameMarks (mergeSector s (b / 32)) (eccWrite s b n) (b / 32) :=
      ⟨hpoison, herr, hstuck'.trans (mergeSector_frame s _).1.symm⟩
    rw [hmarks.sectorPoisoned, mergeSector_samePoison hstuck]

/-! #### What a write of one sector leaves -/

/-- A write through the window whose writes alone are not ordered yet lays its bytes. -/
theorem writeSector_uncrossed {s : State} {linear : Bool} {b : Nat} {bs : List Byte} (h : crossed s linear (b / 64) = false) :
    ∃ entry : Crossing, entry.linear = linear ∧ writeSector s linear b bs = { eccWrite s b bs.length with
      hbm := memWrite (eccWrite s b bs.length).hbm b bs, crossings := s.crossings ++ [entry] } := by
  have hcross := eccWrite_crossings s b bs.length
  refine ⟨{ sector := b / 64, linear := linear, old := BitVec.ofNat 512 (bytesValue (sectorNow (eccWrite s b bs.length) (b / 64))) },
    rfl, ?_⟩
  have hno : ¬ crossed (eccWrite s b bs.length) linear (b / 64) = true := by
    rw [crossed, hcross]
    exact Bool.eq_false_iff.1 h
  unfold writeSector
  dsimp only
  rw [if_neg hno, hcross]

theorem crossed_linear {s : State} (h : ∀ c ∈ s.crossings, c.linear = true) (sec : Nat) : crossed s true sec = false :=
  Bool.eq_false_iff.2 fun hc => by
    obtain ⟨c, hmem, hc⟩ := List.any_eq_true.1 hc
    rw [h c hmem] at hc
    simp at hc

/-! #### The halves of a stored sector -/

/-- Whether a store gives every lane of half h of a sector. -/
def wholeHalf (new : Nat → Option Nat) (h : Nat) : Bool := (List.range 8).all fun j => (new (8 * h + j)).isSome

theorem length_givenLanes_eq (new : Nat → Option Nat) (h : Nat) : (givenLanes new h).length = 8 ↔ wholeHalf new h = true := by
  have hlen : (((List.range 8).map (8 * h + ·))).length = 8 := by rw [List.length_map, List.length_range]
  have hiff := List.length_filter_eq_length_iff (p := fun l => (new l).isSome) (l := (List.range 8).map (8 * h + ·))
  rw [hlen] at hiff
  rw [givenLanes, hiff, wholeHalf, List.forall_mem_map, List.all_eq_true]

/-- What a store reads and merges of half h: nothing, a part of its ECC sector, or the whole. -/
theorem mergeHalf_cases {b h : Nat} (new : Nat → Option Nat) (s : State) (hb : b % 64 = 0) :
    (givenLanes new h = [] ∧ mergeHalf b new s h = s) ∨
      ∃ o n, mergeHalf b new s h = eccWrite s o n ∧ 0 < n ∧ o % 32 + n ≤ 32 ∧ o / 32 = b / 32 + h ∧
        ((n < 32 ∧ wholeHalf new h = false) ∨ (n = 32 ∧ wholeHalf new h = true)) := by
  have hwhole := length_givenLanes_eq new h
  unfold mergeHalf
  split
  · next hnil => exact .inl ⟨hnil, rfl⟩
  · next l rest hl =>
    have hmem : l ∈ givenLanes new h := by rw [hl]; exact List.mem_cons_self
    obtain ⟨j, hj, hjl⟩ := List.mem_map.1 (List.mem_filter.1 hmem).1
    have hlt := List.mem_range.1 hj
    rw [hl, List.length_cons] at hwhole
    split
    · next hlen => exact .inr ⟨_, 32, rfl, by decide, by omega, by omega, .inr ⟨rfl, hwhole.1 (by omega)⟩⟩
    · next hlen =>
      exact .inr ⟨_, 4, rfl, by decide, by omega, by omega, .inl ⟨by decide, Bool.eq_false_iff.2 (mt hwhole.2 (by omega))⟩⟩

theorem wholeHalf_of_nil {new : Nat → Option Nat} {h : Nat} (hnil : givenLanes new h = []) : wholeHalf new h = false :=
  Bool.eq_false_iff.2 (mt (length_givenLanes_eq new h).2 (by rw [hnil]; decide))

section
variable {b h : Nat} (new : Nat → Option Nat) (s : State)

theorem mergeHalf_crossings : (mergeHalf b new s h).crossings = s.crossings := by
  unfold mergeHalf
  split
  · rfl
  · split <;> exact eccWrite_crossings ..

theorem mergeHalf_stuck : (mergeHalf b new s h).eccStuck = s.eccStuck := by
  obtain ⟨_, _, _, _, _, _, he⟩ := mergeHalf_onlyHbm b new s h
  rw [he]

theorem mergeHalf_wf (hwf : s.hbm.wf = true) : (mergeHalf b new s h).hbm.wf = true := by
  unfold mergeHalf
  split
  · exact hwf
  · split
    · exact eccWrite_wf _ _ hwf
    · exact eccWrite_wf _ _ hwf

theorem mergeHalf_hbm_same (hb : b % 64 = 0) (hmis : miscorrected s (b / 32 + h) = 0) (x : Nat) :
    memGet (mergeHalf b new s h).hbm x = memGet s.hbm x := by
  obtain ⟨-, he⟩ | ⟨o, n, he, hn, hfit, ho, -⟩ := mergeHalf_cases new s hb
  · rw [he]
  · rw [he, eccWrite_hbm_same hn hfit (ho ▸ hmis)]

theorem mergeHalf_sameMarks {k : Nat} (hb : b % 64 = 0) (hk : k ≠ b / 32 + h) :
    SameMarks s (mergeHalf b new s h) k := by
  obtain ⟨-, he⟩ | ⟨o, n, he, hn, hfit, ho, -⟩ := mergeHalf_cases new s hb
  · rw [he]
    exact .refl s k
  · rw [he]
    exact eccWrite_sameMarks hn (by omega)

theorem mergeHalf_poisoned (hb : b % 64 = 0) (hstuck : s.eccStuck = []) :
    sectorPoisoned (mergeHalf b new s h) (b / 32 + h) = (sectorPoisoned s (b / 32 + h) && !wholeHalf new h) := by
  obtain ⟨hnil, he⟩ | ⟨o, n, he, hn, hfit, ho, ⟨hlt, hwhole⟩ | ⟨rfl, hwhole⟩⟩ := mergeHalf_cases new s hb
  · rw [he, wholeHalf_of_nil hnil, Bool.not_false, Bool.and_true]
  · rw [he, ← ho, eccWrite_merged hstuck hn hfit hlt, hwhole, Bool.not_false, Bool.and_true]
  · rw [he, ← ho, eccWrite_rewritten hstuck (by omega), hwhole, Bool.not_true, Bool.and_false]

end

/-- The state in which a store lays the bytes of its sector. -/
def storeMerged (s : State) (b : Nat) (new : Nat → Option Nat) : State := mergeHalf b new (mergeHalf b new s 0) 1

theorem storeSector_given {s : State} {b : Nat} {new : Nat → Option Nat} (tag : Nat → Bool)
    (h : ((List.range 16).all fun l => (new l).isNone) = false) :
    storeSector s b new tag =
      poisonHalf b new tag (poisonHalf b new tag (storeLaid s (storeMerged s b new) b new) 0) 1 := by
  rw [storeSector_eq, h]
  rfl

theorem storeSector_none {s : State} {b : Nat} {new : Nat → Option Nat} (tag : Nat → Bool)
    (h : ((List.range 16).all fun l => (new l).isNone) = true) : storeSector s b new tag = s := by
  rw [storeSector_eq, h]
  rfl

/-! #### The bytes of a stored sector -/

theorem memRead_slice (m : Memory) (a : Nat) {i k n : Nat} (h : i + k ≤ n) :
    memRead m (a + i) k = ((memRead m a n).drop i).take k := by
  refine List.ext_getElem (by simp [length_memRead]; omega) fun j hj hj' => ?_
  rw [List.getElem_take, List.getElem_drop, getElem_memRead, getElem_memRead, Nat.add_assoc]

theorem drop_flatMap_of_length {α β : Type} {f : α → List β} {n : Nat} {l : List α} (hf : ∀ a ∈ l, (f a).length = n) (i : Nat)
    (hi : i < l.length) : ((l.flatMap f).drop (n * i)).take n = f l[i] := by
  induction l generalizing i with
  | nil => simp at hi
  | cons a l ih =>
    have ha : (f a).length = n := hf a List.mem_cons_self
    rw [List.flatMap_cons]
    cases i with
    | zero => simp [← ha]
    | succ i =>
      rw [List.drop_append, ha, List.drop_eq_nil_of_le (by rw [ha, Nat.mul_succ]; omega), Nat.mul_succ, Nat.add_sub_cancel]
      exact ih (fun a' h' => hf a' (List.mem_cons_of_mem a h')) i (by simpa using hi)

/-- What stands in a lane that replaced lanes are written to. -/
theorem memRead_replaceLanes {m : Memory} {b l : Nat} {old : List Byte} (new : Nat → Option Nat) (hold : old.length = 64) (hl : l < 16) :
    memRead (memWrite m b (replaceLanes old 16 new)) (b + 4 * l) 4 = laneBytes old new l := by
  have hlen : (replaceLanes old 16 new).length = 64 := length_replaceLanes new (by omega)
  have hread := memRead_memWrite_same m b (replaceLanes old 16 new)
  rw [hlen] at hread
  rw [memRead_slice _ b (show 4 * l + 4 ≤ 64 by omega), hread, replaceLanes_eq]
  refine (drop_flatMap_of_length (fun k hk => length_laneBytes ?_) l (by rw [List.length_range]; exact hl)).trans ?_
  · have := List.mem_range.1 hk
    omega
  · rw [List.getElem_range]

/-- The state before a store lays its bytes holds the bytes of the state before the store. -/
theorem storeMerged_hbm_same {s : State} {b : Nat} {new : Nat → Option Nat} (hb : b % 64 = 0)
    (hmis : ∀ h < 2, miscorrected s (b / 32 + h) = 0) (x : Nat) : memGet (storeMerged s b new).hbm x = memGet s.hbm x := by
  have hmarks : SameMarks s (mergeHalf b new s 0) (b / 32 + 1) := mergeHalf_sameMarks new s hb (by omega)
  rw [storeMerged, mergeHalf_hbm_same new _ hb (hmarks.miscorrected.trans (hmis 1 (by decide))),
    mergeHalf_hbm_same new s hb (hmis 0 (by decide))]

/-- Writes through the bank-linear window alone are not ordered yet. -/
def LinearCrossings (s : State) : Prop := ∀ c ∈ s.crossings, c.linear = true

/-- What a store leaves before it poisons. -/
theorem storeLaid_eq {s : State} {b : Nat} (new : Nat → Option Nat) (hb : b % 64 = 0) (hlin : LinearCrossings s) :
    ∃ entry : Crossing, entry.linear = true ∧
      (storeLaid s (storeMerged s b new) b new).crossings = s.crossings ++ [entry] ∧
      (storeLaid s (storeMerged s b new) b new).hbm = memWrite (storeMerged s b new).hbm b
        (replaceLanes (memRead (storeMerged s b new).hbm b 64) 16 new) := by
  have hold : storeOld s (storeMerged s b new) b = memRead (storeMerged s b new).hbm b 64 := by
    rw [storeOld, crossed_linear hlin, sectorNow, show 64 * (b / 64) = b by omega]
    rfl
  have hlen : (replaceLanes (memRead (storeMerged s b new).hbm b 64) 16 new).length = 64 :=
    length_replaceLanes new (Nat.le_of_eq (length_memRead ..).symm)
  obtain ⟨entry, hentry, hwrite⟩ := writeSector_uncrossed (s := { s with hbm := (storeMerged s b new).hbm }) (b := b)
    (bs := replaceLanes (memRead (storeMerged s b new).hbm b 64) 16 new) (crossed_linear hlin (b / 64))
  refine ⟨entry, hentry, ?_, ?_⟩
  · rw [storeLaid, hold, hwrite]
  · rw [storeLaid, hold, hwrite, hlen]
    dsimp only
    rw [show (64 : Nat) = 32 * 2 from rfl, eccWrite_whole_hbm _ (by omega)]

theorem poisonHalf_hbm (b : Nat) (new : Nat → Option Nat) (tag : Nat → Bool) (s : State) (h : Nat) :
    (poisonHalf b new tag s h).hbm = s.hbm := storePoisoned_hbm b new tag [h] s

theorem poisonHalf_crossings (b : Nat) (new : Nat → Option Nat) (tag : Nat → Bool) (s : State) (h : Nat) :
    (poisonHalf b new tag s h).crossings = s.crossings := by
  unfold poisonHalf
  split <;> rfl

/-- Poisoning a half poisons its sector where a lane that is stored in it is poisoned, and no other. -/
theorem poisonHalf_marks {b h : Nat} (new : Nat → Option Nat) (tag : Nat → Bool) (s : State) (hb : b % 64 = 0) :
    (∀ k, k ≠ b / 32 + h → SameMarks s (poisonHalf b new tag s h) k) ∧
      sectorPoisoned (poisonHalf b new tag s h) (b / 32 + h) = ((givenLanes new h).any tag || sectorPoisoned s (b / 32 + h)) := by
  unfold poisonHalf
  cases hany : (givenLanes new h).any tag with
  | false => exact ⟨fun k _ => .refl s k, rfl⟩
  | true =>
    have hsec : eccSectors (b + 32 * h) 32 = [b / 32 + h] := by
      rw [eccSectors_one (by decide) (by omega), show (b + 32 * h) / 32 = b / 32 + h by omega]
    have hmem : ∀ k, (poisonSectors s (b + 32 * h) 32).eccPoison.contains k = (decide (k = b / 32 + h) || s.eccPoison.contains k) := by
      intro k
      show ((eccSectors (b + 32 * h) 32).foldl setInsert s.eccPoison).contains k = _
      rw [hsec, Bool.eq_iff_iff, Bool.or_eq_true, decide_eq_true_eq, List.contains_iff_mem, List.contains_iff_mem]
      exact mem_setInsert _ _ _
    rw [if_pos rfl, Bool.true_or]
    refine ⟨fun k hk => ⟨?_, rfl, rfl⟩, ?_⟩
    · rw [hmem, decide_eq_false hk, Bool.false_or]
    · rw [sectorPoisoned, hmem, decide_eq_true rfl]
      rfl

/-- The marks of a sector that is laid are those of the state before it is. -/
theorem storeLaid_marks {s ecc : State} (b k : Nat) (new : Nat → Option Nat) (h : ecc.eccStuck = s.eccStuck) :
    SameMarks ecc (storeLaid s ecc b new) k := by
  refine ⟨rfl, rfl, ?_⟩
  obtain ⟨_, _, _, _, _, _, he⟩ := writeSector_onlyHbm { s with hbm := ecc.hbm } true b (replaceLanes (storeOld s ecc b) 16 new)
  rw [Machine.storeLaid, he]
  exact h.symm

theorem storeMerged_stuck (s : State) (b : Nat) (new : Nat → Option Nat) : (storeMerged s b new).eccStuck = s.eccStuck := by
  rw [storeMerged, mergeHalf_stuck, mergeHalf_stuck]

theorem givenLanes_nil_of_none {new : Nat → Option Nat} (h : ((List.range 16).all fun l => (new l).isNone) = true) {i : Nat}
    (hi : i < 2) : givenLanes new i = [] := by
  refine List.filter_eq_nil_iff.2 fun l hl => ?_
  obtain ⟨j, hj, rfl⟩ := List.mem_map.1 hl
  have hlt := List.mem_range.1 hj
  have hnone := List.all_eq_true.1 h (8 * i + j) (List.mem_range.2 (by omega))
  rw [Option.isNone_iff_eq_none] at hnone
  rw [hnone]
  decide

section
variable {s : State} {b : Nat} (new : Nat → Option Nat) (tag : Nat → Bool)

/-- A store leaves the marks of every other ECC sector. -/
theorem storeSector_sameMarks (s : State) {k : Nat} (hb : b % 64 = 0) (hk : k ≠ b / 32 ∧ k ≠ b / 32 + 1) :
    SameMarks s (storeSector s b new tag) k := by
  cases hnone : (List.range 16).all fun l => (new l).isNone with
  | true =>
    rw [storeSector_none tag hnone]
    exact .refl s k
  | false =>
    rw [storeSector_given tag hnone]
    have hmerged : SameMarks s (storeMerged s b new) k :=
      (mergeHalf_sameMarks new s hb hk.1).trans (mergeHalf_sameMarks new _ hb hk.2)
    exact ((hmerged.trans (storeLaid_marks b k new (storeMerged_stuck s b new))).trans ((poisonHalf_marks new tag _ hb).1 k hk.1)).trans
      ((poisonHalf_marks new tag _ hb).1 k hk.2)

/-- After a store an ECC sector is poisoned by a poisoned lane that it takes, or stays so unless it is written whole (R283, R284). -/
theorem storeSector_poisoned {h : Nat} (hb : b % 64 = 0) (hh : h < 2) (hstuck : s.eccStuck = []) :
    sectorPoisoned (storeSector s b new tag) (b / 32 + h) =
      ((givenLanes new h).any tag || (sectorPoisoned s (b / 32 + h) && !wholeHalf new h)) := by
  cases hnone : (List.range 16).all fun l => (new l).isNone with
  | true =>
    rw [storeSector_none tag hnone, wholeHalf_of_nil (givenLanes_nil_of_none hnone hh), givenLanes_nil_of_none hnone hh]
    simp
  | false =>
    rw [storeSector_given tag hnone]
    have hstuck0 : (mergeHalf b new s 0).eccStuck = [] := by rw [mergeHalf_stuck, hstuck]
    have hlaid := fun k => (storeLaid_marks b k new (storeMerged_stuck s b new)).sectorPoisoned
    obtain rfl | rfl : h = 0 ∨ h = 1 := by omega
    · have hmerged : sectorPoisoned (storeMerged s b new) (b / 32 + 0) = (sectorPoisoned s (b / 32 + 0) && !wholeHalf new 0) := by
        rw [storeMerged, (mergeHalf_sameMarks new _ hb (by omega)).sectorPoisoned, mergeHalf_poisoned new s hb hstuck]
      rw [((poisonHalf_marks new tag _ hb).1 _ (by omega)).sectorPoisoned, (poisonHalf_marks new tag _ hb).2, hlaid, hmerged]
    · have hmerged : sectorPoisoned (storeMerged s b new) (b / 32 + 1) = (sectorPoisoned s (b / 32 + 1) && !wholeHalf new 1) := by
        rw [storeMerged, mergeHalf_poisoned new _ hb hstuck0, (mergeHalf_sameMarks new s hb (by omega)).sectorPoisoned]
      rw [(poisonHalf_marks new tag _ hb).2, ((poisonHalf_marks new tag _ hb).1 _ (by omega)).sectorPoisoned, hlaid, hmerged]

theorem storeSector_linear (hb : b % 64 = 0) (hlin : LinearCrossings s) : LinearCrossings (storeSector s b new tag) := by
  cases hnone : (List.range 16).all fun l => (new l).isNone with
  | true => rwa [storeSector_none tag hnone]
  | false =>
    obtain ⟨entry, hentry, hcross, -⟩ := storeLaid_eq new hb hlin
    rw [storeSector_given tag hnone]
    intro c hc
    rw [poisonHalf_crossings, poisonHalf_crossings, hcross, List.mem_append, List.mem_singleton] at hc
    obtain hc | rfl := hc
    · exact hlin c hc
    · exact hentry

theorem storeSector_wf (hb : b % 64 = 0) (hlin : LinearCrossings s) (hwf : s.hbm.wf = true) :
    (storeSector s b new tag).hbm.wf = true := by
  cases hnone : (List.range 16).all fun l => (new l).isNone with
  | true => rwa [storeSector_none tag hnone]
  | false =>
    obtain ⟨_, -, -, hhbm⟩ := storeLaid_eq new hb hlin
    rw [storeSector_given tag hnone, poisonHalf_hbm, poisonHalf_hbm, hhbm]
    exact memWrite_wf _ _ (mergeHalf_wf new _ (mergeHalf_wf new s hwf))

/-- Each lane of a stored sector holds what the store gives it, or what it held. -/
theorem storeSector_lane {l : Nat} (hb : b % 64 = 0) (hlin : LinearCrossings s) (hmis : ∀ h < 2, miscorrected s (b / 32 + h) = 0)
    (hl : l < 16) : memRead (storeSector s b new tag).hbm (b + 4 * l) 4 = laneBytes (memRead s.hbm b 64) new l := by
  cases hnone : (List.range 16).all fun l => (new l).isNone with
  | true =>
    have hl' := Option.isNone_iff_eq_none.1 (List.all_eq_true.1 hnone l (List.mem_range.2 hl))
    rw [storeSector_none tag hnone, memRead_slice _ b (show 4 * l + 4 ≤ 64 by omega), laneBytes, hl']
  | false =>
    obtain ⟨_, -, -, hhbm⟩ := storeLaid_eq new hb hlin
    rw [storeSector_given tag hnone, poisonHalf_hbm, poisonHalf_hbm, hhbm, memRead_replaceLanes new (length_memRead _ _ _) hl,
      memRead_congr fun x _ _ => storeMerged_hbm_same hb hmis x]

theorem storeSector_lane_given {l x : Nat} (hb : b % 64 = 0) (hlin : LinearCrossings s)
    (hmis : ∀ h < 2, miscorrected s (b / 32 + h) = 0) (hl : l < 16) (hx : new l = some x) :
    memRead (storeSector s b new tag).hbm (b + 4 * l) 4 = valueBytes 4 x := by
  rw [storeSector_lane new tag hb hlin hmis hl, laneBytes, hx]

/-- A byte of no lane that is stored keeps its value. -/
theorem storeSector_hbm_same {x : Nat} (hb : b % 64 = 0) (hlin : LinearCrossings s) (hmis : ∀ h < 2, miscorrected s (b / 32 + h) = 0)
    (hx : ∀ l < 16, (new l).isSome = true → x < b + 4 * l ∨ b + 4 * l + 4 ≤ x) :
    memGet (storeSector s b new tag).hbm x = memGet s.hbm x := by
  by_cases hsec : x / 64 = b / 64
  · obtain ⟨l, j, hl, hj, rfl⟩ : ∃ l j, l < 16 ∧ j < 4 ∧ x = b + 4 * l + j := ⟨(x - b) / 4, (x - b) % 4, by omega, by omega, by omega⟩
    have hnone : new l = none := Option.not_isSome_iff_eq_none.1 fun h => by
      have := hx l hl h
      omega
    have hlane := storeSector_lane new tag hb hlin hmis hl
    rw [laneBytes, hnone, ← memRead_slice _ b (show 4 * l + 4 ≤ 64 by omega)] at hlane
    have hbyte := fun m : Memory => getElem_memRead m (b + 4 * l) 4 j (by rw [length_memRead]; exact hj)
    rw [← hbyte, ← hbyte]
    exact List.getElem_of_eq hlane _
  · exact storeSector_hbm_other s new tag hb hsec

end

end Sys2Proof.Machine
end

/-! ### Loads and stores of the Mill (R302) -/

section
namespace Sys2Proof.Machine
open Sys2Proof.Claims Sys2Proof.Config

/-! #### What a read of a Mill takes -/

theorem readSector_linear {s : State} (hlin : LinearCrossings s) (hmis : ∀ k, miscorrected s k = 0) (b n : Nat) :
    readSector s true b n = memRead s.hbm b n := by
  rw [readSector, crossed_linear hlin, if_neg Bool.false_ne_true, cellBytes, delivered_eq fun i _ => hmis _]

theorem sectorRuns_linear {s : State} (hlin : LinearCrossings s) (hmis : ∀ k, miscorrected s k = 0) (fuel b n : Nat)
    (hb : b + n ≤ hbmBytes) (hfuel : n = 0 ∨ b % 64 + n ≤ 64 * fuel) :
    ((sectorRuns (linearBase + b) fuel n).flatMap fun r => readSector s (inLinear r.1) (cellOf r.1) r.2) = memRead s.hbm b n := by
  induction fuel generalizing b n with
  | zero =>
    obtain rfl : n = 0 := by omega
    rfl
  | succ fuel ih =>
    cases n with
    | zero => rfl
    | succ n =>
      have hmod : (linearBase + b) % 64 = b % 64 := by
        rw [Nat.add_mod, show linearBase % 64 = 0 from rfl, Nat.zero_add, Nat.mod_mod]
      rw [sectorRuns.eq_3 _ _ _ (Nat.succ_ne_zero n), hmod, List.flatMap_cons, inLinear_cell (by omega), cellOf_cell (by omega),
        readSector_linear hlin hmis, Nat.add_assoc]
      generalize hk : min (n + 1) (64 - b % 64) = k
      have hcut : k = n + 1 ∨ (k = 64 - b % 64 ∧ k ≤ n + 1) := by omega
      rw [ih _ _ (by omega) (by omega), ← memRead_add, show k + (n + 1 - k) = n + 1 by omega]

/-- A read of a Mill delivers the bytes of its cells. -/
theorem hbmBytesAt_linear {s : State} (h : millSees s) {b n : Nat} (hb : b + n ≤ hbmBytes) :
    hbmBytesAt s (linearBase + b) n = memRead s.hbm b n := by
  obtain ⟨hlin, hmis, -⟩ := h
  exact sectorRuns_linear hlin hmis _ b n hb (.inr (by omega))

theorem millRead_bytes {s : State} (h : millSees s) {b n : Nat} (hb : b + n ≤ hbmBytes) (want : Nat → Bool) :
    (millRead s b n want).1 = memRead s.hbm b n := hbmBytesAt_linear h hb

theorem OnlyWalks.hbm {s t : State} (h : OnlyWalks s t) : t.hbm = s.hbm := by
  obtain ⟨_, _, _, _, _, _, _, _, _, rfl⟩ := h
  rfl

theorem signKernel_hbm (s t : State) (v : MillState) : (signKernel s t v).hbm = t.hbm := by
  unfold signKernel
  split <;> rfl

theorem signKernel_mills (s t : State) (v : MillState) : (signKernel s t v).mills = t.mills := by
  unfold signKernel
  split <;> rfl

theorem signKernel_crews (s t : State) (v : MillState) : (signKernel s t v).crews = t.crews := by
  unfold signKernel
  split <;> rfl

theorem signKernel_sameMarks (s t : State) (v : MillState) (k : Nat) : SameMarks t (signKernel s t v) k := by
  unfold signKernel
  split
  · exact .refl t k
  · exact .refl t k

/-- What the words of a load leave unchanged. -/
theorem OnlyWalks.signed {s t : State} (h : OnlyWalks s t) (v : MillState) :
    (signKernel s t v).hbm = s.hbm ∧ (signKernel s t v).mills = s.mills ∧ (signKernel s t v).crews = s.crews := by
  rw [signKernel_hbm, signKernel_mills, signKernel_crews]
  obtain ⟨_, _, _, _, _, _, _, _, _, rfl⟩ := h
  exact ⟨rfl, rfl, rfl⟩

theorem millAccess_grants {s : State} {v : MillState} {w n align : Nat} {body : MillState → Nat → MillEnd} (hn : 0 < n)
    (h : millGrants v w n align) : millAccess s v w n align body = body (takeSlot v w) w := by
  rw [millAccess, millChecked_reaches hn h.1, if_pos h.2]

/-- A memory word with clean operands whose access is let through. -/
theorem memoryWord_grants {s : State} {v : MillState} {w n align : Nat} {tag : Bool} {f : BitVec 12}
    {body : MillState → Nat → MillEnd} (ht : tag = false) (hn : 0 < n) (h : millGrants v w n align) :
    (if tag then .ends s v f else millAccess s v w n align body) = body (takeSlot v w) w := by
  rw [ht, if_neg Bool.false_ne_true, millAccess_grants hn h]

/-- A cell that an access of a Mill reaches lies in HBM. -/
theorem millCell_le {v : MillState} {m w n align : Nat} (hm : m < 512) (h : millReaches v w n align) :
    m * 0x30000000 + w + n ≤ hbmBytes := by
  have hend := h.1
  have hsize : hbmBytes = 512 * 0x30000000 := rfl
  omega

/-! #### Lanes loaded -/

theorem noteUE_lanesWritten {v v' : MillState} {d : BitVec 4} {out : Nat → Option LaneResult} (bad : Bool)
    (h : lanesWritten v v' d out) : lanesWritten (noteUE v bad) (noteUE v' bad) d out := by
  cases bad with
  | false => exact h
  | true =>
    obtain ⟨hrest, hregs, hlanes⟩ := h
    refine ⟨?_, hregs, hlanes⟩
    rw [hrest]
    rfl

/-- What a load gives lane l, for the lane of its register as it stands afterwards. -/
def loadedLane (s : State) (v v' : MillState) (b : Nat) (d : BitVec 4) (k : BitVec 2) (f : Nat → Nat → Nat) (l : Nat) :
    Option LaneResult :=
  if (mkGet v k).getLsbD l then some
    { value := if cellPoisoned s (b + 4 * l) then lane v' d l else f l (bytesValue (memRead s.hbm (b + 4 * l) 4))
      tag := cellPoisoned s (b + 4 * l), flags := 0 }
  else none

/-- Whether a load takes a poisoned lane. -/
def loadPoisoned (s : State) (v : MillState) (b : Nat) (k : BitVec 2) : Bool :=
  (List.range 32).any fun l => (mkGet v k).getLsbD l && cellPoisoned s (b + 4 * l)

/-- Lanes that take the values of their sectors, or undefined ones from poisoned sectors, are loaded. -/
theorem loaded_of_lanesWritten {s : State} {u v v' : MillState} {b : Nat} {d : BitVec 4} {k : BitVec 2} {f : Nat → Nat → Nat}
    {g : Nat → LaneResult} (h : lanesWritten v v' d (onLanes u k g)) (hg : ∀ l < 32, ∃ x, g l =
      { value := x, tag := cellPoisoned s (b + 4 * l), flags := 0 } ∧
        (cellPoisoned s (b + 4 * l) = false → x = f l (bytesValue (memRead s.hbm (b + 4 * l) 4)))) :
    lanesWritten v v' d (loadedLane s u v' b d k f) := by
  obtain ⟨hrest, hregs, hlanes⟩ := h
  refine ⟨hrest, hregs, fun l hl => ?_⟩
  have hlane := hlanes l hl
  obtain ⟨x, hx, hvalue⟩ := hg l hl
  unfold onLanes at hlane
  rw [hx] at hlane
  unfold loadedLane
  cases hact : (mkGet u k).getLsbD l with
  | false =>
    rw [hact] at hlane
    exact hlane
  | true =>
    rw [hact] at hlane
    cases hbad : cellPoisoned s (b + 4 * l) with
    | false =>
      rw [hbad, hvalue hbad] at hlane
      exact hlane
    | true =>
      rw [hbad] at hlane
      exact ⟨(Nat.mod_eq_of_lt (lane_lt _ d l)).symm, hlane.2⟩

theorem loadLanes_done {s : State} {v : MillState} {b : Nat} (h : millSees s) (hb : b + 128 ≤ hbmBytes) (d : BitVec 4) (k : BitVec 2)
    (f : Nat → Nat → Nat) : ∃ s' v', loadLanes s v b d k f = .done s' v' ∧ OnlyWalks s s' ∧
      lanesWritten (noteUE v (loadPoisoned s v b k)) v' d (loadedLane s v v' b d k f) := by
  refine ⟨_, _, rfl, millRead_onlyWalks s b 128 _, loaded_of_lanesWritten
    (noteUE_lanesWritten (loadPoisoned s v b k) (putLanes_lanesWritten v d _)) fun l hl => ⟨_, rfl, fun hbad => ?_⟩⟩
  have hread : ((memRead s.hbm b 128).drop (4 * l)).take 4 = memRead s.hbm (b + 4 * l) 4 := (memRead_slice _ b (by omega)).symm
  rw [readLane, hbad, hbmBytesAt_linear h hb, hread]
  rfl

/-- A vector load that its checks and its slot let through takes its lanes (R302, R320). -/
theorem exec_loadLanes {i : Instr} {word : State → MillState → MillEnd} {s : State} {m : Nat} {v : MillState} {w : Nat} {d : BitVec 4}
    {k : BitVec 2} {f : Nat → Nat → Nat} (hrun : MillRuns s m v) (hm : m < 512) (hs : millSees s) (hg : millGrants v w 128 128)
    (hi : exec i s = millWord false s word) (hword : word s v = loadLanes s (takeSlot v w) (m * 0x30000000 + w) d k f) :
    ∃ t v', exec i s = .next (millIssued t m v') ∧ t.hbm = s.hbm ∧ t.mills = s.mills ∧ t.crews = s.crews ∧
      lanesWritten (noteUE (takeSlot v w) (loadPoisoned s v (m * 0x30000000 + w) k)) v' d
        (loadedLane s v v' (m * 0x30000000 + w) d k f) := by
  obtain ⟨s', v', hload, hwalks, hlanes⟩ := loadLanes_done (v := takeSlot v w) hs (millCell_le hm hg.1) d k f
  obtain ⟨hhbm, hmills, hcrews⟩ := hwalks.signed v
  exact ⟨_, v', exec_millIssues hrun hi (hword.trans hload), hhbm, hmills, hcrews, hlanes⟩

theorem millLoads : Sys2Proof.Claims.MillLoads := by
  intro s m v d a b k n h hrun hm hs ha act far cell lanes
  have hnum := millNumber_of_runs hrun
  refine ⟨fun hg => ?_, fun hb hg => ?_, fun hg => ?_⟩
  · refine exec_loadLanes (d := d) (k := k) (f := fun _ x => x) hrun hm hs hg (exec_nldVector d a k n s) ?_
    refine (memoryWord_grants ha (by decide) hg).trans ?_
    rw [hnum]
    rfl
  · refine exec_loadLanes (d := d) (k := k) (f := fun l x => rotateKey (keyPosition v h.toNat l) (bits (mxGet v b) 31 0) x) hrun hm hs hg
      (exec_nldk d a b k h s) ?_
    refine (memoryWord_grants (by rw [ha, hb]; rfl) (by decide) hg).trans ?_
    rw [hnum]
    rfl
  · obtain ⟨hhbm, hmills, hcrews⟩ := (millRead_onlyWalks s (cell (far 8)) 8 fun _ => true).signed v
    refine ⟨signKernel s (millReadAll s (cell (far 8)) 8).2 v,
      if cellPoisoned s (cell (far 8)) then freeWord s.free else bytesWord (millReadAll s (cell (far 8)) 8).1, exec_millIssues hrun (exec_nldScalar d a n s) ?_, fun hbad => ?_, hhbm,
      hmills, hcrews⟩
    · refine (memoryWord_grants ha (by decide) hg).trans ?_
      rw [hnum]
      rfl
    · rw [show cellPoisoned s (cell (far 8)) = false from hbad, millReadAll, millRead_bytes hs (millCell_le hm hg.1)]
      rfl

/-! #### What the stores of the Mill leave (R302) -/

theorem OnlyHbm.mills {s t : State} (h : OnlyHbm s t) : t.mills = s.mills := by
  obtain ⟨_, _, _, _, _, _, rfl⟩ := h
  rfl

theorem OnlyHbm.crews {s t : State} (h : OnlyHbm s t) : t.crews = s.crews := by
  obtain ⟨_, _, _, _, _, _, rfl⟩ := h
  rfl

theorem OnlyHbm.stuck {s t : State} (h : OnlyHbm s t) : t.eccStuck = s.eccStuck := by
  obtain ⟨_, _, _, _, _, _, rfl⟩ := h
  rfl

/-- What a Mill's store of a doubleword leaves. -/
theorem storeWord64_stores {s : State} {b : Nat} (hs : millSees s) (hb : b < hbmBytes) (ha : b % 8 = 0) (x : Word) :
    OnlyHbm s (storeWord64 s b x) ∧ (storeWord64 s b x).hbm.wf = true ∧ memRead (storeWord64 s b x).hbm b 8 = wordBytes x ∧
      (∀ y, y < b ∨ b + 8 ≤ y → memGet (storeWord64 s b x).hbm y = memGet s.hbm y) ∧
      (s.eccStuck = [] → sectorPoisoned (storeWord64 s b x) (b / 32) = sectorPoisoned s (b / 32)) := by
  obtain ⟨hlin, hmis, hwf⟩ := hs
  have hlen : (wordBytes x).length = 8 := length_wordBytes x
  have hne : wordBytes x ≠ [] := List.ne_nil_of_length_eq_add_one (n := 7) hlen
  rw [storeWord64, hbmWrite_sector hb hne (by omega)]
  obtain ⟨entry, -, hwrite⟩ := writeSector_uncrossed (bs := wordBytes x) (crossed_linear hlin (b / 64))
  have hmarks : SameMarks (eccWrite s b 8) (writeSector s true b (wordBytes x)) (b / 32) := by
    rw [hwrite, hlen]
    exact .refl _ _
  have hhbm : (writeSector s true b (wordBytes x)).hbm = memWrite (eccWrite s b 8).hbm b (wordBytes x) := by rw [hwrite, hlen]
  have hread := memRead_memWrite_same (eccWrite s b 8).hbm b (wordBytes x)
  rw [hlen] at hread
  rw [hhbm]
  refine ⟨writeSector_onlyHbm s true b _, memWrite_wf _ _ (eccWrite_wf _ _ hwf), hread, fun y hy => ?_, fun hstuck => ?_⟩
  · rw [memGet_memWrite_other _ _ _ (by omega), eccWrite_hbm_same (by decide) (by omega) (hmis _)]
  · rw [hmarks.sectorPoisoned, eccWrite_merged hstuck (by decide) (by omega) (by decide)]

/-- NST of lanes stores two sectors. -/
def storeLanes (s : State) (b : Nat) (v : MillState) (r : BitVec 4) (k : BitVec 2) : State :=
  storeSector (storeSector s b (storedLane v r k 0) fun l => laneTag v r (16 * 0 + l)) (b + 64) (storedLane v r k 1)
    fun l => laneTag v r (16 * 1 + l)

theorem storedLane_isSome (v : MillState) (r : BitVec 4) (k : BitVec 2) (h l : Nat) :
    (storedLane v r k h l).isSome = (mkGet v k).getLsbD (16 * h + l) := by
  unfold storedLane
  cases (mkGet v k).getLsbD (16 * h + l) <;> rfl

theorem storedLane_given {v : MillState} {k : BitVec 2} {h l : Nat} (r : BitVec 4) (hact : (mkGet v k).getLsbD (16 * h + l) = true) :
    storedLane v r k h l = some (lane v r (16 * h + l)) := if_pos hact

theorem givenLanes_storedLane_any (v : MillState) (r : BitVec 4) (k : BitVec 2) (h i : Nat) :
    ((givenLanes (storedLane v r k h) i).any fun l => laneTag v r (16 * h + l)) =
      (List.range 8).any fun j => (mkGet v k).getLsbD (8 * (2 * h + i) + j) && laneTag v r (8 * (2 * h + i) + j) := by
  rw [givenLanes, List.any_filter, List.any_map]
  refine congrArg (fun f => (List.range 8).any f) (funext fun j => ?_)
  have hl : 16 * h + (8 * i + j) = 8 * (2 * h + i) + j := by omega
  rw [Function.comp, storedLane_isSome, hl]

theorem wholeHalf_storedLane (v : MillState) (r : BitVec 4) (k : BitVec 2) (h i : Nat) :
    wholeHalf (storedLane v r k h) i = (List.range 8).all fun j => (mkGet v k).getLsbD (8 * (2 * h + i) + j) := by
  refine congrArg (fun f => (List.range 8).all f) (funext fun j => ?_)
  have hl : 16 * h + (8 * i + j) = 8 * (2 * h + i) + j := by omega
  rw [storedLane_isSome, hl]

section
variable {s : State} {b : Nat} (v : MillState) (r : BitVec 4) (k : BitVec 2)

theorem storeLanes_onlyHbm (s : State) (b : Nat) : OnlyHbm s (storeLanes s b v r k) :=
  (storeSector_onlyHbm _ _ _ _).trans (storeSector_onlyHbm _ _ _ _)

/-- The second sector is stored in a state that sees as the first does. -/
theorem storeSector_sees_next (new : Nat → Option Nat) (tag : Nat → Bool) (hs : millSees s) (hb : b % 64 = 0) :
    LinearCrossings (storeSector s b new tag) ∧ ∀ h < 2, miscorrected (storeSector s b new tag) ((b + 64) / 32 + h) = 0 := by
  obtain ⟨hlin, hmis, -⟩ := hs
  exact ⟨storeSector_linear new tag hb hlin, fun h hh =>
    (storeSector_sameMarks new tag s hb (by omega)).miscorrected.trans (hmis _)⟩

theorem storeLanes_wf (hs : millSees s) (hb : b % 64 = 0) : (storeLanes s b v r k).hbm.wf = true := by
  obtain ⟨hlin, -⟩ := storeSector_sees_next (storedLane v r k 0) (fun l => laneTag v r (16 * 0 + l)) hs hb
  exact storeSector_wf _ _ (by omega) hlin (storeSector_wf _ _ hb hs.1 hs.2.2)

theorem storeLanes_given {l : Nat} (hs : millSees s) (hb : b % 64 = 0) (hl : l < 32) (hact : (mkGet v k).getLsbD l = true) :
    memRead (storeLanes s b v r k).hbm (b + 4 * l) 4 = valueBytes 4 (lane v r l) := by
  obtain ⟨hlin, hmis⟩ := storeSector_sees_next (storedLane v r k 0) (fun l => laneTag v r (16 * 0 + l)) hs hb
  by_cases hhalf : l < 16
  · have hgiven : storedLane v r k 0 l = some (lane v r l) := by
      have hg := storedLane_given (v := v) (k := k) (h := 0) (l := l) r (by rwa [Nat.mul_zero, Nat.zero_add])
      rwa [Nat.mul_zero, Nat.zero_add] at hg
    rw [← storeSector_lane_given (s := s) (storedLane v r k 0) (fun l => laneTag v r (16 * 0 + l)) hb hs.1 (fun _ _ => hs.2.1 _) hhalf
      hgiven]
    exact memRead_congr fun x hx hlt => storeSector_hbm_other _ _ _ (by omega) (by omega)
  · obtain ⟨l, rfl⟩ : ∃ j, l = 16 * 1 + j := ⟨l - 16, by omega⟩
    rw [show b + 4 * (16 * 1 + l) = b + 64 + 4 * l by omega]
    exact storeSector_lane_given _ _ (by omega) hlin hmis (by omega) (storedLane_given r hact)

theorem storeLanes_other {x : Nat} (hs : millSees s) (hb : b % 64 = 0)
    (hx : ∀ l < 32, (mkGet v k).getLsbD l = true → x < b + 4 * l ∨ b + 4 * l + 4 ≤ x) :
    memGet (storeLanes s b v r k).hbm x = memGet s.hbm x := by
  obtain ⟨hlin, hmis⟩ := storeSector_sees_next (storedLane v r k 0) (fun l => laneTag v r (16 * 0 + l)) hs hb
  refine (storeSector_hbm_same _ _ (by omega) hlin hmis fun l hl hsome => ?_).trans
    (storeSector_hbm_same _ _ hb hs.1 (fun _ _ => hs.2.1 _) fun l hl hsome => ?_)
  · rw [storedLane_isSome] at hsome
    have := hx _ (by omega) hsome
    omega
  · rw [storedLane_isSome] at hsome
    have := hx _ (by omega) hsome
    omega

theorem storeLanes_poisoned {g : Nat} (hb : b % 64 = 0) (hstuck : s.eccStuck = []) (hg : g < 4) :
    sectorPoisoned (storeLanes s b v r k) (b / 32 + g) =
      (((List.range 8).any fun j => (mkGet v k).getLsbD (8 * g + j) && laneTag v r (8 * g + j)) ||
        (sectorPoisoned s (b / 32 + g) && !((List.range 8).all fun j => (mkGet v k).getLsbD (8 * g + j)))) := by
  have hstuck' : (storeSector s b (storedLane v r k 0) fun l => laneTag v r (16 * 0 + l)).eccStuck = [] :=
    (storeSector_onlyHbm _ _ _ _).stuck.trans hstuck
  obtain ⟨h, i, hh, hi, rfl⟩ : ∃ h i, h < 2 ∧ i < 2 ∧ g = 2 * h + i := ⟨g / 2, g % 2, by omega, by omega, by omega⟩
  rw [← givenLanes_storedLane_any, ← wholeHalf_storedLane (r := r)]
  obtain rfl | rfl : h = 0 ∨ h = 1 := by omega
  · rw [storeLanes, (storeSector_sameMarks _ _ _ (by omega) (by omega)).sectorPoisoned, show 2 * 0 + i = i by omega,
      storeSector_poisoned _ _ hb hi hstuck]
  · have hsec : b / 32 + (2 * 1 + i) = (b + 64) / 32 + i := by omega
    rw [storeLanes, hsec, storeSector_poisoned _ _ (by omega) hi hstuck',
      (storeSector_sameMarks _ _ _ hb (by omega)).sectorPoisoned]

end

/-- A scalar NST stores its doubleword, and poisons its sector where the register is poisoned. -/
def storeTagged (s : State) (b : Nat) (x : Word) (tag : Bool) : State :=
  if tag then poisonSectors (storeWord64 s b x) b 8 else storeWord64 s b x

theorem poisonSectors_one {s : State} {b n : Nat} (hn : 0 < n) (h : b % 32 + n ≤ 32) :
    sectorPoisoned (poisonSectors s b n) (b / 32) = true := by
  have hmem : (poisonSectors s b n).eccPoison.contains (b / 32) = true := by
    show ((eccSectors b n).foldl setInsert s.eccPoison).contains (b / 32) = true
    rw [eccSectors_one hn h, List.contains_iff_mem]
    exact (mem_setInsert _ _ _).2 (.inl rfl)
  rw [sectorPoisoned, hmem]
  rfl

theorem poisonSectors_onlyHbm (s : State) (b n : Nat) : OnlyHbm s (poisonSectors s b n) :=
  ⟨s.hbm, s.crossings, s.free, _, s.eccErr, s.pkg.eccce, rfl⟩

theorem storeTagged_stores {s : State} {b : Nat} (hs : millSees s) (hb : b < hbmBytes) (ha : b % 8 = 0) (x : Word) (tag : Bool) :
    OnlyHbm s (storeTagged s b x tag) ∧ (storeTagged s b x tag).hbm.wf = true ∧ memRead (storeTagged s b x tag).hbm b 8 = wordBytes x ∧
      (∀ y, y < b ∨ b + 8 ≤ y → memGet (storeTagged s b x tag).hbm y = memGet s.hbm y) ∧
      (s.eccStuck = [] → sectorPoisoned (storeTagged s b x tag) (b / 32) = (tag || sectorPoisoned s (b / 32))) := by
  obtain ⟨hbody, hwf, hread, hother, hpoison⟩ := storeWord64_stores hs hb ha x
  cases tag with
  | false => exact ⟨hbody, hwf, hread, hother, hpoison⟩
  | true =>
    exact ⟨hbody.trans (poisonSectors_onlyHbm _ b 8), hwf, hread, hother, fun _ => poisonSectors_one (by decide) (by omega)⟩

theorem millStores : Sys2Proof.Claims.MillStores := by
  intro s m v r a k n hrun hm hs ha act far cell
  have hnum := millNumber_of_runs hrun
  refine ⟨fun hg => ?_, fun hg => ?_⟩
  · have hcell : cell (far 128) = m * 0x30000000 + far 128 := rfl
    have hfar := hg.1.2.1
    have halign : cell (far 128) % 128 = 0 := by omega
    have hbody := storeLanes_onlyHbm v r k s (cell (far 128))
    refine ⟨signKernel s (storeLanes s (cell (far 128)) v r k) v, exec_millIssues hrun (exec_nstVector r a k n s) ?_, ?_, ?_, ?_,
      fun l hl hact => ?_, fun x hx => ?_, fun hstuck g hg => ?_⟩
    · refine (memoryWord_grants ha (by decide) hg).trans ?_
      rw [hnum]
      rfl
    · rw [signKernel_mills, hbody.mills]
    · rw [signKernel_crews, hbody.crews]
    · rw [signKernel_hbm]
      exact storeLanes_wf v r k hs (by omega)
    · rw [signKernel_hbm]
      exact storeLanes_given v r k hs (by omega) hl hact
    · rw [signKernel_hbm, memRead_one, memRead_one, storeLanes_other v r k hs (by omega) hx]
    · have hsec : (cell (far 128) + 32 * g) / 32 = cell (far 128) / 32 + g := by omega
      rw [cellPoisoned, cellPoisoned, hsec, (signKernel_sameMarks _ _ _ _).sectorPoisoned]
      exact storeLanes_poisoned v r k (by omega) hstuck hg
  · have hcell : cell (far 8) = m * 0x30000000 + far 8 := rfl
    have hfar := hg.1.2.1
    have halign : cell (far 8) % 8 = 0 := by omega
    have hle := millCell_le hm hg.1
    obtain ⟨hbody, hwf, hread, hother, hpoison⟩ := storeTagged_stores hs (show cell (far 8) < hbmBytes by omega) halign (mxGet v r)
      (mxTag v r)
    refine ⟨signKernel s (storeTagged s (cell (far 8)) (mxGet v r) (mxTag v r)) v, exec_millIssues hrun (exec_nstScalar r a n s) ?_, ?_,
      ?_, ?_, ?_, fun x hx => ?_, fun hstuck => ?_⟩
    · refine (memoryWord_grants ha (by decide) hg).trans ?_
      rw [hnum]
      rfl
    · rw [signKernel_mills, hbody.mills]
    · rw [signKernel_crews, hbody.crews]
    · rw [signKernel_hbm, hwf]
    · rw [signKernel_hbm, hread]
    · rw [signKernel_hbm, memRead_one, memRead_one, hother x hx]
    · rw [cellPoisoned, (signKernel_sameMarks _ _ _ _).sectorPoisoned]
      exact hpoison hstuck

/-- Settles O55: the lanes that a load takes and the sectors that a store writes. -/
theorem millLoadsAndStores : Obligations.MillLoadsAndStores := ⟨millLoads, millStores⟩

end Sys2Proof.Machine
end

/-! ### Key-value pages, triple records and the semaphores of the Mill (R316, R319, R323) -/

section
namespace Sys2Proof.Machine
open Sys2Proof.Claims Sys2Proof.Config

/-! #### The lanes of a triple record -/

/-- A register is poisoned where one of its lanes is. -/
theorem mvPoison_ne_zero (v : MillState) (r : BitVec 4) :
    (v.mvPoison[r.toNat] != 0) = (List.range 32).any fun l => laneTag v r l := by
  rw [Bool.eq_iff_iff, bne_iff_ne, List.any_eq_true]
  constructor
  · intro h
    obtain ⟨l, hl⟩ : ∃ l, (v.mvPoison[r.toNat]).getLsbD l = true := by
      refine Classical.byContradiction fun hno => ?_
      refine h (BitVec.eq_of_getLsbD_eq fun l _ => ?_)
      refine Eq.trans ?_ BitVec.getLsbD_zero.symm
      exact Bool.eq_false_iff.2 fun hl => hno ⟨l, hl⟩
    exact ⟨l, List.mem_range.2 (BitVec.lt_of_getLsbD hl), hl⟩
  · rintro ⟨l, -, hl⟩ h
    rw [laneTag, h] at hl
    exact Bool.false_ne_true (BitVec.getLsbD_zero.symm.trans hl)

theorem tripleLane_value (v : MillState) (d b : BitVec 4) (n : Nat) : ∀ j, (tripleLane v d b n j).1 = tripleField v d b n j
  | 0 => rfl
  | 1 => by
    rw [tripleLane, tripleField, Bool.beq_eq_decide_eq]
    rfl
  | 2 => rfl
  | 3 => by
    rw [tripleLane, tripleField, Bool.beq_eq_decide_eq]
    simp only [mvPoison_ne_zero]
    rfl
  | j + 4 => by
    have hfield : tripleField v d b n (j + 4) = if j + 4 < 16 then 0 else if lane v b 0 == 0xFF800000 then 0
      else lane v (d + BitVec.ofNat 4 ((j + 4 - 16) / 32)) ((j + 4 - 16) % 32) := rfl
    have hlane : (tripleLane v d b n (j + 4)).1 = (if j + 4 < 16 then (0, false)
      else (if decide (lane v b 0 = minusInf) then 0 else lane v (d + BitVec.ofNat 4 ((j + 4 - 16) / 32)) ((j + 4 - 16) % 32),
        laneTag v (d + BitVec.ofNat 4 ((j + 4 - 16) / 32)) ((j + 4 - 16) % 32))).1 := rfl
    rw [hfield, hlane, Bool.beq_eq_decide_eq]
    split
    · rfl
    · rfl

/-! #### The sectors of a triple record that one slot takes -/

/-- What storing sectors of a record leaves: the Mill's turn, the lanes that are stored, and everything else. -/
structure TripleStored (v : MillState) (d b : BitVec 4) (n m w first count : Nat) (s t : State) : Prop where
  only : OnlyHbm s t
  linear : LinearCrossings t
  sound : ∀ k, m * 0x30000000 + w + 64 * (first + count) ≤ 32 * k → miscorrected t k = 0
  stored : ∀ j, 16 * first ≤ j → j < 16 * (first + count) →
    memRead t.hbm (m * 0x30000000 + w + 4 * j) 4 = valueBytes 4 (tripleField v d b n j)
  other : ∀ x, x < m * 0x30000000 + w + 64 * first ∨ m * 0x30000000 + w + 64 * (first + count) ≤ x → memGet t.hbm x = memGet s.hbm x

theorem tripleStored_zero {s : State} (v : MillState) (d b : BitVec 4) (n m w first : Nat) (hs : millSees s) :
    TripleStored v d b n m w first 0 s s :=
  ⟨.refl s, hs.1, fun _ _ => hs.2.1 _, fun j hlo hhi => by omega, fun _ _ => rfl⟩

/-- One more sector of a record. -/
theorem TripleStored.next {v : MillState} {d b : BitVec 4} {n m w first count : Nat} {s t : State} (hcur : s.cur = .mill m)
    (hw : w % 64 = 0) (h : TripleStored v d b n m w first count s t) :
    TripleStored v d b n m w first (count + 1) s (storeTriple v d b n w t (first + count)) := by
  obtain ⟨honly, hlin, hmis, hstored, hother⟩ := h
  have hnum : millNumber t = m := by
    obtain ⟨_, _, _, _, _, _, rfl⟩ := honly
    rw [millNumber, hcur]
  have hcell : millCell m w + 64 * (first + count) = m * 0x30000000 + w + 64 * (first + count) := rfl
  obtain ⟨c, hb⟩ : ∃ c, c = m * 0x30000000 + w + 64 * (first + count) := ⟨_, rfl⟩
  have halign : c % 64 = 0 := by omega
  unfold storeTriple
  rw [hnum, hcell, ← hb]
  refine ⟨honly.trans (storeSector_onlyHbm _ _ _ _), storeSector_linear _ _ halign hlin, fun k hk => ?_, fun j hlo hhi => ?_,
    fun x hx => ?_⟩
  · rw [(storeSector_sameMarks _ _ _ halign (by omega)).miscorrected]
    exact hmis k (by omega)
  · by_cases hold : j < 16 * (first + count)
    · rw [← hstored j hlo hold]
      exact memRead_congr fun x hx hlt => storeSector_hbm_other _ _ _ halign (by omega)
    · obtain ⟨l, rfl⟩ : ∃ l, j = 16 * (first + count) + l := ⟨j - 16 * (first + count), by omega⟩
      rw [← tripleLane_value, show m * 0x30000000 + w + 4 * (16 * (first + count) + l) = c + 4 * l by omega]
      exact storeSector_lane_given (l := l) _ _ halign hlin (fun h _ => hmis _ (by omega)) (by omega) rfl
  · rw [storeSector_hbm_other _ _ _ halign (by omega)]
    exact hother x (by omega)

theorem tripleStored_fold {s : State} (v : MillState) (d b : BitVec 4) (n : Nat) {m w : Nat} (first count : Nat)
    (hcur : s.cur = .mill m) (hw : w % 64 = 0) (hs : millSees s) : TripleStored v d b n m w first count s
      ((List.range count).foldl (fun s i => storeTriple v d b n w s (first + i)) s) := by
  induction count with
  | zero => exact tripleStored_zero v d b n m w first hs
  | succ count ih =>
    rw [List.range_succ, List.foldl_append]
    exact ih.next hcur hw

/-- The record's sectors that the slot takes are stored. -/
def tripStore (s : State) (v : MillState) (d b : BitVec 4) (n w k : Nat) : State :=
  (List.range (k / 64)).foldl (fun s i => storeTriple v d b n w s (v.trip / 64 + i)) s

/-- What NTRIP does where the slot takes its next access. -/
theorem exec_ntrip_slot {s : State} {m : Nat} {v : MillState} {d a b : BitVec 4} {r : BitVec 3} (hrun : MillRuns s m v)
    (hd : d.toNat + r.toNat + 1 ≤ 16) (ha : mxTag v a = false)
    (hr : millReaches v (mxGet v a).toNat (64 + 128 * (r.toNat + 1)) 64) (hslot : slotTakes v ((mxGet v a).toNat + v.trip) = true) :
    let size := 64 + 128 * (r.toNat + 1)
    let next := (mxGet v a).toNat + v.trip
    let k := slotSpan v next (size - v.trip)
    let t := signKernel s (tripStore s v d b (r.toNat + 1) (mxGet v a).toNat k) v
    (size ≤ v.trip + k → exec (.ntrip d a b r) s = .next (millIssued t m { takeSpan v next k with trip := 0 })) ∧
      (v.trip + k < size → exec (.ntrip d a b r) s = .next (putMill t m { takeSpan v next k with trip := v.trip + k })) := by
  intro size next k t
  have hi := exec_ntrip d a b r s
  rw [decide_eq_false (Nat.not_lt.2 hd)] at hi
  have hword : (if mxTag v a then MillEnd.ends s v chanILL
      else millChecked s v (mxGet v a).toNat size 64 (if !slotTakes v next then .waits s v
        else tripSlot s v d b (r.toNat + 1) (mxGet v a).toNat next size)) =
      tripSlot s v d b (r.toNat + 1) (mxGet v a).toNat next size := by
    rw [ha, if_neg Bool.false_ne_true, millChecked_reaches (by omega) hr, hslot]
    rfl
  refine ⟨fun hend => exec_millIssues hrun hi (hword.trans (if_neg (Nat.not_lt.2 hend))), fun hend =>
    exec_millWaits hrun hi (hword.trans (if_pos hend))⟩

/-- The bytes of a record that one slot takes are whole sectors. -/
theorem slotSpan_whole {v : MillState} {next size trip : Nat} (hn : next % 64 = 0) (hs : size % 64 = 0) (ht : trip % 64 = 0) :
    slotSpan v next (size - trip) % 64 = 0 := by
  unfold slotSpan
  omega

theorem tripStore_stores {s : State} {m : Nat} {v : MillState} {w k : Nat} (d b : BitVec 4) (n : Nat) (hrun : MillRuns s m v)
    (hs : millSees s) (hw : w % 64 = 0) (ht : v.trip % 64 = 0) (hk : k % 64 = 0) :
    OnlyHbm s (tripStore s v d b n w k) ∧
      (∀ j, v.trip ≤ 4 * j → 4 * j < v.trip + k →
        memRead (tripStore s v d b n w k).hbm (m * 0x30000000 + w + 4 * j) 4 = valueBytes 4 (tripleField v d b n j)) ∧
      (∀ x, x < m * 0x30000000 + w + v.trip ∨ m * 0x30000000 + w + v.trip + k ≤ x →
        memGet (tripStore s v d b n w k).hbm x = memGet s.hbm x) := by
  obtain ⟨honly, -, -, hstored, hother⟩ := tripleStored_fold v d b n (v.trip / 64) (k / 64) hrun.1 hw hs
  exact ⟨honly, fun j hlo hhi => hstored j (by omega) (by omega), fun x hx => hother x (by omega)⟩

/-! #### Page headers and counts -/

/-- Whether the doublewords of a page header are right (Table 11.10). -/
def HeaderRight (d0 d1 : Word) : Prop :=
  bits d0 63 39 = 0 ∧ bits d0 38 32 ≤ 64 ∧
    bits d1 31 0 = (bits d0 31 0 * 0x9E3779B1 + bits d0 38 32 * 0x85EBCA77 + bits d1 63 32) % 2 ^ 32

theorem headerWrong_iff (d0 d1 : Word) : (bits d0 63 39 != 0 || decide (64 < bits d0 38 32) ||
    bits d1 31 0 != headerSum (bits d0 31 0) (bits d0 38 32) (bits d1 63 32)) = true ↔ ¬HeaderRight d0 d1 := by
  rw [HeaderRight, Bool.or_eq_true, Bool.or_eq_true, bne_iff_ne, bne_iff_ne, decide_eq_true_eq, headerSum]
  generalize (bits d0 31 0 * 0x9E3779B1 + bits d0 38 32 * 0x85EBCA77 + bits d1 63 32) % 2 ^ 32 = x
  omega

theorem npbHeader_right (s : State) (v : MillState) {d0 d1 : Word} (h : HeaderRight d0 d1) : npbHeader s v d0 d1 =
    .done s { v with pb := BitVec.ofNat 32 (bits d0 31 0), vc := BitVec.ofNat 7 (bits d0 38 32) } :=
  if_neg fun hwrong => (headerWrong_iff d0 d1).1 hwrong h

theorem npbHeader_wrong (s : State) (v : MillState) {d0 d1 : Word} (h : ¬HeaderRight d0 d1) : npbHeader s v d0 d1 = .ends s v chanILL :=
  if_pos ((headerWrong_iff d0 d1).2 h)

theorem npbAt_eq {s : State} {b : Nat} (v : MillState) (hs : millSees s) (hb : b + 16 ≤ hbmBytes) : npbAt s v b =
    if cellPoisoned s b then .ends (millReadAll s b 16).2 v (chanUE ||| chanILL)
    else npbHeader (millReadAll s b 16).2 v (bytesWord (memRead s.hbm b 8)) (bytesWord (memRead s.hbm (b + 8) 8)) := by
  have hread : (millReadAll s b 16).1 = memRead s.hbm b 16 := millRead_bytes hs hb _
  have hlow : (memRead s.hbm b 16).take 8 = memRead s.hbm b 8 := (memRead_slice s.hbm b (i := 0) (by decide)).symm
  have hhigh : (memRead s.hbm b 16).drop 8 = memRead s.hbm (b + 8) 8 := by
    rw [memRead_slice s.hbm b (show 8 + 8 ≤ 16 by decide), List.take_of_length_le (by simp [length_memRead])]
  rw [npbAt, hread, hlow, hhigh]

theorem millSemAt_eq {s : State} {b : Nat} (v : MillState) (body : State → MillState → Nat → Word → MillEnd) (hs : millSees s)
    (hb : b + 8 ≤ hbmBytes) : millSemAt s v b body =
    if cellPoisoned s b then .ends (millReadAll s b 8).2 v (chanUE ||| chanILL)
    else body (millReadAll s b 8).2 v b (bytesWord (memRead s.hbm b 8)) := by
  rw [millSemAt, show (millReadAll s b 8).1 = memRead s.hbm b 8 from millRead_bytes hs hb _]

/-- A read leaves what a Mill sees. -/
theorem OnlyWalks.millSees {s t : State} (h : OnlyWalks s t) (hs : millSees s) : millSees t := by
  obtain ⟨_, _, _, _, _, _, _, _, _, rfl⟩ := h
  exact ⟨hs.1, fun k => hs.2.1 k, hs.2.2⟩

theorem millReadAll_onlyWalks (s : State) (b n : Nat) : OnlyWalks s (millReadAll s b n).2 := millRead_onlyWalks s b n _

section
variable {s : State} {m : Nat} {v : MillState} {a : BitVec 4}

/-- NPB reads its header and takes it, or ends the kernel (R319). -/
theorem exec_npb_header (hrun : MillRuns s m v) (hm : m < 512) (hs : millSees s) (ha : mxTag v a = false)
    (hg : millGrants v (mxGet v a).toNat 16 64) :
    let w := (mxGet v a).toNat
    let cell := m * 0x30000000 + w
    let t := signKernel s (millReadAll s cell 16).2 v
    let d0 := bytesWord (memRead s.hbm cell 8)
    let d1 := bytesWord (memRead s.hbm (cell + 8) 8)
    (cellPoisoned s cell = true → exec (.npb a) s = .next (millEnded t m (takeSlot v w) 0x300)) ∧
      (cellPoisoned s cell = false → ¬HeaderRight d0 d1 → exec (.npb a) s = .next (millEnded t m (takeSlot v w) 0x200)) ∧
      (cellPoisoned s cell = false → HeaderRight d0 d1 → exec (.npb a) s = .next (millIssued t m
        { takeSlot v w with pb := BitVec.ofNat 32 (bits d0 31 0), vc := BitVec.ofNat 7 (bits d0 38 32) })) := by
  intro w cell t d0 d1
  have hi := exec_npb a s
  have hcell : millCell (millNumber s) w = cell := by rw [millNumber_of_runs hrun]; rfl
  have hword := (memoryWord_grants (s := s) (f := chanILL) (body := fun v w => npbAt s v (millCell (millNumber s) w)) ha (by decide) hg).trans
    ((congrArg (npbAt s (takeSlot v w)) hcell).trans (npbAt_eq (takeSlot v w) hs (millCell_le hm hg.1)))
  refine ⟨fun hbad => exec_millEnds hrun hi (hword.trans (if_pos hbad)), fun hbad hwrong => ?_, fun hbad hright => ?_⟩
  · exact exec_millEnds hrun hi (hword.trans ((if_neg (Bool.eq_false_iff.1 hbad)).trans (npbHeader_wrong _ _ hwrong)))
  · exact exec_millIssues hrun hi (hword.trans ((if_neg (Bool.eq_false_iff.1 hbad)).trans (npbHeader_right _ _ hright)))

/-- A semaphore word that its checks and its slot let through. -/
theorem semWord_grants {body : State → MillState → Nat → Word → MillEnd} (hrun : MillRuns s m v) (hm : m < 512) (hs : millSees s)
    (ha : mxTag v a = false) (hg : millGrants v (mxGet v a).toNat 8 8) :
    let w := (mxGet v a).toNat
    let cell := m * 0x30000000 + w
    (if mxTag v a then MillEnd.ends s v chanILL
      else millAccess s v w 8 8 fun v w => millSemAt s v (millCell (millNumber s) w) body) =
      if cellPoisoned s cell then .ends (millReadAll s cell 8).2 (takeSlot v w) (chanUE ||| chanILL)
      else body (millReadAll s cell 8).2 (takeSlot v w) cell (bytesWord (memRead s.hbm cell 8)) := by
  intro w cell
  have hcell : millCell (millNumber s) w = cell := by rw [millNumber_of_runs hrun]; rfl
  refine (memoryWord_grants ha (by decide) hg).trans ?_
  rw [hcell]
  exact millSemAt_eq (takeSlot v w) body hs (millCell_le hm hg.1)

/-- What a semaphore word's store leaves of memory. -/
theorem semStore_stores {s u : State} {b : Nat} {x : Word} (hs : millSees s) (hu : OnlyWalks s u) (hb : b + 8 ≤ hbmBytes) (ha : b % 8 = 0) :
    (storeWord64 u b x).crews = s.crews ∧ (storeWord64 u b x).mills = s.mills ∧ memRead (storeWord64 u b x).hbm b 8 = wordBytes x ∧
      ∀ y, y < b ∨ b + 8 ≤ y → memGet (storeWord64 u b x).hbm y = memGet s.hbm y := by
  obtain ⟨honly, -, hread, hother, -⟩ := storeWord64_stores (hu.millSees hs) (show b < hbmBytes by omega) ha x
  obtain ⟨_, _, _, _, _, _, _, _, _, rfl⟩ := hu
  exact ⟨honly.crews, honly.mills, hread, hother⟩

theorem OnlyWalks.crews {s t : State} (h : OnlyWalks s t) : t.crews = s.crews := by
  obtain ⟨_, _, _, _, _, _, _, _, _, rfl⟩ := h
  rfl

theorem OnlyWalks.mills {s t : State} (h : OnlyWalks s t) : t.mills = s.mills := by
  obtain ⟨_, _, _, _, _, _, _, _, _, rfl⟩ := h
  rfl

end

theorem semsCount_full {n : BitVec 12} {count : Word} (s : State) (v : MillState) (b : Nat) (h : 2 ^ 64 ≤ count.toNat + n.toNat) :
    semsCount n s v b count = .ends s v chanILL := if_pos h

theorem semsCount_adds {n : BitVec 12} {count : Word} (s : State) (v : MillState) (b : Nat) (h : count.toNat + n.toNat < 2 ^ 64) :
    semsCount n s v b count = .done (storeWord64 s b (count + n.zeroExtend 64)) v := if_neg (Nat.not_le.2 h)

theorem semwCount_zero {count : Word} (s : State) (v : MillState) (b : Nat) (h : count = 0) :
    semwCount s v b count = .waits s { v with slotUse := 8 } := if_pos h

theorem semwCount_takes {count : Word} (s : State) (v : MillState) (b : Nat) (h : count ≠ 0) :
    semwCount s v b count = .done (advanceCell (storeWord64 s b (count - 1)) (millTarget b)) v := if_neg h

theorem exec_nsems_good (s : State) (a : BitVec 4) {n : BitVec 12} (hn : n ≠ 0) : exec (.nsems a n) s = millWord false s fun s v =>
    if mxTag v a then .ends s v chanILL
    else millAccess s v (mxGet v a).toNat 8 8 fun v w => millSemAt s v (millCell (millNumber s) w) (semsCount n) := by
  rw [exec_nsems, beq_false_of_ne hn]

theorem semCell_aligned {m w : Nat} {v : MillState} (hg : millGrants v w 8 8) : (m * 0x30000000 + w) % 8 = 0 := by
  have hw := hg.1.2.1
  omega

/-- Settles O56: the header that NPB reads, the sectors of a record that NTRIP's slot takes, and the counts of the semaphores. -/
theorem millPagesAndSemaphores : Obligations.MillPagesAndSemaphores := by
  intro s m v d a b r f hrun hm hs ha w cell d0 d1 good
  refine ⟨fun hg => ?_, ?_, fun hb => ?_, fun hb hcount => ?_, fun hbad => ?_, fun hd hr ht hslot => ?_, fun hf hg => ?_,
    fun hf hg hbad hfit => ?_, fun hg hbad hcount => ?_⟩
  · obtain ⟨hhbm, hmills, hcrews⟩ := (millReadAll_onlyWalks s cell 16).signed v
    exact ⟨_, hhbm, hmills, hcrews, exec_npb_header hrun hm hs ha hg⟩
  · exact exec_of_millWord hrun (exec_npbWf a s) rfl (if_neg (Bool.eq_false_iff.1 ha))
  · exact exec_millStops hrun (exec_npbWf b s) (if_pos hb)
  · exact exec_of_millWord hrun (exec_npbSet a b s) rfl (if_neg (by rw [ha, hb, decide_eq_false (Nat.not_lt.2 hcount)]; decide))
  · refine exec_millStops hrun (exec_npbSet a b s) (if_pos ?_)
    rw [ha, Bool.false_or, Bool.or_eq_true, decide_eq_true_eq]
    exact hbad
  · obtain ⟨hdone, hwaits⟩ := exec_ntrip_slot (b := b) hrun hd ha hr hslot
    have hw : w.toNat % 64 = 0 := hr.2.1
    have hk := slotSpan_whole (v := v) (next := w.toNat + v.trip) (size := 64 + 128 * (r.toNat + 1)) (by omega) (by omega) ht
    obtain ⟨honly, hstored, hother⟩ := tripStore_stores d b (r.toNat + 1) hrun hs hw ht hk
    refine ⟨_, ?_, ?_, hdone, hwaits, fun j hlo hhi => ?_, fun x hx => ?_⟩
    · rw [signKernel_mills, honly.mills]
    · rw [signKernel_crews, honly.crews]
    · rw [signKernel_hbm]
      exact hstored j hlo hhi
    · rw [signKernel_hbm, memRead_one, memRead_one, hother x hx]
  · obtain ⟨hhbm, hmills, hcrews⟩ := (millReadAll_onlyWalks s cell 8).signed v
    have hi := exec_nsems_good s a hf
    have hs' := semWord_grants (body := semsCount f) hrun hm hs ha hg
    have hw' := semWord_grants (body := semwCount) hrun hm hs ha hg
    refine ⟨_, hhbm, hcrews, hmills, fun hbad => ⟨?_, ?_⟩, fun hbad hfull => ?_, fun hbad hzero => ?_⟩
    · exact exec_millEnds hrun hi (hs'.trans (if_pos hbad))
    · exact exec_millEnds hrun (exec_nsemw a s) (hw'.trans (if_pos hbad))
    · exact exec_millEnds hrun hi (hs'.trans ((if_neg (Bool.eq_false_iff.1 hbad)).trans (semsCount_full _ _ _ hfull)))
    · exact exec_millWaits hrun (exec_nsemw a s) (hw'.trans ((if_neg (Bool.eq_false_iff.1 hbad)).trans (semwCount_zero _ _ _ hzero)))
  · have halign : cell % 8 = 0 := semCell_aligned hg
    obtain ⟨hcrews, hmills, hread, hother⟩ := semStore_stores (x := d0 + f.zeroExtend 64) hs (millReadAll_onlyWalks s cell 8)
      (millCell_le hm hg.1) halign
    have hword := semWord_grants (body := semsCount f) hrun hm hs ha hg
    refine ⟨_, exec_millIssues hrun (exec_nsems_good s a hf) (hword.trans ((if_neg (Bool.eq_false_iff.1 hbad)).trans
      (semsCount_adds _ _ _ hfit))), ?_, ?_, ?_, fun x hx => ?_⟩
    · rw [signKernel_crews, hcrews]
    · rw [signKernel_mills, hmills]
    · rw [signKernel_hbm, hread]
    · rw [signKernel_hbm, memRead_one, memRead_one, hother x hx]
  · have halign : cell % 8 = 0 := semCell_aligned hg
    obtain ⟨hcrews, hmills, hread, hother⟩ := semStore_stores (x := d0 - 1) hs (millReadAll_onlyWalks s cell 8)
      (millCell_le hm hg.1) halign
    have hadv := advanceCell_onlyWalks (storeWord64 (millReadAll s cell 8).2 cell (d0 - 1)) (millTarget cell)
    have hword := semWord_grants (body := semwCount) hrun hm hs ha hg
    refine ⟨_, exec_millIssues hrun (exec_nsemw a s) (hword.trans ((if_neg (Bool.eq_false_iff.1 hbad)).trans
      (semwCount_takes _ _ _ hcount))), ?_, ?_, ?_, fun x hx => ?_⟩
    · rw [signKernel_crews, hadv.crews, hcrews]
    · rw [signKernel_mills, hadv.mills, hmills]
    · rw [signKernel_hbm, hadv.hbm, hread]
    · rw [signKernel_hbm, hadv.hbm, memRead_one, memRead_one, hother x hx]

end Sys2Proof.Machine
end

/-! ### The events of the Dispatcher and the engines complete -/

section
namespace Sys2Proof.Machine
open Sys2Proof.Claims Sys2Proof.Config

theorem completes_next {i : Instr} {s t : State} {p : State → Prop} (hi : exec i s = .next t) (hp : p t) : completes i s p := ⟨t, hi, hp⟩

/-- An event that leaves a state completes with it. -/
theorem completes_eq {i : Instr} {s t : State} (hi : exec i s = .next t) : completes i s fun u => u = t := ⟨t, hi, rfl⟩

theorem crewHas_of_crewAt {t : State} {slot : Nat} {d : Crew} {p : Crew → Prop} (h : crewAt t slot = some d) (hp : p d) :
    crewHas t slot p := ⟨d, h, hp⟩

/-! #### What the end of a command leaves of its core and its crew -/

@[simp] theorem modCrew_cores (s : State) (k : Nat) (f : Crew → Crew) : (modCrew s k f).cores = s.cores := by
  unfold modCrew
  split <;> rfl

theorem lateFault_cores (s : State) (k seq : Nat) (code : BitVec 8) (addr : Word) : (lateFault s k seq code addr).cores = s.cores := by
  unfold lateFault discardAccess
  split
  · rfl
  · split
    · exact modCrew_cores _ _ _
    · rfl

theorem cmdFault_cores (s : State) (e : EngCmd) (code : BitVec 8) (addr : Word) (again : Bool) :
    (cmdFault s e code addr again).cores = s.cores := by
  unfold cmdFault
  split
  · rfl
  · split
    · exact modCrew_cores _ _ _
    · rw [modCrew_cores, lateFault_cores]

theorem freeCmdLog_cores (s : State) (e : EngCmd) : (freeCmdLog s e).cores = s.cores := modCrew_cores _ _ _

theorem endWrites_cores (s : State) (e : EngCmd) (b : Bool) : (endWrites s e b).cores = s.cores := by
  unfold endWrites
  split <;> rfl

theorem coreAt_of_cores {s t : State} (h : t.cores = s.cores) (k : Nat) : coreAt t k = coreAt s k := by
  rw [coreAt, h]
  rfl

/-- No command of a core has the number of one that has left it. -/
def CmdGone (t : State) (core id : Nat) : Prop := ∀ f ∈ coreCmds (coreAt t core), f.id ≠ id

theorem CmdGone.of_cores {s t : State} {core id : Nat} (h : CmdGone s core id) (hc : t.cores = s.cores) : CmdGone t core id := by
  rw [CmdGone, coreAt_of_cores hc]
  exact h

theorem dropCmd_gone (s : State) (core : Nat) (e : EngCmd) : CmdGone (dropCmd s core e) core e.id := by
  unfold dropCmd
  dsimp only
  refine CmdGone.of_cores ?_ (modCrew_cores _ _ _)
  intro f hf
  rw [coreAt_putCore_same] at hf
  simp only [coreCmds, List.mem_append, List.mem_filter, bne_iff_ne] at hf
  simp only [← or_and_right] at hf
  exact hf.2

theorem CmdGone.semAdd {s : State} {core id : Nat} (h : CmdGone s core id) (n v : Nat) : CmdGone (semAdd s core n v).2 core id := by
  unfold Machine.semAdd
  dsimp only
  split
  · exact h
  · unfold putSem CmdGone
    dsimp only
    rw [coreAt_putCore_same]
    exact h

/-- A command that has completed is none of its core's any more. -/
theorem finishCmd_gone (s : State) (core : Nat) (e : EngCmd) : CmdGone (finishCmd s core e) core e.id := by
  have hdrop := dropCmd_gone (endWrites s e e.sv) core e
  unfold finishCmd
  dsimp only
  split
  · exact hdrop.of_cores (freeCmdLog_cores _ _)
  split
  · have hsem := hdrop.semAdd e.ss 1
    split
    · next u h =>
      rw [h] at hsem
      exact hsem.of_cores (freeCmdLog_cores _ _)
    · next u h =>
      rw [h] at hsem
      exact hsem.of_cores (cmdFault_cores _ _ _ _ _)
  · exact hdrop.of_cores (freeCmdLog_cores _ _)

/-- A bench's command without a signal leaves its crew all but its log and its own commands. -/
theorem crewAt_finishCmd {s : State} {core : Nat} {e : EngCmd} {c : Crew} (hreeve : isReeve e.slot = false) (hsv : e.sv = false)
    (hc : crewAt s e.slot = some c) (hid : c.crewId = e.crewId) :
    crewAt (finishCmd s core e) e.slot = some (freeLog { c with glCmds := c.glCmds.filter (·.id != e.id) } e.seq) := by
  have hdrop : crewAt (dropCmd (endWrites s e e.sv) core e) e.slot = some { c with glCmds := c.glCmds.filter (·.id != e.id) } := by
    unfold dropCmd
    dsimp only
    rw [modCrew_some (c := c)]
    · exact crewAt_putCrew_same ..
    · show mapGet (endWrites (releaseMills (endWrites s e e.sv) core e.id) e false).crews e.slot = some c
      rw [endWrites_crews]
      show mapGet (endWrites s e e.sv).crews e.slot = some c
      rw [endWrites_crews]
      exact hc
  unfold finishCmd
  rw [hreeve, hsv]
  rw [hsv] at hdrop
  dsimp only
  rw [if_neg Bool.false_ne_true, if_neg Bool.false_ne_true, freeCmdLog, modCrew_some hdrop, crewAt_putCrew_same]
  exact congrArg some (if_pos hid)

/-! #### The Dispatcher -/

section
variable {s : State} {slot uid n : Nat} {c : Crew} {u : WorkUnit}

theorem dispatch_completes (hhold : s.pkg.hold = false) (hreset : s.pkg.inReset = false) (hfree : benchFree s slot = true)
    (hearly : earlierBench s slot = false) (hpassed : passedOn s (coreOf slot) = false) (hu : choose s slot = some (u, [slot]))
    (hk : u.kind = .fresh) (hr : Docket.rst u.docket = false) (hz : Docket.lsz u.docket = 0) (hl : u.left = []) :
    completes (.dispatch slot) s fun t => crewHas t slot fun d => d.uid = u.uid ∧ d.state = .running ∧ d.counter = 0 := by
  obtain ⟨hgo, -, hcrew⟩ := dispatchCreatesItsCrew
  have hi := ((hgo s slot hhold hreset hfree).1 u [slot] hu).1 hearly (by rw [List.any_cons, hpassed]; rfl)
  exact completes_next hi ⟨_, crewAt_dispatchUnit hk hr hz hl, rfl, rfl, rfl⟩

theorem docketPromotion_completes (hhold : s.pkg.hold = false) (hu : mapGet s.units uid = some u)
    (hin : s.dispatcher.store.contains uid = true) (hlt : u.prio < 7) : completes (.docketPromotion uid) s fun t =>
      (mapGet t.units uid).map (·.prio) = some (u.prio + 1) ∧ t.dispatcher.store.getLast? = some uid := by
  refine completes_next (((promotionAndReservation s uid hhold).1 u hu hin).1 hlt) ⟨?_, List.getLast?_concat⟩
  dsimp only
  rw [mapGet_mapSet_same]
  rfl

theorem gangReservation_completes (hhold : s.pkg.hold = false) (hf : (unreserved s).find? (·.uid == uid) = some u)
    (hb : bestCluster s u = some n) (hr : reservation s n = none)
    (hfirst : ∀ v ∈ unreserved s, v.seq < u.seq → bestCluster s v ≠ some n) :
    completes (.gangReservation uid) s fun t => mapGet t.dispatcher.reserved n = some uid :=
  completes_next ((promotionAndReservation s uid hhold).2 u n hf hb hr hfirst) (mapGet_mapSet_same _ _ _)

/-- A member that is not the last of its unit leaves its bench, and its unit keeps the rest. -/
theorem crewRetire_leaves (hc : crewAt s slot = some c) (hslot : slot < 1024) (hm : mayRetire s slot c = true)
    (hu : mapGet s.units c.uid = some u) (hid : u.uid = c.uid) (hmore : u.left.length + 1 < u.members.length) :
    completes (.crewRetire slot) s fun t =>
      crewAt t slot = none ∧ (mapGet t.units c.uid).map (·.left) = some (u.left ++ [c.member]) := by
  have hbench : isReeve slot = false := decide_eq_false (Nat.not_le.2 hslot)
  have hgo : ¬(isReeve slot || !mayRetire s slot c) = true := by rw [hbench, hm]; decide
  have hnot : ¬(u.left ++ [c.member]).length ≥ u.members.length := by
    rw [List.length_append, List.length_singleton]
    omega
  obtain ⟨cores, hr⟩ := releaseCore_frame { s with crews := mapErase s.crews slot } slot c.crewId
  have hi := exec_crewRetire slot s
  unfold execCrewRetire at hi
  rw [hc] at hi
  dsimp only at hi
  rw [if_neg hgo, hr] at hi
  dsimp only at hi
  rw [hu] at hi
  dsimp only at hi
  rw [if_neg hnot] at hi
  refine completes_next hi ⟨mapGet_mapErase_same _ _, ?_⟩
  dsimp only
  rw [hid, mapGet_mapSet_same]
  rfl

theorem crewRetire_ends (hc : crewAt s slot = some c) (hslot : slot < 1024) (hb : s.balked = false) (hm : mayRetire s slot c = true)
    (hu : mapGet s.units c.uid = some u) (hid : u.uid = c.uid) (hl : u.left = []) (hn : u.members.length = 1)
    (hj : Docket.jn u.docket = false) (hz : Docket.join u.docket = 0) :
    completes (.crewRetire slot) s fun t => crewAt t slot = none ∧ mapGet t.units c.uid = none := by
  obtain ⟨t, hi, hcrew, -, hunit, -⟩ := (crewRetires s slot c hc hslot hb).2.2 u hm hu hid hl hn hj hz
  exact completes_next hi ⟨hcrew, hunit⟩

end

/-! #### The Carter and the Gleaner -/

section
variable {s : State} {slot tile n core : Nat} {c : Crew} {b : CircBuf} {e : EngCmd} {rest : List EngCmd} {ns : List Nat}

theorem exec_cbSlotFree (slot tile : Nat) (s : State) : exec (.cbSlotFree slot tile) s = execCbSlotFree slot tile s := rfl
theorem exec_copyCmdStart (core : Nat) (s : State) : exec (.copyCmdStart core) s = execCopyCmdStart core s := rfl
theorem exec_copyCmdComplete (core : Nat) (s : State) : exec (.copyCmdComplete core) s = execCopyCmdComplete core s := rfl
theorem exec_gleanerFill (slot : Nat) (s : State) : exec (.gleanerFill slot) s = execGleanerFill slot s := rfl

theorem cbSlotFree_completes (hc : crewAt s slot = some c) (hb : mapGet c.circ tile = some b) (hr : b.releasing = n :: ns)
    (hv : (c.vstores.any fun v => decide (v.issued ≤ n)) = false) : completes (.cbSlotFree slot tile) s fun t => crewHas t slot fun d =>
      (mapGet d.circ tile).map (fun x => (x.releasing, x.free, x.fill)) =
        some (ns, if b.out then b.free else b.free + 1, if b.out then b.fill + 1 else b.fill) := by
  have hi := exec_cbSlotFree slot tile s
  simp only [execCbSlotFree, hc, hb, hr, hv, Bool.false_eq_true, if_false] at hi
  refine completes_next hi ⟨_, crewAt_putCrew_same .., ?_⟩
  dsimp only
  rw [mapGet_mapSet_same]
  rfl

/-- A command of the Carter as it starts. -/
def startedCmd (e : EngCmd) : EngCmd := { e with consumed := true, started := true }

theorem copyCmdStart_completes {s1 s2 : State} {e' : EngCmd} (hq : (coreAt s core).copyQ = e :: rest)
    (hroom : (coreAt s core).copyRun.length < 4) (hfrozen : cmdFrozen s e = false)
    (hready : ((cmdBuffers s e).all fun q => q.2.ready) = true) (hwait : consumeWait s core e = (true, s1))
    (htake : takeSlots s1 core (startedCmd e) = (e', s2)) :
    let s3 := putCore s2 core { coreAt s2 core with
      copyQ := (coreAt s2 core).copyQ.tail, copyRun := (coreAt s2 core).copyRun ++ [e'] }
    completes (.copyCmdStart core) s fun t => t = spend s3 1 ∨ t = resumeCopy core (spend s3 1) e'.id := by
  intro s3
  have hgo : ¬(decide ((coreAt s core).copyRun.length ≥ 4) || cmdFrozen s e || !((cmdBuffers s e).all (·.2.ready))) = true := by
    rw [decide_eq_false (Nat.not_le.2 hroom), hfrozen, hready]
    decide
  have hi := exec_copyCmdStart core s
  simp only [execCopyCmdStart, hq, if_neg hgo, hwait, show takeSlots s1 core { e with consumed := true, started := true } = (e', s2) from htake] at hi
  refine completes_next hi ?_
  split
  · exact .inl rfl
  · exact .inr rfl

theorem copyCmdComplete_completes (hr : (coreAt s core).copyRun = e :: rest) (hw : e.worked = true) (hheld : e.held = false) :
    completes (.copyCmdComplete core) s fun t => t = finishCmd (giveSlots s e) core e ∧ CmdGone t core e.id := by
  have hi := exec_copyCmdComplete core s
  simp only [execCopyCmdComplete, hr, hw, hheld, Bool.not_false, Bool.and_self, if_true] at hi
  exact completes_next hi ⟨rfl, finishCmd_gone _ _ _⟩

/-- What the crew's oldest Gleaner command does at its step, once it has started. -/
def gleanerStep (s : State) (slot : Nat) (c : Crew) (e : EngCmd) (rest : List EngCmd) : State :=
  match e.kind with
  | .glcfg => finishCmd (modCrew s slot fun c => { c with gleaner := configure c e }) (coreOf slot) e
  | _ =>
    let (v, g) := nextOffset s slot c.gleaner
    let queue := fillFirst v c.gleaner.queue
    let c := { c with gleaner := { g with queue := queue }, glCmds := e :: rest }
    if (queue.filter Option.isNone).length ≤ laterReserved (e :: rest) then finishCmd (putCrew s slot c) (coreOf slot) e
    else putCrew s slot c

theorem execGleanerFill_found (hc : crewAt s slot = some c) (hg : c.glCmds = e :: rest) (hfrozen : cmdFrozen s e = false)
    (hbehind : behindVectors s e = false) (hwv : e.wv = false) :
    exec (.gleanerFill slot) s = .next (gleanerStep s slot c (startedCmd e) rest) := by
  have hgo : ¬((!e.started && cmdFrozen s e) || behindVectors s e) = true := by
    rw [hfrozen, hbehind, Bool.and_false]
    decide
  have hi := exec_gleanerFill slot s
  unfold execGleanerFill at hi
  simp only [hc, hg, if_neg hgo, consumeWait_none hwv] at hi
  rw [hi]
  rfl

theorem gleanerFill_configures (hc : crewAt s slot = some c) (hg : c.glCmds = e :: rest) (hfrozen : cmdFrozen s e = false)
    (hbehind : behindVectors s e = false) (hwv : e.wv = false) (hreeve : isReeve slot = false) (hslot : e.slot = slot)
    (hid : e.crewId = c.crewId) (hsv : e.sv = false) (hk : e.kind = .glcfg) :
    completes (.gleanerFill slot) s fun t => crewHas t slot fun d => d.gleaner = configure c (startedCmd e) := by
  subst hslot
  refine completes_next (execGleanerFill_found hc hg hfrozen hbehind hwv) ?_
  rw [gleanerStep, show (startedCmd e).kind = _ from hk]
  dsimp only
  rw [modCrew_some hc]
  exact ⟨_, crewAt_finishCmd (e := startedCmd e) hreeve hsv (crewAt_putCrew_same ..) hid.symm, rfl⟩

theorem gleanerFill_fills (hc : crewAt s slot = some c) (hg : c.glCmds = e :: rest) (hfrozen : cmdFrozen s e = false)
    (hbehind : behindVectors s e = false) (hwv : e.wv = false) (hreeve : isReeve slot = false) (hslot : e.slot = slot)
    (hid : e.crewId = c.crewId) (hsv : e.sv = false) (hk : e.kind = .glgo) :
    completes (.gleanerFill slot) s fun t => crewHas t slot fun d =>
      d.gleaner.queue = fillFirst (nextOffset s slot c.gleaner).1 c.gleaner.queue := by
  subst hslot
  refine completes_next (execGleanerFill_found hc hg hfrozen hbehind hwv) ?_
  rw [gleanerStep, show (startedCmd e).kind = _ from hk]
  dsimp only
  split
  · exact ⟨_, crewAt_finishCmd (e := startedCmd e) hreeve hsv (crewAt_putCrew_same ..) hid.symm, rfl⟩
  · exact ⟨_, crewAt_putCrew_same .., rfl⟩

end

/-! #### The matrix engine -/

section
variable {s : State} {core slot : Nat} {unit : MatrixUnit} {e : EngCmd} {c : Crew}

theorem mclaimGrant_completes {before after : List Claim} {q : Claim} (hc : crewAt s slot = some c)
    (hf : ((coreAt s core).matQ.find? fun f => f.slot == slot && f.crewId == c.crewId) = some e) (hk : e.kind = .mclaim)
    (hwv : e.wv = false) (hmay : mayStart s (coreAt s core) e = true) (hg : grantable (coreAt s core) c.crewId = true)
    (holder : olderStarts s core e.id = false) (hclaims : (coreAt s core).claims = before ++ q :: after)
    (hb : ∀ p ∈ before, ¬(p.crewId = c.crewId ∧ p.granted = false)) (hid : q.crewId = c.crewId) (hq : q.granted = false) :
    completes (.mclaimGrant core slot) s fun t => (coreAt t core).claims = before ++ { q with granted := true } :: after ∧
      (coreAt t core).matRun = (coreAt s core).matRun ++ [startedCmd e] := by
  obtain ⟨t, -, hi, hrun, hcl, -⟩ := claimsAreGranted s core slot c e hc hf hk hwv hmay hg holder before q after hclaims hb hid hq
  exact completes_next hi ⟨hcl, hrun⟩

/-- The command as it is started: an MGO latches its crew's shadow table and pattern first. -/
theorem startMatrix_latched {l : EngCmd}
    (hl : l = if e.kind = .mgo then match issuer s e with | some d => latchNest e d | none => e else e) :
    startMatrix s core e = if startOk (coreAt s core) l then runMatrix s core l else stopCmd s core l 0x01 0xD true := by
  subst hl
  unfold startMatrix
  by_cases hk : e.kind = .mgo
  · rw [if_pos hk]
    cases issuer s e with
    | none => rfl
    | some d =>
      dsimp only
      rw [if_pos hk]
  · rw [if_neg hk]
    cases issuer s e with
    | none => rfl
    | some d =>
      dsimp only
      rw [if_neg hk]

theorem matrixCmdStart_completes {l : EngCmd} (hq : (coreAt s core).matQ = [e]) (hu : e.kind.unit = unit) (hclaim : e.kind ≠ .mclaim)
    (hwv : e.wv = false) (hmay : mayStart s (coreAt s core) e = true)
    (hl : l = if e.kind = .mgo then match issuer s e with | some d => latchNest e d | none => e else e) :
    (startOk (coreAt s core) l = true → completes (.matrixCmdStart core unit) s fun t =>
      (coreAt t core).matQ = [] ∧ (coreAt t core).matRun = (coreAt s core).matRun ++ [startedCmd l]) ∧
    (startOk (coreAt s core) l = false → completes (.matrixCmdStart core unit) s fun t => t = stopCmd s core l 0x01 0xD true) := by
  have hone : (coreAt s core).matQ.filter (fun f => f.kind.unit == unit) = [e] := by simp [hq, hu]
  have hid : l.id = e.id := by
    rw [hl]
    split
    · split <;> rfl
    · rfl
  have hi := exec_matrixCmdStart core unit s
  rw [execMatrixCmdStart, hone, startFirst_one hclaim hwv hmay, startMatrix_latched hl] at hi
  refine ⟨fun hok => ?_, fun hbad => ?_⟩
  · rw [if_pos hok, runMatrix_one fun f hf => ?_] at hi
    · refine completes_next hi ?_
      rw [coreAt_putCore_same]
      exact ⟨rfl, rfl⟩
    · rw [hq] at hf
      rw [List.mem_singleton.1 hf, hid]
  · rw [if_neg (Bool.eq_false_iff.1 hbad)] at hi
    exact completes_eq hi

theorem matrixCmdComplete_completes (hf : (coreAt s core).matRun.find? (fun f => f.kind.unit == unit) = some e)
    (hb : behindVectors s e = false) : completes (.matrixCmdComplete core unit) s fun t =>
      t = finishCmd (matrixEffect s core e) core e ∧ CmdGone t core e.id :=
  completes_next ((matrixCommandsStartAndComplete s core unit e).2.2.2 hf hb) ⟨rfl, finishCmd_gone _ _ _⟩

end

/-! #### The bank queue -/

section
variable {s s1 s2 : State} {core n : Nat} {e : EngCmd} {rest : List EngCmd}

theorem bankQueueCmdStart_prepares (hq : (coreAt s core).bankQ = e :: rest) (hmay : headMay (coreAt s core) e = true)
    (hheld : e.held = false) (hready : e.readyAt = none) (hfrozen : e.started = true ∨ cmdFrozen s e = false)
    (hwait : consumeWait s core e = (true, s1)) :
    exec (.bankQueueCmdStart core) s = .next (prepareHead s1 core { e with consumed := true, started := e.wv }) := by
  have hstart : (!e.started && cmdFrozen s e) = false := by
    obtain h | h := hfrozen <;> rw [h]
    · rfl
    · exact Bool.and_false _
  have hgo : ¬(e.held || e.readyAt.isSome || (!e.started && cmdFrozen s e) || !headMay (coreAt s core) e) = true := by
    rw [hheld, hready, hstart, hmay]
    decide
  have hi := exec_bankQueueCmdStart core s
  simp only [execBankQueueCmdStart, hq, if_neg hgo, hwait] at hi
  exact hi

theorem prepareHead_bqcmd {bs : List Byte} (hk : e.kind = .bqcmd) (hlatch : e.latch = [])
    (hread : engineRead s e e.xa.toNat 64 = .ok bs s2) (hbad : recBad (bytesWords 8 bs) = false)
    (hmis : recMisaligned (bytesWords 8 bs) = none) (hmw : recMW (bytesWords 8 bs) = false) :
    prepareHead s core e = makeReady s2 core { e with latch := bytesWords 8 bs } := by
  simp only [prepareHead, hk, hlatch, List.isEmpty_nil, if_true, hread, checkRecord, hbad, hmis, waitRecord, hmw]
  rfl

theorem winfenceStart_completes (hq : (coreAt s core).bankQ = e :: rest) (hmay : headMay (coreAt s core) e = true)
    (hheld : e.held = false) (hready : e.readyAt = none) (hfrozen : e.started = true ∨ cmdFrozen s e = false)
    (hwait : consumeWait s core e = (true, s1)) (hk : e.kind = .winfence) (hwv : e.wv = false) :
    completes (.bankQueueCmdStart core) s fun t =>
      (coreAt t core).bankQ = rest ∧ (coreAt t core).bankRun = (coreAt s core).bankRun ++ [startedCmd e] := by
  have hi := bankQueueCmdStart_prepares hq hmay hheld hready hfrozen hwait
  rw [consumeWait_none hwv] at hwait
  obtain rfl : s = s1 := (Prod.mk.inj hwait).2
  rw [prepareHead_winfence (e := { e with consumed := true, started := e.wv }) hk] at hi
  refine completes_next hi ?_
  rw [coreAt_putCore_same, hq]
  exact ⟨rfl, rfl⟩

theorem grantMills_cores (s : State) (core : Nat) (e : EngCmd) : (grantMills s core e).cores = s.cores :=
  List.foldlRecOn (motive := fun t : State => t.cores = s.cores) _ _ rfl fun _ ht _ _ => ht

/-- The Mills that a grant names are its command's. -/
theorem foldl_putMill_holder {f : MillState → Nat → MillState} {o : Nat × Nat} (hf : ∀ v m, (f v m).holder = some o) (l : List Nat)
    (s : State) (m : Nat) (h : m ∈ l ∨ (millAt s m).holder = some o) :
    (millAt (l.foldl (fun s m => putMill s m (f (millAt s m) m)) s) m).holder = some o := by
  induction l generalizing s with
  | nil => exact h.resolve_left List.not_mem_nil
  | cons a l ih =>
    refine ih _ ?_
    by_cases ha : m = a
    · subst ha
      refine .inr ?_
      exact (congrArg MillState.holder (mapGetD_mapSet_same _ _ _ _)).trans (hf _ _)
    · obtain h | h := h
      · exact .inl ((List.mem_cons.1 h).resolve_left ha)
      · refine .inr ?_
        rw [← h]
        exact congrArg MillState.holder (congrArg (·.getD MillState.reset) (mapGet_mapSet_other _ _ ha))

/-- A Mill as a grant leaves it. -/
def grantedMill (core : Nat) (e : EngCmd) (v : MillState) (m : Nat) : MillState :=
  match e.kind with
  | .bqcmd => kernelStart v core e (m - recFirst e.latch)
  | _ => { v with holder := some (core, e.id) }

theorem grantedMill_holder (core : Nat) (e : EngCmd) (v : MillState) (m : Nat) :
    (grantedMill core e v m).holder = some (core, e.id) := by
  unfold grantedMill
  split <;> rfl

theorem grantMills_eq (s : State) (core : Nat) (e : EngCmd) : grantMills s core e =
    ((List.range mills).filter (millsNamed e)).foldl (fun s m => putMill s m (grantedMill core e (millAt s m) m)) s := rfl

theorem grantMills_holder (s : State) (core : Nat) (e : EngCmd) {m : Nat} (hm : m < 512) (hn : millsNamed e m = true) :
    (millAt (grantMills s core e) m).holder = some (core, e.id) := by
  rw [grantMills_eq]
  exact foldl_putMill_holder (grantedMill_holder core e) _ _ _ (.inl (List.mem_filter.2 ⟨List.mem_range.2 hm, hn⟩))

theorem millGrant_completes (hq : (coreAt s core).bankQ = e :: rest) (hhead : headMay (coreAt s core) e = true)
    (hready : e.readyAt.isSome = true) (hroom : (coreAt s core).bankRun.length < 4) (hmay : mayGrant s core e = true)
    (hhold : s.pkg.hold = false ∨ e.kind = .bqload) : completes (.millGrant core) s fun t =>
      (coreAt t core).bankQ = rest ∧ (coreAt t core).bankRun = (coreAt s core).bankRun ++ [e] ∧
        ∀ m < 512, millsNamed e m = true → (millAt t m).holder = some (core, e.id) := by
  have hgo : (e.readyAt.isSome && decide ((coreAt s core).bankRun.length < 4) && headMay (coreAt s core) e && mayGrant s core e &&
      (!s.pkg.hold || e.kind == .bqload)) = true := by
    rw [hready, decide_eq_true hroom, hhead, hmay]
    obtain h | h := hhold <;> rw [h]
    · rfl
    · exact Bool.or_true _
  have hi := exec_millGrant core s
  simp only [execMillGrant, hq, hgo, if_true] at hi
  refine completes_next hi ?_
  rw [coreAt_of_cores (grantMills_cores _ _ _), coreAt_putCore_same]
  exact ⟨rfl, rfl, fun m hm hn => grantMills_holder _ _ _ hm hn⟩

theorem bqcmdComplete_completes (hf : (coreAt s core).bankRun.find? (·.id == n) = some e) (hk : e.kind = .bqcmd)
    (hheld : e.held = false) (hended : (heldMills s core n).all (·.ended) = true) :
    (e.progress ≠ 0 → recMS e.latch = false → completes (.bqcmdComplete core n) s fun t =>
      t = finishCmd s core e ∧ CmdGone t core e.id) ∧
    (e.progress = 0 → recStat e.latch = 0 → completes (.bqcmdComplete core n) s fun t =>
      t = afterStatus (drainRings (returnBanks s core n)) core e) := by
  have hi := execBqcmdComplete_ended hf hk hheld hended
  refine ⟨fun hp hms => ?_, fun hp hstat => ?_⟩
  · rw [if_neg hp, signalRecord, hms] at hi
    exact completes_next hi ⟨rfl, finishCmd_gone _ _ _⟩
  · rw [if_pos hp, writeStatus_silent hstat] at hi
    exact completes_eq hi

theorem winfenceComplete_completes (hf : (coreAt s core).bankRun.find? (·.kind == .winfence) = some e)
    (hw : fenceWaits s e = false) : completes (.winfenceComplete core) s fun t => CmdGone t core e.id ∧
      t = finishCmd { s with crossings := s.crossings.filter (·.unordered s e.crewId) } core e := by
  have hi := execWinfenceComplete_found hf
  rw [if_neg (Bool.eq_false_iff.1 hw)] at hi
  exact completes_next hi ⟨finishCmd_gone _ _ _, rfl⟩

end

/-! #### The Porter -/

section
variable {s s1 : State} {core n : Nat} {e : EngCmd} {rest : List EngCmd}

theorem porterCmdStart_completes (hq : (coreAt s core).portQ = e :: rest) (hroom : (coreAt s core).portRun.length < 8)
    (hfrozen : cmdFrozen s e = false) (hmay : porterMay s (coreAt s core) e = true) (hwait : consumeWait s core e = (true, s1)) :
    let s2 := spend (putCore s1 core { coreAt s1 core with
      portQ := (coreAt s1 core).portQ.tail, portRun := (coreAt s1 core).portRun ++ [startedCmd e] }) 1
    completes (.porterCmdStart core) s fun t => t = s2 ∨ t = workCmd core (porterWork core) s2 (startedCmd e) := by
  intro s2
  have hgo : ¬(decide (8 ≤ (coreAt s core).portRun.length) || cmdFrozen s e || !porterMay s (coreAt s core) e) = true := by
    rw [decide_eq_false (Nat.not_le.2 hroom), hfrozen, hmay]
    decide
  have hi := exec_porterCmdStart core s
  simp only [execPorterCmdStart, hq, if_neg hgo, hwait] at hi
  refine completes_next hi ?_
  split
  · exact .inl rfl
  · exact .inr rfl

theorem porterCmdComplete_completes (hf : (coreAt s core).portRun.find? (·.id == n) = some e) (hheld : e.held = false)
    (hw : e.worked = true) (hu : unanswered s core n = false)
    (hk : e.kind ∈ [EngKind.fld, .fst, .fget, .fput, .ffadd, .fmcast, .fsig]) :
    completes (.porterCmdComplete core n) s fun t => t = finishCmd s core e ∧ CmdGone t core e.id := by
  have hi := (execPorterCmdComplete_found hf hheld).2 hw hk
  rw [if_neg (Bool.eq_false_iff.1 hu)] at hi
  exact completes_next hi ⟨rfl, finishCmd_gone _ _ _⟩

end

theorem dispatcherAndEngineEventsComplete : DispatcherAndEngineEventsComplete := by
  intro s slot uid tile n core c u b e rest ns unit k started gone
  refine ⟨fun hhold => ⟨dispatch_completes hhold, docketPromotion_completes hhold, gangReservation_completes hhold,
      fun hc hslot hm hu hid => ⟨crewRetire_leaves hc hslot hm hu hid, fun hb hl hn hj hz =>
        crewRetire_ends hc hslot hb hm hu hid hl hn hj hz⟩⟩,
    cbSlotFree_completes, fun s1 s2 e' => copyCmdStart_completes, copyCmdComplete_completes,
    fun hc hg hfrozen hbehind hwv hreeve hslot hid hsv =>
      ⟨gleanerFill_configures hc hg hfrozen hbehind hwv hreeve hslot hid hsv,
        gleanerFill_fills hc hg hfrozen hbehind hwv hreeve hslot hid hsv⟩,
    fun before q after => mclaimGrant_completes,
    fun hq hu hclaim hwv hmay l hl => matrixCmdStart_completes hq hu hclaim hwv hmay hl,
    matrixCmdComplete_completes,
    fun s1 hq hhead hheld => ⟨fun hready hfrozen hwait => ?_, fun hready hroom hmay hhold =>
      millGrant_completes hq hhead hready hroom hmay hhold⟩,
    fun hf hk hheld hended => bqcmdComplete_completes hf hk hheld hended,
    fun s1 d hf hheld hw => completes_eq ((execBqloadComplete_found hf hheld _ rfl).1 s1 d hw),
    winfenceComplete_completes, fun s1 => porterCmdStart_completes, fun hf hheld hw hu hk =>
      porterCmdComplete_completes hf hheld hw hu hk⟩
  have hi := bankQueueCmdStart_prepares hq hhead hheld hready hfrozen hwait
  refine ⟨winfenceStart_completes hq hhead hheld hready hfrozen hwait, fun hk => ?_, fun bs s2 hk hlatch hread hbad hmis hmw => ?_⟩
  · rw [prepareHead_bqload (e := { e with consumed := true, started := e.wv }) hk] at hi
    exact completes_eq hi
  · rw [prepareHead_bqcmd (e := { e with consumed := true, started := e.wv }) hk hlatch hread hbad hmis hmw] at hi
    exact completes_eq hi

end Sys2Proof.Machine
end

/-! ### The events of the Mills, the fabric, the Reeves and the package complete -/

section
namespace Sys2Proof.Machine
open Sys2Proof.Claims Sys2Proof.Config

/-! #### The Mills -/

section
variable {s : State} {m n : Nat}

theorem millWatchdog_completes (h : millRuns s m = true) :
    completes (.millWatchdog m) s fun t => (millAt t m).ended = true ∧ (millAt t m).chan.getLsbD 11 = true := by
  obtain ⟨hi, -⟩ := wheelWatchdogAndScrub s m 0 0 0
  have hmill : millAt (putMill s m (endKernel (millAt s m) chanWD)) m = endKernel (millAt s m) chanWD := mapGetD_mapSet_same _ _ _ _
  refine completes_next (hi h) ?_
  rw [hmill]
  refine ⟨rfl, ?_⟩
  rw [endKernel, BitVec.getLsbD_or, BitVec.getLsbD_or]
  simp [chanWD]

theorem wheelSlot_completes (hm : m < 512) (hslot : (millAt s m).wheelSlot < 15) :
    completes (.wheelSlot m) s fun t => (millAt t m).wheelSlot = (millAt s m).wheelSlot + 1 := by
  obtain ⟨-, -, hturn, -⟩ := wheelWatchdogAndScrub s m 0 0 0
  obtain ⟨t, hi, hw, -⟩ := hturn hm hslot
  exact completes_next hi hw

theorem wheelRevolution_completes (hm : m < 512) : completes (.wheelRevolution m) s fun t =>
    (millAt t m).wheelSlot = 0 ∧ (millAt t m).revolution = (millAt s m).revolution + 1 ∧ (millAt t m).share = bits s.pkg.msh 4 0 := by
  obtain ⟨-, -, -, hturn, -⟩ := wheelWatchdogAndScrub s m 0 0 0
  obtain ⟨t, hi, hw, hrev, hshare, -⟩ := hturn hm
  exact completes_next hi ⟨hw, hrev, hshare⟩

theorem hostReservedService_completes {bank row : Nat} {z : Nat × Nat} (hz : oldestRun s m = some z) (hw : (millAt s m).wheelSlot = 0)
    (hr : (millAt s m).revolution % 8 = 0) (hs : (millAt s m).service = none) (ha : memoryAwake s = true) (hb : bankOf z.1 = bank)
    (hrow : rowOf z.1 = row) : completes (.hostReservedService m bank row) s fun t =>
      t = drainRings (putMill (serveRuns s (serviceRuns s z)) m { millAt s m with service := some bank }) := by
  obtain ⟨-, -, -, -, -, hserve, -⟩ := wheelWatchdogAndScrub s m bank row 0
  exact completes_eq ((hserve z hz).2.1 hw hr hs ha hb hrow)

theorem patrolScrub_completes (h : memoryAwake s = true) : completes (.patrolScrub n) s fun t => t.eccStuck = s.eccStuck ∧
    (∀ a, a / 0x60000000 = n → corrects s a = true → mapGet t.eccErr a = none) ∧
    ∀ a, a / 0x60000000 ≠ n ∨ corrects s a = false → mapGet t.eccErr a = mapGet s.eccErr a := by
  obtain ⟨-, -, -, -, -, -, -, hscrub⟩ := wheelWatchdogAndScrub s 0 0 0 n
  obtain ⟨t, hi, hnone, hsame, hstuck, -⟩ := hscrub h
  exact completes_next hi ⟨hstuck, hnone, hsame⟩

end

/-! #### The fabric -/

section
variable {s s1 : State} {n p slot : Nat} {q : Msg} {o : Outstanding} {e : EngCmd} {c : Crew} {y : LogEntry} {tgt : Target}

/-- A request for a crew's access that has had no answer in time. -/
theorem execFabricTimeout_access (hf : s.fabric.outstanding.find? (·.tag == n) = some o) (hacc : o.access = some (slot, y.seq))
    (hc : crewAt s slot = some c) (hy : logEntry c y.seq = some y) (ht : y.tag = some o.tag) :
    exec (.fabricTimeout n) s = .next (remoteTimeout (dropRequest s o) slot c y) := by
  have hcrew : crewAt (dropRequest s o) slot = some c := hc
  have hi := exec_fabricTimeout n s
  simp only [execFabricTimeout, hf, hacc, hcrew, Option.bind_some, hy, Option.map_some, ht, beq_self_eq_true, if_true] at hi
  exact hi

/-- An event that serves requests answers one that is refused, and performs one whose memory serves it. -/
theorem request_served {i : Instr} {opc : Nat} {kind : AccessKind} {size : Msg → Nat} {f : State → Msg → Target → State}
    (hi : exec i s = serve n opc kind size s f) (hq : s.fabric.inbox[n]? = some q) (hphy : q.phy = false) (hopc : q.opc = opc)
    (hf : ∀ u, f u q tgt = performRequest u q tgt) :
    (servedTarget s q kind = (none, s1) → completes i s fun t => t = respond (takeRequest s1 n) q 1 [] 0) ∧
      (servedTarget s q kind = (some tgt, s1) → s1.pkg.hold = false → targetMay s1 tgt (size q) = true →
        completes i s fun t => t = performRequest (takeRequest s1 n) q tgt) := by
  have hr := requestAt_some hq hphy hopc
  refine ⟨fun ht => completes_eq (hi.trans (serve_refuses hr ht)), fun ht hhold hmay => completes_eq ?_⟩
  rw [hi, serve_performs hr ht hhold hmay, hf]

/-- The events that serve the requests of other packages. -/
theorem fabricRequests_serve (hq : s.fabric.inbox[n]? = some q) (hphy : q.phy = false) :
    ∀ z ∈ ([(1, .fabricRead n, .load, q.len), (2, .fabricWrite n, .store, q.len), (3, .fabricFadd n, .atomic, addBytes q),
      (4, .fabricSignal n, .atomic, 8), (5, .fabricMwrite n, .store, q.len)] : List (Nat × Instr × AccessKind × Nat)),
    q.opc = z.1 →
      (servedTarget s q z.2.2.1 = (none, s1) →
        completes z.2.1 s fun t => t = respond (takeRequest s1 n) q 1 [] 0) ∧
      (servedTarget s q z.2.2.1 = (some tgt, s1) → s1.pkg.hold = false → targetMay s1 tgt z.2.2.2 = true →
        completes z.2.1 s fun t => t = performRequest (takeRequest s1 n) q tgt) := by
  simp only [List.forall_mem_cons, List.not_mem_nil, false_imp_iff, implies_true, and_true]
  refine ⟨fun hopc => request_served (exec_fabricRead n s) hq hphy hopc fun u => ?_,
    fun hopc => request_served (exec_fabricWrite n s) hq hphy hopc fun u => ?_,
    fun hopc => request_served (exec_fabricFadd n s) hq hphy hopc fun u => ?_,
    fun hopc => request_served (exec_fabricSignal n s) hq hphy hopc fun u => ?_,
    fun hopc => request_served (exec_fabricMwrite n s) hq hphy hopc fun u => ?_⟩
  all_goals simp only [performRequest, hopc]

theorem physicalLentAccess_completes (hq : s.fabric.inbox[n]? = some q) (hphy : q.phy = true)
    (ht : physicalTarget (BitVec.ofNat 64 q.addr) = .ok tgt) (hl : (q.accepted || lentTo s q) = true) (hhold : s.pkg.hold = false)
    (hmay : targetMay s tgt (requestBytes q) = true) :
    completes (.physicalLentAccess n) s fun t => t = performRequest (takeRequest s n) q tgt :=
  completes_eq (((lentMemoryIsServed s n q hq hphy).2 tgt ht).2.1 hl |>.1 hhold hmay)

theorem fabricResponse_completes (hhold : s.pkg.hold = false) (hq : s.fabric.responses[n]? = some q) :
    (answered s q = none → completes (.fabricResponse n) s fun t => t = takeResponse s n) ∧
    (answered s q = some o → o.access = none → o.cmd = some e.id → e.held = false → e.kind = .fst → q.stat = 0 →
      (coreAt s o.core).portRun.find? (·.id == e.id) = some e → (dropRequest s o).fabric.outstanding.contains o = false →
        completes (.fabricResponse n) s fun t => t = takeResponse (dropRequest s o) n) := by
  obtain ⟨hnone, hfst, -⟩ := responsesAnswerRequests s n n q o e hhold
  exact ⟨fun ha => completes_eq (hnone hq ha), fun ha hacc hcmd hheld hk hstat hf hgone =>
    completes_eq (hfst hq ha hacc hcmd hheld hf hk hstat hgone)⟩

theorem slotTick_completes (h : s.fabric.slot < 256) : completes .slotTick s fun t => t.fabric.slot = s.fabric.slot + 1 := by
  obtain ⟨-, -, htick, -⟩ := flitsSlotsAndFrames s 0 0
  obtain ⟨t, hi, hslot, -⟩ := htick h
  exact completes_next hi hslot

theorem frameStart_completes (h : 256 ≤ s.fabric.slot) (hs : s.fabric.switchAt = none) :
    completes .frameStart s fun t => t.fabric.frame = (s.fabric.frame + 1) % 2 ^ 64 ∧ t.fabric.slot = 0 := by
  obtain ⟨-, -, -, -, -, hstart, -⟩ := flitsSlotsAndFrames s 0 0
  exact completes_next (hstart h hs) ⟨rfl, rfl⟩

end

/-! #### Leases -/

section
variable {s : State} {peer lid reg0 nreg : Nat} {l : Lease}

theorem signalEvent_fabric : (signalEvent s).fabric = s.fabric := by
  unfold signalEvent
  dsimp only
  split
  · rfl
  · split
    · simp
    · simp

theorem drainEvents_leases (n : Nat) (s : State) : (drainEvents s n).fabric.leases = s.fabric.leases := by
  induction n generalizing s with
  | zero => rfl
  | succ n ih =>
    unfold drainEvents
    dsimp only
    split
    · rfl
    · split
      · rw [ih, signalEvent_fabric]
        simp
      · split
        · split <;> simp
        · rfl

theorem leaseEvent_leases (s : State) (kind : Nat) (l : Lease) (d : Word) :
    (leaseEvent s kind l d).fabric.leases = s.fabric.leases := drainEvents_leases _ _

theorem leaseGrantMessage_completes (h : leaseFull s = false) : completes (.leaseGrantMessage peer lid reg0 nreg) s fun t =>
    ∃ b ∈ t.fabric.leases, b.lender = false ∧ b.peer = peer ∧ b.lid = lid ∧ b.reg0 = reg0 ∧ b.nreg = nreg ∧ b.state = .held := by
  have hi : exec (.leaseGrantMessage peer lid reg0 nreg) s = execLeaseGrantMessage peer lid reg0 nreg s := rfl
  rw [execLeaseGrantMessage, if_neg (by rw [h]; decide)] at hi
  refine completes_next hi ⟨⟨false, peer, lid, reg0, nreg, 0, .held, 0, none⟩, ?_, rfl, rfl, rfl, rfl, rfl, rfl⟩
  rw [leaseEvent_leases]
  exact List.mem_append_right _ (List.mem_singleton.2 rfl)

theorem lentLease_answers {status : BitVec 8} (h : lentLease s peer lid = some l) :
    (l.state = .granting → completes (.leaseGrantAnswer peer lid status) s fun t => t = if status = 0
      then leaseAnswered (setLease s l { l with state := .held, cmd := none }) l.cmd 0 else leaseAnswered (dropLease s l) l.cmd 3) ∧
    (l.state = .held → leaseBusy s l = false →
      completes (.leaseReleaseMessage peer lid) s fun t => t = leaseEvent (dropLease s l) 5 l 0) := by
  obtain ⟨hlent, -⟩ := leasesMove s l peer lid 0 0 status 0
  obtain ⟨hanswer, hrelease, -⟩ := hlent h
  refine ⟨fun hs => completes_eq ?_, fun hs hb => completes_eq (hrelease hs hb)⟩
  split
  · next hz => exact (hanswer hs).1 hz
  · next hz => exact (hanswer hs).2 hz

theorem borrowedLease_answers {status : BitVec 8} {deadline : Word} (h : borrowedLease s peer lid = some l) :
    (l.state = .held → completes (.leaseRecallMessage peer lid deadline) s fun t =>
      t = leaseEvent (setLease s l { l with state := .demoting, deadline := deadline }) 2 l deadline) ∧
    (l.cmd.isSome = true → completes (.leaseReleaseAnswer peer lid status) s fun t =>
      t = leaseAnswered (dropLease s l) l.cmd (if status = 0 then 0 else 4)) ∧
    (l.cmd = none → (l.state = .held ∨ l.state = .demoting) → completes (.leaseRevokeMessage peer lid) s fun t =>
      t = leaseEvent (dropLease s l) 3 l 0) := by
  obtain ⟨-, -, -, -, -, hborrowed⟩ := leasesMove s l peer lid 0 0 status deadline
  obtain ⟨hrecall, hanswer, hrevoke⟩ := hborrowed h
  exact ⟨fun hs => completes_eq (hrecall hs), fun hc => completes_eq (hanswer hc), fun hc hs => completes_eq (hrevoke hc hs)⟩

end

end Sys2Proof.Machine
end

/-! ### The events of the Reeves and of the package's condition complete -/

section
namespace Sys2Proof.Machine
open Sys2Proof.Claims Sys2Proof.Config

/-! #### The Reeves -/

section
variable {s s1 : State} {n slot cl : Nat} {c : Crew} {u : WorkUnit} {status : BitVec 8}

theorem haltWake_completes {y : Word} {h : FmtA}
    (hruns : WordRuns { s with cur := .crew (1024 + cl) .s } (1024 + cl) .s c .s true none []) (hm : groupMay s (1024 + cl) = true)
    (hd : isDue c .s = true) (hcl : clusterOf (1024 + cl) = cl) (ht : (reeveAt s cl).trqhead ≠ (reeveAt s cl).trqtail)
    (hf : c.s.fetched = some y) (hw : decodeWord y = .ok (.halt h)) : completes (.haltWake cl) s fun t =>
      t = issued { s with cur := .crew (1024 + cl) .s } (1024 + cl) .s c [] := by
  have hcrew : crewAt s (1024 + cl) = some c := hruns.2.1
  obtain ⟨-, -, -, hwake⟩ := reeveWordsComplete s cl 0 ⟨0, none, 0, 0⟩ []
  refine completes_eq ((hwake c y h hcrew hm hd ht hf hw).trans ((haltAndSplog h _ (1024 + cl) c).1 hruns |>.2 ?_))
  rw [hcl]
  exact ht

theorem hardwareError_completes (hc : crewAt s slot = some c) (hs : slot < 1024) (hu : unitOf s c = some u)
    (hr : Docket.rst u.docket = false) (hn : u.cancelled = false) :
    let lost := trapRecord 3 0x41 0 false (jobOf s c) (benchRef slot c) c.s.pc (status.zeroExtend 64) c.counter 0xFFFF
    let end_ := loseUnit (postRecord ((groupOf s slot c).foldl loseCrew s) (coreOf slot / 8) lost) u
    end_.balked = false → completes (.hardwareError slot status) s fun t => t = end_ := by
  intro lost end_ hb
  obtain ⟨-, -, hunit, -⟩ := hardwareErrorsEndTheirCrew s slot status c hc
  obtain ⟨-, hend, -⟩ := hunit u hs hu
  have heq (rerun : Record) : settleStruck ((groupOf s slot c).foldl loseCrew s) u (coreOf slot) rerun lost = end_ :=
    (settleStruck_cases _ u (coreOf slot) rerun lost).1 hr
  exact completes_eq ((hend hn ((congrArg State.balked (heq _)).trans hb)).trans (congrArg _ (heq _)))

end

/-! #### Droop, HOLD and the orderly stop -/

section
variable {s : State} {cl p : Nat} {len : BitVec 12} {status : BitVec 8}

theorem droopDetect_completes (hc : cl < 8) (hb : s.pkg.stretched.getLsbD cl = false) : completes (.droopDetect cl) s fun t =>
    t.pkg.stretched.getLsbD cl = true ∧ bits t.pkg.droopst 19 0 = min (bits s.pkg.droopst 19 0 + 1) (2 ^ 20 - 1) := by
  obtain ⟨hi, -⟩ := conditionRegisters s cl 0 0 0 0 0 0
  refine completes_next (hi hc hb) ⟨?_, bits_withBits_same (by decide) (by omega)⟩
  simp [hc]

theorem droopRecover_completes : completes (.droopRecover cl) s fun t => t.pkg.stretched.getLsbD cl = false := by
  obtain ⟨-, hi, -⟩ := conditionRegisters s cl 0 0 0 0 0 0
  refine completes_next hi ?_
  simp

theorem holdEntry_completes (h : s.pkg.hold = false) : completes .holdEntry s fun t =>
    t.pkg.hold = true ∧ bits t.pkg.droopst 39 20 = min (bits s.pkg.droopst 39 20 + 1) (2 ^ 20 - 1) := by
  obtain ⟨-, -, hi, -⟩ := conditionRegisters s 0 0 0 0 0 0 0
  exact completes_next (hi h) ⟨rfl, bits_withBits_same (by decide) (by omega)⟩

theorem holdExit_completes (h : s.pkg.hold = true) : completes (.holdExit len) s fun t =>
    t.pkg.hold = false ∧ t.pkg.stretched = 0 ∧ bits t.pkg.droopst 51 40 = len.toNat := by
  obtain ⟨-, -, -, hi, -⟩ := conditionRegisters s 0 0 len 0 0 0 0
  refine completes_next (hi h) ?_
  obtain ⟨_, _, _, _, _, _, _, _, _, hrings⟩ := drainRings_onlyRings
    { s with pkg := { s.pkg with hold := false, stretched := 0, droopst := withBits s.pkg.droopst 51 40 len.toNat } }
  rw [hrings]
  exact ⟨rfl, rfl, bits_withBits_same (by decide) len.isLt⟩

theorem orderlyStop_completes (h : status = 2 ∨ (status = 1 ∧ s.pkg.hold = true)) : completes (.orderlyStop status) s fun t =>
    t.pkg.powered = false ∧ t.crews = [] ∧ bits t.pkg.droopst 63 56 = status.toNat := by
  obtain ⟨r, hi⟩ := orderlyStop_stops h
  exact completes_next hi ⟨rfl, rfl, bits_withBits_same (by decide) status.isLt⟩

/-! #### Retraining -/

theorem ngugrimRetrainStart_completes (h : s.port.retrain = false) :
    completes .ngugrimRetrainStart s fun t => t.port.retrain = true ∧ t.pkg.linkst.getLsbD 12 = true := by
  obtain ⟨-, -, -, -, hi, -⟩ := conditionRegisters s 0 0 0 0 0 0 0
  refine completes_next (hi h) ⟨rfl, ?_⟩
  rw [getLsbD_withBits, if_neg (by decide), BitVec.getLsbD_or]
  simp

theorem recordWritten_retrain (s : State) (key : Nat) : (recordWritten s key).port.retrain = s.port.retrain := by
  unfold recordWritten
  split <;> rfl

theorem drainEnded_retrain (n : Nat) (s : State) : (drainEnded s n).port.retrain = s.port.retrain := by
  induction n generalizing s with
  | zero => rfl
  | succ n ih =>
    unfold drainEnded
    split
    · rfl
    · split
      · exact (ih _).trans (recordWritten_retrain _ _)
      · rfl

theorem ngugrimRetrainEnd_completes (h : s.port.retrain = true) :
    completes .ngugrimRetrainEnd s fun t => t.port.retrain = false ∧ t.pkg.linkst.getLsbD 12 = false := by
  have hi : exec .ngugrimRetrainEnd s = execNgugrimRetrainEnd s := rfl
  rw [execNgugrimRetrainEnd, if_pos h] at hi
  refine completes_next hi ⟨drainEnded_retrain _ _, ?_⟩
  obtain ⟨_, _, _, hlevels⟩ := drainEnded_onlyLevels s.port.ended.length
    (modPackage { s with port := { s.port with retrain := false } } fun p => { p with linkst := p.linkst &&& ~~~0x1000 })
  unfold flushEnded
  rw [show (modPackage { s with port := { s.port with retrain := false } } fun p =>
    { p with linkst := p.linkst &&& ~~~0x1000 }).port.ended.length = s.port.ended.length from rfl, hlevels]
  show (s.pkg.linkst &&& ~~~0x1000).getLsbD 12 = false
  rw [BitVec.getLsbD_and]
  simp

theorem linkRetrainStart_completes (hp : p < 12) (hr : (portAt s p).retraining = false) (hd : (portAt s p).down = false) :
    completes (.linkRetrainStart p) s fun t => (portAt t p).retraining = true ∧ t.pkg.linkst.getLsbD p = true := by
  obtain ⟨-, -, -, -, -, -, -, hi, -⟩ := conditionRegisters s 0 p 0 0 0 0 0
  have hport : portAt (putPort s p { portAt s p with retraining := true, wire := none }) p =
      { portAt s p with retraining := true, wire := none } := mapGetD_mapSet_same _ _ _ _
  refine completes_next (hi hp hr hd) ⟨congrArg LinkPort.retraining hport, ?_⟩
  rw [BitVec.getLsbD_or]
  simp
  omega

theorem linkRetrainEnd_completes (hr : (portAt s p).retraining = true) :
    completes (.linkRetrainEnd p) s fun t => (portAt t p).retraining = false ∧ t.pkg.linkst.getLsbD p = false := by
  have hi : exec (.linkRetrainEnd p) s = execLinkRetrainEnd p s := rfl
  have hgo : ¬ (!(portAt s p).retraining) = true := by rw [hr]; decide
  have hport (l : LinkPort) : portAt (putPort s p l) p = l := mapGetD_mapSet_same _ _ _ _
  simp only [execLinkRetrainEnd, if_neg hgo] at hi
  refine completes_next hi ⟨congrArg LinkPort.retraining (hport _), ?_⟩
  show (portBit s.pkg.linkst 0 p false).getLsbD p = false
  rw [portBit_zero]
  simp

theorem linkDown_completes (hp : p < 12) (hr : (portAt s p).retraining = true) :
    completes (.linkDown p) s fun t => (portAt t p).down = true ∧ t.pkg.linkst.getLsbD (14 + p) = true := by
  obtain ⟨-, -, -, -, -, -, -, -, -, hdown, -⟩ := conditionRegisters s 0 p 0 0 0 0 0
  obtain ⟨t, hi, hd, -, -, hbit, -⟩ := hdown hp hr
  exact completes_next hi ⟨hd, hbit⟩

/-! #### Shocks, boot and wear -/

theorem shockEvent_completes {peak : BitVec 16} (h : 40 ≤ peak.toNat) :
    completes (.shockEvent peak) s fun t => t.pkg.shocks = (peak :: s.pkg.shocks).take 64 := by
  obtain ⟨t, hi, hlog, -⟩ := shockEvent_entersTheLog (s := s) h
  exact completes_next hi hlog

theorem energyStoreDepleted_completes : completes .energyStoreDepleted s fun t => t.pkg.shockst.getLsbD 3 = true := by
  obtain ⟨-, -, -, -, -, -, -, -, -, -, -, -, hi, -⟩ := conditionRegisters s 0 0 0 0 0 0 0
  refine completes_next hi ?_
  rw [BitVec.getLsbD_or]
  simp

theorem packageBoot_completes {x : BootOutcome} (hs : x.signatureOk = true) (ha : bootAllowed s x = true) :
    completes (.packageBoot x) s fun t => t.pkg.inReset = false ∧ ∀ k < 8, (crewAt t (1024 + k)).isSome = true := by
  obtain ⟨-, hboot, -⟩ := bootAndStop s x 0
  obtain ⟨t, hi, hreset, -, -, -, -, -, -, -, -, -, hreeves, -⟩ := hboot hs ha
  exact completes_next hi ⟨hreset, hreeves⟩

theorem wearUpdate_completes {days : BitVec 16} {limit : BitVec 3} {hours : BitVec 32} (h : limit.toNat ≤ 5) :
    completes (.wearUpdate days limit hours) s fun t => bits t.pkg.weareol 63 48 = days.toNat ∧
      bits t.pkg.weareol 34 32 = limit.toNat ∧ bits t.pkg.weareol 31 0 = hours.toNat := by
  obtain ⟨-, -, -, -, -, -, -, -, -, -, -, -, -, hi⟩ := conditionRegisters s 0 0 0 0 days limit hours
  refine completes_next (hi h) ?_
  have hd := days.isLt
  have hl := limit.isLt
  have hh := hours.isLt
  simp only [bits, BitVec.toNat_ofNat, Nat.shiftRight_eq_div_pow]
  refine ⟨?_, ?_, ?_⟩ <;> omega

end

end Sys2Proof.Machine
end

/-! ### What a turn keeps: the canonical memories, and the command port's registers

Every function that gives a state is followed once, for the memories of every turn (log 3), and for the registers of the command
port in what NGUGRIM_RETRAIN_TIMEOUT does (R417). -/

section
namespace Sys2Proof.Machine
open Sys2Proof.Claims Sys2Proof.Config

/-- What is followed through a turn: the memories are canonical, where w asks for it, and the port's registers are those of p,
where it names some. -/
def Kept (w : Bool) (p : Option Port) (s : State) : Prop := (w = true → s.memoriesWf = true) ∧ ∀ q, p = some q → s.port = q

/-- What is followed, of a state beside a result. -/
def KeptWith {α : Type} (w : Bool) (p : Option Port) (r : α × State) : Prop := Kept w p r.2
/-- What is followed, of a state before a result. -/
def KeptFst {α : Type} (w : Bool) (p : Option Port) (r : State × α) : Prop := Kept w p r.1
/-- What is followed, of a state that may be. -/
def KeptOpt (w : Bool) (p : Option Port) (r : Option State) : Prop := ∀ t, r = some t → Kept w p t
/-- What is followed, of the outcome of a turn. -/
def KeptOut (w : Bool) (p : Option Port) (r : Out) : Prop := ∀ t, r = .next t → Kept w p t
/-- What is followed, of what a word does. -/
def KeptEffect (w : Bool) (p : Option Port) : Effect → Prop
  | .done s _ => Kept w p s
  | .jump s _ _ _ => Kept w p s
  | .stall s => Kept w p s
  | _ => True

/-- What is followed, of a command's work. -/
def KeptWorked (w : Bool) (p : Option Port) : Worked → Prop
  | .more s _ => Kept w p s
  | .finished s _ => Kept w p s
  | .wait s _ => Kept w p s
  | .fault s _ _ _ => Kept w p s

/-- What is followed, of an access of a command. -/
def KeptMoved {α : Type} (w : Bool) (p : Option Port) : Moved α → Prop
  | .ok _ s => Kept w p s
  | .wait s => Kept w p s
  | .fault _ _ s => Kept w p s

/-- What is followed, of what a Mill's word does. -/
def KeptMill (w : Bool) (p : Option Port) : MillEnd → Prop
  | .done s _ => Kept w p s
  | .jump s _ _ _ => Kept w p s
  | .ends s _ _ => Kept w p s
  | .waits s _ => Kept w p s

/-- What is followed, of a creation that may meet a fault. -/
def KeptExcept {ε : Type} (w : Bool) (p : Option Port) : Except (ε × State) State → Prop
  | .ok s => Kept w p s
  | .error r => Kept w p r.2

/-- What is followed, of a state beside a result that may be. -/
def KeptOptWith {α : Type} (w : Bool) (p : Option Port) (r : Option (α × State)) : Prop := ∀ a t, r = some (a, t) → Kept w p t

/-- What is followed, of a context word that ends or must wait. -/
def KeptEnd {α : Type} (w : Bool) (p : Option Port) : Except State (α × State) → Prop
  | .ok r => Kept w p r.2
  | .error s => Kept w p s

/-- What is followed, of the words of a clk that are tried. -/
def KeptTries {α : Type} (w : Bool) (p : Option Port) : Except Out (α × State) → Prop
  | .ok r => Kept w p r.2
  | .error o => KeptOut w p o

section
variable {α : Type} {w : Bool} {p : Option Port} {s t : State}

/-! #### The rules -/

theorem Kept.wf (h : Kept true p s) : s.memoriesWf = true := h.1 rfl

theorem Kept.ite {c : Prop} [Decidable c] {a b : State} (ha : Kept w p a) (hb : Kept w p b) : Kept w p (if c then a else b) := by
  split <;> assumption

theorem KeptWith.ite {c : Prop} [Decidable c] {a b : α × State} (ha : KeptWith w p a) (hb : KeptWith w p b) :
    KeptWith w p (if c then a else b) := by
  split <;> assumption

theorem KeptOpt.ite {c : Prop} [Decidable c] {a b : Option State} (ha : KeptOpt w p a) (hb : KeptOpt w p b) :
    KeptOpt w p (if c then a else b) := by
  split <;> assumption

theorem KeptOut.ite {c : Prop} [Decidable c] {a b : Out} (ha : KeptOut w p a) (hb : KeptOut w p b) :
    KeptOut w p (if c then a else b) := by
  split <;> assumption

theorem KeptEffect.ite {c : Prop} [Decidable c] {a b : Effect} (ha : KeptEffect w p a) (hb : KeptEffect w p b) :
    KeptEffect w p (if c then a else b) := by
  split <;> assumption

theorem KeptWith.mk {a : α} (h : Kept w p s) : KeptWith w p (a, s) := h
theorem KeptWith.snd {r : α × State} (h : KeptWith w p r) : Kept w p r.2 := h
theorem KeptWith.of_eq {r : α × State} {a : α} (h : KeptWith w p r) (hr : r = (a, t)) : Kept w p t := by
  subst hr
  exact h
theorem KeptFst.mk {a : α} (h : Kept w p s) : KeptFst w p (s, a) := h
theorem KeptFst.fst {r : State × α} (h : KeptFst w p r) : Kept w p r.1 := h
theorem KeptFst.of_eq {r : State × α} {a : α} (h : KeptFst w p r) (hr : r = (t, a)) : Kept w p t := by
  subst hr
  exact h
theorem KeptOpt.some (h : Kept w p s) : KeptOpt w p (some s) := by
  rintro _ ⟨⟩
  exact h
theorem KeptOpt.none : KeptOpt w p none := by
  intro t h
  cases h
theorem KeptOpt.of_eq {r : Option State} (h : KeptOpt w p r) (hr : r = .some t) : Kept w p t := h t hr
theorem KeptOut.next (h : Kept w p s) : KeptOut w p (.next s) := by
  rintro _ ⟨⟩
  exact h
theorem KeptOut.fault {f : Fault} : KeptOut w p (.fault f) := by
  intro t h
  cases h
theorem KeptOut.refused {f : Refusal} : KeptOut w p (.refused f) := by
  intro t h
  cases h
theorem KeptOut.of_eq {r : Out} (h : KeptOut w p r) (hr : r = .next t) : Kept w p t := h t hr
theorem KeptEffect.done {c : Crew} (h : Kept w p s) : KeptEffect w p (.done s c) := h
theorem KeptEffect.jump {c : Crew} {pc : Word} {l : List Loop} (h : Kept w p s) : KeptEffect w p (.jump s c pc l) := h
theorem KeptEffect.stall (h : Kept w p s) : KeptEffect w p (.stall s) := h
theorem KeptEffect.trap {code : BitVec 8} {a : Word} : KeptEffect w p (.trap code a) := trivial
theorem KeptEffect.software {code : BitVec 8} : KeptEffect w p (.software code) := trivial

/-- A state that differs from one in nothing that is followed. -/
theorem Kept.upd {agenda : List Turn} {cur : Issuer} {free stamp : Nat} {balked : Bool} {crews : FMap Crew} {cores : FMap CoreState}
    {mills : FMap MillState} {levels : FMap Level} {replays : FMap Replay} {intervals guards : FMap Word} {units : FMap WorkUnit}
    {nextCrew : Nat} {dispatcher : Dispatcher} {fabric : Fabric} {reeves : FMap ReeveState} {pkg : Package} {tlb : List TlbEntry}
    {pointers : FMap Word} {crossings : List Crossing} {host : HostService} {lent : List LentAccess} {eccPoison : List Nat}
    {eccErr eccStuck : FMap (BitVec 272)} {spadStuck : FMap (Byte × Byte)} (h : Kept w p s) :
    Kept w p { agenda := agenda, cur := cur, free := free, stamp := stamp, balked := balked, crews := crews, cores := cores,
               mills := mills, code := s.code, levels := levels, replays := replays, intervals := intervals, guards := guards,
               units := units, nextCrew := nextCrew, dispatcher := dispatcher, port := s.port, fabric := fabric, reeves := reeves,
               pkg := pkg, tlb := tlb, pointers := pointers, hbm := s.hbm, crossings := crossings, host := host, lent := lent,
               eccPoison := eccPoison, eccErr := eccErr, eccStuck := eccStuck, ctl := s.ctl, spad := s.spad,
               spadStuck := spadStuck } := h

/-- A state that differs from one in the port's registers, and else in nothing that is followed. -/
theorem Kept.port {agenda : List Turn} {cur : Issuer} {free stamp : Nat} {balked : Bool} {crews : FMap Crew} {cores : FMap CoreState}
    {mills : FMap MillState} {levels : FMap Level} {replays : FMap Replay} {intervals guards : FMap Word} {units : FMap WorkUnit}
    {nextCrew : Nat} {dispatcher : Dispatcher} {port : Port} {fabric : Fabric} {reeves : FMap ReeveState} {pkg : Package}
    {tlb : List TlbEntry} {pointers : FMap Word} {crossings : List Crossing} {host : HostService} {lent : List LentAccess}
    {eccPoison : List Nat} {eccErr eccStuck : FMap (BitVec 272)} {spadStuck : FMap (Byte × Byte)} (h : Kept w none s) :
    Kept w none { agenda := agenda, cur := cur, free := free, stamp := stamp, balked := balked, crews := crews, cores := cores,
                  mills := mills, code := s.code, levels := levels, replays := replays, intervals := intervals, guards := guards,
                  units := units, nextCrew := nextCrew, dispatcher := dispatcher, port := port, fabric := fabric, reeves := reeves,
                  pkg := pkg, tlb := tlb, pointers := pointers, hbm := s.hbm, crossings := crossings, host := host, lent := lent,
                  eccPoison := eccPoison, eccErr := eccErr, eccStuck := eccStuck, ctl := s.ctl, spad := s.spad,
                  spadStuck := spadStuck } := ⟨h.1, nofun⟩

theorem memoriesWf_iff : s.memoriesWf = true ↔ s.hbm.wf = true ∧ s.ctl.wf = true ∧ s.spad.wf = true ∧ s.code.wf = true := by
  simp only [State.memoriesWf, Bool.and_eq_true, and_assoc]

theorem Kept.setHbm {m : Memory} (h : Kept w p s) (hm : s.hbm.wf = true → m.wf = true) : Kept w p { s with hbm := m } :=
  ⟨fun hw => by
    obtain ⟨hh, hc, hs, hk⟩ := memoriesWf_iff.1 (h.1 hw)
    exact memoriesWf_iff.2 ⟨hm hh, hc, hs, hk⟩, h.2⟩

theorem Kept.hbmOf {t : State} (h : Kept w p s) (ht : Kept w p t) : Kept w p { s with hbm := t.hbm } :=
  ⟨fun hw => by
    obtain ⟨-, hc, hs, hk⟩ := memoriesWf_iff.1 (h.1 hw)
    exact memoriesWf_iff.2 ⟨(memoriesWf_iff.1 (ht.1 hw)).1, hc, hs, hk⟩, h.2⟩

theorem Kept.setCtl {m : Memory} (h : Kept w p s) (hm : s.ctl.wf = true → m.wf = true) : Kept w p { s with ctl := m } :=
  ⟨fun hw => by
    obtain ⟨hh, hc, hs, hk⟩ := memoriesWf_iff.1 (h.1 hw)
    exact memoriesWf_iff.2 ⟨hh, hm hc, hs, hk⟩, h.2⟩

theorem Kept.setSpad {m : Memory} (h : Kept w p s) (hm : s.spad.wf = true → m.wf = true) : Kept w p { s with spad := m } :=
  ⟨fun hw => by
    obtain ⟨hh, hc, hs, hk⟩ := memoriesWf_iff.1 (h.1 hw)
    exact memoriesWf_iff.2 ⟨hh, hc, hm hs, hk⟩, h.2⟩

theorem Kept.setCode {m : Memory} (h : Kept w p s) (hm : s.code.wf = true → m.wf = true) : Kept w p { s with code := m } :=
  ⟨fun hw => by
    obtain ⟨hh, hc, hs, hk⟩ := memoriesWf_iff.1 (h.1 hw)
    exact memoriesWf_iff.2 ⟨hh, hc, hs, hm hk⟩, h.2⟩

theorem KeptEffect.of_done {r : Effect} {c : Crew} (h : KeptEffect w p r) (hr : r = .done t c) : Kept w p t := by
  subst hr
  exact h

theorem KeptWorked.more {e : EngCmd} (h : Kept w p s) : KeptWorked w p (.more s e) := h
theorem KeptWorked.finished {e : EngCmd} (h : Kept w p s) : KeptWorked w p (.finished s e) := h
theorem KeptWorked.wait {e : EngCmd} (h : Kept w p s) : KeptWorked w p (.wait s e) := h
theorem KeptWorked.fault {e : EngCmd} {c : BitVec 8} {a : Word} (h : Kept w p s) : KeptWorked w p (.fault s e c a) := h
theorem KeptWorked.ite {c : Prop} [Decidable c] {a b : Worked} (ha : KeptWorked w p a) (hb : KeptWorked w p b) :
    KeptWorked w p (if c then a else b) := by
  split <;> assumption
theorem KeptWorked.of_more {r : Worked} {e : EngCmd} (h : KeptWorked w p r) (hr : r = .more t e) : Kept w p t := by
  subst hr
  exact h
theorem KeptWorked.of_finished {r : Worked} {e : EngCmd} (h : KeptWorked w p r) (hr : r = .finished t e) : Kept w p t := by
  subst hr
  exact h
theorem KeptWorked.of_wait {r : Worked} {e : EngCmd} (h : KeptWorked w p r) (hr : r = .wait t e) : Kept w p t := by
  subst hr
  exact h
theorem KeptWorked.of_fault {r : Worked} {e : EngCmd} {c : BitVec 8} {a : Word} (h : KeptWorked w p r)
    (hr : r = .fault t e c a) : Kept w p t := by
  subst hr
  exact h
theorem KeptMoved.ok {a : α} (h : Kept w p s) : KeptMoved w p (.ok a s) := h
theorem KeptMoved.wait (h : Kept w p s) : KeptMoved (α := α) w p (.wait s) := h
theorem KeptMoved.fault {c : BitVec 8} {a : Word} (h : Kept w p s) : KeptMoved (α := α) w p (.fault c a s) := h
theorem KeptMoved.ite {c : Prop} [Decidable c] {a b : Moved α} (ha : KeptMoved w p a) (hb : KeptMoved w p b) :
    KeptMoved w p (if c then a else b) := by
  split <;> assumption
theorem KeptMoved.of_ok {r : Moved α} {a : α} (h : KeptMoved w p r) (hr : r = .ok a t) : Kept w p t := by
  subst hr
  exact h
theorem KeptMoved.of_wait {r : Moved α} (h : KeptMoved w p r) (hr : r = .wait t) : Kept w p t := by
  subst hr
  exact h
theorem KeptMoved.of_fault {r : Moved α} {c : BitVec 8} {a : Word} (h : KeptMoved w p r) (hr : r = .fault c a t) : Kept w p t := by
  subst hr
  exact h
theorem KeptMill.done {v : MillState} (h : Kept w p s) : KeptMill w p (.done s v) := h
theorem KeptMill.jump {v : MillState} {pc : Word} {l : List Loop} (h : Kept w p s) : KeptMill w p (.jump s v pc l) := h
theorem KeptMill.ends {v : MillState} {f : BitVec 12} (h : Kept w p s) : KeptMill w p (.ends s v f) := h
theorem KeptMill.waits {v : MillState} (h : Kept w p s) : KeptMill w p (.waits s v) := h
theorem KeptMill.ite {c : Prop} [Decidable c] {a b : MillEnd} (ha : KeptMill w p a) (hb : KeptMill w p b) :
    KeptMill w p (if c then a else b) := by
  split <;> assumption
theorem KeptMill.of_done {r : MillEnd} {v : MillState} (h : KeptMill w p r) (hr : r = .done t v) : Kept w p t := by
  subst hr
  exact h
theorem KeptMill.of_jump {r : MillEnd} {v : MillState} {pc : Word} {l : List Loop} (h : KeptMill w p r)
    (hr : r = .jump t v pc l) : Kept w p t := by
  subst hr
  exact h
theorem KeptMill.of_ends {r : MillEnd} {v : MillState} {f : BitVec 12} (h : KeptMill w p r) (hr : r = .ends t v f) :
    Kept w p t := by
  subst hr
  exact h
theorem KeptMill.of_waits {r : MillEnd} {v : MillState} (h : KeptMill w p r) (hr : r = .waits t v) : Kept w p t := by
  subst hr
  exact h
theorem KeptEnd.ok {a : α} (h : Kept w p s) : KeptEnd w p (.ok (a, s)) := h
theorem KeptEnd.error (h : Kept w p s) : KeptEnd (α := α) w p (.error s) := h
theorem KeptEnd.ite {c : Prop} [Decidable c] {a b : Except State (α × State)} (ha : KeptEnd w p a) (hb : KeptEnd w p b) :
    KeptEnd w p (if c then a else b) := by
  split <;> assumption
theorem KeptEnd.of_ok {r : Except State (α × State)} {a : α} (h : KeptEnd w p r) (hr : r = .ok (a, t)) : Kept w p t := by
  subst hr
  exact h
theorem KeptEnd.of_error {r : Except State (α × State)} (h : KeptEnd w p r) (hr : r = .error t) : Kept w p t := by
  subst hr
  exact h
theorem KeptTries.of_ok {r : Except Out (α × State)} {a : α} (h : KeptTries w p r) (hr : r = .ok (a, t)) : Kept w p t := by
  subst hr
  exact h
theorem KeptTries.of_error {r : Except Out (α × State)} {o : Out} (h : KeptTries w p r) (hr : r = .error o) : KeptOut w p o := by
  subst hr
  exact h
theorem KeptExcept.ok {ε : Type} (h : Kept w p s) : KeptExcept (ε := ε) w p (.ok s) := h
theorem KeptExcept.error {ε : Type} {f : ε} (h : Kept w p s) : KeptExcept w p (.error (f, s)) := h
theorem KeptExcept.ite {ε : Type} {c : Prop} [Decidable c] {a b : Except (ε × State) State} (ha : KeptExcept w p a)
    (hb : KeptExcept w p b) : KeptExcept w p (if c then a else b) := by
  split <;> assumption
theorem KeptExcept.of_ok {ε : Type} {r : Except (ε × State) State} (h : KeptExcept w p r) (hr : r = .ok t) : Kept w p t := by
  subst hr
  exact h
theorem KeptExcept.of_error {ε : Type} {r : Except (ε × State) State} {f : ε} (h : KeptExcept w p r) (hr : r = .error (f, t)) :
    Kept w p t := by
  subst hr
  exact h
theorem KeptOptWith.some {a : α} (h : Kept w p s) : KeptOptWith w p (some (a, s)) := by
  rintro _ _ ⟨⟩
  exact h
theorem KeptOptWith.none : KeptOptWith (α := α) w p none := by
  intro a t h
  cases h
theorem KeptOptWith.ite {c : Prop} [Decidable c] {a b : Option (α × State)} (ha : KeptOptWith w p a) (hb : KeptOptWith w p b) :
    KeptOptWith w p (if c then a else b) := by
  split <;> assumption
theorem KeptOptWith.of_eq {r : Option (α × State)} {a : α} (h : KeptOptWith w p r) (hr : r = .some (a, t)) : Kept w p t := h a t hr

theorem OnlyRouter.kept (ht : OnlyRouter s t) (h : Kept w p s) : Kept w p t := by
  obtain ⟨_, _, rfl, -⟩ := ht
  exact h.upd

theorem Kept.foldl {f : State → α → State} {l : List α} (h : Kept w p s) (hf : ∀ t a, Kept w p t → Kept w p (f t a)) :
    Kept w p (l.foldl f s) :=
  List.foldlRecOn (motive := Kept w p) l f h fun t ht a _ => hf t a ht

end

end Sys2Proof.Machine
end

/-! ### What a turn keeps, through memories, crews, accesses and commands -/

section
namespace Sys2Proof.Machine
open Sys2Proof.Claims Sys2Proof.Config
variable {w : Bool} {p : Option Port} {s : State}

/-! #### The memories -/

theorem takeRun_kept {r : Nat × Nat} (h : Kept w p s) : Kept w p (takeRun s r) :=
  .upd h

theorem holdRun_kept {r : Nat × Nat} (h : Kept w p s) : Kept w p (holdRun s r) := by
  unfold holdRun
  dsimp only
  split
  · exact h
  · exact .ite h (.ite (.upd h) (.ite (.upd h) h))

theorem serveRuns_kept {l : List (Nat × Nat)} (h : Kept w p s) : Kept w p (serveRuns s l) :=
  .upd h

theorem hostTakes_kept {a n : Nat} (h : Kept w p s) : Kept w p (hostTakes s a n) := by
  unfold hostTakes
  exact .ite h (.foldl h fun _ _ ht => takeRun_kept ht)

theorem hostWaits_kept {a n : Nat} (h : Kept w p s) : Kept w p (hostWaits s a n) := by
  unfold hostWaits
  exact .ite h (.foldl h fun _ _ ht => holdRun_kept ht)

theorem balk_kept (h : Kept w p s) : Kept w p (balk s) :=
  .upd h

theorem balkAt_kept {a n : Nat} (h : Kept w p s) : Kept w p (balkAt s a n) := by
  unfold balkAt
  exact balk_kept (.ite (hostWaits_kept h) h)

theorem eccCount_kept {b n : Nat} (h : Kept w p s) : Kept w p (eccCount s b n) := by
  unfold eccCount
  dsimp only
  split
  · exact .ite h (.upd h)
  · exact .upd h

theorem mergeSector_kept {k : Nat} (h : Kept w p s) : Kept w p (mergeSector s k) := by
  unfold mergeSector
  exact .ite (.upd h) (Kept.setHbm h fun hm => memWrite_wf _ _ hm).upd

theorem eccWrite_kept {b n : Nat} (h : Kept w p s) : Kept w p (eccWrite s b n) := by
  unfold eccWrite
  exact .ite h (.upd (.foldl h fun _ _ ht => mergeSector_kept ht))

theorem poisonSectors_kept {b n : Nat} (h : Kept w p s) : Kept w p (poisonSectors s b n) :=
  .upd h

theorem scrubStack_kept {stack : Nat} (h : Kept w p s) : Kept w p (scrubStack s stack) := by
  unfold scrubStack
  exact .foldl h fun _ _ ht => mergeSector_kept ht

theorem afterRead_kept {a n : Nat} (h : Kept w p s) : Kept w p (afterRead s a n) := by
  unfold afterRead
  exact .ite (.upd (.ite h (.foldl h fun _ _ ht => eccCount_kept ht))) (.ite h (.foldl h fun _ _ ht => eccCount_kept ht))

theorem writeSector_kept {linear : Bool} {b : Nat} {bs : List Byte} (h : Kept w p s) :
    Kept w p (writeSector s linear b bs) := by
  unfold writeSector
  have ht : Kept w p (eccWrite s b bs.length) := eccWrite_kept h
  exact .ite (ht.setHbm fun hm => memWrite_wf _ _ hm).upd (ht.setHbm fun hm => memWrite_wf _ _ hm).upd

theorem writeSectors_kept {n a : Nat} {bs : List Byte} (h : Kept w p s) : Kept w p (writeSectors s a n bs) := by
  induction n generalizing s a bs with
  | zero => exact h
  | succ n ih =>
    cases bs with
    | nil => exact h
    | cons b bs => exact ih (writeSector_kept h)

theorem hbmWrite_kept {a : Nat} {bs : List Byte} (h : Kept w p s) : Kept w p (hbmWrite s a bs) := by
  unfold hbmWrite
  exact writeSectors_kept h

theorem signCrossings_kept {writer : Nat × Nat × Nat} {t : State} (_ : Kept w p s) (ht : Kept w p t) :
    Kept w p (signCrossings writer s t) := by
  unfold signCrossings
  exact .upd ht

theorem endWrites_kept {e : EngCmd} {signals : Bool} (h : Kept w p s) : Kept w p (endWrites s e signals) := by
  unfold endWrites
  exact .ite h (.upd h)

theorem fenceWindows_kept {crewId : Nat} (h : Kept w p s) : Kept w p (fenceWindows s crewId) :=
  .upd h

theorem ctlWrite_kept {a : Nat} {bs : List Byte} (h : Kept w p s) : Kept w p (ctlWrite s a bs) :=
  Kept.setCtl h fun hm => memWrite_wf _ _ hm

theorem Region_write_kept {slot : Nat} {r : Region} {f : Nat} {bs : List Byte} (h : Kept w p s) :
    Kept w p (r.write s slot f bs) :=
  Kept.setSpad h fun hm => memWriteCells_wf _ hm

/-! #### The crews, their traps and the rings -/

theorem putCrew_kept {k : Nat} {c : Crew} (h : Kept w p s) : Kept w p (putCrew s k c) :=
  .upd h

theorem modCrew_kept {k : Nat} {f : Crew → Crew} (h : Kept w p s) : Kept w p (modCrew s k f) := by
  unfold modCrew
  split
  · exact putCrew_kept h
  · exact h

theorem putCore_kept {k : Nat} {c : CoreState} (h : Kept w p s) : Kept w p (putCore s k c) :=
  .upd h

theorem putReeve_kept {cl : Nat} {r : ReeveState} (h : Kept w p s) : Kept w p (putReeve s cl r) :=
  .upd h

theorem bump_kept (h : Kept w p s) : Kept w p (bump s) :=
  .upd h

theorem spend_kept {n : Nat} (h : Kept w p s) : Kept w p (spend s n) :=
  .upd h

theorem drainTrapRing_kept {cl n : Nat} (h : Kept w p s) : Kept w p (drainTrapRing s cl n) := by
  induction n generalizing s with
  | zero => exact h
  | succ n ih =>
    unfold drainTrapRing
    dsimp only
    split
    · exact h
    · exact .ite h (.ite (ih (putReeve_kept (hbmWrite_kept (hostTakes_kept h)))) (hostWaits_kept h))

theorem drainTrapRings_kept (h : Kept w p s) : Kept w p (drainTrapRings s) := by
  unfold drainTrapRings
  exact .foldl h fun _ _ ht => drainTrapRing_kept ht

theorem signalEvent_kept (h : Kept w p s) : Kept w p (signalEvent s) := by
  unfold signalEvent
  exact .ite h (.ite (hostTakes_kept h) (hbmWrite_kept (hostTakes_kept h)))

theorem drainEvents_kept {n : Nat} (h : Kept w p s) : Kept w p (drainEvents s n) := by
  induction n generalizing s with
  | zero => exact h
  | succ n ih =>
    unfold drainEvents
    dsimp only
    split
    · exact h
    · exact .ite (ih (signalEvent_kept (hbmWrite_kept (hostTakes_kept h)).upd))
        (.ite (.ite (hostWaits_kept h) (hostWaits_kept (hostWaits_kept h))) h)

theorem drainRings_kept (h : Kept w p s) : Kept w p (drainRings s) := by
  unfold drainRings
  exact drainEvents_kept (drainTrapRings_kept h)

theorem postRecord_kept {cl : Nat} {rec : Record} (h : Kept w p s) : Kept w p (postRecord s cl rec) := by
  unfold postRecord
  exact drainTrapRing_kept (putReeve_kept h)

theorem startReeve_kept {cl : Nat} (h : Kept w p s) : Kept w p (startReeve s cl) := by
  unfold startReeve
  exact .upd (putCrew_kept h)

theorem restartReeve_kept {cl : Nat} (h : Kept w p s) : Kept w p (restartReeve s cl) := by
  unfold restartReeve
  dsimp only
  split
  · exact startReeve_kept (putReeve_kept h)
  · exact .ite (startReeve_kept (putReeve_kept h)) (putCrew_kept (startReeve_kept (putReeve_kept h)))

theorem takeTrap_kept {k : Nat} {str : Option Stream} {code sw : BitVec 8} {pc addr : Word} {log : Nat} (h : Kept w p s) :
    Kept w p (takeTrap s k str code sw pc addr log) := by
  unfold takeTrap
  split
  · exact h
  · exact .ite (restartReeve_kept h) (postRecord_kept (putCrew_kept h))

theorem wordTrap_kept {k : Nat} {str : Stream} {c : Crew} {code : BitVec 8} {addr : Word} (h : Kept w p s) :
    Kept w p (wordTrap s k str c code addr) := by
  unfold wordTrap
  exact spend_kept (takeTrap_kept h)

theorem finish_kept {k : Nat} {str : Stream} {c : Crew} {frees : List (RegFile × Nat × Bool)} {e : Effect} (h : Kept w p s)
    (he : KeptEffect w p e) : KeptOut w p (finish s k str c frees e) := by
  cases e with
  | done t d => exact .next (spend_kept (putCrew_kept he))
  | jump t d pc loops => exact .next (spend_kept (putCrew_kept he))
  | trap code a => exact .next (wordTrap_kept h)
  | software code => exact .next (spend_kept (takeTrap_kept h))
  | stall t => exact .next he

theorem runWord_kept {streams : Streams} {privileged : Bool} {guard : Option (Nat × Bool)} {frees : List (RegFile × Nat × Bool)}
    {reads : List (RegFile × Nat)} {body : State → Nat → Stream → Crew → Effect} (h : Kept w p s)
    (hb : ∀ k str c, KeptEffect w p (body s k str c)) : KeptOut w p (runWord s streams privileged guard frees reads body) := by
  unfold runWord
  split
  · split
    · exact .fault
    · refine .ite (.next (wordTrap_kept h)) ?_
      dsimp only
      split
      · exact .next (wordTrap_kept h)
      · refine .ite (finish_kept h (.done h)) ?_
        split
        · exact .next (wordTrap_kept h)
        · exact finish_kept h (.ite (.stall h) (hb _ _ _))
  · exact .fault

/-! #### Translation and access -/

theorem putLevel_kept {kind id : Nat} {l : Level} (h : Kept w p s) : Kept w p (putLevel s kind id l) :=
  .upd h

theorem tableRead_kept {a : Nat} (h : Kept w p s) : KeptWith w p (tableRead s a) := by
  unfold tableRead
  refine .ite (.mk h) ?_
  refine .ite (.mk (balkAt_kept h)) ?_
  dsimp only
  split
  · exact .mk (afterRead_kept (hostTakes_kept h))
  · exact .mk (afterRead_kept (hostTakes_kept h))

theorem keepWalks_kept {t : State} (h : Kept w p s) (_ : Kept w p t) : Kept w p (keepWalks s t) :=
  .upd h

theorem guardEntry_kept {job g : Nat} (h : Kept w p s) : KeptWith w p (guardEntry s job g) := by
  unfold guardEntry
  split
  · exact .mk h
  · split
    · exact .mk h
    · split
      · rename_i t1 heq
        exact .mk ((tableRead_kept h).of_eq heq)
      · rename_i t1 heq
        have h1 : Kept w p t1 := (tableRead_kept h).of_eq heq
        exact .mk (.ite (.upd h1) h1)

theorem pointerRead_kept {job level va a : Nat} (h : Kept w p s) : KeptWith w p (pointerRead s job level va a) := by
  unfold pointerRead
  split
  · exact .ite (.mk (spend_kept h)) (tableRead_kept (spend_kept h))
  · exact tableRead_kept h

theorem keepPointer_kept {job level va : Nat} {e : Word} (h : Kept w p s) : Kept w p (keepPointer s job level va e) :=
  .upd h

theorem walkLeaf_kept {job va : Nat} {e2 : Word} (h : Kept w p s) : KeptWith w p (walkLeaf s job va e2) := by
  unfold walkLeaf
  split
  · rename_i t1 heq
    exact .mk ((pointerRead_kept h).of_eq heq)
  · rename_i t1 heq
    have h1 : Kept w p t1 := (pointerRead_kept h).of_eq heq
    refine .ite (.mk h1) ?_
    refine .ite (.mk h1) ?_
    refine .ite (.mk h1) ?_
    split
    · rename_i t2 heq1
      exact .mk ((tableRead_kept (keepPointer_kept h1)).of_eq heq1)
    · rename_i t2 heq1
      have h2 : Kept w p t2 := (tableRead_kept (keepPointer_kept h1)).of_eq heq1
      exact .ite (.mk h2) (.ite (.mk h2) (.mk h2))

theorem walk_kept {job va : Nat} (h : Kept w p s) : KeptWith w p (walk s job va) := by
  unfold walk
  split
  · exact .mk h
  · split
    · rename_i t1 heq
      exact .mk ((pointerRead_kept h).of_eq heq)
    · rename_i t1 heq
      have h1 : Kept w p t1 := (pointerRead_kept h).of_eq heq
      refine .ite (.mk h1) ?_
      refine .ite (.mk h1) ?_
      dsimp only
      split
      · rename_i t2 heq1
        exact .mk ((pointerRead_kept (keepPointer_kept h1)).of_eq heq1)
      · rename_i t2 heq1
        have h2 : Kept w p t2 := (pointerRead_kept (keepPointer_kept h1)).of_eq heq1
        exact .ite (.mk h2) (.ite (.mk h2) (walkLeaf_kept (keepPointer_kept h2)))

theorem leafGuard_kept {job : Nat} {leaf : Word} (h : Kept w p s) : KeptWith w p (leafGuard s job leaf) := by
  unfold leafGuard
  refine .ite ?_ (.mk h)
  split
  · rename_i t1 heq
    have h1 : Kept w p t1 := (guardEntry_kept h).of_eq heq
    exact .ite (.mk (spend_kept h1)) (.mk h1)
  · rename_i t1 heq
    exact .mk ((guardEntry_kept h).of_eq heq)

theorem walkPage_kept {job va : Nat} (h : Kept w p s) : KeptWith w p (walkPage s job va) := by
  unfold walkPage
  split
  · rename_i t1 heq
    exact .mk ((walk_kept h).of_eq heq)
  · rename_i t1 heq
    have h1 : Kept w p t1 := (walk_kept h).of_eq heq
    refine .ite (.mk h1) ?_
    split
    · rename_i t2 heq1
      exact .mk ((leafGuard_kept h1).of_eq heq1)
    · rename_i t2 heq1
      exact .mk ((leafGuard_kept h1).of_eq heq1)

theorem pageTarget_kept {core : Option Nat} {job va : Nat} {kind : AccessKind} {p' : PageFound} (h : Kept w p s) :
    KeptWith w p (pageTarget s core job va kind p') := by
  unfold pageTarget
  split
  · exact .mk h
  · refine .ite (.mk h) ?_
    exact .mk (by split; exact putCore_kept (.upd h); exact .upd h)

theorem findPage_kept {job : Nat} {va : Word} (h : Kept w p s) : KeptWith w p (findPage s job va) := by
  unfold findPage
  refine .ite (.mk h) ?_
  refine .ite (.mk h) ?_
  split
  · exact .ite (.mk (spend_kept h)) (walkPage_kept (spend_kept h))
  · exact walkPage_kept h

theorem translate_kept {core : Option Nat} {job : Nat} {va : Word} {kind : AccessKind} (h : Kept w p s) :
    KeptWith w p (translate s core job va kind) := by
  unfold translate
  split
  · rename_i t1 heq
    exact .mk ((findPage_kept h).of_eq heq)
  · rename_i t1 heq
    exact pageTarget_kept ((findPage_kept h).of_eq heq)

theorem targetFor_kept {k job : Nat} {va : Word} {kind : AccessKind} (h : Kept w p s) :
    KeptWith w p (targetFor s k job va kind) := by
  unfold targetFor
  exact .ite (.mk h) (translate_kept h)

theorem discardAccess_kept {k seq : Nat} (h : Kept w p s) : Kept w p (discardAccess s k seq) := by
  unfold discardAccess
  exact modCrew_kept h

theorem holdFault_kept {k seq : Nat} {code : BitVec 8} {addr : Word} (h : Kept w p s) :
    Kept w p (holdFault s k seq code addr) := by
  unfold holdFault
  split
  · exact h
  · exact .ite (discardAccess_kept h) (postRecord_kept (putCrew_kept h))

theorem lateFault_kept {k seq : Nat} {code : BitVec 8} {addr : Word} (h : Kept w p s) :
    Kept w p (lateFault s k seq code addr) := by
  unfold lateFault
  split
  · exact h
  · exact .ite (discardAccess_kept h) (putCrew_kept h)

theorem translationFault_kept {k : Nat} {c : Crew} {e : LogEntry} {code : BitVec 8} (h : Kept w p s) :
    Kept w p (translationFault s k c e code) := by
  unfold translationFault
  split
  · exact spend_kept (putCrew_kept h)
  · exact .ite (holdFault_kept h) (lateFault_kept h)

theorem translated_kept {k : Nat} {c : Crew} {e : LogEntry} {t : Target} (h : Kept w p s) :
    Kept w p (translated s k c e t) := by
  unfold translated
  exact putCrew_kept h

theorem issueAccess_kept {k : Nat} {c : Crew} {e : LogEntry} (h : Kept w p s) : KeptEffect w p (issueAccess s k c e) := by
  unfold issueAccess
  dsimp only
  refine .ite ?_ ?_
  · split
    · split
      · exact .done (translationFault_kept (putCrew_kept (bump_kept h)))
      · exact .trap
    · exact .done (translated_kept (putCrew_kept (bump_kept h)))
  · split
    · exact .done (spend_kept (bump_kept h))
    · exact .done (translated_kept (putCrew_kept (spend_kept (bump_kept h))))
    · exact .done (translationFault_kept (putCrew_kept (spend_kept (bump_kept h))))

theorem recordWrite_kept {job crewId : Nat} {t : Target} {n : Nat} (h : Kept w p s) :
    Kept w p (recordWrite s job crewId t n) := by
  unfold recordWrite
  exact .ite (.foldl h fun _ _ ht => putCore_kept ht) h

theorem advanceWhere_kept {names : State → Nat → Word → Bool × State} (h : Kept w p s)
    (hn : ∀ t job e, Kept w p t → KeptWith w p (names t job e)) : Kept w p (advanceWhere s names) := by
  unfold advanceWhere
  refine .foldl h fun _ _ ht => ?_
  split
  · exact ht
  · refine .foldl ht fun _ _ ht1 => ?_
    dsimp only
    split
    · rename_i t1 heq
      exact (hn _ _ _ ht1).of_eq heq
    · rename_i t1 heq
      exact .upd ((hn _ _ _ ht1).of_eq heq)

theorem brokenActs_kept {e : Word} {names : Bool} (h : Kept w p s) : KeptWith w p (brokenActs s e names) := by
  unfold brokenActs
  exact .ite (.mk (spend_kept h)) (.mk h)

theorem advanceSem_kept {core n : Nat} (h : Kept w p s) : Kept w p (advanceSem s core n) := by
  unfold advanceSem
  exact advanceWhere_kept h fun _ _ _ ht => brokenActs_kept ht

theorem advanceCell_kept {t : Target} (h : Kept w p s) : Kept w p (advanceCell s t) := by
  unfold advanceCell
  refine .ite h ?_
  refine advanceWhere_kept h fun _ _ _ ht => ?_
  refine .ite (.mk ht) ?_
  split
  rename_i t1 heq
  exact .ite (.mk ((translate_kept ht).of_eq heq)) (by split; exact brokenActs_kept ht; exact .mk ht)

theorem targetWaits_kept {t : Target} {n : Nat} (h : Kept w p s) : Kept w p (targetWaits s t n) := by
  unfold targetWaits
  exact .ite (hostWaits_kept h) h

theorem afterTarget_kept {t : Target} {n : Nat} (h : Kept w p s) : Kept w p (afterTarget s t n) := by
  unfold afterTarget
  exact .ite (afterRead_kept (hostTakes_kept h)) h

theorem targetWrite_kept {t : Target} {bs : List Byte} (h : Kept w p s) : Kept w p (targetWrite s t bs) := by
  unfold targetWrite
  exact .ite (hbmWrite_kept (hostTakes_kept h)) (ctlWrite_kept h)

theorem loadWord_kept {o : FmtM} {bytes : Nat} {zext : Bool} (h : Kept w p s) : KeptOut w p (loadWord o bytes zext s) := by
  unfold loadWord
  refine runWord_kept h fun _ _ _ => ?_
  dsimp only
  split
  · exact .trap
  · exact .ite .trap (issueAccess_kept h)

theorem storeWord_kept {o : FmtM} {bytes : Nat} (h : Kept w p s) : KeptOut w p (storeWord o bytes s) := by
  unfold storeWord
  refine runWord_kept h fun _ _ _ => ?_
  dsimp only
  split
  · exact .trap
  · exact .ite .trap (issueAccess_kept h)

theorem execLds_kept {o : FmtM} (h : Kept w p s) : KeptOut w p (execLds o s) := by
  unfold execLds
  exact runWord_kept h fun _ _ _ => .ite (.done h) (issueAccess_kept h)

theorem atomicWord_kept {o : FmtA} {op : BitVec 4} {three : Bool} (h : Kept w p s) : KeptOut w p (atomicWord o op three s) := by
  unfold atomicWord
  refine runWord_kept h fun _ _ _ => ?_
  dsimp only
  split
  · exact .trap
  · exact .ite .trap (issueAccess_kept h)

theorem putSem_kept {core n : Nat} {m : Sem} (h : Kept w p s) : Kept w p (putSem s core n m) := by
  unfold putSem
  exact putCore_kept h

theorem semJoin_kept {core n : Nat} {w' : Waiter} (h : Kept w p s) : Kept w p (semJoin s core n w') := by
  unfold semJoin
  exact .ite h (putSem_kept h)

theorem semTake_kept {core n : Nat} {w' : Waiter} (h : Kept w p s) : Kept w p (semTake s core n w') := by
  unfold semTake
  exact advanceSem_kept (putSem_kept h)

theorem semAdd_kept {core n v : Nat} (h : Kept w p s) : KeptWith w p (semAdd s core n v) := by
  unfold semAdd
  exact .ite (.mk h) (.mk (putSem_kept h))

theorem semWord_kept {o : FmtA} {n : Nat} {body : State → Nat → Stream → Crew → Effect} (h : Kept w p s)
    (hb : ∀ k str c, KeptEffect w p (body s k str c)) : KeptOut w p (semWord o n s body) := by
  unfold semWord
  exact runWord_kept h fun _ _ _ => .ite .trap (hb _ _ _)

theorem execSeminit_kept {o : FmtA} (h : Kept w p s) : KeptOut w p (execSeminit o s) := by
  unfold execSeminit
  refine semWord_kept h fun _ _ _ => ?_
  dsimp only
  split
  · exact .trap
  · exact .ite .trap (.ite (.done (bump_kept h)) (.done (putSem_kept h)))

theorem execSemsig_kept {o : FmtA} (h : Kept w p s) : KeptOut w p (execSemsig o s) := by
  unfold execSemsig
  refine semWord_kept h fun _ _ _ => ?_
  dsimp only
  split
  · exact .trap
  · exact .ite .trap (.done (bump_kept h))

theorem execSemwait_kept {o : FmtA} (h : Kept w p s) : KeptOut w p (execSemwait o s) := by
  unfold execSemwait
  exact semWord_kept h fun _ _ _ => .ite (.stall h) (.ite (.done (semTake_kept h)) (.stall (semJoin_kept h)))

theorem execMsemsig_kept {o : FmtA} (h : Kept w p s) : KeptOut w p (execMsemsig o s) := by
  unfold execMsemsig
  refine runWord_kept h fun _ _ _ => ?_
  dsimp only
  split
  · exact .trap
  · exact .ite .trap (.ite .trap (issueAccess_kept h))

theorem memoryWait_kept {k : Nat} {c : Crew} {e : LogEntry} {f : Word → Effect} (h : Kept w p s)
    (hf : ∀ v, KeptEffect w p (f v)) : KeptEffect w p (memoryWait s k c e f) := by
  have hi : KeptEffect w p (issueAccess s k c e) := issueAccess_kept h
  unfold memoryWait
  split
  · exact hf _
  · split
    · exact h
    · split
      · next t d heq => exact putCrew_kept (show Kept w p t by rw [heq] at hi; exact hi)
      · exact hi

theorem execMsemwait_kept {o : FmtA} (h : Kept w p s) : KeptOut w p (execMsemwait o s) := by
  unfold execMsemwait
  refine runWord_kept h fun _ _ _ => ?_
  dsimp only
  split
  · exact .trap
  · exact .ite .trap (memoryWait_kept h fun _ => .done h)

theorem execFence_kept {o : FmtA} (h : Kept w p s) : KeptOut w p (execFence o s) := by
  unfold execFence
  exact runWord_kept h fun _ _ _ => (by split; exact .trap; exact issueAccess_kept h)

theorem execFenceAll_kept {o : FmtA} (h : Kept w p s) : KeptOut w p (execFenceAll o s) := by
  unfold execFenceAll
  exact runWord_kept h fun _ _ _ => .done (bump_kept h)

theorem execSpawn_kept {o : FmtA} (h : Kept w p s) : KeptOut w p (execSpawn o s) := by
  unfold execSpawn
  refine runWord_kept h fun _ _ _ => ?_
  dsimp only
  split
  · exact .trap
  · exact .ite .trap (issueAccess_kept h)

theorem execJoindec_kept {o : FmtA} (h : Kept w p s) : KeptOut w p (execJoindec o s) := by
  unfold execJoindec
  refine runWord_kept h fun _ _ _ => ?_
  dsimp only
  split
  · exact .trap
  · exact .ite .trap (issueAccess_kept h)

theorem execWaitc_kept {o : FmtA} (h : Kept w p s) : KeptOut w p (execWaitc o s) := by
  unfold execWaitc
  refine runWord_kept h fun _ _ _ => ?_
  dsimp only
  split
  · exact .trap
  · exact .ite .trap (memoryWait_kept h fun _ => .done h)

/-! #### The fabric and lent memory -/

theorem injectPlain_kept {m : Msg} (h : Kept w p s) : Kept w p (injectPlain s m) :=
  .upd h

theorem forwardEntry_kept {k : Nat} (h : Kept w p s) : Kept w p (forwardEntry s k) := by
  unfold forwardEntry
  split
  · exact h
  · exact .ite h (injectPlain_kept (.upd h))

theorem combine_kept {m : Msg} (h : Kept w p s) : KeptOpt w p (combine s m) := by
  unfold combine
  dsimp only
  refine .ite .none ?_
  refine .ite ?_ (.ite (.some (.upd h)) .none)
  split
  · exact .some (forwardEntry_kept (.upd h))
  · exact .some (.upd h)

theorem inject_kept {m : Msg} (h : Kept w p s) : Kept w p (inject s m) := by
  unfold inject
  refine .ite (.upd h) ?_
  split
  · rename_i t1 heq
    exact (combine_kept h).of_eq heq
  · exact injectPlain_kept h

theorem sendRequest_kept {r : Request} (h : Kept w p s) : Kept w p (sendRequest s r) := by
  unfold sendRequest
  exact inject_kept (.upd h)

theorem respond_kept {m : Msg} {stat : Nat} {data : List Byte} {opnd : Word} (h : Kept w p s) :
    Kept w p (respond s m stat data opnd) := by
  unfold respond
  exact inject_kept h

theorem lentReply_kept {a : LentAccess} (h : Kept w p s) : KeptWith w p (lentReply s a) := by
  unfold lentReply
  split
  · exact .ite (.mk h) (.mk (.upd h))
  · split
    · exact .mk h
    · exact .mk (.ite h (.upd h))
    · exact .mk (.ite h (.upd h))

theorem lentEach_kept {a : LentAccess} {bs : Option (List Byte)} {l : List (Nat × Nat)} (h : Kept w p s) :
    KeptWith w p (lentEach s a bs l) := by
  induction l generalizing s with
  | nil => exact h
  | cons q rest ih =>
    unfold lentEach
    dsimp only
    split
    · rename_i t1 heq
      have h1 : Kept w p t1 := (lentReply_kept h).of_eq heq
      split
      · rename_i t2 heq1
        exact .mk ((ih h1).of_eq heq1)
      · exact ih h1
    · exact lentReply_kept h

theorem lentRead_kept {a : LentAccess} {n : Nat} (h : Kept w p s) : KeptWith w p (lentRead s a n) := by
  unfold lentRead
  exact lentEach_kept h

theorem lentWrite_kept {a : LentAccess} {bs : List Byte} (h : Kept w p s) : KeptWith w p (lentWrite s a bs) := by
  unfold lentWrite
  exact lentEach_kept h

theorem lentStep_kept {a : LentAccess} {op : Step8} (h : Kept w p s) : KeptWith w p (lentStep s a op) := by
  unfold lentStep
  exact lentReply_kept h

theorem reachTarget_kept {job va : Nat} {t : Target} {n : Nat} (h : Kept w p s) : KeptWith w p (reachTarget s job va t n) := by
  unfold reachTarget
  refine .ite (.mk h) ?_
  refine .ite ?_ (.mk (balk_kept (targetWaits_kept h)))
  split
  · rename_i t1 heq
    exact .mk ((lentReply_kept h).of_eq heq)
  · rename_i t1 _ heq
    exact .mk (balk_kept ((lentReply_kept h).of_eq heq))

theorem pieceTarget_kept {k job va : Nat} {kind : AccessKind} {opc : Nat} {reeve : Bool} (h : Kept w p s) :
    KeptWith w p (pieceTarget s k job va kind opc reeve) := by
  unfold pieceTarget
  split
  · exact .mk h
  · exact .ite (.mk h) (translate_kept h)

theorem readPiece_kept {k job va n : Nat} {kind : AccessKind} {reeve : Bool} (h : Kept w p s) :
    KeptWith w p (readPiece s k job va n kind reeve) := by
  unfold readPiece
  dsimp only
  refine .ite (.mk h) ?_
  split
  · rename_i t1 heq
    exact .mk ((pieceTarget_kept h).of_eq heq)
  · rename_i t1 heq
    have h1 : Kept w p t1 := (pieceTarget_kept h).of_eq heq
    refine .ite ?_ ?_
    · split
      · rename_i t2 heq1
        exact .mk ((lentRead_kept h1).of_eq heq1)
      · rename_i t2 heq1
        exact .mk ((lentRead_kept h1).of_eq heq1)
      · rename_i t2 heq1
        exact .mk (balk_kept ((lentRead_kept h1).of_eq heq1))
    · split
      · rename_i t2 heq1
        exact .mk ((reachTarget_kept h1).of_eq heq1)
      · rename_i t2 heq1
        have h2 : Kept w p t2 := (reachTarget_kept h1).of_eq heq1
        split
        · exact .mk (afterTarget_kept h2)
        · exact .mk (afterTarget_kept h2)

theorem readPieces_kept {k job : Nat} {kind : AccessKind} {reeve : Bool} {l : List (Nat × Nat)} (h : Kept w p s) :
    KeptWith w p (readPieces s k job kind reeve l) := by
  induction l generalizing s with
  | nil => exact h
  | cons q rest ih =>
    unfold readPieces
    split
    · rename_i t1 heq
      exact .mk ((readPiece_kept h).of_eq heq)
    · rename_i t1 heq
      have h1 : Kept w p t1 := (readPiece_kept h).of_eq heq
      split
      · rename_i t2 heq1
        exact .mk ((ih h1).of_eq heq1)
      · rename_i t2 heq1
        exact .mk ((ih h1).of_eq heq1)

theorem readVirtual_kept {k job va n : Nat} {kind : AccessKind} {reeve : Bool} (h : Kept w p s) :
    KeptWith w p (readVirtual s k job va n kind reeve) := by
  unfold readVirtual
  exact readPieces_kept h

theorem writePiece_kept {k job va : Nat} {bs : List Byte} {reeve : Bool} (h : Kept w p s) :
    KeptWith w p (writePiece s k job va bs reeve) := by
  unfold writePiece
  dsimp only
  refine .ite (.mk h) ?_
  split
  · rename_i t1 heq
    exact .mk ((pieceTarget_kept h).of_eq heq)
  · rename_i t1 heq
    have h1 : Kept w p t1 := (pieceTarget_kept h).of_eq heq
    refine .ite ?_ ?_
    · split
      · rename_i t2 heq1
        exact .mk ((lentWrite_kept h1).of_eq heq1)
      · rename_i t2 heq1
        exact .mk ((lentWrite_kept h1).of_eq heq1)
      · rename_i t2 heq1
        exact .mk (balk_kept ((lentWrite_kept h1).of_eq heq1))
    · split
      · rename_i t2 heq1
        exact .mk ((reachTarget_kept h1).of_eq heq1)
      · rename_i t2 heq1
        exact .mk (targetWrite_kept ((reachTarget_kept h1).of_eq heq1))

theorem writePieces_kept {k job : Nat} {reeve : Bool} {l : List (Nat × Nat)} {bs : List Byte} (h : Kept w p s) :
    KeptWith w p (writePieces s k job reeve l bs) := by
  induction l generalizing s bs with
  | nil => exact h
  | cons q rest ih =>
    unfold writePieces
    split
    · rename_i t1 heq
      exact .mk ((writePiece_kept h).of_eq heq)
    · rename_i t1 heq
      exact ih ((writePiece_kept h).of_eq heq)

theorem writeVirtual_kept {k job va : Nat} {bs : List Byte} {reeve : Bool} (h : Kept w p s) :
    KeptWith w p (writeVirtual s k job va bs reeve) := by
  unfold writeVirtual
  exact writePieces_kept h

theorem atomicVirtual_kept {k job va owner : Nat} {op : Step8} (h : Kept w p s) :
    KeptWith w p (atomicVirtual s k job va owner op) := by
  unfold atomicVirtual
  dsimp only
  refine .ite (.mk h) ?_
  split
  · exact .mk (KeptWith.snd (by split; exact .mk h; exact translate_kept h))
  · refine .ite ?_ ?_
    · split
      · rename_i t1 heq
        exact .mk ((lentStep_kept (KeptWith.snd (by split; exact .mk h; exact translate_kept h))).of_eq heq)
      · rename_i t1 heq
        exact .mk ((lentStep_kept (KeptWith.snd (by split; exact .mk h; exact translate_kept h))).of_eq heq)
      · rename_i t1 heq
        have h1 : Kept w p t1 := (lentStep_kept (KeptWith.snd (by split; exact .mk h; exact translate_kept h))).of_eq heq
        exact .mk (balk_kept h1)
    · split
      · rename_i t1 heq
        exact .mk ((reachTarget_kept (KeptWith.snd (by split; exact .mk h; exact translate_kept h))).of_eq heq)
      · rename_i t1 heq
        have h1 : Kept w p t1 := (reachTarget_kept (KeptWith.snd (by split; exact .mk h; exact translate_kept h))).of_eq heq
        split
        · exact .mk (afterTarget_kept h1)
        · split
          · exact .mk (targetWrite_kept (afterTarget_kept h1))
          · exact .mk (afterTarget_kept h1)

theorem sendLent_kept {a : LentAccess} (h : Kept w p s) : Kept w p (sendLent s a) := by
  unfold sendLent
  exact sendRequest_kept (.upd h)

theorem sendLents_kept (h : Kept w p s) : Kept w p (sendLents s) := by
  unfold sendLents
  exact .foldl h fun _ _ ht => .ite (sendLent_kept ht) ht

theorem lentSettled_kept (h : Kept w p s) : Kept w p (lentSettled s) :=
  .upd h

theorem answerLent_kept {tag stat : Nat} {data : List Byte} {old : Word} (h : Kept w p s) :
    Kept w p (answerLent s tag stat data old) :=
  .upd h

theorem endWaits_kept (h : Kept w p s) : Kept w p (endWaits s) :=
  .upd h

/-! #### The engines’ commands -/

theorem modCmd_kept {core id : Nat} {f : EngCmd → EngCmd} (h : Kept w p s) : Kept w p (modCmd s core id f) := by
  unfold modCmd
  exact putCore_kept h

theorem putCmd_kept {core : Nat} {e : EngCmd} (h : Kept w p s) : Kept w p (putCmd s core e) := by
  unfold putCmd
  exact modCmd_kept h

theorem queueCmd_kept {k : Nat} {c : Crew} {kind : EngKind} {o : FmtC} {xa xb : Word} (h : Kept w p s) :
    KeptEffect w p (queueCmd s k c kind o xa xb) := by
  unfold queueCmd
  exact .ite (.stall h) (.done (bump_kept (putCore_kept h)))

theorem commandWord_kept {o : FmtC} {privileged useA useB : Bool} {body : State → Nat → Crew → Word → Word → Effect}
    (h : Kept w p s) (hb : ∀ k c a b, KeptEffect w p (body s k c a b)) :
    KeptOut w p (commandWord o privileged useA useB s body) := by
  unfold commandWord
  dsimp only
  refine runWord_kept h fun _ _ _ => ?_
  exact .ite .trap (by split; exact .trap; exact hb _ _ _ _)

theorem consumeWait_kept {core : Nat} {e : EngCmd} (h : Kept w p s) : KeptWith w p (consumeWait s core e) := by
  unfold consumeWait
  exact .ite (.mk h) (.ite (.mk h) (.ite (.mk (semTake_kept h)) (.mk (semJoin_kept h))))

theorem reeveDone_kept {k : Nat} {cause : BitVec 8} (h : Kept w p s) : Kept w p (reeveDone s k cause) := by
  unfold reeveDone
  exact putReeve_kept h

theorem cmdFault_kept {e : EngCmd} {code : BitVec 8} {addr : Word} {again : Bool} (h : Kept w p s) :
    Kept w p (cmdFault s e code addr again) := by
  unfold cmdFault
  split
  · exact h
  · exact .ite (modCrew_kept h) (modCrew_kept (lateFault_kept h))

theorem releaseMills_kept {core id : Nat} (h : Kept w p s) : Kept w p (releaseMills s core id) :=
  .upd h

theorem dropCmd_kept {core : Nat} {e : EngCmd} (h : Kept w p s) : Kept w p (dropCmd s core e) := by
  unfold dropCmd
  exact modCrew_kept (putCore_kept (.upd (endWrites_kept (releaseMills_kept h))))

theorem freeCmdLog_kept {e : EngCmd} (h : Kept w p s) : Kept w p (freeCmdLog s e) := by
  unfold freeCmdLog
  exact modCrew_kept h

theorem stopCmd_kept {core : Nat} {e : EngCmd} {code : BitVec 8} {addr : Word} {again : Bool} (h : Kept w p s) :
    Kept w p (stopCmd s core e code addr again) := by
  unfold stopCmd
  exact .ite (freeCmdLog_kept (reeveDone_kept (dropCmd_kept h))) (cmdFault_kept (dropCmd_kept h))

theorem finishCmd_kept {core : Nat} {e : EngCmd} (h : Kept w p s) : Kept w p (finishCmd s core e) := by
  unfold finishCmd
  dsimp only
  refine .ite (freeCmdLog_kept (reeveDone_kept (dropCmd_kept (endWrites_kept h)))) ?_
  refine .ite ?_ (freeCmdLog_kept (dropCmd_kept (endWrites_kept h)))
  split
  · rename_i t1 heq
    exact freeCmdLog_kept ((semAdd_kept (dropCmd_kept (endWrites_kept h))).of_eq heq)
  · rename_i t1 heq
    exact cmdFault_kept ((semAdd_kept (dropCmd_kept (endWrites_kept h))).of_eq heq)

theorem holdCmd_kept {core : Nat} {e : EngCmd} {code : BitVec 8} {addr : Word} (h : Kept w p s) :
    Kept w p (holdCmd s core e code addr) := by
  have hc {c : Crew} : Kept w p (holdCmd.finishCancelled s core e c) := modCrew_kept (dropCmd_kept h)
  unfold holdCmd
  refine .ite (stopCmd_kept h) ?_
  split
  · exact dropCmd_kept h
  · exact .ite hc (holdFault_kept (putCmd_kept h))

theorem holdCmd_finishCancelled_kept {core : Nat} {e : EngCmd} {c : Crew} (h : Kept w p s) :
    Kept w p (holdCmd.finishCancelled s core e c) := by
  unfold holdCmd.finishCancelled
  exact modCrew_kept (dropCmd_kept h)

theorem Moved_map_kept {α β : Type} {f : α → β} {r : Moved α} (h : KeptMoved w p r) : KeptMoved w p (r.map f) := by
  cases r <;> exact h

theorem ofReply_kept {va : Nat} {t : Target} {r : Reply × State} (h : KeptWith w p r) : KeptMoved w p (ofReply va t r) := by
  obtain ⟨r, u⟩ := r
  cases r <;> exact h

theorem cmdTarget_kept {e : EngCmd} {va n : Nat} {kind : AccessKind} (h : Kept w p s) :
    KeptMoved w p (cmdTarget s e va n kind) := by
  unfold cmdTarget
  dsimp only
  refine .ite (.fault h) ?_
  refine .ite (.wait (keepWalks_kept h ((KeptWith.ite (.mk h) (translate_kept h)).snd))) ?_
  split
  · exact .fault ((KeptWith.ite (.mk h) (translate_kept h)).snd)
  · exact .ite (.fault ((KeptWith.ite (.mk h) (translate_kept h)).snd))
      (.ite (.wait ((KeptWith.ite (.mk h) (translate_kept h)).snd))
      (.ite (.wait (targetWaits_kept ((KeptWith.ite (.mk h) (translate_kept h)).snd)))
      (.ok ((KeptWith.ite (.mk h) (translate_kept h)).snd))))

theorem cmdRead_kept {e : EngCmd} {va n : Nat} (h : Kept w p s) : KeptMoved w p (cmdRead s e va n) := by
  unfold cmdRead
  split
  · exact Moved_map_kept (ofReply_kept (lentRead_kept h))
  · split
    · rename_i t1 heq
      exact .wait ((cmdTarget_kept h).of_wait heq)
    · rename_i t1 heq
      exact .fault ((cmdTarget_kept h).of_fault heq)
    · rename_i t1 heq
      have h1 : Kept w p t1 := (cmdTarget_kept h).of_ok heq
      refine .ite (.fault h1) ?_
      refine .ite (Moved_map_kept (ofReply_kept (lentRead_kept h1))) ?_
      split
      · exact .fault (afterTarget_kept h1)
      · exact .ok (afterTarget_kept h1)

theorem cmdWrite_kept {e : EngCmd} {va : Nat} {bs : List Byte} (h : Kept w p s) : KeptMoved w p (cmdWrite s e va bs) := by
  unfold cmdWrite
  split
  · exact Moved_map_kept (ofReply_kept (lentWrite_kept h))
  · split
    · rename_i t1 heq
      exact .wait ((cmdTarget_kept h).of_wait heq)
    · rename_i t1 heq
      exact .fault ((cmdTarget_kept h).of_fault heq)
    · rename_i t1 heq
      have h1 : Kept w p t1 := (cmdTarget_kept h).of_ok heq
      exact .ite (.fault h1) (.ite (Moved_map_kept (ofReply_kept (lentWrite_kept (.ite h1 (recordWrite_kept h1)))))
        (.ok (signCrossings_kept (.ite h1 (recordWrite_kept h1)) (targetWrite_kept (.ite h1 (recordWrite_kept h1))))))

theorem cmdOldByte_kept {e : EngCmd} {va : Nat} (h : Kept w p s) : KeptMoved w p (cmdOldByte s e va) := by
  unfold cmdOldByte
  split
  · exact Moved_map_kept (ofReply_kept (lentRead_kept h))
  · split
    · rename_i t1 heq
      exact .wait ((cmdTarget_kept h).of_wait heq)
    · rename_i t1 heq
      exact .fault ((cmdTarget_kept h).of_fault heq)
    · rename_i t1 heq
      have h1 : Kept w p t1 := (cmdTarget_kept h).of_ok heq
      exact .ite (Moved_map_kept (ofReply_kept (lentRead_kept h1))) (.ok h1)

theorem workOn_kept {f : State → EngCmd → Worked} {n : Nat} {e : EngCmd} (h : Kept w p s)
    (hf : ∀ t e, Kept w p t → KeptWorked w p (f t e)) : KeptWorked w p (workOn f n s e) := by
  induction n generalizing s e with
  | zero => exact h
  | succ n ih =>
    have hr := hf s e h
    unfold workOn
    split
    · next t d heq => exact ih (hr.of_more heq)
    · exact hr

theorem workCmd_kept {core : Nat} {f : State → EngCmd → Worked} {e : EngCmd} (h : Kept w p s)
    (hf : ∀ t e, Kept w p t → KeptWorked w p (f t e)) : Kept w p (workCmd core f s e) := by
  have hr : KeptWorked w p (workOn f (2 ^ 60) s e) := workOn_kept h hf
  unfold workCmd
  split
  · next heq => exact putCmd_kept (hr.of_more heq)
  · next heq => exact putCmd_kept (hr.of_wait heq)
  · next heq => exact putCmd_kept (hr.of_finished heq)
  · next heq =>
    exact .ite (holdCmd_kept (putCmd_kept (hr.of_fault heq))) (stopCmd_kept (putCmd_kept (hr.of_fault heq)))

end Sys2Proof.Machine
end

/-! ### What a turn keeps, through commands, contexts and the Dispatcher -/

section
namespace Sys2Proof.Machine
open Sys2Proof.Claims Sys2Proof.Config
variable {w : Bool} {p : Option Port} {s : State}

/-! #### The hierarchy of work -/

theorem writeCompletion_kept {d0 d1 : Word} (h : Kept w none s) : Kept w none (writeCompletion s d0 d1) := by
  unfold writeCompletion
  exact .port (ctlWrite_kept h)

theorem recordWritten_kept {key : Nat} (h : Kept w none s) : Kept w none (recordWritten s key) := by
  unfold recordWritten
  exact .ite (.port h) (.upd h)

theorem drainEnded_kept {n : Nat} (h : Kept w none s) : Kept w none (drainEnded s n) := by
  induction n generalizing s with
  | zero => exact h
  | succ n ih =>
    unfold drainEnded
    split
    · exact h
    · exact .ite (ih (recordWritten_kept (.port (writeCompletion_kept h)))) h

theorem flushEnded_kept (h : Kept w none s) : Kept w none (flushEnded s) := by
  unfold flushEnded
  exact drainEnded_kept h

theorem unpair_kept {l : Nat × Nat} (h : Kept w p s) : Kept w p (unpair s l) := by
  unfold unpair
  split
  · exact .ite (putLevel_kept h) h
  · exact h

theorem settleLevel_kept {l : Nat × Nat} (h : Kept w none s) : Kept w none (settleLevel s l) := by
  unfold settleLevel
  dsimp only
  refine .ite ?_ h
  split
  · exact .ite (flushEnded_kept (.port (putLevel_kept (unpair_kept h)))) h
  · exact flushEnded_kept (.port (putLevel_kept (unpair_kept h)))
  · exact h

theorem addCounters_kept {ls : List (Nat × Nat)} {n : Nat} (h : Kept w p s) : Kept w p (addCounters s ls n) := by
  unfold addCounters
  exact .foldl h fun _ _ ht => putLevel_kept ht

theorem subCounters_kept {ls : List (Nat × Nat)} {n : Nat} (h : Kept w none s) : Kept w none (subCounters s ls n) := by
  unfold subCounters
  exact .foldl (.foldl h fun _ _ ht => putLevel_kept ht) fun _ _ ht => settleLevel_kept ht

theorem openLevel_kept {kind id job : Nat} {phase : Option Nat} {root : Nat} (h : Kept w p s) :
    Kept w p (openLevel s kind id job phase root) := by
  unfold openLevel
  exact putLevel_kept h

theorem closeLevel_kept {kind id : Nat} (h : Kept w none s) : Kept w none (closeLevel s kind id) := by
  unfold closeLevel
  exact settleLevel_kept (putLevel_kept h)

theorem discardUnstarted_kept {k : Nat} (h : Kept w p s) : Kept w p (discardUnstarted s k) := by
  unfold discardUnstarted
  split
  · exact h
  · exact putCrew_kept (putCore_kept h)

theorem discardHeld_kept {k : Nat} (h : Kept w p s) : Kept w p (discardHeld s k) := by
  unfold discardHeld
  split
  · exact h
  · exact .foldl h fun _ _ ht => dropCmd_kept ht

theorem cancelCrew_kept {k : Nat} (h : Kept w p s) : Kept w p (cancelCrew s k) := by
  unfold cancelCrew
  exact modCrew_kept (discardUnstarted_kept (discardHeld_kept h))

theorem releaseClaims_kept {ids : List Nat} (h : Kept w p s) : Kept w p (releaseClaims s ids) := by
  unfold releaseClaims
  exact .ite h (.upd h)

theorem cancelUnits_kept {l : Nat × Nat} (h : Kept w none s) : Kept w none (cancelUnits s l) := by
  unfold cancelUnits
  dsimp only
  refine .foldl ?_ fun _ _ ht => ?_
  · refine .foldl h fun _ _ ht => ?_
    split
    · exact subCounters_kept (releaseClaims_kept (.upd ht))
    · exact ht
  · refine .ite ?_ ht
    refine .ite (subCounters_kept (releaseClaims_kept (.upd ht))) ?_
    refine .foldl (.upd ht) fun _ _ ht1 => ?_
    split
    · exact .ite (cancelCrew_kept ht1) ht1
    · exact ht1

theorem endReplay_kept {graph : Nat} (h : Kept w none s) : Kept w none (endReplay s graph) := by
  unfold endReplay
  split
  · exact h
  · exact subCounters_kept (putLevel_kept (.upd h))

theorem markCancelling_kept {l : Nat × Nat} (h : Kept w p s) : Kept w p (markCancelling s l) := by
  unfold markCancelling
  exact putLevel_kept h

theorem cancelLevel_kept {kind id : Nat} (h : Kept w none s) : Kept w none (cancelLevel s kind id) := by
  unfold cancelLevel
  exact .ite (.upd (.foldl (.foldl (.foldl (.foldl h fun _ _ ht => markCancelling_kept ht) fun _ _ ht => cancelUnits_kept ht)
    fun _ _ ht => endReplay_kept ht) fun _ _ ht => settleLevel_kept ht)) h

theorem cancelInnermost_kept {d : List Word} (h : Kept w none s) : Kept w none (cancelInnermost s d) := by
  unfold cancelInnermost
  exact .ite (cancelLevel_kept h) (cancelLevel_kept h)

theorem orWaits_kept {c : Creator} {f : State → State} (h : Kept w none s) (hf : Kept w none (f s)) :
    Kept w none (orWaits s c f) := by
  unfold orWaits
  exact .ite (keepWalks_kept (.upd h) hf) hf

theorem intoStore_kept {uid : Nat} (h : Kept w p s) : Kept w p (intoStore s uid) := by
  unfold intoStore
  exact bump_kept (.upd h)

theorem enqueue_kept {u : WorkUnit} (h : Kept w p s) : Kept w p (enqueue s u) := by
  unfold enqueue
  exact bump_kept (.upd h)

theorem createUnit_kept {docket params : List Word} {nsucc succ : Nat} (h : Kept w p s) :
    Kept w p (createUnit s docket params nsucc succ) := by
  unfold createUnit
  exact enqueue_kept (addCounters_kept h)

/-! #### The command port’s commands -/

theorem endCommand_kept {c : Cmd} {status addr count : Nat} (h : Kept w none s) :
    Kept w none (endCommand s c status addr count) := by
  unfold endCommand
  exact flushEnded_kept (.port h)

theorem command_kept {c : Cmd} {bad : Bool} {body : State → State} (h : Kept w none s) (hb : Kept w none (body s)) :
    KeptOut w none (command c bad s body) := by
  unfold command
  exact .next (.ite (endCommand_kept h) hb)

theorem forgetJob_kept {job : Nat} (h : Kept w p s) : Kept w p (forgetJob s job) :=
  .upd h

theorem execJobopen_kept {c : Cmd} (h : Kept w none s) : KeptOut w none (execJobopen c s) := by
  unfold execJobopen
  exact command_kept h (.ite (endCommand_kept h) (endCommand_kept (forgetJob_kept (openLevel_kept h))))

theorem execJobend_kept {c : Cmd} (h : Kept w none s) : KeptOut w none (execJobend c s) := by
  unfold execJobend
  exact command_kept h (.ite (endCommand_kept (closeLevel_kept h)) (endCommand_kept h))

theorem execPhaseopen_kept {c : Cmd} (h : Kept w none s) : KeptOut w none (execPhaseopen c s) := by
  unfold execPhaseopen
  exact command_kept h (.ite (endCommand_kept h) (.ite (endCommand_kept h) (endCommand_kept (openLevel_kept h))))

theorem execPhaseclose_kept {c : Cmd} (h : Kept w none s) : KeptOut w none (execPhaseclose c s) := by
  unfold execPhaseclose
  exact command_kept h (.ite (endCommand_kept (closeLevel_kept h)) (endCommand_kept h))

theorem execCancelCommand_kept {c : Cmd} (h : Kept w none s) : KeptOut w none (execCancelCommand c s) := by
  unfold execCancelCommand
  exact command_kept h (endCommand_kept (.ite (cancelLevel_kept h) h))

theorem readShare_kept {c : Cmd} (h : Kept w p s) : KeptWith w p (readShare s c) := by
  unfold readShare
  refine .ite (.mk h) ?_
  split
  · rename_i t1 heq
    exact .mk ((readVirtual_kept h).of_eq heq)
  · rename_i t1 heq
    have h1 : Kept w p t1 := (readVirtual_kept h).of_eq heq
    dsimp only
    refine .ite (.mk h1) ?_
    split
    · rename_i t2 heq1
      exact .mk ((readVirtual_kept h1).of_eq heq1)
    · rename_i t2 heq1
      have h2 : Kept w p t2 := (readVirtual_kept h1).of_eq heq1
      split
      · exact .mk h2
      · exact .mk h2

theorem launchDocket_kept {c : Cmd} {i : Nat} (h : Kept w p s) : KeptWith w p (launchDocket s c i) := by
  unfold launchDocket
  dsimp only
  split
  · rename_i t1 heq
    exact .mk ((readVirtual_kept h).of_eq heq)
  · rename_i t1 heq
    exact .mk ((readVirtual_kept h).of_eq heq)

theorem endLaunch_kept {c : Cmd} {skipped first : Nat} (h : Kept w none s) : Kept w none (endLaunch s c skipped first) := by
  unfold endLaunch
  exact .ite (endCommand_kept (closeLevel_kept h)) (endCommand_kept (closeLevel_kept h))

theorem launchUnits_kept {c : Cmd} {i skipped first n : Nat} (h : Kept w none s) :
    Kept w none (launchUnits s c i skipped first n) := by
  induction n generalizing s i skipped first with
  | zero => exact endLaunch_kept h
  | succ n ih =>
    unfold launchUnits
    refine .ite (ih h) ?_
    refine .ite (.port h) ?_
    split
    · rename_i t1 heq
      exact endCommand_kept (closeLevel_kept ((launchDocket_kept h).of_eq heq))
    · rename_i t1 heq
      have h1 : Kept w none t1 := (launchDocket_kept h).of_eq heq
      exact .ite (ih h1) (ih (createUnit_kept h1))

theorem startLaunch_kept {c : Cmd} {h' : Share} (h : Kept w none s) : Kept w none (startLaunch s c h') := by
  unfold startLaunch
  dsimp only
  refine .ite (launchUnits_kept (openLevel_kept h)) ?_
  split
  · rename_i t1 heq
    exact endCommand_kept (closeLevel_kept ((writeVirtual_kept (openLevel_kept h)).of_eq heq))
  · rename_i t1 heq
    exact launchUnits_kept ((writeVirtual_kept (openLevel_kept h)).of_eq heq)

theorem execLaunch_kept {c : Cmd} (h : Kept w none s) : KeptOut w none (execLaunch c s) := by
  unfold execLaunch
  refine command_kept h ?_
  refine .ite (endCommand_kept h) ?_
  refine .ite (endCommand_kept h) ?_
  split
  · rename_i t1 heq
    exact endCommand_kept ((readShare_kept h).of_eq heq)
  · rename_i t1 _ heq
    have h1 : Kept w none t1 := (readShare_kept h).of_eq heq
    dsimp only
    split
    · rename_i t2 heq1
      exact endCommand_kept ((KeptWith.ite (.mk h1) (launchDocket_kept h1)).of_eq heq1)
    · rename_i t2 heq1
      have h2 : Kept w none t2 := (KeptWith.ite (.mk h1) (launchDocket_kept h1)).of_eq heq1
      split
      · exact endCommand_kept h2
      · exact .ite (endCommand_kept h2) (.ite (endCommand_kept h2) (startLaunch_kept h2))

theorem nodeParams_kept {job param : Nat} {d : List Word} (h : Kept w p s) : KeptWith w p (nodeParams s job param d) := by
  unfold nodeParams
  refine .ite (.mk h) ?_
  split
  · rename_i t1 heq
    exact .mk ((readVirtual_kept h).of_eq heq)
  · rename_i t1 heq
    exact .mk ((readVirtual_kept h).of_eq heq)

theorem createNode_kept {graph : Nat} {r : Replay} {addr : Nat} (h : Kept w none s) :
    KeptExcept w none (createNode s graph r addr) := by
  unfold createNode
  split
  · rename_i t1 heq
    exact .error ((readVirtual_kept h).of_eq heq)
  · rename_i t1 heq
    have h1 : Kept w none t1 := (readVirtual_kept h).of_eq heq
    dsimp only
    refine .ite (.ok (cancelLevel_kept h1)) ?_
    split
    · rename_i t2 heq1
      exact .error ((nodeParams_kept h1).of_eq heq1)
    · rename_i t2 heq1
      have h2 : Kept w none t2 := (nodeParams_kept h1).of_eq heq1
      exact .ok (.ite (closeLevel_kept (.upd (enqueue_kept h2))) (.upd (enqueue_kept h2)))

theorem faultReplay_kept {c : Cmd} {f : Word} (h : Kept w none s) : Kept w none (faultReplay s c f) := by
  unfold faultReplay
  exact endCommand_kept (cancelLevel_kept h)

theorem replayRoots_kept {c : Cmd} {i n : Nat} (h : Kept w none s) : Kept w none (replayRoots s c i n) := by
  induction n generalizing s i with
  | zero => exact endCommand_kept h
  | succ n ih =>
    unfold replayRoots
    split
    · exact endCommand_kept h
    · dsimp only
      split
      · rename_i t1 heq
        exact faultReplay_kept ((readVirtual_kept h).of_eq heq)
      · rename_i t1 heq
        have h1 : Kept w none t1 := (readVirtual_kept h).of_eq heq
        refine .ite (ih h1) ?_
        refine .ite (.port h1) ?_
        split
        · rename_i t2 heq1
          exact faultReplay_kept ((createNode_kept h1).of_error heq1)
        · rename_i t2 heq1
          exact ih ((createNode_kept h1).of_ok heq1)

theorem replayPends_kept {c : Cmd} {job nodes i n : Nat} (h : Kept w p s) : KeptWith w p (replayPends s c job nodes i n) := by
  induction n generalizing s i with
  | zero => exact h
  | succ n ih =>
    unfold replayPends
    dsimp only
    split
    · rename_i t1 heq
      exact .mk ((readVirtual_kept h).of_eq heq)
    · rename_i t1 heq
      have h1 : Kept w p t1 := (readVirtual_kept h).of_eq heq
      split
      · rename_i t2 heq1
        exact .mk ((writeVirtual_kept h1).of_eq heq1)
      · rename_i t2 heq1
        exact ih ((writeVirtual_kept h1).of_eq heq1)

theorem execReplay_kept {c : Cmd} (h : Kept w none s) : KeptOut w none (execReplay c s) := by
  unfold execReplay
  refine command_kept h ?_
  refine .ite (endCommand_kept h) ?_
  refine .ite (endCommand_kept h) ?_
  refine .ite (endCommand_kept h) ?_
  refine .ite (endCommand_kept h) ?_
  dsimp only
  split
  · rename_i t1 heq
    have h1 : Kept w none t1 := (replayPends_kept (closeLevel_kept
      (addCounters_kept (.upd (putLevel_kept (putLevel_kept (openLevel_kept (openLevel_kept h)))))))).of_eq heq
    exact faultReplay_kept h1
  · rename_i t1 heq
    have h1 : Kept w none t1 := (replayPends_kept (closeLevel_kept
      (addCounters_kept (.upd (putLevel_kept (putLevel_kept (openLevel_kept (openLevel_kept h)))))))).of_eq heq
    exact replayRoots_kept h1

theorem patchCopy_kept {c : Cmd} {i n : Nat} (h : Kept w none s) : Kept w none (patchCopy s c i n) := by
  induction n generalizing s i with
  | zero => exact endCommand_kept h
  | succ n ih =>
    unfold patchCopy
    split
    · rename_i t1 heq
      exact endCommand_kept ((readVirtual_kept h).of_eq heq)
    · rename_i t1 heq
      have h1 : Kept w none t1 := (readVirtual_kept h).of_eq heq
      split
      · rename_i t2 heq1
        exact endCommand_kept ((writeVirtual_kept h1).of_eq heq1)
      · rename_i t2 heq1
        exact ih ((writeVirtual_kept h1).of_eq heq1)

theorem execGpatch_kept {c : Cmd} (h : Kept w none s) : KeptOut w none (execGpatch c s) := by
  unfold execGpatch
  exact command_kept h (.ite (endCommand_kept h) (.ite (.port h) (patchCopy_kept h)))

theorem execGpatchRelease_kept (h : Kept w none s) : KeptOut w none (execGpatchRelease s) := by
  unfold execGpatchRelease
  split
  · exact .ite (.next (.ite (patchCopy_kept (.port h)) (endCommand_kept h))) (.next h)
  · exact .next h

theorem closeUnit_kept {u : WorkUnit} (h : Kept w none s) : Kept w none (closeUnit s u) := by
  unfold closeUnit
  exact subCounters_kept (.upd h)

theorem createSuccessor_kept {u : WorkUnit} {node : Nat} (h : Kept w none s) : Kept w none (createSuccessor s u node) := by
  unfold createSuccessor
  split
  · exact h
  · split
    · rename_i t1 heq
      exact (createNode_kept h).of_ok heq
    · rename_i t1 heq
      exact cancelInnermost_kept ((createNode_kept h).of_error heq)

theorem decrementPend_kept {u : WorkUnit} {i : Nat} (h : Kept w p s) : KeptWith w p (decrementPend s u i) := by
  unfold decrementPend
  split
  · rename_i t1 heq
    exact .mk ((readVirtual_kept h).of_eq heq)
  · rename_i t1 heq
    have h1 : Kept w p t1 := (readVirtual_kept h).of_eq heq
    dsimp only
    refine .ite (.mk h1) ?_
    split
    · rename_i t2 heq1
      exact .mk ((atomicVirtual_kept h1).of_eq heq1)
    · rename_i t2 heq1
      exact .mk ((atomicVirtual_kept h1).of_eq heq1)

theorem walkSuccessors_kept {u : WorkUnit} {i n : Nat} (h : Kept w none s) : Kept w none (walkSuccessors s u i n) := by
  induction n generalizing s i with
  | zero => exact closeUnit_kept h
  | succ n ih =>
    unfold walkSuccessors
    split
    · rename_i t1 heq
      exact ih (cancelInnermost_kept ((decrementPend_kept h).of_eq heq))
    · rename_i t1 heq
      have h1 : Kept w none t1 := (decrementPend_kept h).of_eq heq
      exact .ite (ih (cancelLevel_kept h1)) (.ite (ih h1) (.ite (ih (createSuccessor_kept h1)) (.upd h1)))

theorem retireUnit_kept {u : WorkUnit} (h : Kept w none s) : Kept w none (retireUnit s u) := by
  unfold retireUnit
  refine .ite (closeUnit_kept h) ?_
  dsimp only
  refine .ite (walkSuccessors_kept (.upd h)) ?_
  refine .ite (closeUnit_kept (.upd h)) ?_
  split
  · rename_i t1 heq
    exact closeUnit_kept (cancelInnermost_kept ((atomicVirtual_kept (.upd h)).of_eq heq))
  · rename_i t1 heq
    exact closeUnit_kept ((atomicVirtual_kept (.upd h)).of_eq heq)

/-! #### Fetches, branches and loops -/

theorem fetchTarget_kept {k : Nat} {c : Crew} {va : Word} (h : Kept w p s) : KeptWith w p (fetchTarget s k c va) := by
  unfold fetchTarget
  refine .ite (.mk h) ?_
  split
  · exact .mk (spend_kept h)
  · exact translate_kept (spend_kept h)

theorem fetchWord_kept {k : Nat} {c : Crew} {va : Word} (h : Kept w p s) : KeptWith w p (fetchWord s k c va) := by
  unfold fetchWord
  dsimp only
  split
  · refine .ite (.mk (spend_kept h)) ?_
    split
    · rename_i t1 heq
      exact .mk ((fetchTarget_kept (spend_kept h)).of_eq heq)
    · rename_i t1 heq
      have h1 : Kept w p t1 := (fetchTarget_kept (spend_kept h)).of_eq heq
      exact .ite (.mk (.ite (afterRead_kept (hostTakes_kept h1)) (balkAt_kept h1)))
        (.mk (putCore_kept (.ite (afterRead_kept (hostTakes_kept h1)) (balkAt_kept h1))))
  · split
    · rename_i t1 heq
      exact .mk ((fetchTarget_kept h).of_eq heq)
    · rename_i t1 heq
      have h1 : Kept w p t1 := (fetchTarget_kept h).of_eq heq
      exact .ite (.mk (.ite (afterRead_kept (hostTakes_kept h1)) (balkAt_kept h1)))
        (.mk (putCore_kept (.ite (afterRead_kept (hostTakes_kept h1)) (balkAt_kept h1))))

theorem takeBranch_kept {str : Stream} {c : Crew} {target : Word} (h : Kept w p s) :
    KeptEffect w p (takeBranch s str c target) := by
  unfold takeBranch
  exact .ite .trap (.jump h)

theorem takeTransfer_kept {str : Stream} {c : Crew} {target : Word} (h : Kept w p s) :
    KeptEffect w p (takeTransfer s str c target) := by
  unfold takeTransfer
  exact .ite .trap (.jump h)

theorem execBr_kept {o : FmtB} (h : Kept w p s) : KeptOut w p (execBr o s) := by
  unfold execBr
  exact runWord_kept h fun _ _ _ => takeBranch_kept h

theorem execBrc_kept {o : FmtB} (h : Kept w p s) : KeptOut w p (execBrc o s) := by
  unfold execBrc
  exact runWord_kept h fun _ _ _ => .ite (takeBranch_kept h) (.done h)

theorem execJmp_kept {o : FmtB} (h : Kept w p s) : KeptOut w p (execJmp o s) := by
  unfold execJmp
  exact runWord_kept h fun _ _ _ => (by split; exact .trap; exact takeBranch_kept h)

theorem execCall_kept {o : FmtB} (h : Kept w p s) : KeptOut w p (execCall o s) := by
  unfold execCall
  exact runWord_kept h fun _ _ _ => takeTransfer_kept h

theorem execRet_kept {x : FmtB} (h : Kept w p s) : KeptOut w p (execRet x s) := by
  unfold execRet
  refine runWord_kept h fun _ _ _ => ?_
  split
  · exact .trap
  · exact .ite (.stall h) (by split; exact .trap; exact takeTransfer_kept h)

theorem execBrq_kept {o : FmtB} (h : Kept w p s) : KeptOut w p (execBrq o s) := by
  unfold execBrq
  refine runWord_kept h fun _ _ _ => ?_
  split
  · exact .trap
  · exact .ite (.stall h) (.ite .trap (.ite (takeBranch_kept h) (.done h)))

theorem loopCheck_kept {k : Nat} {c : Crew} {st : StreamState} {last : Word} (h : Kept w p s) :
    KeptWith w p (loopCheck s k c st last) := by
  unfold loopCheck
  split
  · rename_i t1 heq
    exact .mk ((fetchWord_kept h).of_eq heq)
  · rename_i t1 heq
    have h1 : Kept w p t1 := (fetchWord_kept h).of_eq heq
    exact .ite (.mk h1) (.mk h1)

theorem checkedLoop_kept {k : Nat} {c : Crew} {str : Stream} {last : Word} {body : State → Effect} (h : Kept w p s)
    (hb : ∀ t, Kept w p t → KeptEffect w p (body t)) : KeptEffect w p (checkedLoop s k c str last body) := by
  unfold checkedLoop
  split
  rename_i t1 heq
  have h1 : Kept w p t1 := (loopCheck_kept h).of_eq heq
  refine .ite (.stall (keepWalks_kept h h1)) (by split; exact .trap; exact hb _ h1)

theorem enterLoop_kept {str : Stream} {c : Crew} {last count : Word} (h : Kept w p s) :
    KeptEffect w p (enterLoop s str c last count) := by
  unfold enterLoop
  dsimp only
  refine .ite ?_ (.jump h)
  split
  · exact .ite (.jump h) (.jump h)
  · exact .jump h

theorem execLoop_kept {o : FmtLoop} (h : Kept w p s) : KeptOut w p (execLoop o s) := by
  unfold execLoop
  refine runWord_kept h fun _ _ _ => ?_
  dsimp only
  refine checkedLoop_kept h fun _ ht => ?_
  split
  · exact .trap
  · exact .ite (.stall ht) (by split; exact .trap; exact enterLoop_kept ht)

theorem execLoopi_kept {o : FmtLoopI} (h : Kept w p s) : KeptOut w p (execLoopi o s) := by
  unfold execLoopi
  exact runWord_kept h fun _ _ _ => checkedLoop_kept h fun _ ht => enterLoop_kept ht

theorem execQpush_kept {o : FmtA} (h : Kept w p s) : KeptOut w p (execQpush o s) := by
  unfold execQpush
  refine runWord_kept h fun _ _ _ => ?_
  dsimp only
  split
  · exact .ite (.done h) .trap
  · exact .ite .trap (.ite (.done h) .trap)

theorem execRvz_kept {o : FmtA} (h : Kept w p s) : KeptOut w p (execRvz o s) := by
  unfold execRvz
  refine runWord_kept h fun _ _ _ => ?_
  dsimp only
  exact .ite .trap (by split; exact .done h; exact .done h)

theorem execExit_kept {x : FmtA} (h : Kept w p s) : KeptOut w p (execExit x s) := by
  unfold execExit
  exact runWord_kept h fun _ _ _ => .jump h

/-! #### Saved contexts -/

theorem readContext_kept {core job va : Nat} (h : Kept w p s) : KeptWith w p (readContext s core job va) := by
  unfold readContext
  split
  · rename_i t1 heq
    exact .mk ((readVirtual_kept h).of_eq heq)
  · rename_i t1 heq
    exact .mk ((readVirtual_kept h).of_eq heq)

theorem writeContext_kept {core job va : Nat} {w' : List Word} (h : Kept w p s) :
    KeptWith w p (writeContext s core job va w') := by
  unfold writeContext
  split
  · rename_i t1 heq
    exact .mk ((writeVirtual_kept h).of_eq heq)
  · rename_i t1 heq
    exact .mk ((writeVirtual_kept h).of_eq heq)

theorem writeImage_kept {k job : Nat} {tdef : List Word} {va : Nat} (h : Kept w p s) :
    KeptWith w p (writeImage s k job tdef va) := by
  unfold writeImage
  dsimp only
  split
  · rename_i t1 heq
    exact .mk ((writeVirtual_kept h).of_eq heq)
  · rename_i t1 heq
    exact .mk ((writeVirtual_kept h).of_eq heq)

theorem readImage_kept {k job va : Nat} {l : List Region} (h : Kept w p s) : KeptWith w p (readImage s k job va l) := by
  induction l generalizing s va with
  | nil => exact h
  | cons r rest ih =>
    unfold readImage
    split
    · rename_i t1 heq
      exact ih (Region_write_kept ((readVirtual_kept h).of_eq heq))
    · rename_i t1 heq
      exact .mk ((readVirtual_kept h).of_eq heq)

theorem requeue_kept {k : Nat} {c : Crew} {l : LogEntry} (h : Kept w p s) : Kept w p (requeue s k c l) := by
  unfold requeue
  refine .ite (modCmd_kept h) ?_
  split
  · exact h
  · split
    · exact h
    · dsimp only
      split
      · exact modCrew_kept h
      · exact modCrew_kept h
      · exact putCore_kept h

theorem reissue_kept {k : Nat} (h : Kept w p s) : Kept w p (reissue s k) := by
  unfold reissue
  split
  · exact h
  · exact .foldl (putCrew_kept h) fun _ _ ht => (by split; exact requeue_kept ht; exact ht)

/-! #### The Dispatcher -/

theorem writeSnapshot_kept {u : WorkUnit} {core : Nat} (h : Kept w p s) : KeptWith w p (writeSnapshot s u core) := by
  unfold writeSnapshot
  refine .ite ?_ (.mk h)
  split
  · rename_i t1 heq
    exact .mk ((writeVirtual_kept h).of_eq heq)
  · rename_i t1 heq
    exact .mk ((writeVirtual_kept h).of_eq heq)

theorem restoreEntry_kept {core job : Nat} {e : List Word} (h : Kept w p s) : KeptWith w p (restoreEntry s core job e) := by
  unfold restoreEntry
  dsimp only
  split
  · rename_i t1 heq
    exact .mk ((readVirtual_kept h).of_eq heq)
  · rename_i t1 heq
    have h1 : Kept w p t1 := (readVirtual_kept h).of_eq heq
    split
    · rename_i t2 heq1
      exact .mk ((writeVirtual_kept h1).of_eq heq1)
    · rename_i t2 heq1
      exact .mk ((writeVirtual_kept h1).of_eq heq1)

theorem restoreAll_kept {core job list n : Nat} (h : Kept w p s) : KeptWith w p (restoreAll s core job list n) := by
  induction n generalizing s list with
  | zero => exact h
  | succ n ih =>
    unfold restoreAll
    split
    · rename_i t1 heq
      exact .mk ((readVirtual_kept h).of_eq heq)
    · rename_i t1 heq
      have h1 : Kept w p t1 := (readVirtual_kept h).of_eq heq
      split
      · rename_i t2 heq1
        exact ih ((restoreEntry_kept h1).of_eq heq1)
      · exact restoreEntry_kept h1

theorem restoreUnit_kept {u : WorkUnit} {core : Nat} (h : Kept w p s) : KeptWith w p (restoreUnit s u core) := by
  unfold restoreUnit
  refine .ite (.mk h) ?_
  dsimp only
  split
  · rename_i t1 heq
    exact .mk ((readVirtual_kept h).of_eq heq)
  · rename_i t1 heq
    have h1 : Kept w p t1 := (readVirtual_kept h).of_eq heq
    exact .ite (.mk h1) (restoreAll_kept h1)

theorem startMember_kept {u : WorkUnit} {member slot crewId : Nat} (h : Kept w p s) :
    Kept w p (startMember s u member slot crewId) := by
  unfold startMember
  exact .upd (putCrew_kept (spend_kept h))

theorem resumeMember_kept {u : WorkUnit} {member slot crewId : Nat} (h : Kept w p s) :
    KeptWith w p (resumeMember s u member slot crewId) := by
  unfold resumeMember
  dsimp only
  split
  · rename_i t1 heq
    exact .mk ((readContext_kept h).of_eq heq)
  · rename_i t1 heq
    have h1 : Kept w p t1 := (readContext_kept h).of_eq heq
    split
    · rename_i t2 heq1
      have h2 : Kept w p t2 := (KeptWith.ite (readImage_kept (.upd (putCrew_kept (spend_kept h1))))
        (.mk (.upd (putCrew_kept (spend_kept h1))))).of_eq heq1
      exact .mk h2
    · rename_i t2 heq1
      have h2 : Kept w p t2 := (KeptWith.ite (readImage_kept (.upd (putCrew_kept (spend_kept h1))))
        (.mk (.upd (putCrew_kept (spend_kept h1))))).of_eq heq1
      split
      · rename_i t3 heq2
        exact .mk (reissue_kept ((writeVirtual_kept h2).of_eq heq2))
      · rename_i t3 heq2
        exact .mk ((writeVirtual_kept h2).of_eq heq2)

theorem startMembers_kept {u : WorkUnit} {l : List (Nat × Nat)} (h : Kept w p s) : KeptWith w p (startMembers s u l) := by
  induction l generalizing s with
  | nil => exact h
  | cons q rest ih =>
    unfold startMembers
    split
    · split
      · rename_i t1 heq
        exact ih ((resumeMember_kept h).of_eq heq)
      · exact resumeMember_kept h
    · exact ih (startMember_kept h)

theorem dispatchUnit_kept {u : WorkUnit} {bs : List Nat} (h : Kept w none s) : Kept w none (dispatchUnit s u bs) := by
  unfold dispatchUnit
  dsimp only
  exact .ite ((startMembers_kept ((KeptWith.ite (restoreUnit_kept ((writeSnapshot_kept (.upd h)).snd))
    (.mk ((writeSnapshot_kept (.upd h)).snd))).snd)).snd) (cancelInnermost_kept
    ((startMembers_kept ((KeptWith.ite (restoreUnit_kept ((writeSnapshot_kept (.upd h)).snd))
    (.mk ((writeSnapshot_kept (.upd h)).snd))).snd)).snd))

theorem execDispatch_kept {slot : Nat} (h : Kept w none s) : KeptOut w none (execDispatch slot s) := by
  unfold execDispatch
  exact .next (.ite h (by split; exact .ite h (dispatchUnit_kept h); exact h))

theorem execDocketPromotion_kept {uid : Nat} (h : Kept w p s) : KeptOut w p (execDocketPromotion uid s) := by
  unfold execDocketPromotion
  exact .next (by split; exact .ite (.upd h) h; exact h)

theorem execGangReservation_kept {uid : Nat} (h : Kept w p s) : KeptOut w p (execGangReservation uid s) := by
  unfold execGangReservation
  exact .next (by split; exact h; exact (by split; exact h; exact .ite (.upd h) h))

theorem spawnRecord_kept {d : List Word} (h : Kept w p s) : KeptWith w p (spawnRecord s d) := by
  unfold spawnRecord
  refine .ite (.mk h) ?_
  split
  · rename_i t1 heq
    exact .mk ((readVirtual_kept h).of_eq heq)
  · rename_i t1 heq
    exact .mk ((readVirtual_kept h).of_eq heq)

theorem spawnFault_kept {k seq : Nat} {code : BitVec 8} {addr : Word} (h : Kept w p s) :
    Kept w p (spawnFault s k seq code addr) := by
  unfold spawnFault
  exact .ite (holdFault_kept (modCrew_kept h)) (lateFault_kept (modCrew_kept h))

theorem spawnDocket_kept {k seq : Nat} {d : List Word} (h : Kept w p s) : Kept w p (spawnDocket s k seq d) := by
  unfold spawnDocket
  split
  · exact h
  · dsimp only
    refine .ite (putCrew_kept h) ?_
    refine .ite ?_ (.upd (putCrew_kept h))
    split
    · rename_i t1 heq
      exact spawnFault_kept ((spawnRecord_kept h).of_eq heq)
    · rename_i t1 heq
      have h1 : Kept w p t1 := (spawnRecord_kept h).of_eq heq
      split
      · exact putCrew_kept (createUnit_kept h1)
      · exact createUnit_kept h1

theorem deliverStatus_kept {cl seq v : Nat} (h : Kept w p s) : Kept w p (deliverStatus s cl seq v) := by
  unfold deliverStatus
  exact spend_kept (modCrew_kept h)

theorem runsOfUnit_kept {core : Nat} {d : List Word} (h : Kept w p s) : KeptWith w p (runsOfUnit s core d) := by
  unfold runsOfUnit
  split
  · rename_i t1 heq
    exact .mk ((readVirtual_kept h).of_eq heq)
  · rename_i t1 heq
    exact .mk ((readVirtual_kept h).of_eq heq)

theorem rerunUnit_kept {u : WorkUnit} {core runs : Nat} (h : Kept w p s) : KeptWith w p (rerunUnit s u core runs) := by
  unfold rerunUnit
  dsimp only
  split
  · rename_i t1 heq
    exact .mk ((readVirtual_kept h).of_eq heq)
  · rename_i t1 heq
    have h1 : Kept w p t1 := (readVirtual_kept h).of_eq heq
    split
    · rename_i t2 heq1
      exact .mk ((writeVirtual_kept h1).of_eq heq1)
    · rename_i t2 heq1
      have h2 : Kept w p t2 := (writeVirtual_kept h1).of_eq heq1
      exact .mk (.ite (intoStore_kept (.upd h2)) (.upd h2))

theorem loseUnit_kept {u : WorkUnit} (h : Kept w none s) : Kept w none (loseUnit s u) := by
  unfold loseUnit
  dsimp only
  split
  · exact subCounters_kept (.upd (cancelInnermost_kept h))
  · exact cancelInnermost_kept h

theorem settleStruck_kept {u : WorkUnit} {core : Nat} {rerun lost : Record} (h : Kept w none s) :
    Kept w none (settleStruck s u core rerun lost) := by
  unfold settleStruck
  dsimp only
  split
  · refine .ite ?_ (loseUnit_kept (postRecord_kept ((KeptWith.ite (runsOfUnit_kept h) (.mk h)).snd)))
    split
    · rename_i t1 heq
      exact postRecord_kept ((rerunUnit_kept ((KeptWith.ite (runsOfUnit_kept h) (.mk h)).snd)).of_eq heq)
    · rename_i t1 heq
      have h1 : Kept w none t1 := (rerunUnit_kept ((KeptWith.ite (runsOfUnit_kept h) (.mk h)).snd)).of_eq heq
      exact loseUnit_kept (postRecord_kept h1)
  · exact loseUnit_kept (postRecord_kept ((KeptWith.ite (runsOfUnit_kept h) (.mk h)).snd))

theorem execDocketCreationResume_kept (h : Kept w none s) : KeptOut w none (execDocketCreationResume s) := by
  unfold execDocketCreationResume
  refine .next ?_
  split
  · exact h
  · dsimp only
    split
    · split
      · exact retireUnit_kept (.upd h)
      · exact .upd h
    · split
      · exact settleStruck_kept (.upd h)
      · exact .upd h
    · split
      · exact launchUnits_kept (.upd h)
      · exact .upd h
    · split
      · exact replayRoots_kept (.upd h)
      · exact .upd h
    · split
      · exact walkSuccessors_kept (createSuccessor_kept (.upd h))
      · exact .upd h
    · split
      · split
        · exact spawnDocket_kept (.upd h)
        · exact .upd h
      · exact .upd h
    · split
      · exact deliverStatus_kept (.ite (intoStore_kept (.upd h)) (.upd h))
      · exact .ite (intoStore_kept (.upd h)) (.upd h)

theorem releaseCore_kept {k crewId : Nat} (h : Kept w p s) : Kept w p (releaseCore s k crewId) := by
  unfold releaseCore
  exact putCore_kept (releaseClaims_kept h)

theorem execCrewRetire_kept {slot : Nat} (h : Kept w none s) : KeptOut w none (execCrewRetire slot s) := by
  unfold execCrewRetire
  refine .next ?_
  split
  · exact h
  · refine .ite h ?_
    dsimp only
    split
    · exact releaseCore_kept (.upd h)
    · exact .ite (orWaits_kept (.upd (releaseCore_kept (.upd h))) (retireUnit_kept (.upd (releaseCore_kept (.upd h)))))
        (.upd (releaseCore_kept (.upd h)))

/-! #### Moves of the tile engines -/

theorem spanRead_kept {e : EngCmd} {l : List (Nat × Nat)} (h : Kept w p s) : KeptMoved w p (spanRead s e l) := by
  induction l generalizing s with
  | nil => exact h
  | cons q rest ih =>
    have hr : KeptMoved w p (cmdRead s e q.1 q.2) := cmdRead_kept h
    unfold spanRead
    split
    · next bs t heq =>
      have ht : KeptMoved w p (spanRead t e rest) := ih (hr.of_ok heq)
      split
      · next heq' => exact ht.of_ok heq'
      · exact ht
    · exact hr

theorem spanWrite_kept {e : EngCmd} {l : List (Nat × Nat)} {bs : List Byte} (h : Kept w p s) :
    KeptMoved w p (spanWrite s e l bs) := by
  induction l generalizing s bs with
  | nil => exact h
  | cons q rest ih =>
    have hr : KeptMoved w p (cmdWrite s e q.1 (bs.take q.2)) := cmdWrite_kept h
    unfold spanWrite
    split
    · next heq => exact ih (hr.of_ok heq)
    · exact hr

theorem outOfSpace_kept {α : Type} {e : EngCmd} {va : Int} (h : Kept w p s) : KeptMoved (α := α) w p (outOfSpace s e va) := h

theorem engineRead_kept {e : EngCmd} {va : Int} {n : Nat} (h : Kept w p s) : KeptMoved w p (engineRead s e va n) := by
  unfold engineRead
  exact .ite (outOfSpace_kept h) (spanRead_kept h)

theorem engineWrite_kept {e : EngCmd} {va : Int} {bs : List Byte} (h : Kept w p s) : KeptMoved w p (engineWrite s e va bs) := by
  unfold engineWrite
  exact .ite (outOfSpace_kept h) (spanWrite_kept h)

theorem regionPut_kept {e : EngCmd} {r : Region} {pos : Option Nat} {bs : List Byte} (h : Kept w p s) :
    Kept w p (regionPut s e r pos bs) := by
  unfold regionPut
  split
  · exact Region_write_kept h
  · exact h

theorem makeMove_kept {e : EngCmd} {r : Region} {m : Move} (h : Kept w p s) : KeptMoved w p (makeMove s e r m) := by
  unfold makeMove
  split
  · exact .ok h
  · exact .ok (Region_write_kept h)
  · split
    · rename_i t1 heq
      exact .ok (regionPut_kept ((engineRead_kept h).of_ok heq))
    · rename_i t1 heq
      exact .wait ((engineRead_kept h).of_wait heq)
    · rename_i t1 heq
      exact .fault ((engineRead_kept h).of_fault heq)
  · split
    · rename_i t1 heq
      exact .ok (Region_write_kept ((engineRead_kept h).of_ok heq))
    · rename_i t1 heq
      exact .wait ((engineRead_kept h).of_wait heq)
    · rename_i t1 heq
      exact .fault ((engineRead_kept h).of_fault heq)
  · exact engineWrite_kept h
  · refine .ite (outOfSpace_kept h) ?_
    split
    · rename_i t1 heq
      exact engineWrite_kept ((cmdOldByte_kept h).of_ok heq)
    · rename_i t1 heq
      exact .wait ((cmdOldByte_kept h).of_wait heq)
    · rename_i t1 heq
      exact .fault ((cmdOldByte_kept h).of_fault heq)

theorem scatterRun_kept {e : EngCmd} {r : Region} {l : List Move} {bs : List Byte} (h : Kept w p s) :
    Kept w p (scatterRun s e r l bs) := by
  induction l generalizing s bs with
  | nil => exact h
  | cons m l ih =>
    cases m with
    | load va n pos => exact ih (regionPut_kept h)
    | _ => exact h

theorem makeRun_kept {e : EngCmd} {r : Region} {ms : List Move} (h : Kept w p s) : KeptMoved w p (makeRun s e r ms) := by
  unfold makeRun
  split
  · exact makeMove_kept h
  · split
    · rename_i t1 heq
      exact .ok (scatterRun_kept ((engineRead_kept h).of_ok heq))
    · rename_i t1 heq
      exact .wait ((engineRead_kept h).of_wait heq)
    · rename_i t1 heq
      exact .fault ((engineRead_kept h).of_fault heq)
  · exact engineWrite_kept h
  · exact .ok h

theorem poisonFill_kept {e : EngCmd} {r : Region} {moveAt : Nat → Option Move} {n p' : Nat} (h : Kept w p s) :
    Kept w p (poisonFill s e r moveAt n p') := by
  unfold poisonFill
  split
  · refine spend_kept ?_
    refine .foldl h fun _ _ ht => ?_
    split
    · exact .foldl ht fun _ _ ht1 => .ite (Region_write_kept ht1) ht1
    · exact .ite (Region_write_kept ht) ht
    · exact ht
  · refine spend_kept ?_
    refine .foldl h fun _ _ ht => ?_
    split
    · exact .foldl ht fun _ _ ht1 => .ite (Region_write_kept ht1) ht1
    · exact .ite (Region_write_kept ht) ht
    · exact ht
  · exact h

theorem malformed_kept {e : EngCmd} (h : Kept w p s) : KeptWorked w p (malformed s e) := by
  unfold malformed
  exact .fault h

theorem latchRecord_kept {e : EngCmd} {va : Int} {n : Nat} (h : Kept w p s) : KeptWorked w p (latchRecord s e va n) := by
  unfold latchRecord
  split
  · rename_i t1 heq
    exact .more ((engineRead_kept h).of_ok heq)
  · rename_i t1 heq
    exact .wait ((engineRead_kept h).of_wait heq)
  · rename_i t1 heq
    exact .fault ((engineRead_kept h).of_fault heq)

theorem stepMove_kept {e : EngCmd} {r : Region} {moveAt : Nat → Option Move} {n p' : Nat} (h : Kept w p s) :
    KeptWorked w p (stepMove s e r moveAt n p') := by
  unfold stepMove
  dsimp only
  split
  · rename_i t1 heq
    exact .more ((makeRun_kept h).of_ok heq)
  · rename_i t1 heq
    exact .wait ((makeRun_kept h).of_wait heq)
  · rename_i t1 heq
    have h1 : Kept w p t1 := (makeRun_kept h).of_fault heq
    split
    · rename_i t2 heq1
      exact .more ((makeRun_kept h).of_ok heq1)
    · rename_i t2 heq1
      exact .wait ((makeRun_kept h).of_wait heq1)
    · rename_i t2 heq1
      exact .fault (poisonFill_kept ((makeRun_kept h).of_fault heq1))
    · rename_i t2 _ heq1
      exact .fault ((makeRun_kept h).of_fault heq1)
  · rename_i t1 _ heq
    exact .fault ((makeRun_kept h).of_fault heq)

theorem tileWork_kept {toMemory : Bool} {e : EngCmd} (h : Kept w p s) : KeptWorked w p (tileWork toMemory s e) := by
  unfold tileWork
  refine .ite (latchRecord_kept h) ?_
  dsimp only
  exact .ite (malformed_kept h) (by split; exact .finished h; exact stepMove_kept h)

theorem recordWork_kept {n count : Nat} {misaligned ok toMemory : List Word → Bool}
    {moves : List Word → Region → Nat → Option Move} {size : List Word → Nat} {e : EngCmd} (h : Kept w p s) :
    KeptWorked w p (recordWork n count misaligned ok toMemory moves size s e) := by
  unfold recordWork
  dsimp only
  refine .ite (.finished h) ?_
  refine .ite (latchRecord_kept h) ?_
  refine .ite (malformed_kept h) ?_
  exact .ite (.fault h) (by split; exact .more h; exact stepMove_kept h)

theorem copyWork_kept {e : EngCmd} (h : Kept w p s) : KeptWorked w p (copyWork s e) := by
  unfold copyWork
  exact recordWork_kept h

theorem listWork_kept {e : EngCmd} (h : Kept w p s) : KeptWorked w p (listWork s e) := by
  unfold listWork
  exact recordWork_kept h

theorem ropeStep_poisonedKeys_kept {e : EngCmd} {r : Region} {k : RopeRecord} {a : Int} {code : BitVec 8} (h : Kept w p s) :
    Kept w p (ropeStep.poisonedKeys e s r k a code) := by
  unfold ropeStep.poisonedKeys
  exact .ite (spend_kept (.foldl h fun _ _ ht => .foldl ht fun _ _ ht1 => .ite (regionPut_kept ht1) ht1)) h

theorem ropeStep_kept {e : EngCmd} {k : RopeRecord} (h : Kept w p s) : KeptWorked w p (ropeStep s e k) := by
  unfold ropeStep
  split
  dsimp only
  refine .ite (.finished h) ?_
  split
  · rename_i t1 heq
    exact .wait ((engineRead_kept h).of_wait heq)
  · rename_i t1 heq
    exact .fault ((engineRead_kept h).of_fault heq)
  · rename_i t1 heq
    have h1 : Kept w p t1 := (engineRead_kept h).of_ok heq
    split
    · rename_i t2 heq1
      exact .wait ((engineRead_kept h1).of_wait heq1)
    · rename_i t2 heq1
      exact .fault (ropeStep_poisonedKeys_kept ((engineRead_kept h1).of_fault heq1))
    · rename_i t2 heq1
      have h2 : Kept w p t2 := (engineRead_kept h1).of_ok heq1
      split
      · rename_i t3 heq2
        exact .wait ((engineRead_kept h2).of_wait heq2)
      · rename_i t3 heq2
        exact .fault (ropeStep_poisonedKeys_kept ((engineRead_kept h2).of_fault heq2))
      · rename_i t3 heq2
        exact .more (regionPut_kept (regionPut_kept ((engineRead_kept h2).of_ok heq2)))

theorem ropeWork_kept {e : EngCmd} (h : Kept w p s) : KeptWorked w p (ropeWork s e) := by
  unfold ropeWork
  exact .ite (latchRecord_kept h) (.ite (malformed_kept h) (.ite (.fault h) (.ite (.fault h) (ropeStep_kept h))))

theorem moveWork_kept {e : EngCmd} (h : Kept w p s) : KeptWorked w p (moveWork s e) := by
  unfold moveWork
  exact .finished (spend_kept (h.setSpad fun hm => memWriteCells_wf _ hm))

theorem carterWork_kept {e : EngCmd} (h : Kept w p s) : KeptWorked w p (carterWork s e) := by
  unfold carterWork
  refine .ite (.wait h) ?_
  split
  · exact tileWork_kept h
  · exact tileWork_kept h
  · exact copyWork_kept h
  · exact listWork_kept h
  · exact ropeWork_kept h
  · exact moveWork_kept h

end Sys2Proof.Machine
end

/-! ### What a turn keeps, through accesses, vector words and the Mills -/

section
namespace Sys2Proof.Machine
open Sys2Proof.Claims Sys2Proof.Config
variable {w : Bool} {p : Option Port} {s : State}

/-! #### Accesses that are performed -/

theorem deliverTo_kept {k : Nat} {c : Crew} {e : LogEntry} {v : Word} {poison : Bool} (h : Kept w p s) :
    Kept w p (deliverTo s k c e v poison) := by
  unfold deliverTo
  exact spend_kept (putCrew_kept h)

theorem performLoad_kept {k : Nat} {c : Crew} {e : LogEntry} {t : Target} (h : Kept w p s) :
    Kept w p (performLoad s k c e t) := by
  unfold performLoad
  exact .ite (.ite (deliverTo_kept h) (lateFault_kept h)) (.ite (deliverTo_kept (afterTarget_kept h))
    (deliverTo_kept (afterTarget_kept h)))

theorem performStore_kept {k : Nat} {c : Crew} {e : LogEntry} {t : Target} (h : Kept w p s) :
    Kept w p (performStore s k c e t) := by
  unfold performStore
  exact .ite (lateFault_kept h) (putCrew_kept (.ite (recordWrite_kept (targetWrite_kept h)) (targetWrite_kept h)))

theorem indivisible_kept {k : Nat} {e : LogEntry} {t : Target} {n : Nat} {f : Nat → Except (BitVec 8) (Option Nat)}
    {done : State → Nat → State} (h : Kept w p s) (hd : ∀ u old, Kept w p u → Kept w p (done u old)) :
    Kept w p (indivisible s k e t n f done) := by
  unfold indivisible
  refine .ite (lateFault_kept (afterTarget_kept h)) ?_
  dsimp only
  split
  · exact lateFault_kept (afterTarget_kept h)
  · exact hd _ _ (targetWrite_kept (afterTarget_kept h))
  · exact hd _ _ (afterTarget_kept h)

theorem performAtomic_kept {k : Nat} {c : Crew} {e : LogEntry} {t : Target} {op ty : BitVec 4} {ret : Bool} (h : Kept w p s) :
    Kept w p (performAtomic s k c e t op ty ret) := by
  unfold performAtomic
  exact indivisible_kept h fun _ _ ht => .ite (deliverTo_kept ht) (putCrew_kept ht)

theorem performMsemsig_kept {k : Nat} {c : Crew} {e : LogEntry} {t : Target} (h : Kept w p s) :
    Kept w p (performMsemsig s k c e t) := by
  unfold performMsemsig
  exact indivisible_kept h fun _ _ ht => putCrew_kept ht

theorem performJoindec_kept {k : Nat} {c : Crew} {e : LogEntry} {t : Target} (h : Kept w p s) :
    Kept w p (performJoindec s k c e t) := by
  unfold performJoindec
  exact indivisible_kept h fun _ _ ht => deliverTo_kept ht

theorem performSpawn_kept {k : Nat} {c : Crew} {e : LogEntry} {t : Target} (h : Kept w p s) :
    Kept w p (performSpawn s k c e t) := by
  unfold performSpawn
  exact .ite (lateFault_kept h) (.ite (lateFault_kept (afterTarget_kept h)) (spawnDocket_kept (afterTarget_kept h)))

theorem performAt_kept {k : Nat} {c : Crew} {e : LogEntry} {t : Target} (h : Kept w p s) : Kept w p (performAt s k c e t) := by
  unfold performAt
  split
  · exact performLoad_kept h
  · exact performLoad_kept h
  · exact performStore_kept h
  · exact performAtomic_kept h
  · exact performMsemsig_kept h
  · exact performJoindec_kept h
  · exact performSpawn_kept h
  · exact h

theorem sendAccess_kept {k : Nat} {c : Crew} {e : LogEntry} {t : Target} (h : Kept w p s) :
    Kept w p (sendAccess s k c e t) := by
  unfold sendAccess
  exact sendRequest_kept (putCrew_kept h)

theorem remoteAnswer_kept {k : Nat} {c : Crew} {e : LogEntry} {stat : Nat} {data : List Byte} {opnd : Word} (h : Kept w p s) :
    Kept w p (remoteAnswer s k c e stat data opnd) := by
  unfold remoteAnswer
  dsimp only
  split
  · split
    · exact deliverTo_kept (putCrew_kept h)
    · exact deliverTo_kept (putCrew_kept h)
    · exact deliverTo_kept (putCrew_kept h)
    · exact deliverTo_kept (putCrew_kept h)
    · exact spawnDocket_kept (putCrew_kept h)
    · exact putCrew_kept (putCrew_kept h)
    · exact putCrew_kept (putCrew_kept h)
    · exact putCrew_kept (putCrew_kept h)
  · exact .ite (deliverTo_kept (putCrew_kept h)) (lateFault_kept (putCrew_kept h))
  · exact .ite (deliverTo_kept (putCrew_kept h)) (holdFault_kept (putCrew_kept h))
  · split
    · exact deliverTo_kept (putCrew_kept h)
    · exact deliverTo_kept (putCrew_kept h)
    · exact lateFault_kept (putCrew_kept h)
  · exact lateFault_kept (putCrew_kept h)

theorem remoteTimeout_kept {k : Nat} {c : Crew} {e : LogEntry} (h : Kept w p s) : Kept w p (remoteTimeout s k c e) := by
  unfold remoteTimeout
  dsimp only
  split
  · exact deliverTo_kept (putCrew_kept h)
  · exact lateFault_kept (putCrew_kept h)

theorem performLent_kept {k : Nat} {c : Crew} {e : LogEntry} {t : Target} (h : Kept w p s) :
    Kept w p (performLent s k c e t) := by
  unfold performLent
  dsimp only
  refine .ite (by split; exact deliverTo_kept h; exact lateFault_kept h)
    (.ite (recordWrite_kept (sendAccess_kept h)) (sendAccess_kept h))

theorem performEntry_kept {k : Nat} {c : Crew} {e : LogEntry} (h : Kept w p s) : Kept w p (performEntry s k c e) := by
  unfold performEntry
  split
  · exact h
  · exact .ite h (.ite (.ite h (performLent_kept (putCrew_kept h)))
      (.ite (signCrossings_kept h (performAt_kept (putCrew_kept h))) (targetWaits_kept h)))

theorem entryEvent_kept {slot seq : Nat} {f : Crew → LogEntry → State} (h : Kept w p s) (hf : ∀ c e, Kept w p (f c e)) :
    KeptOut w p (entryEvent slot seq s f) := by
  unfold entryEvent
  exact .next (by split; exact h; exact (by split; exact h; exact hf _ _))

theorem takeTranslation_kept {k : Nat} {c : Crew} {e : LogEntry} {y4 : Translation} (h : Kept w p s) :
    Kept w p (takeTranslation s k c e y4) := by
  unfold takeTranslation
  split
  · exact translated_kept h
  · exact translationFault_kept h

theorem takePage_kept {p' : Except (BitVec 8) PageFound} {q : Nat × Nat} (h : Kept w p s) : Kept w p (takePage p' s q) := by
  unfold takePage
  split
  · exact h
  · split
    · exact translationFault_kept h
    · split
      rename_i t1 heq
      exact takeTranslation_kept ((pageTarget_kept h).of_eq heq)

theorem execTranslationReturn_kept {slot seq : Nat} (h : Kept w p s) : KeptOut w p (execTranslationReturn slot seq s) := by
  unfold execTranslationReturn
  refine entryEvent_kept h fun _ _ => ?_
  refine .ite h ?_
  refine .ite (takeTranslation_kept h) ?_
  split
  rename_i t1 heq
  exact .foldl ((findPage_kept h).of_eq heq) fun _ _ ht => takePage_kept ht

theorem execLoadDataArrive_kept {slot seq : Nat} (h : Kept w p s) : KeptOut w p (execLoadDataArrive slot seq s) := by
  unfold execLoadDataArrive
  refine entryEvent_kept h fun _ _ => ?_
  split
  · exact performEntry_kept h
  · exact performEntry_kept h
  · exact performEntry_kept h
  · exact performEntry_kept h
  · exact .ite (performEntry_kept h) h
  · exact h

theorem performVector_wf {m : Memory} {v : VStore} (h : m.wf = true) : (performVector m v).wf = true :=
  List.foldlRecOn (motive := fun m : Memory => m.wf = true) _ _ (memWriteCells_wf _ h) fun _ hm _ _ => memWrite_wf _ _ hm

theorem performStored_kept {k : Nat} {c : Crew} {v : VStore} (h : Kept w p s) : Kept w p (performStored s k c v) := by
  unfold performStored
  exact putCrew_kept (h.setSpad performVector_wf)

theorem execWritePerformed_kept {slot seq : Nat} (h : Kept w p s) : KeptOut w p (execWritePerformed slot seq s) := by
  unfold execWritePerformed
  refine .next ?_
  split
  · exact h
  · split
    · exact .ite (performStored_kept h) h
    · split
      · exact h
      · split
        · exact performEntry_kept h
        · exact performEntry_kept h
        · exact h

theorem execSignalTakeEffect_kept {slot seq : Nat} (h : Kept w p s) : KeptOut w p (execSignalTakeEffect slot seq s) := by
  unfold execSignalTakeEffect
  refine entryEvent_kept h fun _ _ => ?_
  refine .ite h ?_
  split
  · split
    · rename_i t1 heq
      exact modCrew_kept ((semAdd_kept h).of_eq heq)
    · rename_i t1 heq
      exact lateFault_kept ((semAdd_kept h).of_eq heq)
  · exact modCrew_kept (putSem_kept h)
  · exact performEntry_kept h
  · exact h

theorem endWait_kept {k : Nat} {c : Crew} {e : LogEntry} {v : Word} (h : Kept w p s) : Kept w p (endWait s k c e v) := by
  unfold endWait
  exact .ite (spend_kept (putCrew_kept h)) (.upd (putCrew_kept h))

theorem rereadWait_kept {k : Nat} {c : Crew} {e : LogEntry} {use : State → Target → Word → State} (h : Kept w p s)
    (hu : ∀ u t v, Kept w p u → Kept w p (use u t v)) : Kept w p (rereadWait s k c e use) := by
  unfold rereadWait
  refine .ite h ?_
  split
  · rename_i t1 heq
    exact translationFault_kept ((targetFor_kept h).of_eq heq)
  · rename_i t1 heq
    have h1 : Kept w p t1 := (targetFor_kept h).of_eq heq
    exact .ite h1 (.ite (targetWaits_kept h1) (.ite (lateFault_kept h1)
      (.ite (lateFault_kept (afterTarget_kept h1)) (hu _ _ _ (afterTarget_kept h1)))))

theorem lentWait_kept {k : Nat} {c : Crew} {e : LogEntry} {t : Target} {ends : Word → Bool} (h : Kept w p s) :
    Kept w p (lentWait s k c e t ends) := by
  unfold lentWait
  split
  · exact .ite (endWait_kept (by split; exact advanceCell_kept h; exact h)) (putCrew_kept h)
  · exact .ite h (performLent_kept h)

theorem execMsemwaitReread_kept {slot : Nat} (h : Kept w p s) : KeptOut w p (execMsemwaitReread slot s) := by
  unfold execMsemwaitReread
  refine .next ?_
  split
  · exact h
  · split
    · exact h
    · split
      · exact .ite (lentWait_kept h) (rereadWait_kept h fun _ _ _ ht => .ite ht
          (endWait_kept (advanceCell_kept (signCrossings_kept ht (targetWrite_kept ht)))))
      · exact h

theorem execWaitcReread_kept {slot : Nat} (h : Kept w p s) : KeptOut w p (execWaitcReread slot s) := by
  unfold execWaitcReread
  refine .next ?_
  split
  · exact h
  · split
    · exact h
    · split
      · exact .ite (lentWait_kept h) (rereadWait_kept h fun _ _ _ ht => .ite (endWait_kept ht) ht)
      · exact h

theorem execLateFaultDelivery_kept {slot : Nat} (h : Kept w p s) : KeptOut w p (execLateFaultDelivery slot s) := by
  unfold execLateFaultDelivery
  refine .next ?_
  split
  · exact h
  · exact .ite h (by split; exact h; exact takeTrap_kept (putCrew_kept h))

theorem execInstructionFetchReturn_kept {slot : Nat} {str : Stream} (h : Kept w p s) :
    KeptOut w p (execInstructionFetchReturn slot str s) := by
  unfold execInstructionFetchReturn
  refine .next ?_
  split
  · exact h
  · refine .ite h ?_
    dsimp only
    refine .ite (keepWalks_kept h ((fetchWord_kept h).snd)) ?_
    split
    · exact putCrew_kept ((fetchWord_kept h).snd)
    · exact wordTrap_kept ((fetchWord_kept h).snd)

/-! #### Vector words -/

theorem vectorWord_kept {f : VFrame} {body : State → Nat → Crew → PredReg → Effect} (h : Kept w p s)
    (hb : ∀ k c g, KeptEffect w p (body s k c g)) : KeptOut w p (vectorWord f s body) := by
  unfold vectorWord
  refine runWord_kept h fun _ _ _ => ?_
  refine .ite .trap ?_
  exact .ite .trap (by split; exact .trap; exact hb _ _ _)

theorem elementWord_kept {o : FmtA} {n bound : Nat} {rounds : Bool} {f : Mode → Nat → Nat → Nat → Nat × FlagSet}
    (h : Kept w p s) : KeptOut w p (elementWord o n bound rounds f s) := by
  unfold elementWord
  exact vectorWord_kept h fun _ _ _ => .done h

/-! #### The Mills -/

theorem putMill_kept {m : Nat} {v : MillState} (h : Kept w p s) : Kept w p (putMill s m v) :=
  .upd h

theorem signKernel_kept {t : State} {v : MillState} (h : Kept w p s) (ht : Kept w p t) : Kept w p (signKernel s t v) := by
  unfold signKernel
  split
  · exact signCrossings_kept h ht
  · exact ht

theorem millWord_kept {bad : Bool} {body : State → MillState → MillEnd} (h : Kept w p s)
    (hb : ∀ v, KeptMill w p (body s v)) : KeptOut w p (millWord bad s body) := by
  unfold millWord
  split
  · split
    · exact .fault
    · next v _ =>
      have hv := hb v
      refine .ite (.next (putMill_kept h)) ?_
      split
      · next heq => exact .next (spend_kept (putMill_kept (signKernel_kept h (hv.of_done heq))))
      · next heq => exact .next (spend_kept (putMill_kept (signKernel_kept h (hv.of_jump heq))))
      · next heq => exact .next (putMill_kept (signKernel_kept h (hv.of_ends heq)))
      · next heq => exact .next (putMill_kept (signKernel_kept h (hv.of_waits heq)))
  · exact .fault

theorem millChecked_kept {v : MillState} {a n align : Nat} {body : MillEnd} (h : Kept w p s) (hb : KeptMill w p body) :
    KeptMill w p (millChecked s v a n align body) := by
  unfold millChecked
  exact .ite (.ends h) (.ite (.ends h) (.ite (.ends h) (.ite (.ends h) hb)))

theorem millAccess_kept {v : MillState} {a n align : Nat} {body : MillState → Nat → MillEnd} (h : Kept w p s)
    (hb : ∀ v a, KeptMill w p (body v a)) : KeptMill w p (millAccess s v a n align body) := by
  unfold millAccess
  exact millChecked_kept h (.ite (hb _ _) (.waits h))

theorem millRead_kept {b n : Nat} {want : Nat → Bool} (h : Kept w p s) : KeptWith w p (millRead s b n want) := by
  unfold millRead
  exact .mk (.ite (.upd (.foldl h fun _ _ ht => eccCount_kept ht)) (.foldl h fun _ _ ht => eccCount_kept ht))

theorem millReadAll_kept {b n : Nat} (h : Kept w p s) : KeptWith w p (millReadAll s b n) := by
  unfold millReadAll
  exact millRead_kept h

theorem storeSector_kept {b : Nat} {new : Nat → Option Nat} {tag : Nat → Bool} (h : Kept w p s) :
    Kept w p (storeSector s b new tag) := by
  unfold storeSector
  refine .ite h (.foldl (writeSector_kept (h.hbmOf ?_)).upd fun _ _ ht => .ite (poisonSectors_kept ht) ht)
  refine .foldl h fun t i ht => ?_
  split
  · exact ht
  · exact .ite (eccWrite_kept ht) (eccWrite_kept ht)

theorem storeWord64_kept {b : Nat} {x : Word} (h : Kept w p s) : Kept w p (storeWord64 s b x) := by
  unfold storeWord64
  exact hbmWrite_kept h

theorem arithWord_kept {o : FmtA} {n intBound fltBound : Nat} {rounds : Bool} {int : Int → Int → Int}
    {flt : Bool → Num → Num → Num → Num × FlagSet} (h : Kept w p s) :
    KeptOut w p (arithWord o n intBound fltBound rounds int flt s) := by
  unfold arithWord
  dsimp only
  split
  · exact elementWord_kept h
  · exact elementWord_kept h

theorem extremeWord_kept {o : FmtA} {max : Bool} (h : Kept w p s) : KeptOut w p (extremeWord o max s) := by
  unfold extremeWord
  exact elementWord_kept h

theorem signWord_kept {o : FmtA} {int : Int → Int} {flt : Nat → Nat → Nat} (h : Kept w p s) :
    KeptOut w p (signWord o int flt s) := by
  unfold signWord
  exact elementWord_kept h

theorem execVmulh_kept {o : FmtA} (h : Kept w p s) : KeptOut w p (execVmulh o s) := by
  unfold execVmulh
  exact elementWord_kept h

theorem fusedWord_kept {o : FmtA} {negProduct negAddend : Bool} (h : Kept w p s) :
    KeptOut w p (fusedWord o negProduct negAddend s) := by
  unfold fusedWord
  exact arithWord_kept h

theorem bitWord_kept {o : FmtA} {n : Nat} {f : Nat → Nat → Nat → Nat} (h : Kept w p s) : KeptOut w p (bitWord o n f s) := by
  unfold bitWord
  exact elementWord_kept h

theorem execVcmp_kept {k : BitVec 5} {o : FmtA} (h : Kept w p s) : KeptOut w p (execVcmp k o s) := by
  unfold execVcmp
  exact vectorWord_kept h fun _ _ _ => .done h

theorem execVsel_kept {o : FmtA} (h : Kept w p s) : KeptOut w p (execVsel o s) := by
  unfold execVsel
  exact vectorWord_kept h fun _ _ _ => .done h

theorem execVcvt_kept {k : BitVec 5} {o : FmtA} (h : Kept w p s) : KeptOut w p (execVcvt k o s) := by
  unfold execVcvt
  exact vectorWord_kept h fun _ _ _ => .done h

theorem execVwmul_kept {o : FmtA} (h : Kept w p s) : KeptOut w p (execVwmul o s) := by
  unfold execVwmul
  exact vectorWord_kept h fun _ _ _ => .done h

theorem execVdot_kept {o : FmtA} (h : Kept w p s) : KeptOut w p (execVdot o s) := by
  unfold execVdot
  exact vectorWord_kept h fun _ _ _ => .done h

theorem execVred_kept {k : BitVec 5} {o : FmtA} (h : Kept w p s) : KeptOut w p (execVred k o s) := by
  unfold execVred
  exact vectorWord_kept h fun _ _ _ => .done h

theorem execVredx_kept {k : BitVec 5} {o : FmtA} (h : Kept w p s) : KeptOut w p (execVredx k o s) := by
  unfold execVredx
  exact vectorWord_kept h fun _ _ _ => .done h

theorem execVscan_kept {k : BitVec 5} {o : FmtA} (h : Kept w p s) : KeptOut w p (execVscan k o s) := by
  unfold execVscan
  exact vectorWord_kept h fun _ _ _ => .done h

theorem execVqnt_kept {o : FmtA} (h : Kept w p s) : KeptOut w p (execVqnt o s) := by
  unfold execVqnt
  exact vectorWord_kept h fun _ _ _ => .done h

theorem execVdeq_kept {o : FmtA} (h : Kept w p s) : KeptOut w p (execVdeq o s) := by
  unfold execVdeq
  exact vectorWord_kept h fun _ _ _ => .done h

theorem millMemory_kept {a : BitVec 4} {n : BitVec 11} {bytes align unit : Nat} {body : State → MillState → Nat → MillEnd}
    (h : Kept w p s) (hb : ∀ v b, KeptMill w p (body s v b)) : KeptOut w p (millMemory a n bytes align unit s body) := by
  unfold millMemory
  exact millWord_kept h fun _ => .ite (.ends h) (millAccess_kept h fun _ _ => hb _ _)

theorem loadLanes_kept {v : MillState} {b : Nat} {d : BitVec 4} {m : BitVec 2} {f : Nat → Nat → Nat} (h : Kept w p s) :
    KeptMill w p (loadLanes s v b d m f) := by
  unfold loadLanes
  dsimp only
  exact .done ((millRead_kept h).snd)

theorem execNldVector_kept {d a : BitVec 4} {m : BitVec 2} {n : BitVec 11} (h : Kept w p s) :
    KeptOut w p (execNldVector d a m n s) := by
  unfold execNldVector
  exact millMemory_kept h fun _ _ => loadLanes_kept h

theorem execNldScalar_kept {d a : BitVec 4} {n : BitVec 11} (h : Kept w p s) : KeptOut w p (execNldScalar d a n s) := by
  unfold execNldScalar
  refine millMemory_kept h fun _ _ => ?_
  split
  rename_i t1 heq
  exact .done ((millReadAll_kept h).of_eq heq)

theorem execNstVector_kept {r a : BitVec 4} {m : BitVec 2} {n : BitVec 11} (h : Kept w p s) :
    KeptOut w p (execNstVector r a m n s) := by
  unfold execNstVector
  exact millMemory_kept h fun _ _ => .done (storeSector_kept (storeSector_kept h))

theorem execNstScalar_kept {r a : BitVec 4} {n : BitVec 11} (h : Kept w p s) : KeptOut w p (execNstScalar r a n s) := by
  unfold execNstScalar
  exact millMemory_kept h fun _ _ => .done (.ite (poisonSectors_kept (storeWord64_kept h)) (storeWord64_kept h))

theorem execNldk_kept {d a b : BitVec 4} {m : BitVec 2} {h' : BitVec 1} (h : Kept w p s) :
    KeptOut w p (execNldk d a b m h' s) := by
  unfold execNldk
  exact millWord_kept h fun _ => .ite (.ends h) (millAccess_kept h fun _ _ => loadLanes_kept h)

theorem execNpb_kept {a : BitVec 4} (h : Kept w p s) : KeptOut w p (execNpb a s) := by
  unfold execNpb
  refine millWord_kept h fun _ => ?_
  refine .ite (.ends h) ?_
  refine millAccess_kept h fun _ _ => ?_
  dsimp only
  exact .ite (.ends ((millReadAll_kept h).snd)) (.ite (.ends ((millReadAll_kept h).snd)) (.done ((millReadAll_kept h).snd)))

theorem execNpbWf_kept {a : BitVec 4} (h : Kept w p s) : KeptOut w p (execNpbWf a s) := by
  unfold execNpbWf
  exact millWord_kept h fun _ => .ite (.ends h) (.done h)

theorem execNpbSet_kept {a b : BitVec 4} (h : Kept w p s) : KeptOut w p (execNpbSet a b s) := by
  unfold execNpbSet
  exact millWord_kept h fun _ => .ite (.ends h) (.done h)

theorem execNliScalar_kept {d : BitVec 4} {i : BitVec 12} (h : Kept w p s) : KeptOut w p (execNliScalar d i s) := by
  unfold execNliScalar
  exact millWord_kept h fun _ => .done h

theorem execNliShift_kept {d : BitVec 4} {i : BitVec 12} (h : Kept w p s) : KeptOut w p (execNliShift d i s) := by
  unfold execNliShift
  exact millWord_kept h fun _ => .done h

theorem execNliVector_kept {d : BitVec 4} {m : BitVec 2} {i : BitVec 12} (h : Kept w p s) :
    KeptOut w p (execNliVector d m i s) := by
  unfold execNliVector
  exact millWord_kept h fun _ => .done h

theorem execNliFromMx_kept {d b : BitVec 4} {m : BitVec 2} (h : Kept w p s) : KeptOut w p (execNliFromMx d b m s) := by
  unfold execNliFromMx
  exact millWord_kept h fun _ => .done h

theorem execNaddi_kept {d a : BitVec 4} {i : BitVec 12} (h : Kept w p s) : KeptOut w p (execNaddi d a i s) := by
  unfold execNaddi
  exact millWord_kept h fun _ => .done h

theorem laneForm_kept {bad : Bool} {d a b : BitVec 4} {m : BitVec 2} {c : BitVec 1} {sel : BitVec 5} {readsD : Bool}
    {f : Nat → Nat → Nat → Nat × FlagSet} (h : Kept w p s) : KeptOut w p (laneForm bad d a b m c sel readsD f s) := by
  unfold laneForm
  exact millWord_kept h fun _ => .done h

theorem arithForm_kept {bad : Bool} {d a b : BitVec 4} {m t : BitVec 2} {c : BitVec 1} {sel : BitVec 5} {int : Int → Int → Int}
    {flt : Nat → Nat → Nat × FlagSet} (h : Kept w p s) : KeptOut w p (arithForm bad d a b m t c sel int flt s) := by
  unfold arithForm
  exact laneForm_kept h

theorem scalarForm_kept {d a b : BitVec 4} {t : BitVec 2} {int : Int → Int → Int} (h : Kept w p s) :
    KeptOut w p (scalarForm d a b t int s) := by
  unfold scalarForm
  exact millWord_kept h fun _ => .done h

theorem execNcmp_kept {d : BitVec 2} {a b : BitVec 4} {m t : BitVec 2} {c : BitVec 1} {sel : BitVec 5} {k : BitVec 3}
    (h : Kept w p s) : KeptOut w p (execNcmp d a b m t c sel k s) := by
  unfold execNcmp
  exact millWord_kept h fun _ => .done h

theorem execNsel_kept {d a b : BitVec 4} {m : BitVec 2} {c : BitVec 1} {sel : BitVec 5} (h : Kept w p s) :
    KeptOut w p (execNsel d a b m c sel s) := by
  unfold execNsel
  exact millWord_kept h fun _ => .done h

theorem execNperm_kept {d a b : BitVec 4} {m : BitVec 2} (h : Kept w p s) : KeptOut w p (execNperm d a b m s) := by
  unfold execNperm
  exact millWord_kept h fun _ => .done h

theorem execNcvt_kept {d a : BitVec 4} {m : BitVec 2} {p' : BitVec 3} {y z : BitVec 4} (h : Kept w p s) :
    KeptOut w p (execNcvt d a m p' y z s) := by
  unfold execNcvt
  exact millWord_kept h fun _ => .done h

theorem execNidx_kept {d a : BitVec 4} {m : BitVec 2} {i : BitVec 11} (h : Kept w p s) : KeptOut w p (execNidx d a m i s) := by
  unfold execNidx
  exact millWord_kept h fun _ => .done h

theorem execNidxW_kept {d m : BitVec 2} {t : BitVec 7} (h : Kept w p s) : KeptOut w p (execNidxW d m t s) := by
  unfold execNidxW
  exact millWord_kept h fun _ => .done h

theorem execNred_kept {d a : BitVec 4} {m t : BitVec 2} {o : BitVec 3} (h : Kept w p s) :
    KeptOut w p (execNred d a m t o s) := by
  unfold execNred
  exact millWord_kept h fun _ => (by split; exact .done h)

theorem execNredScalar_kept {d a : BitVec 4} {m t : BitVec 2} {o : BitVec 3} (h : Kept w p s) :
    KeptOut w p (execNredScalar d a m t o s) := by
  unfold execNredScalar
  exact millWord_kept h fun _ => (by split; exact .done h)

theorem execNexp2_kept {d a : BitVec 4} {m : BitVec 2} (h : Kept w p s) : KeptOut w p (execNexp2 d a m s) := by
  unfold execNexp2
  exact millWord_kept h fun _ => .done h

theorem execNdot_kept {d a b : BitVec 4} {m : BitVec 2} {u : BitVec 1} {q : BitVec 5} (h : Kept w p s) :
    KeptOut w p (execNdot d a b m u q s) := by
  unfold execNdot
  exact millWord_kept h fun _ => .done h

theorem execNdotBf16_kept {d a b : BitVec 4} {m : BitVec 2} {q : BitVec 5} (h : Kept w p s) :
    KeptOut w p (execNdotBf16 d a b m q s) := by
  unfold execNdotBf16
  exact millWord_kept h fun _ => .done h

theorem execNsmx_kept {d a b : BitVec 4} {m : BitVec 2} (h : Kept w p s) : KeptOut w p (execNsmx d a b m s) := by
  unfold execNsmx
  exact millWord_kept h fun _ => .done h

theorem execNtrip_kept {d a b : BitVec 4} {n : BitVec 3} (h : Kept w p s) : KeptOut w p (execNtrip d a b n s) := by
  unfold execNtrip
  exact millWord_kept h fun _ => .ite (.ends h) (millChecked_kept h
    (.ite (.waits h) (.ite (.waits (.foldl h fun _ _ ht => storeSector_kept ht))
    (.done (.foldl h fun _ _ ht => storeSector_kept ht)))))

theorem execNskip_kept {d a b : BitVec 4} (h : Kept w p s) : KeptOut w p (execNskip d a b s) := by
  unfold execNskip
  exact millWord_kept h fun _ => .done h

theorem execNloop_kept {a : BitVec 4} {f : BitVec 12} (h : Kept w p s) : KeptOut w p (execNloop a f s) := by
  unfold execNloop
  refine millWord_kept h fun _ => ?_
  dsimp only
  split
  · exact .ends h
  · refine .ite (.ends h) ?_
    refine .ite ?_ (.jump h)
    split
    · exact .ite (.jump h) (.jump h)
    · exact .jump h

theorem millBranch_kept {v : MillState} {o : BitVec 12} (h : Kept w p s) : KeptMill w p (millBranch s v o) := by
  unfold millBranch
  exact .ite (.ends h) (.jump h)

theorem execNbr_kept {o : BitVec 12} (h : Kept w p s) : KeptOut w p (execNbr o s) := by
  unfold execNbr
  exact millWord_kept h fun _ => millBranch_kept h

theorem execNbrc_kept {n : BitVec 1} {a : BitVec 4} {o : BitVec 12} (h : Kept w p s) : KeptOut w p (execNbrc n a o s) := by
  unfold execNbrc
  exact millWord_kept h fun _ => .ite (.ends h) (.ite (millBranch_kept h) (.done h))

theorem execNbrcMask_kept {n : BitVec 1} {k : BitVec 2} {o : BitVec 12} (h : Kept w p s) :
    KeptOut w p (execNbrcMask n k o s) := by
  unfold execNbrcMask
  exact millWord_kept h fun _ => .ite (millBranch_kept h) (.done h)

theorem millSem_kept {bad : Bool} {a : BitVec 4} {body : State → MillState → Nat → Word → MillEnd} (h : Kept w p s)
    (hb : ∀ t v b x, Kept w p t → KeptMill w p (body t v b x)) : KeptOut w p (millSem bad a s body) := by
  unfold millSem
  refine millWord_kept h fun _ => ?_
  refine .ite (.ends h) ?_
  refine millAccess_kept h fun _ _ => ?_
  dsimp only
  exact .ite (.ends ((millReadAll_kept h).snd)) (hb _ _ _ _ ((millReadAll_kept h).snd))

theorem execNsems_kept {a : BitVec 4} {n : BitVec 12} (h : Kept w p s) : KeptOut w p (execNsems a n s) := by
  unfold execNsems
  exact millSem_kept h fun _ _ _ _ ht => .ite (.ends ht) (.done (storeWord64_kept ht))

theorem execNsemw_kept {a : BitVec 4} (h : Kept w p s) : KeptOut w p (execNsemw a s) := by
  unfold execNsemw
  exact millSem_kept h fun _ _ _ _ ht => .ite (.waits ht) (.done (advanceCell_kept (storeWord64_kept ht)))

theorem execNflag_kept {d : BitVec 4} {c : BitVec 1} (h : Kept w p s) : KeptOut w p (execNflag d c s) := by
  unfold execNflag
  exact millWord_kept h fun _ => .done h

theorem execNend_kept (h : Kept w p s) : KeptOut w p (execNend s) := by
  unfold execNend
  exact millWord_kept h fun _ => .ends h

theorem execReservedMillWord_kept {x : BitVec 32} (h : Kept w p s) : KeptOut w p (execReservedMillWord x s) := by
  unfold execReservedMillWord
  exact millWord_kept h fun _ => .done h

/-! #### The bank queue -/

theorem execBqcmd_kept {o : FmtC} (h : Kept w p s) : KeptOut w p (execBqcmd o s) := by
  unfold execBqcmd
  exact commandWord_kept h fun _ _ _ _ => .ite .trap (queueCmd_kept h)

theorem execBqload_kept {o : FmtC} (h : Kept w p s) : KeptOut w p (execBqload o s) := by
  unfold execBqload
  exact commandWord_kept h fun _ _ _ _ => .ite .trap (.ite .trap (queueCmd_kept h))

theorem execWinfence_kept {o : FmtC} (h : Kept w p s) : KeptOut w p (execWinfence o s) := by
  unfold execWinfence
  exact commandWord_kept h fun _ _ _ _ => queueCmd_kept h

theorem asksAnew_kept {α : Type} {e : EngCmd} {m : Moved α} (h : KeptMoved w p m) : KeptMoved w p (asksAnew e m) := by
  cases m with
  | ok v t => exact .upd h
  | wait t => exact h
  | fault c a t => exact h

theorem cmdAtomic_kept {e : EngCmd} {va : Nat} {op : Step8} (h : Kept w p s) : KeptMoved w p (cmdAtomic s e va op) := by
  unfold cmdAtomic
  dsimp only
  split
  · exact asksAnew_kept (Moved_map_kept (ofReply_kept (lentStep_kept h)))
  · split
    · rename_i t1 heq
      exact .wait ((cmdTarget_kept h).of_wait heq)
    · rename_i t1 heq
      exact .fault ((cmdTarget_kept h).of_fault heq)
    · rename_i t1 heq
      have h1 : Kept w p t1 := (cmdTarget_kept h).of_ok heq
      refine .ite (asksAnew_kept (Moved_map_kept (ofReply_kept (lentStep_kept h1)))) ?_
      refine .ite (.fault (afterTarget_kept h1)) ?_
      split
      · exact .ok (signCrossings_kept (afterTarget_kept h1) (targetWrite_kept (afterTarget_kept h1)))
      · exact .ok (afterTarget_kept h1)

theorem bankFault_kept {core : Nat} {e : EngCmd} {code : BitVec 8} {addr : Word} (h : Kept w p s) :
    Kept w p (bankFault s core e code addr) := by
  unfold bankFault
  exact .ite (holdCmd_kept (putCmd_kept h)) (stopCmd_kept (putCmd_kept h))

theorem makeReady_kept {core : Nat} {e : EngCmd} (h : Kept w p s) : Kept w p (makeReady s core e) := by
  unfold makeReady
  exact spend_kept (bump_kept (putCmd_kept h))

theorem waitRecord_kept {core : Nat} {e : EngCmd} (h : Kept w p s) : Kept w p (waitRecord s core e) := by
  unfold waitRecord
  refine .ite (makeReady_kept h) ?_
  split
  · rename_i t1 heq
    exact putCmd_kept ((cmdAtomic_kept h).of_wait heq)
  · rename_i t1 heq
    exact bankFault_kept ((cmdAtomic_kept h).of_fault heq)
  · rename_i t1 heq
    have h1 : Kept w p t1 := (cmdAtomic_kept h).of_ok heq
    exact .ite (putCmd_kept h1) (makeReady_kept (advanceCell_kept h1))

theorem checkRecord_kept {core : Nat} {e : EngCmd} (h : Kept w p s) : Kept w p (checkRecord s core e) := by
  unfold checkRecord
  exact .ite (stopCmd_kept h) (by split; exact stopCmd_kept h; exact waitRecord_kept h)

theorem prepareHead_kept {core : Nat} {e : EngCmd} (h : Kept w p s) : Kept w p (prepareHead s core e) := by
  unfold prepareHead
  split
  · exact putCore_kept h
  · exact makeReady_kept h
  · refine .ite ?_ (waitRecord_kept h)
    split
    · rename_i t1 heq
      exact putCmd_kept ((engineRead_kept h).of_wait heq)
    · rename_i t1 heq
      exact bankFault_kept ((engineRead_kept h).of_fault heq)
    · rename_i t1 heq
      exact checkRecord_kept ((engineRead_kept h).of_ok heq)

theorem execBankQueueCmdStart_kept {core : Nat} (h : Kept w p s) : KeptOut w p (execBankQueueCmdStart core s) := by
  unfold execBankQueueCmdStart
  refine .next ?_
  dsimp only
  split
  · exact h
  · refine .ite h ?_
    split
    · rename_i t1 heq
      exact (consumeWait_kept h).of_eq heq
    · rename_i t1 heq
      exact prepareHead_kept ((consumeWait_kept h).of_eq heq)

theorem grantMills_kept {core : Nat} {e : EngCmd} (h : Kept w p s) : Kept w p (grantMills s core e) := by
  unfold grantMills
  exact .foldl h fun _ _ ht => putMill_kept ht

theorem execMillGrant_kept {core : Nat} (h : Kept w p s) : KeptOut w p (execMillGrant core s) := by
  unfold execMillGrant
  refine .next ?_
  dsimp only
  split
  · exact h
  · exact .ite (grantMills_kept (putCore_kept h)) h

theorem returnBanks_kept {core id : Nat} (h : Kept w p s) : Kept w p (returnBanks s core id) :=
  .upd h

theorem signalRecord_kept {core : Nat} {e : EngCmd} (h : Kept w p s) : Kept w p (signalRecord s core e) := by
  unfold signalRecord
  refine .ite (finishCmd_kept h) ?_
  split
  · rename_i t1 heq
    exact putCmd_kept ((cmdAtomic_kept h).of_wait heq)
  · rename_i t1 heq
    exact stopCmd_kept ((cmdAtomic_kept h).of_fault heq)
  · rename_i t1 _ heq
    exact bankFault_kept ((cmdAtomic_kept h).of_fault heq)
  · rename_i t1 heq
    have h1 : Kept w p t1 := (cmdAtomic_kept h).of_ok heq
    exact .ite (stopCmd_kept h1) (finishCmd_kept (endWrites_kept h1))

theorem afterStatus_kept {core : Nat} {e : EngCmd} (h : Kept w p s) : Kept w p (afterStatus s core e) := by
  unfold afterStatus
  exact .ite (stopCmd_kept h) (signalRecord_kept h)

theorem writeStatus_kept {core : Nat} {e : EngCmd} (h : Kept w p s) : Kept w p (writeStatus s core e) := by
  unfold writeStatus
  refine .ite (afterStatus_kept h) ?_
  split
  · rename_i t1 heq
    exact putCmd_kept ((engineWrite_kept h).of_wait heq)
  · rename_i t1 heq
    exact bankFault_kept ((engineWrite_kept h).of_fault heq)
  · rename_i t1 heq
    exact afterStatus_kept ((engineWrite_kept h).of_ok heq)

theorem execBqcmdComplete_kept {core id : Nat} (h : Kept w p s) : KeptOut w p (execBqcmdComplete core id s) := by
  unfold execBqcmdComplete
  refine .next ?_
  split
  · exact h
  · exact .ite h (.ite (writeStatus_kept (drainRings_kept (returnBanks_kept h))) (signalRecord_kept h))

theorem loadCode_kept {e : EngCmd} (h : Kept w p s) : KeptWorked w p (loadCode s e) := by
  unfold loadCode
  refine .ite (.finished h) ?_
  split
  · next heq => exact .wait ((engineRead_kept h).of_wait heq)
  · next heq => exact .fault ((engineRead_kept h).of_fault heq)
  · next bs t heq =>
    refine .more (((engineRead_kept h).of_ok heq).setCode fun hm => ?_)
    refine List.foldlRecOn (motive := fun m : Memory => m.wf = true) _ _ hm fun _ hm _ _ => ?_
    split
    · exact memWrite_wf _ _ hm
    · exact hm

theorem execBqloadComplete_kept {core : Nat} (h : Kept w p s) : KeptOut w p (execBqloadComplete core s) := by
  unfold execBqloadComplete
  refine .next ?_
  split
  · exact h
  · refine .ite h ?_
    split
    · rename_i t1 _ heq
      exact finishCmd_kept ((workOn_kept h fun _ _ ht => loadCode_kept ht).of_finished heq)
    · rename_i t1 _ heq
      exact putCmd_kept ((workOn_kept h fun _ _ ht => loadCode_kept ht).of_more heq)
    · rename_i t1 _ heq
      exact putCmd_kept ((workOn_kept h fun _ _ ht => loadCode_kept ht).of_wait heq)
    · rename_i t1 _ _ _ heq
      exact bankFault_kept ((workOn_kept h fun _ _ ht => loadCode_kept ht).of_fault heq)

theorem execWinfenceComplete_kept {core : Nat} (h : Kept w p s) : KeptOut w p (execWinfenceComplete core s) := by
  unfold execWinfenceComplete
  exact .next (by split; exact h; exact .ite h (finishCmd_kept (fenceWindows_kept h)))

theorem execMillWatchdog_kept {mill : Nat} (h : Kept w p s) : KeptOut w p (execMillWatchdog mill s) := by
  unfold execMillWatchdog
  exact .next (.ite (putMill_kept h) h)

theorem endSlot_kept {mill : Nat} (h : Kept w p s) : Kept w p (endSlot s mill) := by
  unfold endSlot
  exact .ite h (.upd h)

theorem execWheelSlot_kept {mill : Nat} (h : Kept w p s) : KeptOut w p (execWheelSlot mill s) := by
  unfold execWheelSlot
  exact .next (.ite h (drainRings_kept (spend_kept (putMill_kept (endSlot_kept h)))))

theorem execWheelRevolution_kept {mill : Nat} (h : Kept w p s) : KeptOut w p (execWheelRevolution mill s) := by
  unfold execWheelRevolution
  exact .next (.ite h (drainRings_kept (spend_kept (putMill_kept (endSlot_kept h)))))

theorem execHostReservedService_kept {mill bank row : Nat} (h : Kept w p s) :
    KeptOut w p (execHostReservedService mill bank row s) := by
  unfold execHostReservedService
  refine .next ?_
  dsimp only
  split
  · exact h
  · exact .ite (drainRings_kept (putMill_kept (serveRuns_kept h))) h

theorem execPatrolScrub_kept {stack : Nat} (h : Kept w p s) : KeptOut w p (execPatrolScrub stack s) := by
  unfold execPatrolScrub
  exact .next (.ite (scrubStack_kept h) h)

/-! #### The Carter and CANCEL -/

theorem cancelRequest_kept {job : Option Nat} {ids level : Word} (h : Kept w none s) :
    KeptWith w none (cancelRequest s job ids level) := by
  unfold cancelRequest
  exact .ite (.mk h) (.ite (.mk h) (.ite (.mk (cancelLevel_kept h)) (.mk h)))

theorem execCancel_kept {o : FmtA} (h : Kept w none s) : KeptOut w none (execCancel o s) := by
  unfold execCancel
  refine runWord_kept h fun _ _ _ => ?_
  split
  · exact .trap
  · split
    rename_i t1 heq
    exact .done ((cancelRequest_kept h).of_eq heq)

theorem carterWord_kept {o : FmtC} {kind : EngKind} {useA useB : Bool} {align : Nat} {ok : Crew → Word → Word → Bool}
    {both : Bool} (h : Kept w p s) : KeptOut w p (carterWord o kind useA useB align ok both s) := by
  unfold carterWord
  refine commandWord_kept h fun _ _ _ _ => ?_
  exact .ite .trap (.ite .trap (.ite .trap (queueCmd_kept h)))

theorem modBuffer_kept {e : EngCmd} {t : Nat} {f : CircBuf → CircBuf} (h : Kept w p s) : Kept w p (modBuffer s e t f) := by
  unfold modBuffer
  exact modCrew_kept h

theorem takeSlots_kept {core : Nat} {e : EngCmd} (h : Kept w p s) : KeptWith w p (takeSlots s core e) :=
  List.foldlRecOn (motive := KeptWith w p) _ _ h fun _ hq _ _ => modBuffer_kept hq

theorem giveSlots_kept {e : EngCmd} (h : Kept w p s) : Kept w p (giveSlots s e) := by
  unfold giveSlots
  exact .foldl h fun _ _ ht => modBuffer_kept ht

theorem resumeCopy_kept {core id : Nat} (h : Kept w p s) : Kept w p (resumeCopy core s id) := by
  unfold resumeCopy
  dsimp only
  split
  · exact h
  · exact .ite h (workCmd_kept h fun _ _ ht => carterWork_kept ht)

theorem execCopyCmdStart_kept {core : Nat} (h : Kept w p s) : KeptOut w p (execCopyCmdStart core s) := by
  unfold execCopyCmdStart
  refine .next ?_
  dsimp only
  split
  · exact h
  · refine .ite h ?_
    split
    · rename_i t1 heq
      exact (consumeWait_kept h).of_eq heq
    · rename_i t1 heq
      have h1 : Kept w p t1 := (consumeWait_kept h).of_eq heq
      exact .ite (spend_kept (putCore_kept ((takeSlots_kept h1).snd)))
        (resumeCopy_kept (spend_kept (putCore_kept ((takeSlots_kept h1).snd))))

theorem execCopyCmdComplete_kept {core : Nat} (h : Kept w p s) : KeptOut w p (execCopyCmdComplete core s) := by
  unfold execCopyCmdComplete
  refine .next ?_
  split
  · exact h
  · exact .ite (finishCmd_kept (giveSlots_kept h)) (.foldl h fun _ _ ht => resumeCopy_kept ht)

theorem execCbinit_kept {o : FmtA} (h : Kept w p s) : KeptOut w p (execCbinit o s) := by
  unfold execCbinit
  refine runWord_kept h fun _ _ _ => ?_
  refine .ite .trap ?_
  split
  · exact .trap
  · exact .ite .trap (.ite (.stall h) (.done h))

theorem bufferWord_kept {o : FmtA} {t : Nat} {body : State → Stream → Crew → CircBuf → Effect} (h : Kept w p s)
    (hb : ∀ str c b, KeptEffect w p (body s str c b)) : KeptOut w p (bufferWord o t s body) := by
  unfold bufferWord
  refine runWord_kept h fun _ _ _ => ?_
  refine .ite .trap ?_
  split
  · exact .trap
  · exact .ite (hb _ _ _) (.stall h)

theorem execCbwait_kept {o : FmtA} (h : Kept w p s) : KeptOut w p (execCbwait o s) := by
  unfold execCbwait
  exact bufferWord_kept h fun _ _ _ => .done h

theorem execCbdone_kept {o : FmtA} (h : Kept w p s) : KeptOut w p (execCbdone o s) := by
  unfold execCbdone
  exact bufferWord_kept h fun _ _ _ => .done h

theorem execCbSlotFree_kept {slot tile : Nat} (h : Kept w p s) : KeptOut w p (execCbSlotFree slot tile s) := by
  unfold execCbSlotFree
  refine .next ?_
  split
  · exact h
  · split
    · exact h
    · split
      · exact h
      · exact .ite h (putCrew_kept h)

theorem gleanerCmd_kept {k : Nat} {c : Crew} {kind : EngKind} {o : FmtC} {xa xb : Word} (h : Kept w p s) :
    KeptEffect w p (gleanerCmd s k c kind o xa xb) := by
  unfold gleanerCmd
  exact .done (bump_kept h)

theorem execGlcfg_kept {o : FmtC} (h : Kept w p s) : KeptOut w p (execGlcfg o s) := by
  unfold execGlcfg
  exact commandWord_kept h fun _ _ _ _ => .ite .trap (.ite .trap (.ite .trap (gleanerCmd_kept h)))

theorem execGlgo_kept {o : FmtC} (h : Kept w p s) : KeptOut w p (execGlgo o s) := by
  unfold execGlgo
  refine commandWord_kept h fun _ _ _ _ => ?_
  refine .ite .trap ?_
  split
  · exact .trap
  · exact .ite .trap (.ite (.stall h) (gleanerCmd_kept h))

theorem execGleanerFill_kept {slot : Nat} (h : Kept w p s) : KeptOut w p (execGleanerFill slot s) := by
  unfold execGleanerFill
  refine .next ?_
  split
  · exact h
  · split
    · exact h
    · refine .ite h ?_
      split
      · rename_i t1 heq
        exact (consumeWait_kept h).of_eq heq
      · rename_i t1 heq
        have h1 : Kept w p t1 := (consumeWait_kept h).of_eq heq
        dsimp only
        split
        · exact finishCmd_kept (modCrew_kept h1)
        · exact .ite (finishCmd_kept (putCrew_kept h1)) (putCrew_kept h1)

/-! #### The counts of a crew -/

theorem orphanTrap_kept {k : Nat} {c : Crew} {str : Stream} (h : Kept w p s) : Kept w p (orphanTrap s k c str) := by
  unfold orphanTrap
  split
  · exact h
  · exact takeTrap_kept (putCrew_kept h)

theorem countTrap_kept {k : Nat} (h : Kept w p s) : Kept w p (countTrap s k) := by
  unfold countTrap
  split
  · exact h
  · exact .ite (takeTrap_kept (putCrew_kept h)) (by split; exact orphanTrap_kept h; exact h)

theorem performDue_kept {k n : Nat} (h : Kept w p s) : Kept w p (performDue s k n) := by
  induction n generalizing s with
  | zero => exact h
  | succ n ih =>
    unfold performDue
    split
    · exact h
    · split
      · exact h
      · exact ih (performStored_kept h)

theorem performAllDue_kept {k : Nat} (h : Kept w p s) : Kept w p (performAllDue s k) := by
  unfold performAllDue
  split
  · exact h
  · exact performDue_kept h

theorem passCount_kept {k : Nat} (h : Kept w p s) : Kept w p (passCount s k) := by
  unfold passCount
  exact .foldl (.foldl (spend_kept (.foldl h fun _ _ ht => modCrew_kept ht)) fun _ _ ht => performAllDue_kept ht) fun _ _ ht =>
    countTrap_kept ht

theorem execIdleCount_kept {slot : Nat} (h : Kept w p s) : KeptOut w p (execIdleCount slot s) := by
  unfold execIdleCount
  exact .next (.ite (passCount_kept h) h)

end Sys2Proof.Machine
end

/-! ### What a turn keeps, through the fabric, the system and the package -/

section
namespace Sys2Proof.Machine
open Sys2Proof.Claims Sys2Proof.Config
variable {w : Bool} {p : Option Port} {s : State}

/-! #### The routers -/

theorem putPort_kept {p' : Nat} {l : LinkPort} (h : Kept w p s) : Kept w p (putPort s p' l) :=
  .upd h

theorem sendFlit_kept {p' : Nat} {sch cls : Bool} {msgs : List Msg} (h : Kept w p s) :
    Kept w p (sendFlit s p' sch cls msgs) := by
  unfold sendFlit
  dsimp only
  exact putPort_kept h

theorem sendIdle_kept {p' : Nat} (h : Kept w p s) : Kept w p (sendIdle s p') := by
  unfold sendIdle
  dsimp only
  exact putPort_kept h

theorem eject_kept {m : Msg} (h : Kept w p s) : Kept w p (eject s m) := by
  unfold eject
  exact .ite (.ite (.foldl (.upd h) fun _ _ ht => injectPlain_kept ht) (.upd h)) (.ite h (.upd h))

theorem modInputs_kept {p' : Nat} {f : LinkPort → LinkPort} (h : Kept w p s) : Kept w p (modInputs s p' f) := by
  unfold modInputs
  exact putPort_kept h

theorem enterInput_kept {p' : Nat} {m : Msg} {entry : Option Nat} (h : Kept w p s) : Kept w p (enterInput s p' m entry) := by
  unfold enterInput
  split
  · rename_i t1 heq
    exact (combine_kept h).of_eq heq
  · exact .ite h (putPort_kept h)

theorem enterAll_kept {p' : Nat} {cls credit : Bool} {msgs : List Msg} (h : Kept w p s) :
    Kept w p (enterAll s p' cls credit msgs) := by
  unfold enterAll
  exact .ite (.foldl (bump_kept h) fun _ _ ht => enterInput_kept ht)
    (putPort_kept (.foldl (bump_kept h) fun _ _ ht => enterInput_kept ht))

theorem acceptFlit_kept {p' : Nat} {f : Flit} (h : Kept w p s) : Kept w p (acceptFlit s p' f) := by
  unfold acceptFlit
  exact .ite (putPort_kept h) (enterAll_kept h)

theorem execFlitReceive_kept {port : Nat} {flit : Flit} (h : Kept w p s) : KeptOut w p (execFlitReceive port flit s) := by
  unfold execFlitReceive
  exact .next (.ite h (.ite (putPort_kept h) (.ite (putPort_kept h)
    (.ite (acceptFlit_kept (putPort_kept h)) (.ite h (putPort_kept h))))))

theorem sendMsgs_kept {o : Nat} {sch cls : Bool} {msgs : List Msg} (h : Kept w p s) :
    KeptOpt w p (sendMsgs s o sch cls msgs) := by
  unfold sendMsgs
  exact .ite (.some (.foldl h fun _ _ ht => eject_kept ht)) (.ite (.some (sendFlit_kept h)) .none)

theorem sendOut_kept {o : Nat} {fl : RFlit} (h : Kept w p s) : KeptOpt w p (sendOut s o fl) := by
  unfold sendOut
  exact .ite (.some h) (sendMsgs_kept h)

theorem takeReplica_kept {f : RFlit} {o : Nat} (h : Kept w p s) : Kept w p (takeReplica s f o) := by
  unfold takeReplica
  exact .ite h (putPort_kept h)

theorem nameAll_kept (h : Kept w p s) : Kept w p (nameAll s) := by
  unfold nameAll
  exact .upd (.foldl h fun _ _ ht => .upd (putPort_kept ht))

theorem takeReplicas_kept (h : Kept w p s) : Kept w p (takeReplicas s) := by
  unfold takeReplicas
  exact .foldl (nameAll_kept h) fun _ _ ht => .foldl ht fun _ _ ht1 => takeReplica_kept ht1

theorem serveReplica_kept {o : Nat} (h : Kept w p s) : KeptOpt w p (serveReplica s o) := by
  unfold serveReplica
  split
  · exact .none
  · split
    · exact .none
    · rename_i t1 heq
      exact .some (.upd (.foldl (putPort_kept ((sendMsgs_kept h).of_eq heq)) fun _ _ ht => modInputs_kept ht))

theorem putScheduled_kept {e : Word} {i : Nat} {f : Option RFlit} (h : Kept w p s) : Kept w p (putScheduled s e i f) := by
  unfold putScheduled
  exact .ite (.upd h) (putPort_kept h)

theorem scheduledSlot_kept {e : Word} {i : Nat} (h : Kept w p s) : Kept w p (scheduledSlot s e i) :=
  (scheduledSlot_onlyRouter s e i).kept h

theorem unscheduledSlot_kept {used : List Nat} {o : Nat} (h : Kept w p s) : Kept w p (unscheduledSlot s used o) :=
  (unscheduledSlot_onlyRouter s used o).kept h

theorem ageLocal_kept (h : Kept w p s) : Kept w p (ageLocal s) :=
  .upd h

theorem execSlotTick_kept (h : Kept w p s) : KeptOut w p (execSlotTick s) := by
  unfold execSlotTick
  exact .next (.ite h (.upd (.foldl (takeReplicas_kept (ageLocal_kept
    (.foldl (.foldl (.foldl h fun _ _ ht => putPort_kept ht) fun _ _ ht => scheduledSlot_kept ht) fun _ _ ht =>
    unscheduledSlot_kept ht))) fun _ _ ht => .ite (sendIdle_kept ht) ht)))

theorem execCombineWindowExpire_kept {k : Nat} (h : Kept w p s) : KeptOut w p (execCombineWindowExpire k s) := by
  unfold execCombineWindowExpire
  exact .next (forwardEntry_kept h)

theorem execRouterErrorRecovery_kept (h : Kept w p s) : KeptOut w p (execRouterErrorRecovery s) := by
  unfold execRouterErrorRecovery
  exact .next (.foldl (.upd h) fun _ _ ht => injectPlain_kept ht)

/-! #### The Porter -/

theorem remoteWord_kept {o : FmtC} {kind : EngKind} {align : Nat} {tile : Bool} (h : Kept w p s) :
    KeptOut w p (remoteWord o kind align tile s) := by
  unfold remoteWord
  exact commandWord_kept h fun _ _ _ _ => .ite .trap (.ite .trap (queueCmd_kept h))

theorem recordsWord_kept {o : FmtC} {kind : EngKind} {limit : Nat} (h : Kept w p s) :
    KeptOut w p (recordsWord o kind limit s) := by
  unfold recordsWord
  exact commandWord_kept h fun _ _ _ _ => .ite .trap (.ite .trap (queueCmd_kept h))

theorem execFmcast_kept {o : FmtC} (h : Kept w p s) : KeptOut w p (execFmcast o s) := by
  unfold execFmcast
  exact commandWord_kept h fun _ _ _ _ => .ite .trap (.ite .trap (.ite .trap (queueCmd_kept h)))

theorem reeveWord_kept {o : FmtC} {kind : EngKind} {align : Nat} (h : Kept w p s) : KeptOut w p (reeveWord o kind align s) := by
  unfold reeveWord
  exact commandWord_kept h fun _ _ _ _ => .ite .trap (queueCmd_kept h)

theorem sendNext_kept {e : EngCmd} {r : Request} (h : Kept w p s) : KeptWorked w p (sendNext s e r) := by
  unfold sendNext
  exact .ite (.more (sendRequest_kept h)) (.wait h)

theorem fldWork_kept {e : EngCmd} (h : Kept w p s) : KeptWorked w p (fldWork s e) := by
  unfold fldWork
  split
  · exact .finished h
  · exact sendNext_kept h

theorem fstWork_kept {e : EngCmd} (h : Kept w p s) : KeptWorked w p (fstWork s e) := by
  unfold fstWork
  dsimp only
  split
  · exact .finished h
  · exact sendNext_kept h

theorem badRecord_kept {e : EngCmd} (h : Kept w p s) : KeptWorked w p (badRecord s e) := by
  unfold badRecord
  exact .fault h

theorem badAddress_kept {e : EngCmd} {a : Nat} (h : Kept w p s) : KeptWorked w p (badAddress s e a) := by
  unfold badAddress
  exact .fault h

theorem transferWork_kept {e : EngCmd} (h : Kept w p s) : KeptWorked w p (transferWork s e) := by
  unfold transferWork
  dsimp only
  refine .ite (.finished h) ?_
  refine .ite (latchRecord_kept h) ?_
  refine .ite (badRecord_kept h) ?_
  refine .ite (badAddress_kept h) ?_
  refine .ite (badAddress_kept h) ?_
  split
  · exact .more h
  · refine .ite (sendNext_kept h) ?_
    refine .ite (.wait h) ?_
    split
    · rename_i t1 heq
      exact sendNext_kept ((engineRead_kept h).of_ok heq)
    · rename_i t1 heq
      exact .wait ((engineRead_kept h).of_wait heq)
    · rename_i t1 heq
      exact .fault ((engineRead_kept h).of_fault heq)

theorem addWork_kept {e : EngCmd} (h : Kept w p s) : KeptWorked w p (addWork s e) := by
  unfold addWork
  dsimp only
  refine .ite (.finished h) ?_
  refine .ite (latchRecord_kept h) ?_
  refine .ite (badRecord_kept h) ?_
  refine .ite (badAddress_kept h) ?_
  refine .ite (badAddress_kept h) ?_
  split
  · rename_i t1 _ heq
    exact .more ((sendNext_kept h).of_more heq)
  · exact sendNext_kept h

theorem castWork_kept {e : EngCmd} (h : Kept w p s) : KeptWorked w p (castWork s e) := by
  unfold castWork
  dsimp only
  refine .ite ?_ ?_
  · split
    · rename_i t1 heq
      exact .more ((engineRead_kept h).of_ok heq)
    · rename_i t1 heq
      exact .wait ((engineRead_kept h).of_wait heq)
    · rename_i t1 heq
      exact .fault ((engineRead_kept h).of_fault heq)
  · exact .ite (badRecord_kept h) (by split; exact .finished h; exact sendNext_kept h)

theorem signalWork_kept {e : EngCmd} (h : Kept w p s) : KeptWorked w p (signalWork s e) := by
  unfold signalWork
  exact .ite (sendNext_kept h) (.finished h)

theorem imageWork_kept {e : EngCmd} (h : Kept w p s) : KeptWorked w p (imageWork s e) := by
  unfold imageWork
  split
  · rename_i t1 heq
    exact .wait ((engineRead_kept h).of_wait heq)
  · rename_i t1 heq
    exact .fault ((engineRead_kept h).of_fault heq)
  · rename_i t1 heq
    have h1 : Kept w p t1 := (engineRead_kept h).of_ok heq
    exact .ite (.finished (.upd h1)) (.ite (.finished (.upd h1)) (.finished (.upd h1)))

theorem switchWork_kept {e : EngCmd} (h : Kept w p s) : KeptWorked w p (switchWork s e) := by
  unfold switchWork
  exact .finished (.upd h)

theorem putLeases_kept {l : List Lease} (h : Kept w p s) : Kept w p (putLeases s l) :=
  .upd h

theorem leaseOp_kept {core : Nat} {e : EngCmd} (h : Kept w p s) : KeptWith w p (leaseOp s core e) := by
  unfold leaseOp
  dsimp only
  refine .ite (.mk h) ?_
  split
  · exact .ite (.mk h) (.ite (.mk h) (.mk (putLeases_kept h)))
  · exact .ite (.mk (putLeases_kept h)) (.mk h)
  · exact .ite (.mk (putLeases_kept h)) (.mk h)

theorem leaseWork_kept {core : Nat} {e : EngCmd} (h : Kept w p s) : KeptWorked w p (leaseWork core s e) := by
  unfold leaseWork
  refine .ite (latchRecord_kept h) ?_
  split
  · rename_i t1 heq
    exact .finished ((leaseOp_kept h).of_eq heq)
  · rename_i t1 heq
    exact .finished ((leaseOp_kept h).of_eq heq)

theorem endLease_kept {core : Nat} {e : EngCmd} (h : Kept w p s) : Kept w p (endLease s core e) := by
  unfold endLease
  split
  · exact h
  · split
    · rename_i t1 heq
      exact (engineWrite_kept h).of_wait heq
    · rename_i t1 heq
      exact stopCmd_kept ((engineWrite_kept h).of_fault heq)
    · rename_i t1 heq
      exact finishCmd_kept ((engineWrite_kept h).of_ok heq)

theorem leaseAnswered_kept {cmd : Option (Nat × Nat)} {status : Nat} (h : Kept w p s) :
    Kept w p (leaseAnswered s cmd status) := by
  unfold leaseAnswered
  split
  · exact h
  · split
    · exact h
    · exact endLease_kept (putCmd_kept h)

theorem porterWork_kept {core : Nat} {e : EngCmd} (h : Kept w p s) : KeptWorked w p (porterWork core s e) := by
  unfold porterWork
  split
  · exact fldWork_kept h
  · exact fstWork_kept h
  · exact transferWork_kept h
  · exact transferWork_kept h
  · exact addWork_kept h
  · exact castWork_kept h
  · exact signalWork_kept h
  · exact imageWork_kept h
  · exact switchWork_kept h
  · exact leaseWork_kept h

theorem execPorterCmdStart_kept {core : Nat} (h : Kept w p s) : KeptOut w p (execPorterCmdStart core s) := by
  unfold execPorterCmdStart
  refine .next ?_
  dsimp only
  split
  · exact h
  · refine .ite h ?_
    split
    · rename_i t1 heq
      exact (consumeWait_kept h).of_eq heq
    · rename_i t1 heq
      have h1 : Kept w p t1 := (consumeWait_kept h).of_eq heq
      exact .ite (spend_kept (putCore_kept h1)) (workCmd_kept (spend_kept (putCore_kept h1)) fun _ _ ht => porterWork_kept ht)

theorem execPorterCmdComplete_kept {core id : Nat} (h : Kept w p s) : KeptOut w p (execPorterCmdComplete core id s) := by
  unfold execPorterCmdComplete
  refine .next ?_
  split
  · exact h
  · refine .ite h ?_
    refine .ite (.ite h (workCmd_kept h fun _ _ ht => porterWork_kept ht)) ?_
    split
    · exact endLease_kept h
    · exact endLease_kept h
    · exact endLease_kept h
    · exact h
    · exact .ite h (finishCmd_kept h)

theorem dropRequests_kept {core id : Nat} (h : Kept w p s) : Kept w p (dropRequests s core id) :=
  .upd h

theorem dropRequest_kept {o : Outstanding} (h : Kept w p s) : Kept w p (dropRequest s o) :=
  .upd h

theorem remoteStop_kept {core : Nat} {e : EngCmd} {code : BitVec 8} {raddr : Nat} (h : Kept w p s) :
    Kept w p (remoteStop s core e code raddr) := by
  unfold remoteStop
  exact stopCmd_kept (dropRequests_kept h)

theorem takeAnswer_kept {e : EngCmd} {o : Outstanding} {m : Msg} (h : Kept w p s) : KeptMoved w p (takeAnswer s e o m) := by
  unfold takeAnswer
  split
  · exact .ok (regionPut_kept h)
  · exact engineWrite_kept h
  · exact .ite (.ok h) (engineWrite_kept h)
  · exact .ok h

theorem poisonedAnswer_kept {e : EngCmd} {o : Outstanding} {m : Msg} (h : Kept w p s) : Kept w p (poisonedAnswer s e o m) := by
  unfold poisonedAnswer
  exact .ite (spend_kept (regionPut_kept h)) h

theorem answerCmd_kept {core : Nat} {e : EngCmd} {o : Outstanding} {m : Msg} (h : Kept w p s) :
    KeptOpt w p (answerCmd s core e o m) := by
  unfold answerCmd
  split
  · split
    · rename_i t1 heq
      exact .some (dropRequest_kept ((takeAnswer_kept h).of_ok heq))
    · rename_i t1 heq
      have h1 : Kept w p t1 := (takeAnswer_kept h).of_wait heq
      exact .none
    · rename_i t1 heq
      have h1 : Kept w p t1 := (takeAnswer_kept h).of_fault heq
      exact .ite (.some (holdCmd_kept h1)) (.some (stopCmd_kept (dropRequests_kept h1)))
  · exact .some (remoteStop_kept h)
  · exact .some (remoteStop_kept h)
  · exact .some (remoteStop_kept (poisonedAnswer_kept h))
  · exact .some (remoteStop_kept h)

theorem takeResponse_kept {k : Nat} (h : Kept w p s) : Kept w p (takeResponse s k) :=
  .upd h

theorem execFabricResponse_kept {k : Nat} (h : Kept w p s) : KeptOut w p (execFabricResponse k s) := by
  unfold execFabricResponse
  refine .next ?_
  refine .ite h ?_
  split
  · exact h
  · split
    · exact takeResponse_kept h
    · split
      · dsimp only
        split
        · exact .ite (remoteAnswer_kept (takeResponse_kept (dropRequest_kept h))) (takeResponse_kept (dropRequest_kept h))
        · exact takeResponse_kept (dropRequest_kept h)
      · split
        · exact takeResponse_kept (dropRequest_kept (answerLent_kept h))
        · refine .ite h ?_
          split
          · exact h
          · rename_i t1 heq
            have h1 : Kept w p t1 := (answerCmd_kept h).of_eq heq
            exact .ite h1 (takeResponse_kept h1)

theorem execFabricTimeout_kept {tag : Nat} (h : Kept w p s) : KeptOut w p (execFabricTimeout tag s) := by
  unfold execFabricTimeout
  refine .next ?_
  split
  · exact h
  · split
    · dsimp only
      split
      · exact .ite (remoteTimeout_kept (dropRequest_kept h)) (dropRequest_kept h)
      · exact dropRequest_kept h
    · split
      · exact dropRequest_kept (answerLent_kept h)
      · exact remoteStop_kept h

theorem takeRequest_kept {k : Nat} (h : Kept w p s) : Kept w p (takeRequest s k) :=
  .upd h

theorem servedTarget_kept {m : Msg} {kind : AccessKind} (h : Kept w p s) : KeptWith w p (servedTarget s m kind) := by
  unfold servedTarget
  refine .ite (.mk h) ?_
  split
  · rename_i t1 heq
    exact .mk ((translate_kept h).of_eq heq)
  · rename_i t1 heq
    exact .mk ((translate_kept h).of_eq heq)

theorem serve_kept {k opc : Nat} {kind : AccessKind} {size : Msg → Nat} {f : State → Msg → Target → State} (h : Kept w p s)
    (hf : ∀ u m t, Kept w p u → Kept w p (f u m t)) : KeptOut w p (serve k opc kind size s f) := by
  unfold serve
  refine .next ?_
  split
  · exact h
  · split
    · rename_i t1 heq
      exact respond_kept (takeRequest_kept ((servedTarget_kept h).of_eq heq))
    · rename_i t1 heq
      have h1 : Kept w p t1 := (servedTarget_kept h).of_eq heq
      exact .ite h1 (.ite (hf _ _ _ (takeRequest_kept h1)) (targetWaits_kept h1))

theorem execFabricRead_kept {k : Nat} (h : Kept w p s) : KeptOut w p (execFabricRead k s) := by
  unfold execFabricRead
  exact serve_kept h fun _ _ _ ht => respond_kept (afterTarget_kept ht)

theorem serveWrite_kept {m : Msg} {t : Target} (h : Kept w p s) : Kept w p (serveWrite s m t) := by
  unfold serveWrite
  exact respond_kept (targetWrite_kept h)

theorem execFabricWrite_kept {k : Nat} (h : Kept w p s) : KeptOut w p (execFabricWrite k s) := by
  unfold execFabricWrite
  exact serve_kept h fun _ _ _ ht => serveWrite_kept ht

theorem execFabricMwrite_kept {k : Nat} (h : Kept w p s) : KeptOut w p (execFabricMwrite k s) := by
  unfold execFabricMwrite
  exact serve_kept h fun _ _ _ ht => serveWrite_kept ht

theorem serveAdd_kept {m : Msg} {t : Target} (h : Kept w p s) : Kept w p (serveAdd s m t) := by
  unfold serveAdd
  exact .ite (respond_kept (afterTarget_kept h)) (respond_kept (targetWrite_kept (afterTarget_kept h)))

theorem execFabricFadd_kept {k : Nat} (h : Kept w p s) : KeptOut w p (execFabricFadd k s) := by
  unfold execFabricFadd
  exact serve_kept h fun _ _ _ ht => serveAdd_kept ht

theorem serveSignal_kept {m : Msg} {t : Target} (h : Kept w p s) : Kept w p (serveSignal s m t) := by
  unfold serveSignal
  exact .ite (respond_kept (afterTarget_kept h)) (.ite (respond_kept (afterTarget_kept h))
    (respond_kept (targetWrite_kept (afterTarget_kept h))))

theorem execFabricSignal_kept {k : Nat} (h : Kept w p s) : KeptOut w p (execFabricSignal k s) := by
  unfold execFabricSignal
  exact serve_kept h fun _ _ _ ht => serveSignal_kept ht

/-! #### Leases -/

theorem leaseEvent_kept {kind : Nat} {l : Lease} {deadline : Word} (h : Kept w p s) :
    Kept w p (leaseEvent s kind l deadline) := by
  unfold leaseEvent
  exact drainEvents_kept (.upd h)

theorem serveLent_kept {m : Msg} {t : Target} (h : Kept w p s) : Kept w p (serveLent s m t) := by
  unfold serveLent
  dsimp only
  refine .ite (respond_kept (afterTarget_kept h)) ?_
  split
  · exact .ite (respond_kept (afterTarget_kept h)) (respond_kept (targetWrite_kept (afterTarget_kept h)))
  · exact .ite (respond_kept (afterTarget_kept h)) (respond_kept (targetWrite_kept (afterTarget_kept h)))
  · split
    · exact respond_kept (targetWrite_kept (afterTarget_kept h))
    · exact respond_kept (afterTarget_kept h)

theorem performRequest_kept {m : Msg} {t : Target} (h : Kept w p s) : Kept w p (performRequest s m t) := by
  unfold performRequest
  split
  · exact respond_kept (afterTarget_kept h)
  · exact serveWrite_kept h
  · exact serveWrite_kept h
  · exact serveAdd_kept h
  · exact serveSignal_kept h
  · exact .ite (serveLent_kept h) (respond_kept h)

theorem execPhysicalLentAccess_kept {k : Nat} (h : Kept w p s) : KeptOut w p (execPhysicalLentAccess k s) := by
  unfold execPhysicalLentAccess
  refine .next ?_
  split
  · exact h
  · refine .ite h ?_
    split
    · exact respond_kept (takeRequest_kept h)
    · exact .ite (respond_kept (takeRequest_kept h)) (.ite (performRequest_kept (takeRequest_kept h))
        (.upd (.ite h (targetWaits_kept h))))

theorem dropLease_kept {l : Lease} (h : Kept w p s) : Kept w p (dropLease s l) := by
  unfold dropLease
  exact putLeases_kept h

theorem setLease_kept {l l' : Lease} (h : Kept w p s) : Kept w p (setLease s l l') := by
  unfold setLease
  exact putLeases_kept h

theorem execLeaseGrantAnswer_kept {peer lid : Nat} {status : BitVec 8} (h : Kept w p s) :
    KeptOut w p (execLeaseGrantAnswer peer lid status s) := by
  unfold execLeaseGrantAnswer
  refine .next ?_
  split
  · exact h
  · exact .ite h (.ite (leaseAnswered_kept (setLease_kept h)) (leaseAnswered_kept (dropLease_kept h)))

theorem execLeaseGrantTimeout_kept {lid : Nat} (h : Kept w p s) : KeptOut w p (execLeaseGrantTimeout lid s) := by
  unfold execLeaseGrantTimeout
  exact .next (by split; exact h; exact leaseAnswered_kept (dropLease_kept h))

theorem reclaimLease_kept {l : Lease} (h : Kept w p s) : Kept w p (reclaimLease s l) := by
  unfold reclaimLease
  exact leaseAnswered_kept (leaseEvent_kept (dropLease_kept h))

theorem execLeaseReleaseMessage_kept {peer lid : Nat} (h : Kept w p s) : KeptOut w p (execLeaseReleaseMessage peer lid s) := by
  unfold execLeaseReleaseMessage
  refine .next ?_
  split
  · exact h
  · exact .ite h (by split; exact leaseEvent_kept (dropLease_kept h); exact reclaimLease_kept h; exact h)

theorem execLeaseDeadline_kept {lid : Nat} (h : Kept w p s) : KeptOut w p (execLeaseDeadline lid s) := by
  unfold execLeaseDeadline
  exact .next (by split; exact h; exact .ite (reclaimLease_kept h) h)

theorem execLeaseGrantMessage_kept {peer lid reg0 nreg : Nat} (h : Kept w p s) :
    KeptOut w p (execLeaseGrantMessage peer lid reg0 nreg s) := by
  unfold execLeaseGrantMessage
  exact .next (.ite h (leaseEvent_kept (putLeases_kept h)))

theorem execLeaseRecallMessage_kept {peer lid : Nat} {deadline : Word} (h : Kept w p s) :
    KeptOut w p (execLeaseRecallMessage peer lid deadline s) := by
  unfold execLeaseRecallMessage
  exact .next (by split; exact h; exact .ite (leaseEvent_kept (setLease_kept h)) h)

theorem execLeaseReleaseAnswer_kept {peer lid : Nat} {status : BitVec 8} (h : Kept w p s) :
    KeptOut w p (execLeaseReleaseAnswer peer lid status s) := by
  unfold execLeaseReleaseAnswer
  exact .next (by split; exact h; exact .ite h (leaseAnswered_kept (dropLease_kept h)))

theorem execLeaseRevokeMessage_kept {peer lid : Nat} (h : Kept w p s) : KeptOut w p (execLeaseRevokeMessage peer lid s) := by
  unfold execLeaseRevokeMessage
  refine .next ?_
  split
  · exact h
  · split
    · exact leaseEvent_kept (.ite (setLease_kept h) (dropLease_kept h))
    · exact leaseEvent_kept (.ite (setLease_kept h) (dropLease_kept h))
    · exact h

theorem execFrameStart_kept (h : Kept w p s) : KeptOut w p (execFrameStart s) := by
  unfold execFrameStart
  refine .next ?_
  refine .ite h ?_
  dsimp only
  split
  · exact .upd h
  · exact .ite (by split; exact finishCmd_kept (.upd h); exact .upd h) (.upd h)

/-! #### Control registers -/

theorem execCsrr_kept {o : FmtI} (h : Kept w p s) : KeptOut w p (execCsrr o s) := by
  unfold execCsrr
  refine runWord_kept h fun _ _ _ => ?_
  exact .ite .trap (by split; exact .done h; exact .trap)

theorem csrwWord_kept {o : FmtI} {may : Nat → Bool} {body : State → Nat → Crew → Word → Effect} (h : Kept w p s)
    (hb : ∀ k c v, KeptEffect w p (body s k c v)) : KeptOut w p (csrwWord o s may body) := by
  unfold csrwWord
  refine runWord_kept h fun _ _ _ => ?_
  exact .ite .trap (by split; exact .trap; exact hb _ _ _)

theorem execCsrwFflags_kept {o : FmtI} (h : Kept w p s) : KeptOut w p (execCsrwFflags o s) := by
  unfold execCsrwFflags
  exact csrwWord_kept h fun _ _ _ => .done h

theorem execCsrwFrm_kept {o : FmtI} (h : Kept w p s) : KeptOut w p (execCsrwFrm o s) := by
  unfold execCsrwFrm
  exact csrwWord_kept h fun _ _ _ => .ite .trap (.done h)

theorem execCsrwSrctr_kept {o : FmtI} (h : Kept w p s) : KeptOut w p (execCsrwSrctr o s) := by
  unfold execCsrwSrctr
  exact csrwWord_kept h fun _ _ _ => .done h

theorem execCsrwStrict_kept {o : FmtI} (h : Kept w p s) : KeptOut w p (execCsrwStrict o s) := by
  unfold execCsrwStrict
  exact csrwWord_kept h fun _ _ _ => .done h

theorem execCsrwMflags_kept {o : FmtI} (h : Kept w p s) : KeptOut w p (execCsrwMflags o s) := by
  unfold execCsrwMflags
  exact csrwWord_kept h fun _ _ _ => .done h

theorem execCsrwTdef_kept {o : FmtI} (h : Kept w p s) : KeptOut w p (execCsrwTdef o s) := by
  unfold execCsrwTdef
  exact csrwWord_kept h fun _ _ _ => .ite (.stall h) (.ite .trap (.done h))

theorem execCsrwMsh_kept {o : FmtI} (h : Kept w p s) : KeptOut w p (execCsrwMsh o s) := by
  unfold execCsrwMsh
  exact csrwWord_kept h fun _ _ _ => .ite .trap (.done (.upd h))

theorem execCsrwFevbase_kept {o : FmtI} (h : Kept w p s) : KeptOut w p (execCsrwFevbase o s) := by
  unfold execCsrwFevbase
  exact csrwWord_kept h fun _ _ _ => .ite .trap (.done (drainEvents_kept (.upd h)))

theorem execCsrwFevhead_kept {o : FmtI} (h : Kept w p s) : KeptOut w p (execCsrwFevhead o s) := by
  unfold execCsrwFevhead
  exact csrwWord_kept h fun _ _ _ => .done (drainEvents_kept (.upd h))

theorem execCsrwTrqbase_kept {o : FmtI} (h : Kept w p s) : KeptOut w p (execCsrwTrqbase o s) := by
  unfold execCsrwTrqbase
  exact csrwWord_kept h fun _ _ _ => .ite .trap (.done (drainTrapRing_kept (putReeve_kept h)))

theorem execCsrwTrqhead_kept {o : FmtI} (h : Kept w p s) : KeptOut w p (execCsrwTrqhead o s) := by
  unfold execCsrwTrqhead
  exact csrwWord_kept h fun _ _ _ => .done (drainTrapRing_kept (putReeve_kept h))

theorem execCsrwShockst_kept {o : FmtI} (h : Kept w p s) : KeptOut w p (execCsrwShockst o s) := by
  unfold execCsrwShockst
  exact csrwWord_kept h fun _ _ _ => .done (.upd h)

theorem plainWrite_kept {k n : Nat} {c d : Crew} {v : Word} {t : State} (h : Kept w p s)
    (hr : plainWrite s k c n v = some (t, d)) : Kept w p t := by
  unfold plainWrite at hr
  dsimp only at hr
  split at hr
  case h_7 =>
    split at hr
    · cases hr
    · cases hr
      exact h.upd
  case h_8 =>
    cases hr
    exact putReeve_kept h
  all_goals
    cases hr
  all_goals exact h.upd

theorem execCsrw_kept {o : FmtI} (h : Kept w p s) : KeptOut w p (execCsrw o s) := by
  unfold execCsrw
  refine csrwWord_kept h fun k c v => ?_
  split
  · next heq => exact .done (plainWrite_kept h heq)
  · exact .trap

/-! #### Privileged words and traps -/

theorem execTrap_kept {o : FmtI} (h : Kept w p s) : KeptOut w p (execTrap o s) := by
  unfold execTrap
  exact runWord_kept h fun _ _ _ => .software

theorem privilegedWord_kept {o : FmtA} {za zb : Word} {body : State → Nat → Crew → Word → Word → Effect} (h : Kept w p s)
    (hb : ∀ k c a b, KeptEffect w p (body s k c a b)) : KeptOut w p (privilegedWord o za zb s body) := by
  unfold privilegedWord
  refine runWord_kept h fun _ _ _ => ?_
  split
  · exact .trap
  · exact .ite .trap (hb _ _ _ _)

theorem deliverFault_kept {k : Nat} {c : Crew} {e : LogEntry} (h : Kept w p s) : Kept w p (deliverFault s k c e) := by
  unfold deliverFault
  exact takeTrap_kept (putCrew_kept h)

theorem releaseHeld_kept {k : Nat} {c : Crew} {e : LogEntry} (h : Kept w p s) : Kept w p (releaseHeld s k c e) := by
  unfold releaseHeld
  exact .ite (requeue_kept (putCrew_kept h)) (putCrew_kept h)

theorem resumeCrew_kept {k : Nat} {c : Crew} (h : Kept w p s) : Kept w p (resumeCrew s k c) := by
  unfold resumeCrew
  exact reissue_kept (putCrew_kept h)

theorem eretOn_kept {k : Nat} {c : Crew} {step deliver : Bool} (h : Kept w p s) : KeptWith w p (eretOn s k c step deliver) := by
  unfold eretOn
  dsimp only
  refine .ite (.mk h) ?_
  split
  · exact .mk h
  · exact .mk (modCrew_kept (resumeCrew_kept h))
  · split
    · exact .mk (modCrew_kept (putCrew_kept h))
    · exact .ite (.mk (deliverFault_kept h)) (.mk (modCrew_kept (releaseHeld_kept h)))

theorem execEret_kept {o : FmtA} (h : Kept w p s) : KeptOut w p (execEret o s) := by
  unfold execEret
  refine privilegedWord_kept h fun _ _ _ _ => ?_
  split
  · exact .done h
  · split
    rename_i t1 heq
    exact .done ((eretOn_kept h).of_eq heq)

theorem execHalt_kept {x : FmtA} (h : Kept w p s) : KeptOut w p (execHalt x s) := by
  unfold execHalt
  exact runWord_kept h fun _ _ _ => .ite (.stall h) (.done h)

theorem execHaltWake_kept {cluster : Nat} (h : Kept w p s) : KeptOut w p (execHaltWake cluster s) := by
  unfold execHaltWake
  dsimp only
  split
  · exact .next h
  · refine .ite ?_ (.next h)
    split
    · split
      · exact execHalt_kept (.upd h)
      · exact .next h
    · exact .next h

theorem execSplog_kept {o : FmtA} (h : Kept w p s) : KeptOut w p (execSplog o s) := by
  unfold execSplog
  exact privilegedWord_kept h fun _ _ _ _ => .done h

theorem execTlbi_kept {o : FmtA} (h : Kept w p s) : KeptOut w p (execTlbi o s) := by
  unfold execTlbi
  exact privilegedWord_kept h fun _ _ _ _ => .done (bump_kept (putReeve_kept h))

theorem execIcinv_kept {o : FmtA} (h : Kept w p s) : KeptOut w p (execIcinv o s) := by
  unfold execIcinv
  exact privilegedWord_kept h fun _ _ _ _ => .done (bump_kept (putReeve_kept h))

theorem dropEntries_kept {w' : Sweep} {job : Nat} (h : Kept w p s) : Kept w p (dropEntries s w' job) :=
  .upd h

theorem retranslate_kept {w' : Sweep} {job : Nat} (h : Kept w p s) : Kept w p (retranslate s w' job) := by
  unfold retranslate
  exact .foldl h fun _ _ ht => putCrew_kept ht

theorem execTlbiComplete_kept {cluster : Nat} (h : Kept w p s) : KeptOut w p (execTlbiComplete cluster s) := by
  unfold execTlbiComplete
  refine .next ?_
  dsimp only
  split
  · exact h
  · split
    · exact deliverStatus_kept (putReeve_kept h)
    · exact .ite (deliverStatus_kept (dropEntries_kept (retranslate_kept (putReeve_kept h)))) h

theorem leaveWaiters_kept {k : Nat} (h : Kept w p s) : Kept w p (leaveWaiters s k) := by
  unfold leaveWaiters
  exact putCore_kept h

theorem dropLines_kept {w' : Sweep} {job : Nat} (h : Kept w p s) : Kept w p (dropLines s w' job) := by
  unfold dropLines
  exact .foldl (.upd h) fun _ _ ht => putCrew_kept (leaveWaiters_kept ht)

theorem execIcinvComplete_kept {cluster : Nat} (h : Kept w p s) : KeptOut w p (execIcinvComplete cluster s) := by
  unfold execIcinvComplete
  refine .next ?_
  dsimp only
  split
  · exact h
  · refine .ite h ?_
    split
    · exact deliverStatus_kept (putReeve_kept h)
    · exact deliverStatus_kept (dropLines_kept (putReeve_kept h))

theorem saveMember_kept {k : Nat} {c : Crew} {cmds : List EngCmd} {state image : Nat} (h : Kept w p s) :
    KeptWith w p (saveMember s k c cmds state image) := by
  unfold saveMember
  dsimp only
  exact .ite (writeContext_kept ((KeptWith.ite (.mk h) (writeImage_kept h)).snd))
    (.mk ((KeptWith.ite (.mk h) (writeImage_kept h)).snd))

theorem withdrawn_kept {k : Nat} (h : Kept w p s) : Kept w p (withdrawn s k) := by
  unfold withdrawn
  split
  · exact h
  · exact modCrew_kept (discardUnstarted_kept h)

theorem saveOut_kept {image : Nat} {l : List Nat} (h : Kept w p s) : KeptWith w p (saveOut s image l) := by
  induction l generalizing s image with
  | nil => exact h
  | cons k rest ih =>
    unfold saveOut
    split
    · exact ih h
    · dsimp only
      split
      · exact ih (withdrawn_kept (putCrew_kept h))
      · split
        · rename_i t1 heq
          exact ih ((saveMember_kept (withdrawn_kept (putCrew_kept h))).of_eq heq)
        · exact saveMember_kept (withdrawn_kept (putCrew_kept h))

theorem freeGroup_kept {uid : Nat} {members : List Nat} (h : Kept w p s) : Kept w p (freeGroup s uid members) := by
  unfold freeGroup
  exact .foldl (.upd h) fun _ _ ht => .upd ht

theorem finishOut_kept {c : Crew} {t : Transfer} (h : Kept w p s) : KeptOptWith w p (finishOut s c t) := by
  unfold finishOut
  dsimp only
  refine .ite (.some (.foldl h fun _ _ ht => modCrew_kept ht)) ?_
  refine .ite ?_ .none
  split
  · rename_i t1 heq
    exact .some (freeGroup_kept ((saveOut_kept h).of_eq heq))
  · rename_i t1 heq
    have h1 : Kept w p t1 := (saveOut_kept h).of_eq heq
    exact .some (.foldl h fun _ _ ht => modCrew_kept ht)

theorem finishSnap_kept {c : Crew} {t : Transfer} (h : Kept w p s) : KeptOptWith w p (finishSnap s c t) := by
  unfold finishSnap
  refine .ite (.some h) ?_
  refine .ite ?_ .none
  split
  · rename_i t1 heq
    exact .some ((saveMember_kept h).of_eq heq)
  · rename_i t1 heq
    have h1 : Kept w p t1 := (saveMember_kept h).of_eq heq
    exact .some h

theorem finishInto_kept {c : Crew} {t : Transfer} (h : Kept w p s) : KeptOptWith w p (finishInto s c t) := by
  unfold finishInto
  refine .ite (.some h) ?_
  refine .ite ?_ .none
  dsimp only
  split
  · rename_i t1 heq
    exact .some ((readContext_kept h).of_eq heq)
  · rename_i t1 heq
    have h1 : Kept w p t1 := (readContext_kept h).of_eq heq
    exact .ite (.some h1) (.some (putCrew_kept (.upd (.ite h1 (leaveWaiters_kept h1)))))

theorem finishTransfer_kept {t : Transfer} (h : Kept w p s) : KeptEnd w p (finishTransfer s t) := by
  unfold finishTransfer
  split
  · exact .ok h
  · refine .ite (.ok h) ?_
    refine .ite (.error h) ?_
    dsimp only
    split
    · rename_i t1 heq
      have h1 : Kept w p t1 := KeptOptWith.of_eq (by split; exact finishOut_kept h; exact finishSnap_kept h; exact finishInto_kept h) heq
      exact .ite (.error (keepWalks_kept h h1)) (.ok h1)
    · exact .error h

theorem execPreemptComplete_kept {slot : Nat} (h : Kept w p s) : KeptOut w p (execPreemptComplete slot s) := by
  unfold execPreemptComplete
  refine .next ?_
  dsimp only
  split
  · exact h
  · split
    · rename_i t1 heq
      exact (finishTransfer_kept h).of_error heq
    · rename_i t1 heq
      exact deliverStatus_kept (putReeve_kept ((finishTransfer_kept h).of_ok heq))

theorem startTransfer_kept {k : Nat} {c : Crew} {o : FmtA} {t : Transfer} (h : Kept w p s) :
    KeptEffect w p (startTransfer s k c o t) := by
  unfold startTransfer
  split
  · rename_i t1 heq
    exact .done ((finishTransfer_kept h).of_ok heq)
  · rename_i t1 heq
    exact .done (bump_kept (putReeve_kept ((finishTransfer_kept h).of_error heq)))

theorem execCtxsSnap_kept {o : FmtA} (h : Kept w p s) : KeptOut w p (execCtxsSnap o s) := by
  unfold execCtxsSnap
  refine privilegedWord_kept h fun _ _ _ _ => ?_
  dsimp only
  split
  · exact .done h
  · exact .ite (.done h) (startTransfer_kept h)

theorem execCtxsOut_kept {o : FmtA} (h : Kept w p s) : KeptOut w p (execCtxsOut o s) := by
  unfold execCtxsOut
  refine privilegedWord_kept h fun _ _ _ _ => ?_
  dsimp only
  split
  · exact .done h
  · exact .ite (.done h) (startTransfer_kept (.foldl h fun _ _ ht => modCrew_kept ht))

theorem execCtxlInto_kept {o : FmtA} (h : Kept w p s) : KeptOut w p (execCtxlInto o s) := by
  unfold execCtxlInto
  refine privilegedWord_kept h fun _ _ _ _ => ?_
  split
  · exact .done h
  · exact .ite (.done h) (startTransfer_kept h)

theorem movable_kept {core : Nat} {u : WorkUnit} {l : List Nat} (h : Kept w p s) : KeptWith w p (movable s core u l) := by
  induction l generalizing s with
  | nil => exact h
  | cons m rest ih =>
    unfold movable
    split
    · rename_i t1 heq
      exact .mk ((readVirtual_kept h).of_eq heq)
    · rename_i t1 heq
      have h1 : Kept w p t1 := (readVirtual_kept h).of_eq heq
      split
      · rename_i t2 heq1
        exact .mk ((ih h1).of_eq heq1)
      · exact ih h1

theorem execCtxlResume_kept {o : FmtA} (h : Kept w p s) : KeptOut w p (execCtxlResume o s) := by
  unfold execCtxlResume
  refine privilegedWord_kept h fun _ _ _ _ => ?_
  split
  · exact .done h
  · split
    · rename_i t1 heq
      exact .done ((readVirtual_kept h).of_eq heq)
    · rename_i t1 heq
      have h1 : Kept w p t1 := (readVirtual_kept h).of_eq heq
      refine .ite (.done h1) ?_
      split
      · rename_i t2 heq1
        exact .done ((movable_kept h1).of_eq heq1)
      · rename_i t2 heq1
        have h2 : Kept w p t2 := (movable_kept h1).of_eq heq1
        exact .ite (.done (intoStore_kept (.upd h2))) (.done (bump_kept (.upd (.upd h2))))

theorem loseCrew_kept {k : Nat} (h : Kept w p s) : Kept w p (loseCrew s k) := by
  unfold loseCrew
  split
  · exact h
  · exact .upd (putCore_kept (releaseCore_kept (.foldl h fun _ _ ht => dropRequests_kept (dropCmd_kept ht))))

theorem execHardwareError_kept {slot : Nat} {code : BitVec 8} (h : Kept w none s) :
    KeptOut w none (execHardwareError slot code s) := by
  unfold execHardwareError
  refine .next ?_
  split
  · exact h
  · refine .ite h ?_
    refine .ite (restartReeve_kept (.upd h)) ?_
    split
    · exact loseCrew_kept h
    · exact .ite (loseUnit_kept (.foldl h fun _ _ ht => loseCrew_kept ht))
        (orWaits_kept (.foldl h fun _ _ ht => loseCrew_kept ht) (settleStruck_kept (.foldl h fun _ _ ht => loseCrew_kept ht)))

/-! #### The package’s conditions -/

theorem packageReset_kept (h : Kept w none s) : Kept w none (packageReset s) := by
  unfold packageReset
  exact .port h

theorem startReeves_kept (h : Kept w p s) : Kept w p (startReeves s) := by
  unfold startReeves
  exact .foldl h fun _ _ ht => startReeve_kept ht

theorem execPackageBoot_kept {b : BootOutcome} (h : Kept w none s) : KeptOut w none (execPackageBoot b s) := by
  unfold execPackageBoot
  exact .next (.ite (.upd (packageReset_kept h)) (.ite h (startReeves_kept (.port (packageReset_kept h)))))

theorem modPackage_kept {f : Package → Package} (h : Kept w p s) : Kept w p (modPackage s f) :=
  .upd h

theorem execDroopDetect_kept {cluster : Nat} (h : Kept w p s) : KeptOut w p (execDroopDetect cluster s) := by
  unfold execDroopDetect
  exact .next (.ite h (modPackage_kept h))

theorem execDroopRecover_kept {cluster : Nat} (h : Kept w p s) : KeptOut w p (execDroopRecover cluster s) := by
  unfold execDroopRecover
  exact .next (modPackage_kept h)

theorem execHoldEntry_kept (h : Kept w p s) : KeptOut w p (execHoldEntry s) := by
  unfold execHoldEntry
  exact .next (.ite h (modPackage_kept h))

theorem execHoldExit_kept {len : BitVec 12} (h : Kept w p s) : KeptOut w p (execHoldExit len s) := by
  unfold execHoldExit
  exact .next (.ite (drainRings_kept (modPackage_kept h)) h)

theorem stopLevel_kept {key : Nat} (h : Kept w none s) : Kept w none (stopLevel s key) := by
  unfold stopLevel
  exact .ite (settleLevel_kept (.upd h)) h

theorem execOrderlyStop_kept {cause : BitVec 8} (h : Kept w none s) : KeptOut w none (execOrderlyStop cause s) := by
  unfold execOrderlyStop
  exact .next (.ite h (.upd (packageReset_kept (.foldl (.port h) fun _ _ ht => stopLevel_kept ht))))

theorem execNgugrimRetrainStart_kept (h : Kept w none s) : KeptOut w none (execNgugrimRetrainStart s) := by
  unfold execNgugrimRetrainStart
  exact .next (.ite h (modPackage_kept (.port h)))

theorem execNgugrimRetrainEnd_kept (h : Kept w none s) : KeptOut w none (execNgugrimRetrainEnd s) := by
  unfold execNgugrimRetrainEnd
  exact .next (.ite (flushEnded_kept (modPackage_kept (.port h))) h)

theorem endTier2_kept {k : Nat} (h : Kept w p s) : Kept w p (endTier2 s k) := by
  unfold endTier2
  split
  · exact h
  · exact .foldl h fun _ _ ht => (by split; exact remoteTimeout_kept ht; exact ht)

theorem after_kept {o : Out} (h : Kept w p s) (ho : KeptOut w p o) : Kept w p (after s o) := by
  unfold after
  split
  · exact ho _ rfl
  · exact h

theorem endEngines_kept {core : Nat} (h : Kept w p s) : Kept w p (endEngines s core) := by
  unfold endEngines
  exact .foldl (.foldl (after_kept (.foldl h fun _ _ ht => after_kept ht (execCopyCmdComplete_kept ht))
    (execBankQueueCmdStart_kept (.foldl h fun _ _ ht => after_kept ht (execCopyCmdComplete_kept ht)))) fun _ _ ht => after_kept
    ht (.ite (execBqloadComplete_kept ht) (execBqcmdComplete_kept ht))) fun _ _ ht => after_kept ht
    (execPorterCmdComplete_kept ht)

theorem execNgugrimRetrainTimeout_kept (h : Kept w none s) : KeptOut w none (execNgugrimRetrainTimeout s) := by
  unfold execNgugrimRetrainTimeout
  exact .next (.ite (endWaits_kept (.port (.foldl (.port (.foldl h fun _ _ ht => endTier2_kept ht)) fun _ _ ht =>
    endEngines_kept ht))) h)

theorem execLinkRetrainStart_kept {port : Nat} (h : Kept w p s) : KeptOut w p (execLinkRetrainStart port s) := by
  unfold execLinkRetrainStart
  exact .next (.ite h (modPackage_kept (putPort_kept h)))

theorem execLinkRetrainEnd_kept {port : Nat} (h : Kept w p s) : KeptOut w p (execLinkRetrainEnd port s) := by
  unfold execLinkRetrainEnd
  exact .next (.ite h (modPackage_kept (putPort_kept h)))

theorem execLinkDown_kept {port : Nat} (h : Kept w p s) : KeptOut w p (execLinkDown port s) := by
  unfold execLinkDown
  exact .next (.ite h (modPackage_kept (spend_kept (.upd (putPort_kept h)))))

theorem execShockEvent_kept {peak : BitVec 16} (h : Kept w p s) : KeptOut w p (execShockEvent peak s) := by
  unfold execShockEvent
  exact .next (.ite h (modPackage_kept h))

theorem execEnergyStoreDepleted_kept (h : Kept w p s) : KeptOut w p (execEnergyStoreDepleted s) := by
  unfold execEnergyStoreDepleted
  exact .next (modPackage_kept h)

theorem execWearUpdate_kept {days : BitVec 16} {limit : BitVec 3} {hours : BitVec 32} (h : Kept w p s) :
    KeptOut w p (execWearUpdate days limit hours s) := by
  unfold execWearUpdate
  exact .next (.ite h (modPackage_kept h))

/-! #### The matrix engine -/

theorem matrixWord_kept {o : FmtC} {useA : Bool} {body : State → Nat → Crew → Word → Effect} (h : Kept w p s)
    (hb : ∀ k c a, KeptEffect w p (body s k c a)) : KeptOut w p (matrixWord o useA s body) := by
  unfold matrixWord
  exact commandWord_kept h fun _ _ _ _ => .ite .trap (hb _ _ _)

theorem execMcfg_kept {o : FmtC} (h : Kept w p s) : KeptOut w p (execMcfg o s) := by
  unfold execMcfg
  exact matrixWord_kept h fun _ _ _ => .ite (queueCmd_kept h) .trap

theorem execMgo_kept {o : FmtC} (h : Kept w p s) : KeptOut w p (execMgo o s) := by
  unfold execMgo
  exact matrixWord_kept h fun _ _ _ => .ite .trap (queueCmd_kept h)

theorem execMclaim_kept {o : FmtC} (h : Kept w p s) : KeptOut w p (execMclaim o s) := by
  unfold execMclaim
  refine matrixWord_kept h fun _ _ _ => ?_
  refine .ite .trap ?_
  refine .ite .trap ?_
  split
  · rename_i t1 _ heq
    exact .done (putCore_kept ((queueCmd_kept h).of_done heq))
  · exact queueCmd_kept h

theorem execMrel_kept {o : FmtC} (h : Kept w p s) : KeptOut w p (execMrel o s) := by
  unfold execMrel
  refine matrixWord_kept h fun _ _ _ => ?_
  split
  · rename_i t1 _ heq
    exact .done ((queueCmd_kept h).of_done heq)
  · exact queueCmd_kept h

theorem execMldo_kept {o : FmtC} (h : Kept w p s) : KeptOut w p (execMldo o s) := by
  unfold execMldo
  refine matrixWord_kept h fun _ _ _ => ?_
  dsimp only
  refine .ite .trap ?_
  split
  · exact .trap
  · exact .ite (queueCmd_kept h) .trap

theorem execMret_kept {o : FmtC} (h : Kept w p s) : KeptOut w p (execMret o s) := by
  unfold execMret
  refine matrixWord_kept h fun _ _ _ => ?_
  dsimp only
  refine .ite .trap ?_
  split
  · exact .trap
  · exact .ite (queueCmd_kept h) .trap

theorem execMcell_kept {o : FmtC} (h : Kept w p s) : KeptOut w p (execMcell o s) := by
  unfold execMcell
  exact matrixWord_kept h fun _ _ _ => .ite (queueCmd_kept h) .trap

theorem runMatrix_kept {core : Nat} {e : EngCmd} (h : Kept w p s) : Kept w p (runMatrix s core e) := by
  unfold runMatrix
  exact putCore_kept h

theorem startMatrix_kept {core : Nat} {e : EngCmd} (h : Kept w p s) : Kept w p (startMatrix s core e) := by
  unfold startMatrix
  exact .ite (runMatrix_kept h) (stopCmd_kept h)

theorem startFirst_kept {core : Nat} {l : List EngCmd} (h : Kept w p s) : Kept w p (startFirst s core l) := by
  induction l generalizing s with
  | nil => exact h
  | cons e rest ih =>
    unfold startFirst
    refine .ite (.ite h (ih h)) ?_
    refine .ite ?_ (ih h)
    split
    · rename_i t1 heq
      exact startMatrix_kept ((consumeWait_kept h).of_eq heq)
    · rename_i t1 heq
      exact ih ((consumeWait_kept h).of_eq heq)

theorem execMatrixCmdStart_kept {core : Nat} {unit : MatrixUnit} (h : Kept w p s) :
    KeptOut w p (execMatrixCmdStart core unit s) := by
  unfold execMatrixCmdStart
  exact .next (startFirst_kept h)

theorem releaseSet_kept {core crewId : Nat} (h : Kept w p s) : Kept w p (releaseSet s core crewId) := by
  unfold releaseSet
  exact putCore_kept h

theorem execMclaimGrant_kept {core slot : Nat} (h : Kept w p s) : KeptOut w p (execMclaimGrant core slot s) := by
  unfold execMclaimGrant
  refine .next ?_
  split
  · exact h
  · split
    · exact h
    · refine .ite h ?_
      split
      · rename_i t1 heq
        exact (consumeWait_kept h).of_eq heq
      · rename_i t1 heq
        exact modCrew_kept (bump_kept (putCore_kept (runMatrix_kept ((consumeWait_kept h).of_eq heq))))

theorem loadLines_kept {core : Nat} {e : EngCmd} (h : Kept w p s) : Kept w p (loadLines s core e) := by
  unfold loadLines
  exact putCore_kept h

theorem retireBank_kept {core : Nat} {e : EngCmd} (h : Kept w p s) : Kept w p (retireBank s core e) := by
  unfold retireBank
  exact modCrew_kept (.foldl h fun _ _ ht => Region_write_kept ht)

theorem matrixEffect_kept {core : Nat} {e : EngCmd} (h : Kept w p s) : Kept w p (matrixEffect s core e) := by
  unfold matrixEffect
  dsimp only
  split
  · exact modCrew_kept h
  · exact modCrew_kept h
  · exact loadLines_kept h
  · exact putCore_kept h
  · exact retireBank_kept h
  · exact releaseSet_kept h
  · exact h

theorem execMatrixCmdComplete_kept {core : Nat} {unit : MatrixUnit} (h : Kept w p s) :
    KeptOut w p (execMatrixCmdComplete core unit s) := by
  unfold execMatrixCmdComplete
  exact .next (by split; exact h; exact .ite h (finishCmd_kept (matrixEffect_kept h)))

/-! #### The port’s registers -/

theorem portCheck_kept (h : Kept w none s) : Kept w none (portCheck s) := by
  unfold portCheck
  exact .ite (.port h) h

theorem execCqtailWrite_kept {v : Word} (h : Kept w none s) : KeptOut w none (execCqtailWrite v s) := by
  unfold execCqtailWrite
  exact .next (portCheck_kept (.port h))

theorem execCqbaseWrite_kept {v : Word} (h : Kept w none s) : KeptOut w none (execCqbaseWrite v s) := by
  unfold execCqbaseWrite
  exact .next (.ite h (portCheck_kept (.port h)))

theorem execCpbaseWrite_kept {v : Word} (h : Kept w none s) : KeptOut w none (execCpbaseWrite v s) := by
  unfold execCpbaseWrite
  exact .next (.ite h (flushEnded_kept (portCheck_kept (.port h))))

theorem execCpheadWrite_kept {v : Word} (h : Kept w none s) : KeptOut w none (execCpheadWrite v s) := by
  unfold execCpheadWrite
  exact .next (flushEnded_kept (.port h))

theorem execEnWrite_kept {v : Bool} (h : Kept w none s) : KeptOut w none (execEnWrite v s) := by
  unfold execEnWrite
  exact .next (.ite h (.ite (portCheck_kept (.port h)) (.port h)))

theorem execErrClear_kept (h : Kept w none s) : KeptOut w none (execErrClear s) := by
  unfold execErrClear
  exact .next (.port h)

theorem execRegisterWrite_kept {x : Nat} {y : Word} (h : Kept w p s) : KeptOut w p (execRegisterWrite x y s) := by
  unfold execRegisterWrite
  exact .next h

theorem execAttreqWrite_kept {v : Word} (h : Kept w none s) : KeptOut w none (execAttreqWrite v s) := by
  unfold execAttreqWrite
  exact .next (.ite h (.port h))

theorem execAttestationReport_kept (h : Kept w none s) : KeptOut w none (execAttestationReport s) := by
  unfold execAttestationReport
  exact .next (.ite h (.port (ctlWrite_kept h)))

theorem refuseRecord_kept {tag : BitVec 32} (h : Kept w none s) : Kept w none (refuseRecord s tag) := by
  unfold refuseRecord
  exact endCommand_kept h

/-! #### Scalar and vector words -/

theorem scalarWord_kept {o : FmtA} {n bound : Nat} {f : Word → Word → Word → Word} (h : Kept w p s) :
    KeptOut w p (scalarWord o n bound f s) := by
  unfold scalarWord
  exact runWord_kept h fun _ _ _ => .done h

theorem immediateWord_kept {o : FmtI} {f : Word → Word} (h : Kept w p s) : KeptOut w p (immediateWord o f s) := by
  unfold immediateWord
  exact runWord_kept h fun _ _ _ => .done h

theorem execSel_kept {o : FmtA} (h : Kept w p s) : KeptOut w p (execSel o s) := by
  unfold execSel
  exact runWord_kept h fun _ _ _ => .done h

theorem execCmp_kept {k : BitVec 5} {o : FmtA} (h : Kept w p s) : KeptOut w p (execCmp k o s) := by
  unfold execCmp
  exact runWord_kept h fun _ _ _ => (by split; exact .trap; exact .done h)

theorem execLi_kept {o : FmtL} (h : Kept w p s) : KeptOut w p (execLi o s) := by
  unfold execLi
  exact runWord_kept h fun _ _ _ => .done h

theorem execLih_kept {o : FmtL} (h : Kept w p s) : KeptOut w p (execLih o s) := by
  unfold execLih
  exact runWord_kept h fun _ _ _ => .done h

theorem execChk_kept {o : FmtA} (h : Kept w p s) : KeptOut w p (execChk o s) := by
  unfold execChk
  exact runWord_kept h fun _ _ _ => (by split; exact .trap; exact .done h)

theorem execNop_kept {x : FmtA} (h : Kept w p s) : KeptOut w p (execNop x s) := by
  unfold execNop
  exact runWord_kept h fun _ _ _ => .done h

theorem execBrk_kept {x : BitVec 10} {y : BitVec 47} (h : Kept w p s) : KeptOut w p (execBrk x y s) := by
  unfold execBrk
  exact runWord_kept h fun _ _ _ => .trap

theorem execReservedMajorWord_kept {x : Word} (h : Kept w p s) : KeptOut w p (execReservedMajorWord x s) := by
  unfold execReservedMajorWord
  exact runWord_kept h fun _ _ _ => .trap

theorem functionWord_kept {o : FmtA} {bound : Nat} {rounds : Bool} {f : Format → Mode → Num → Nat × FlagSet} (h : Kept w p s) :
    KeptOut w p (functionWord o bound rounds f s) := by
  unfold functionWord
  exact elementWord_kept h

theorem execVrng_kept {o : FmtA} (h : Kept w p s) : KeptOut w p (execVrng o s) := by
  unfold execVrng
  exact vectorWord_kept h fun _ _ _ => .done h

theorem serveStores_kept {c : Crew} {keys : List Nat} (h : Kept w p s) : KeptFst w p (serveStores s c keys) := by
  unfold serveStores
  split
  · exact h
  · exact h.setSpad fun hm => List.foldlRecOn (motive := fun m : Memory => m.wf = true) _ _ hm fun _ hm _ _ => performVector_wf
      hm

theorem loadPath_kept {c : Crew} {bound : Nat} {keys : List Nat} (h : Kept w p s) : KeptFst w p (loadPath s c bound keys) := by
  unfold loadPath
  split
  rename_i t1 _ heq
  exact .mk ((serveStores_kept h).of_eq heq)

theorem addStore_kept {c : Crew} {bound : Nat} {writes : List Host.Cell} {adds : List VAdd} {ordered : Bool} (h : Kept w p s) :
    KeptEffect w p (addStore s c bound writes adds ordered) := by
  unfold addStore
  refine .ite (.done h) ?_
  dsimp only
  exact .done (bump_kept h)

theorem tileWord_kept {f : VFrame} {t : Nat} {writes : Bool} {body : State → Nat → Crew → PredReg → Region → Effect}
    (h : Kept w p s) (hb : ∀ k c g r, KeptEffect w p (body s k c g r)) : KeptOut w p (tileWord f t writes s body) := by
  unfold tileWord
  exact vectorWord_kept h fun _ _ _ => (by split; exact .trap; exact .stall h; exact hb _ _ _ _)

theorem execVld_kept {sz : BitVec 2} {o : FmtM} (h : Kept w p s) : KeptOut w p (execVld sz o s) := by
  unfold execVld
  dsimp only
  refine vectorWord_kept h fun _ _ _ => ?_
  refine .ite .trap ?_
  split
  · exact .trap
  · exact .stall h
  · exact .done ((loadPath_kept h).fst)

theorem execVst_kept {sz : BitVec 2} {o : FmtM} (h : Kept w p s) : KeptOut w p (execVst sz o s) := by
  unfold execVst
  dsimp only
  refine vectorWord_kept h fun _ _ _ => ?_
  refine .ite .trap ?_
  split
  · exact .trap
  · exact .stall h
  · exact addStore_kept h

theorem gatherBody_kept {o : FmtA} {k : Nat} {c : Crew} {g : PredReg} {r : Region} {index : Nat → Nat} (h : Kept w p s) :
    KeptEffect w p (gatherBody o s k c g r index) := by
  unfold gatherBody
  dsimp only
  exact .done ((loadPath_kept h).fst)

theorem execVgath_kept {o : FmtA} (h : Kept w p s) : KeptOut w p (execVgath o s) := by
  unfold execVgath
  exact tileWord_kept h fun _ _ _ _ => gatherBody_kept h

theorem execVgathq_kept {o : FmtA} (h : Kept w p s) : KeptOut w p (execVgathq o s) := by
  unfold execVgathq
  exact tileWord_kept h fun _ _ _ _ => .ite .trap (.ite (.stall h) (gatherBody_kept h))

theorem execVscat_kept {o : FmtA} (h : Kept w p s) : KeptOut w p (execVscat o s) := by
  unfold execVscat
  exact tileWord_kept h fun _ _ _ _ => addStore_kept h

theorem execVscatadd_kept {o : FmtA} (h : Kept w p s) : KeptOut w p (execVscatadd o s) := by
  unfold execVscatadd
  exact tileWord_kept h fun _ _ _ _ => addStore_kept h

theorem execVperm_kept {o : FmtA} (h : Kept w p s) : KeptOut w p (execVperm o s) := by
  unfold execVperm
  exact vectorWord_kept h fun _ _ _ => .done h

theorem laneBody_kept {o : FmtA} {c : Crew} {g : PredReg} {source : Nat → Int} (h : Kept w p s) :
    KeptEffect w p (laneBody o s c g source) := by
  unfold laneBody
  exact .done h

theorem execVshuf_kept {o : FmtA} (h : Kept w p s) : KeptOut w p (execVshuf o s) := by
  unfold execVshuf
  exact vectorWord_kept h fun _ _ _ => laneBody_kept h

theorem execVbcast_kept {o : FmtA} (h : Kept w p s) : KeptOut w p (execVbcast o s) := by
  unfold execVbcast
  exact vectorWord_kept h fun _ _ _ => laneBody_kept h

theorem execVxlane_kept {o : FmtA} (h : Kept w p s) : KeptOut w p (execVxlane o s) := by
  unfold execVxlane
  exact vectorWord_kept h fun _ _ _ => laneBody_kept h

theorem execVmovsToVector_kept {o : FmtA} (h : Kept w p s) : KeptOut w p (execVmovsToVector o s) := by
  unfold execVmovsToVector
  exact vectorWord_kept h fun _ _ _ => .done h

theorem execVmovsToScalar_kept {o : FmtA} (h : Kept w p s) : KeptOut w p (execVmovsToScalar o s) := by
  unfold execVmovsToScalar
  exact runWord_kept h fun _ _ _ => (by split; exact .trap; exact .done h)

theorem execVmovsDq_kept {o : FmtA} (h : Kept w p s) : KeptOut w p (execVmovsDq o s) := by
  unfold execVmovsDq
  refine runWord_kept h fun _ _ _ => ?_
  split
  · exact .trap
  · exact .ite (.stall h) (.done h)

theorem predicateWord_kept {o : FmtA} {n : Nat} {f : PredReg → PredReg → PredReg} (h : Kept w p s) :
    KeptOut w p (predicateWord o n f s) := by
  unfold predicateWord
  exact vectorWord_kept h fun _ _ _ => .done h

theorem execPset_kept {o : FmtI} (h : Kept w p s) : KeptOut w p (execPset o s) := by
  unfold execPset
  exact runWord_kept h fun _ _ _ => (by split; exact .trap; exact .done h)

theorem countedWord_kept {o : FmtA} {f : List Nat → Nat → Nat} (h : Kept w p s) : KeptOut w p (countedWord o f s) := by
  unfold countedWord
  exact vectorWord_kept h fun _ _ _ => .done h

end Sys2Proof.Machine
end

/-! ### What a turn keeps, through every turn -/

section
namespace Sys2Proof.Machine
open Sys2Proof.Claims Sys2Proof.Config
variable {w : Bool} {p : Option Port} {s : State}

/-! #### Every instruction -/

theorem exec_kept {i : Instr} (h : Kept w none s) : KeptOut w none (exec i s) := by
  cases i with
  | jobopen => exact execJobopen_kept h
  | jobend => exact execJobend_kept h
  | phaseopen => exact execPhaseopen_kept h
  | phaseclose => exact execPhaseclose_kept h
  | launch => exact execLaunch_kept h
  | replay => exact execReplay_kept h
  | gpatch => exact execGpatch_kept h
  | cancelCommand => exact execCancelCommand_kept h
  | gpatchRelease => exact execGpatchRelease_kept h
  | cqtailWrite => exact execCqtailWrite_kept h
  | cqbaseWrite => exact execCqbaseWrite_kept h
  | cpbaseWrite => exact execCpbaseWrite_kept h
  | cpheadWrite => exact execCpheadWrite_kept h
  | enWrite => exact execEnWrite_kept h
  | errClear => exact execErrClear_kept h
  | attreqWrite => exact execAttreqWrite_kept h
  | attestationReport => exact execAttestationReport_kept h
  | registerWrite =>
    dsimp only [exec]
    exact execRegisterWrite_kept h
  | docketCreationResume => exact execDocketCreationResume_kept h
  | dispatch => exact execDispatch_kept h
  | docketPromotion => exact execDocketPromotion_kept h
  | gangReservation => exact execGangReservation_kept h
  | crewRetire => exact execCrewRetire_kept h
  | instructionFetchReturn => exact execInstructionFetchReturn_kept h
  | translationReturn => exact execTranslationReturn_kept h
  | loadDataArrive => exact execLoadDataArrive_kept h
  | lateFaultDelivery => exact execLateFaultDelivery_kept h
  | signalTakeEffect => exact execSignalTakeEffect_kept h
  | msemwaitReread => exact execMsemwaitReread_kept h
  | waitcReread => exact execWaitcReread_kept h
  | cbSlotFree => exact execCbSlotFree_kept h
  | copyCmdStart => exact execCopyCmdStart_kept h
  | copyCmdComplete => exact execCopyCmdComplete_kept h
  | gleanerFill => exact execGleanerFill_kept h
  | mclaimGrant => exact execMclaimGrant_kept h
  | matrixCmdStart => exact execMatrixCmdStart_kept h
  | matrixCmdComplete => exact execMatrixCmdComplete_kept h
  | bankQueueCmdStart => exact execBankQueueCmdStart_kept h
  | millGrant => exact execMillGrant_kept h
  | bqcmdComplete => exact execBqcmdComplete_kept h
  | millWatchdog => exact execMillWatchdog_kept h
  | wheelRevolution => exact execWheelRevolution_kept h
  | hostReservedService => exact execHostReservedService_kept h
  | patrolScrub => exact execPatrolScrub_kept h
  | porterCmdStart => exact execPorterCmdStart_kept h
  | porterCmdComplete => exact execPorterCmdComplete_kept h
  | fabricResponse => exact execFabricResponse_kept h
  | fabricTimeout => exact execFabricTimeout_kept h
  | fabricRead => exact execFabricRead_kept h
  | fabricWrite => exact execFabricWrite_kept h
  | fabricFadd => exact execFabricFadd_kept h
  | fabricSignal => exact execFabricSignal_kept h
  | fabricMwrite => exact execFabricMwrite_kept h
  | physicalLentAccess => exact execPhysicalLentAccess_kept h
  | flitReceive => exact execFlitReceive_kept h
  | slotTick => exact execSlotTick_kept h
  | frameStart => exact execFrameStart_kept h
  | combineWindowExpire => exact execCombineWindowExpire_kept h
  | leaseGrantMessage => exact execLeaseGrantMessage_kept h
  | leaseGrantAnswer => exact execLeaseGrantAnswer_kept h
  | leaseGrantTimeout => exact execLeaseGrantTimeout_kept h
  | leaseRecallMessage => exact execLeaseRecallMessage_kept h
  | leaseReleaseMessage => exact execLeaseReleaseMessage_kept h
  | leaseReleaseAnswer => exact execLeaseReleaseAnswer_kept h
  | leaseRevokeMessage => exact execLeaseRevokeMessage_kept h
  | leaseDeadline => exact execLeaseDeadline_kept h
  | tlbiComplete => exact execTlbiComplete_kept h
  | icinvComplete => exact execIcinvComplete_kept h
  | preemptComplete => exact execPreemptComplete_kept h
  | haltWake => exact execHaltWake_kept h
  | hardwareError => exact execHardwareError_kept h
  | droopDetect => exact execDroopDetect_kept h
  | droopRecover => exact execDroopRecover_kept h
  | holdEntry => exact execHoldEntry_kept h
  | holdExit => exact execHoldExit_kept h
  | orderlyStop => exact execOrderlyStop_kept h
  | ngugrimRetrainStart => exact execNgugrimRetrainStart_kept h
  | ngugrimRetrainEnd => exact execNgugrimRetrainEnd_kept h
  | ngugrimRetrainTimeout => exact execNgugrimRetrainTimeout_kept h
  | linkRetrainStart => exact execLinkRetrainStart_kept h
  | linkRetrainEnd => exact execLinkRetrainEnd_kept h
  | linkDown => exact execLinkDown_kept h
  | shockEvent => exact execShockEvent_kept h
  | packageBoot => exact execPackageBoot_kept h
  | wearUpdate => exact execWearUpdate_kept h
  | nop =>
    dsimp only [exec]
    exact execNop_kept h
  | brk =>
    dsimp only [exec]
    exact execBrk_kept h
  | br => exact execBr_kept h
  | brc => exact execBrc_kept h
  | jmp => exact execJmp_kept h
  | call => exact execCall_kept h
  | ret =>
    dsimp only [exec]
    exact execRet_kept h
  | brq => exact execBrq_kept h
  | loop => exact execLoop_kept h
  | loopi => exact execLoopi_kept h
  | qpush => exact execQpush_kept h
  | rvz => exact execRvz_kept h
  | exit =>
    dsimp only [exec]
    exact execExit_kept h
  | spawn => exact execSpawn_kept h
  | joindec => exact execJoindec_kept h
  | waitc => exact execWaitc_kept h
  | cancel => exact execCancel_kept h
  | add | sub | and | or | xor | andn | shl | shr | sra | rot | min | max | minz | maxz | clz | ctz | popc | bswap | mul | mulh
  | mulhz | div | divz | rem | remz | bfx | bfi | pfxh =>
    dsimp only [exec]
    exact scalarWord_kept h
  | sel => exact execSel_kept h
  | cmp => exact execCmp_kept h
  | addi | andi | ori =>
    dsimp only [exec]
    exact immediateWord_kept h
  | li => exact execLi_kept h
  | lih => exact execLih_kept h
  | ldb | ldbz | ldh | ldhz | ldw | ldwz | ldd =>
    dsimp only [exec]
    exact loadWord_kept h
  | stb | sth | stw | std =>
    dsimp only [exec]
    exact storeWord_kept h
  | lds => exact execLds_kept h
  | chk => exact execChk_kept h
  | vld => exact execVld_kept h
  | vst => exact execVst_kept h
  | vadd | vsub | vmul | vabd =>
    dsimp only [exec]
    exact arithWord_kept h
  | vmin | vmax =>
    dsimp only [exec]
    exact extremeWord_kept h
  | vabs | vneg =>
    dsimp only [exec]
    exact signWord_kept h
  | vmulh => exact execVmulh_kept h
  | vfma | vfms | vfnma | vfnms =>
    dsimp only [exec]
    exact fusedWord_kept h
  | vand | vor | vxor | vandn | vnot | vshl | vshr | vsra | vrot =>
    dsimp only [exec]
    exact bitWord_kept h
  | vcmp => exact execVcmp_kept h
  | vsel => exact execVsel_kept h
  | vcvt => exact execVcvt_kept h
  | vwmul => exact execVwmul_kept h
  | vdot => exact execVdot_kept h
  | vred => exact execVred_kept h
  | vredx => exact execVredx_kept h
  | vscan => exact execVscan_kept h
  | vperm => exact execVperm_kept h
  | vshuf => exact execVshuf_kept h
  | vbcast => exact execVbcast_kept h
  | vxlane => exact execVxlane_kept h
  | vgath => exact execVgath_kept h
  | vscat => exact execVscat_kept h
  | vscatadd => exact execVscatadd_kept h
  | vgathq => exact execVgathq_kept h
  | vqnt => exact execVqnt_kept h
  | vdeq => exact execVdeq_kept h
  | vmovsToVector => exact execVmovsToVector_kept h
  | vmovsToScalar => exact execVmovsToScalar_kept h
  | vmovsDq => exact execVmovsDq_kept h
  | pand | por | pxor | pnot | pmov =>
    dsimp only [exec]
    exact predicateWord_kept h
  | pset => exact execPset_kept h
  | pcnt | pfirst =>
    dsimp only [exec]
    exact countedWord_kept h
  | vrcpa | vrsqa | vsqrt | vexp2 | vlog2 =>
    dsimp only [exec]
    exact functionWord_kept h
  | vsint | vcost =>
    dsimp only [exec]
    exact elementWord_kept h
  | vrng => exact execVrng_kept h
  | tld | tst | tmov | tcopy2d | clist | trope =>
    dsimp only [exec]
    exact carterWord_kept h
  | cbinit => exact execCbinit_kept h
  | cbwait => exact execCbwait_kept h
  | cbdone => exact execCbdone_kept h
  | glcfg => exact execGlcfg_kept h
  | glgo => exact execGlgo_kept h
  | mcfg => exact execMcfg_kept h
  | mgo => exact execMgo_kept h
  | mclaim => exact execMclaim_kept h
  | mrel => exact execMrel_kept h
  | mldo => exact execMldo_kept h
  | mret => exact execMret_kept h
  | mcell => exact execMcell_kept h
  | bqcmd => exact execBqcmd_kept h
  | bqload => exact execBqload_kept h
  | winfence => exact execWinfence_kept h
  | seminit => exact execSeminit_kept h
  | semsig => exact execSemsig_kept h
  | semwait => exact execSemwait_kept h
  | msemsig => exact execMsemsig_kept h
  | msemwait => exact execMsemwait_kept h
  | fence => exact execFence_kept h
  | fenceAll => exact execFenceAll_kept h
  | aadd | amin | amax | aand | aor | axor | aswp | acas | afadd =>
    dsimp only [exec]
    exact atomicWord_kept h
  | fld | fst | fsig =>
    dsimp only [exec]
    exact remoteWord_kept h
  | fget | fput | ffadd =>
    dsimp only [exec]
    exact recordsWord_kept h
  | fmcast => exact execFmcast_kept h
  | leaseGrant | leaseRecall | leaseRelease | slotswLoad | slotswSwitch =>
    dsimp only [exec]
    exact reeveWord_kept h
  | trap => exact execTrap_kept h
  | eret => exact execEret_kept h
  | halt =>
    dsimp only [exec]
    exact execHalt_kept h
  | csrr => exact execCsrr_kept h
  | csrw => exact execCsrw_kept h
  | csrwTdef => exact execCsrwTdef_kept h
  | csrwFflags => exact execCsrwFflags_kept h
  | csrwFrm => exact execCsrwFrm_kept h
  | csrwSrctr => exact execCsrwSrctr_kept h
  | csrwStrict => exact execCsrwStrict_kept h
  | csrwMflags => exact execCsrwMflags_kept h
  | csrwMsh => exact execCsrwMsh_kept h
  | csrwFevbase => exact execCsrwFevbase_kept h
  | csrwTrqbase => exact execCsrwTrqbase_kept h
  | csrwShockst => exact execCsrwShockst_kept h
  | tlbi => exact execTlbi_kept h
  | icinv => exact execIcinv_kept h
  | ctxsSnap => exact execCtxsSnap_kept h
  | ctxsOut => exact execCtxsOut_kept h
  | ctxlInto => exact execCtxlInto_kept h
  | ctxlResume => exact execCtxlResume_kept h
  | splog => exact execSplog_kept h
  | nldVector => exact execNldVector_kept h
  | nldScalar => exact execNldScalar_kept h
  | nstVector => exact execNstVector_kept h
  | nstScalar => exact execNstScalar_kept h
  | nldk => exact execNldk_kept h
  | npb => exact execNpb_kept h
  | npbWf => exact execNpbWf_kept h
  | npbSet => exact execNpbSet_kept h
  | nliScalar => exact execNliScalar_kept h
  | nliShift => exact execNliShift_kept h
  | nliVector => exact execNliVector_kept h
  | nliFromMx => exact execNliFromMx_kept h
  | naddi => exact execNaddi_kept h
  | nadd | nsub | nmul | nmax | nmin | nshl | nshr =>
    dsimp only [exec]
    exact arithForm_kept h
  | naddScalar | nsubScalar | nmulScalar | nmaxScalar | nminScalar | nandScalar | norScalar | nxorScalar | nshlScalar |
  nshrScalar =>
    dsimp only [exec]
    exact scalarForm_kept h
  | nfma | nand | nor | nxor =>
    dsimp only [exec]
    exact laneForm_kept h
  | nperm => exact execNperm_kept h
  | ncvt => exact execNcvt_kept h
  | ncmp => exact execNcmp_kept h
  | nsel => exact execNsel_kept h
  | ndot => exact execNdot_kept h
  | ndotBf16 => exact execNdotBf16_kept h
  | nred => exact execNred_kept h
  | nredScalar => exact execNredScalar_kept h
  | nexp2 => exact execNexp2_kept h
  | nsmx => exact execNsmx_kept h
  | ntrip => exact execNtrip_kept h
  | nskip => exact execNskip_kept h
  | nidx => exact execNidx_kept h
  | nidxW => exact execNidxW_kept h
  | nloop => exact execNloop_kept h
  | nbr => exact execNbr_kept h
  | nbrc => exact execNbrc_kept h
  | nbrcMask => exact execNbrcMask_kept h
  | nsems => exact execNsems_kept h
  | nsemw => exact execNsemw_kept h
  | nflag => exact execNflag_kept h
  | nend => exact execNend_kept h
  | idleCount => exact execIdleCount_kept h
  | writePerformed => exact execWritePerformed_kept h
  | bqloadComplete => exact execBqloadComplete_kept h
  | winfenceComplete => exact execWinfenceComplete_kept h
  | wheelSlot => exact execWheelSlot_kept h
  | csrwTrqhead => exact execCsrwTrqhead_kept h
  | csrwFevhead => exact execCsrwFevhead_kept h
  | energyStoreDepleted => exact execEnergyStoreDepleted_kept h
  | reservedMajorWord =>
    dsimp only [exec]
    exact execReservedMajorWord_kept h
  | reservedMillWord =>
    dsimp only [exec]
    exact execReservedMillWord_kept h
  | routerErrorRecovery => exact execRouterErrorRecovery_kept h

/-! #### Every turn -/

theorem runDue_kept {k : Nat} {str : Stream} (h : Kept w none s) : KeptOut w none (runDue s k str) := by
  unfold runDue
  split
  · exact .next h
  · split
    · exact exec_kept (.upd h)
    · exact execInstructionFetchReturn_kept h

theorem survey_kept {l : List (Nat × Stream)} (h : Kept w none s) : KeptTries w none (survey s l) := by
  induction l generalizing s with
  | nil => exact h
  | cons q rest ih =>
    have hr : KeptOut w none (runDue s q.1 q.2) := runDue_kept h
    unfold survey
    split
    · exact ih h
    · split
      · next t heq =>
        have ht : KeptTries w none (survey (if verdict s t q.1 q.2 = .done then t else { s with free := t.free }) rest) :=
          ih (.ite (hr.of_eq heq) h.upd)
        dsimp only
        split
        · next heq' => exact ht.of_ok heq'
        · next heq' => exact ht.of_error heq'
      · exact hr

theorem applyAll_kept {n : Nat} {l : List Tried} (h : Kept w none s) : KeptOut w none (applyAll n s l) := by
  induction l generalizing s with
  | nil => exact .next h.upd
  | cons q rest ih =>
    have hr : KeptOut w none (runDue { s with free := q.free } q.slot q.str) := runDue_kept h.upd
    unfold applyAll
    split
    · next heq => exact ih (.ite (hr.of_eq heq) h)
    · exact hr

theorem issueAll_kept {k : Nat} {due : List (Nat × Stream)} (h : Kept w none s) : KeptOut w none (issueAll s k due) := by
  have hr : KeptTries w none (survey s (issueOrder s due)) := survey_kept h
  unfold issueAll
  split
  · next heq => exact hr.of_error heq
  · next heq =>
    exact .ite (applyAll_kept h) (.ite (applyAll_kept h) (.next (passCount_kept (hr.of_ok heq))))

theorem endClk_kept {t : State} {k m : Nat} {str : Stream} (_ : Kept w p s) (ht : Kept w p t) :
    Kept w p (endClk s t k m str) := by
  unfold endClk
  exact .ite (passCount_kept ht) ht

theorem crewTurn_kept {k : Nat} (h : Kept w none s) : KeptOut w none (crewTurn s k) := by
  unfold crewTurn
  refine .ite ?_ (.next h)
  split
  · exact execIdleCount_kept h
  · split
    · rename_i t1 heq
      exact .next (endClk_kept h ((runDue_kept h).of_eq heq))
    · exact runDue_kept h
  · exact issueAll_kept h

theorem cellError_kept {k : Nat} {bits : BitVec 272} {persists : Bool} (h : Kept w p s) :
    Kept w p (cellError s k bits persists) := by
  unfold cellError
  exact .ite (.upd h) (.upd h)

theorem stuckAt_kept {key : Nat} {mask value : Byte} (h : Kept w p s) : Kept w p (stuckAt s key mask value) :=
  .upd h

theorem stuckSpad_wf (h : s.spad.wf = true) : (stuckSpad s).wf = true :=
  List.foldlRecOn (motive := fun m : Memory => m.wf = true) _ _ h fun _ hm _ _ => memWrite_wf _ _ hm

theorem settled_kept (h : Kept w p s) : Kept w p (settled s) := by
  have ht : Kept w p { lentSettled s with host := s.host.settled } := (lentSettled_kept h).upd
  exact ht.setSpad fun hm => stuckSpad_wf hm

theorem millTurn_kept {m : Nat} (h : Kept w none s) : KeptOut w none (millTurn s m) := by
  unfold millTurn
  refine .ite ?_ (.next h)
  dsimp only
  split
  · exact exec_kept (.upd h)
  · split
    · exact exec_kept (.upd h)
    · exact exec_kept (.upd h)

theorem portTurn_kept (h : Kept w none s) : KeptOut w none (portTurn s) := by
  unfold portTurn
  refine .ite ?_ (.next h)
  dsimp only
  split
  · exact exec_kept h
  · exact .next (refuseRecord_kept h)

theorem eventTurn_kept {i : Instr} (h : Kept w none s) : KeptOut w none (eventTurn s i) := by
  unfold eventTurn
  dsimp only
  split
  · exact .ite (exec_kept (.upd h)) (.next (.upd h))
  · exact .ite (exec_kept (.upd h)) (.next (.upd h))
  · exact .ite (exec_kept (.upd h)) (.next (.upd h))

theorem takeTurn_kept {turn : Turn} (h : Kept w none s) : KeptOut w none (takeTurn s turn) := by
  unfold takeTurn
  split
  · exact crewTurn_kept h
  · exact millTurn_kept h
  · exact portTurn_kept h
  · exact eventTurn_kept h
  · exact .next (cellError_kept h)
  · exact .next (stuckAt_kept h)

theorem step_kept (h : Kept w none s) : KeptOut w none (step s) := by
  unfold step
  split
  · exact .next h
  · dsimp only
    split
    · rename_i t1 heq
      have h1 : Kept w none t1 := (takeTurn_kept (.upd h)).of_eq heq
      exact .next (sendLents_kept (.ite (keepWalks_kept (.upd h) h1) (settled_kept h1)))
    · exact takeTurn_kept (.upd h)

end Sys2Proof.Machine
end

/-! ### The memories stay canonical, and every event completes -/

section
namespace Sys2Proof.Machine
open Sys2Proof.Claims Sys2Proof.Config

/-- Settles O9: every function that gives a state keeps the memories canonical, by the rule of each write. -/
theorem stepsKeepMemoriesCanonical : Obligations.StepsKeepMemoriesCanonical := by
  intro s t hs ht
  have hkept : Kept true none s := ⟨fun _ => hs, nofun⟩
  exact (step_kept hkept t ht).wf

/-! #### NGUGRIM_RETRAIN_TIMEOUT ends the accesses that wait, and the retraining goes on (R417) -/

theorem kept_port (s : State) : Kept false (some s.port) s := ⟨nofun, by rintro _ ⟨⟩; rfl⟩

theorem Kept.port_eq {w : Bool} {q : Port} {s : State} (h : Kept w (some q) s) : s.port = q := h.2 q rfl

theorem ngugrimRetrainTimeout_completes {s : State} (h : s.port.retrain = true) : completes .ngugrimRetrainTimeout s fun t =>
    t.port.lost = false ∧ t.port.retrain = true := by
  have hi : exec .ngugrimRetrainTimeout s = execNgugrimRetrainTimeout s := rfl
  rw [execNgugrimRetrainTimeout, if_pos h] at hi
  refine completes_next hi ⟨rfl, ?_⟩
  have hends : Kept false (some s.port) ((s.crews.map (·.1)).foldl endTier2 s) :=
    (kept_port s).foldl fun _ _ ht => endTier2_kept ht
  have hengines (u : State) : (((u.cores.map (·.1)).foldl endEngines u).port) = u.port :=
    ((kept_port u).foldl fun _ _ ht => endEngines_kept ht).port_eq
  dsimp only [endWaits]
  rw [hengines, hends.port_eq]
  exact h

/-! #### The events of the Mills, the fabric, the leases, the Reeves and the package -/

theorem fabricAndPackageEventsComplete : FabricAndPackageEventsComplete := by
  intro s s1 n m bank row slot cl p peer lid reg0 nreg q tgt o e f g l w rest c u h x peak days limit hours status len deadline v r
    answers
  obtain ⟨hflit, -⟩ := flitsSlotsAndFrames s p f
  obtain ⟨-, htimeout, hdeadline, -⟩ := leasesMove s l peer lid reg0 nreg status deadline
  obtain ⟨htlbi, hicinv, hpreempt, -⟩ := reeveWordsComplete s cl slot w rest
  refine ⟨millWatchdog_completes, wheelSlot_completes, wheelRevolution_completes,
    fun z hz hw hr hs ha hb hrow => hostReservedService_completes hz hw hr hs ha hb hrow, patrolScrub_completes,
    fabricResponse_completes, fun hf => ⟨fun hacc hcmd he => completes_eq (execFabricTimeout_cmd hf hacc hcmd he),
      fun y hacc hc hy ht => completes_eq (execFabricTimeout_access hf hacc hc hy ht)⟩,
    fabricRequests_serve, physicalLentAccess_completes,
    fun hp hr hd hcrc hk hq => completes_eq ((hflit hp hr hd).2.1 hcrc hk hq), slotTick_completes, frameStart_completes,
    fun hg hw hm => completes_eq ((combiningWindows s n g q hg).2.1 hw hm), completes_eq rfl,
    leaseGrantMessage_completes, lentLease_answers, fun hl => completes_eq (htimeout hl),
    fun hl hd hb => completes_eq ((hdeadline hl).1 hd hb), borrowedLease_answers,
    fun ht hj hs => completes_eq (((htlbi ht).2 n hj).2 hs),
    fun ht hd hj => completes_eq ((hicinv ht hd).2 n hj), fun y ht hf => completes_eq (hpreempt y n s1 ht hf),
    fun y hruns hm hd hcl ht hf hw => haltWake_completes hruns hm hd hcl ht hf hw, hardwareError_completes,
    droopDetect_completes, droopRecover_completes, holdEntry_completes, holdExit_completes, orderlyStop_completes,
    ngugrimRetrainStart_completes, ngugrimRetrainEnd_completes, ngugrimRetrainTimeout_completes, linkRetrainStart_completes,
    fun hp hr => ⟨linkRetrainEnd_completes hr, linkDown_completes hp hr⟩, shockEvent_completes, energyStoreDepleted_completes,
    packageBoot_completes, wearUpdate_completes⟩

/-- Settles O60: each event by the lemma that says what it does in a state where its rule lets it happen. -/
theorem eventsComplete : Obligations.EventsComplete := ⟨dispatcherAndEngineEventsComplete, fabricAndPackageEventsComplete⟩

end Sys2Proof.Machine
end

/-! ### The turn of a step -/

section
namespace Sys2Proof.Machine
open Sys2Proof.Claims Sys2Proof.Config
variable {s t : State} {rest : List Turn}

/-- A step takes the first turn of its agenda. -/
theorem step_turn {turn : Turn} (h : s.agenda = turn :: rest) :
    step s = turnEnds { s with agenda := rest, balked := false } (takeTurn { s with agenda := rest, balked := false } turn) := by
  unfold step
  rw [h]
  dsimp only
  cases takeTurn { s with agenda := rest, balked := false } turn <;> rfl

theorem step_idle (h : s.agenda = []) : step s = .next s := by
  unfold step
  rw [h]

/-! #### The turn of a Mill -/

theorem millTurn_rests {m : Nat} (h : millRuns s m = false) : millTurn s m = .next s :=
  if_neg (by rw [h]; decide)

theorem millTurn_word {m : Nat} {w : BitVec 32} {i : Instr} (h : millRuns s m = true)
    (hw : millWordAt s m (millAt s m).pc = some w) (hd : decodeMill w = .ok i) :
    millTurn s m = exec i { s with cur := .mill m } := by
  have hw' : millWordAt { s with cur := .mill m } m (millAt { s with cur := .mill m } m).pc = some w := hw
  simp only [millTurn, if_pos h, hw', hd]

theorem millTurn_noWord {m : Nat} {w : BitVec 32} {e : Reject} (h : millRuns s m = true)
    (hw : millWordAt s m (millAt s m).pc = some w) (hd : decodeMill w = .error e) :
    millTurn s m = exec (.reservedMillWord w) { s with cur := .mill m } := by
  have hw' : millWordAt { s with cur := .mill m } m (millAt { s with cur := .mill m } m).pc = some w := hw
  simp only [millTurn, if_pos h, hw', hd]

theorem millTurn_pastEnd {m : Nat} (h : millRuns s m = true) (hw : millWordAt s m (millAt s m).pc = none) :
    millTurn s m = exec (.reservedMillWord 0) { s with cur := .mill m } := by
  have hw' : millWordAt { s with cur := .mill m } m (millAt { s with cur := .mill m } m).pc = none := hw
  simp only [millTurn, if_pos h, hw']

theorem millWordAt_of_bytes {m pc : Nat} {w : BitVec 32} (hpc : pc ≤ 0xFFFC)
    (hw : bytesValue (memRead s.code (m / 64 * 65536 + pc) 4) = w.toNat) : millWordAt s m pc = some w := by
  rw [millWordAt, if_pos hpc, codeKey, hw, BitVec.ofNat_toNat, BitVec.setWidth_eq]

theorem millWordAt_pastEnd {m pc : Nat} (hpc : 0xFFFC < pc) : millWordAt s m pc = none := if_neg (by omega)

theorem millAt_of_some {m : Nat} {v : MillState} (h : mapGet s.mills m = some v) : millAt s m = v := by
  rw [millAt, mapGetD, h]
  rfl

/-! #### The turn of the port, and the events -/

theorem portTurn_rests (h : portReady s = false) : portTurn s = .next s := if_neg (by rw [h]; decide)

theorem portTurn_command {i : Instr} (h : portReady s = true) (hd : decodeCommand (BitVec.ofNat 512 (headRecord s)) = .ok i) :
    portTurn s = exec i s := by
  unfold portTurn
  rw [if_pos h]
  dsimp only
  rw [hd]

theorem portTurn_refuses {e : Reject} (h : portReady s = true)
    (hd : decodeCommand (BitVec.ofNat 512 (headRecord s)) = .error e) :
    portTurn s = .next (refuseRecord s (BitVec.ofNat 32 (headRecord s))) := by
  unfold portTurn
  rw [if_pos h]
  dsimp only
  rw [hd]

theorem eventTurn_strikes {i : Instr} (h : isEvent i = true) (hm : ∀ k, i ≠ .msemwaitReread k) (hw : ∀ k, i ≠ .waitcReread k) :
    eventTurn s i = exec i { s with cur := .none } := by
  unfold eventTurn
  dsimp only
  split
  · exact absurd rfl (hm _)
  · exact absurd rfl (hw _)
  · exact if_pos h

/-! #### Stuck bits -/

theorem stuckSpad_one {key : Nat} {mask value : Byte} (h : s.spadStuck = [(key, (mask, value))]) :
    memGet (stuckSpad s) key = (memGet s.spad key &&& ~~~mask) ||| (value &&& mask) ∧
      ∀ x, x ≠ key → memGet (stuckSpad s) x = memGet s.spad x := by
  have hone : stuckSpad s = memSet s.spad key ((memGet s.spad key &&& ~~~mask) ||| (value &&& mask)) := by
    rw [stuckSpad, h]
    rfl
  rw [hone]
  exact ⟨memGet_memSet_same _ _ _, fun x hx => memGet_memSet_other _ _ hx⟩

/-- Settles O3: a step takes the first turn of its agenda, and each turn by its cases. -/
theorem otherTurnsRunTheirInstruction : Obligations.OtherTurnsRunTheirInstruction := by
  intro s rest m v w i s0 runs waits
  have hwaits (k : Nat) : waits k ↔ (othersMay { s0 with cur := .none } k || displacedWait { s0 with cur := .none } k) = true :=
    (Bool.or_eq_true _ _).symm.to_iff
  refine ⟨step_idle, fun ha hr => ?_, fun ha hr hv hpc hw => ?_, fun ha hr hv hpc => ?_, fun ha hp => ?_, fun ha hp => ⟨fun hd => ?_,
    fun e hd => ?_⟩, fun ha he hm hw => ?_, fun k ha => ⟨fun hw => ?_, fun hw => ?_⟩, fun k ha => ⟨fun hw => ?_, fun hw => ?_⟩,
    fun k e persists ha => ?_, fun key mask value ha => step_turn ha, fun t key mask value h => stuckSpad_one h⟩
  · rw [step_turn ha, takeTurn, millTurn_rests hr]
  · have hword : millWordAt s0 m (millAt s0 m).pc = some w := by
      rw [millAt_of_some (show mapGet s0.mills m = some v from hv)]
      exact millWordAt_of_bytes hpc hw
    refine ⟨fun hd => ?_, fun e hd => ?_⟩
    · dsimp only [runs]
      rw [step_turn ha, takeTurn, millTurn_word hr hword hd]
    · dsimp only [runs]
      rw [step_turn ha, takeTurn, millTurn_noWord hr hword hd]
  · have hword : millWordAt s0 m (millAt s0 m).pc = none := by
      rw [millAt_of_some (show mapGet s0.mills m = some v from hv)]
      exact millWordAt_pastEnd hpc
    dsimp only [runs]
    rw [step_turn ha, takeTurn, millTurn_pastEnd hr hword]
  · rw [step_turn ha, takeTurn, portTurn_rests hp]
  · dsimp only [runs]
    rw [step_turn ha, takeTurn, portTurn_command hp hd]
  · rw [step_turn ha, takeTurn, portTurn_refuses hp hd]
  · dsimp only [runs]
    rw [step_turn ha, takeTurn, eventTurn_strikes he hm hw]
  · dsimp only [runs]
    rw [step_turn ha, takeTurn, eventTurn]
    dsimp only
    rw [if_pos ((hwaits k).1 hw)]
  · rw [step_turn ha, takeTurn, eventTurn]
    dsimp only
    rw [if_neg (mt (hwaits k).2 hw)]
  · dsimp only [runs]
    rw [step_turn ha, takeTurn, eventTurn]
    dsimp only
    rw [if_pos ((hwaits k).1 hw)]
  · rw [step_turn ha, takeTurn, eventTurn]
    dsimp only
    rw [if_neg (mt (hwaits k).2 hw)]
  · rw [step_turn ha, takeTurn, cellError]

end Sys2Proof.Machine
end

/-! ### The turn of a crew -/

section
namespace Sys2Proof.Machine
open Sys2Proof.Claims Sys2Proof.Config
variable {s t u : State} {k m : Nat} {str : Stream} {c : Crew}

/-! #### The turn of a group with one due word -/

theorem crewTurn_rests (h : groupMay s k = false) : crewTurn s k = .next s := if_neg (by rw [h]; decide)

theorem crewTurn_idles (h : groupMay s k = true) (hd : dueWords s k = []) : crewTurn s k = exec (.idleCount k) s := by
  rw [crewTurn, if_pos h, hd]
  rfl

/-- The outcome of a clk from that of its only due word. -/
def clkOutcome (s : State) (k m : Nat) (str : Stream) : Out → Out
  | .next t => .next (endClk s t k m str)
  | o => o

theorem crewTurn_one (h : groupMay s k = true) (hd : dueWords s k = [(m, str)]) :
    crewTurn s k = clkOutcome s k m str (runDue s m str) := by
  rw [crewTurn, if_pos h, hd]
  dsimp only
  cases runDue s m str <;> rfl

theorem runDue_fetches (hc : crewAt s m = some c) (hf : (c.stream str).fetched = none) :
    runDue s m str = exec (.instructionFetchReturn m str) s := by
  have hi : exec (.instructionFetchReturn m str) s = execInstructionFetchReturn m str s := rfl
  rw [hi, runDue, hc]
  dsimp only
  rw [hf]

theorem runDue_word {w : Word} (hc : crewAt s m = some c) (hf : (c.stream str).fetched = some w) :
    runDue s m str = exec (wordInstr s m w) { s with cur := .crew m str } := by
  rw [runDue, hc]
  dsimp only
  rw [hf]

/-- The clk in which a word comes is a stall clk. -/
theorem verdict_fetching (hc : crewAt s m = some c) (hf : (c.stream str).fetched = none) : verdict s t m str ≠ .done := by
  rw [verdict, hc]
  split
  · next heq _ =>
    cases heq
    split
    · decide
    · rw [hf, Option.isNone_none, Bool.true_or, if_pos rfl]
      decide
  · decide

theorem crewTurn_fetches (h : groupMay s k = true) (hd : dueWords s k = [(m, str)]) (hc : crewAt s m = some c)
    (hf : (c.stream str).fetched = none) : crewTurn s k = exec (.instructionFetchReturn m str) s := by
  rw [crewTurn_one h hd, runDue_fetches hc hf]
  cases exec (.instructionFetchReturn m str) s with
  | next t => exact congrArg Host.Outcome.next (if_neg (verdict_fetching hc hf))
  | _ => rfl

/-! #### The instruction that a fetched word is -/

theorem wordInstr_ok {w : Word} {i : Instr} (hd : decodeWord w = .ok i) (hs : ∀ o, i ≠ .ctxsSnap o) (hl : ∀ o, i ≠ .ctxlInto o) :
    wordInstr s m w = i := by
  rw [wordInstr, hd]
  dsimp only [resolve]
  split
  · exact absurd rfl (hs _)
  · exact absurd rfl (hl _)
  · rfl

theorem wordInstr_ctxs {w : Word} {o : FmtA} (hc : crewAt s m = some c) (hd : decodeWord w = .ok (.ctxsSnap o)) :
    wordInstr s m w = if (readX s c 1 o.rb).getLsbD 0 then .ctxsOut o else .ctxsSnap o := by
  rw [wordInstr, hd]
  dsimp only [resolve]
  rw [hc]

theorem wordInstr_ctxl {w : Word} {o : FmtA} (hc : crewAt s m = some c) (hd : decodeWord w = .ok (.ctxlInto o)) :
    wordInstr s m w = if (readX s c 1 o.rb).getLsbD 0 then .ctxlResume o else .ctxlInto o := by
  rw [wordInstr, hd]
  dsimp only [resolve]
  rw [hc]

theorem wordInstr_error {w : Word} {e : Reject} (hd : decodeWord w = .error e) : wordInstr s m w = .reservedMajorWord w := by
  rw [wordInstr, hd]

/-! #### The turn of a group with two due words -/

theorem stillDue_of_mem {p : Nat × Stream} (h : p ∈ dueWords s k) : stillDue s p.1 p.2 = true := by
  unfold dueWords at h
  obtain ⟨m, -, hm⟩ := List.mem_flatMap.1 h
  obtain ⟨str, -, hstr⟩ := List.mem_filterMap.1 hm
  split at hstr
  · next hdue =>
    cases hstr
    exact hdue
  · cases hstr

theorem survey_done {p : Nat × Stream} {rest : List (Nat × Stream)} {l : List Tried} (hs : stillDue s p.1 p.2 = true)
    (hr : runDue s p.1 p.2 = .next t) (hv : verdict s t p.1 p.2 = .done) (ht : survey t rest = .ok (l, u)) :
    survey s (p :: rest) = .ok ({ verdict := .done, free := s.free, slot := p.1, str := p.2 } :: l, u) := by
  rw [survey, if_neg (by rw [hs]; decide)]
  simp only [hr, hv, if_true, ht]

theorem survey_gone {p : Nat × Stream} {rest : List (Nat × Stream)} (hs : stillDue s p.1 p.2 = false) :
    survey s (p :: rest) = survey s rest := by
  rw [survey, if_pos (by rw [hs]; decide)]

theorem crewTurn_several {p q : Nat × Stream} (h : groupMay s k = true) (hd : dueWords s k = [p, q]) :
    crewTurn s k = issueAll s k [p, q] := by
  rw [crewTurn, if_pos h, hd]

/-- Where all words tried in the order of their clk complete, the count passes. -/
theorem issueAll_done {due : List (Nat × Stream)} {l : List Tried} (hs : survey s (issueOrder s due) = .ok (l, u))
    (hl : ∀ q ∈ l, q.verdict = .done) : issueAll s k due = .next (passCount u k) := by
  have hstall : l.filter (·.verdict = .stalled) = [] := by
    rw [List.filter_eq_nil_iff]
    intro q hq
    rw [hl q hq]
    decide
  have htrap : l.any (·.verdict = .trapped) = false := by
    rw [List.any_eq_false]
    intro q hq
    rw [hl q hq]
    decide
  rw [issueAll, hs]
  dsimp only
  rw [hstall, htrap]
  rfl

theorem issueOrder_kept {due : List (Nat × Stream)} {l : List Tried} (hs : survey s due = .ok (l, u))
    (hl : l.length = due.length) : issueOrder s due = due := by
  rw [issueOrder, hs]
  exact if_pos hl

theorem issueOrder_cancelLast {due : List (Nat × Stream)} {l : List Tried} (hs : survey s due = .ok (l, u))
    (hl : l.length ≠ due.length) : issueOrder s due = due.filter (!cancels s ·) ++ due.filter (cancels s) := by
  rw [issueOrder, hs]
  exact if_neg hl

theorem survey_two {p q : Nat × Stream} (hp : stillDue s p.1 p.2 = true) (hr : runDue s p.1 p.2 = .next t)
    (hv : verdict s t p.1 p.2 = .done) (hq : stillDue t q.1 q.2 = true) (hr' : runDue t q.1 q.2 = .next u)
    (hv' : verdict t u q.1 q.2 = .done) : survey s [p, q] = .ok
      ([{ verdict := .done, free := s.free, slot := p.1, str := p.2 },
        { verdict := .done, free := t.free, slot := q.1, str := q.2 }], u) :=
  survey_done hp hr hv (survey_done hq hr' hv' rfl)

theorem crewTurn_two {p q : Nat × Stream} (h : groupMay s k = true) (hd : dueWords s k = [p, q])
    (hr : runDue s p.1 p.2 = .next t) (hv : verdict s t p.1 p.2 = .done) (hq : stillDue t q.1 q.2 = true)
    (hr' : runDue t q.1 q.2 = .next u) (hv' : verdict t u q.1 q.2 = .done) : crewTurn s k = .next (passCount u k) := by
  have hp : stillDue s p.1 p.2 = true := stillDue_of_mem (k := k) (by simp [hd])
  have hs := survey_two hp hr hv hq hr' hv'
  rw [crewTurn_several h hd]
  refine issueAll_done (l := _) ((issueOrder_kept hs rfl).symm ▸ hs) ?_
  simp

theorem crewTurn_cancelLast {p q : Nat × Stream} {t' : State} (h : groupMay s k = true) (hd : dueWords s k = [p, q])
    (hcp : cancels s p = true) (hcq : cancels s q = false) (hr : runDue s p.1 p.2 = .next t) (hv : verdict s t p.1 p.2 = .done)
    (hgone : stillDue t q.1 q.2 = false) (hr' : runDue s q.1 q.2 = .next t') (hv' : verdict s t' q.1 q.2 = .done)
    (hp : stillDue t' p.1 p.2 = true) (hr'' : runDue t' p.1 p.2 = .next u) (hv'' : verdict t' u p.1 p.2 = .done) :
    crewTurn s k = .next (passCount u k) := by
  have hps : stillDue s p.1 p.2 = true := stillDue_of_mem (k := k) (by simp [hd])
  have hqs : stillDue s q.1 q.2 = true := stillDue_of_mem (k := k) (by simp [hd])
  have hfirst := survey_done (rest := [q]) hps hr hv ((survey_gone hgone).trans rfl)
  have horder : issueOrder s [p, q] = [q, p] := by
    rw [issueOrder_cancelLast hfirst (by simp)]
    simp [hcp, hcq]
  have hs := survey_two hqs hr' hv' hp hr'' hv''
  rw [crewTurn_several h hd]
  refine issueAll_done (l := _) (horder.symm ▸ hs) ?_
  simp

/-- Settles O2: a crew's turn by the number of the words that are due in it, and a word by what it decodes to. -/
theorem crewTurnsRunTheDueWord : Obligations.CrewTurnsRunTheDueWord := by
  intro s rest k m str c ha s0 clk
  have hstep : step s = turnEnds s0 (crewTurn s0 k) := step_turn ha
  refine ⟨fun h => ?_, fun h hd => ?_, fun h hd hc => ⟨fun hf => ?_, fun w i hf hi => ⟨fun hs hl => ?_, fun o ho => ?_,
    fun o ho => ?_⟩, fun w e hf he => ?_⟩, fun p q t u h hd hr hv hq hr' hv' => ?_,
    fun p q t t' u h hd hcp hcq hr hv hgone hr' hv' hp hr'' hv'' => ?_⟩
  · rw [hstep, crewTurn_rests h]
  · rw [hstep, crewTurn_idles h hd]
  · rw [hstep, crewTurn_fetches h hd hc hf]
  · rw [hstep, crewTurn_one h hd, runDue_word hc hf, wordInstr_ok hi hs hl]
    rfl
  · rw [hstep, crewTurn_one h hd, runDue_word hc hf, wordInstr_ctxs hc (ho ▸ hi)]
    rfl
  · rw [hstep, crewTurn_one h hd, runDue_word hc hf, wordInstr_ctxl hc (ho ▸ hi)]
    rfl
  · rw [hstep, crewTurn_one h hd, runDue_word hc hf, wordInstr_error he]
    rfl
  · rw [hstep, crewTurn_two h hd hr hv hq hr' hv']
  · rw [hstep, crewTurn_cancelLast h hd hcp hcq hr hv hgone hr' hv' hp hr'' hv'']

end Sys2Proof.Machine
end
